-- ==== Sys2Proof/Word.lean ====
section
/-!
DEFINITION. Word.lean: the word types of the management address space (R13: every register is 64 bits wide).
-/
namespace Sys2Proof

/-- One 64-bit register or window word. -/
abbrev Word := BitVec 64

/-- One byte of a memory, of a frame or of a message. -/
abbrev Byte := BitVec 8

end Sys2Proof
end

