-- ==== Sys2Proof/Config.lean ====
section
/-!
DEFINITION. Config.lean: the four variants of R1 and what each one fits (R524), and the free values: values which the
spec leaves open, as opaque constants that nothing can evaluate.
-/
namespace Sys2Proof

/-- The variants of R1. -/
inductive Variant where
  | gt9840 | gt9830 | gt9820 | gt9810
  deriving DecidableEq, Repr

/-- SYS_ID.VARIANT coding (SYS_ID, PAIR_TWIN). -/
def Variant.code : Variant → Nat
  | .gt9840 => 0
  | .gt9830 => 1
  | .gt9820 => 2
  | .gt9810 => 3

/-- SYS_UNITS of each variant (R524). -/
def Config.sysUnits : Variant → Nat
  | .gt9840 => 0x0000007FFFFF40FF
  | .gt9830 => 0x00000077FFFF40FF
  | .gt9820 => 0x0000007BFF0F200F
  | .gt9810 => 0x000000C90F001003

/-- SYS_ID of each variant at stepping B0. -/
def Config.sysId : Variant → Nat
  | .gt9840 => 0x00004D4C01009840
  | .gt9830 => 0x00004D4C01019830
  | .gt9820 => 0x00004D4C01029820
  | .gt9810 => 0x00004D4C01039810

/-- Free value: the k-th draw from the device's random bit generators (R279 to R282), 256 bits. -/
opaque Config.draw : Nat → Nat

/-- Free values: where the PMA's bit multiplexer puts a PCS or FEC lane, which IEEE 802.3 leaves open (R156): of 50GBASE-R (3) the order of
the two FEC lanes, of 400GBASE-R (5) the physical lane × 4 and the order on it of each of the 16 PCS lanes. -/
opaque Config.pmaPlace : Nat → Nat → Nat

/-- Free value: the fixed part of a lane's transmit or receive latency in a mode, 2^-16 ns, as the vendor OTP area holds it (R78). -/
opaque Config.otpLatency : Bool → Nat → Nat → Nat

/-- Free value: the syndrome a domain reports for two flipped bits (ECC_LOG_ADDR). -/
opaque Config.eccSyndrome : Nat → Nat → Nat → Nat

/-- Free values: the word address in ED9 of word `i` of key `k`, and the address of a word's other copy (R466). -/
opaque Config.keyWord : Nat → Nat → Nat
opaque Config.keyTwin : Nat → Nat

/-- Free value: entries a punt ring holds (R149). -/
opaque Config.puntCapacity : Nat → Nat

/-- Free value: what a search of an LPM copy finds whose bytes were written through the window, by table, generation and
key (R135). -/
opaque Config.lpmAny : Nat → Nat → Nat → Nat

/-- Free values of firmware's GNSS processing, whose results the spec does not state: is a satellite (system, number) predicted visible at a
TSU second from the navigation data held (R303); the broadcast ionosphere delay of a satellite's range in 2^-16 ns (R305); the estimated and
the broadcast offset of a system in 2^-16 ns (R309). -/
opaque Config.satVisible : Nat → Nat → Nat → List (List Byte) → Bool
opaque Config.ionoDelay : Nat → Nat → Nat → List (List Byte) → Int
opaque Config.isbEstimate : Nat → Nat → List (Nat × Nat × Int) → Int
opaque Config.isbBroadcast : Nat → List (List Byte) → Int

/-- Free value: are these TOPO legs of a bank, each its FIRST and its body, the stock Topo (R414)? The spec gives the stock Topos as
behaviour and no image of them. -/
opaque Config.stockTopo : List (Nat × List Byte) → Bool

/-- Free value: sector size of the flash fitted, as its SFDP tables report it (R398). -/
opaque Config.flashSector : Nat

/-- Free values: firmware ROM version (R400, R414) and firmware major version (R375) of the part. -/
opaque Config.romVersion : Nat
opaque Config.fwMajor : Nat

end Sys2Proof
end

