-- ==== Sys2Proof/Syntax.lean ====
section
/-!
DEFINITION. Syntax.lean: the commands of the block: register accesses, events at the pins and lanes, ends of timers and
measurements, and the messages of the Harness, with what each carries. What the device measures or chooses freely (a
frame-buffer address, a tap count) is an operand of the command that reports it.
-/
namespace Sys2Proof

/-- Bus initiators (R53, R526): the control cores 0 to 23, PCIe, HSPI and JTAG; `harness` is the control core that executes
Harness commands on behalf of a session (R113, R440). -/
inductive Initiator where
  | core (n : Fin 24)
  | pcie
  | hspi
  | jtag
  | harness
  deriving DecidableEq, Repr

/-- What a host writes to set up a mailbox ring (R454): request and response bases, entries, ENABLE. -/
structure RingSetup where
  reqBase : Nat
  rspBase : Nat
  size : Nat
  enable : Bool
  deriving DecidableEq, Repr

/-- An interval by the TIC between the last edge before the reference and it (R48, R289): ROOT periods, tap count and the two calibration
counts. -/
structure EdgeInterval where
  roots : Nat
  k : Nat
  k1 : Nat
  k2 : Nat
  deriving DecidableEq, Repr

/-- What had come of a frame whose reception ends: its bytes, the lane, word and tap of its start, and the frame-buffer address given it. -/
structure PartFrame where
  bytes : List Byte
  lane : Nat
  tw : Nat
  k : Nat
  addr : Nat
  deriving DecidableEq, Repr

/-- What a lane calibration measured (R78): 256 phases in ps, and the slip of the receive side. -/
structure LaneMeasure where
  phases : List Int
  slip : Nat
  deriving DecidableEq, Repr

/-- The commands: one constructor per row of the opcode table. Those with operands
come first: Lean's compiler builds no object of a constructor numbered above 244. -/
inductive Instr where
  /-- A write to a register that has no row of its own is applied under the access types of R13, or ignored as a whole with a Cairn entry when out of range, RWL-locked or refused by role (R527). -/
  | registerWrite (ini : Initiator) (addr : Nat) (v : Word)
  /-- An access to a register of an absent unit reads zero or is ignored, and sets the sticky bit SYS_ABSENT_ACCESS with its cause, initiator and address (R4). -/
  | absentAccess (ini : Initiator) (write : Bool) (addr : Nat)
  /-- An access narrower than 64 bits, or unaligned, reads zero or is ignored and sets SYS_ABSENT_ACCESS with cause NARROW (R17). -/
  | narrowAccess (ini : Initiator) (write : Bool) (addr : Nat)
  /-- An access outside every block span and memory window reads zero, ignores writes and sets SYS_ABSENT_ACCESS with cause UNMAPPED (R520). -/
  | unmappedAccess (ini : Initiator) (write : Bool) (addr : Nat)
  /-- A write to a read-only memory window is ignored and makes a Cairn WRITE_IGNORED entry (R522). -/
  | readOnlyWindowWrite (ini : Initiator) (addr : Nat) (v : Word)
  /-- A write of TSU_INC_NOM sets the nominal increment, or is ignored outside ±1,000 ppm (R41). -/
  | tsuIncNomWrite (ini : Initiator) (v : Word)
  /-- A write of TSU_FREQ_ADJ by an allowed writer sets the steering value, and a Harness write outside FREE_RUN is refused (R42). -/
  | tsuFreqAdjWrite (ini : Initiator) (v : Word)
  /-- A write of TSU_SLEW_REQ adds its amount to TSU_SLEW_REMAIN, or is ignored while the TSU is UNSET (R43). -/
  | tsuSlewReqWrite (ini : Initiator) (v : Word)
  /-- A write of TSU_SLEW_LIMIT sets the maximum slew rate from the next increment edge, or is ignored out of range (R45). -/
  | tsuSlewLimitWrite (ini : Initiator) (v : Word)
  /-- A write of TSU_SET_CTL.ARM arms the initial set from the writing initiator's copy, or is ignored when a set is armed or done (R47). -/
  | tsuSetArm (ini : Initiator) (v : Word)
  /-- A write of TSU_SET_CTL.CANCEL disarms an armed set and leaves the TSU UNSET (R51). -/
  | tsuSetCancel (ini : Initiator) (v : Word)
  /-- On the armed set edge the TSU and every local counter load the set value, the bound takes TSU_SET_BOUND and the state becomes SET (R49). -/
  | setEdge (interval : EdgeInterval)
  /-- A read of TSU_NOW_LO captures the whole TSU state consistently into the reading initiator's capture shadow (R53). -/
  | tsuNowLoRead (ini : Initiator)
  /-- A write of TSU_LEAP_PENDING schedules or cancels a leap, or is ignored when TSU_LEAP_SEC is too near (R57). -/
  | tsuLeapPendingWrite (ini : Initiator) (v : Word)
  /-- On every 1 ms compare tick each local counter is compared with the TSU, the bound grows and pending delay adjustments apply (R24). -/
  | compareTick (diffs : List (Nat × Int))
  /-- A write of PORTn_MODE sets the group mode before S9 or changes ENABLE, starting calibration or stopping grants on the port (R66). -/
  | portModeWrite (ini : Initiator) (port : Nat) (v : Word)
  /-- At the first reference boundary after ENABLE is cleared, reception stops on each lane and a partly received frame is discarded as CODE (R66). -/
  | receptionStop (port : Nat) (part : PartFrame)
  /-- After the last planned frame has crossed the ball, the lanes of a disabled port power down and go electrically idle (R66). -/
  | lanePowerDown (port : Nat)
  /-- A received frame is checked by the MAC, stamped, pre-classified and queued for dispatch or discarded (R67). -/
  | frameReceive (port : Nat) (bytes : List Byte) (code : Bool) (lane tw k : Nat) (rate : Int) (fecSym fecUe addr : Nat)
  /-- A measured far-end rate beyond 200 ppm clears RX_CAL_VALID, and its fall below 150 ppm starts a receive calibration (R73). -/
  | rxRateExcursion (port : Nat) (rate : Int)
  /-- A write of PORTn_TX_DELAY_ADJ or RX_DELAY_ADJ sets the plane adjustment from the next compare tick, or is ignored out of range (R75). -/
  | delayAdjWrite (ini : Initiator) (port : Nat) (tx : Bool) (v : Word)
  /-- A relock of a lane's TX PLL starts transmit and receive calibration of the lane (R77). -/
  | txPllRelock (lane : Nat)
  /-- A lane regaining codeword or block lock sets LINK, counts RELOCK and starts receive calibration (R77). -/
  | rxLockGain (lane : Nat) (fault : Bool)
  /-- Loss of receive lock clears LINK and RX_CAL_VALID, discards a partial frame and signals remote fault (R81). -/
  | rxLockLoss (lane : Nat) (part : PartFrame)
  /-- A write of PORTn_CAL_CTL.RECAL starts transmit and receive calibration of the lane (R77). -/
  | portCalRecal (ini : Initiator) (port : Nat)
  /-- A calibrated side completes: its valid bit sets, CAL_COUNT increments and PORTn_CAL is raised (R78). -/
  | calSideComplete (lane : Nat) (tx : Bool) (lat : LaneMeasure) (tcw am : Nat)
  /-- A calibration step rejected a third time sets CAL_FAILED, raises PORTn_CAL, makes a Cairn entry and leaves the port out of service (R79). -/
  | calSideFail (lane : Nat) (tx : Bool)
  /-- The Harness Rest command, in SERVICE with pair role SOLO or PARTED, stops reception and begins entry into Rest (R82). -/
  | restEnter (tid msg : List Byte)
  /-- A management frame matching the wake pattern starts the Rest exit, or is counted in WAKE_SEEN or WAKE_BADCODE (R84). -/
  | wakeFrame (bytes : List Byte)
  /-- The Harness Rest-exit command starts the exit from Rest (R85). -/
  | restExit (tid msg : List Byte)
  /-- A frame injected by the control cores or the host is queued at Trailhead 8, or refused when the queue is full (R90). -/
  | injection (port : Nat) (tag : Word) (addr : Nat) (bytes : List Byte)
  /-- NOP clears the sticky flags named in its clear mask (R126). -/
  | nop (e c : Nat)
  /-- IMM writes its immediate to a work register (R126). -/
  | imm (e c : Nat)
  /-- LOAD reads a bit field from an anchored memory reference into a work register and sets Z (R127). -/
  | load (e c : Nat)
  /-- STORE writes a bit field from a work register or the immediate to an anchored memory reference (R127). -/
  | store (e c : Nat)
  /-- COPY copies LEN bytes between memory references, reading all source bytes first (R128). -/
  | copy (e c : Nat)
  /-- SETA sets an anchor to a base plus offset, optionally plus a work register (R129). -/
  | seta (e c : Nat)
  /-- ALU computes its selected operation on two operands and sets Z, C and LT (R130). -/
  | alu (e c : Nat)
  /-- TESTB sets BIT from a work register tested against the immediate (R131). -/
  | testb (e c : Nat)
  /-- LOOKUP searches a table in its live copy and writes the result words or DEFAULT, setting HIT (R133). -/
  | lookup (e c : Nat)
  /-- SKETCH adds to the four hashed sketch counters, writes the estimate and sets OVER above the threshold (R136). -/
  | sketch (e c : Nat)
  /-- COUNT adds an amount to a Topo counter exactly once (R132). -/
  | count (e c : Nat)
  /-- STAMP writes an ingress, launch, current or reference time in the selected format and sets Z while the TSU is UNSET (R137). -/
  | stamp (e c : Nat)
  /-- SLOT asks a port's gate for the earliest guaranteed departure slot in the lead and window, or sets LATE (R140). -/
  | slot (e c : Nat)
  /-- QUALITY takes one reading of the bound and servo state and writes the quality fields of its form (R141). -/
  | quality (e c : Nat)
  /-- SEAL performs AES-SIV seal or open, CMAC or ECB on memory references under the selected key (R144). -/
  | seal (e c : Nat)
  /-- CSUM accumulates, finalises or verifies an Internet ones'-complement checksum over a range (R146). -/
  | csum (e c : Nat)
  /-- EMIT hands the build buffer to the gate against its slot or for free emission and ends the run (R147). -/
  | emit (e c : Nat)
  /-- RELAY sends the received frame out of a port as a free emission, optionally with correction (R148). -/
  | relay (e c : Nat)
  /-- PUNT places the descriptor, frame, tag and W0 on a punt ring for the control cores or host DMA (R149). -/
  | punt (e c : Nat)
  /-- DROP ends the run with a reason code and counts it (R150). -/
  | drop (e c : Nat)
  /-- CALL pushes NEXT_F as return index and continues at NEXT_T (R152). -/
  | call (e c : Nat)
  /-- RET takes its successor from the call stack (R152). -/
  | ret (e c : Nat)
  /-- TRAP halts its context when TRAP_HALT is 1, or ends the run as DROP TRAP, raising PE_TRAP (R117). -/
  | trap (e c : Nat)
  /-- When a Pitch's results are complete its COND selects NEXT_T or NEXT_F as the next Pitch, or finishes the run (R98). -/
  | successor (e c : Nat)
  /-- A write of PE_CTX_SNAP.GO requests a snapshot of the selected context and clears DONE (R116). -/
  | peCtxSnapGo (ini : Initiator)
  /-- A write of PE_CTX_SNAP.RESUME to a halted context ends its run as DROP TRAP (R117). -/
  | peCtxSnapResume (ini : Initiator)
  /-- A Topo window write stages words 0 to 2 of a Pitch per initiator and commits the whole Pitch on word 3, or is ignored (R113). -/
  | topoWindowWrite (ini : Initiator) (off : Nat) (v : Word)
  /-- A write of TOPO_SWAP_CTL.GO requests a bank swap, closing both banks to writes (R114). -/
  | topoSwapCtlGo (ini : Initiator) (gen : Bool)
  /-- A write of TOPO_TBLn_Gg_CFG validates the descriptor copy (R109). -/
  | topoTblCfgWrite (ini : Initiator) (table gen : Nat) (v : Word)
  /-- A write of TOPO_TBL_GEN flips table generations for later dispatches and starts a drain (R112). -/
  | topoTblGenWrite (ini : Initiator) (v : Word)
  /-- A table-store window write takes effect, or is ignored when it covers a live or draining copy (R110). -/
  | tableStoreWrite (ini : Initiator) (off : Nat) (v : Word)
  /-- On a slot's setup deadline tick the gate commits the emitted frame to its booked blocks, or leaves them idle (R165). -/
  | setupDeadline (port q : Nat)
  /-- A committed frame's start block enters the PCS so that its timestamp point crosses the plane at its planned instant (R157). -/
  | startBlockEntry (port q : Nat)
  /-- The gate places the head frame of the highest-priority free queue at the earliest free position after GATE_SETUP (R171). -/
  | freePlacement (port : Nat)
  /-- A frame that waits in a free queue longer than GATE_FREE_MAX is discarded (R171). -/
  | freeQueueTimeout (port cls : Nat)
  /-- Within 1 µs of a REPORT frame's crossing the gate reports its planned crossing, or its withholding, to the scheduler and firmware (R239). -/
  | launchReport (port : Nat)
  /-- A write of GATE_LEAD, GATE_WINDOW, GATE_SETUP or GATE_SHARE applies to later SLOTs, or is ignored out of range (R164). -/
  | gateConfigWrite (ini : Initiator) (k : Nat) (v : Word)
  /-- At KEEP periods after its start a key's slot is zeroed and becomes EMPTY (R196). -/
  | keyExpiry (n : Nat)
  /-- A write of SVC_KEY_CTL.ROTATE under RANDOM makes the NEXT key CURRENT at once and generates a new NEXT key (R197). -/
  | svcKeyCtlRotate (ini : Initiator)
  /-- A write of SVC_KEY_CTL.REVOKE empties the slot of the named KEY_ID at once (R197). -/
  | svcKeyCtlRevoke (ini : Initiator) (kid : Nat)
  /-- A punted SYN to the NTS-KE port is answered with a stateless SYN-ACK carrying a SYN cookie (R210). -/
  | keSyn (ring : Nat)
  /-- An ACK completing a TCP handshake creates a connection, or is answered with RST when admission refuses it (R211). -/
  | keHandshakeAck (ring : Nat)
  /-- A ClientHello is negotiated under the TLS subset, an identity is chosen and BNU key jobs are queued (R213). -/
  | keClientHello (ring : Nat)
  /-- A verified client Finished and NTS-KE request are answered with records and cookies, close_notify and FIN (R218). The
  segment's own bytes tell all of it: the operands of type Unit carry nothing. -/
  | keClientFinished (ring : Nat) (ok req c2s s2c : Unit)
  /-- An alert received from the client frees the connection at once (R223). -/
  | keAlertRx (ring : Nat)
  /-- A received KeyUpdate updates the connection's receive keys (R213). -/
  | keKeyUpdate (ring : Nat)
  /-- The peer's FIN during linger frees the connection (R212). -/
  | kePeerFin (ring : Nat)
  /-- Expiry of the handshake timer resets the connection and aborts its BNU jobs (R212). -/
  | keHsTimeout (conn : Nat)
  /-- GATE_LEAD before a stream's nominal instant the scheduler injects its record at Trailhead 9, or skips it (R236). -/
  | ptpTxInject (kind inst port : Nat) (gidx : Option Nat) (j : Nat)
  /-- A grant ends at its expiry without a message (R247). -/
  | grantExpiry (gidx kind : Nat)
  /-- A grant entry with no remaining grant is freed 1 s later and its index may be reused (R247). -/
  | grantEntryFree (gidx : Nat)
  /-- The Harness PTP_CANCEL command ends a grant and sends CANCEL_UNICAST_TRANSMISSION (R247). -/
  | ptpCancel (tid msg : List Byte)
  /-- No Announce from the chosen master for ANN_TIMEOUT intervals is a loss of activity on the slot (R252). -/
  | annTimeout (n : Nat)
  /-- A punted Sync or Follow_Up from the upstream delivers an offset to the packet reference slot (R251). -/
  | upstreamSyncRx (fu : Bool)
  /-- A punted Delay_Resp or Pdelay_Resp is paired with its report to compute path or link delay (R244). -/
  | delayAnswerRx (kind : Nat)
  /-- A write to BNU operand memory makes the slot FULL, or is ignored for a BUSY slot (R260). -/
  | bnuWindowWrite (ini : Initiator) (n off : Nat) (v : Word)
  /-- A write of BNU_SLOT_WORDS on an idle unit sets the slot length and empties every slot (R261). -/
  | bnuSlotWordsWrite (ini : Initiator) (n : Nat) (v : Word)
  /-- A write of BNU_SUBMIT.GO checks the staged descriptor and queues the job, or posts an early refusal (R265). -/
  | bnuSubmitGo (ini : Initiator) (n : Nat)
  /-- When the unit is free it starts or resumes the next job by class and runs validation (R266). -/
  | bnuJobStart (n : Nat)
  /-- A job ends and posts its completion word with status to the completion FIFO (R275). -/
  | bnuJobComplete (n fault : Nat)
  /-- A write of BNU_ABORT.GO aborts the uncompleted job with the given TAG (R272). -/
  | bnuAbortGo (ini : Initiator) (n tag : Nat)
  /-- A write of BNU_CTL.ABORT_ALL aborts every job of the unit (R272). -/
  | bnuCtlAbortAll (ini : Initiator) (n : Nat)
  /-- A Custodian write of BNU_CTL.SELFTEST on an idle unit starts its self-test (R277). -/
  | bnuCtlSelftest (ini : Initiator) (n : Nat)
  /-- A self-test ends within 2 ms, setting ONLINE on a pass or leaving the unit offline on a failure (R277). -/
  | bnuSelftestDone (n : Nat) (pass : Bool)
  /-- A write of BNU_CTL.OWNER on an idle unit gives it to the host or to firmware (R278). -/
  | bnuCtlOwnerWrite (ini : Initiator) (n : Nat) (host : Bool)
  /-- A read of BNU_CPL pops the head completion word (R274). -/
  | bnuCplRead (ini : Initiator) (n : Nat)
  /-- Each 1,024 health-tested raw bits are conditioned with SHA-256 into 256 bits of full entropy (R279). -/
  | esBlock (raw : List Byte)
  /-- A Custodian write of BNU_ES_CTL.RESTART restarts a FAILED entropy source (R280). -/
  | bnuEsCtlRestart (ini : Initiator)
  /-- A read of BNU_RAND makes one 8-byte generate call of the reading core's cluster instance, or returns zero and sets STALE (R282). -/
  | bnuRandRead (ini : Initiator)
  /-- A prescaled input edge at an armed engine is measured by the interpolator and may complete a result (R286). -/
  | ticEdge (ch : Nat) (stop : Bool) (root t k k1 k2 : Nat)
  /-- An interval with no stop edge within TIMEOUT_US posts a TIMEOUT result (R290). -/
  | ticTimeout (ch : Nat)
  /-- A write of TIC_CHn_CTL.ARM arms or restarts a measurement (R293). -/
  | ticCtlArm (ini : Initiator) (ch : Nat) (v : Word)
  /-- A write of TIC_CHn_CTL or SRC aborts the measurement and re-arms under the new values, or is ignored for a firmware channel (R293). -/
  | ticConfigWrite (ini : Initiator) (ch : Nat) (src : Bool) (v : Word)
  /-- A read of TIC_CHn_RES0 pops the head result into the reader's result shadow (R294). -/
  | ticRes0Read (ini : Initiator) (ch : Nat)
  /-- FE_WAKE_MS after GSP_PWR_EN rises the GSPI script runs and the device waits for GSP_VALID (R301). -/
  | gnssFeScript (reads : List (List Byte)) (rose : Bool)
  /-- After a front-end fault the script is retried after 1 s, 10 s and then every 60 s (R301). -/
  | gnssFeRetry (reads : List (List Byte)) (rose : Bool)
  /-- GSP_VALID going low zeroes samples and interrupts coherent integration (R301). -/
  | gspValidFall (back : Option Nat)
  /-- A filled acquisition buffer is replayed through the correlator for a batch of search cells (R303). -/
  | gnssAcqBatch (cells : Nat) (found : List (Nat × Nat × Nat × Nat))
  /-- A channel with low C/N0 for 2 s or failed phase lock for 1 s returns to IDLE and requests reacquisition (R305). -/
  | gnssChannelLoss (ch : Nat)
  /-- At each measurement instant every tracking channel reports its interpolated measurements (R305). -/
  | gnssMeasEpoch (t : Nat) (reports : List (Nat × Int × Int × Int × Nat × Nat))
  /-- A decoded navigation message unit produces one record in the navigation ring (R307). -/
  | gnssNavUnit (t sys sig sv ch nbits check flags ok cn0 : Nat) (bits : List Byte) (utc : Option (Int × Nat × Int))
  /-- Firmware forms the solution of a TSU second, tests it for jumps and delivers it as a REF8 sample (R308). -/
  | gnssSolution (sec : Nat) (dAll d : Int) (sigma : Nat) (residuals : List (Nat × Nat × Int)) (systems : List (Nat × Int)) (posErr : Nat)
  /-- The survey ends, writes the position and switches to time-only solutions (R310). -/
  | gnssSurveyDone (x y z : Int) (sd : Nat)
  /-- A Custodian write of GNSS_SURVEY.RESTART starts a new survey (R310). -/
  | gnssSurveyRestart (ini : Initiator)
  /-- A Custodian write of GNSS_CTL.ACCEPT accepts a refused jump, or is refused while JUMP is 0 (R317). -/
  | gnssCtlAccept (ini : Initiator)
  /-- 500 ms before each second a time-pulse message is posted and GNSS_TP is raised (R312). -/
  | gnssTp (sec : Nat) (qerr : Int)
  /-- A write of GNSS_SNAP_CTL.ARM arms a snapshot, or refuses it as LATE or BUSY (R313). -/
  | gnssSnapCtlArm (ini : Initiator) (v : Word)
  /-- A write of GNSS_SNAP_CTL.RELEASE frees an exported snapshot buffer (R313). -/
  | gnssSnapCtlRelease (ini : Initiator)
  /-- Capture begins at the first sample whose tag is at or after the armed start or trigger (R313). -/
  | gnssSnapCaptureStart (edge : Nat)
  /-- A snapshot completes its capture, is held or processed locally, and raises GNSS_SNAP_DONE (R313). -/
  | gnssSnapDone (data : List Byte) (sats : Nat)
  /-- A reference sample reaches its slot and is tested against the prediction, accepted or refused (R336). -/
  | refSample (n t xo : Nat) (off : Int) (q rtt : Nat) (old : Bool)
  /-- Missing expected edges or samples take a slot's activity away on the tick of detection (R321). -/
  | refActivityLoss (n : Nat)
  /-- A write of REFS_CTL sets the selection mode and triggers selection, deferred during a switch (R333). -/
  | refsCtlWrite (ini : Initiator) (v : Word)
  /-- A write of REFS_SLOTn_CFG.ENABLE disables a slot or starts its qualification (R326). -/
  | refSlotEnableWrite (ini : Initiator) (n : Nat) (v : Word)
  /-- A Custodian write of REFS_CMD.ACCEPT_JUMP accepts a slot's refused offset (R337). -/
  | refsCmdAcceptJump (ini : Initiator) (n : Nat)
  /-- A Custodian write of REFS_CMD.LOCKOUT locks a slot out, deselecting it (R341). -/
  | refsCmdLockout (ini : Initiator) (n : Nat)
  /-- A Custodian write of REFS_CMD.UNLOCK returns a locked-out slot to QUALIFYING (R341). -/
  | refsCmdUnlock (ini : Initiator) (n : Nat)
  /-- Every 2^POLL_LOG s firmware sends an NTS-protected poll to the upstream of an NTS slot (R339). -/
  | ntsUpstreamPoll (n : Nat)
  /-- A poll unanswered within 1 s counts as missed (R339). -/
  | ntsPollTimeout (n : Nat)
  /-- A time-of-day message labels a REFIN pulse for REF18 or REF19, or is ignored and counted in REFS_TOD_BAD (R340). -/
  | todMessage (k : Nat) (bytes : List Byte) (framed : Bool) (tEnd : Nat) (pulse : Option (Nat × Nat))
  /-- A write of OUTn_CTL.ENABLE starts an output at its next origin, or lets a pulse complete and holds it low (R363). -/
  | outCtlEnableWrite (ini : Initiator) (n : Nat) (v : Word)
  /-- A PLL-path output's clean-up PLL locks and the output starts driving (R360). -/
  | outPllLock (n : Nat)
  /-- Loss of the clean-up PLL lock squelches the output until lock returns (R360). -/
  | outPllLockLoss (n : Nat)
  /-- 500 ms before each PPS or PULSE edge the planned quantisation error is posted in OUTn_QERR (R368). -/
  | outQerrPost (n : Nat) (err : Int)
  /-- Each ALIGN input edge is measured against the output and firmware corrects the phase at ALIGN_SLEW (R364). -/
  | alignMeasurement (n : Nat) (interval : Int)
  /-- No input edge within 1.5 periods sets ALIGN_LOST and the output continues on its accumulator (R365). -/
  | alignLost (n : Nat)
  /-- 500 ms before a labelled PPS edge a ToD output sends its binary or ZDA message (R369). -/
  | todOutMessage (k : Nat)
  /-- A write of TRIGn_CTL.ARM arms or replaces a firing schedule, or is refused as LATE (R370). -/
  | trigCtlArm (ini : Initiator) (n : Nat) (v : Word)
  /-- A write of TRIGn_CTL.DISARM ends the schedule with RESULT DISARMED (R370). -/
  | trigCtlDisarm (ini : Initiator) (n : Nat)
  /-- A trigger fires on its instant, driving its pin and arming TIC channels, snapshots and counter snapshots (R372). -/
  | trigFire (n : Nat) (err : Unit)
  /-- A filtered change of CUST_IN starts or breaks the custody guard or reveals a clash (R378). -/
  | custInEdge (high : Bool)
  /-- A Belay lane gains block lock with valid calibrations and the session opening begins (R382). -/
  | belayLaneUp (lane : Nat)
  /-- A Belay lane going down asserts PAIR_LANE_DOWN, closing the session if both are down (R382). -/
  | belayLaneDown (lane : Nat)
  /-- A received HELLO is checked for variant, firmware and INDEX, and PROOF is sent or the pair refused (R383). -/
  | helloRx (bytes : List Byte)
  /-- A received PROOF is verified and the session keys are derived, or the pair is refused AUTH (R383). -/
  | proofRx (bytes : List Byte)
  /-- A CLOSE record closes the session and counts as no heartbeat (R384). -/
  | closeRx (ctr : Nat) (box : List Byte)
  /-- A valid heartbeat updates the twin's reported role, custody, quality and journal position (R386). -/
  | heartbeatRx (ctr : Nat) (box : List Byte)
  /-- On every 1 ms TSU boundary each device sends a TIME record with a planned marker crossing (R387). -/
  | timeSend (t : Nat)
  /-- A received TIME marker is stamped, an exchange is formed and every 10 accepted exchanges give one REF17 sample (R388). -/
  | timeRx (ctr : Nat) (box : List Byte) (t : Nat)
  /-- The Second applies a journal record in sequence, or discards it and asks for resynchronisation on a gap (R392). -/
  | journalRx (ty ctr : Nat) (box : List Byte)
  /-- A LEADER receiving JOIN answers with a snapshot, and a PARTED twin refuses it (R394). -/
  | joinRx (ctr : Nat) (box : List Byte)
  /-- SNAP_END completes a snapshot: the joiner becomes SECOND and held journal records apply (R394). -/
  | snapEndRx (ctr : Nat) (box : List Byte)
  /-- A YIELD record lets the Second take custody under the custody guard (R379). -/
  | yieldRx (ctr : Nat) (box : List Byte)
  /-- A SECOND that receives PART becomes JOINING (R395). -/
  | partRx (ctr : Nat) (box : List Byte)
  /-- A FRAME record is dispatched at Trailhead 10 and emitted on the named port (R385). -/
  | belayFrameRx (ctr : Nat) (box : List Byte)
  /-- A CAIRN record from the twin is written to the log with unit TWIN (R503). -/
  | cairnRx (ctr : Nat) (box : List Byte)
  /-- A Custodian write of PAIR_CMD.JOIN accepts joins on a PARTED device or resends JOIN (R395). -/
  | pairCmdJoin (ini : Initiator)
  /-- A Custodian write of PAIR_CMD.YIELD sends YIELD, stops PTP and drops custody (R395). -/
  | pairCmdYield (ini : Initiator)
  /-- A Custodian write of PAIR_CMD.PART sends PART and makes the Leader PARTED (R395). -/
  | pairCmdPart (ini : Initiator)
  /-- PWR_GOOD rising with PORESET_N high begins a power-on start (R422). -/
  | pwrGoodRise (boot : Nat)
  /-- Release of PORESET_N after at least 10 µs low begins a power-on start (R422). -/
  | poresetNRelease (boot : Nat)
  /-- Release of WARM_RESET_N after at least 1 µs low begins a warm start (R422). -/
  | warmResetNRelease (boot : Nat)
  /-- The XO oscillates and is identified against the AON clock, ending stage S1 XO (R424). -/
  | s1Xo (osc : Bool) (hz : Nat) (pcie : Bool) (ms : Nat)
  /-- The root PLL locks and domains D0 to D8 start, ending stage S2 ROOT (R424). -/
  | s2Root (lock : Bool) (ms : Nat)
  /-- ECC valid bits are initialised, the journal is scanned and appended and the entropy source starts (R424). -/
  | s3Mem (ok : Bool)
  /-- Clusters start from ROM, firmware patches apply and BNU self-tests run, ending stage S5 FIRM (R415). -/
  | s5Firm (romOk clustersOk : Bool)
  /-- A control cluster watchdog of 1 s expires and the attempt fails or the device restarts (R425). -/
  | watchdog (fatalUe : Bool)
  /-- A Custodian write of SYS_BIVOUAC_CTL.RELEASE leaves Bivouac mode by an internal restart (R439). -/
  | sysBivouacCtlRelease (ini : Initiator) (first : Nat)
  /-- A flash program, erase or verify finishes and its Harness command is answered (R420). -/
  | nvmOperationComplete (ok : Bool) (left : List Byte)
  /-- OPEN starts a session handshake and returns a device nonce and handshake ID (R443). -/
  | openSession (tid msg : List Byte)
  /-- PROVE verifies the key proof and opens a session with its role and key (R443). -/
  | prove (tid msg : List Byte)
  /-- A handshake not proven within 5 s is discarded (R443). -/
  | handshakeExpiry (hid : Nat)
  /-- A transport lock ends 60 s after the fifth failure (R444). -/
  | lockoutExpiry (transport : Nat)
  /-- A session with no authenticated request for IDLE_S is closed with a CLOSED notification (R446). -/
  | sessionIdle (sid : Nat)
  /-- CLOSE closes the own session, or another one for a Custodian (R446). -/
  | closeSession (tid msg : List Byte)
  /-- PING answers empty and resets the idle timer (R450). -/
  | ping (tid msg : List Byte)
  /-- SUBSCRIBE sets the session's event, Cairn and dump subscriptions (R452). -/
  | subscribe (tid msg : List Byte)
  /-- SESSIONS returns the list of open sessions (R450). -/
  | sessions (tid msg : List Byte)
  /-- REGPATH_BIND binds the register path of its transport to the session (R453). -/
  | regpathBind (tid msg : List Byte)
  /-- REG_READ returns register values without read side effects, with one TSU capture of its own (R451). -/
  | regRead (tid msg : List Byte)
  /-- REG_WRITE checks every settings record and then writes them all, or refuses the whole command (R451). -/
  | regWrite (tid msg : List Byte)
  /-- MEM_READ returns window data (R451). -/
  | memRead (tid msg : List Byte)
  /-- MEM_WRITE writes window data after checking it (R451). -/
  | memWrite (tid msg : List Byte)
  /-- TBL_CFG writes and validates one descriptor copy (R109). -/
  | tblCfg (tid msg : List Byte)
  /-- TBL_PUT writes table entries one at a time, stopping with RANGE on a full bucket (R451). -/
  | tblPut (tid msg : List Byte)
  /-- TBL_DEL removes entries, answering NOT_FOUND for a missing key (R451). -/
  | tblDel (tid msg : List Byte)
  /-- TBL_FLIP flips the generations of the named tables (R112). -/
  | tblFlip (tid msg : List Byte)
  /-- TOPO_LOAD loads Pitches into the standby bank (R113). -/
  | topoLoad (tid msg : List Byte)
  /-- TOPO_SWAP requests a bank swap and answers at the dispatch boundary (R114). -/
  | topoSwap (tid msg : List Byte)
  /-- CTX_SNAP returns a snapshot of a pitch context (R116). -/
  | ctxSnap (tid msg : List Byte)
  /-- TIME_GET returns the time, bound and state of one capture (R451). -/
  | timeGet (tid msg : List Byte)
  /-- TIME_SET arms the initial set and answers at the set edge or its timeout (R47). -/
  | timeSet (tid msg : List Byte)
  /-- FREQ_SET writes TSU_FREQ_ADJ in FREE_RUN (R42). -/
  | freqSet (tid msg : List Byte)
  /-- SLEW requests a slew of the time scale (R43). -/
  | slew (tid msg : List Byte)
  /-- LEAP_SET schedules or cancels a leap second (R57). -/
  | leapSet (tid msg : List Byte)
  /-- REF_CMD accepts a jump, locks out or unlocks a reference slot (R341). -/
  | refCmd (tid msg : List Byte)
  /-- REF_STATUS returns the selection state and every slot's state (R450). -/
  | refStatus (tid msg : List Byte)
  /-- SVC_ADDR adds or deletes service addresses and firmware rewrites the service tables in one flip (R175). -/
  | svcAddr (tid msg : List Byte)
  /-- NTP_PROF writes one NTP quality profile (R450). -/
  | ntpProf (tid msg : List Byte)
  /-- NTS_KEY rotates or revokes master keys (R197). -/
  | ntsKey (tid msg : List Byte)
  /-- KE_IDENT validates and installs a new set of NTS-KE identities (R217). -/
  | keIdent (tid msg : List Byte)
  /-- GNSS_SNAP configures and arms a GNSS snapshot (R313). -/
  | gnssSnap (tid msg : List Byte)
  /-- GNSS_ACCEPT accepts a refused GNSS jump (R317). -/
  | gnssAccept (tid msg : List Byte)
  /-- GNSS_SURVEY restarts the position survey (R310). -/
  | gnssSurvey (tid msg : List Byte)
  /-- SNAP_RELEASE frees an exported snapshot buffer (R313). -/
  | snapRelease (tid msg : List Byte)
  /-- PAIR_JOIN makes a PARTED device accept joins, or makes a JOINING device send JOIN (R395). -/
  | pairJoin (tid msg : List Byte)
  /-- PAIR_YIELD hands custody from the Leader to its twin (R395). -/
  | pairYield (tid msg : List Byte)
  /-- PAIR_PART parts the Leader from its Second (R395). -/
  | pairPart (tid msg : List Byte)
  /-- BELAY_FRAME sends a frame to the twin for emission on one of its ports (R385). -/
  | belayFrame (tid msg : List Byte)
  /-- NVM_READ returns flash contents at any offset (R420). -/
  | nvmRead (tid msg : List Byte)
  /-- NVM_ERASE erases flash sectors where the map allows it (R420). -/
  | nvmErase (tid msg : List Byte)
  /-- NVM_WRITE programs flash where the map allows it, clearing a copy's verified mark (R420). -/
  | nvmWrite (tid msg : List Byte)
  /-- NVM_VERIFY runs the verification steps on a copy and records a verified mark (R421). -/
  | nvmVerify (tid msg : List Byte)
  /-- NVM_ACTIVATE appends a preference record for a verified copy (R421). -/
  | nvmActivate (tid msg : List Byte)
  /-- RESTART answers and then makes an internal restart (R422). -/
  | restart (tid msg : List Byte)
  /-- BIV_RELEASE leaves Bivouac mode through an internal restart from the chosen copy (R439). -/
  | bivRelease (tid msg : List Byte)
  /-- OTP_OWNER programs the owner fields once and optionally locks them (R408). -/
  | otpOwner (tid msg : List Byte)
  /-- CNT_SNAP takes a global counter snapshot and returns the requested counters (R495). -/
  | cntSnap (tid msg : List Byte)
  /-- CNT_READ returns live counter values (R450). -/
  | cntRead (tid msg : List Byte)
  /-- LOG_READ returns Cairn entries, or RANGE for entries overwritten (R501). -/
  | logRead (tid msg : List Byte)
  /-- DUMP_CFG writes the counter dump settings (R497). -/
  | dumpCfg (tid msg : List Byte)
  /-- The host advancing REQ_PROD hands request messages in its ring to the Harness (R454). -/
  | ringReqProdWrite (ring prod : Nat) (setup : Option RingSetup) (msgs : List (List Byte))
  /-- An HSPI WRITE_MSG transfer delivers a Harness message, or is discarded while FULL (R455). -/
  | hspiWriteMsg (msg : List Byte)
  /-- An HSPI REG_RD transfer reads a register through the bound path (R455). -/
  | hspiRegRd (addr : Nat)
  /-- An HSPI REG_WR transfer writes a register through the bound path (R455). -/
  | hspiRegWr (addr : Nat) (v : Word)
  /-- The scrubber reads the next valid word of a domain and writes back a corrected word (R461). -/
  | scrubRead (domain word : Nat)
  /-- A Custodian write of ECC_INJECT.ARM flips the named bits of a word on its next write (R469). -/
  | eccInjectArm (ini : Initiator) (v : Word)
  /-- A write of ECC_LOG_CLR.GO frees every non-persistent, non-retired entry of a domain log (R460). -/
  | eccLogClrGo (ini : Initiator) (domain : Nat)
  /-- A source's occurrence reaches the controller and becomes PENDING, sending a line message if deliverable (R479). -/
  | sourcePending (id : Nat)
  /-- A write of EVC_ENk enables or masks sources, clearing PENDING of masked edge sources (R474). -/
  | evcEnWrite (ini : Initiator) (k : Nat) (v : Word)
  /-- A read of EVC_SYNC returns once the initiator's earlier mask writes have taken effect (R479). -/
  | evcSyncRead (ini : Initiator)
  /-- A read of EVC_CLAIMv claims the highest-priority deliverable source of the line, or returns 0x1FF (R475). -/
  | evcClaimRead (ini : Initiator) (line : Nat)
  /-- A write of EVC_COMPLETE ends the service of an ACTIVE source, or sets BAD_COMPLETE (R476). -/
  | evcCompleteWrite (ini : Initiator) (line id : Nat)
  /-- A write of EVC_SET.GO makes one software occurrence of a source for the host receiver (R481). -/
  | evcSetGo (ini : Initiator) (id : Nat)
  /-- A write of EVC_SRCn_CFG changes priority or moves a pending source to a new line (R482). -/
  | evcSrcCfgWrite (ini : Initiator) (id : Nat) (v : Word)
  /-- Unmasking an MSI-X vector with its pending bit set sends its message if the set is non-empty (R483). -/
  | msixUnmask (masks : BitVec 32) (fn : Bool)
  /-- A write of CNT_CTL.SNAP takes a global counter snapshot into the shadow bank (R495). -/
  | cntCtlSnap (ini : Initiator)
  /-- An output reaches an edge of its waveform: a rising edge at ORIGIN + PHASE − DELAY + k/f, or the end of a pulse's WIDTH. Squelch, disable and resumption take effect on these edges (R361). -/
  | outputEdge (n : Nat) (rise : Bool)
  /-- A Harness message that fails the framing, session or tag checks is dropped and counted, and one that names no known command is answered with UNKNOWN_CMD (R448). -/
  | harnessBadMessage (tid msg : List Byte)
  /-- The host advances RSP_CONS of a PCIe ring, returning response buffers, which updates HOST_RINGk_RSP and lets waiting responses be written (R454). -/
  | ringRspConsWrite (ring cons : Nat) (bufs : List (Nat × Nat))
  /-- A monitor beyond REJECT, or DRIFTING with preemption, held for DISQ_TIME ms disqualifies a qualified or selected slot (R326). -/
  | disqTimeExpiry (n : Nat)
  /-- Any other TCP segment of an established NTS-KE connection is handled: an ACK, an out-of-order segment answered with a duplicate ACK, or a TLS record that ends in an alert (R210).
  The segment's own bytes tell which: the operand of type Unit carries nothing. -/
  | keSegment (ring : Nat) (alert : Unit)
  /-- The upstream's NTS-KE response to firmware's client handshake is validated against the trust anchors and supplies keys and cookies to the NTS slot (R339). -/
  | ntsKeClientResponse (n : Nat) (chain : Bool) (notBefore notAfter : Nat) (c2s s2c recs : List Byte)
  /-- An upstream reply to an NTS poll arrives: a valid reply gives a sample, an NTS NAK starts a new NTS-KE, and a Kiss-o'-Death RATE doubles the poll interval (R339). -/
  | ntsPollReply (n t1 t4 : Nat) (old : Bool) (bytes : List Byte)
  /-- Loss of root PLL lock after S2 stops all frame release and outputs, records ROOT_UNLOCK and performs a warm restart from S1 with the TSU UNSET (R22). -/
  | rootUnlock
  /-- A new effective increment takes effect on the first 10 ns boundary at least 40 ns after the write, at the TSU, every local counter and every output accumulator together (R23). -/
  | incrementChange
  /-- The tick that brings TSU_SLEW_REMAIN to zero ends the slew, clears SLEWING and raises TSU_SLEW_DONE (R44). -/
  | tsuSlewDone
  /-- An armed REFIN set that sees no pulse within 2.0 s disarms itself and raises TSU_SET_TIMEOUT (R48). -/
  | tsuSetTimeout
  /-- On the tick at which SEC reaches TSU_LEAP_SEC the UTC offset changes by the pending leap, the pending leap clears and TSU_LEAP_DONE is raised (R55). -/
  | tsuLeapDone
  /-- Once planned frames are released and runs finished, the lanes power down and the device phase becomes REST (R82). -/
  | restEntryComplete
  /-- Stopped clusters run and BNU self-tests end, and the device phase returns to SERVICE (R85). -/
  | restExitComplete
  /-- A free context takes the head descriptor of the lowest-class non-empty queue and starts the run at its Trailhead (R90). -/
  | dispatch
  /-- At the context's next Pitch boundary, or at once if idle, its state is copied to the PE_CTX registers and DONE sets (R116). -/
  | ctxSnapshotTaken
  /-- At the next FAB boundary after a swap request later dispatches use the other bank, optionally with new table generations (R114). -/
  | dispatchBoundary
  /-- When the last old-bank run ends SWAP_PENDING clears and TOPO_SWAP_DONE is raised (R114). -/
  | topoSwapDone
  /-- When DRAIN_COUNT reaches zero DRAIN clears and TOPO_TBL_FLIP_DONE is raised (R112). -/
  | topoTblFlipDone
  /-- Half a period before its start the next master key is derived or generated and journalled, and its slot becomes NEXT (R196). -/
  | keyNext
  /-- At a period boundary the NEXT key becomes CURRENT and the previous CURRENT key becomes LIVE (R196). -/
  | keyRotation
  /-- Within 10 ms after the set edge, or after the journal delivers them, the master keys are installed and KEYS_READY sets (R198). -/
  | keysInstall
  /-- On each decay-period millisecond boundary a pass halves every sketch counter in ascending order (R201). -/
  | sketchHalvingPass
  /-- Once per second the control cores read the stock drop reason counters and make one AGGREGATE entry per grown code (R205). -/
  | dropAggregation
  /-- A punted REQUEST_UNICAST_TRANSMISSION is granted or denied within 1 ms (R245). -/
  | grantRequest
  /-- A received CANCEL_UNICAST_TRANSMISSION is acknowledged and its stream stops at once (R247). -/
  | grantCancelRx
  /-- A punted Announce is recorded by firmware for BMCA and upstream selection, and a master change is a reference change (R251). -/
  | announceRx
  /-- Every 1 s the Leader journals the sequenceId of every stream (R255). -/
  | ptpseqJournal
  /-- 100 ms after a health failure the source restarts with a new start-up test (R280). -/
  | esRestart
  /-- GSP_VALID low for 10 ms returns every channel to IDLE and sets FE_FAULT (R301). -/
  | gspValidGap
  /-- GSP_VALID high for 100 ms after a gap clears FE_FAULT (R301). -/
  | gspValidRecover
  /-- No valid solution for 2 s clears SOL_VALID, stops the raw pulse and REF8 loses activity (R315). -/
  | gnssNoSol
  /-- The raw time pulse rises on the sample edge nearest each second of the selected scale (R312). -/
  | gnssTimePulse
  /-- On every TSU second each slot's monitors update and its state machine is evaluated (R323). -/
  | refMonitorUpdate
  /-- Every 10 s each slot's drift estimator fits the frequency trend and sets or clears DRIFTING (R328). -/
  | refDriftEstimate
  /-- The end of a wait-to-restore period triggers a selection evaluation (R331). -/
  | refWtrEnd
  /-- A switch ends: the slot becomes SELECTED, REFS_SWITCH is raised and selection runs again (R334). -/
  | refSwitchEnd
  /-- At each update the servo forms φ, runs the PI or FLL filter, writes TSU_FREQ_ADJ and the error bound (R347). -/
  | servoUpdate
  /-- Once per second in holdover the servo writes the holdover bound base and growth rate (R354). -/
  | holdoverBoundUpdate
  /-- Every 10 s with the trend active the servo writes the trended holdover frequency (R352). -/
  | holdoverTrendWrite
  /-- Every 10 s the servo records the mean integrator into the history rings (R349). -/
  | servoHistoryEntry
  /-- After CUST_IN has been low for 10 µs a device wanting custody raises CUST_OUT and begins its watch (R378). -/
  | custodyGuard
  /-- After 10 µs of watch with CUST_IN low the device holds custody and becomes LEADER (R378). -/
  | custodyWatchEnd
  /-- After the random clash delay the device tries custody again (R378). -/
  | custodyRetry
  /-- A 1 ms disagreement between CUST_IN and the twin's reported custody sets CUST_FAULT, and 1 ms of agreement clears it (R381). -/
  | custFaultTimer
  /-- After the retry time of its cause a refused session is attempted again (R383). -/
  | sessionRefusalRetry
  /-- On every 100 µs TSU boundary each paired device sends a HEARTBEAT (R386). -/
  | heartbeatSend
  /-- No valid heartbeat within 20 µs after an expected instant counts a miss, and five misses set BELAY_DOWN (R386). -/
  | heartbeatMiss
  /-- A refused joiner sends JOIN again every 10 s (R394). -/
  | joinRetry
  /-- PWR_GOOD falling holds the device in reset (R422). -/
  | pwrGoodFall
  /-- The Route Book copies are verified in order and one is chosen, ending stage S4 BOOK (R404). -/
  | s4Book
  /-- All other legs are applied in type and image order, ending stage S6 LOAD (R415). -/
  | s6Load
  /-- Local counters load and service and Belay lanes calibrate, ending stage S7 LANES (R424). -/
  | s7Lanes
  /-- A stage's deadline passes and the attempt fails with cause DEADLINE (R424). -/
  | stageDeadline
  /-- 1 s after a failed attempt with the count below 3 the device makes an internal restart (R429). -/
  | startRetry
  /-- After STABLE_TIME in SERVICE the device appends SUCCESS and clears the failure count (R428). -/
  | startSuccess
  /-- At most once per millisecond a subscribed session receives an EVENT notification of newly pending sources (R452). -/
  | ntfEventTick
  /-- Every 100 ms subscribed sessions receive a batch of new Cairn entries (R452). -/
  | ntfCairnBatch
  /-- Every 1 ms the PCIe status page is rewritten under its sequence lock (R454). -/
  | statusPageRewrite
  /-- An HSPI STATUS transfer returns MSG_READY, FULL and LOCKED (R455). -/
  | hspiStatus
  /-- An HSPI READ_MSG transfer returns the oldest waiting response or notification (R455). -/
  | hspiReadMsg
  /-- MASK_WINDOW after an enable write or level fall the change takes effect at the controller (R479). -/
  | maskWindowEnd
  /-- On each dump-period second a snapshot is taken and delivered to the enabled destinations (R497). -/
  | counterDump
  /-- At the end of each TSU second the aggregated AGGREGATE, TRAP and SUPPRESSED entries are written (R502). -/
  | cairnSecondEnd
  /-- PORESET_N driven low puts the device into reset and ends the current attempt with an external-reset cause (R422). -/
  | poresetNAssert
  /-- WARM_RESET_N driven low puts the device into warm reset and ends the current attempt with cause EXT_RESET (R422). -/
  | warmResetNAssert
  /-- Loss of the VSTBY supply clears the start latch, the AON event latches and the spare map (R510). -/
  | vstbyLoss
  /-- GSP_VALID not rising within 50 ms after the front-end script sets FE_FAULT and asserts GNSS_FE_FAULT (R301). -/
  | gspValidTimeout
  /-- A GRANT_UNICAST_TRANSMISSION from a G.8275.2 upstream grants the requested stream or denies it, which starts the retry schedule (R252). -/
  | upstreamGrantReply
  /-- A Pitch with an uncorrectable error in a REPAIRABLE bank is rewritten from the Route Book copy within 5 ms (R115). -/
  | topoRepair (bank index : Nat)
  /-- Expiry of the linger timer frees the connection with a RST (R212). -/
  | keLingerTimeout (conn : Nat)
  /-- A retransmission timeout resends a segment, doubling the RTO, and resets after three retransmissions (R210). -/
  | keRto (conn : Nat)
  /-- When SEC passes an identity's notAfter while SET, IDENT_EXPIRED and EXPIRED set (R216). -/
  | identExpiry (n : Nat)
  /-- From 30 days before notAfter a Cairn warning is made once a day (R216). -/
  | identExpiryWarning (n : Nat)
  /-- At half its duration an upstream grant is requested again (R251). -/
  | upstreamGrantRenew (n kind : Nat)
  /-- A denied or cancelled upstream grant is retried after 1 s, doubling to 64 s (R252). -/
  | upstreamGrantRetry (n kind : Nat)
  /-- At a yield point with SHORT work queued a LONG job saves its state and yields (R269). -/
  | bnuYield (n left : Nat)
  /-- After 1 s or 65,536 generate calls a DRBG instance reseeds from the entropy source (R281). -/
  | drbgReseed (n : Nat)
  /-- An instance unable to reseed for 60 s or 2^20 calls stops and clears its READY bit (R282). -/
  | drbgStale (n : Nat)
  /-- After 60 s a system's exclusion ends (R309). -/
  | gnssSysExclusionEnd (sys : Nat)
  /-- Every LEAN_PERIOD the front end wakes for a 20 ms LOCAL snapshot and powers down (R314). -/
  | gnssLeanCycle (sec : Nat) (fresh : Unit) (reads : List (List Byte)) (rose : Bool)
  /-- Every 2 h in lean mode the front end stays on for 60 s of tracking (R314). -/
  | gnssEphemerisWindow (on : Bool)
  /-- Each second the band noise rise is measured and GNSS_JAM follows the threshold (R318). -/
  | gnssBandMonitor (l1 l5 : Nat)
  /-- In dark Bivouac mode the root PLL retries every 10 s (R436). -/
  | bivouacRootRetry (locked pcie : Bool)
  /-- A response that finds no posted buffer for 1 s is discarded (R454). -/
  | responseBufferTimeout (ring : Nat)
  /-- Within 1 ms the copied row is remapped to its spare and the entry marked RETIRED (R463). -/
  | rowRetireComplete (domain entry : Nat)
  /-- The die temperature crossing 100 °C or 110 °C asserts or deasserts SYS_TEMP_WARN or SYS_TEMP_CRIT (R515). -/
  | tempCrossing (temp : Int)
  /-- A monitored rail outside its range for over 10 µs asserts SYS_RAIL_WARN (R508). -/
  | railExcursion (rail : Nat)
  /-- A monitored rail returns within its operating range, clearing its OUT bit and deasserting SYS_RAIL_WARN (R508). -/
  | railReturn (rail : Nat)
  /-- A GNSS tracking channel advances through PULL_IN, TRACK, BIT_SYNC and FRAME_SYNC, confirming a detection (R305). -/
  | gnssChannelTrack (ch : Nat)
  deriving DecidableEq, Repr

end Sys2Proof
end

