-- ==== Sys2Proof/WellFormed.lean ====
section
/-!
DEFINITION. WellFormed.lean: the bounds of the commands' operands: the numbers of units that no variant exceeds (R1), the
widths of what a command carries, and the address space (R13, R520).
-/
namespace Sys2Proof

/-- A port or lane number (R1). -/
def wfPort (p : Nat) : Bool := decide (p < 8)

/-- An engine and a context (R1, R88). -/
def wfCtx (e c : Nat) : Bool := decide (e < 64) && decide (c < 4)

/-- A punt ring of the NTS-KE service (R209). -/
def wfKeRing (r : Nat) : Bool := r == 1 || r == 2

/-- An initiator of a bus access: Harness commands reach registers by their own messages (R440, R453). -/
def wfBus (i : Initiator) : Bool := decide (i ≠ .harness)

/-- The operands of a command lie in their bounds. -/
def Instr.wf (i : Instr) : Bool :=
  match i with
  | .registerWrite ini addr _ => wfBus ini && decide (addr < 4294967296)
  | .absentAccess ini _ addr => wfBus ini && decide (addr < 4294967296)
  | .narrowAccess ini _ addr => wfBus ini && decide (addr < 4294967296)
  | .unmappedAccess ini _ addr => wfBus ini && decide (addr < 4294967296)
  | .readOnlyWindowWrite ini addr _ => wfBus ini && decide (addr < 4294967296)
  | .tsuIncNomWrite ini _ => wfBus ini
  | .tsuFreqAdjWrite ini _ => wfBus ini
  | .tsuSlewReqWrite ini _ => wfBus ini
  | .tsuSlewLimitWrite ini _ => wfBus ini
  | .tsuSetArm ini _ => wfBus ini
  | .tsuSetCancel ini _ => wfBus ini
  | .tsuNowLoRead ini => wfBus ini
  | .tsuLeapPendingWrite ini _ => wfBus ini
  | .compareTick diffs => diffs.all (fun x => decide (x.1 < 64))
  | .portModeWrite ini port _ => wfBus ini && wfPort port
  | .receptionStop port part => wfPort port && wfPort part.lane && decide (part.addr < 33554432)
  | .lanePowerDown port => wfPort port
  | .frameReceive port _ _ lane _ _ _ _ _ addr => wfPort port && wfPort lane && decide (addr < 33554432)
  | .rxRateExcursion port _ => wfPort port
  | .delayAdjWrite ini port _ _ => wfBus ini && wfPort port
  | .txPllRelock lane => wfPort lane
  | .rxLockGain lane _ => wfPort lane
  | .rxLockLoss lane part => wfPort lane && wfPort part.lane && decide (part.addr < 33554432)
  | .portCalRecal ini port => wfBus ini && wfPort port
  | .calSideComplete lane _ lat _ am => wfPort lane && decide (lat.phases.length = 256) && decide (am < 4096)
  | .calSideFail lane _ => wfPort lane
  | .restEnter tid _ => decide (tid.length = 24)
  | .restExit tid _ => decide (tid.length = 24)
  | .injection port _ addr _ => wfPort port && decide (addr < 33554432)
  | .nop e c => wfCtx e c
  | .imm e c => wfCtx e c
  | .load e c => wfCtx e c
  | .store e c => wfCtx e c
  | .copy e c => wfCtx e c
  | .seta e c => wfCtx e c
  | .alu e c => wfCtx e c
  | .testb e c => wfCtx e c
  | .lookup e c => wfCtx e c
  | .sketch e c => wfCtx e c
  | .count e c => wfCtx e c
  | .stamp e c => wfCtx e c
  | .slot e c => wfCtx e c
  | .quality e c => wfCtx e c
  | .seal e c => wfCtx e c
  | .csum e c => wfCtx e c
  | .emit e c => wfCtx e c
  | .relay e c => wfCtx e c
  | .punt e c => wfCtx e c
  | .drop e c => wfCtx e c
  | .call e c => wfCtx e c
  | .ret e c => wfCtx e c
  | .trap e c => wfCtx e c
  | .successor e c => wfCtx e c
  | .peCtxSnapGo ini => wfBus ini
  | .peCtxSnapResume ini => wfBus ini
  | .topoWindowWrite ini off _ => wfBus ini && decide (off < 2097152)
  | .topoSwapCtlGo ini _ => wfBus ini
  | .topoTblCfgWrite ini table gen _ => wfBus ini && decide (table < 64) && decide (gen < 2)
  | .topoTblGenWrite ini _ => wfBus ini
  | .tableStoreWrite ini off _ => wfBus ini && decide (off < 25165824)
  | .setupDeadline port _ => wfPort port
  | .startBlockEntry port _ => wfPort port
  | .freePlacement port => wfPort port
  | .freeQueueTimeout port cls => wfPort port && decide (cls < 4)
  | .launchReport port => wfPort port
  | .gateConfigWrite ini k _ => wfBus ini && decide (k < 4)
  | .keyExpiry n => decide (n < 64)
  | .svcKeyCtlRotate ini => wfBus ini
  | .svcKeyCtlRevoke ini kid => wfBus ini && decide (kid < 4294967296)
  | .keSyn ring => wfKeRing ring
  | .keHandshakeAck ring => wfKeRing ring
  | .keClientHello ring => wfKeRing ring
  | .keClientFinished ring _ _ _ _ => wfKeRing ring
  | .keAlertRx ring => wfKeRing ring
  | .keKeyUpdate ring => wfKeRing ring
  | .kePeerFin ring => wfKeRing ring
  | .keHsTimeout conn => decide (conn < 16384)
  | .ptpTxInject kind inst port _ _ => decide (kind < 5) && decide (inst < 4) && wfPort port
  | .grantExpiry gidx kind => decide (gidx < 65536) && decide (kind < 3)
  | .grantEntryFree gidx => decide (gidx < 65536)
  | .ptpCancel tid _ => decide (tid.length = 24)
  | .annTimeout n => decide (9 ≤ n) && decide (n ≤ 16)
  | .delayAnswerRx kind => decide (kind < 3)
  | .bnuWindowWrite _ n off _ => decide (n < 8) && decide (off < 65536)
  | .bnuSlotWordsWrite ini n _ => wfBus ini && decide (n < 8)
  | .bnuSubmitGo ini n => wfBus ini && decide (n < 8)
  | .bnuJobStart n => decide (n < 8)
  | .bnuJobComplete n fault => decide (n < 8) && decide (fault ≤ 2)
  | .bnuAbortGo ini n tag => wfBus ini && decide (n < 8) && decide (tag < 65536)
  | .bnuCtlAbortAll ini n => wfBus ini && decide (n < 8)
  | .bnuCtlSelftest ini n => wfBus ini && decide (n < 8)
  | .bnuSelftestDone n _ => decide (n < 8)
  | .bnuCtlOwnerWrite ini n _ => wfBus ini && decide (n < 8)
  | .bnuCplRead ini n => wfBus ini && decide (n < 8)
  | .esBlock raw => decide (raw.length = 128)
  | .bnuEsCtlRestart ini => wfBus ini
  | .bnuRandRead ini => wfBus ini
  | .ticEdge ch _ _ _ _ k1 k2 => decide (ch < 8) && decide (k1 < 128) && decide (k2 < 128)
  | .ticTimeout ch => decide (ch < 8)
  | .ticCtlArm ini ch _ => wfBus ini && decide (ch < 8)
  | .ticConfigWrite ini ch _ _ => wfBus ini && decide (ch < 8)
  | .ticRes0Read ini ch => wfBus ini && decide (ch < 8)
  | .gnssChannelLoss ch => decide (ch < 96)
  | .gnssNavUnit _ sys sig _ ch nbits check _ _ _ _ _ => decide (sys < 4) && decide (sig < 3) && decide (ch < 96) && decide (0 < nbits) && decide (nbits ≤ 768) && decide (check < 3)
  | .gnssSolution _ _ _ _ _ systems _ => systems.all (fun x => decide (x.1 < 4))
  | .gnssSurveyRestart ini => wfBus ini
  | .gnssCtlAccept ini => wfBus ini
  | .gnssSnapCtlArm ini _ => wfBus ini
  | .gnssSnapCtlRelease ini => wfBus ini
  | .refSample n _ _ _ _ _ _ => decide (n < 20) && decide (n ≠ 8)
  | .refActivityLoss n => decide (n < 20)
  | .refsCtlWrite ini _ => wfBus ini
  | .refSlotEnableWrite ini n _ => wfBus ini && decide (n < 20)
  | .refsCmdAcceptJump ini n => wfBus ini && decide (n < 32)
  | .refsCmdLockout ini n => wfBus ini && decide (n < 32)
  | .refsCmdUnlock ini n => wfBus ini && decide (n < 32)
  | .ntsUpstreamPoll n => decide (9 ≤ n) && decide (n ≤ 16)
  | .ntsPollTimeout n => decide (9 ≤ n) && decide (n ≤ 16)
  | .todMessage k _ _ _ _ => decide (k < 2)
  | .outCtlEnableWrite ini n _ => wfBus ini && decide (n < 8)
  | .outPllLock n => decide (n < 8)
  | .outPllLockLoss n => decide (n < 8)
  | .outQerrPost n _ => decide (n < 8)
  | .alignMeasurement n _ => decide (n < 8)
  | .alignLost n => decide (n < 8)
  | .todOutMessage k => decide (k < 2)
  | .trigCtlArm ini n _ => wfBus ini && decide (n < 16)
  | .trigCtlDisarm ini n => wfBus ini && decide (n < 16)
  | .trigFire n _ => decide (n < 16)
  | .belayLaneUp lane => decide (lane < 2)
  | .belayLaneDown lane => decide (lane < 2)
  | .pairCmdJoin ini => wfBus ini
  | .pairCmdYield ini => wfBus ini
  | .pairCmdPart ini => wfBus ini
  | .pwrGoodRise boot => decide (boot < 4)
  | .poresetNRelease boot => decide (boot < 4)
  | .warmResetNRelease boot => decide (boot < 4)
  | .s1Xo _ _ _ ms => decide (ms < 4294967296)
  | .s2Root _ ms => decide (ms < 4294967296)
  | .sysBivouacCtlRelease ini first => wfBus ini && decide (first < 4)
  | .openSession tid _ => decide (tid.length = 24)
  | .prove tid _ => decide (tid.length = 24)
  | .handshakeExpiry hid => decide (hid < 4294967296)
  | .lockoutExpiry transport => decide (1 ≤ transport) && decide (transport ≤ 3)
  | .sessionIdle sid => decide (sid < 4294967296)
  | .closeSession tid _ => decide (tid.length = 24)
  | .ping tid _ => decide (tid.length = 24)
  | .subscribe tid _ => decide (tid.length = 24)
  | .sessions tid _ => decide (tid.length = 24)
  | .regpathBind tid _ => decide (tid.length = 24)
  | .regRead tid _ => decide (tid.length = 24)
  | .regWrite tid _ => decide (tid.length = 24)
  | .memRead tid _ => decide (tid.length = 24)
  | .memWrite tid _ => decide (tid.length = 24)
  | .tblCfg tid _ => decide (tid.length = 24)
  | .tblPut tid _ => decide (tid.length = 24)
  | .tblDel tid _ => decide (tid.length = 24)
  | .tblFlip tid _ => decide (tid.length = 24)
  | .topoLoad tid _ => decide (tid.length = 24)
  | .topoSwap tid _ => decide (tid.length = 24)
  | .ctxSnap tid _ => decide (tid.length = 24)
  | .timeGet tid _ => decide (tid.length = 24)
  | .timeSet tid _ => decide (tid.length = 24)
  | .freqSet tid _ => decide (tid.length = 24)
  | .slew tid _ => decide (tid.length = 24)
  | .leapSet tid _ => decide (tid.length = 24)
  | .refCmd tid _ => decide (tid.length = 24)
  | .refStatus tid _ => decide (tid.length = 24)
  | .svcAddr tid _ => decide (tid.length = 24)
  | .ntpProf tid _ => decide (tid.length = 24)
  | .ntsKey tid _ => decide (tid.length = 24)
  | .keIdent tid _ => decide (tid.length = 24)
  | .gnssSnap tid _ => decide (tid.length = 24)
  | .gnssAccept tid _ => decide (tid.length = 24)
  | .gnssSurvey tid _ => decide (tid.length = 24)
  | .snapRelease tid _ => decide (tid.length = 24)
  | .pairJoin tid _ => decide (tid.length = 24)
  | .pairYield tid _ => decide (tid.length = 24)
  | .pairPart tid _ => decide (tid.length = 24)
  | .belayFrame tid _ => decide (tid.length = 24)
  | .nvmRead tid _ => decide (tid.length = 24)
  | .nvmErase tid _ => decide (tid.length = 24)
  | .nvmWrite tid _ => decide (tid.length = 24)
  | .nvmVerify tid _ => decide (tid.length = 24)
  | .nvmActivate tid _ => decide (tid.length = 24)
  | .restart tid _ => decide (tid.length = 24)
  | .bivRelease tid _ => decide (tid.length = 24)
  | .otpOwner tid _ => decide (tid.length = 24)
  | .cntSnap tid _ => decide (tid.length = 24)
  | .cntRead tid _ => decide (tid.length = 24)
  | .logRead tid _ => decide (tid.length = 24)
  | .dumpCfg tid _ => decide (tid.length = 24)
  | .ringReqProdWrite ring prod _ _ => decide (ring < 4) && decide (prod < 4294967296)
  | .hspiRegRd addr => decide (addr < 4294967296)
  | .hspiRegWr addr _ => decide (addr < 4294967296)
  | .scrubRead domain _ => decide (domain < 12)
  | .eccInjectArm ini _ => wfBus ini
  | .eccLogClrGo ini domain => wfBus ini && decide (domain < 16)
  | .sourcePending id => decide (id < 256)
  | .evcEnWrite ini k _ => wfBus ini && decide (k < 4)
  | .evcSyncRead ini => wfBus ini
  | .evcClaimRead ini line => wfBus ini && decide (line < 34)
  | .evcCompleteWrite ini line id => wfBus ini && decide (line < 64) && decide (id < 512)
  | .evcSetGo ini id => wfBus ini && decide (id < 256)
  | .evcSrcCfgWrite ini id _ => wfBus ini && decide (id < 256)
  | .cntCtlSnap ini => wfBus ini
  | .outputEdge n _ => decide (n < 8)
  | .harnessBadMessage tid _ => decide (tid.length = 24)
  | .ringRspConsWrite ring cons _ => decide (ring < 4) && decide (cons < 4294967296)
  | .disqTimeExpiry n => decide (n < 20)
  | .keSegment ring _ => wfKeRing ring
  | .ntsKeClientResponse n _ _ _ c2s s2c _ => decide (9 ≤ n) && decide (n ≤ 16) && decide (c2s.length = 32) && decide (s2c.length = 32)
  | .ntsPollReply n _ _ _ _ => decide (9 ≤ n) && decide (n ≤ 16)
  | .topoRepair bank index => decide (bank < 2) && decide (index < 32768)
  | .keLingerTimeout conn => decide (conn < 16384)
  | .keRto conn => decide (conn < 16384)
  | .identExpiry n => decide (n < 4)
  | .identExpiryWarning n => decide (n < 4)
  | .upstreamGrantRenew n kind => decide (9 ≤ n) && decide (n ≤ 16) && decide (kind < 3)
  | .upstreamGrantRetry n kind => decide (9 ≤ n) && decide (n ≤ 16) && decide (kind < 3)
  | .bnuYield n _ => decide (n < 8)
  | .drbgReseed n => decide (n < 11)
  | .drbgStale n => decide (n < 11)
  | .gnssSysExclusionEnd sys => decide (sys < 4)
  | .responseBufferTimeout ring => decide (ring < 4)
  | .rowRetireComplete domain entry => decide (domain < 12) && decide (entry < 16)
  | .tempCrossing temp => decide (-32768 ≤ temp) && decide (temp < 32768)
  | .railExcursion rail => decide (rail < 8)
  | .railReturn rail => decide (rail < 8)
  | .gnssChannelTrack ch => decide (ch < 96)
  | .setEdge interval => decide (interval.k1 < 128) && decide (interval.k2 < 128)
  | .wakeFrame .. | .upstreamSyncRx .. | .gnssFeScript .. | .gnssFeRetry .. | .gspValidFall ..
  | .gnssAcqBatch .. | .gnssMeasEpoch .. | .gnssSurveyDone .. | .gnssTp .. | .gnssSnapCaptureStart ..
  | .gnssSnapDone .. | .custInEdge .. | .helloRx .. | .proofRx .. | .closeRx .. | .heartbeatRx .. | .timeSend ..
  | .timeRx .. | .journalRx .. | .joinRx .. | .snapEndRx .. | .yieldRx .. | .partRx .. | .belayFrameRx ..
  | .cairnRx .. | .s3Mem .. | .s5Firm .. | .watchdog .. | .nvmOperationComplete .. | .hspiWriteMsg ..
  | .msixUnmask .. | .rootUnlock | .incrementChange | .tsuSlewDone | .tsuSetTimeout | .tsuLeapDone
  | .restEntryComplete | .restExitComplete | .dispatch | .ctxSnapshotTaken | .dispatchBoundary | .topoSwapDone
  | .topoTblFlipDone | .keyNext | .keyRotation | .keysInstall | .sketchHalvingPass | .dropAggregation | .grantRequest
  | .grantCancelRx | .announceRx | .ptpseqJournal | .esRestart | .gspValidGap | .gspValidRecover | .gnssNoSol
  | .gnssTimePulse | .refMonitorUpdate | .refDriftEstimate | .refWtrEnd | .refSwitchEnd | .servoUpdate
  | .holdoverBoundUpdate | .holdoverTrendWrite | .servoHistoryEntry | .custodyGuard | .custodyWatchEnd
  | .custodyRetry | .custFaultTimer | .sessionRefusalRetry | .heartbeatSend | .heartbeatMiss | .joinRetry
  | .pwrGoodFall | .s4Book | .s6Load | .s7Lanes | .stageDeadline | .startRetry | .startSuccess | .ntfEventTick
  | .ntfCairnBatch | .statusPageRewrite | .hspiStatus | .hspiReadMsg | .maskWindowEnd | .counterDump
  | .cairnSecondEnd | .poresetNAssert | .warmResetNAssert | .vstbyLoss | .gspValidTimeout | .upstreamGrantReply
  | .gnssLeanCycle .. | .gnssEphemerisWindow .. | .gnssBandMonitor .. | .bivouacRootRetry .. => true

end Sys2Proof
end

