-- ==== Sys2Proof/Machine/Bytes.lean ====
section
/-!
DEFINITION. Machine/Bytes.lean: byte strings: little-endian (R11) and network-order numbers, fields and slices.
-/
namespace Sys2Proof.Machine
open Sys2Proof

/-- Little-endian bytes of a number. -/
def leBytes : Nat → Nat → List Byte
  | 0, _ => []
  | n + 1, v => BitVec.ofNat 8 v :: leBytes n (v / 256)

/-- The number little-endian bytes spell. -/
def leNat : List Byte → Nat
  | [] => 0
  | b :: bs => b.toNat + 256 * leNat bs

/-- Network-order bytes of a number. -/
def beBytes (n v : Nat) : List Byte := (leBytes n v).reverse

/-- The number network-order bytes spell. -/
def beNat (bs : List Byte) : Nat := leNat bs.reverse

/-- A slice of a byte list. -/
def slice (bs : List Byte) (off n : Nat) : List Byte := (bs.drop off).take n

/-- A network-order field of a byte list. -/
def beAt (bs : List Byte) (off n : Nat) : Nat := beNat (slice bs off n)

/-- A little-endian field of a byte list. -/
def leAt (bs : List Byte) (off n : Nat) : Nat := leNat (slice bs off n)

/-- Replace bytes of a list from an offset, within its length. -/
def putBytes : List Byte → Nat → List Byte → List Byte
  | [], _, _ => []
  | _ :: bs, 0, x :: xs => x :: putBytes bs 0 xs
  | bs, 0, [] => bs
  | b :: bs, n + 1, xs => b :: putBytes bs n xs

/-- `n` zero bytes. -/
def zeros (n : Nat) : List Byte := List.replicate n 0

/-- ASCII bytes of a string. -/
def ascii (x : String) : List Byte := x.toList.map (fun c => BitVec.ofNat 8 c.toNat)

end Sys2Proof.Machine
end

