-- ==== Sys2Proof/Machine/Hash.lean ====
section
/-!
DEFINITION. Machine/Hash.lean: SHA-256, SHA-384 and SHA-512 (FIPS 180-4), HMAC (RFC 2104), HKDF (RFC 5869) and MD5
(RFC 1321, for the reference ID of an IPv6 upstream).
-/
namespace Sys2Proof.Machine
open Sys2Proof

/-- Padding of a message: 0x80, zeros, and the bit length in `lenBytes` bytes, to a multiple of `blk`. -/
def shaPad (blk lenBytes : Nat) (m : List Byte) : List Byte :=
  let used := (m.length + 1 + lenBytes) % blk
  m ++ 0x80 :: zeros ((blk - used) % blk) ++ beBytes lenBytes (8 * m.length)

/-- Groups of `n` bytes. -/
def byteGroups (n : Nat) : Nat → List Byte → List (List Byte)
  | 0, _ => []
  | _, [] => []
  | f + 1, bs => bs.take n :: byteGroups n f (bs.drop n)

/-- The eight chaining words of the SHA-2 family. -/
structure Sha8 (w : Nat) where
  a : BitVec w
  b : BitVec w
  c : BitVec w
  d : BitVec w
  e : BitVec w
  f : BitVec w
  g : BitVec w
  h : BitVec w

/-- Rotation and shift amounts of a SHA-2 function. -/
structure ShaRot where
  a1 : Nat
  a2 : Nat
  a3 : Nat
  e1 : Nat
  e2 : Nat
  e3 : Nat
  s1 : Nat
  s2 : Nat
  s3 : Nat
  t1 : Nat
  t2 : Nat
  t3 : Nat

def sha256Rot : ShaRot := ⟨2, 13, 22, 6, 11, 25, 7, 18, 3, 17, 19, 10⟩
def sha512Rot : ShaRot := ⟨28, 34, 39, 14, 18, 41, 1, 8, 7, 19, 61, 6⟩

/-- Message schedule: `win` holds the last 16 words, oldest first. -/
def shaSched {w : Nat} (r : ShaRot) : Nat → List (BitVec w) → List (BitVec w)
  | 0, _ => []
  | n + 1, win =>
    let x1 := (win.drop 1).headD 0
    let x14 := (win.drop 14).headD 0
    let s0 := x1.rotateRight r.s1 ^^^ x1.rotateRight r.s2 ^^^ (x1 >>> r.s3)
    let s1 := x14.rotateRight r.t1 ^^^ x14.rotateRight r.t2 ^^^ (x14 >>> r.t3)
    let next := win.headD 0 + s0 + (win.drop 9).headD 0 + s1
    win.headD 0 :: shaSched r n (win.drop 1 ++ [next])

/-- One round. -/
def shaRound {w : Nat} (r : ShaRot) (s : Sha8 w) (kw : BitVec w × BitVec w) : Sha8 w :=
  let t1 := s.h + (s.e.rotateRight r.e1 ^^^ s.e.rotateRight r.e2 ^^^ s.e.rotateRight r.e3)
    + ((s.e &&& s.f) ^^^ (~~~ s.e &&& s.g)) + kw.1 + kw.2
  let t2 := (s.a.rotateRight r.a1 ^^^ s.a.rotateRight r.a2 ^^^ s.a.rotateRight r.a3)
    + ((s.a &&& s.b) ^^^ (s.a &&& s.c) ^^^ (s.b &&& s.c))
  ⟨t1 + t2, s.a, s.b, s.c, s.d + t1, s.e, s.f, s.g⟩

/-- One block. -/
def shaBlock {w : Nat} (r : ShaRot) (k : List (BitVec w)) (s : Sha8 w) (blk : List Byte) : Sha8 w :=
  let ws := (byteGroups (w / 8) 16 blk).map (fun b => BitVec.ofNat w (beNat b))
  let t := (List.zip k (shaSched r k.length ws)).foldl (shaRound r) s
  ⟨s.a + t.a, s.b + t.b, s.c + t.c, s.d + t.d, s.e + t.e, s.f + t.f, s.g + t.g, s.h + t.h⟩

/-- Digest bytes of the chaining words. -/
def sha8Bytes {w : Nat} (s : Sha8 w) : List Byte :=
  [s.a, s.b, s.c, s.d, s.e, s.f, s.g, s.h].flatMap (fun x => beBytes (w / 8) x.toNat)

def sha256K : List (BitVec 32) :=
  [0x428A2F98, 0x71374491, 0xB5C0FBCF, 0xE9B5DBA5, 0x3956C25B, 0x59F111F1, 0x923F82A4, 0xAB1C5ED5]
    ++ [0xD807AA98, 0x12835B01, 0x243185BE, 0x550C7DC3, 0x72BE5D74, 0x80DEB1FE, 0x9BDC06A7, 0xC19BF174]
    ++ [0xE49B69C1, 0xEFBE4786, 0x0FC19DC6, 0x240CA1CC, 0x2DE92C6F, 0x4A7484AA, 0x5CB0A9DC, 0x76F988DA]
    ++ [0x983E5152, 0xA831C66D, 0xB00327C8, 0xBF597FC7, 0xC6E00BF3, 0xD5A79147, 0x06CA6351, 0x14292967]
    ++ [0x27B70A85, 0x2E1B2138, 0x4D2C6DFC, 0x53380D13, 0x650A7354, 0x766A0ABB, 0x81C2C92E, 0x92722C85]
    ++ [0xA2BFE8A1, 0xA81A664B, 0xC24B8B70, 0xC76C51A3, 0xD192E819, 0xD6990624, 0xF40E3585, 0x106AA070]
    ++ [0x19A4C116, 0x1E376C08, 0x2748774C, 0x34B0BCB5, 0x391C0CB3, 0x4ED8AA4A, 0x5B9CCA4F, 0x682E6FF3]
    ++ [0x748F82EE, 0x78A5636F, 0x84C87814, 0x8CC70208, 0x90BEFFFA, 0xA4506CEB, 0xBEF9A3F7, 0xC67178F2]

def sha512K : List (BitVec 64) :=
  [0x428A2F98D728AE22, 0x7137449123EF65CD, 0xB5C0FBCFEC4D3B2F, 0xE9B5DBA58189DBBC]
    ++ [0x3956C25BF348B538, 0x59F111F1B605D019, 0x923F82A4AF194F9B, 0xAB1C5ED5DA6D8118]
    ++ [0xD807AA98A3030242, 0x12835B0145706FBE, 0x243185BE4EE4B28C, 0x550C7DC3D5FFB4E2]
    ++ [0x72BE5D74F27B896F, 0x80DEB1FE3B1696B1, 0x9BDC06A725C71235, 0xC19BF174CF692694]
    ++ [0xE49B69C19EF14AD2, 0xEFBE4786384F25E3, 0x0FC19DC68B8CD5B5, 0x240CA1CC77AC9C65]
    ++ [0x2DE92C6F592B0275, 0x4A7484AA6EA6E483, 0x5CB0A9DCBD41FBD4, 0x76F988DA831153B5]
    ++ [0x983E5152EE66DFAB, 0xA831C66D2DB43210, 0xB00327C898FB213F, 0xBF597FC7BEEF0EE4]
    ++ [0xC6E00BF33DA88FC2, 0xD5A79147930AA725, 0x06CA6351E003826F, 0x142929670A0E6E70]
    ++ [0x27B70A8546D22FFC, 0x2E1B21385C26C926, 0x4D2C6DFC5AC42AED, 0x53380D139D95B3DF]
    ++ [0x650A73548BAF63DE, 0x766A0ABB3C77B2A8, 0x81C2C92E47EDAEE6, 0x92722C851482353B]
    ++ [0xA2BFE8A14CF10364, 0xA81A664BBC423001, 0xC24B8B70D0F89791, 0xC76C51A30654BE30]
    ++ [0xD192E819D6EF5218, 0xD69906245565A910, 0xF40E35855771202A, 0x106AA07032BBD1B8]
    ++ [0x19A4C116B8D2D0C8, 0x1E376C085141AB53, 0x2748774CDF8EEB99, 0x34B0BCB5E19B48A8]
    ++ [0x391C0CB3C5C95A63, 0x4ED8AA4AE3418ACB, 0x5B9CCA4F7763E373, 0x682E6FF3D6B2B8A3]
    ++ [0x748F82EE5DEFB2FC, 0x78A5636F43172F60, 0x84C87814A1F0AB72, 0x8CC702081A6439EC]
    ++ [0x90BEFFFA23631E28, 0xA4506CEBDE82BDE9, 0xBEF9A3F7B2C67915, 0xC67178F2E372532B]
    ++ [0xCA273ECEEA26619C, 0xD186B8C721C0C207, 0xEADA7DD6CDE0EB1E, 0xF57D4F7FEE6ED178]
    ++ [0x06F067AA72176FBA, 0x0A637DC5A2C898A6, 0x113F9804BEF90DAE, 0x1B710B35131C471B]
    ++ [0x28DB77F523047D84, 0x32CAAB7B40C72493, 0x3C9EBE0A15C9BEBC, 0x431D67C49C100D4C]
    ++ [0x4CC5D4BECB3E42B6, 0x597F299CFC657E2A, 0x5FCB6FAB3AD6FAEC, 0x6C44198C4A475817]

def sha256Init : Sha8 32 :=
  ⟨0x6A09E667, 0xBB67AE85, 0x3C6EF372, 0xA54FF53A, 0x510E527F, 0x9B05688C, 0x1F83D9AB, 0x5BE0CD19⟩

def sha512Init : Sha8 64 :=
  ⟨0x6A09E667F3BCC908, 0xBB67AE8584CAA73B, 0x3C6EF372FE94F82B, 0xA54FF53A5F1D36F1,
    0x510E527FADE682D1, 0x9B05688C2B3E6C1F, 0x1F83D9ABFB41BD6B, 0x5BE0CD19137E2179⟩

def sha384Init : Sha8 64 :=
  ⟨0xCBBB9D5DC1059ED8, 0x629A292A367CD507, 0x9159015A3070DD17, 0x152FECD8F70E5939,
    0x67332667FFC00B31, 0x8EB44A8768581511, 0xDB0C2E0D64F98FA7, 0x47B5481DBEFA4FA4⟩

/-- SHA-256. -/
def sha256 (m : List Byte) : List Byte :=
  let p := shaPad 64 8 m
  sha8Bytes ((byteGroups 64 p.length p).foldl (shaBlock sha256Rot sha256K) sha256Init)

/-- SHA-512. -/
def sha512 (m : List Byte) : List Byte :=
  let p := shaPad 128 16 m
  sha8Bytes ((byteGroups 128 p.length p).foldl (shaBlock sha512Rot sha512K) sha512Init)

/-- SHA-384. -/
def sha384 (m : List Byte) : List Byte :=
  let p := shaPad 128 16 m
  (sha8Bytes ((byteGroups 128 p.length p).foldl (shaBlock sha512Rot sha512K) sha384Init)).take 48

/-- HMAC over a hash with block length `blk`. -/
def hmacWith (hash : List Byte → List Byte) (blk : Nat) (key msg : List Byte) : List Byte :=
  let k0 := if blk < key.length then hash key else key
  let k := k0 ++ zeros (blk - k0.length)
  hash (k.map (fun b => b ^^^ 0x5C) ++ hash (k.map (fun b => b ^^^ 0x36) ++ msg))

/-- HMAC-SHA-256. -/
def hmac256 (key msg : List Byte) : List Byte := hmacWith sha256 64 key msg

/-- HMAC-SHA-384. -/
def hmac384 (key msg : List Byte) : List Byte := hmacWith sha384 128 key msg

/-- HKDF-Extract with SHA-256. -/
def hkdfExtract (salt ikm : List Byte) : List Byte := hmac256 salt ikm

/-- HKDF-Expand blocks. -/
def hkdfGo (prk info : List Byte) : Nat → Nat → List Byte → List Byte
  | 0, _, _ => []
  | n + 1, i, prev =>
    let t := hmac256 prk (prev ++ info ++ [BitVec.ofNat 8 i])
    t ++ hkdfGo prk info n (i + 1) t

/-- HKDF-Expand with SHA-256 to `n` bytes. -/
def hkdfExpand (prk info : List Byte) (n : Nat) : List Byte := (hkdfGo prk info ((n + 31) / 32) 1 []).take n

/-- HKDF with SHA-256. -/
def hkdf (salt ikm info : List Byte) (n : Nat) : List Byte := hkdfExpand (hkdfExtract salt ikm) info n

def md5K : List (BitVec 32) :=
  [0xD76AA478, 0xE8C7B756, 0x242070DB, 0xC1BDCEEE, 0xF57C0FAF, 0x4787C62A, 0xA8304613, 0xFD469501]
    ++ [0x698098D8, 0x8B44F7AF, 0xFFFF5BB1, 0x895CD7BE, 0x6B901122, 0xFD987193, 0xA679438E, 0x49B40821]
    ++ [0xF61E2562, 0xC040B340, 0x265E5A51, 0xE9B6C7AA, 0xD62F105D, 0x02441453, 0xD8A1E681, 0xE7D3FBC8]
    ++ [0x21E1CDE6, 0xC33707D6, 0xF4D50D87, 0x455A14ED, 0xA9E3E905, 0xFCEFA3F8, 0x676F02D9, 0x8D2A4C8A]
    ++ [0xFFFA3942, 0x8771F681, 0x6D9D6122, 0xFDE5380C, 0xA4BEEA44, 0x4BDECFA9, 0xF6BB4B60, 0xBEBFBC70]
    ++ [0x289B7EC6, 0xEAA127FA, 0xD4EF3085, 0x04881D05, 0xD9D4D039, 0xE6DB99E5, 0x1FA27CF8, 0xC4AC5665]
    ++ [0xF4292244, 0x432AFF97, 0xAB9423A7, 0xFC93A039, 0x655B59C3, 0x8F0CCC92, 0xFFEFF47D, 0x85845DD1]
    ++ [0x6FA87E4F, 0xFE2CE6E0, 0xA3014314, 0x4E0811A1, 0xF7537E82, 0xBD3AF235, 0x2AD7D2BB, 0xEB86D391]

/-- Rotation of MD5 round `i`. -/
def md5Rot (i : Nat) : Nat :=
  let r := if i < 16 then [7, 12, 17, 22] else if i < 32 then [5, 9, 14, 20] else if i < 48 then [4, 11, 16, 23]
    else [6, 10, 15, 21]
  (r.drop (i % 4)).headD 0

/-- One MD5 block. -/
def md5Block (s : BitVec 32 × BitVec 32 × BitVec 32 × BitVec 32) (blk : List Byte) :
    BitVec 32 × BitVec 32 × BitVec 32 × BitVec 32 :=
  let ws := (byteGroups 4 16 blk).map (fun b => BitVec.ofNat 32 (leNat b))
  let t := (List.zip (List.range 64) md5K).foldl (fun (x : BitVec 32 × BitVec 32 × BitVec 32 × BitVec 32) ik =>
    let i := ik.1
    let (a, b, c, d) := x
    let f := if i < 16 then (b &&& c) ||| (~~~ b &&& d) else if i < 32 then (d &&& b) ||| (~~~ d &&& c)
      else if i < 48 then b ^^^ c ^^^ d else c ^^^ (b ||| ~~~ d)
    let g := if i < 16 then i else if i < 32 then (5 * i + 1) % 16 else if i < 48 then (3 * i + 5) % 16 else (7 * i) % 16
    (d, b + (a + f + ik.2 + (ws.drop g).headD 0).rotateLeft (md5Rot i), b, c)) s
  (s.1 + t.1, s.2.1 + t.2.1, s.2.2.1 + t.2.2.1, s.2.2.2 + t.2.2.2)

/-- MD5. -/
def md5 (m : List Byte) : List Byte :=
  let used := (m.length + 9) % 64
  let p := m ++ 0x80 :: zeros ((64 - used) % 64) ++ leBytes 8 (8 * m.length)
  let r := (byteGroups 64 p.length p).foldl md5Block (0x67452301, 0xEFCDAB89, 0x98BADCFE, 0x10325476)
  [r.1, r.2.1, r.2.2.1, r.2.2.2].flatMap (fun x => leBytes 4 x.toNat)

end Sys2Proof.Machine
end

