-- ==== Sys2Proof/Machine/Aes.lean ====
section
/-!
DEFINITION. Machine/Aes.lean: AES (FIPS 197) with 128- and 256-bit keys and the modes the device uses: ECB, CMAC
(RFC 4493), S2V and SIV (RFC 5297), counter mode and GCM (NIST SP 800-38D).
-/
namespace Sys2Proof.Machine
open Sys2Proof

/-- The AES S-box, byte x at bits 8x. -/
def aesSbox : Nat :=
  0x16bb54b00f2d99416842e6bf0d89a18cdf2855cee9871e9b948ed9691198f8e19e1dc186b95735610ef6034866b53e708a8bbd4b1f74dde8c6b4a61c2e2578ba * 2 ^ 1536
    + 0x08ae7a65eaf4566ca94ed58d6d37c8e779e4959162acd3c25c2406490a3a32e0db0b5ede14b8ee4688902a22dc4f816073195d643d7ea7c41744975fec130ccd * 2 ^ 1024
    + 0xd2f3ff1021dab6bcf5389d928f40a351a89f3c507f02f94585334d43fbaaefd0cf584c4a39becb6a5bb1fc20ed00d153842fe329b3d63b52a05a6e1b1a2c8309 * 2 ^ 512
    + 0x75b227ebe28012079a059618c323c7041531d871f1e5a534ccf73f362693fdb7c072a49cafa2d4adf04759fa7dc982ca76abd7fe2b670130c56f6bf27b777c63 * 2 ^ 0

/-- The inverse S-box. -/
def aesInvSbox : Nat :=
  0x7d0c2155631469e126d677ba7e042b17619953833cbbebc8b0f52aae4d3be0a0ef9cc9939f7ae52d0d4ab519a97f51605fec8027591012b131c7078833a8dd1f * 2 ^ 1536
    + 0xf45acd78fec0db9a2079d2c64b3e56fc1bbe18aa0e62b76f89c5291d711af1476edf751ce837f9e28535ade72274ac9673e6b4f0cecff297eadc674f4111913a * 2 ^ 1024
    + 0x6b8a130103bdafc1020f3fca8f1e2cd00645b3b80558e4f70ad3bc8c00abd890849d8da75746155edab9edfd5048706c92b6655dcc5ca4d41698688664f6f872 * 2 ^ 512
    + 0x25d18b6d49a25b76b224d92866a12e084ec3fa420b954cee3d23c2a632947b54cbe9dec444438e3487ff2f9b8239e37cfbd7f3819ea340bf38a53630d56a0952 * 2 ^ 0

/-- Look a byte up in a packed table. -/
def tabByte (t : Nat) (b : Byte) : Byte := BitVec.ofNat 8 (t >>> (8 * b.toNat))

/-- Multiply by x in GF(2^8). -/
def xtime (b : Byte) : Byte := (b <<< 1) ^^^ (if b.getLsbD 7 then 0x1B else 0)

/-- Multiply in GF(2^8). -/
def gfMul (a b : Byte) : Byte :=
  ((List.range 8).foldl (fun (acc : Byte × Byte) i => (if b.getLsbD i then acc.1 ^^^ acc.2 else acc.1, xtime acc.2)) (0, a)).1

/-- Exclusive or of byte lists, to the shorter length. -/
def xorBytes (a b : List Byte) : List Byte := List.zipWith (fun x y => x ^^^ y) a b

/-- Split into groups of `n` bytes. -/
def chunks (n : Nat) : Nat → List Byte → List (List Byte)
  | 0, _ => []
  | _, [] => []
  | fuel + 1, bs => bs.take n :: chunks n fuel (bs.drop n)

/-- Sixteen-byte blocks, the last one possibly short. -/
def blocks16 (bs : List Byte) : List (List Byte) := chunks 16 bs.length bs

/-- Key schedule: the words after the first `nk`, newest first in `acc`. -/
def aesExpand (nk : Nat) : Nat → Nat → Byte → List (List Byte) → List (List Byte)
  | 0, _, _, acc => acc
  | n + 1, i, rc, acc =>
    let prev := acc.headD []
    let back := (acc.drop (nk - 1)).headD []
    let t := if i % nk = 0 then
        match (prev.drop 1 ++ prev.take 1).map (tabByte aesSbox) with
        | b :: r => (b ^^^ rc) :: r
        | [] => []
      else if nk = 8 ∧ i % nk = 4 then prev.map (tabByte aesSbox) else prev
    aesExpand nk n (i + 1) (if i % nk = 0 then xtime rc else rc) (xorBytes back t :: acc)

/-- Round keys of a 16- or 32-byte key. -/
def aesKeys (key : List Byte) : List (List Byte) :=
  let nk := key.length / 4
  let ws := (aesExpand nk (4 * (nk + 7) - nk) nk 1 (chunks 4 nk key).reverse).reverse
  chunks 16 (nk + 7) ws.flatten

/-- Columns of a state. -/
def aesCols (st : List Byte) : List (List Byte) := chunks 4 4 st

def at4 (st : List Byte) (i : Nat) : Byte := (st.drop i).headD 0

/-- ShiftRows: byte 4c + r comes from column c + r. -/
def shiftRows (st : List Byte) : List Byte := (List.range 16).map (fun i => at4 st ((i + 4 * (i % 4)) % 16))
def invShiftRows (st : List Byte) : List Byte := (List.range 16).map (fun i => at4 st ((i + 16 - 4 * (i % 4)) % 16))

/-- One column times the circulant matrix of `m`. -/
def mixCol (m : List Byte) (c : List Byte) : List Byte :=
  (List.range 4).map (fun r => (List.range 4).foldl (fun a k => a ^^^ gfMul (at4 m ((k + 4 - r) % 4)) (at4 c k)) 0)

def mixColumns (st : List Byte) : List Byte := (aesCols st).flatMap (mixCol [2, 3, 1, 1])
def invMixColumns (st : List Byte) : List Byte := (aesCols st).flatMap (mixCol [14, 11, 13, 9])

/-- The rounds after the first key addition. -/
def aesRounds : List (List Byte) → List Byte → List Byte
  | [], st => st
  | [k], st => xorBytes (shiftRows (st.map (tabByte aesSbox))) k
  | k :: ks, st => aesRounds ks (xorBytes (mixColumns (shiftRows (st.map (tabByte aesSbox)))) k)

/-- Encrypt one block. -/
def aesEnc (key blk : List Byte) : List Byte :=
  match aesKeys key with
  | [] => []
  | k :: ks => aesRounds ks (xorBytes blk k)

/-- The inverse rounds; keys from the last to the first. -/
def aesInvRounds : List (List Byte) → List Byte → List Byte
  | [], st => st
  | [k], st => xorBytes ((invShiftRows st).map (tabByte aesInvSbox)) k
  | k :: ks, st => aesInvRounds ks (invMixColumns (xorBytes ((invShiftRows st).map (tabByte aesInvSbox)) k))

/-- Decrypt one block. -/
def aesDec (key blk : List Byte) : List Byte :=
  match (aesKeys key).reverse with
  | [] => []
  | k :: ks => aesInvRounds ks (xorBytes blk k)

/-- Doubling in GF(2^128), big-endian (RFC 4493, RFC 5297). -/
def dbl (b : List Byte) : List Byte :=
  let n := beNat b
  beBytes 16 (((2 * n) % 2 ^ 128) ^^^ (if n / 2 ^ 127 = 1 then 0x87 else 0))

/-- CMAC chaining over the blocks of a message; the last one meets its subkey. -/
def cmacGo (key k1 k2 : List Byte) : List (List Byte) → List Byte → List Byte
  | [], x => aesEnc key (xorBytes x (xorBytes (0x80 :: zeros 15) k2))
  | [b], x =>
    let m := if b.length = 16 then xorBytes b k1 else xorBytes (b ++ 0x80 :: zeros (15 - b.length)) k2
    aesEnc key (xorBytes x m)
  | b :: r, x => cmacGo key k1 k2 r (aesEnc key (xorBytes x b))

/-- AES-CMAC. -/
def cmac (key msg : List Byte) : List Byte :=
  let k1 := dbl (aesEnc key (zeros 16))
  cmacGo key k1 (dbl k1) (blocks16 msg) (zeros 16)

/-- S2V over associated components and the plaintext (RFC 5297). -/
def s2v (key : List Byte) (ad : List (List Byte)) (pt : List Byte) : List Byte :=
  let d := ad.foldl (fun d a => xorBytes (dbl d) (cmac key a)) (cmac key (zeros 16))
  let n := pt.length
  if 16 ≤ n then cmac key (pt.take (n - 16) ++ xorBytes (pt.drop (n - 16)) d)
  else cmac key (xorBytes (dbl d) (pt ++ 0x80 :: zeros (15 - n)))

/-- Counter-mode keystream over the blocks of a message. -/
def ctrGo (key : List Byte) (step : Nat → Nat) : Nat → List (List Byte) → List Byte
  | _, [] => []
  | c, b :: r => xorBytes b (aesEnc key (beBytes 16 c)) ++ ctrGo key step (step c) r

/-- Seal: V and ciphertext (RFC 5297); the key is the S2V half followed by the counter half. -/
def sivSeal (key : List Byte) (ad : List (List Byte)) (pt : List Byte) : List Byte × List Byte :=
  let h := key.length / 2
  let v := s2v (key.take h) ad pt
  let q := beNat v - (beNat v / 2 ^ 63 % 2) * 2 ^ 63 - (beNat v / 2 ^ 31 % 2) * 2 ^ 31
  (v, ctrGo (key.drop h) (fun c => (c + 1) % 2 ^ 128) q (blocks16 pt))

/-- Open: the plaintext where V agrees. -/
def sivOpen (key : List Byte) (ad : List (List Byte)) (v ct : List Byte) : Option (List Byte) :=
  let h := key.length / 2
  let q := beNat v - (beNat v / 2 ^ 63 % 2) * 2 ^ 63 - (beNat v / 2 ^ 31 % 2) * 2 ^ 31
  let pt := ctrGo (key.drop h) (fun c => (c + 1) % 2 ^ 128) q (blocks16 ct)
  if s2v (key.take h) ad pt = v then some pt else none

/-- Product in the field of GHASH. -/
def ghashMul (x y : Nat) : Nat :=
  ((List.range 128).foldl (fun (acc : Nat × Nat) i =>
    (if x.testBit (127 - i) then acc.1 ^^^ acc.2 else acc.1,
     if acc.2 % 2 = 1 then acc.2 / 2 ^^^ 0xE1000000000000000000000000000000 else acc.2 / 2)) (0, y)).1

/-- GHASH over bytes padded to blocks. -/
def ghash (h : Nat) (bs : List Byte) (x0 : Nat) : Nat :=
  (blocks16 bs).foldl (fun x b => ghashMul (x ^^^ beNat (b ++ zeros (16 - b.length))) h) x0

/-- Next counter block of GCM: the low 32 bits count. -/
def gcmStep (c : Nat) : Nat := c / 2 ^ 32 * 2 ^ 32 + (c + 1) % 2 ^ 32

/-- The GCM tag of a ciphertext. -/
def gcmTag (key iv aad ct : List Byte) : List Byte :=
  let h := beNat (aesEnc key (zeros 16))
  let x := ghash h ct (ghash h aad 0)
  let y := ghashMul (x ^^^ (8 * aad.length * 2 ^ 64 + 8 * ct.length)) h
  xorBytes (beBytes 16 y) (aesEnc key (iv ++ [0, 0, 0, 1]))

/-- AES-GCM with a 12-byte nonce: ciphertext and 16-byte tag. -/
def gcmSeal (key iv aad pt : List Byte) : List Byte :=
  let ct := ctrGo key gcmStep (beNat (iv ++ [0, 0, 0, 2])) (blocks16 pt)
  ct ++ gcmTag key iv aad ct

/-- AES-GCM open: the plaintext where the tag agrees. -/
def gcmOpen (key iv aad box : List Byte) : Option (List Byte) :=
  let n := box.length - 16
  let ct := box.take n
  if 16 ≤ box.length ∧ gcmTag key iv aad ct = box.drop n then
    some (ctrGo key gcmStep (beNat (iv ++ [0, 0, 0, 2])) (blocks16 ct))
  else none

end Sys2Proof.Machine
end

