-- ==== Sys2Proof/Machine/Map.lean ====
section
/-!
DEFINITION. Machine/Map.lean: sparse maps from Nat to plain data. A map is a list of pairs whose keys rise strictly and
whose values differ from what an unlisted key reads as; that default is a function of the key (the reset value of a
register, the erased byte of the flash, a unit that has done nothing). Equal contents are therefore equal lists.
-/
namespace Sys2Proof.Machine

variable {α : Type}

/-- The value at `k`; `d k` where the map lists nothing. -/
def mapGet (d : Nat → α) : List (Nat × α) → Nat → α
  | [], k => d k
  | (j, v) :: m, k => if k = j then v else if k < j then d k else mapGet d m k

/-- Write `v` at `k`; writing the default removes the entry. -/
def mapSet [DecidableEq α] (d : Nat → α) (k : Nat) (v : α) : List (Nat × α) → List (Nat × α)
  | [] => if v = d k then [] else [(k, v)]
  | (j, w) :: m =>
    if k < j then (if v = d k then (j, w) :: m else (k, v) :: (j, w) :: m)
    else if k = j then (if v = d k then m else (k, v) :: m)
    else (j, w) :: mapSet d k v m

/-- Every key is above `b` and keys rise. -/
def mapRises (b : Nat) : List (Nat × α) → Bool
  | [] => true
  | (j, _) :: m => decide (b < j) && mapRises j m

/-- The canonical form of a map. -/
def mapWf [DecidableEq α] (d : Nat → α) : List (Nat × α) → Bool
  | [] => true
  | (j, w) :: m => decide (w ≠ d j) && mapRises j m && mapWf d m

/-- `n` bytes of a byte map from address `a`, lowest address first. -/
def mapBytes (d : Nat → BitVec 8) (m : List Host.Cell) (a : Nat) : Nat → List (BitVec 8)
  | 0 => []
  | n + 1 => mapGet d m a :: mapBytes d m (a + 1) n

/-- Write the bytes `bs` from address `a` up. -/
def mapPut (d : Nat → BitVec 8) (m : List Host.Cell) (a : Nat) : List (BitVec 8) → List Host.Cell
  | [] => m
  | b :: bs => mapPut d (mapSet d a b m) (a + 1) bs

/-- Change every value a map lists; the canonical form stays. -/
def mapEach [DecidableEq α] (d : Nat → α) (f : α → α) (m : List (Nat × α)) : List (Nat × α) :=
  m.foldr (fun x a => if f x.2 = d x.1 then a else (x.1, f x.2) :: a) []

end Sys2Proof.Machine
end

