-- ==== Sys2Proof/Machine/Regs.lean ====
section
/-!
DEFINITION. Machine/Regs.lean: the registers of the management address space, their fields, access types (R13),
reset values and stated ranges (R527), taken row by row from the register tables of the chapters 02 to 24, and the
lookup of a register by its address (R16, R520). One row per register name; `n` and `k` are its instance numbers.
-/
namespace Sys2Proof.Machine
open Sys2Proof

/-- A bit field of a 64-bit register: its lowest bit and its width. -/
structure Fld where
  lo : Nat
  width : Nat
  deriving DecidableEq, Repr

/-- Access types of R13. -/
inductive Acc where
  | ro | rw | rw1c | wo | rc | rwl
  deriving DecidableEq, Repr

/-- The values a field accepts under R527. -/
inductive Rng where
  | any
  | nat (lo hi : Nat)
  | int (lo hi : Int)
  | list (vs : List Nat)
  deriving DecidableEq, Repr

/-- One line of a register table. -/
structure FRow where
  f : Fld
  acc : Acc
  reset : Nat
  rng : Rng
  deriving DecidableEq, Repr

/-- One register entry: `n1` instances `s1` bytes apart, each with `n2` words `s2` bytes apart. -/
structure RegRow where
  base : Nat
  n1 : Nat
  s1 : Nat
  n2 : Nat
  s2 : Nat
  fields : List FRow
  deriving DecidableEq, Repr

-- Event source IDs (R470 and the chapters' tables).
def EV_TSU_SET_DONE : Nat := 0
def EV_TSU_SET_TIMEOUT : Nat := 1
def EV_TSU_SLEW_DONE : Nat := 2
def EV_TSU_LEAP_DONE : Nat := 3
def EV_TSU_DIST_MISMATCH : Nat := 4
def EV_TSU_ADJ_SAT : Nat := 5
def EV_TSU_INC_RANGE : Nat := 6
def EV_PORT_LINK_DOWN (n : Nat) : Nat := 80 + 4 * n
def EV_PORT_CAL (n : Nat) : Nat := 81 + 4 * n
def EV_PORT_FEC_ALARM (n : Nat) : Nat := 82 + 4 * n
def EV_PORT_DISCARD (n : Nat) : Nat := 83 + 4 * n
def EV_PE_STEP_LIMIT : Nat := 112
def EV_PE_NO_DISPOSITION : Nat := 113
def EV_PE_BAD_PITCH : Nat := 114
def EV_PE_TRAP : Nat := 115
def EV_PE_MEM_UE : Nat := 116
def EV_TOPO_SWAP_DONE : Nat := 117
def EV_TOPO_TBL_FLIP_DONE : Nat := 118
def EV_TOPO_TBL_ERR : Nat := 119
def EV_PE_CTX_HALTED : Nat := 120
def EV_PE_PUNT_FULL : Nat := 121
def EV_GATE_MISSED_LAUNCH : Nat := 128
def EV_GATE_HELD : Nat := 129
def EV_GATE_REVOKED : Nat := 130
def EV_GATE_DOWN_DISCARD : Nat := 131
def EV_GATE_REFUSE_FULL : Nat := 132
def EV_GATE_PTP_REFUSED : Nat := 133
def EV_GATE_FREE_DROP : Nat := 134
def EV_GATE_CORR_SAT : Nat := 135
def EV_SVC_KEY_ROTATED : Nat := 144
def EV_SVC_KEY_MISSING : Nat := 145
def EV_SVC_KEY_REVOKED : Nat := 146
def EV_SVC_RATE_LIMIT : Nat := 147
def EV_SVC_NTS_NAK : Nat := 148
def EV_SVC_UNSYNC : Nat := 149
def EV_SVC_MCAST_PROMISC : Nat := 150
def EV_BNU_DONE (n : Nat) : Nat := 160 + n
def EV_BNU_OFFLINE : Nat := 168
def EV_BNU_SIG_RETRY : Nat := 169
def EV_BNU_REFUSED : Nat := 170
def EV_BNU_MEM_UE : Nat := 171
def EV_BNU_ES_HEALTH : Nat := 172
def EV_BNU_ES_FAILED : Nat := 173
def EV_BNU_DRBG_STALE : Nat := 174
def EV_TIC_RESULT (n : Nat) : Nat := 48 + 2 * n
def EV_TIC_FAULT (n : Nat) : Nat := 49 + 2 * n
def EV_GNSS_FIX : Nat := 64
def EV_GNSS_NO_SOL : Nat := 65
def EV_GNSS_JUMP : Nat := 66
def EV_GNSS_SURVEY_DONE : Nat := 67
def EV_GNSS_POS_SUSPECT : Nat := 68
def EV_GNSS_SYS_EXCLUDED : Nat := 69
def EV_GNSS_FE_FAULT : Nat := 70
def EV_GNSS_JAM : Nat := 71
def EV_GNSS_TP : Nat := 72
def EV_GNSS_NAV_REC : Nat := 73
def EV_GNSS_PARITY : Nat := 74
def EV_GNSS_SNAP_DONE : Nat := 75
def EV_GNSS_LEAP : Nat := 76
def EV_REFS_SLOT_STATE (n : Nat) : Nat := 16 + n
def EV_REFS_SWITCH : Nat := 36
def EV_REFS_WATCH : Nat := 37
def EV_REFS_DRIFTING : Nat := 38
def EV_REFS_JUMP : Nat := 39
def EV_REFS_NONE : Nat := 40
def EV_SERVO_STATE : Nat := 8
def EV_SERVO_LOCKED : Nat := 9
def EV_SERVO_HOLDOVER : Nat := 10
def EV_SERVO_HO_EXCEEDED : Nat := 11
def EV_SERVO_SET_ARM : Nat := 12
def EV_SERVO_HO_FALLBACK : Nat := 13
def EV_PAIR_ROLE : Nat := 176
def EV_PAIR_BELAY_DOWN : Nat := 177
def EV_PAIR_TAKEOVER : Nat := 178
def EV_PAIR_REFUSED : Nat := 179
def EV_PAIR_JOURNAL_GAP : Nat := 180
def EV_PAIR_CUST_FAULT : Nat := 181
def EV_PAIR_LANE_DOWN : Nat := 182
def EV_PAIR_SYNC : Nat := 183
def EV_PAIR_CLASH : Nat := 184
def EV_HOST_RING_RSP (n : Nat) : Nat := 224 + n
def EV_HSPI_READY : Nat := 228
def EV_HARNESS_LOCKOUT : Nat := 229
def EV_HARNESS_AUTH_FAIL : Nat := 230
def EV_HARNESS_SESSION : Nat := 231
def EV_ECC_CE : Nat := 192
def EV_ECC_UE : Nat := 193
def EV_ECC_PERSIST : Nat := 194
def EV_ECC_RETIRED : Nat := 195
def EV_ECC_SPARE_EXHAUSTED : Nat := 196
def EV_ECC_LOG_FULL : Nat := 197
def EV_ECC_SCRUB_SLOW : Nat := 198
def EV_ECC_DMA_UE : Nat := 199
def EV_ECC_TOPO_REPAIR : Nat := 200
def EV_SYS_TEMP_WARN : Nat := 240
def EV_SYS_TEMP_CRIT : Nat := 241
def EV_SYS_RAIL_WARN : Nat := 242
def EV_SYS_REST_WAKE : Nat := 243
def EV_SYS_ABSENT : Nat := 244
def EV_SYS_START_STABLE : Nat := 245
def EV_SYS_RECOVERY : Nat := 246
def EV_SYS_BIVOUAC : Nat := 247
def EV_CNT_SNAP_DONE : Nat := 208
def EV_CNT_OVF : Nat := 209
def EV_CNT_DUMP_DONE : Nat := 210
def EV_CNT_DUMP_LOST : Nat := 211
def EV_CAIRN_ALERT : Nat := 212
def EV_CAIRN_SUPPRESS : Nat := 213

-- Counter indices: EC at 0, UC at 1024, OC at 1536 (R488, R490).
def EC_DROP_RSN (r : Nat) : Nat := r
def EC_TC (i : Nat) : Nat := 256 + i
/-- Port counters in the order of R87. -/
def EC_PORT (n j : Nat) : Nat := 512 + 19 * n + j
def jRX_OK : Nat := 0
def jRX_FCS : Nat := 1
def jRX_RUNT : Nat := 2
def jRX_LONG : Nat := 3
def jRX_CODE : Nat := 4
def jRX_TAGS_OVER : Nat := 5
def jRX_FILTERED : Nat := 6
def jRX_PAUSE : Nat := 7
def jRX_MAC_CTL : Nat := 8
def jRX_UNCAL : Nat := 9
def jDISP_DROP (c : Nat) : Nat := 10 + c
def jTX_OK : Nat := 14
def jTX_OVERSIZE : Nat := 15
def jFEC_CORR_SYM : Nat := 16
def jFEC_UE_CW : Nat := 17
def jRELOCK : Nat := 18
/-- Gate counters in the order of R174. -/
def EC_GATE (n j : Nat) : Nat := 664 + 14 * n + j
def jGRANT (c : Nat) : Nat := c
def jREFUSE_PORT : Nat := 4
def jREFUSE_RANGE : Nat := 5
def jREFUSE_FULL : Nat := 6
def jMISSED_LAUNCH : Nat := 7
def jHELD : Nat := 8
def jREVOKED : Nat := 9
def jDOWN_DISCARD : Nat := 10
def jFREE_TX : Nat := 11
def jFREE_DROP : Nat := 12
def jCORR_SAT : Nat := 13
def EC_RUNS_TH (t : Nat) : Nat := 776 + t
def EC_RUNS_REPROC : Nat := 787
def EC_TOPO_SWAPS : Nat := 788
def EC_TBL_FLIPS : Nat := 789
/-- NTS-KE counters in the order of R227. -/
def EC_KE (j : Nat) : Nat := 790 + j
def UC (i : Nat) : Nat := 1024 + i
def UC_TIC (n j : Nat) : Nat := UC (5 * n + j)
def UC_GNSS (j : Nat) : Nat := UC (40 + j)
def UC_REFS_SWITCHES : Nat := UC 52
def UC_REFS_TOD_BAD : Nat := UC 53
def UC_SLOT (n j : Nat) : Nat := UC (54 + 4 * n + j)
def UC_SERVO (j : Nat) : Nat := UC (134 + j)
def UC_OUT (n j : Nat) : Nat := UC (138 + 3 * n + j)
def UC_TRIG (n j : Nat) : Nat := UC (162 + 3 * n + j)
def UC_PTP (j : Nat) : Nat := UC (210 + j)
def UC_BNU (n j : Nat) : Nat := UC (227 + 16 * n + j)
def UC_ES (j : Nat) : Nat := UC (355 + j)
def UC_PAIR (j : Nat) : Nat := UC (359 + j)
def UC_ECC_CE (d : Nat) : Nat := UC (368 + d)
def UC_ECC_UE (d : Nat) : Nat := UC (380 + d)
def UC_ECC_RETIRE (d : Nat) : Nat := UC (392 + d)
def UC_ECC_TX_UE : Nat := UC 404
def UC_ECC_DMA_UE : Nat := UC 405
def UC_HARNESS (j : Nat) : Nat := UC (406 + j)

/-- TSU_STATE, State and status of the time scale (chapter 02). -/
def TSU_STATE : Nat := 0x10000
def TSU_STATE_STATE : Fld := ⟨0, 1⟩
def TSU_STATE_SET_ARMED : Fld := ⟨1, 1⟩
def TSU_STATE_SLEWING : Fld := ⟨2, 1⟩
def TSU_STATE_ADJ_SAT : Fld := ⟨3, 1⟩
def TSU_STATE_SMEAR_ACTIVE : Fld := ⟨4, 1⟩
def TSU_STATE_INC_RANGE : Fld := ⟨8, 1⟩
def row_TSU_STATE : RegRow := { base := 0x10000, n1 := 1, s1 := 1, n2 := 1, s2 := 1, fields := [⟨TSU_STATE_STATE, .ro, 0, .any⟩,
    ⟨TSU_STATE_SET_ARMED, .ro, 0, .any⟩,
    ⟨TSU_STATE_SLEWING, .ro, 0, .any⟩,
    ⟨TSU_STATE_ADJ_SAT, .ro, 0, .any⟩,
    ⟨TSU_STATE_SMEAR_ACTIVE, .ro, 0, .any⟩,
    ⟨TSU_STATE_INC_RANGE, .rw1c, 0, .any⟩] }

/-- TSU_INC_NOM, Nominal increment per TSC tick (chapter 02). -/
def TSU_INC_NOM : Nat := 0x10008
def TSU_INC_NOM_INC_NOM : Fld := ⟨0, 56⟩
def row_TSU_INC_NOM : RegRow := { base := 0x10008, n1 := 1, s1 := 1, n2 := 1, s2 := 1, fields := [⟨TSU_INC_NOM_INC_NOM, .rwl, 0xA00000000000, .any⟩] }

/-- TSU_INC_EFF, Effective increment in use (chapter 02). -/
def TSU_INC_EFF : Nat := 0x10010
def TSU_INC_EFF_INC_EFF : Fld := ⟨0, 64⟩
def row_TSU_INC_EFF : RegRow := { base := 0x10010, n1 := 1, s1 := 1, n2 := 1, s2 := 1, fields := [⟨TSU_INC_EFF_INC_EFF, .ro, 0xA0000000000000, .any⟩] }

/-- TSU_FREQ_ADJ, Steering value (chapter 02). -/
def TSU_FREQ_ADJ : Nat := 0x10018
def TSU_FREQ_ADJ_FREQ_ADJ : Fld := ⟨0, 40⟩
def row_TSU_FREQ_ADJ : RegRow := { base := 0x10018, n1 := 1, s1 := 1, n2 := 1, s2 := 1, fields := [⟨TSU_FREQ_ADJ_FREQ_ADJ, .rw, 0, .any⟩] }

/-- TSU_SLEW_LIMIT, Maximum slew rate (chapter 02). -/
def TSU_SLEW_LIMIT : Nat := 0x10020
def TSU_SLEW_LIMIT_LIMIT : Fld := ⟨0, 10⟩
def row_TSU_SLEW_LIMIT : RegRow := { base := 0x10020, n1 := 1, s1 := 1, n2 := 1, s2 := 1, fields := [⟨TSU_SLEW_LIMIT_LIMIT, .rw, 0x64, (.nat 1 1000)⟩] }

/-- TSU_SLEW_REQ, Slew request (chapter 02). -/
def TSU_SLEW_REQ : Nat := 0x10028
def TSU_SLEW_REQ_AMOUNT : Fld := ⟨0, 64⟩
def row_TSU_SLEW_REQ : RegRow := { base := 0x10028, n1 := 1, s1 := 1, n2 := 1, s2 := 1, fields := [⟨TSU_SLEW_REQ_AMOUNT, .wo, 0, .any⟩] }

/-- TSU_SLEW_RATE, Requested slew rate (chapter 02). -/
def TSU_SLEW_RATE : Nat := 0x10030
def TSU_SLEW_RATE_RATE : Fld := ⟨0, 10⟩
def row_TSU_SLEW_RATE : RegRow := { base := 0x10030, n1 := 1, s1 := 1, n2 := 1, s2 := 1, fields := [⟨TSU_SLEW_RATE_RATE, .rw, 0, .any⟩] }

/-- TSU_SLEW_REMAIN, Amount of slew still to apply (chapter 02). -/
def TSU_SLEW_REMAIN : Nat := 0x10038
def TSU_SLEW_REMAIN_REMAIN : Fld := ⟨0, 64⟩
def row_TSU_SLEW_REMAIN : RegRow := { base := 0x10038, n1 := 1, s1 := 1, n2 := 1, s2 := 1, fields := [⟨TSU_SLEW_REMAIN_REMAIN, .ro, 0, .any⟩] }

/-- TSU_SET_SEC, Seconds of the set value; one copy per initiator (R51) (chapter 02). -/
def TSU_SET_SEC : Nat := 0x10040
def TSU_SET_SEC_SEC : Fld := ⟨0, 64⟩
def row_TSU_SET_SEC : RegRow := { base := 0x10040, n1 := 1, s1 := 1, n2 := 1, s2 := 1, fields := [⟨TSU_SET_SEC_SEC, .rw, 0, .any⟩] }

/-- TSU_SET_SUB, Sub-second part of the set value; one copy per initiator (R51) (chapter 02). -/
def TSU_SET_SUB : Nat := 0x10048
def TSU_SET_SUB_FRAC : Fld := ⟨0, 32⟩
def TSU_SET_SUB_NS : Fld := ⟨32, 32⟩
def row_TSU_SET_SUB : RegRow := { base := 0x10048, n1 := 1, s1 := 1, n2 := 1, s2 := 1, fields := [⟨TSU_SET_SUB_FRAC, .rw, 0, .any⟩,
    ⟨TSU_SET_SUB_NS, .rw, 0, .any⟩] }

/-- TSU_SET_CTL, Arms or cancels the initial set. EDGE and PIN have one copy per initiator (R51) (chapter 02). -/
def TSU_SET_CTL : Nat := 0x10050
def TSU_SET_CTL_EDGE : Fld := ⟨0, 1⟩
def TSU_SET_CTL_PIN : Fld := ⟨1, 3⟩
def TSU_SET_CTL_ARM : Fld := ⟨8, 1⟩
def TSU_SET_CTL_CANCEL : Fld := ⟨9, 1⟩
def row_TSU_SET_CTL : RegRow := { base := 0x10050, n1 := 1, s1 := 1, n2 := 1, s2 := 1, fields := [⟨TSU_SET_CTL_EDGE, .rw, 0, .any⟩,
    ⟨TSU_SET_CTL_PIN, .rw, 0, .any⟩,
    ⟨TSU_SET_CTL_ARM, .wo, 0, .any⟩,
    ⟨TSU_SET_CTL_CANCEL, .wo, 0, .any⟩] }

/-- TSU_SET_BOUND, Error bound loaded at the set edge; one copy per initiator (R51) (chapter 02). -/
def TSU_SET_BOUND : Nat := 0x10058
def TSU_SET_BOUND_BOUND : Fld := ⟨0, 32⟩
def row_TSU_SET_BOUND : RegRow := { base := 0x10058, n1 := 1, s1 := 1, n2 := 1, s2 := 1, fields := [⟨TSU_SET_BOUND_BOUND, .rw, 0xFFFFFFFF, .any⟩] }

/-- TSU_NOW_LO, Captures the TSU state and returns its low half (chapter 02). -/
def TSU_NOW_LO : Nat := 0x10060
def TSU_NOW_LO_FRAC : Fld := ⟨0, 32⟩
def TSU_NOW_LO_NS : Fld := ⟨32, 32⟩
def row_TSU_NOW_LO : RegRow := { base := 0x10060, n1 := 1, s1 := 1, n2 := 1, s2 := 1, fields := [⟨TSU_NOW_LO_FRAC, .ro, 0, .any⟩,
    ⟨TSU_NOW_LO_NS, .ro, 0, .any⟩] }

/-- TSU_NOW_HI, Seconds of the initiator's last capture (chapter 02). -/
def TSU_NOW_HI : Nat := 0x10068
def TSU_NOW_HI_SEC : Fld := ⟨0, 64⟩
def row_TSU_NOW_HI : RegRow := { base := 0x10068, n1 := 1, s1 := 1, n2 := 1, s2 := 1, fields := [⟨TSU_NOW_HI_SEC, .ro, 0, .any⟩] }

/-- TSU_CAP_STATUS, Status of the initiator's last capture (chapter 02). -/
def TSU_CAP_STATUS : Nat := 0x10070
def TSU_CAP_STATUS_BOUND : Fld := ⟨0, 32⟩
def TSU_CAP_STATUS_UTC_OFFSET : Fld := ⟨32, 16⟩
def TSU_CAP_STATUS_LEAP : Fld := ⟨48, 2⟩
def TSU_CAP_STATUS_STATE : Fld := ⟨50, 1⟩
def TSU_CAP_STATUS_SLEWING : Fld := ⟨51, 1⟩
def row_TSU_CAP_STATUS : RegRow := { base := 0x10070, n1 := 1, s1 := 1, n2 := 1, s2 := 1, fields := [⟨TSU_CAP_STATUS_BOUND, .ro, 0, .any⟩,
    ⟨TSU_CAP_STATUS_UTC_OFFSET, .ro, 0, .any⟩,
    ⟨TSU_CAP_STATUS_LEAP, .ro, 0, .any⟩,
    ⟨TSU_CAP_STATUS_STATE, .ro, 0, .any⟩,
    ⟨TSU_CAP_STATUS_SLEWING, .ro, 0, .any⟩] }

/-- TSU_UTC_OFFSET, TAI − UTC (chapter 02). -/
def TSU_UTC_OFFSET : Nat := 0x10078
def TSU_UTC_OFFSET_OFFSET : Fld := ⟨0, 16⟩
def row_TSU_UTC_OFFSET : RegRow := { base := 0x10078, n1 := 1, s1 := 1, n2 := 1, s2 := 1, fields := [⟨TSU_UTC_OFFSET_OFFSET, .rw, 0, .any⟩] }

/-- TSU_LEAP_PENDING, Pending leap second (chapter 02). -/
def TSU_LEAP_PENDING : Nat := 0x10080
def TSU_LEAP_PENDING_PENDING : Fld := ⟨0, 2⟩
def row_TSU_LEAP_PENDING : RegRow := { base := 0x10080, n1 := 1, s1 := 1, n2 := 1, s2 := 1, fields := [⟨TSU_LEAP_PENDING_PENDING, .rw, 0, (.list [0,1,3])⟩] }

/-- TSU_LEAP_SEC, First TAI second of the changed offset (chapter 02). -/
def TSU_LEAP_SEC : Nat := 0x10088
def TSU_LEAP_SEC_SEC : Fld := ⟨0, 64⟩
def row_TSU_LEAP_SEC : RegRow := { base := 0x10088, n1 := 1, s1 := 1, n2 := 1, s2 := 1, fields := [⟨TSU_LEAP_SEC_SEC, .rw, 0, .any⟩] }

/-- TSU_ERR_BOUND, Declared error bound (chapter 02). -/
def TSU_ERR_BOUND : Nat := 0x10090
def TSU_ERR_BOUND_BOUND : Fld := ⟨0, 32⟩
def row_TSU_ERR_BOUND : RegRow := { base := 0x10090, n1 := 1, s1 := 1, n2 := 1, s2 := 1, fields := [⟨TSU_ERR_BOUND_BOUND, .ro, 0xFFFFFFFF, .any⟩] }

/-- TSU_ERR_RATE, Growth rate of the error bound (chapter 02). -/
def TSU_ERR_RATE : Nat := 0x10098
def TSU_ERR_RATE_RATE : Fld := ⟨0, 32⟩
def row_TSU_ERR_RATE : RegRow := { base := 0x10098, n1 := 1, s1 := 1, n2 := 1, s2 := 1, fields := [⟨TSU_ERR_RATE_RATE, .ro, 0, .any⟩] }

/-- TSU_DIST_STATUS, Stamp points in HOLD under R25 (chapter 02). -/
def TSU_DIST_STATUS : Nat := 0x100A0
def TSU_DIST_STATUS_PORT_HOLD : Fld := ⟨0, 8⟩
def TSU_DIST_STATUS_GATE_HOLD : Fld := ⟨8, 1⟩
def TSU_DIST_STATUS_BELAY_HOLD : Fld := ⟨9, 1⟩
def TSU_DIST_STATUS_TIC_HOLD : Fld := ⟨16, 8⟩
def TSU_DIST_STATUS_OUT_HOLD : Fld := ⟨32, 8⟩
def row_TSU_DIST_STATUS : RegRow := { base := 0x100A0, n1 := 1, s1 := 1, n2 := 1, s2 := 1, fields := [⟨TSU_DIST_STATUS_PORT_HOLD, .ro, 0, .any⟩,
    ⟨TSU_DIST_STATUS_GATE_HOLD, .ro, 0, .any⟩,
    ⟨TSU_DIST_STATUS_BELAY_HOLD, .ro, 0, .any⟩,
    ⟨TSU_DIST_STATUS_TIC_HOLD, .ro, 0, .any⟩,
    ⟨TSU_DIST_STATUS_OUT_HOLD, .ro, 0, .any⟩] }

/-- TSU_DIST_MISMATCH, Stamp points that have raised event TSU_DIST_MISMATCH (chapter 02). -/
def TSU_DIST_MISMATCH : Nat := 0x100A8
def TSU_DIST_MISMATCH_PORT : Fld := ⟨0, 8⟩
def TSU_DIST_MISMATCH_GATE : Fld := ⟨8, 1⟩
def TSU_DIST_MISMATCH_BELAY : Fld := ⟨9, 1⟩
def TSU_DIST_MISMATCH_TIC : Fld := ⟨16, 8⟩
def TSU_DIST_MISMATCH_OUT : Fld := ⟨32, 8⟩
def row_TSU_DIST_MISMATCH : RegRow := { base := 0x100A8, n1 := 1, s1 := 1, n2 := 1, s2 := 1, fields := [⟨TSU_DIST_MISMATCH_PORT, .rw1c, 0, .any⟩,
    ⟨TSU_DIST_MISMATCH_GATE, .rw1c, 0, .any⟩,
    ⟨TSU_DIST_MISMATCH_BELAY, .rw1c, 0, .any⟩,
    ⟨TSU_DIST_MISMATCH_TIC, .rw1c, 0, .any⟩,
    ⟨TSU_DIST_MISMATCH_OUT, .rw1c, 0, .any⟩] }

/-- PORTn_MODE, Lane group mode and port enable (chapter 03). -/
def PORT_MODE (n : Nat) : Nat := 0x100000 + 65536 * n
def PORT_MODE_GROUP_MODE : Fld := ⟨0, 3⟩
def PORT_MODE_FEC25 : Fld := ⟨4, 1⟩
def PORT_MODE_ENABLE : Fld := ⟨8, 1⟩
def row_PORT_MODE : RegRow := { base := 0x100000, n1 := 8, s1 := 65536, n2 := 1, s2 := 1, fields := [⟨PORT_MODE_GROUP_MODE, .rwl, 0, .any⟩,
    ⟨PORT_MODE_FEC25, .rwl, 0, .any⟩,
    ⟨PORT_MODE_ENABLE, .rw, 0, .any⟩] }

/-- PORTn_STATUS, Link, calibration and service state (chapter 03). -/
def PORT_STATUS (n : Nat) : Nat := 0x100008 + 65536 * n
def PORT_STATUS_LINK : Fld := ⟨0, 1⟩
def PORT_STATUS_TX_CAL_VALID : Fld := ⟨1, 1⟩
def PORT_STATUS_RX_CAL_VALID : Fld := ⟨2, 1⟩
def PORT_STATUS_CAL_FAILED : Fld := ⟨3, 1⟩
def PORT_STATUS_IN_SERVICE : Fld := ⟨4, 1⟩
def PORT_STATUS_REST : Fld := ⟨5, 1⟩
def PORT_STATUS_REMOTE_FAULT : Fld := ⟨6, 1⟩
def PORT_STATUS_RX_RATE : Fld := ⟨16, 32⟩
def row_PORT_STATUS : RegRow := { base := 0x100008, n1 := 8, s1 := 65536, n2 := 1, s2 := 1, fields := [⟨PORT_STATUS_LINK, .ro, 0, .any⟩,
    ⟨PORT_STATUS_TX_CAL_VALID, .ro, 0, .any⟩,
    ⟨PORT_STATUS_RX_CAL_VALID, .ro, 0, .any⟩,
    ⟨PORT_STATUS_CAL_FAILED, .ro, 0, .any⟩,
    ⟨PORT_STATUS_IN_SERVICE, .ro, 0, .any⟩,
    ⟨PORT_STATUS_REST, .ro, 0, .any⟩,
    ⟨PORT_STATUS_REMOTE_FAULT, .ro, 0, .any⟩,
    ⟨PORT_STATUS_RX_RATE, .ro, 0, .any⟩] }

/-- PORTn_MAC_CTL, Receive MAC controls (chapter 03). -/
def PORT_MAC_CTL (n : Nat) : Nat := 0x100010 + 65536 * n
def PORT_MAC_CTL_MAX_FRAME : Fld := ⟨0, 14⟩
def PORT_MAC_CTL_KEEP_BAD : Fld := ⟨16, 1⟩
def PORT_MAC_CTL_PROMISC : Fld := ⟨17, 1⟩
def PORT_MAC_CTL_BCAST : Fld := ⟨18, 1⟩
def row_PORT_MAC_CTL : RegRow := { base := 0x100010, n1 := 8, s1 := 65536, n2 := 1, s2 := 1, fields := [⟨PORT_MAC_CTL_MAX_FRAME, .rw, 0x2400, (.nat 64 9216)⟩,
    ⟨PORT_MAC_CTL_KEEP_BAD, .rw, 0, .any⟩,
    ⟨PORT_MAC_CTL_PROMISC, .rw, 0, .any⟩,
    ⟨PORT_MAC_CTL_BCAST, .rw, 1, .any⟩] }

/-- PORTn_MAC_ADDR, Unicast MAC address of the port (chapter 03). -/
def PORT_MAC_ADDR (n : Nat) : Nat := 0x100018 + 65536 * n
def PORT_MAC_ADDR_ADDR : Fld := ⟨0, 48⟩
def row_PORT_MAC_ADDR : RegRow := { base := 0x100018, n1 := 8, s1 := 65536, n2 := 1, s2 := 1, fields := [⟨PORT_MAC_ADDR_ADDR, .rw, 0, .any⟩] }

/-- PORTn_MCAST_k, Accepted multicast address (chapter 03). -/
def PORT_MCAST (n : Nat) (k : Nat) : Nat := 0x100020 + 65536 * n + 8 * k
def PORT_MCAST_ADDR : Fld := ⟨0, 48⟩
def PORT_MCAST_VALID : Fld := ⟨63, 1⟩
def row_PORT_MCAST : RegRow := { base := 0x100020, n1 := 8, s1 := 65536, n2 := 16, s2 := 8, fields := [⟨PORT_MCAST_ADDR, .rw, 0, .any⟩,
    ⟨PORT_MCAST_VALID, .rw, 0, .any⟩] }

/-- PORTn_TX_DELAY_ADJ, Transmit plane adjustment (chapter 03). -/
def PORT_TX_DELAY_ADJ (n : Nat) : Nat := 0x1000A0 + 65536 * n
def PORT_TX_DELAY_ADJ_ADJ : Fld := ⟨0, 32⟩
def row_PORT_TX_DELAY_ADJ : RegRow := { base := 0x1000A0, n1 := 8, s1 := 65536, n2 := 1, s2 := 1, fields := [⟨PORT_TX_DELAY_ADJ_ADJ, .rw, 0, .any⟩] }

/-- PORTn_RX_DELAY_ADJ, Receive plane adjustment (chapter 03). -/
def PORT_RX_DELAY_ADJ (n : Nat) : Nat := 0x1000A8 + 65536 * n
def PORT_RX_DELAY_ADJ_ADJ : Fld := ⟨0, 32⟩
def row_PORT_RX_DELAY_ADJ : RegRow := { base := 0x1000A8, n1 := 8, s1 := 65536, n2 := 1, s2 := 1, fields := [⟨PORT_RX_DELAY_ADJ_ADJ, .rw, 0, .any⟩] }

/-- PORTn_CAL_TX, Calibrated transmit latency of lane SLn (chapter 03). -/
def PORT_CAL_TX (n : Nat) : Nat := 0x1000B0 + 65536 * n
def PORT_CAL_TX_LAT_TX : Fld := ⟨0, 32⟩
def row_PORT_CAL_TX : RegRow := { base := 0x1000B0, n1 := 8, s1 := 65536, n2 := 1, s2 := 1, fields := [⟨PORT_CAL_TX_LAT_TX, .ro, 0, .any⟩] }

/-- PORTn_CAL_RX, Calibrated receive latency of lane SLn (chapter 03). -/
def PORT_CAL_RX (n : Nat) : Nat := 0x1000B8 + 65536 * n
def PORT_CAL_RX_LAT_RX : Fld := ⟨0, 32⟩
def row_PORT_CAL_RX : RegRow := { base := 0x1000B8, n1 := 8, s1 := 65536, n2 := 1, s2 := 1, fields := [⟨PORT_CAL_RX_LAT_RX, .ro, 0, .any⟩] }

/-- PORTn_CAL_CTL, Calibration request and history (chapter 03). -/
def PORT_CAL_CTL (n : Nat) : Nat := 0x1000C0 + 65536 * n
def PORT_CAL_CTL_RECAL : Fld := ⟨0, 1⟩
def PORT_CAL_CTL_CAL_COUNT : Fld := ⟨8, 8⟩
def PORT_CAL_CTL_LAST_SEC : Fld := ⟨32, 32⟩
def row_PORT_CAL_CTL : RegRow := { base := 0x1000C0, n1 := 8, s1 := 65536, n2 := 1, s2 := 1, fields := [⟨PORT_CAL_CTL_RECAL, .wo, 0, .any⟩,
    ⟨PORT_CAL_CTL_CAL_COUNT, .ro, 0, .any⟩,
    ⟨PORT_CAL_CTL_LAST_SEC, .ro, 0, .any⟩] }

/-- PORTn_FEC_THRESH, FEC alarm threshold (chapter 03). -/
def PORT_FEC_THRESH (n : Nat) : Nat := 0x1000C8 + 65536 * n
def PORT_FEC_THRESH_THRESH : Fld := ⟨0, 32⟩
def row_PORT_FEC_THRESH : RegRow := { base := 0x1000C8, n1 := 8, s1 := 65536, n2 := 1, s2 := 1, fields := [⟨PORT_FEC_THRESH_THRESH, .rw, 0x989680, .any⟩] }

/-- HOST_WAKE_CTL, Wake-pattern detector control (chapter 03). -/
def HOST_WAKE_CTL : Nat := 0xA00F00
def HOST_WAKE_CTL_EN : Fld := ⟨0, 1⟩
def HOST_WAKE_CTL_CODE_REQ : Fld := ⟨1, 1⟩
def HOST_WAKE_CTL_BCAST_OK : Fld := ⟨2, 1⟩
def row_HOST_WAKE_CTL : RegRow := { base := 0xA00F00, n1 := 1, s1 := 1, n2 := 1, s2 := 1, fields := [⟨HOST_WAKE_CTL_EN, .rw, 0, .any⟩,
    ⟨HOST_WAKE_CTL_CODE_REQ, .rw, 1, .any⟩,
    ⟨HOST_WAKE_CTL_BCAST_OK, .rw, 0, .any⟩] }

/-- HOST_WAKE_CODE, Wake code (chapter 03). -/
def HOST_WAKE_CODE : Nat := 0xA00F08
def HOST_WAKE_CODE_CODE : Fld := ⟨0, 64⟩
def row_HOST_WAKE_CODE : RegRow := { base := 0xA00F08, n1 := 1, s1 := 1, n2 := 1, s2 := 1, fields := [⟨HOST_WAKE_CODE_CODE, .rw, 0, .any⟩] }

/-- HOST_REST_STATUS, Rest state and wake history (chapter 03). -/
def HOST_REST_STATUS : Nat := 0xA00F10
def HOST_REST_STATUS_REST : Fld := ⟨0, 1⟩
def HOST_REST_STATUS_LAST_CAUSE : Fld := ⟨1, 2⟩
def HOST_REST_STATUS_WAKE_SEEN : Fld := ⟨16, 16⟩
def HOST_REST_STATUS_WAKE_BADCODE : Fld := ⟨32, 16⟩
def row_HOST_REST_STATUS : RegRow := { base := 0xA00F10, n1 := 1, s1 := 1, n2 := 1, s2 := 1, fields := [⟨HOST_REST_STATUS_REST, .ro, 0, .any⟩,
    ⟨HOST_REST_STATUS_LAST_CAUSE, .ro, 0, .any⟩,
    ⟨HOST_REST_STATUS_WAKE_SEEN, .rc, 0, .any⟩,
    ⟨HOST_REST_STATUS_WAKE_BADCODE, .rc, 0, .any⟩] }

/-- PE_ENABLE, Engines that receive dispatch (chapter 04). -/
def PE_ENABLE : Nat := 0x200000
def PE_ENABLE_EN : Fld := ⟨0, 64⟩
def row_PE_ENABLE : RegRow := { base := 0x200000, n1 := 1, s1 := 1, n2 := 1, s2 := 1, fields := [⟨PE_ENABLE_EN, .rw, 0, .any⟩] }

/-- PE_STEP_LIMIT, Maximum Pitches per run (chapter 04). -/
def PE_STEP_LIMIT : Nat := 0x200008
def PE_STEP_LIMIT_LIMIT : Fld := ⟨0, 13⟩
def row_PE_STEP_LIMIT : RegRow := { base := 0x200008, n1 := 1, s1 := 1, n2 := 1, s2 := 1, fields := [⟨PE_STEP_LIMIT_LIMIT, .rw, 0x200, (.nat 16 4096)⟩] }

/-- PE_DEBUG, Debug behaviour (chapter 04). -/
def PE_DEBUG : Nat := 0x200010
def PE_DEBUG_TRAP_HALT : Fld := ⟨0, 1⟩
def row_PE_DEBUG : RegRow := { base := 0x200010, n1 := 1, s1 := 1, n2 := 1, s2 := 1, fields := [⟨PE_DEBUG_TRAP_HALT, .rw, 0, .any⟩] }

/-- PE_STEP_HWM, Longest run since the last read (chapter 04). -/
def PE_STEP_HWM : Nat := 0x200018
def PE_STEP_HWM_STEPS : Fld := ⟨0, 13⟩
def PE_STEP_HWM_TRAILHEAD : Fld := ⟨16, 4⟩
def PE_STEP_HWM_SEC : Fld := ⟨32, 32⟩
def row_PE_STEP_HWM : RegRow := { base := 0x200018, n1 := 1, s1 := 1, n2 := 1, s2 := 1, fields := [⟨PE_STEP_HWM_STEPS, .rc, 0, .any⟩,
    ⟨PE_STEP_HWM_TRAILHEAD, .rc, 0, .any⟩,
    ⟨PE_STEP_HWM_SEC, .rc, 0, .any⟩] }

/-- PE_DISP_WAIT_HWM, Longest dispatch wait per class since the last read (chapter 04). -/
def PE_DISP_WAIT_HWM : Nat := 0x200020
def PE_DISP_WAIT_HWM_C0 : Fld := ⟨0, 16⟩
def PE_DISP_WAIT_HWM_C1 : Fld := ⟨16, 16⟩
def PE_DISP_WAIT_HWM_C2 : Fld := ⟨32, 16⟩
def PE_DISP_WAIT_HWM_C3 : Fld := ⟨48, 16⟩
def row_PE_DISP_WAIT_HWM : RegRow := { base := 0x200020, n1 := 1, s1 := 1, n2 := 1, s2 := 1, fields := [⟨PE_DISP_WAIT_HWM_C0, .rc, 0, .any⟩,
    ⟨PE_DISP_WAIT_HWM_C1, .rc, 0, .any⟩,
    ⟨PE_DISP_WAIT_HWM_C2, .rc, 0, .any⟩,
    ⟨PE_DISP_WAIT_HWM_C3, .rc, 0, .any⟩] }

/-- TOPO_BANK, Bank state (chapter 04). -/
def TOPO_BANK : Nat := 0x200100
def TOPO_BANK_ACTIVE : Fld := ⟨0, 1⟩
def TOPO_BANK_SWAP_PENDING : Fld := ⟨1, 1⟩
def TOPO_BANK_DRAIN_COUNT : Fld := ⟨8, 9⟩
def TOPO_BANK_REPAIRABLE0 : Fld := ⟨32, 1⟩
def TOPO_BANK_REPAIRABLE1 : Fld := ⟨33, 1⟩
def row_TOPO_BANK : RegRow := { base := 0x200100, n1 := 1, s1 := 1, n2 := 1, s2 := 1, fields := [⟨TOPO_BANK_ACTIVE, .ro, 0, .any⟩,
    ⟨TOPO_BANK_SWAP_PENDING, .ro, 0, .any⟩,
    ⟨TOPO_BANK_DRAIN_COUNT, .ro, 0, .any⟩,
    ⟨TOPO_BANK_REPAIRABLE0, .ro, 0, .any⟩,
    ⟨TOPO_BANK_REPAIRABLE1, .ro, 0, .any⟩] }

/-- TOPO_SWAP_CTL, Swap request (chapter 04). -/
def TOPO_SWAP_CTL : Nat := 0x200108
def TOPO_SWAP_CTL_GO : Fld := ⟨0, 1⟩
def TOPO_SWAP_CTL_WITH_GEN : Fld := ⟨1, 1⟩
def row_TOPO_SWAP_CTL : RegRow := { base := 0x200108, n1 := 1, s1 := 1, n2 := 1, s2 := 1, fields := [⟨TOPO_SWAP_CTL_GO, .wo, 0, .any⟩,
    ⟨TOPO_SWAP_CTL_WITH_GEN, .wo, 0, .any⟩] }

/-- TOPO_TBL_GEN, Live descriptor copy per table (chapter 04). -/
def TOPO_TBL_GEN : Nat := 0x200110
def TOPO_TBL_GEN_GEN : Fld := ⟨0, 64⟩
def row_TOPO_TBL_GEN : RegRow := { base := 0x200110, n1 := 1, s1 := 1, n2 := 1, s2 := 1, fields := [⟨TOPO_TBL_GEN_GEN, .rw, 0, .any⟩] }

/-- TOPO_TBL_GEN_NEXT, Generations applied by a swap with WITH_GEN (chapter 04). -/
def TOPO_TBL_GEN_NEXT : Nat := 0x200118
def TOPO_TBL_GEN_NEXT_GEN : Fld := ⟨0, 64⟩
def row_TOPO_TBL_GEN_NEXT : RegRow := { base := 0x200118, n1 := 1, s1 := 1, n2 := 1, s2 := 1, fields := [⟨TOPO_TBL_GEN_NEXT_GEN, .rw, 0, .any⟩] }

/-- TOPO_TBL_STATUS, Flip and validation state (chapter 04). -/
def TOPO_TBL_STATUS : Nat := 0x200120
def TOPO_TBL_STATUS_DRAIN : Fld := ⟨0, 1⟩
def TOPO_TBL_STATUS_DRAIN_COUNT : Fld := ⟨8, 9⟩
def TOPO_TBL_STATUS_ERR_TBL : Fld := ⟨24, 6⟩
def TOPO_TBL_STATUS_ERR_GEN : Fld := ⟨30, 1⟩
def TOPO_TBL_STATUS_ERR : Fld := ⟨32, 1⟩
def row_TOPO_TBL_STATUS : RegRow := { base := 0x200120, n1 := 1, s1 := 1, n2 := 1, s2 := 1, fields := [⟨TOPO_TBL_STATUS_DRAIN, .ro, 0, .any⟩,
    ⟨TOPO_TBL_STATUS_DRAIN_COUNT, .ro, 0, .any⟩,
    ⟨TOPO_TBL_STATUS_ERR_TBL, .ro, 0, .any⟩,
    ⟨TOPO_TBL_STATUS_ERR_GEN, .ro, 0, .any⟩,
    ⟨TOPO_TBL_STATUS_ERR, .rw1c, 0, .any⟩] }

/-- TOPO_TBLn_Gg_CFG, Type and shape of copy g of table n. Writing it validates the copy (chapter 04). -/
def TOPO_TBL_CFG (n : Nat) (k : Nat) : Nat := 0x201000 + 64 * n + 32 * k
def TOPO_TBL_CFG_TYPE : Fld := ⟨0, 4⟩
def TOPO_TBL_CFG_KEY_BITS : Fld := ⟨4, 8⟩
def TOPO_TBL_CFG_RESULT_WORDS : Fld := ⟨12, 4⟩
def TOPO_TBL_CFG_SEED : Fld := ⟨32, 32⟩
def row_TOPO_TBL_CFG : RegRow := { base := 0x201000, n1 := 64, s1 := 64, n2 := 2, s2 := 32, fields := [⟨TOPO_TBL_CFG_TYPE, .rw, 0, .any⟩,
    ⟨TOPO_TBL_CFG_KEY_BITS, .rw, 0, .any⟩,
    ⟨TOPO_TBL_CFG_RESULT_WORDS, .rw, 0, .any⟩,
    ⟨TOPO_TBL_CFG_SEED, .rw, 0, .any⟩] }

/-- TOPO_TBLn_Gg_BASE, Placement of copy g of table n (chapter 04). -/
def TOPO_TBL_BASE (n : Nat) (k : Nat) : Nat := 0x201008 + 64 * n + 32 * k
def TOPO_TBL_BASE_BASE : Fld := ⟨0, 32⟩
def TOPO_TBL_BASE_ENTRIES : Fld := ⟨32, 32⟩
def row_TOPO_TBL_BASE : RegRow := { base := 0x201008, n1 := 64, s1 := 64, n2 := 2, s2 := 32, fields := [⟨TOPO_TBL_BASE_BASE, .rw, 0, .any⟩,
    ⟨TOPO_TBL_BASE_ENTRIES, .rw, 0, .any⟩] }

/-- TOPO_TBLn_Gg_DEFAULT, Result returned on a miss (chapter 04). -/
def TOPO_TBL_DEFAULT (n : Nat) (k : Nat) : Nat := 0x201010 + 64 * n + 32 * k
def TOPO_TBL_DEFAULT_DEFAULT : Fld := ⟨0, 64⟩
def row_TOPO_TBL_DEFAULT : RegRow := { base := 0x201010, n1 := 64, s1 := 64, n2 := 2, s2 := 32, fields := [⟨TOPO_TBL_DEFAULT_DEFAULT, .rw, 0, .any⟩] }

/-- PE_CTX_SEL, Context selected for snapshot (chapter 04). -/
def PE_CTX_SEL : Nat := 0x200200
def PE_CTX_SEL_ENGINE : Fld := ⟨0, 6⟩
def PE_CTX_SEL_CTX : Fld := ⟨8, 2⟩
def row_PE_CTX_SEL : RegRow := { base := 0x200200, n1 := 1, s1 := 1, n2 := 1, s2 := 1, fields := [⟨PE_CTX_SEL_ENGINE, .rw, 0, .any⟩,
    ⟨PE_CTX_SEL_CTX, .rw, 0, .any⟩] }

/-- PE_CTX_SNAP, Snapshot and resume (chapter 04). -/
def PE_CTX_SNAP : Nat := 0x200208
def PE_CTX_SNAP_GO : Fld := ⟨0, 1⟩
def PE_CTX_SNAP_DONE : Fld := ⟨1, 1⟩
def PE_CTX_SNAP_RESUME : Fld := ⟨2, 1⟩
def row_PE_CTX_SNAP : RegRow := { base := 0x200208, n1 := 1, s1 := 1, n2 := 1, s2 := 1, fields := [⟨PE_CTX_SNAP_GO, .wo, 0, .any⟩,
    ⟨PE_CTX_SNAP_DONE, .ro, 0, .any⟩,
    ⟨PE_CTX_SNAP_RESUME, .wo, 0, .any⟩] }

/-- PE_CTX_STATE, Snapshot: sequencing state (chapter 04). -/
def PE_CTX_STATE : Nat := 0x200210
def PE_CTX_STATE_STATE : Fld := ⟨0, 3⟩
def PE_CTX_STATE_BANK : Fld := ⟨3, 1⟩
def PE_CTX_STATE_PC : Fld := ⟨4, 15⟩
def PE_CTX_STATE_SLOT_HELD : Fld := ⟨20, 1⟩
def PE_CTX_STATE_STACK_DEPTH : Fld := ⟨21, 3⟩
def PE_CTX_STATE_STEPS : Fld := ⟨32, 13⟩
def PE_CTX_STATE_TRAILHEAD : Fld := ⟨48, 4⟩
def row_PE_CTX_STATE : RegRow := { base := 0x200210, n1 := 1, s1 := 1, n2 := 1, s2 := 1, fields := [⟨PE_CTX_STATE_STATE, .ro, 0, .any⟩,
    ⟨PE_CTX_STATE_BANK, .ro, 0, .any⟩,
    ⟨PE_CTX_STATE_PC, .ro, 0, .any⟩,
    ⟨PE_CTX_STATE_SLOT_HELD, .ro, 0, .any⟩,
    ⟨PE_CTX_STATE_STACK_DEPTH, .ro, 0, .any⟩,
    ⟨PE_CTX_STATE_STEPS, .ro, 0, .any⟩,
    ⟨PE_CTX_STATE_TRAILHEAD, .ro, 0, .any⟩] }

/-- PE_CTX_STACK, Snapshot: call stack, entry 0 pushed first (chapter 04). -/
def PE_CTX_STACK : Nat := 0x200218
def PE_CTX_STACK_RET0 : Fld := ⟨0, 15⟩
def PE_CTX_STACK_RET1 : Fld := ⟨16, 15⟩
def PE_CTX_STACK_RET2 : Fld := ⟨32, 15⟩
def PE_CTX_STACK_RET3 : Fld := ⟨48, 15⟩
def row_PE_CTX_STACK : RegRow := { base := 0x200218, n1 := 1, s1 := 1, n2 := 1, s2 := 1, fields := [⟨PE_CTX_STACK_RET0, .ro, 0, .any⟩,
    ⟨PE_CTX_STACK_RET1, .ro, 0, .any⟩,
    ⟨PE_CTX_STACK_RET2, .ro, 0, .any⟩,
    ⟨PE_CTX_STACK_RET3, .ro, 0, .any⟩] }

/-- PE_CTX_FLAGS, Snapshot: flags (chapter 04). -/
def PE_CTX_FLAGS : Nat := 0x200220
def PE_CTX_FLAGS_Z : Fld := ⟨0, 1⟩
def PE_CTX_FLAGS_C : Fld := ⟨1, 1⟩
def PE_CTX_FLAGS_LT : Fld := ⟨2, 1⟩
def PE_CTX_FLAGS_BIT : Fld := ⟨3, 1⟩
def PE_CTX_FLAGS_HIT : Fld := ⟨4, 1⟩
def PE_CTX_FLAGS_OOB : Fld := ⟨8, 1⟩
def PE_CTX_FLAGS_LATE : Fld := ⟨9, 1⟩
def PE_CTX_FLAGS_OVER : Fld := ⟨10, 1⟩
def PE_CTX_FLAGS_AUTHF : Fld := ⟨11, 1⟩
def PE_CTX_FLAGS_BAD : Fld := ⟨12, 1⟩
def row_PE_CTX_FLAGS : RegRow := { base := 0x200220, n1 := 1, s1 := 1, n2 := 1, s2 := 1, fields := [⟨PE_CTX_FLAGS_Z, .ro, 0, .any⟩,
    ⟨PE_CTX_FLAGS_C, .ro, 0, .any⟩,
    ⟨PE_CTX_FLAGS_LT, .ro, 0, .any⟩,
    ⟨PE_CTX_FLAGS_BIT, .ro, 0, .any⟩,
    ⟨PE_CTX_FLAGS_HIT, .ro, 0, .any⟩,
    ⟨PE_CTX_FLAGS_OOB, .ro, 0, .any⟩,
    ⟨PE_CTX_FLAGS_LATE, .ro, 0, .any⟩,
    ⟨PE_CTX_FLAGS_OVER, .ro, 0, .any⟩,
    ⟨PE_CTX_FLAGS_AUTHF, .ro, 0, .any⟩,
    ⟨PE_CTX_FLAGS_BAD, .ro, 0, .any⟩] }

/-- PE_CTX_ANCH, Snapshot: anchors and build length. Each anchor field holds the region in bit 15 (0 FRAME, 1 BUILD) and the base in bits [13:0] (chapter 04). -/
def PE_CTX_ANCH : Nat := 0x200230
def PE_CTX_ANCH_A1 : Fld := ⟨0, 16⟩
def PE_CTX_ANCH_A2 : Fld := ⟨16, 16⟩
def PE_CTX_ANCH_A3 : Fld := ⟨32, 16⟩
def PE_CTX_ANCH_BLEN : Fld := ⟨48, 12⟩
def row_PE_CTX_ANCH : RegRow := { base := 0x200230, n1 := 1, s1 := 1, n2 := 1, s2 := 1, fields := [⟨PE_CTX_ANCH_A1, .ro, 0, .any⟩,
    ⟨PE_CTX_ANCH_A2, .ro, 0, .any⟩,
    ⟨PE_CTX_ANCH_A3, .ro, 0, .any⟩,
    ⟨PE_CTX_ANCH_BLEN, .ro, 0, .any⟩] }

/-- PE_CTX_DESCk, Snapshot: descriptor bytes 8k to 8k + 7 (chapter 04). -/
def PE_CTX_DESC (n : Nat) : Nat := 0x200240 + 8 * n
def PE_CTX_DESC_DESC : Fld := ⟨0, 64⟩
def row_PE_CTX_DESC : RegRow := { base := 0x200240, n1 := 8, s1 := 8, n2 := 1, s2 := 1, fields := [⟨PE_CTX_DESC_DESC, .ro, 0, .any⟩] }

/-- PE_CTX_Wk, Snapshot: work register Wk (chapter 04). -/
def PE_CTX_W (n : Nat) : Nat := 0x200280 + 8 * n
def PE_CTX_W_W : Fld := ⟨0, 64⟩
def row_PE_CTX_W : RegRow := { base := 0x200280, n1 := 16, s1 := 8, n2 := 1, s2 := 1, fields := [⟨PE_CTX_W_W, .ro, 0, .any⟩] }

/-- PE_BADOP_INFO, First Pitch that failed under R124 since the last read (chapter 05). -/
def PE_BADOP_INFO : Nat := 0x200028
def PE_BADOP_INFO_INDEX : Fld := ⟨0, 15⟩
def PE_BADOP_INFO_BANK : Fld := ⟨15, 1⟩
def PE_BADOP_INFO_CAUSE : Fld := ⟨16, 8⟩
def PE_BADOP_INFO_ENGINE : Fld := ⟨24, 6⟩
def PE_BADOP_INFO_CTX : Fld := ⟨30, 2⟩
def PE_BADOP_INFO_SEC : Fld := ⟨32, 32⟩
def row_PE_BADOP_INFO : RegRow := { base := 0x200028, n1 := 1, s1 := 1, n2 := 1, s2 := 1, fields := [⟨PE_BADOP_INFO_INDEX, .rc, 0, .any⟩,
    ⟨PE_BADOP_INFO_BANK, .rc, 0, .any⟩,
    ⟨PE_BADOP_INFO_CAUSE, .rc, 0, .any⟩,
    ⟨PE_BADOP_INFO_ENGINE, .rc, 0, .any⟩,
    ⟨PE_BADOP_INFO_CTX, .rc, 0, .any⟩,
    ⟨PE_BADOP_INFO_SEC, .rc, 0, .any⟩] }

/-- GATE_CTL, Gate behaviour (chapter 06). -/
def GATE_CTL : Nat := 0x300000
def GATE_CTL_REPROC : Fld := ⟨0, 1⟩
def row_GATE_CTL : RegRow := { base := 0x300000, n1 := 1, s1 := 1, n2 := 1, s2 := 1, fields := [⟨GATE_CTL_REPROC, .rw, 0, .any⟩] }

/-- GATE_LEAD, Default lead for SLOT (chapter 06). -/
def GATE_LEAD : Nat := 0x300008
def GATE_LEAD_LEAD : Fld := ⟨0, 16⟩
def row_GATE_LEAD : RegRow := { base := 0x300008, n1 := 1, s1 := 1, n2 := 1, s2 := 1, fields := [⟨GATE_LEAD_LEAD, .rw, 0x7D0, (.nat 400 30000)⟩] }

/-- GATE_WINDOW, Default window for SLOT (chapter 06). -/
def GATE_WINDOW : Nat := 0x300010
def GATE_WINDOW_WINDOW : Fld := ⟨0, 14⟩
def row_GATE_WINDOW : RegRow := { base := 0x300010, n1 := 1, s1 := 1, n2 := 1, s2 := 1, fields := [⟨GATE_WINDOW_WINDOW, .rw, 0x3E8, (.nat 0 10000)⟩] }

/-- GATE_SETUP, Setup time before launch (chapter 06). -/
def GATE_SETUP : Nat := 0x300018
def GATE_SETUP_SETUP : Fld := ⟨0, 10⟩
def row_GATE_SETUP : RegRow := { base := 0x300018, n1 := 1, s1 := 1, n2 := 1, s2 := 1, fields := [⟨GATE_SETUP_SETUP, .rw, 0xC8, (.nat 150 1000)⟩] }

/-- GATE_SHARE, PTP reserve (chapter 06). -/
def GATE_SHARE : Nat := 0x300020
def GATE_SHARE_CAL_PTP_SHARE : Fld := ⟨0, 6⟩
def row_GATE_SHARE : RegRow := { base := 0x300020, n1 := 1, s1 := 1, n2 := 1, s2 := 1, fields := [⟨GATE_SHARE_CAL_PTP_SHARE, .rw, 0xA, (.nat 0 50)⟩] }

/-- GATE_FREE_MAX, Longest wait of a FREE frame (chapter 06). -/
def GATE_FREE_MAX : Nat := 0x300028
def GATE_FREE_MAX_MAX : Fld := ⟨0, 20⟩
def row_GATE_FREE_MAX : RegRow := { base := 0x300028, n1 := 1, s1 := 1, n2 := 1, s2 := 1, fields := [⟨GATE_FREE_MAX_MAX, .rw, 0x186A0, (.nat 1000 1000000)⟩] }

/-- GATE_LAST_MISS, Most recent missed launch since the last read (chapter 06). -/
def GATE_LAST_MISS : Nat := 0x300030
def GATE_LAST_MISS_PORT : Fld := ⟨0, 3⟩
def GATE_LAST_MISS_VALID : Fld := ⟨3, 1⟩
def GATE_LAST_MISS_ENGINE : Fld := ⟨4, 6⟩
def GATE_LAST_MISS_CTX : Fld := ⟨10, 2⟩
def GATE_LAST_MISS_REVOKED : Fld := ⟨12, 1⟩
def GATE_LAST_MISS_REPROC : Fld := ⟨13, 1⟩
def GATE_LAST_MISS_LATE : Fld := ⟨16, 32⟩
def row_GATE_LAST_MISS : RegRow := { base := 0x300030, n1 := 1, s1 := 1, n2 := 1, s2 := 1, fields := [⟨GATE_LAST_MISS_PORT, .rc, 0, .any⟩,
    ⟨GATE_LAST_MISS_VALID, .rc, 0, .any⟩,
    ⟨GATE_LAST_MISS_ENGINE, .rc, 0, .any⟩,
    ⟨GATE_LAST_MISS_CTX, .rc, 0, .any⟩,
    ⟨GATE_LAST_MISS_REVOKED, .rc, 0, .any⟩,
    ⟨GATE_LAST_MISS_REPROC, .rc, 0, .any⟩,
    ⟨GATE_LAST_MISS_LATE, .rc, 0, .any⟩] }

/-- GATE_PORTn_ORIGIN_SEC, Grid origin seconds (chapter 06). -/
def GATE_PORT_ORIGIN_SEC (n : Nat) : Nat := 0x300100 + 32 * n
def GATE_PORT_ORIGIN_SEC_SEC : Fld := ⟨0, 64⟩
def row_GATE_PORT_ORIGIN_SEC : RegRow := { base := 0x300100, n1 := 8, s1 := 32, n2 := 1, s2 := 1, fields := [⟨GATE_PORT_ORIGIN_SEC_SEC, .ro, 0, .any⟩] }

/-- GATE_PORTn_ORIGIN_SUB, Grid origin sub-second part (chapter 06). -/
def GATE_PORT_ORIGIN_SUB (n : Nat) : Nat := 0x300108 + 32 * n
def GATE_PORT_ORIGIN_SUB_FRAC : Fld := ⟨0, 32⟩
def GATE_PORT_ORIGIN_SUB_NS : Fld := ⟨32, 32⟩
def row_GATE_PORT_ORIGIN_SUB : RegRow := { base := 0x300108, n1 := 8, s1 := 32, n2 := 1, s2 := 1, fields := [⟨GATE_PORT_ORIGIN_SUB_FRAC, .ro, 0, .any⟩,
    ⟨GATE_PORT_ORIGIN_SUB_NS, .ro, 0, .any⟩] }

/-- GATE_PORTn_PLAN, Grid parameters of the port (chapter 06). -/
def GATE_PORT_PLAN (n : Nat) : Nat := 0x300110 + 32 * n
def GATE_PORT_PLAN_PITCH : Fld := ⟨0, 32⟩
def GATE_PORT_PLAN_CW_BITS : Fld := ⟨32, 16⟩
def GATE_PORT_PLAN_DEFICIT : Fld := ⟨48, 3⟩
def row_GATE_PORT_PLAN : RegRow := { base := 0x300110, n1 := 8, s1 := 32, n2 := 1, s2 := 1, fields := [⟨GATE_PORT_PLAN_PITCH, .ro, 0, .any⟩,
    ⟨GATE_PORT_PLAN_CW_BITS, .ro, 0, .any⟩,
    ⟨GATE_PORT_PLAN_DEFICIT, .ro, 0, .any⟩] }

/-- GATE_PORTn_FILL, Calendar and queue occupancy (chapter 06). -/
def GATE_PORT_FILL (n : Nat) : Nat := 0x300118 + 32 * n
def GATE_PORT_FILL_PENDING : Fld := ⟨0, 9⟩
def GATE_PORT_FILL_FREE_Q : Fld := ⟨16, 9⟩
def GATE_PORT_FILL_PENDING_HWM : Fld := ⟨32, 9⟩
def GATE_PORT_FILL_FREE_Q_HWM : Fld := ⟨48, 9⟩
def row_GATE_PORT_FILL : RegRow := { base := 0x300118, n1 := 8, s1 := 32, n2 := 1, s2 := 1, fields := [⟨GATE_PORT_FILL_PENDING, .ro, 0, .any⟩,
    ⟨GATE_PORT_FILL_FREE_Q, .ro, 0, .any⟩,
    ⟨GATE_PORT_FILL_PENDING_HWM, .rc, 0, .any⟩,
    ⟨GATE_PORT_FILL_FREE_Q_HWM, .rc, 0, .any⟩] }

/-- SVC_CTL, Service configuration (chapter 07). -/
def SVC_CTL : Nat := 0x400000
def SVC_CTL_KEY_SOURCE : Fld := ⟨0, 1⟩
def row_SVC_CTL : RegRow := { base := 0x400000, n1 := 1, s1 := 1, n2 := 1, s2 := 1, fields := [⟨SVC_CTL_KEY_SOURCE, .rwl, 0, .any⟩] }

/-- SVC_STATUS, Master key state (chapter 07). -/
def SVC_STATUS : Nat := 0x400008
def SVC_STATUS_KEYS_READY : Fld := ⟨0, 1⟩
def SVC_STATUS_CUR_SLOT : Fld := ⟨8, 6⟩
def SVC_STATUS_KEYS_LIVE : Fld := ⟨16, 6⟩
def SVC_STATUS_CUR_KEY_ID : Fld := ⟨32, 32⟩
def row_SVC_STATUS : RegRow := { base := 0x400008, n1 := 1, s1 := 1, n2 := 1, s2 := 1, fields := [⟨SVC_STATUS_KEYS_READY, .ro, 0, .any⟩,
    ⟨SVC_STATUS_CUR_SLOT, .ro, 0, .any⟩,
    ⟨SVC_STATUS_KEYS_LIVE, .ro, 0, .any⟩,
    ⟨SVC_STATUS_CUR_KEY_ID, .ro, 0, .any⟩] }

/-- SVC_KEY_PERIOD, Rotation period (chapter 07). -/
def SVC_KEY_PERIOD : Nat := 0x400010
def SVC_KEY_PERIOD_PERIOD : Fld := ⟨0, 32⟩
def row_SVC_KEY_PERIOD : RegRow := { base := 0x400010, n1 := 1, s1 := 1, n2 := 1, s2 := 1, fields := [⟨SVC_KEY_PERIOD_PERIOD, .rwl, 0x15180, (.nat 3600 2592000)⟩] }

/-- SVC_KEY_KEEP, Key lifetime in periods (chapter 07). -/
def SVC_KEY_KEEP : Nat := 0x400018
def SVC_KEY_KEEP_KEEP : Fld := ⟨0, 6⟩
def row_SVC_KEY_KEEP : RegRow := { base := 0x400018, n1 := 1, s1 := 1, n2 := 1, s2 := 1, fields := [⟨SVC_KEY_KEEP_KEEP, .rwl, 7, (.nat 2 32)⟩] }

/-- SVC_KEY_EPOCH, Start of period 0 (chapter 07). -/
def SVC_KEY_EPOCH : Nat := 0x400020
def SVC_KEY_EPOCH_SEC : Fld := ⟨0, 64⟩
def row_SVC_KEY_EPOCH : RegRow := { base := 0x400020, n1 := 1, s1 := 1, n2 := 1, s2 := 1, fields := [⟨SVC_KEY_EPOCH_SEC, .rwl, 0, .any⟩] }

/-- SVC_KEY_CTL, Custodian key commands (chapter 07). -/
def SVC_KEY_CTL : Nat := 0x400028
def SVC_KEY_CTL_ROTATE : Fld := ⟨0, 1⟩
def SVC_KEY_CTL_REVOKE : Fld := ⟨1, 1⟩
def SVC_KEY_CTL_KEY_ID : Fld := ⟨32, 32⟩
def row_SVC_KEY_CTL : RegRow := { base := 0x400028, n1 := 1, s1 := 1, n2 := 1, s2 := 1, fields := [⟨SVC_KEY_CTL_ROTATE, .wo, 0, .any⟩,
    ⟨SVC_KEY_CTL_REVOKE, .wo, 0, .any⟩,
    ⟨SVC_KEY_CTL_KEY_ID, .wo, 0, .any⟩] }

/-- SVC_SKETCH_DECAY, Halving period of the sketch (chapter 07). -/
def SVC_SKETCH_DECAY : Nat := 0x400030
def SVC_SKETCH_DECAY_PERIOD : Fld := ⟨0, 16⟩
def row_SVC_SKETCH_DECAY : RegRow := { base := 0x400030, n1 := 1, s1 := 1, n2 := 1, s2 := 1, fields := [⟨SVC_SKETCH_DECAY_PERIOD, .rw, 0x3E8, (.nat 10 60000)⟩] }

/-- SVC_NTP_PROFk, NTP QUALITY profile k (chapter 07). -/
def SVC_NTP_PROF (n : Nat) : Nat := 0x400100 + 8 * n
def SVC_NTP_PROF_UNSYNC_BOUND : Fld := ⟨0, 32⟩
def SVC_NTP_PROF_FREE_STRATUM : Fld := ⟨32, 5⟩
def SVC_NTP_PROF_SMEAR : Fld := ⟨40, 1⟩
def row_SVC_NTP_PROF : RegRow := { base := 0x400100, n1 := 8, s1 := 8, n2 := 1, s2 := 1, fields := [⟨SVC_NTP_PROF_UNSYNC_BOUND, .rw, 0x989680, .any⟩,
    ⟨SVC_NTP_PROF_FREE_STRATUM, .rw, 0x10, (.nat 1 16)⟩,
    ⟨SVC_NTP_PROF_SMEAR, .rw, 0, .any⟩] }

/-- SVC_KEY_SLOTn, State of master key slot n (chapter 07). -/
def SVC_KEY_SLOT (n : Nat) : Nat := 0x401000 + 8 * n
def SVC_KEY_SLOT_KEY_ID : Fld := ⟨0, 32⟩
def SVC_KEY_SLOT_STATE : Fld := ⟨32, 3⟩
def SVC_KEY_SLOT_SOURCE : Fld := ⟨35, 1⟩
def row_SVC_KEY_SLOT : RegRow := { base := 0x401000, n1 := 64, s1 := 8, n2 := 1, s2 := 1, fields := [⟨SVC_KEY_SLOT_KEY_ID, .ro, 0, .any⟩,
    ⟨SVC_KEY_SLOT_STATE, .ro, 0, .any⟩,
    ⟨SVC_KEY_SLOT_SOURCE, .ro, 0, .any⟩] }

/-- SVC_KE_CTL, NTS-KE service control (chapter 08). -/
def SVC_KE_CTL : Nat := 0x400200
def SVC_KE_CTL_ENABLE : Fld := ⟨0, 1⟩
def SVC_KE_CTL_AES256_FIRST : Fld := ⟨1, 1⟩
def SVC_KE_CTL_COOKIES : Fld := ⟨4, 4⟩
def SVC_KE_CTL_PORT : Fld := ⟨16, 16⟩
def row_SVC_KE_CTL : RegRow := { base := 0x400200, n1 := 1, s1 := 1, n2 := 1, s2 := 1, fields := [⟨SVC_KE_CTL_ENABLE, .rw, 1, .any⟩,
    ⟨SVC_KE_CTL_AES256_FIRST, .rw, 0, .any⟩,
    ⟨SVC_KE_CTL_COOKIES, .rw, 8, (.nat 1 8)⟩,
    ⟨SVC_KE_CTL_PORT, .rwl, 0x116C, (.nat 1 65535)⟩] }

/-- SVC_KE_LIMITS, Connection limits (chapter 08). -/
def SVC_KE_LIMITS : Nat := 0x400208
def SVC_KE_LIMITS_MAX_CONN : Fld := ⟨0, 16⟩
def SVC_KE_LIMITS_SRC_MAX : Fld := ⟨16, 8⟩
def row_SVC_KE_LIMITS : RegRow := { base := 0x400208, n1 := 1, s1 := 1, n2 := 1, s2 := 1, fields := [⟨SVC_KE_LIMITS_MAX_CONN, .rw, 0x1000, (.nat 64 16384)⟩,
    ⟨SVC_KE_LIMITS_SRC_MAX, .rw, 0x10, (.nat 1 255)⟩] }

/-- SVC_KE_TIMEOUT, Connection timers (chapter 08). -/
def SVC_KE_TIMEOUT : Nat := 0x400210
def SVC_KE_TIMEOUT_HS_MS : Fld := ⟨0, 16⟩
def SVC_KE_TIMEOUT_LINGER_MS : Fld := ⟨16, 16⟩
def row_SVC_KE_TIMEOUT : RegRow := { base := 0x400210, n1 := 1, s1 := 1, n2 := 1, s2 := 1, fields := [⟨SVC_KE_TIMEOUT_HS_MS, .rw, 0x1388, (.nat 500 30000)⟩,
    ⟨SVC_KE_TIMEOUT_LINGER_MS, .rw, 0x3E8, (.nat 100 10000)⟩] }

/-- SVC_KE_BACKLOG, Admission by queued work (chapter 08). -/
def SVC_KE_BACKLOG : Nat := 0x400218
def SVC_KE_BACKLOG_LIMIT_MS : Fld := ⟨0, 10⟩
def SVC_KE_BACKLOG_NOW_US : Fld := ⟨32, 32⟩
def row_SVC_KE_BACKLOG : RegRow := { base := 0x400218, n1 := 1, s1 := 1, n2 := 1, s2 := 1, fields := [⟨SVC_KE_BACKLOG_LIMIT_MS, .rw, 0x64, (.nat 10 1000)⟩,
    ⟨SVC_KE_BACKLOG_NOW_US, .ro, 0, .any⟩] }

/-- SVC_KE_STATUS, Service state (chapter 08). -/
def SVC_KE_STATUS : Nat := 0x400220
def SVC_KE_STATUS_CONN : Fld := ⟨0, 16⟩
def SVC_KE_STATUS_CONN_HWM : Fld := ⟨16, 16⟩
def SVC_KE_STATUS_IDENT_VALID : Fld := ⟨32, 4⟩
def SVC_KE_STATUS_IDENT_EXPIRED : Fld := ⟨36, 4⟩
def SVC_KE_STATUS_LISTENING : Fld := ⟨40, 1⟩
def row_SVC_KE_STATUS : RegRow := { base := 0x400220, n1 := 1, s1 := 1, n2 := 1, s2 := 1, fields := [⟨SVC_KE_STATUS_CONN, .ro, 0, .any⟩,
    ⟨SVC_KE_STATUS_CONN_HWM, .rc, 0, .any⟩,
    ⟨SVC_KE_STATUS_IDENT_VALID, .ro, 0, .any⟩,
    ⟨SVC_KE_STATUS_IDENT_EXPIRED, .ro, 0, .any⟩,
    ⟨SVC_KE_STATUS_LISTENING, .ro, 0, .any⟩] }

/-- SVC_KE_IDENTk, Identity k (chapter 08). -/
def SVC_KE_IDENT (n : Nat) : Nat := 0x400240 + 8 * n
def SVC_KE_IDENT_KEY_TYPE : Fld := ⟨0, 3⟩
def SVC_KE_IDENT_RSA_WORDS : Fld := ⟨8, 7⟩
def SVC_KE_IDENT_VALID : Fld := ⟨16, 1⟩
def SVC_KE_IDENT_EXPIRED : Fld := ⟨17, 1⟩
def SVC_KE_IDENT_NAMES : Fld := ⟨24, 4⟩
def SVC_KE_IDENT_NOT_AFTER : Fld := ⟨32, 32⟩
def row_SVC_KE_IDENT : RegRow := { base := 0x400240, n1 := 4, s1 := 8, n2 := 1, s2 := 1, fields := [⟨SVC_KE_IDENT_KEY_TYPE, .ro, 0, .any⟩,
    ⟨SVC_KE_IDENT_RSA_WORDS, .ro, 0, .any⟩,
    ⟨SVC_KE_IDENT_VALID, .ro, 0, .any⟩,
    ⟨SVC_KE_IDENT_EXPIRED, .ro, 0, .any⟩,
    ⟨SVC_KE_IDENT_NAMES, .ro, 0, .any⟩,
    ⟨SVC_KE_IDENT_NOT_AFTER, .ro, 0, .any⟩] }

/-- PTP_CTL, PTP service control (chapter 09). -/
def PTP_CTL : Nat := 0x400400
def PTP_CTL_ENABLE : Fld := ⟨0, 1⟩
def PTP_CTL_PAIR_INDEX : Fld := ⟨1, 1⟩
def row_PTP_CTL : RegRow := { base := 0x400400, n1 := 1, s1 := 1, n2 := 1, s2 := 1, fields := [⟨PTP_CTL_ENABLE, .rw, 1, .any⟩,
    ⟨PTP_CTL_PAIR_INDEX, .rwl, 0, .any⟩] }

/-- PTP_CLOCK_ID, Clock identity (chapter 09). -/
def PTP_CLOCK_ID : Nat := 0x400408
def PTP_CLOCK_ID_ID : Fld := ⟨0, 64⟩
def row_PTP_CLOCK_ID : RegRow := { base := 0x400408, n1 := 1, s1 := 1, n2 := 1, s2 := 1, fields := [⟨PTP_CLOCK_ID_ID, .rwl, 0, .any⟩] }

/-- PTP_STATUS, Service state (chapter 09). -/
def PTP_STATUS : Nat := 0x400410
def PTP_STATUS_SERVING : Fld := ⟨0, 1⟩
def PTP_STATUS_STANDBY : Fld := ⟨1, 1⟩
def PTP_STATUS_ID_MISMATCH : Fld := ⟨2, 1⟩
def PTP_STATUS_CLASS0 : Fld := ⟨8, 8⟩
def PTP_STATUS_PORT_STATE : Fld := ⟨16, 16⟩
def PTP_STATUS_GRANTS : Fld := ⟨32, 17⟩
def row_PTP_STATUS : RegRow := { base := 0x400410, n1 := 1, s1 := 1, n2 := 1, s2 := 1, fields := [⟨PTP_STATUS_SERVING, .ro, 0, .any⟩,
    ⟨PTP_STATUS_STANDBY, .ro, 0, .any⟩,
    ⟨PTP_STATUS_ID_MISMATCH, .ro, 0, .any⟩,
    ⟨PTP_STATUS_CLASS0, .ro, 0xF8, .any⟩,
    ⟨PTP_STATUS_PORT_STATE, .ro, 0, .any⟩,
    ⟨PTP_STATUS_GRANTS, .ro, 0, .any⟩] }

/-- PTP_GRANT_CFG, Grant limits (chapter 09). -/
def PTP_GRANT_CFG : Nat := 0x400418
def PTP_GRANT_CFG_MAX_GRANTS : Fld := ⟨0, 17⟩
def PTP_GRANT_CFG_MAX_DUR : Fld := ⟨20, 10⟩
def PTP_GRANT_CFG_SYNC_MIN_LOG : Fld := ⟨32, 4⟩
def PTP_GRANT_CFG_ANN_MIN_LOG : Fld := ⟨36, 4⟩
def PTP_GRANT_CFG_DRESP_MIN_LOG : Fld := ⟨40, 4⟩
def PTP_GRANT_CFG_PORT_RATE : Fld := ⟨44, 20⟩
def row_PTP_GRANT_CFG : RegRow := { base := 0x400418, n1 := 1, s1 := 1, n2 := 1, s2 := 1, fields := [⟨PTP_GRANT_CFG_MAX_GRANTS, .rw, 0x10000, (.nat 1 65536)⟩,
    ⟨PTP_GRANT_CFG_MAX_DUR, .rw, 0x12C, (.nat 10 1000)⟩,
    ⟨PTP_GRANT_CFG_SYNC_MIN_LOG, .rw, 9, (.int (-7) (0))⟩,
    ⟨PTP_GRANT_CFG_ANN_MIN_LOG, .rw, 0xD, (.int (-3) (0))⟩,
    ⟨PTP_GRANT_CFG_DRESP_MIN_LOG, .rw, 9, (.int (-7) (0))⟩,
    ⟨PTP_GRANT_CFG_PORT_RATE, .rw, 0x80000, .any⟩] }

/-- PTP_UPSTREAM_Q, Parent dataset of the selected PTP slot, written by firmware (chapter 09). -/
def PTP_UPSTREAM_Q : Nat := 0x400420
def PTP_UPSTREAM_Q_CLASS : Fld := ⟨0, 8⟩
def PTP_UPSTREAM_Q_ACCURACY : Fld := ⟨8, 8⟩
def PTP_UPSTREAM_Q_VARIANCE : Fld := ⟨16, 16⟩
def PTP_UPSTREAM_Q_STEPS : Fld := ⟨32, 16⟩
def PTP_UPSTREAM_Q_SLOT : Fld := ⟨48, 5⟩
def PTP_UPSTREAM_Q_VALID : Fld := ⟨56, 1⟩
def row_PTP_UPSTREAM_Q : RegRow := { base := 0x400420, n1 := 1, s1 := 1, n2 := 1, s2 := 1, fields := [⟨PTP_UPSTREAM_Q_CLASS, .ro, 0xF8, .any⟩,
    ⟨PTP_UPSTREAM_Q_ACCURACY, .ro, 0xFE, .any⟩,
    ⟨PTP_UPSTREAM_Q_VARIANCE, .ro, 0xFFFF, .any⟩,
    ⟨PTP_UPSTREAM_Q_STEPS, .ro, 0, .any⟩,
    ⟨PTP_UPSTREAM_Q_SLOT, .ro, 0, .any⟩,
    ⟨PTP_UPSTREAM_Q_VALID, .ro, 0, .any⟩] }

/-- PTP_DOMk, Domain instance k (chapter 09). -/
def PTP_DOM (n : Nat) : Nat := 0x400440 + 8 * n
def PTP_DOM_PROFILE : Fld := ⟨0, 3⟩
def PTP_DOM_DOMAIN : Fld := ⟨8, 8⟩
def PTP_DOM_PRIORITY1 : Fld := ⟨16, 8⟩
def PTP_DOM_PRIORITY2 : Fld := ⟨24, 8⟩
def PTP_DOM_LOCAL_PRIO : Fld := ⟨32, 8⟩
def PTP_DOM_ONE_STEP : Fld := ⟨40, 1⟩
def PTP_DOM_L2_FWD : Fld := ⟨41, 1⟩
def PTP_DOM_TX_UNSET : Fld := ⟨42, 1⟩
def PTP_DOM_SYNC_LOG : Fld := ⟨48, 4⟩
def PTP_DOM_ANN_LOG : Fld := ⟨52, 4⟩
def PTP_DOM_DREQ_LOG : Fld := ⟨56, 4⟩
def PTP_DOM_ANN_TIMEOUT : Fld := ⟨60, 4⟩
def row_PTP_DOM : RegRow := { base := 0x400440, n1 := 4, s1 := 8, n2 := 1, s2 := 1, fields := [⟨PTP_DOM_PROFILE, .rwl, 0, .any⟩,
    ⟨PTP_DOM_DOMAIN, .rwl, 0, .any⟩,
    ⟨PTP_DOM_PRIORITY1, .rw, 0x80, .any⟩,
    ⟨PTP_DOM_PRIORITY2, .rw, 0x80, .any⟩,
    ⟨PTP_DOM_LOCAL_PRIO, .rw, 0x80, .any⟩,
    ⟨PTP_DOM_ONE_STEP, .rw, 1, .any⟩,
    ⟨PTP_DOM_L2_FWD, .rw, 0, .any⟩,
    ⟨PTP_DOM_TX_UNSET, .rw, 0, .any⟩,
    ⟨PTP_DOM_SYNC_LOG, .rw, 0xC, .any⟩,
    ⟨PTP_DOM_ANN_LOG, .rw, 0xD, .any⟩,
    ⟨PTP_DOM_DREQ_LOG, .rw, 0xC, .any⟩,
    ⟨PTP_DOM_ANN_TIMEOUT, .rw, 3, (.nat 2 10)⟩] }

/-- PTP_QPROFk, Class thresholds of instance k, in units of 10 ns (chapter 09). -/
def PTP_QPROF (n : Nat) : Nat := 0x400460 + 8 * n
def PTP_QPROF_T1 : Fld := ⟨0, 16⟩
def PTP_QPROF_T2 : Fld := ⟨16, 16⟩
def PTP_QPROF_T3 : Fld := ⟨32, 16⟩
def PTP_QPROF_T4 : Fld := ⟨48, 16⟩
def row_PTP_QPROF : RegRow := { base := 0x400460, n1 := 4, s1 := 8, n2 := 1, s2 := 1, fields := [⟨PTP_QPROF_T1, .rw, 0xA, .any⟩,
    ⟨PTP_QPROF_T2, .rw, 0x64, .any⟩,
    ⟨PTP_QPROF_T3, .rw, 0x3E8, .any⟩,
    ⟨PTP_QPROF_T4, .rw, 0x2710, .any⟩] }

/-- PTP_PORTn, PTP role of port n (chapter 09). -/
def PTP_PORT (n : Nat) : Nat := 0x400480 + 8 * n
def PTP_PORT_ROLE : Fld := ⟨0, 3⟩
def PTP_PORT_DOM_MASK : Fld := ⟨4, 4⟩
def PTP_PORT_L2 : Fld := ⟨8, 1⟩
def PTP_PORT_IPV4 : Fld := ⟨9, 1⟩
def PTP_PORT_IPV6 : Fld := ⟨10, 1⟩
def row_PTP_PORT : RegRow := { base := 0x400480, n1 := 8, s1 := 8, n2 := 1, s2 := 1, fields := [⟨PTP_PORT_ROLE, .rw, 0, (.nat 0 4)⟩,
    ⟨PTP_PORT_DOM_MASK, .rw, 0, .any⟩,
    ⟨PTP_PORT_L2, .rw, 1, .any⟩,
    ⟨PTP_PORT_IPV4, .rw, 1, .any⟩,
    ⟨PTP_PORT_IPV6, .rw, 1, .any⟩] }

/-- PTP_RELAYk, Relay pair k (chapter 09). -/
def PTP_RELAY (n : Nat) : Nat := 0x4004C0 + 8 * n
def PTP_RELAY_PORT_A : Fld := ⟨0, 3⟩
def PTP_RELAY_PORT_B : Fld := ⟨4, 3⟩
def PTP_RELAY_MODE : Fld := ⟨8, 1⟩
def PTP_RELAY_VALID : Fld := ⟨9, 1⟩
def row_PTP_RELAY : RegRow := { base := 0x4004C0, n1 := 4, s1 := 8, n2 := 1, s2 := 1, fields := [⟨PTP_RELAY_PORT_A, .rwl, 0, .any⟩,
    ⟨PTP_RELAY_PORT_B, .rwl, 0, .any⟩,
    ⟨PTP_RELAY_MODE, .rwl, 0, .any⟩,
    ⟨PTP_RELAY_VALID, .rwl, 0, .any⟩] }

/-- BNU_CTL, Unit control (chapter 10). -/
def BNU_CTL (n : Nat) : Nat := 0x500000 + 4096 * n
def BNU_CTL_OWNER : Fld := ⟨0, 1⟩
def BNU_CTL_SELFTEST : Fld := ⟨1, 1⟩
def BNU_CTL_ABORT_ALL : Fld := ⟨2, 1⟩
def row_BNU_CTL : RegRow := { base := 0x500000, n1 := 8, s1 := 4096, n2 := 1, s2 := 1, fields := [⟨BNU_CTL_OWNER, .rw, 0, .any⟩,
    ⟨BNU_CTL_SELFTEST, .wo, 0, .any⟩,
    ⟨BNU_CTL_ABORT_ALL, .wo, 0, .any⟩] }

/-- BNU_STATUS, Unit state (chapter 10). -/
def BNU_STATUS (n : Nat) : Nat := 0x500008 + 4096 * n
def BNU_STATUS_ONLINE : Fld := ⟨0, 1⟩
def BNU_STATUS_SELFTEST_PASS : Fld := ⟨1, 1⟩
def BNU_STATUS_RUNNING : Fld := ⟨2, 1⟩
def BNU_STATUS_YIELDED : Fld := ⟨3, 1⟩
def BNU_STATUS_FAULT : Fld := ⟨4, 1⟩
def BNU_STATUS_WR_BUSY : Fld := ⟨5, 1⟩
def BNU_STATUS_Q_FULL : Fld := ⟨6, 1⟩
def BNU_STATUS_SHORT_Q : Fld := ⟨16, 6⟩
def BNU_STATUS_LONG_Q : Fld := ⟨24, 4⟩
def BNU_STATUS_CPL_Q : Fld := ⟨32, 7⟩
def row_BNU_STATUS : RegRow := { base := 0x500008, n1 := 8, s1 := 4096, n2 := 1, s2 := 1, fields := [⟨BNU_STATUS_ONLINE, .ro, 0, .any⟩,
    ⟨BNU_STATUS_SELFTEST_PASS, .ro, 0, .any⟩,
    ⟨BNU_STATUS_RUNNING, .ro, 0, .any⟩,
    ⟨BNU_STATUS_YIELDED, .ro, 0, .any⟩,
    ⟨BNU_STATUS_FAULT, .ro, 0, .any⟩,
    ⟨BNU_STATUS_WR_BUSY, .rw1c, 0, .any⟩,
    ⟨BNU_STATUS_Q_FULL, .rw1c, 0, .any⟩,
    ⟨BNU_STATUS_SHORT_Q, .ro, 0, .any⟩,
    ⟨BNU_STATUS_LONG_Q, .ro, 0, .any⟩,
    ⟨BNU_STATUS_CPL_Q, .ro, 0, .any⟩] }

/-- BNU_SLOT_WORDS, Slot length (chapter 10). -/
def BNU_SLOT_WORDS (n : Nat) : Nat := 0x500010 + 4096 * n
def BNU_SLOT_WORDS_WORDS : Fld := ⟨0, 8⟩
def BNU_SLOT_WORDS_SLOTS : Fld := ⟨16, 12⟩
def row_BNU_SLOT_WORDS : RegRow := { base := 0x500010, n1 := 8, s1 := 4096, n2 := 1, s2 := 1, fields := [⟨BNU_SLOT_WORDS_WORDS, .rw, 0x40, (.nat 4 128)⟩,
    ⟨BNU_SLOT_WORDS_SLOTS, .ro, 0x80, .any⟩] }

/-- BNU_JOBk, Staged descriptor word k of the writing initiator (chapter 10). -/
def BNU_JOB (n : Nat) (k : Nat) : Nat := 0x500018 + 4096 * n + 8 * k
def BNU_JOB_WORD : Fld := ⟨0, 64⟩
def row_BNU_JOB : RegRow := { base := 0x500018, n1 := 8, s1 := 4096, n2 := 4, s2 := 8, fields := [⟨BNU_JOB_WORD, .rw, 0, .any⟩] }

/-- BNU_SUBMIT, Submission (chapter 10). -/
def BNU_SUBMIT (n : Nat) : Nat := 0x500038 + 4096 * n
def BNU_SUBMIT_GO : Fld := ⟨0, 1⟩
def row_BNU_SUBMIT : RegRow := { base := 0x500038, n1 := 8, s1 := 4096, n2 := 1, s2 := 1, fields := [⟨BNU_SUBMIT_GO, .wo, 0, .any⟩] }

/-- BNU_CPL, Head of the completion FIFO; a read pops it (chapter 10). -/
def BNU_CPL (n : Nat) : Nat := 0x500040 + 4096 * n
def BNU_CPL_STATUS : Fld := ⟨0, 8⟩
def BNU_CPL_RESULT : Fld := ⟨8, 1⟩
def BNU_CPL_Q_FULL : Fld := ⟨9, 1⟩
def BNU_CPL_BAD_DESC : Fld := ⟨10, 1⟩
def BNU_CPL_NO_ENTROPY : Fld := ⟨11, 1⟩
def BNU_CPL_YIELDED : Fld := ⟨12, 1⟩
def BNU_CPL_RETRIED : Fld := ⟨13, 1⟩
def BNU_CPL_OFFLINE : Fld := ⟨14, 1⟩
def BNU_CPL_TAG : Fld := ⟨16, 16⟩
def BNU_CPL_CYCLES : Fld := ⟨32, 31⟩
def BNU_CPL_VALID : Fld := ⟨63, 1⟩
def row_BNU_CPL : RegRow := { base := 0x500040, n1 := 8, s1 := 4096, n2 := 1, s2 := 1, fields := [⟨BNU_CPL_STATUS, .rc, 0, .any⟩,
    ⟨BNU_CPL_RESULT, .rc, 0, .any⟩,
    ⟨BNU_CPL_Q_FULL, .rc, 0, .any⟩,
    ⟨BNU_CPL_BAD_DESC, .rc, 0, .any⟩,
    ⟨BNU_CPL_NO_ENTROPY, .rc, 0, .any⟩,
    ⟨BNU_CPL_YIELDED, .rc, 0, .any⟩,
    ⟨BNU_CPL_RETRIED, .rc, 0, .any⟩,
    ⟨BNU_CPL_OFFLINE, .rc, 0, .any⟩,
    ⟨BNU_CPL_TAG, .rc, 0, .any⟩,
    ⟨BNU_CPL_CYCLES, .rc, 0, .any⟩,
    ⟨BNU_CPL_VALID, .rc, 0, .any⟩] }

/-- BNU_ABORT, Abort by tag (chapter 10). -/
def BNU_ABORT (n : Nat) : Nat := 0x500048 + 4096 * n
def BNU_ABORT_TAG : Fld := ⟨0, 16⟩
def BNU_ABORT_GO : Fld := ⟨16, 1⟩
def row_BNU_ABORT : RegRow := { base := 0x500048, n1 := 8, s1 := 4096, n2 := 1, s2 := 1, fields := [⟨BNU_ABORT_TAG, .wo, 0, .any⟩,
    ⟨BNU_ABORT_GO, .wo, 0, .any⟩] }

/-- BNU_SLOT_QUERY, Slot selected for BNU_SLOT_INFO (chapter 10). -/
def BNU_SLOT_QUERY (n : Nat) : Nat := 0x500050 + 4096 * n
def BNU_SLOT_QUERY_INDEX : Fld := ⟨0, 12⟩
def row_BNU_SLOT_QUERY : RegRow := { base := 0x500050, n1 := 8, s1 := 4096, n2 := 1, s2 := 1, fields := [⟨BNU_SLOT_QUERY_INDEX, .rw, 0, .any⟩] }

/-- BNU_SLOT_INFO, State of the queried slot (chapter 10). -/
def BNU_SLOT_INFO (n : Nat) : Nat := 0x500058 + 4096 * n
def BNU_SLOT_INFO_STATE : Fld := ⟨0, 2⟩
def BNU_SLOT_INFO_READ : Fld := ⟨2, 2⟩
def BNU_SLOT_INFO_OWNER : Fld := ⟨4, 2⟩
def row_BNU_SLOT_INFO : RegRow := { base := 0x500058, n1 := 8, s1 := 4096, n2 := 1, s2 := 1, fields := [⟨BNU_SLOT_INFO_STATE, .ro, 0, .any⟩,
    ⟨BNU_SLOT_INFO_READ, .ro, 0, .any⟩,
    ⟨BNU_SLOT_INFO_OWNER, .ro, 0, .any⟩] }

/-- BNU_LOAD, Queued work (chapter 10). -/
def BNU_LOAD (n : Nat) : Nat := 0x500060 + 4096 * n
def BNU_LOAD_CYCLES : Fld := ⟨0, 32⟩
def row_BNU_LOAD : RegRow := { base := 0x500060, n1 := 8, s1 := 4096, n2 := 1, s2 := 1, fields := [⟨BNU_LOAD_CYCLES, .ro, 0, .any⟩] }

/-- BNU_ES_CTL, Entropy source control (chapter 10). -/
def BNU_ES_CTL : Nat := 0x508000
def BNU_ES_CTL_RESTART : Fld := ⟨0, 1⟩
def row_BNU_ES_CTL : RegRow := { base := 0x508000, n1 := 1, s1 := 1, n2 := 1, s2 := 1, fields := [⟨BNU_ES_CTL_RESTART, .wo, 0, .any⟩] }

/-- BNU_ES_STATUS, Entropy source state (chapter 10). -/
def BNU_ES_STATUS : Nat := 0x508008
def BNU_ES_STATUS_STATE : Fld := ⟨0, 2⟩
def BNU_ES_STATUS_FAIL_RUN : Fld := ⟨8, 2⟩
def BNU_ES_STATUS_RCT_FAIL : Fld := ⟨16, 1⟩
def BNU_ES_STATUS_APT_FAIL : Fld := ⟨17, 1⟩
def row_BNU_ES_STATUS : RegRow := { base := 0x508008, n1 := 1, s1 := 1, n2 := 1, s2 := 1, fields := [⟨BNU_ES_STATUS_STATE, .ro, 0, .any⟩,
    ⟨BNU_ES_STATUS_FAIL_RUN, .ro, 0, .any⟩,
    ⟨BNU_ES_STATUS_RCT_FAIL, .rw1c, 0, .any⟩,
    ⟨BNU_ES_STATUS_APT_FAIL, .rw1c, 0, .any⟩] }

/-- BNU_RAND, 64 bits from the DRBG instance of the reading core's cluster (chapter 10). -/
def BNU_RAND : Nat := 0x508040
def BNU_RAND_VALUE : Fld := ⟨0, 64⟩
def row_BNU_RAND : RegRow := { base := 0x508040, n1 := 1, s1 := 1, n2 := 1, s2 := 1, fields := [⟨BNU_RAND_VALUE, .ro, 0, .any⟩] }

/-- BNU_DRBG_STATUS, DRBG instance state (chapter 10). -/
def BNU_DRBG_STATUS : Nat := 0x508048
def BNU_DRBG_STATUS_READY : Fld := ⟨0, 11⟩
def BNU_DRBG_STATUS_STALE : Fld := ⟨16, 11⟩
def row_BNU_DRBG_STATUS : RegRow := { base := 0x508048, n1 := 1, s1 := 1, n2 := 1, s2 := 1, fields := [⟨BNU_DRBG_STATUS_READY, .ro, 0, .any⟩,
    ⟨BNU_DRBG_STATUS_STALE, .rw1c, 0, .any⟩] }

/-- TIC_CHn_CTL, Channel mode and arming (chapter 11). -/
def TIC_CH_CTL (n : Nat) : Nat := 0x50000 + 256 * n
def TIC_CH_CTL_MODE : Fld := ⟨0, 2⟩
def TIC_CH_CTL_TBASE : Fld := ⟨2, 1⟩
def TIC_CH_CTL_ARM_SRC : Fld := ⟨4, 2⟩
def TIC_CH_CTL_TRIG_SEL : Fld := ⟨8, 4⟩
def TIC_CH_CTL_ARM : Fld := ⟨12, 1⟩
def TIC_CH_CTL_OWNER : Fld := ⟨13, 1⟩
def row_TIC_CH_CTL : RegRow := { base := 0x50000, n1 := 8, s1 := 256, n2 := 1, s2 := 1, fields := [⟨TIC_CH_CTL_MODE, .rw, 0, (.nat 0 2)⟩,
    ⟨TIC_CH_CTL_TBASE, .rw, 0, .any⟩,
    ⟨TIC_CH_CTL_ARM_SRC, .rw, 0, (.nat 0 2)⟩,
    ⟨TIC_CH_CTL_TRIG_SEL, .rw, 0, .any⟩,
    ⟨TIC_CH_CTL_ARM, .wo, 0, .any⟩,
    ⟨TIC_CH_CTL_OWNER, .ro, 0, .any⟩] }

/-- TIC_CHn_SRC, Sources and prescalers (chapter 11). -/
def TIC_CH_SRC (n : Nat) : Nat := 0x50008 + 256 * n
def TIC_CH_SRC_START : Fld := ⟨0, 5⟩
def TIC_CH_SRC_START_EDGE : Fld := ⟨5, 1⟩
def TIC_CH_SRC_START_PRE : Fld := ⟨8, 4⟩
def TIC_CH_SRC_STOP : Fld := ⟨16, 5⟩
def TIC_CH_SRC_STOP_EDGE : Fld := ⟨21, 1⟩
def TIC_CH_SRC_STOP_PRE : Fld := ⟨24, 4⟩
def row_TIC_CH_SRC : RegRow := { base := 0x50008, n1 := 8, s1 := 256, n2 := 1, s2 := 1, fields := [⟨TIC_CH_SRC_START, .rw, 0, .any⟩,
    ⟨TIC_CH_SRC_START_EDGE, .rw, 0, .any⟩,
    ⟨TIC_CH_SRC_START_PRE, .rw, 0, (.nat 0 10)⟩,
    ⟨TIC_CH_SRC_STOP, .rw, 0, .any⟩,
    ⟨TIC_CH_SRC_STOP_EDGE, .rw, 0, .any⟩,
    ⟨TIC_CH_SRC_STOP_PRE, .rw, 0, (.nat 0 10)⟩] }

/-- TIC_CHn_GATE, Gate time and timeout (chapter 11). -/
def TIC_CH_GATE (n : Nat) : Nat := 0x50010 + 256 * n
def TIC_CH_GATE_GATE_US : Fld := ⟨0, 24⟩
def TIC_CH_GATE_TIMEOUT_US : Fld := ⟨32, 24⟩
def row_TIC_CH_GATE : RegRow := { base := 0x50010, n1 := 8, s1 := 256, n2 := 1, s2 := 1, fields := [⟨TIC_CH_GATE_GATE_US, .rw, 0xF4240, (.nat 1 10000000)⟩,
    ⟨TIC_CH_GATE_TIMEOUT_US, .rw, 0, (.nat 0 10000000)⟩] }

/-- TIC_CHn_STATUS, Channel state (chapter 11). -/
def TIC_CH_STATUS (n : Nat) : Nat := 0x50018 + 256 * n
def TIC_CH_STATUS_ARMED : Fld := ⟨0, 1⟩
def TIC_CH_STATUS_FIFO : Fld := ⟨8, 7⟩
def TIC_CH_STATUS_LAST_K1 : Fld := ⟨16, 7⟩
def TIC_CH_STATUS_LAST_K2 : Fld := ⟨24, 7⟩
def TIC_CH_STATUS_OVERRUN : Fld := ⟨32, 1⟩
def row_TIC_CH_STATUS : RegRow := { base := 0x50018, n1 := 8, s1 := 256, n2 := 1, s2 := 1, fields := [⟨TIC_CH_STATUS_ARMED, .ro, 0, .any⟩,
    ⟨TIC_CH_STATUS_FIFO, .ro, 0, .any⟩,
    ⟨TIC_CH_STATUS_LAST_K1, .ro, 0, .any⟩,
    ⟨TIC_CH_STATUS_LAST_K2, .ro, 0, .any⟩,
    ⟨TIC_CH_STATUS_OVERRUN, .rw1c, 0, .any⟩] }

/-- TIC_CHn_RES0, Pops the head result and returns word 0 (chapter 11). -/
def TIC_CH_RES0 (n : Nat) : Nat := 0x50020 + 256 * n
def TIC_CH_RES0_WORD0 : Fld := ⟨0, 64⟩
def row_TIC_CH_RES0 : RegRow := { base := 0x50020, n1 := 8, s1 := 256, n2 := 1, s2 := 1, fields := [⟨TIC_CH_RES0_WORD0, .rc, 0, .any⟩] }

/-- TIC_CHn_RES1, Word 1 of the initiator's last popped result (chapter 11). -/
def TIC_CH_RES1 (n : Nat) : Nat := 0x50028 + 256 * n
def TIC_CH_RES1_WORD1 : Fld := ⟨0, 64⟩
def row_TIC_CH_RES1 : RegRow := { base := 0x50028, n1 := 8, s1 := 256, n2 := 1, s2 := 1, fields := [⟨TIC_CH_RES1_WORD1, .ro, 0, .any⟩] }

/-- TIC_CHn_RES2, Word 2 of the initiator's last popped result (chapter 11). -/
def TIC_CH_RES2 (n : Nat) : Nat := 0x50030 + 256 * n
def TIC_CH_RES2_EDGE_NUM : Fld := ⟨0, 32⟩
def TIC_CH_RES2_STATUS : Fld := ⟨32, 3⟩
def TIC_CH_RES2_MODE : Fld := ⟨40, 2⟩
def TIC_CH_RES2_VALID : Fld := ⟨63, 1⟩
def row_TIC_CH_RES2 : RegRow := { base := 0x50030, n1 := 8, s1 := 256, n2 := 1, s2 := 1, fields := [⟨TIC_CH_RES2_EDGE_NUM, .ro, 0, .any⟩,
    ⟨TIC_CH_RES2_STATUS, .ro, 0, .any⟩,
    ⟨TIC_CH_RES2_MODE, .ro, 0, .any⟩,
    ⟨TIC_CH_RES2_VALID, .ro, 0, .any⟩] }

/-- TIC_AGE_RATE, XO ageing rate (chapter 11). -/
def TIC_AGE_RATE : Nat := 0x50800
def TIC_AGE_RATE_RATE : Fld := ⟨0, 32⟩
def row_TIC_AGE_RATE : RegRow := { base := 0x50800, n1 := 1, s1 := 1, n2 := 1, s2 := 1, fields := [⟨TIC_AGE_RATE_RATE, .rw, 0, .any⟩] }

/-- TIC_AGE_EPOCH, Epoch of the ageing model (chapter 11). -/
def TIC_AGE_EPOCH : Nat := 0x50808
def TIC_AGE_EPOCH_SEC : Fld := ⟨0, 64⟩
def row_TIC_AGE_EPOCH : RegRow := { base := 0x50808, n1 := 1, s1 := 1, n2 := 1, s2 := 1, fields := [⟨TIC_AGE_EPOCH_SEC, .rw, 0, .any⟩] }

/-- GNSS_CTL, Baseband control (chapter 12). -/
def GNSS_CTL : Nat := 0x60000
def GNSS_CTL_ENABLE : Fld := ⟨0, 1⟩
def GNSS_CTL_LEAN : Fld := ⟨1, 1⟩
def GNSS_CTL_LEAP_AUTO : Fld := ⟨2, 1⟩
def GNSS_CTL_ISB_BCAST : Fld := ⟨3, 1⟩
def GNSS_CTL_JUMP_BOUND : Fld := ⟨4, 1⟩
def GNSS_CTL_ACCEPT : Fld := ⟨5, 1⟩
def GNSS_CTL_MEAS_RATE : Fld := ⟨6, 2⟩
def GNSS_CTL_SYS_EN : Fld := ⟨8, 4⟩
def GNSS_CTL_SCALE : Fld := ⟨12, 2⟩
def GNSS_CTL_LEAN_PERIOD : Fld := ⟨16, 16⟩
def GNSS_CTL_FE_WAKE_MS : Fld := ⟨32, 8⟩
def row_GNSS_CTL : RegRow := { base := 0x60000, n1 := 1, s1 := 1, n2 := 1, s2 := 1, fields := [⟨GNSS_CTL_ENABLE, .rw, 1, .any⟩,
    ⟨GNSS_CTL_LEAN, .rw, 0, .any⟩,
    ⟨GNSS_CTL_LEAP_AUTO, .rw, 1, .any⟩,
    ⟨GNSS_CTL_ISB_BCAST, .rw, 0, .any⟩,
    ⟨GNSS_CTL_JUMP_BOUND, .rw, 1, .any⟩,
    ⟨GNSS_CTL_ACCEPT, .wo, 0, .any⟩,
    ⟨GNSS_CTL_MEAS_RATE, .rw, 0, .any⟩,
    ⟨GNSS_CTL_SYS_EN, .rw, 0xF, .any⟩,
    ⟨GNSS_CTL_SCALE, .rwl, 0, .any⟩,
    ⟨GNSS_CTL_LEAN_PERIOD, .rw, 0x3C, (.nat 10 3600)⟩,
    ⟨GNSS_CTL_FE_WAKE_MS, .rw, 5, (.nat 1 255)⟩] }

/-- GNSS_STATUS, Baseband state (chapter 12). -/
def GNSS_STATUS : Nat := 0x60008
def GNSS_STATUS_MODE : Fld := ⟨0, 3⟩
def GNSS_STATUS_SOL_VALID : Fld := ⟨3, 1⟩
def GNSS_STATUS_JUMP : Fld := ⟨4, 1⟩
def GNSS_STATUS_POS_SUSPECT : Fld := ⟨5, 1⟩
def GNSS_STATUS_FE_FAULT : Fld := ⟨6, 1⟩
def GNSS_STATUS_ACC_NOT_MET : Fld := ⟨7, 1⟩
def GNSS_STATUS_TRACKED : Fld := ⟨8, 7⟩
def GNSS_STATUS_USED : Fld := ⟨16, 7⟩
def GNSS_STATUS_JAM_L1 : Fld := ⟨24, 8⟩
def GNSS_STATUS_JAM_L5 : Fld := ⟨32, 8⟩
def GNSS_STATUS_SYS_EXCL : Fld := ⟨40, 4⟩
def GNSS_STATUS_CONFIRM_LEFT : Fld := ⟨44, 17⟩
def row_GNSS_STATUS : RegRow := { base := 0x60008, n1 := 1, s1 := 1, n2 := 1, s2 := 1, fields := [⟨GNSS_STATUS_MODE, .ro, 0, .any⟩,
    ⟨GNSS_STATUS_SOL_VALID, .ro, 0, .any⟩,
    ⟨GNSS_STATUS_JUMP, .ro, 0, .any⟩,
    ⟨GNSS_STATUS_POS_SUSPECT, .ro, 0, .any⟩,
    ⟨GNSS_STATUS_FE_FAULT, .ro, 0, .any⟩,
    ⟨GNSS_STATUS_ACC_NOT_MET, .ro, 0, .any⟩,
    ⟨GNSS_STATUS_TRACKED, .ro, 0, .any⟩,
    ⟨GNSS_STATUS_USED, .ro, 0, .any⟩,
    ⟨GNSS_STATUS_JAM_L1, .ro, 0, .any⟩,
    ⟨GNSS_STATUS_JAM_L5, .ro, 0, .any⟩,
    ⟨GNSS_STATUS_SYS_EXCL, .ro, 0, .any⟩,
    ⟨GNSS_STATUS_CONFIRM_LEFT, .ro, 0, .any⟩] }

/-- GNSS_SP_CFG, Sample port (chapter 12). -/
def GNSS_SP_CFG : Nat := 0x60010
def GNSS_SP_CFG_RATE : Fld := ⟨0, 1⟩
def GNSS_SP_CFG_FMT : Fld := ⟨1, 1⟩
def GNSS_SP_CFG_L1_EN : Fld := ⟨2, 1⟩
def GNSS_SP_CFG_L5_EN : Fld := ⟨3, 1⟩
def row_GNSS_SP_CFG : RegRow := { base := 0x60010, n1 := 1, s1 := 1, n2 := 1, s2 := 1, fields := [⟨GNSS_SP_CFG_RATE, .rwl, 0, .any⟩,
    ⟨GNSS_SP_CFG_FMT, .rwl, 0, .any⟩,
    ⟨GNSS_SP_CFG_L1_EN, .rwl, 1, .any⟩,
    ⟨GNSS_SP_CFG_L5_EN, .rwl, 1, .any⟩] }

/-- GNSS_L1_DELAY, L1 path delay (chapter 12). -/
def GNSS_L1_DELAY : Nat := 0x60018
def GNSS_L1_DELAY_DELAY : Fld := ⟨0, 32⟩
def row_GNSS_L1_DELAY : RegRow := { base := 0x60018, n1 := 1, s1 := 1, n2 := 1, s2 := 1, fields := [⟨GNSS_L1_DELAY_DELAY, .rw, 0, .any⟩] }

/-- GNSS_L5_DELAY, L5 path delay (chapter 12). -/
def GNSS_L5_DELAY : Nat := 0x60020
def GNSS_L5_DELAY_DELAY : Fld := ⟨0, 32⟩
def row_GNSS_L5_DELAY : RegRow := { base := 0x60020, n1 := 1, s1 := 1, n2 := 1, s2 := 1, fields := [⟨GNSS_L5_DELAY_DELAY, .rw, 0, .any⟩] }

/-- GNSS_SOL_CFG, Solution parameters (chapter 12). -/
def GNSS_SOL_CFG : Nat := 0x60028
def GNSS_SOL_CFG_CAL_UNC : Fld := ⟨0, 16⟩
def GNSS_SOL_CFG_MIN_SV : Fld := ⟨16, 4⟩
def GNSS_SOL_CFG_SYS_TOL : Fld := ⟨32, 8⟩
def GNSS_SOL_CFG_JAM_THRESH : Fld := ⟨40, 8⟩
def row_GNSS_SOL_CFG : RegRow := { base := 0x60028, n1 := 1, s1 := 1, n2 := 1, s2 := 1, fields := [⟨GNSS_SOL_CFG_CAL_UNC, .rw, 3, .any⟩,
    ⟨GNSS_SOL_CFG_MIN_SV, .rw, 4, (.nat 1 12)⟩,
    ⟨GNSS_SOL_CFG_SYS_TOL, .rw, 0x1E, (.nat 5 255)⟩,
    ⟨GNSS_SOL_CFG_JAM_THRESH, .rw, 0x28, .any⟩] }

/-- GNSS_SURVEY, Survey control (chapter 12). -/
def GNSS_SURVEY : Nat := 0x60030
def GNSS_SURVEY_MODE : Fld := ⟨0, 1⟩
def GNSS_SURVEY_RESTART : Fld := ⟨1, 1⟩
def GNSS_SURVEY_SURVEY_TIME : Fld := ⟨12, 20⟩
def GNSS_SURVEY_SURVEY_ACC : Fld := ⟨32, 16⟩
def row_GNSS_SURVEY : RegRow := { base := 0x60030, n1 := 1, s1 := 1, n2 := 1, s2 := 1, fields := [⟨GNSS_SURVEY_MODE, .rwl, 0, .any⟩,
    ⟨GNSS_SURVEY_RESTART, .wo, 0, .any⟩,
    ⟨GNSS_SURVEY_SURVEY_TIME, .rw, 0x15180, (.nat 600 604800)⟩,
    ⟨GNSS_SURVEY_SURVEY_ACC, .rw, 0x7D0, .any⟩] }

/-- GNSS_POSk, Position, ECEF X, Y and Z (chapter 12). -/
def GNSS_POS (n : Nat) : Nat := 0x60038 + 8 * n
def GNSS_POS_MM : Fld := ⟨0, 64⟩
def row_GNSS_POS : RegRow := { base := 0x60038, n1 := 3, s1 := 8, n2 := 1, s2 := 1, fields := [⟨GNSS_POS_MM, .ro, 0, .any⟩] }

/-- GNSS_SOL, Last valid solution (chapter 12). -/
def GNSS_SOL : Nat := 0x60050
def GNSS_SOL_OFFSET : Fld := ⟨0, 48⟩
def GNSS_SOL_BOUND : Fld := ⟨48, 16⟩
def row_GNSS_SOL : RegRow := { base := 0x60050, n1 := 1, s1 := 1, n2 := 1, s2 := 1, fields := [⟨GNSS_SOL_OFFSET, .ro, 0, .any⟩,
    ⟨GNSS_SOL_BOUND, .ro, 0xFFFF, .any⟩] }

/-- GNSS_JUMP_CFG, Jump confirmation (chapter 12). -/
def GNSS_JUMP_CFG : Nat := 0x60058
def GNSS_JUMP_CFG_CONFIRM : Fld := ⟨0, 16⟩
def GNSS_JUMP_CFG_CONSIST : Fld := ⟨16, 16⟩
def row_GNSS_JUMP_CFG : RegRow := { base := 0x60058, n1 := 1, s1 := 1, n2 := 1, s2 := 1, fields := [⟨GNSS_JUMP_CFG_CONFIRM, .rw, 0x258, (.nat 60 86400)⟩,
    ⟨GNSS_JUMP_CFG_CONSIST, .rw, 0x32, (.nat 5 10000)⟩] }

/-- GNSS_TP_MSGk, Bytes 8k to 8k + 7 of the current time-pulse message (chapter 12). -/
def GNSS_TP_MSG (n : Nat) : Nat := 0x60060 + 8 * n
def GNSS_TP_MSG_MSG : Fld := ⟨0, 64⟩
def row_GNSS_TP_MSG : RegRow := { base := 0x60060, n1 := 4, s1 := 8, n2 := 1, s2 := 1, fields := [⟨GNSS_TP_MSG_MSG, .ro, 0, .any⟩] }

/-- GNSS_SNAP_CTL, Snapshot control (chapter 12). -/
def GNSS_SNAP_CTL : Nat := 0x60080
def GNSS_SNAP_CTL_ARM : Fld := ⟨0, 1⟩
def GNSS_SNAP_CTL_RELEASE : Fld := ⟨1, 1⟩
def GNSS_SNAP_CTL_DEST : Fld := ⟨2, 1⟩
def GNSS_SNAP_CTL_BANDS : Fld := ⟨3, 2⟩
def GNSS_SNAP_CTL_SRC : Fld := ⟨5, 1⟩
def GNSS_SNAP_CTL_TRIG_SEL : Fld := ⟨8, 4⟩
def GNSS_SNAP_CTL_LEN_MS : Fld := ⟨16, 7⟩
def row_GNSS_SNAP_CTL : RegRow := { base := 0x60080, n1 := 1, s1 := 1, n2 := 1, s2 := 1, fields := [⟨GNSS_SNAP_CTL_ARM, .wo, 0, .any⟩,
    ⟨GNSS_SNAP_CTL_RELEASE, .wo, 0, .any⟩,
    ⟨GNSS_SNAP_CTL_DEST, .rw, 0, .any⟩,
    ⟨GNSS_SNAP_CTL_BANDS, .rw, 0, (.nat 0 2)⟩,
    ⟨GNSS_SNAP_CTL_SRC, .rw, 0, .any⟩,
    ⟨GNSS_SNAP_CTL_TRIG_SEL, .rw, 0, .any⟩,
    ⟨GNSS_SNAP_CTL_LEN_MS, .rw, 0xA, .any⟩] }

/-- GNSS_SNAP_SEC, Snapshot start, seconds (chapter 12). -/
def GNSS_SNAP_SEC : Nat := 0x60088
def GNSS_SNAP_SEC_SEC : Fld := ⟨0, 64⟩
def row_GNSS_SNAP_SEC : RegRow := { base := 0x60088, n1 := 1, s1 := 1, n2 := 1, s2 := 1, fields := [⟨GNSS_SNAP_SEC_SEC, .rw, 0, .any⟩] }

/-- GNSS_SNAP_SUB, Snapshot start, sub-second part (chapter 12). -/
def GNSS_SNAP_SUB : Nat := 0x60090
def GNSS_SNAP_SUB_FRAC : Fld := ⟨0, 32⟩
def GNSS_SNAP_SUB_NS : Fld := ⟨32, 32⟩
def row_GNSS_SNAP_SUB : RegRow := { base := 0x60090, n1 := 1, s1 := 1, n2 := 1, s2 := 1, fields := [⟨GNSS_SNAP_SUB_FRAC, .rw, 0, .any⟩,
    ⟨GNSS_SNAP_SUB_NS, .rw, 0, .any⟩] }

/-- GNSS_SNAP_STATUS, Last snapshot (chapter 12). -/
def GNSS_SNAP_STATUS : Nat := 0x60098
def GNSS_SNAP_STATUS_STATE : Fld := ⟨0, 2⟩
def GNSS_SNAP_STATUS_RESULT : Fld := ⟨4, 3⟩
def GNSS_SNAP_STATUS_SATS : Fld := ⟨8, 8⟩
def GNSS_SNAP_STATUS_LEN_MS : Fld := ⟨16, 16⟩
def GNSS_SNAP_STATUS_FIRST_OFS : Fld := ⟨32, 16⟩
def row_GNSS_SNAP_STATUS : RegRow := { base := 0x60098, n1 := 1, s1 := 1, n2 := 1, s2 := 1, fields := [⟨GNSS_SNAP_STATUS_STATE, .ro, 0, .any⟩,
    ⟨GNSS_SNAP_STATUS_RESULT, .ro, 0, .any⟩,
    ⟨GNSS_SNAP_STATUS_SATS, .ro, 0, .any⟩,
    ⟨GNSS_SNAP_STATUS_LEN_MS, .ro, 0, .any⟩,
    ⟨GNSS_SNAP_STATUS_FIRST_OFS, .ro, 0, .any⟩] }

/-- GNSS_NAV_RING, Navigation record ring (chapter 12). -/
def GNSS_NAV_RING : Nat := 0x600A0
def GNSS_NAV_RING_BASE : Fld := ⟨0, 24⟩
def GNSS_NAV_RING_HEAD : Fld := ⟨32, 11⟩
def GNSS_NAV_RING_TAIL : Fld := ⟨48, 11⟩
def row_GNSS_NAV_RING : RegRow := { base := 0x600A0, n1 := 1, s1 := 1, n2 := 1, s2 := 1, fields := [⟨GNSS_NAV_RING_BASE, .ro, 0, .any⟩,
    ⟨GNSS_NAV_RING_HEAD, .ro, 0, .any⟩,
    ⟨GNSS_NAV_RING_TAIL, .rw, 0, .any⟩] }

/-- REFS_CTL, Selection mode (chapter 13). -/
def REFS_CTL : Nat := 0x20000
def REFS_CTL_MODE : Fld := ⟨0, 2⟩
def REFS_CTL_FORCE_SLOT : Fld := ⟨8, 5⟩
def REFS_CTL_WTR : Fld := ⟨32, 16⟩
def row_REFS_CTL : RegRow := { base := 0x20000, n1 := 1, s1 := 1, n2 := 1, s2 := 1, fields := [⟨REFS_CTL_MODE, .rw, 0, .any⟩,
    ⟨REFS_CTL_FORCE_SLOT, .rw, 0, .any⟩,
    ⟨REFS_CTL_WTR, .rw, 0x12C, (.nat 0 3600)⟩] }

/-- REFS_STATUS, Selection state (chapter 13). -/
def REFS_STATUS : Nat := 0x20008
def REFS_STATUS_SELECTED : Fld := ⟨0, 5⟩
def REFS_STATUS_SWITCHING : Fld := ⟨8, 1⟩
def REFS_STATUS_LAST_CAUSE : Fld := ⟨12, 4⟩
def REFS_STATUS_SWITCHES : Fld := ⟨16, 16⟩
def REFS_STATUS_QUALIFIED : Fld := ⟨32, 20⟩
def row_REFS_STATUS : RegRow := { base := 0x20008, n1 := 1, s1 := 1, n2 := 1, s2 := 1, fields := [⟨REFS_STATUS_SELECTED, .ro, 0x1F, .any⟩,
    ⟨REFS_STATUS_SWITCHING, .ro, 0, .any⟩,
    ⟨REFS_STATUS_LAST_CAUSE, .ro, 0, .any⟩,
    ⟨REFS_STATUS_SWITCHES, .ro, 0, .any⟩,
    ⟨REFS_STATUS_QUALIFIED, .ro, 0, .any⟩] }

/-- REFS_CMD, Custodian commands (chapter 13). -/
def REFS_CMD : Nat := 0x20010
def REFS_CMD_SLOT : Fld := ⟨0, 5⟩
def REFS_CMD_ACCEPT_JUMP : Fld := ⟨8, 1⟩
def REFS_CMD_LOCKOUT : Fld := ⟨9, 1⟩
def REFS_CMD_UNLOCK : Fld := ⟨10, 1⟩
def row_REFS_CMD : RegRow := { base := 0x20010, n1 := 1, s1 := 1, n2 := 1, s2 := 1, fields := [⟨REFS_CMD_SLOT, .wo, 0, .any⟩,
    ⟨REFS_CMD_ACCEPT_JUMP, .wo, 0, .any⟩,
    ⟨REFS_CMD_LOCKOUT, .wo, 0, .any⟩,
    ⟨REFS_CMD_UNLOCK, .wo, 0, .any⟩] }

/-- REFS_SLOTn_CFG, Slot configuration (chapter 13). -/
def REFS_SLOT_CFG (n : Nat) : Nat := 0x21000 + 256 * n
def REFS_SLOT_CFG_ENABLE : Fld := ⟨0, 1⟩
def REFS_SLOT_CFG_PULLIN : Fld := ⟨1, 1⟩
def REFS_SLOT_CFG_TRACEABLE : Fld := ⟨2, 1⟩
def REFS_SLOT_CFG_DRIFT_PREEMPT : Fld := ⟨3, 1⟩
def REFS_SLOT_CFG_KIND : Fld := ⟨4, 3⟩
def REFS_SLOT_CFG_PRIORITY : Fld := ⟨8, 8⟩
def REFS_SLOT_CFG_TIME_SOURCE : Fld := ⟨16, 8⟩
def REFS_SLOT_CFG_QUAL_TIME : Fld := ⟨24, 16⟩
def REFS_SLOT_CFG_QUALITY_NS : Fld := ⟨40, 24⟩
def row_REFS_SLOT_CFG : RegRow := { base := 0x21000, n1 := 20, s1 := 256, n2 := 1, s2 := 1, fields := [⟨REFS_SLOT_CFG_ENABLE, .rw, 0, .any⟩,
    ⟨REFS_SLOT_CFG_PULLIN, .rw, 1, .any⟩,
    ⟨REFS_SLOT_CFG_TRACEABLE, .rw, 0, .any⟩,
    ⟨REFS_SLOT_CFG_DRIFT_PREEMPT, .rw, 0, .any⟩,
    ⟨REFS_SLOT_CFG_KIND, .ro, 0, .any⟩,
    ⟨REFS_SLOT_CFG_PRIORITY, .rw, 0x80, (.nat 1 255)⟩,
    ⟨REFS_SLOT_CFG_TIME_SOURCE, .rw, 0x90, .any⟩,
    ⟨REFS_SLOT_CFG_QUAL_TIME, .rw, 0, (.nat 1 3600)⟩,
    ⟨REFS_SLOT_CFG_QUALITY_NS, .rw, 0x64, .any⟩] }

/-- REFS_SLOTn_INPUT, Source binding; the layout depends on the slot (chapter 13). -/
def REFS_SLOT_INPUT (n : Nat) : Nat := 0x21008 + 256 * n
def REFS_SLOT_INPUT_SIGNAL : Fld := ⟨0, 2⟩
def REFS_SLOT_INPUT_FALLING : Fld := ⟨2, 1⟩
def REFS_SLOT_INPUT_PORT : Fld := ⟨4, 3⟩
def REFS_SLOT_INPUT_INSTANCE : Fld := ⟨8, 2⟩
def REFS_SLOT_INPUT_LABEL : Fld := ⟨10, 1⟩
def REFS_SLOT_INPUT_POLL_LOG : Fld := ⟨12, 4⟩
def REFS_SLOT_INPUT_UPSTREAM : Fld := ⟨16, 16⟩
def REFS_SLOT_INPUT_NOMINAL : Fld := ⟨32, 32⟩
def row_REFS_SLOT_INPUT : RegRow := { base := 0x21008, n1 := 20, s1 := 256, n2 := 1, s2 := 1, fields := [⟨REFS_SLOT_INPUT_SIGNAL, .rwl, 0, .any⟩,
    ⟨REFS_SLOT_INPUT_FALLING, .rwl, 0, .any⟩,
    ⟨REFS_SLOT_INPUT_PORT, .rwl, 0, .any⟩,
    ⟨REFS_SLOT_INPUT_INSTANCE, .rwl, 0, .any⟩,
    ⟨REFS_SLOT_INPUT_LABEL, .rwl, 0, .any⟩,
    ⟨REFS_SLOT_INPUT_POLL_LOG, .rwl, 4, (.nat 4 10)⟩,
    ⟨REFS_SLOT_INPUT_UPSTREAM, .rwl, 0, .any⟩,
    ⟨REFS_SLOT_INPUT_NOMINAL, .rwl, 0, .any⟩] }

/-- REFS_SLOTn_FLIM, Frequency limits and disqualification time (chapter 13). -/
def REFS_SLOT_FLIM (n : Nat) : Nat := 0x21010 + 256 * n
def REFS_SLOT_FLIM_WATCH : Fld := ⟨0, 16⟩
def REFS_SLOT_FLIM_ACCEPT : Fld := ⟨16, 16⟩
def REFS_SLOT_FLIM_REJECT : Fld := ⟨32, 16⟩
def REFS_SLOT_FLIM_DISQ_TIME : Fld := ⟨48, 16⟩
def row_REFS_SLOT_FLIM : RegRow := { base := 0x21010, n1 := 20, s1 := 256, n2 := 1, s2 := 1, fields := [⟨REFS_SLOT_FLIM_WATCH, .rw, 0x12C, .any⟩,
    ⟨REFS_SLOT_FLIM_ACCEPT, .rw, 0x1F4, .any⟩,
    ⟨REFS_SLOT_FLIM_REJECT, .rw, 0x3E8, .any⟩,
    ⟨REFS_SLOT_FLIM_DISQ_TIME, .rw, 0x3E8, (.nat 100 60000)⟩] }

/-- REFS_SLOTn_PLIM, Phase limits and activity (chapter 13). -/
def REFS_SLOT_PLIM (n : Nat) : Nat := 0x21018 + 256 * n
def REFS_SLOT_PLIM_WATCH : Fld := ⟨0, 16⟩
def REFS_SLOT_PLIM_ACCEPT : Fld := ⟨16, 16⟩
def REFS_SLOT_PLIM_REJECT : Fld := ⟨32, 16⟩
def REFS_SLOT_PLIM_ACT_MISS : Fld := ⟨48, 4⟩
def row_REFS_SLOT_PLIM : RegRow := { base := 0x21018, n1 := 20, s1 := 256, n2 := 1, s2 := 1, fields := [⟨REFS_SLOT_PLIM_WATCH, .rw, 0, .any⟩,
    ⟨REFS_SLOT_PLIM_ACCEPT, .rw, 0, .any⟩,
    ⟨REFS_SLOT_PLIM_REJECT, .rw, 0, .any⟩,
    ⟨REFS_SLOT_PLIM_ACT_MISS, .rw, 2, (.nat 1 15)⟩] }

/-- REFS_SLOTn_JUMP, Jump test (chapter 13). -/
def REFS_SLOT_JUMP (n : Nat) : Nat := 0x21020 + 256 * n
def REFS_SLOT_JUMP_LIMIT : Fld := ⟨0, 32⟩
def REFS_SLOT_JUMP_CONFIRM : Fld := ⟨32, 8⟩
def row_REFS_SLOT_JUMP : RegRow := { base := 0x21020, n1 := 20, s1 := 256, n2 := 1, s2 := 1, fields := [⟨REFS_SLOT_JUMP_LIMIT, .rw, 0x64, (.nat 10 10000000)⟩,
    ⟨REFS_SLOT_JUMP_CONFIRM, .rw, 0xA, (.nat 1 255)⟩] }

/-- REFS_SLOTn_DRIFT, Drift estimator (chapter 13). -/
def REFS_SLOT_DRIFT (n : Nat) : Nat := 0x21028 + 256 * n
def REFS_SLOT_DRIFT_RATE : Fld := ⟨0, 32⟩
def REFS_SLOT_DRIFT_WIN : Fld := ⟨32, 16⟩
def REFS_SLOT_DRIFT_HOLD : Fld := ⟨48, 16⟩
def row_REFS_SLOT_DRIFT : RegRow := { base := 0x21028, n1 := 20, s1 := 256, n2 := 1, s2 := 1, fields := [⟨REFS_SLOT_DRIFT_RATE, .rw, 0x3E8, .any⟩,
    ⟨REFS_SLOT_DRIFT_WIN, .rw, 0x258, (.nat 60 65535)⟩,
    ⟨REFS_SLOT_DRIFT_HOLD, .rw, 0x12C, (.nat 10 65535)⟩] }

/-- REFS_SLOTn_OFFSET, Calibration offset (chapter 13). -/
def REFS_SLOT_OFFSET (n : Nat) : Nat := 0x21030 + 256 * n
def REFS_SLOT_OFFSET_OFFSET : Fld := ⟨0, 48⟩
def row_REFS_SLOT_OFFSET : RegRow := { base := 0x21030, n1 := 20, s1 := 256, n2 := 1, s2 := 1, fields := [⟨REFS_SLOT_OFFSET_OFFSET, .rw, 0, .any⟩] }

/-- REFS_SLOTn_STATE, Slot state (chapter 13). -/
def REFS_SLOT_STATE (n : Nat) : Nat := 0x21038 + 256 * n
def REFS_SLOT_STATE_STATE : Fld := ⟨0, 3⟩
def REFS_SLOT_STATE_WATCH : Fld := ⟨4, 1⟩
def REFS_SLOT_STATE_DRIFTING : Fld := ⟨5, 1⟩
def REFS_SLOT_STATE_JUMP : Fld := ⟨6, 1⟩
def REFS_SLOT_STATE_CAUSE : Fld := ⟨8, 4⟩
def REFS_SLOT_STATE_TIMER_LEFT : Fld := ⟨16, 16⟩
def REFS_SLOT_STATE_JUMP_RUN : Fld := ⟨32, 8⟩
def REFS_SLOT_STATE_QUALITY : Fld := ⟨40, 24⟩
def row_REFS_SLOT_STATE : RegRow := { base := 0x21038, n1 := 20, s1 := 256, n2 := 1, s2 := 1, fields := [⟨REFS_SLOT_STATE_STATE, .ro, 0, .any⟩,
    ⟨REFS_SLOT_STATE_WATCH, .ro, 0, .any⟩,
    ⟨REFS_SLOT_STATE_DRIFTING, .ro, 0, .any⟩,
    ⟨REFS_SLOT_STATE_JUMP, .ro, 0, .any⟩,
    ⟨REFS_SLOT_STATE_CAUSE, .ro, 0, .any⟩,
    ⟨REFS_SLOT_STATE_TIMER_LEFT, .ro, 0, .any⟩,
    ⟨REFS_SLOT_STATE_JUMP_RUN, .ro, 0, .any⟩,
    ⟨REFS_SLOT_STATE_QUALITY, .ro, 0, .any⟩] }

/-- REFS_SLOTn_ABSORB, Absorbed offset (chapter 13). -/
def REFS_SLOT_ABSORB (n : Nat) : Nat := 0x21040 + 256 * n
def REFS_SLOT_ABSORB_ABSORB : Fld := ⟨0, 64⟩
def row_REFS_SLOT_ABSORB : RegRow := { base := 0x21040, n1 := 20, s1 := 256, n2 := 1, s2 := 1, fields := [⟨REFS_SLOT_ABSORB_ABSORB, .ro, 0, .any⟩] }

/-- REFS_SLOTn_MEAS, Monitor values of the last update (chapter 13). -/
def REFS_SLOT_MEAS (n : Nat) : Nat := 0x21048 + 256 * n
def REFS_SLOT_MEAS_FREQ : Fld := ⟨0, 40⟩
def REFS_SLOT_MEAS_PHASE : Fld := ⟨48, 16⟩
def row_REFS_SLOT_MEAS : RegRow := { base := 0x21048, n1 := 20, s1 := 256, n2 := 1, s2 := 1, fields := [⟨REFS_SLOT_MEAS_FREQ, .ro, 0, .any⟩,
    ⟨REFS_SLOT_MEAS_PHASE, .ro, 0, .any⟩] }

/-- REFS_SLOTn_ONSET, Drift onset (chapter 13). -/
def REFS_SLOT_ONSET (n : Nat) : Nat := 0x21050 + 256 * n
def REFS_SLOT_ONSET_SEC : Fld := ⟨0, 64⟩
def row_REFS_SLOT_ONSET : RegRow := { base := 0x21050, n1 := 20, s1 := 256, n2 := 1, s2 := 1, fields := [⟨REFS_SLOT_ONSET_SEC, .ro, 0, .any⟩] }

/-- SERVO_STATE, Servo state (chapter 14). -/
def SERVO_STATE : Nat := 0x30000
def SERVO_STATE_STATE : Fld := ⟨0, 3⟩
def SERVO_STATE_HO_FALLBACK : Fld := ⟨4, 1⟩
def SERVO_STATE_TREND_ACTIVE : Fld := ⟨5, 1⟩
def SERVO_STATE_SLOT : Fld := ⟨8, 5⟩
def SERVO_STATE_ENTER_SEC : Fld := ⟨32, 32⟩
def row_SERVO_STATE : RegRow := { base := 0x30000, n1 := 1, s1 := 1, n2 := 1, s2 := 1, fields := [⟨SERVO_STATE_STATE, .ro, 0, .any⟩,
    ⟨SERVO_STATE_HO_FALLBACK, .ro, 0, .any⟩,
    ⟨SERVO_STATE_TREND_ACTIVE, .ro, 0, .any⟩,
    ⟨SERVO_STATE_SLOT, .ro, 0x1F, .any⟩,
    ⟨SERVO_STATE_ENTER_SEC, .ro, 0, .any⟩] }

/-- SERVO_CFG, Loop and holdover options (chapter 14). -/
def SERVO_CFG : Nat := 0x30008
def SERVO_CFG_DAMP : Fld := ⟨0, 11⟩
def SERVO_CFG_HO_TREND : Fld := ⟨16, 1⟩
def SERVO_CFG_FREQ_UNC : Fld := ⟨32, 32⟩
def row_SERVO_CFG : RegRow := { base := 0x30008, n1 := 1, s1 := 1, n2 := 1, s2 := 1, fields := [⟨SERVO_CFG_DAMP, .rw, 0xB5, (.nat 64 1024)⟩,
    ⟨SERVO_CFG_HO_TREND, .rw, 0, .any⟩,
    ⟨SERVO_CFG_FREQ_UNC, .rwl, 0x3E8, .any⟩] }

/-- SERVO_BWk, Loop parameters of type k (chapter 14). -/
def SERVO_BW (n : Nat) : Nat := 0x30010 + 8 * n
def SERVO_BW_BW : Fld := ⟨0, 32⟩
def SERVO_BW_LOCK_PHASE : Fld := ⟨32, 16⟩
def SERVO_BW_LOCK_TIME : Fld := ⟨48, 16⟩
def row_SERVO_BW : RegRow := { base := 0x30010, n1 := 6, s1 := 8, n2 := 1, s2 := 1, fields := [⟨SERVO_BW_BW, .rw, 0, .any⟩,
    ⟨SERVO_BW_LOCK_PHASE, .rw, 0, .any⟩,
    ⟨SERVO_BW_LOCK_TIME, .rw, 0, (.nat 1 65535)⟩] }

/-- SERVO_HO, Holdover window and limit (chapter 14). -/
def SERVO_HO : Nat := 0x30040
def SERVO_HO_WINDOW : Fld := ⟨0, 16⟩
def SERVO_HO_GUARD : Fld := ⟨16, 16⟩
def SERVO_HO_LIMIT_NS : Fld := ⟨32, 32⟩
def row_SERVO_HO : RegRow := { base := 0x30040, n1 := 1, s1 := 1, n2 := 1, s2 := 1, fields := [⟨SERVO_HO_WINDOW, .rw, 0x3C, (.nat 10 1440)⟩,
    ⟨SERVO_HO_GUARD, .rw, 0xF, (.nat 0 1440)⟩,
    ⟨SERVO_HO_LIMIT_NS, .rw, 0x3E8, .any⟩] }

/-- SERVO_OSC_Y, Oscillator model, frequency terms (chapter 14). -/
def SERVO_OSC_Y : Nat := 0x30048
def SERVO_OSC_Y_Y0_MIN : Fld := ⟨0, 32⟩
def SERVO_OSC_Y_TEMP_Y : Fld := ⟨32, 32⟩
def row_SERVO_OSC_Y : RegRow := { base := 0x30048, n1 := 1, s1 := 1, n2 := 1, s2 := 1, fields := [⟨SERVO_OSC_Y_Y0_MIN, .rwl, 0x64, .any⟩,
    ⟨SERVO_OSC_Y_TEMP_Y, .rwl, 0x3E8, .any⟩] }

/-- SERVO_OSC_AGE, Oscillator model, ageing (chapter 14). -/
def SERVO_OSC_AGE : Nat := 0x30050
def SERVO_OSC_AGE_AGE : Fld := ⟨0, 32⟩
def SERVO_OSC_AGE_AGE_RES : Fld := ⟨32, 32⟩
def row_SERVO_OSC_AGE : RegRow := { base := 0x30050, n1 := 1, s1 := 1, n2 := 1, s2 := 1, fields := [⟨SERVO_OSC_AGE_AGE, .rwl, 0x186A0, .any⟩,
    ⟨SERVO_OSC_AGE_AGE_RES, .rwl, 0x4E20, .any⟩] }

/-- SERVO_OSC_NOISE, Oscillator model, noise and free-run terms (chapter 14). -/
def SERVO_OSC_NOISE : Nat := 0x30058
def SERVO_OSC_NOISE_RW_H : Fld := ⟨0, 32⟩
def SERVO_OSC_NOISE_Y_FREE : Fld := ⟨32, 32⟩
def row_SERVO_OSC_NOISE : RegRow := { base := 0x30058, n1 := 1, s1 := 1, n2 := 1, s2 := 1, fields := [⟨SERVO_OSC_NOISE_RW_H, .rwl, 0x64, .any⟩,
    ⟨SERVO_OSC_NOISE_Y_FREE, .rwl, 0xF4240, .any⟩] }

/-- SERVO_HO_VALUE, Holdover value of the last holdover (chapter 14). -/
def SERVO_HO_VALUE : Nat := 0x30060
def SERVO_HO_VALUE_Y : Fld := ⟨0, 40⟩
def SERVO_HO_VALUE_TREND : Fld := ⟨40, 24⟩
def row_SERVO_HO_VALUE : RegRow := { base := 0x30060, n1 := 1, s1 := 1, n2 := 1, s2 := 1, fields := [⟨SERVO_HO_VALUE_Y, .ro, 0, .any⟩,
    ⟨SERVO_HO_VALUE_TREND, .ro, 0, .any⟩] }

/-- SERVO_HO_INFO, Window of the last holdover (chapter 14). -/
def SERVO_HO_INFO : Nat := 0x30068
def SERVO_HO_INFO_WIN_END : Fld := ⟨0, 32⟩
def SERVO_HO_INFO_N : Fld := ⟨32, 12⟩
def SERVO_HO_INFO_Y0 : Fld := ⟨44, 20⟩
def row_SERVO_HO_INFO : RegRow := { base := 0x30068, n1 := 1, s1 := 1, n2 := 1, s2 := 1, fields := [⟨SERVO_HO_INFO_WIN_END, .ro, 0, .any⟩,
    ⟨SERVO_HO_INFO_N, .ro, 0, .any⟩,
    ⟨SERVO_HO_INFO_Y0, .ro, 0, .any⟩] }

/-- SERVO_PHASE, Loop error (chapter 14). -/
def SERVO_PHASE : Nat := 0x30070
def SERVO_PHASE_PHI : Fld := ⟨0, 48⟩
def SERVO_PHASE_TRACK : Fld := ⟨48, 16⟩
def row_SERVO_PHASE : RegRow := { base := 0x30070, n1 := 1, s1 := 1, n2 := 1, s2 := 1, fields := [⟨SERVO_PHASE_PHI, .ro, 0, .any⟩,
    ⟨SERVO_PHASE_TRACK, .ro, 0, .any⟩] }

/-- SERVO_HIST, History rings of R349 (chapter 14). -/
def SERVO_HIST : Nat := 0x30078
def SERVO_HIST_BASE : Fld := ⟨0, 24⟩
def SERVO_HIST_HEAD10 : Fld := ⟨24, 10⟩
def SERVO_HIST_HEAD60 : Fld := ⟨36, 13⟩
def row_SERVO_HIST : RegRow := { base := 0x30078, n1 := 1, s1 := 1, n2 := 1, s2 := 1, fields := [⟨SERVO_HIST_BASE, .ro, 0, .any⟩,
    ⟨SERVO_HIST_HEAD10, .ro, 0, .any⟩,
    ⟨SERVO_HIST_HEAD60, .ro, 0, .any⟩] }

/-- OUTn_CTL, Output control (chapter 15). -/
def OUT_CTL (n : Nat) : Nat := 0x40000 + 256 * n
def OUT_CTL_ENABLE : Fld := ⟨0, 1⟩
def OUT_CTL_MODE : Fld := ⟨1, 3⟩
def OUT_CTL_SQUELCH : Fld := ⟨4, 2⟩
def OUT_CTL_ALIGN_SRC : Fld := ⟨8, 5⟩
def OUT_CTL_ALIGN_TIC : Fld := ⟨16, 4⟩
def OUT_CTL_ALIGN_SLEW : Fld := ⟨44, 20⟩
def row_OUT_CTL : RegRow := { base := 0x40000, n1 := 8, s1 := 256, n2 := 1, s2 := 1, fields := [⟨OUT_CTL_ENABLE, .rw, 0, .any⟩,
    ⟨OUT_CTL_MODE, .rw, 2, (.nat 0 3)⟩,
    ⟨OUT_CTL_SQUELCH, .rw, 2, (.nat 0 2)⟩,
    ⟨OUT_CTL_ALIGN_SRC, .rw, 0, .any⟩,
    ⟨OUT_CTL_ALIGN_TIC, .ro, 0, .any⟩,
    ⟨OUT_CTL_ALIGN_SLEW, .rw, 0x3E8, (.nat 1 100000)⟩] }

/-- OUTn_FREQ, Output frequency (chapter 15). -/
def OUT_FREQ (n : Nat) : Nat := 0x40008 + 256 * n
def OUT_FREQ_FREQ : Fld := ⟨0, 50⟩
def row_OUT_FREQ : RegRow := { base := 0x40008, n1 := 8, s1 := 256, n2 := 1, s2 := 1, fields := [⟨OUT_FREQ_FREQ, .rw, 0xF4240, .any⟩] }

/-- OUTn_WIDTH, Pulse width (chapter 15). -/
def OUT_WIDTH (n : Nat) : Nat := 0x40010 + 256 * n
def OUT_WIDTH_WIDTH : Fld := ⟨0, 32⟩
def row_OUT_WIDTH : RegRow := { base := 0x40010, n1 := 8, s1 := 256, n2 := 1, s2 := 1, fields := [⟨OUT_WIDTH_WIDTH, .rw, 0x5F5E100, .any⟩] }

/-- OUTn_PHASE, Phase offset, or ALIGN_OFFSET in ALIGN mode (chapter 15). -/
def OUT_PHASE (n : Nat) : Nat := 0x40018 + 256 * n
def OUT_PHASE_PHASE : Fld := ⟨0, 48⟩
def row_OUT_PHASE : RegRow := { base := 0x40018, n1 := 8, s1 := 256, n2 := 1, s2 := 1, fields := [⟨OUT_PHASE_PHASE, .rw, 0, .any⟩] }

/-- OUTn_DELAY, Board delay (chapter 15). -/
def OUT_DELAY (n : Nat) : Nat := 0x40020 + 256 * n
def OUT_DELAY_DELAY : Fld := ⟨0, 32⟩
def row_OUT_DELAY : RegRow := { base := 0x40020, n1 := 8, s1 := 256, n2 := 1, s2 := 1, fields := [⟨OUT_DELAY_DELAY, .rw, 0, (.int (-10000000) (10000000))⟩] }

/-- OUTn_STATUS, Output state (chapter 15). -/
def OUT_STATUS (n : Nat) : Nat := 0x40028 + 256 * n
def OUT_STATUS_DRIVING : Fld := ⟨0, 1⟩
def OUT_STATUS_SQUELCHED : Fld := ⟨1, 1⟩
def OUT_STATUS_ALIGNED : Fld := ⟨2, 1⟩
def OUT_STATUS_ALIGN_LOST : Fld := ⟨3, 1⟩
def OUT_STATUS_DIST_HOLD : Fld := ⟨4, 1⟩
def OUT_STATUS_PLL_LOCK : Fld := ⟨5, 1⟩
def OUT_STATUS_PATH : Fld := ⟨6, 1⟩
def OUT_STATUS_QERR_VALID : Fld := ⟨7, 1⟩
def OUT_STATUS_ORIGIN : Fld := ⟨32, 32⟩
def row_OUT_STATUS : RegRow := { base := 0x40028, n1 := 8, s1 := 256, n2 := 1, s2 := 1, fields := [⟨OUT_STATUS_DRIVING, .ro, 0, .any⟩,
    ⟨OUT_STATUS_SQUELCHED, .ro, 0, .any⟩,
    ⟨OUT_STATUS_ALIGNED, .ro, 0, .any⟩,
    ⟨OUT_STATUS_ALIGN_LOST, .ro, 0, .any⟩,
    ⟨OUT_STATUS_DIST_HOLD, .ro, 0, .any⟩,
    ⟨OUT_STATUS_PLL_LOCK, .ro, 0, .any⟩,
    ⟨OUT_STATUS_PATH, .ro, 0, .any⟩,
    ⟨OUT_STATUS_QERR_VALID, .ro, 0, .any⟩,
    ⟨OUT_STATUS_ORIGIN, .ro, 0, .any⟩] }

/-- OUTn_QERR, Quantisation or alignment error of the next or last edge (chapter 15). -/
def OUT_QERR (n : Nat) : Nat := 0x40030 + 256 * n
def OUT_QERR_QERR : Fld := ⟨0, 32⟩
def OUT_QERR_SEC : Fld := ⟨32, 32⟩
def row_OUT_QERR : RegRow := { base := 0x40030, n1 := 8, s1 := 256, n2 := 1, s2 := 1, fields := [⟨OUT_QERR_QERR, .ro, 0, .any⟩,
    ⟨OUT_QERR_SEC, .ro, 0, .any⟩] }

/-- OUT_TODk, ToD output k (chapter 15). -/
def OUT_TOD (n : Nat) : Nat := 0x42000 + 8 * n
def OUT_TOD_ENABLE : Fld := ⟨0, 1⟩
def OUT_TOD_SRC : Fld := ⟨1, 3⟩
def OUT_TOD_FORMAT : Fld := ⟨4, 1⟩
def OUT_TOD_BAUD : Fld := ⟨32, 32⟩
def row_OUT_TOD : RegRow := { base := 0x42000, n1 := 2, s1 := 8, n2 := 1, s2 := 1, fields := [⟨OUT_TOD_ENABLE, .rw, 0, .any⟩,
    ⟨OUT_TOD_SRC, .rw, 0, .any⟩,
    ⟨OUT_TOD_FORMAT, .rw, 0, .any⟩,
    ⟨OUT_TOD_BAUD, .rw, 0x1C200, (.nat 4800 115200)⟩] }

/-- TRIGn_CTL, Trigger control (chapter 15). -/
def TRIG_CTL (n : Nat) : Nat := 0x41000 + 64 * n
def TRIG_CTL_ARM : Fld := ⟨0, 1⟩
def TRIG_CTL_DISARM : Fld := ⟨1, 1⟩
def TRIG_CTL_PIN_EN : Fld := ⟨2, 1⟩
def TRIG_CTL_CNT_SNAP : Fld := ⟨3, 1⟩
def TRIG_CTL_COUNT : Fld := ⟨16, 32⟩
def TRIG_CTL_WIDTH : Fld := ⟨48, 16⟩
def row_TRIG_CTL : RegRow := { base := 0x41000, n1 := 16, s1 := 64, n2 := 1, s2 := 1, fields := [⟨TRIG_CTL_ARM, .wo, 0, .any⟩,
    ⟨TRIG_CTL_DISARM, .wo, 0, .any⟩,
    ⟨TRIG_CTL_PIN_EN, .rw, 1, .any⟩,
    ⟨TRIG_CTL_CNT_SNAP, .rw, 0, .any⟩,
    ⟨TRIG_CTL_COUNT, .rw, 0, .any⟩,
    ⟨TRIG_CTL_WIDTH, .rw, 0x64, (.nat 5 65535)⟩] }

/-- TRIGn_SEC, Arm instant, seconds (chapter 15). -/
def TRIG_SEC (n : Nat) : Nat := 0x41008 + 64 * n
def TRIG_SEC_SEC : Fld := ⟨0, 64⟩
def row_TRIG_SEC : RegRow := { base := 0x41008, n1 := 16, s1 := 64, n2 := 1, s2 := 1, fields := [⟨TRIG_SEC_SEC, .rw, 0, .any⟩] }

/-- TRIGn_SUB, Arm instant, sub-second part (chapter 15). -/
def TRIG_SUB (n : Nat) : Nat := 0x41010 + 64 * n
def TRIG_SUB_FRAC : Fld := ⟨0, 32⟩
def TRIG_SUB_NS : Fld := ⟨32, 32⟩
def row_TRIG_SUB : RegRow := { base := 0x41010, n1 := 16, s1 := 64, n2 := 1, s2 := 1, fields := [⟨TRIG_SUB_FRAC, .rw, 0, .any⟩,
    ⟨TRIG_SUB_NS, .rw, 0, .any⟩] }

/-- TRIGn_PERIOD, Firing period (chapter 15). -/
def TRIG_PERIOD (n : Nat) : Nat := 0x41018 + 64 * n
def TRIG_PERIOD_PERIOD : Fld := ⟨0, 64⟩
def row_TRIG_PERIOD : RegRow := { base := 0x41018, n1 := 16, s1 := 64, n2 := 1, s2 := 1, fields := [⟨TRIG_PERIOD_PERIOD, .rw, 0, .any⟩] }

/-- TRIGn_STATUS, Trigger state (chapter 15). -/
def TRIG_STATUS (n : Nat) : Nat := 0x41020 + 64 * n
def TRIG_STATUS_ARMED : Fld := ⟨0, 1⟩
def TRIG_STATUS_RESULT : Fld := ⟨1, 3⟩
def TRIG_STATUS_LAST_ERR : Fld := ⟨16, 16⟩
def TRIG_STATUS_FIRED : Fld := ⟨32, 32⟩
def row_TRIG_STATUS : RegRow := { base := 0x41020, n1 := 16, s1 := 64, n2 := 1, s2 := 1, fields := [⟨TRIG_STATUS_ARMED, .ro, 0, .any⟩,
    ⟨TRIG_STATUS_RESULT, .ro, 0, .any⟩,
    ⟨TRIG_STATUS_LAST_ERR, .ro, 0, .any⟩,
    ⟨TRIG_STATUS_FIRED, .ro, 0, .any⟩] }

/-- PAIR_CFG, Pair configuration (chapter 16). -/
def PAIR_CFG : Nat := 0x600000
def PAIR_CFG_ENABLE : Fld := ⟨0, 1⟩
def PAIR_CFG_INDEX : Fld := ⟨1, 1⟩
def PAIR_CFG_FOLLOW : Fld := ⟨2, 1⟩
def PAIR_CFG_TT_LANE : Fld := ⟨4, 2⟩
def row_PAIR_CFG : RegRow := { base := 0x600000, n1 := 1, s1 := 1, n2 := 1, s2 := 1, fields := [⟨PAIR_CFG_ENABLE, .rwl, 0, .any⟩,
    ⟨PAIR_CFG_INDEX, .rwl, 0, .any⟩,
    ⟨PAIR_CFG_FOLLOW, .rw, 1, .any⟩,
    ⟨PAIR_CFG_TT_LANE, .rw, 0, (.nat 0 2)⟩] }

/-- PAIR_CMD, Pair commands; Custodian only (chapter 16). -/
def PAIR_CMD : Nat := 0x600008
def PAIR_CMD_JOIN : Fld := ⟨0, 1⟩
def PAIR_CMD_YIELD : Fld := ⟨1, 1⟩
def PAIR_CMD_PART : Fld := ⟨2, 1⟩
def row_PAIR_CMD : RegRow := { base := 0x600008, n1 := 1, s1 := 1, n2 := 1, s2 := 1, fields := [⟨PAIR_CMD_JOIN, .wo, 0, .any⟩,
    ⟨PAIR_CMD_YIELD, .wo, 0, .any⟩,
    ⟨PAIR_CMD_PART, .wo, 0, .any⟩] }

/-- PAIR_STATUS, Pair state (chapter 16). -/
def PAIR_STATUS : Nat := 0x600010
def PAIR_STATUS_ROLE : Fld := ⟨0, 3⟩
def PAIR_STATUS_ELECT : Fld := ⟨3, 1⟩
def PAIR_STATUS_CUST_OUT : Fld := ⟨4, 1⟩
def PAIR_STATUS_CUST_IN : Fld := ⟨5, 1⟩
def PAIR_STATUS_TWIN_UP : Fld := ⟨6, 1⟩
def PAIR_STATUS_BELAY_DOWN : Fld := ⟨7, 1⟩
def PAIR_STATUS_CUST_FAULT : Fld := ⟨8, 1⟩
def PAIR_STATUS_SYNCING : Fld := ⟨9, 1⟩
def PAIR_STATUS_DIST_HOLD : Fld := ⟨10, 1⟩
def PAIR_STATUS_LANE0_UP : Fld := ⟨11, 1⟩
def PAIR_STATUS_LANE1_UP : Fld := ⟨12, 1⟩
def PAIR_STATUS_TT_LANE_USED : Fld := ⟨13, 1⟩
def PAIR_STATUS_CAUSE : Fld := ⟨16, 4⟩
def row_PAIR_STATUS : RegRow := { base := 0x600010, n1 := 1, s1 := 1, n2 := 1, s2 := 1, fields := [⟨PAIR_STATUS_ROLE, .ro, 0, .any⟩,
    ⟨PAIR_STATUS_ELECT, .ro, 0, .any⟩,
    ⟨PAIR_STATUS_CUST_OUT, .ro, 0, .any⟩,
    ⟨PAIR_STATUS_CUST_IN, .ro, 0, .any⟩,
    ⟨PAIR_STATUS_TWIN_UP, .ro, 0, .any⟩,
    ⟨PAIR_STATUS_BELAY_DOWN, .ro, 0, .any⟩,
    ⟨PAIR_STATUS_CUST_FAULT, .ro, 0, .any⟩,
    ⟨PAIR_STATUS_SYNCING, .ro, 0, .any⟩,
    ⟨PAIR_STATUS_DIST_HOLD, .ro, 0, .any⟩,
    ⟨PAIR_STATUS_LANE0_UP, .ro, 0, .any⟩,
    ⟨PAIR_STATUS_LANE1_UP, .ro, 0, .any⟩,
    ⟨PAIR_STATUS_TT_LANE_USED, .ro, 0, .any⟩,
    ⟨PAIR_STATUS_CAUSE, .ro, 0, .any⟩] }

/-- PAIR_BELAY_ASYM, Link asymmetry per lane (chapter 16). -/
def PAIR_BELAY_ASYM : Nat := 0x600018
def PAIR_BELAY_ASYM_ASYM0 : Fld := ⟨0, 32⟩
def PAIR_BELAY_ASYM_ASYM1 : Fld := ⟨32, 32⟩
def row_PAIR_BELAY_ASYM : RegRow := { base := 0x600018, n1 := 1, s1 := 1, n2 := 1, s2 := 1, fields := [⟨PAIR_BELAY_ASYM_ASYM0, .rw, 0, .any⟩,
    ⟨PAIR_BELAY_ASYM_ASYM1, .rw, 0, .any⟩] }

/-- PAIR_TT, Last time transfer (chapter 16). -/
def PAIR_TT : Nat := 0x600020
def PAIR_TT_THETA : Fld := ⟨0, 48⟩
def row_PAIR_TT : RegRow := { base := 0x600020, n1 := 1, s1 := 1, n2 := 1, s2 := 1, fields := [⟨PAIR_TT_THETA, .ro, 0, .any⟩] }

/-- PAIR_TT_RTT, Round trip of the last accepted exchange (chapter 16). -/
def PAIR_TT_RTT : Nat := 0x600028
def PAIR_TT_RTT_RTT : Fld := ⟨0, 32⟩
def row_PAIR_TT_RTT : RegRow := { base := 0x600028, n1 := 1, s1 := 1, n2 := 1, s2 := 1, fields := [⟨PAIR_TT_RTT_RTT, .ro, 0, .any⟩] }

/-- PAIR_JSEQ, Journal position (chapter 16). -/
def PAIR_JSEQ : Nat := 0x600030
def PAIR_JSEQ_TX : Fld := ⟨0, 32⟩
def PAIR_JSEQ_RX : Fld := ⟨32, 32⟩
def row_PAIR_JSEQ : RegRow := { base := 0x600030, n1 := 1, s1 := 1, n2 := 1, s2 := 1, fields := [⟨PAIR_JSEQ_TX, .ro, 0, .any⟩,
    ⟨PAIR_JSEQ_RX, .ro, 0, .any⟩] }

/-- PAIR_TWIN, The twin as its last heartbeat and HELLO reported it (chapter 16). -/
def PAIR_TWIN : Nat := 0x600038
def PAIR_TWIN_ROLE : Fld := ⟨0, 3⟩
def PAIR_TWIN_SERVO : Fld := ⟨4, 3⟩
def PAIR_TWIN_INDEX : Fld := ⟨8, 1⟩
def PAIR_TWIN_VARIANT : Fld := ⟨12, 2⟩
def PAIR_TWIN_FW_MAJOR : Fld := ⟨16, 8⟩
def PAIR_TWIN_BOUND : Fld := ⟨32, 32⟩
def row_PAIR_TWIN : RegRow := { base := 0x600038, n1 := 1, s1 := 1, n2 := 1, s2 := 1, fields := [⟨PAIR_TWIN_ROLE, .ro, 0, .any⟩,
    ⟨PAIR_TWIN_SERVO, .ro, 0, .any⟩,
    ⟨PAIR_TWIN_INDEX, .ro, 0, .any⟩,
    ⟨PAIR_TWIN_VARIANT, .ro, 0, .any⟩,
    ⟨PAIR_TWIN_FW_MAJOR, .ro, 0, .any⟩,
    ⟨PAIR_TWIN_BOUND, .ro, 0xFFFFFFFF, .any⟩] }

/-- SYS_BOOK_STATUS, Route Book state of the current start (chapter 17). -/
def SYS_BOOK_STATUS : Nat := 0x100
def SYS_BOOK_STATUS_COPY : Fld := ⟨0, 1⟩
def SYS_BOOK_STATUS_FALLBACK : Fld := ⟨1, 1⟩
def SYS_BOOK_STATUS_UNOWNED : Fld := ⟨2, 1⟩
def SYS_BOOK_STATUS_PREF_VALID : Fld := ⟨3, 1⟩
def SYS_BOOK_STATUS_PREF_COPY : Fld := ⟨4, 1⟩
def SYS_BOOK_STATUS_VERIFIED_A : Fld := ⟨5, 1⟩
def SYS_BOOK_STATUS_VERIFIED_B : Fld := ⟨6, 1⟩
def SYS_BOOK_STATUS_SKIPPED : Fld := ⟨16, 16⟩
def SYS_BOOK_STATUS_ROM_VER : Fld := ⟨32, 32⟩
def row_SYS_BOOK_STATUS : RegRow := { base := 0x100, n1 := 1, s1 := 1, n2 := 1, s2 := 1, fields := [⟨SYS_BOOK_STATUS_COPY, .ro, 0, .any⟩,
    ⟨SYS_BOOK_STATUS_FALLBACK, .ro, 0, .any⟩,
    ⟨SYS_BOOK_STATUS_UNOWNED, .ro, 0, .any⟩,
    ⟨SYS_BOOK_STATUS_PREF_VALID, .ro, 0, .any⟩,
    ⟨SYS_BOOK_STATUS_PREF_COPY, .ro, 0, .any⟩,
    ⟨SYS_BOOK_STATUS_VERIFIED_A, .ro, 0, .any⟩,
    ⟨SYS_BOOK_STATUS_VERIFIED_B, .ro, 0, .any⟩,
    ⟨SYS_BOOK_STATUS_SKIPPED, .ro, 0, .any⟩,
    ⟨SYS_BOOK_STATUS_ROM_VER, .ro, 0, .any⟩] }

/-- SYS_BOOK_ID, Build identifier of the active copy (chapter 17). -/
def SYS_BOOK_ID : Nat := 0x108
def SYS_BOOK_ID_BUILD_ID : Fld := ⟨0, 64⟩
def row_SYS_BOOK_ID : RegRow := { base := 0x108, n1 := 1, s1 := 1, n2 := 1, s2 := 1, fields := [⟨SYS_BOOK_ID_BUILD_ID, .ro, 0, .any⟩] }

/-- SYS_BOOK_FAIL, First verification failure of the current start (chapter 17). -/
def SYS_BOOK_FAIL : Nat := 0x110
def SYS_BOOK_FAIL_OFFSET : Fld := ⟨0, 32⟩
def SYS_BOOK_FAIL_LEG_TYPE : Fld := ⟨32, 16⟩
def SYS_BOOK_FAIL_STEP : Fld := ⟨48, 3⟩
def SYS_BOOK_FAIL_COPY : Fld := ⟨51, 1⟩
def row_SYS_BOOK_FAIL : RegRow := { base := 0x110, n1 := 1, s1 := 1, n2 := 1, s2 := 1, fields := [⟨SYS_BOOK_FAIL_OFFSET, .ro, 0, .any⟩,
    ⟨SYS_BOOK_FAIL_LEG_TYPE, .ro, 0, .any⟩,
    ⟨SYS_BOOK_FAIL_STEP, .ro, 0, .any⟩,
    ⟨SYS_BOOK_FAIL_COPY, .ro, 0, .any⟩] }

/-- SYS_START_STATUS, Progress and history of the current start (chapter 18). -/
def SYS_START_STATUS : Nat := 0x120
def SYS_START_STATUS_STAGE : Fld := ⟨0, 4⟩
def SYS_START_STATUS_FAIL_RUN : Fld := ⟨4, 2⟩
def SYS_START_STATUS_STABLE : Fld := ⟨6, 1⟩
def SYS_START_STATUS_RECOVERY : Fld := ⟨7, 1⟩
def SYS_START_STATUS_RESET_CAUSE : Fld := ⟨8, 8⟩
def SYS_START_STATUS_BIV_CAUSE : Fld := ⟨16, 2⟩
def SYS_START_STATUS_DARK_XO : Fld := ⟨18, 1⟩
def SYS_START_STATUS_BOOT_SEL : Fld := ⟨20, 2⟩
def SYS_START_STATUS_STABLE_LEFT : Fld := ⟨32, 16⟩
def SYS_START_STATUS_S9_MS : Fld := ⟨48, 16⟩
def row_SYS_START_STATUS : RegRow := { base := 0x120, n1 := 1, s1 := 1, n2 := 1, s2 := 1, fields := [⟨SYS_START_STATUS_STAGE, .ro, 0, .any⟩,
    ⟨SYS_START_STATUS_FAIL_RUN, .ro, 0, .any⟩,
    ⟨SYS_START_STATUS_STABLE, .ro, 0, .any⟩,
    ⟨SYS_START_STATUS_RECOVERY, .ro, 0, .any⟩,
    ⟨SYS_START_STATUS_RESET_CAUSE, .ro, 0, .any⟩,
    ⟨SYS_START_STATUS_BIV_CAUSE, .ro, 0, .any⟩,
    ⟨SYS_START_STATUS_DARK_XO, .ro, 0, .any⟩,
    ⟨SYS_START_STATUS_BOOT_SEL, .ro, 0, .any⟩,
    ⟨SYS_START_STATUS_STABLE_LEFT, .ro, 0, .any⟩,
    ⟨SYS_START_STATUS_S9_MS, .ro, 0, .any⟩] }

/-- SYS_BIVOUAC_CTL, Bivouac release; Custodian only (chapter 18). -/
def SYS_BIVOUAC_CTL : Nat := 0x128
def SYS_BIVOUAC_CTL_RELEASE : Fld := ⟨0, 1⟩
def SYS_BIVOUAC_CTL_FIRST : Fld := ⟨1, 2⟩
def row_SYS_BIVOUAC_CTL : RegRow := { base := 0x128, n1 := 1, s1 := 1, n2 := 1, s2 := 1, fields := [⟨SYS_BIVOUAC_CTL_RELEASE, .wo, 0, .any⟩,
    ⟨SYS_BIVOUAC_CTL_FIRST, .wo, 0, (.nat 0 2)⟩] }

/-- SYS_START_HISTk, Outcome of the k-th most recent ended attempt; k = 0 is the newest (chapter 18). -/
def SYS_START_HIST (n : Nat) : Nat := 0x140 + 8 * n
def SYS_START_HIST_SEQ : Fld := ⟨0, 32⟩
def SYS_START_HIST_TYPE : Fld := ⟨32, 8⟩
def SYS_START_HIST_STAGE : Fld := ⟨40, 4⟩
def SYS_START_HIST_CAUSE : Fld := ⟨48, 8⟩
def SYS_START_HIST_COPY : Fld := ⟨56, 1⟩
def SYS_START_HIST_FALLBACK : Fld := ⟨57, 1⟩
def row_SYS_START_HIST : RegRow := { base := 0x140, n1 := 8, s1 := 8, n2 := 1, s2 := 1, fields := [⟨SYS_START_HIST_SEQ, .ro, 0, .any⟩,
    ⟨SYS_START_HIST_TYPE, .ro, 0, .any⟩,
    ⟨SYS_START_HIST_STAGE, .ro, 0, .any⟩,
    ⟨SYS_START_HIST_CAUSE, .ro, 0, .any⟩,
    ⟨SYS_START_HIST_COPY, .ro, 0, .any⟩,
    ⟨SYS_START_HIST_FALLBACK, .ro, 0, .any⟩] }

/-- HOST_HARNESS_CFG, Harness transports and session timeout (chapter 19). -/
def HOST_HARNESS_CFG : Nat := 0xA00000
def HOST_HARNESS_CFG_TRANSPORTS : Fld := ⟨0, 3⟩
def HOST_HARNESS_CFG_IDLE_S : Fld := ⟨16, 16⟩
def row_HOST_HARNESS_CFG : RegRow := { base := 0xA00000, n1 := 1, s1 := 1, n2 := 1, s2 := 1, fields := [⟨HOST_HARNESS_CFG_TRANSPORTS, .rwl, 7, .any⟩,
    ⟨HOST_HARNESS_CFG_IDLE_S, .rw, 0x12C, (.nat 10 3600)⟩] }

/-- HOST_HARNESS_STATUS, Sessions and lockout (chapter 19). -/
def HOST_HARNESS_STATUS : Nat := 0xA00008
def HOST_HARNESS_STATUS_LOCKED : Fld := ⟨0, 3⟩
def HOST_HARNESS_STATUS_LOCK_LEFT : Fld := ⟨8, 8⟩
def HOST_HARNESS_STATUS_SESSIONS : Fld := ⟨32, 5⟩
def HOST_HARNESS_STATUS_PENDING : Fld := ⟨40, 5⟩
def row_HOST_HARNESS_STATUS : RegRow := { base := 0xA00008, n1 := 1, s1 := 1, n2 := 1, s2 := 1, fields := [⟨HOST_HARNESS_STATUS_LOCKED, .ro, 0, .any⟩,
    ⟨HOST_HARNESS_STATUS_LOCK_LEFT, .ro, 0, .any⟩,
    ⟨HOST_HARNESS_STATUS_SESSIONS, .ro, 0, .any⟩,
    ⟨HOST_HARNESS_STATUS_PENDING, .ro, 0, .any⟩] }

/-- HOST_REGPATH, Register path bindings under R453 (chapter 19). -/
def HOST_REGPATH : Nat := 0xA00010
def HOST_REGPATH_PCIE_SESSION : Fld := ⟨0, 32⟩
def HOST_REGPATH_HSPI_SESSION : Fld := ⟨32, 32⟩
def row_HOST_REGPATH : RegRow := { base := 0xA00010, n1 := 1, s1 := 1, n2 := 1, s2 := 1, fields := [⟨HOST_REGPATH_PCIE_SESSION, .ro, 0, .any⟩,
    ⟨HOST_REGPATH_HSPI_SESSION, .ro, 0, .any⟩] }

/-- ECC_CTL, Scrubber and persistence control (chapter 20). -/
def ECC_CTL : Nat := 0x900000
def ECC_CTL_SCRUB_EN : Fld := ⟨0, 1⟩
def ECC_CTL_PERSIST_THRESH : Fld := ⟨8, 4⟩
def row_ECC_CTL : RegRow := { base := 0x900000, n1 := 1, s1 := 1, n2 := 1, s2 := 1, fields := [⟨ECC_CTL_SCRUB_EN, .rw, 1, .any⟩,
    ⟨ECC_CTL_PERSIST_THRESH, .rw, 3, (.nat 1 15)⟩] }

/-- ECC_SCRUB_CTL, Scrub pacing (chapter 20). -/
def ECC_SCRUB_CTL : Nat := 0x900008
def ECC_SCRUB_CTL_INTERVAL : Fld := ⟨0, 16⟩
def ECC_SCRUB_CTL_LAP_MAX_S : Fld := ⟨32, 16⟩
def row_ECC_SCRUB_CTL : RegRow := { base := 0x900008, n1 := 1, s1 := 1, n2 := 1, s2 := 1, fields := [⟨ECC_SCRUB_CTL_INTERVAL, .rw, 0x400, (.nat 64 65535)⟩,
    ⟨ECC_SCRUB_CTL_LAP_MAX_S, .rw, 0x3C, .any⟩] }

/-- ECC_STATUS, Domain flags (chapter 20). -/
def ECC_STATUS : Nat := 0x900010
def ECC_STATUS_SPARE_EXHAUSTED : Fld := ⟨0, 12⟩
def ECC_STATUS_LOG_FULL : Fld := ⟨16, 12⟩
def ECC_STATUS_UE_SEEN : Fld := ⟨32, 12⟩
def row_ECC_STATUS : RegRow := { base := 0x900010, n1 := 1, s1 := 1, n2 := 1, s2 := 1, fields := [⟨ECC_STATUS_SPARE_EXHAUSTED, .ro, 0, .any⟩,
    ⟨ECC_STATUS_LOG_FULL, .rw1c, 0, .any⟩,
    ⟨ECC_STATUS_UE_SEEN, .rw1c, 0, .any⟩] }

/-- ECC_LOG_SEL, Log entry selected for readout (chapter 20). -/
def ECC_LOG_SEL : Nat := 0x900018
def ECC_LOG_SEL_DOMAIN : Fld := ⟨0, 4⟩
def ECC_LOG_SEL_ENTRY : Fld := ⟨8, 4⟩
def row_ECC_LOG_SEL : RegRow := { base := 0x900018, n1 := 1, s1 := 1, n2 := 1, s2 := 1, fields := [⟨ECC_LOG_SEL_DOMAIN, .rw, 0, .any⟩,
    ⟨ECC_LOG_SEL_ENTRY, .rw, 0, .any⟩] }

/-- ECC_LOG_ADDR, Selected entry: address and state (chapter 20). -/
def ECC_LOG_ADDR : Nat := 0x900020
def ECC_LOG_ADDR_ADDR : Fld := ⟨0, 32⟩
def ECC_LOG_ADDR_SYNDROME : Fld := ⟨32, 10⟩
def ECC_LOG_ADDR_VALID : Fld := ⟨48, 1⟩
def ECC_LOG_ADDR_UE : Fld := ⟨49, 1⟩
def ECC_LOG_ADDR_PERSISTENT : Fld := ⟨50, 1⟩
def ECC_LOG_ADDR_RETIRED : Fld := ⟨51, 1⟩
def row_ECC_LOG_ADDR : RegRow := { base := 0x900020, n1 := 1, s1 := 1, n2 := 1, s2 := 1, fields := [⟨ECC_LOG_ADDR_ADDR, .ro, 0, .any⟩,
    ⟨ECC_LOG_ADDR_SYNDROME, .ro, 0, .any⟩,
    ⟨ECC_LOG_ADDR_VALID, .ro, 0, .any⟩,
    ⟨ECC_LOG_ADDR_UE, .ro, 0, .any⟩,
    ⟨ECC_LOG_ADDR_PERSISTENT, .ro, 0, .any⟩,
    ⟨ECC_LOG_ADDR_RETIRED, .ro, 0, .any⟩] }

/-- ECC_LOG_INFO, Selected entry: counts and times (chapter 20). -/
def ECC_LOG_INFO : Nat := 0x900028
def ECC_LOG_INFO_REPEAT : Fld := ⟨0, 16⟩
def ECC_LOG_INFO_AFTER_WB : Fld := ⟨16, 4⟩
def ECC_LOG_INFO_FIRST : Fld := ⟨32, 32⟩
def row_ECC_LOG_INFO : RegRow := { base := 0x900028, n1 := 1, s1 := 1, n2 := 1, s2 := 1, fields := [⟨ECC_LOG_INFO_REPEAT, .ro, 0, .any⟩,
    ⟨ECC_LOG_INFO_AFTER_WB, .ro, 0, .any⟩,
    ⟨ECC_LOG_INFO_FIRST, .ro, 0, .any⟩] }

/-- ECC_LOG_LAST, Selected entry: last error (chapter 20). -/
def ECC_LOG_LAST : Nat := 0x900030
def ECC_LOG_LAST_LAST : Fld := ⟨0, 32⟩
def row_ECC_LOG_LAST : RegRow := { base := 0x900030, n1 := 1, s1 := 1, n2 := 1, s2 := 1, fields := [⟨ECC_LOG_LAST_LAST, .ro, 0, .any⟩] }

/-- ECC_LOG_CLR, Log clear (chapter 20). -/
def ECC_LOG_CLR : Nat := 0x900038
def ECC_LOG_CLR_DOMAIN : Fld := ⟨0, 4⟩
def ECC_LOG_CLR_GO : Fld := ⟨8, 1⟩
def row_ECC_LOG_CLR : RegRow := { base := 0x900038, n1 := 1, s1 := 1, n2 := 1, s2 := 1, fields := [⟨ECC_LOG_CLR_DOMAIN, .wo, 0, .any⟩,
    ⟨ECC_LOG_CLR_GO, .wo, 0, .any⟩] }

/-- ECC_INJECT, Error injection; Custodian only (chapter 20). -/
def ECC_INJECT : Nat := 0x900040
def ECC_INJECT_ADDR : Fld := ⟨0, 32⟩
def ECC_INJECT_DOMAIN : Fld := ⟨32, 4⟩
def ECC_INJECT_ARM : Fld := ⟨36, 1⟩
def ECC_INJECT_ARMED : Fld := ⟨37, 1⟩
def ECC_INJECT_BIT_A : Fld := ⟨40, 8⟩
def ECC_INJECT_BIT_B : Fld := ⟨48, 8⟩
def row_ECC_INJECT : RegRow := { base := 0x900040, n1 := 1, s1 := 1, n2 := 1, s2 := 1, fields := [⟨ECC_INJECT_ADDR, .wo, 0, .any⟩,
    ⟨ECC_INJECT_DOMAIN, .wo, 0, .any⟩,
    ⟨ECC_INJECT_ARM, .wo, 0, .any⟩,
    ⟨ECC_INJECT_ARMED, .ro, 0, .any⟩,
    ⟨ECC_INJECT_BIT_A, .wo, 0, .any⟩,
    ⟨ECC_INJECT_BIT_B, .wo, 0, .any⟩] }

/-- ECC_EDd_LAP, Scrubber laps of domain d (chapter 20). -/
def ECC_ED_LAP (n : Nat) : Nat := 0x900100 + 8 * n
def ECC_ED_LAP_LAP_MS : Fld := ⟨0, 32⟩
def ECC_ED_LAP_LAPS : Fld := ⟨32, 32⟩
def row_ECC_ED_LAP : RegRow := { base := 0x900100, n1 := 12, s1 := 8, n2 := 1, s2 := 1, fields := [⟨ECC_ED_LAP_LAP_MS, .ro, 0, .any⟩,
    ⟨ECC_ED_LAP_LAPS, .ro, 0, .any⟩] }

/-- ECC_EDd_SPARE, Spare rows of domain d (chapter 20). -/
def ECC_ED_SPARE (n : Nat) : Nat := 0x900180 + 8 * n
def ECC_ED_SPARE_TOTAL : Fld := ⟨0, 16⟩
def ECC_ED_SPARE_USED : Fld := ⟨16, 16⟩
def row_ECC_ED_SPARE : RegRow := { base := 0x900180, n1 := 12, s1 := 8, n2 := 1, s2 := 1, fields := [⟨ECC_ED_SPARE_TOTAL, .ro, 0, .any⟩,
    ⟨ECC_ED_SPARE_USED, .ro, 0, .any⟩] }

/-- EVC_CTL, Configuration of the controller (chapter 21). -/
def EVC_CTL : Nat := 0x700000
def EVC_CTL_CONFIG : Fld := ⟨0, 1⟩
def EVC_CTL_MASK_WINDOW : Fld := ⟨8, 8⟩
def row_EVC_CTL : RegRow := { base := 0x700000, n1 := 1, s1 := 1, n2 := 1, s2 := 1, fields := [⟨EVC_CTL_CONFIG, .ro, 0, .any⟩,
    ⟨EVC_CTL_MASK_WINDOW, .ro, 0, .any⟩] }

/-- EVC_SYNC, Mask barrier (chapter 21). -/
def EVC_SYNC : Nat := 0x700008
def row_EVC_SYNC : RegRow := { base := 0x700008, n1 := 1, s1 := 1, n2 := 1, s2 := 1, fields := [] }

/-- EVC_STATUS, Controller flags (chapter 21). -/
def EVC_STATUS : Nat := 0x700010
def EVC_STATUS_BAD_COMPLETE : Fld := ⟨0, 1⟩
def EVC_STATUS_SET_ABSENT : Fld := ⟨1, 1⟩
def row_EVC_STATUS : RegRow := { base := 0x700010, n1 := 1, s1 := 1, n2 := 1, s2 := 1, fields := [⟨EVC_STATUS_BAD_COMPLETE, .rw1c, 0, .any⟩,
    ⟨EVC_STATUS_SET_ABSENT, .rw1c, 0, .any⟩] }

/-- EVC_SET, Software occurrence (chapter 21). -/
def EVC_SET : Nat := 0x700018
def EVC_SET_ID : Fld := ⟨0, 8⟩
def EVC_SET_GO : Fld := ⟨8, 1⟩
def row_EVC_SET : RegRow := { base := 0x700018, n1 := 1, s1 := 1, n2 := 1, s2 := 1, fields := [⟨EVC_SET_ID, .wo, 0, .any⟩,
    ⟨EVC_SET_GO, .wo, 0, .any⟩] }

/-- EVC_COMPLETE, End of service (chapter 21). -/
def EVC_COMPLETE : Nat := 0x700020
def EVC_COMPLETE_ID : Fld := ⟨0, 9⟩
def EVC_COMPLETE_LINE : Fld := ⟨16, 6⟩
def row_EVC_COMPLETE : RegRow := { base := 0x700020, n1 := 1, s1 := 1, n2 := 1, s2 := 1, fields := [⟨EVC_COMPLETE_ID, .wo, 0, .any⟩,
    ⟨EVC_COMPLETE_LINE, .wo, 0, .any⟩] }

/-- EVC_ENk, Host enables (chapter 21). -/
def EVC_EN (n : Nat) : Nat := 0x700040 + 8 * n
def EVC_EN_EN : Fld := ⟨0, 64⟩
def row_EVC_EN : RegRow := { base := 0x700040, n1 := 4, s1 := 8, n2 := 1, s2 := 1, fields := [⟨EVC_EN_EN, .rw, 0, .any⟩] }

/-- EVC_PENDk, Host PENDING bits (chapter 21). -/
def EVC_PEND (n : Nat) : Nat := 0x700060 + 8 * n
def EVC_PEND_PEND : Fld := ⟨0, 64⟩
def row_EVC_PEND : RegRow := { base := 0x700060, n1 := 4, s1 := 8, n2 := 1, s2 := 1, fields := [⟨EVC_PEND_PEND, .ro, 0, .any⟩] }

/-- EVC_ACTk, Host ACTIVE bits (chapter 21). -/
def EVC_ACT (n : Nat) : Nat := 0x700080 + 8 * n
def EVC_ACT_ACT : Fld := ⟨0, 64⟩
def row_EVC_ACT : RegRow := { base := 0x700080, n1 := 4, s1 := 8, n2 := 1, s2 := 1, fields := [⟨EVC_ACT_ACT, .ro, 0, .any⟩] }

/-- EVC_RAWk, Occurrences since the last clear (chapter 21). -/
def EVC_RAW (n : Nat) : Nat := 0x7000A0 + 8 * n
def EVC_RAW_RAW : Fld := ⟨0, 64⟩
def row_EVC_RAW : RegRow := { base := 0x7000A0, n1 := 4, s1 := 8, n2 := 1, s2 := 1, fields := [⟨EVC_RAW_RAW, .rw1c, 0, .any⟩] }

/-- EVC_SRC_LEVELk, Present level of level sources (chapter 21). -/
def EVC_SRC_LEVEL (n : Nat) : Nat := 0x7000C0 + 8 * n
def EVC_SRC_LEVEL_LEVEL : Fld := ⟨0, 64⟩
def row_EVC_SRC_LEVEL : RegRow := { base := 0x7000C0, n1 := 4, s1 := 8, n2 := 1, s2 := 1, fields := [⟨EVC_SRC_LEVEL_LEVEL, .ro, 0, .any⟩] }

/-- EVC_SRCn_CFG, Host routing of source n (chapter 21). -/
def EVC_SRC_CFG (n : Nat) : Nat := 0x700800 + 8 * n
def EVC_SRC_CFG_PRIORITY : Fld := ⟨0, 3⟩
def EVC_SRC_CFG_LINE : Fld := ⟨8, 6⟩
def EVC_SRC_CFG_KIND : Fld := ⟨16, 1⟩
def EVC_SRC_CFG_AON : Fld := ⟨17, 1⟩
def EVC_SRC_CFG_PRESENT : Fld := ⟨18, 1⟩
def row_EVC_SRC_CFG : RegRow := { base := 0x700800, n1 := 256, s1 := 8, n2 := 1, s2 := 1, fields := [⟨EVC_SRC_CFG_PRIORITY, .rw, 0, .any⟩,
    ⟨EVC_SRC_CFG_LINE, .rw, 0, (.nat 0 33)⟩,
    ⟨EVC_SRC_CFG_KIND, .ro, 0, .any⟩,
    ⟨EVC_SRC_CFG_AON, .ro, 0, .any⟩,
    ⟨EVC_SRC_CFG_PRESENT, .ro, 0, .any⟩] }

/-- EVC_LINEv_CFG, Threshold of line v (chapter 21). -/
def EVC_LINE_CFG (n : Nat) : Nat := 0x701000 + 8 * n
def EVC_LINE_CFG_THRESH : Fld := ⟨0, 3⟩
def row_EVC_LINE_CFG : RegRow := { base := 0x701000, n1 := 34, s1 := 8, n2 := 1, s2 := 1, fields := [⟨EVC_LINE_CFG_THRESH, .rw, 0, .any⟩] }

/-- EVC_CLAIMv, Claim on line v (chapter 21). -/
def EVC_CLAIM (n : Nat) : Nat := 0x701200 + 8 * n
def EVC_CLAIM_ID : Fld := ⟨0, 9⟩
def row_EVC_CLAIM : RegRow := { base := 0x701200, n1 := 34, s1 := 8, n2 := 1, s2 := 1, fields := [⟨EVC_CLAIM_ID, .ro, 0x1FF, .any⟩] }

/-- CNT_CTL, Snapshot request and status (chapter 22). -/
def CNT_CTL : Nat := 0x800000
def CNT_CTL_SNAP : Fld := ⟨0, 1⟩
def CNT_CTL_SNAP_SEQ : Fld := ⟨32, 32⟩
def row_CNT_CTL : RegRow := { base := 0x800000, n1 := 1, s1 := 1, n2 := 1, s2 := 1, fields := [⟨CNT_CTL_SNAP, .wo, 0, .any⟩,
    ⟨CNT_CTL_SNAP_SEQ, .ro, 0, .any⟩] }

/-- CNT_DUMP_CFG, Periodic dumps (chapter 22). -/
def CNT_DUMP_CFG : Nat := 0x800008
def CNT_DUMP_CFG_PERIOD : Fld := ⟨0, 12⟩
def CNT_DUMP_CFG_DEST : Fld := ⟨16, 3⟩
def row_CNT_DUMP_CFG : RegRow := { base := 0x800008, n1 := 1, s1 := 1, n2 := 1, s2 := 1, fields := [⟨CNT_DUMP_CFG_PERIOD, .rw, 0, (.nat 0 3600)⟩,
    ⟨CNT_DUMP_CFG_DEST, .rw, 0, .any⟩] }

/-- CNT_DUMP_RING, Control-SRAM dump ring (chapter 22). -/
def CNT_DUMP_RING : Nat := 0x800010
def CNT_DUMP_RING_BASE : Fld := ⟨0, 24⟩
def CNT_DUMP_RING_SLOTS : Fld := ⟨24, 6⟩
def CNT_DUMP_RING_HEAD : Fld := ⟨32, 16⟩
def row_CNT_DUMP_RING : RegRow := { base := 0x800010, n1 := 1, s1 := 1, n2 := 1, s2 := 1, fields := [⟨CNT_DUMP_RING_BASE, .rw, 0, .any⟩,
    ⟨CNT_DUMP_RING_SLOTS, .rw, 4, (.nat 1 63)⟩,
    ⟨CNT_DUMP_RING_HEAD, .ro, 0, .any⟩] }

/-- CNT_DUMP_HOST_ADDR, Host dump ring base (chapter 22). -/
def CNT_DUMP_HOST_ADDR : Nat := 0x800018
def CNT_DUMP_HOST_ADDR_ADDR : Fld := ⟨0, 64⟩
def row_CNT_DUMP_HOST_ADDR : RegRow := { base := 0x800018, n1 := 1, s1 := 1, n2 := 1, s2 := 1, fields := [⟨CNT_DUMP_HOST_ADDR_ADDR, .rw, 0, .any⟩] }

/-- CNT_DUMP_HOST, Host dump ring indices (chapter 22). -/
def CNT_DUMP_HOST : Nat := 0x800020
def CNT_DUMP_HOST_SLOTS : Fld := ⟨0, 8⟩
def CNT_DUMP_HOST_PROD : Fld := ⟨16, 8⟩
def CNT_DUMP_HOST_CONS : Fld := ⟨32, 8⟩
def row_CNT_DUMP_HOST : RegRow := { base := 0x800020, n1 := 1, s1 := 1, n2 := 1, s2 := 1, fields := [⟨CNT_DUMP_HOST_SLOTS, .rw, 0, .any⟩,
    ⟨CNT_DUMP_HOST_PROD, .ro, 0, .any⟩,
    ⟨CNT_DUMP_HOST_CONS, .rw, 0, .any⟩] }

/-- CNT_CAIRN_CFG, Cairn log behaviour (chapter 22). -/
def CNT_CAIRN_CFG : Nat := 0x800028
def CNT_CAIRN_CFG_MIRROR_MIN : Fld := ⟨0, 3⟩
def CNT_CAIRN_CFG_IRQ_MIN : Fld := ⟨8, 3⟩
def CNT_CAIRN_CFG_BURST : Fld := ⟨16, 16⟩
def row_CNT_CAIRN_CFG : RegRow := { base := 0x800028, n1 := 1, s1 := 1, n2 := 1, s2 := 1, fields := [⟨CNT_CAIRN_CFG_MIRROR_MIN, .rw, 1, .any⟩,
    ⟨CNT_CAIRN_CFG_IRQ_MIN, .rw, 3, .any⟩,
    ⟨CNT_CAIRN_CFG_BURST, .rw, 0x100, (.nat 16 4096)⟩] }

/-- CNT_CAIRN_HEAD, Cairn write position (chapter 22). -/
def CNT_CAIRN_HEAD : Nat := 0x800030
def CNT_CAIRN_HEAD_HEAD : Fld := ⟨0, 32⟩
def CNT_CAIRN_HEAD_SUPPRESSED : Fld := ⟨32, 32⟩
def row_CNT_CAIRN_HEAD : RegRow := { base := 0x800030, n1 := 1, s1 := 1, n2 := 1, s2 := 1, fields := [⟨CNT_CAIRN_HEAD_HEAD, .ro, 0, .any⟩,
    ⟨CNT_CAIRN_HEAD_SUPPRESSED, .rc, 0, .any⟩] }

/-- CNT_OCCk_CFG, Occupancy counter k (chapter 22). -/
def CNT_OCC_CFG (n : Nat) : Nat := 0x800100 + 8 * n
def CNT_OCC_CFG_SRC : Fld := ⟨0, 4⟩
def CNT_OCC_CFG_INST : Fld := ⟨8, 8⟩
def CNT_OCC_CFG_THRESH : Fld := ⟨16, 32⟩
def row_CNT_OCC_CFG : RegRow := { base := 0x800100, n1 := 64, s1 := 8, n2 := 1, s2 := 1, fields := [⟨CNT_OCC_CFG_SRC, .rw, 0, (.nat 0 9)⟩,
    ⟨CNT_OCC_CFG_INST, .rw, 0, .any⟩,
    ⟨CNT_OCC_CFG_THRESH, .rw, 0, .any⟩] }

/-- CNT_OVFk, Overflow bits: k = 0 to 15 hold EC64k to EC64k + 63, k = 16 to 23 hold UC64(k − 16) onward, and k = 24 holds OC0 to OC63 (chapter 22). -/
def CNT_OVF (n : Nat) : Nat := 0x800300 + 8 * n
def CNT_OVF_OVF : Fld := ⟨0, 64⟩
def row_CNT_OVF : RegRow := { base := 0x800300, n1 := 25, s1 := 8, n2 := 1, s2 := 1, fields := [⟨CNT_OVF_OVF, .rw1c, 0, .any⟩] }

/-- SYS_ID, Identity of the device (chapter 24). -/
def SYS_ID : Nat := 0x0
def SYS_ID_PART : Fld := ⟨0, 16⟩
def SYS_ID_VARIANT : Fld := ⟨16, 2⟩
def SYS_ID_STEP_MAJOR : Fld := ⟨24, 4⟩
def SYS_ID_STEP_MINOR : Fld := ⟨28, 4⟩
def SYS_ID_VENDOR : Fld := ⟨32, 16⟩
def row_SYS_ID : RegRow := { base := 0x0, n1 := 1, s1 := 1, n2 := 1, s2 := 1, fields := [⟨SYS_ID_PART, .ro, 0, .any⟩,
    ⟨SYS_ID_VARIANT, .ro, 0, .any⟩,
    ⟨SYS_ID_STEP_MAJOR, .ro, 1, .any⟩,
    ⟨SYS_ID_STEP_MINOR, .ro, 0, .any⟩,
    ⟨SYS_ID_VENDOR, .ro, 0x4D4C, .any⟩] }

/-- SYS_SERIAL, Device serial number from the vendor OTP area (chapter 24). -/
def SYS_SERIAL : Nat := 0x8
def SYS_SERIAL_SERIAL : Fld := ⟨0, 64⟩
def row_SYS_SERIAL : RegRow := { base := 0x8, n1 := 1, s1 := 1, n2 := 1, s2 := 1, fields := [⟨SYS_SERIAL_SERIAL, .ro, 0, .any⟩] }

/-- SYS_UNITS, Units fitted. R3 makes this register the only source for that information (chapter 24). -/
def SYS_UNITS : Nat := 0x10
def SYS_UNITS_LANES : Fld := ⟨0, 8⟩
def SYS_UNITS_PE_COUNT : Fld := ⟨8, 8⟩
def SYS_UNITS_BNU : Fld := ⟨16, 8⟩
def SYS_UNITS_TIC : Fld := ⟨24, 8⟩
def SYS_UNITS_CLUSTERS : Fld := ⟨32, 3⟩
def SYS_UNITS_GNSS : Fld := ⟨35, 1⟩
def SYS_UNITS_NTS : Fld := ⟨36, 1⟩
def SYS_UNITS_AES : Fld := ⟨37, 1⟩
def SYS_UNITS_BELAY : Fld := ⟨38, 1⟩
def SYS_UNITS_EVC_DIRECT : Fld := ⟨39, 1⟩
def row_SYS_UNITS : RegRow := { base := 0x10, n1 := 1, s1 := 1, n2 := 1, s2 := 1, fields := [⟨SYS_UNITS_LANES, .ro, 0, .any⟩,
    ⟨SYS_UNITS_PE_COUNT, .ro, 0, .any⟩,
    ⟨SYS_UNITS_BNU, .ro, 0, .any⟩,
    ⟨SYS_UNITS_TIC, .ro, 0, .any⟩,
    ⟨SYS_UNITS_CLUSTERS, .ro, 0, .any⟩,
    ⟨SYS_UNITS_GNSS, .ro, 0, .any⟩,
    ⟨SYS_UNITS_NTS, .ro, 0, .any⟩,
    ⟨SYS_UNITS_AES, .ro, 0, .any⟩,
    ⟨SYS_UNITS_BELAY, .ro, 1, .any⟩,
    ⟨SYS_UNITS_EVC_DIRECT, .ro, 0, .any⟩] }

/-- SYS_PHASE, Device phase (chapter 24). -/
def SYS_PHASE : Nat := 0x18
def SYS_PHASE_PHASE : Fld := ⟨0, 3⟩
def SYS_PHASE_ENTER_SEC : Fld := ⟨32, 32⟩
def row_SYS_PHASE : RegRow := { base := 0x18, n1 := 1, s1 := 1, n2 := 1, s2 := 1, fields := [⟨SYS_PHASE_PHASE, .ro, 0, .any⟩,
    ⟨SYS_PHASE_ENTER_SEC, .ro, 0, .any⟩] }

/-- SYS_ABSENT_ACCESS, Reports access to absent units, narrow accesses and unmapped addresses (chapter 24). -/
def SYS_ABSENT_ACCESS : Nat := 0x20
def SYS_ABSENT_ACCESS_SET : Fld := ⟨0, 1⟩
def SYS_ABSENT_ACCESS_CAUSE : Fld := ⟨1, 2⟩
def SYS_ABSENT_ACCESS_INITIATOR : Fld := ⟨4, 3⟩
def SYS_ABSENT_ACCESS_WRITE : Fld := ⟨8, 1⟩
def SYS_ABSENT_ACCESS_ADDR : Fld := ⟨32, 32⟩
def row_SYS_ABSENT_ACCESS : RegRow := { base := 0x20, n1 := 1, s1 := 1, n2 := 1, s2 := 1, fields := [⟨SYS_ABSENT_ACCESS_SET, .rw1c, 0, .any⟩,
    ⟨SYS_ABSENT_ACCESS_CAUSE, .ro, 0, .any⟩,
    ⟨SYS_ABSENT_ACCESS_INITIATOR, .ro, 0, .any⟩,
    ⟨SYS_ABSENT_ACCESS_WRITE, .ro, 0, .any⟩,
    ⟨SYS_ABSENT_ACCESS_ADDR, .ro, 0, .any⟩] }

/-- SYS_TEMP, Die temperature (chapter 24). -/
def SYS_TEMP : Nat := 0x28
def SYS_TEMP_TEMP : Fld := ⟨0, 16⟩
def SYS_TEMP_MAX : Fld := ⟨16, 16⟩
def SYS_TEMP_WARN : Fld := ⟨32, 1⟩
def SYS_TEMP_CRIT : Fld := ⟨33, 1⟩
def row_SYS_TEMP : RegRow := { base := 0x28, n1 := 1, s1 := 1, n2 := 1, s2 := 1, fields := [⟨SYS_TEMP_TEMP, .ro, 0, .any⟩,
    ⟨SYS_TEMP_MAX, .rc, 0x8000, .any⟩,
    ⟨SYS_TEMP_WARN, .ro, 0, .any⟩,
    ⟨SYS_TEMP_CRIT, .ro, 0, .any⟩] }

/-- SYS_RAIL, Supply monitors. Bit r is the r-th monitored rail of R508, in table order from VDD_CORE (bit 0) to VDD_IO33 (bit 7) (chapter 24). -/
def SYS_RAIL : Nat := 0x30
def SYS_RAIL_OUT : Fld := ⟨0, 8⟩
def SYS_RAIL_SEEN : Fld := ⟨8, 8⟩
def row_SYS_RAIL : RegRow := { base := 0x30, n1 := 1, s1 := 1, n2 := 1, s2 := 1, fields := [⟨SYS_RAIL_OUT, .ro, 0, .any⟩,
    ⟨SYS_RAIL_SEEN, .rw1c, 0, .any⟩] }

/-- SYS_OTP, Owner area state (chapter 24). -/
def SYS_OTP : Nat := 0x38
def SYS_OTP_OWNED : Fld := ⟨0, 1⟩
def SYS_OTP_OWK_SET : Fld := ⟨1, 1⟩
def SYS_OTP_LOCKED : Fld := ⟨2, 1⟩
def SYS_OTP_CAL_OK : Fld := ⟨3, 1⟩
def row_SYS_OTP : RegRow := { base := 0x38, n1 := 1, s1 := 1, n2 := 1, s2 := 1, fields := [⟨SYS_OTP_OWNED, .ro, 0, .any⟩,
    ⟨SYS_OTP_OWK_SET, .ro, 0, .any⟩,
    ⟨SYS_OTP_LOCKED, .ro, 0, .any⟩,
    ⟨SYS_OTP_CAL_OK, .ro, 0, .any⟩] }

/-- The registers of block 0x00. -/
def rows_00 : List RegRow := [row_SYS_BOOK_STATUS, row_SYS_BOOK_ID, row_SYS_BOOK_FAIL, row_SYS_START_STATUS, row_SYS_BIVOUAC_CTL, row_SYS_START_HIST, row_SYS_ID, row_SYS_SERIAL, row_SYS_UNITS, row_SYS_PHASE, row_SYS_ABSENT_ACCESS, row_SYS_TEMP, row_SYS_RAIL, row_SYS_OTP]

/-- The registers of block 0x01. -/
def rows_01 : List RegRow := [row_TSU_STATE, row_TSU_INC_NOM, row_TSU_INC_EFF, row_TSU_FREQ_ADJ, row_TSU_SLEW_LIMIT, row_TSU_SLEW_REQ, row_TSU_SLEW_RATE, row_TSU_SLEW_REMAIN, row_TSU_SET_SEC, row_TSU_SET_SUB, row_TSU_SET_CTL, row_TSU_SET_BOUND, row_TSU_NOW_LO, row_TSU_NOW_HI, row_TSU_CAP_STATUS, row_TSU_UTC_OFFSET, row_TSU_LEAP_PENDING, row_TSU_LEAP_SEC, row_TSU_ERR_BOUND, row_TSU_ERR_RATE, row_TSU_DIST_STATUS, row_TSU_DIST_MISMATCH]

/-- The registers of block 0x02. -/
def rows_02 : List RegRow := [row_REFS_CTL, row_REFS_STATUS, row_REFS_CMD, row_REFS_SLOT_CFG, row_REFS_SLOT_INPUT, row_REFS_SLOT_FLIM, row_REFS_SLOT_PLIM, row_REFS_SLOT_JUMP, row_REFS_SLOT_DRIFT, row_REFS_SLOT_OFFSET, row_REFS_SLOT_STATE, row_REFS_SLOT_ABSORB, row_REFS_SLOT_MEAS, row_REFS_SLOT_ONSET]

/-- The registers of block 0x03. -/
def rows_03 : List RegRow := [row_SERVO_STATE, row_SERVO_CFG, row_SERVO_BW, row_SERVO_HO, row_SERVO_OSC_Y, row_SERVO_OSC_AGE, row_SERVO_OSC_NOISE, row_SERVO_HO_VALUE, row_SERVO_HO_INFO, row_SERVO_PHASE, row_SERVO_HIST]

/-- The registers of block 0x04. -/
def rows_04 : List RegRow := [row_OUT_CTL, row_OUT_FREQ, row_OUT_WIDTH, row_OUT_PHASE, row_OUT_DELAY, row_OUT_STATUS, row_OUT_QERR, row_OUT_TOD, row_TRIG_CTL, row_TRIG_SEC, row_TRIG_SUB, row_TRIG_PERIOD, row_TRIG_STATUS]

/-- The registers of block 0x05. -/
def rows_05 : List RegRow := [row_TIC_CH_CTL, row_TIC_CH_SRC, row_TIC_CH_GATE, row_TIC_CH_STATUS, row_TIC_CH_RES0, row_TIC_CH_RES1, row_TIC_CH_RES2, row_TIC_AGE_RATE, row_TIC_AGE_EPOCH]

/-- The registers of block 0x06. -/
def rows_06 : List RegRow := [row_GNSS_CTL, row_GNSS_STATUS, row_GNSS_SP_CFG, row_GNSS_L1_DELAY, row_GNSS_L5_DELAY, row_GNSS_SOL_CFG, row_GNSS_SURVEY, row_GNSS_POS, row_GNSS_SOL, row_GNSS_JUMP_CFG, row_GNSS_TP_MSG, row_GNSS_SNAP_CTL, row_GNSS_SNAP_SEC, row_GNSS_SNAP_SUB, row_GNSS_SNAP_STATUS, row_GNSS_NAV_RING]

/-- The registers of block 0x10. -/
def rows_10 : List RegRow := [row_PORT_MODE, row_PORT_STATUS, row_PORT_MAC_CTL, row_PORT_MAC_ADDR, row_PORT_MCAST, row_PORT_TX_DELAY_ADJ, row_PORT_RX_DELAY_ADJ, row_PORT_CAL_TX, row_PORT_CAL_RX, row_PORT_CAL_CTL, row_PORT_FEC_THRESH]

/-- The registers of block 0x20. -/
def rows_20 : List RegRow := [row_PE_ENABLE, row_PE_STEP_LIMIT, row_PE_DEBUG, row_PE_STEP_HWM, row_PE_DISP_WAIT_HWM, row_TOPO_BANK, row_TOPO_SWAP_CTL, row_TOPO_TBL_GEN, row_TOPO_TBL_GEN_NEXT, row_TOPO_TBL_STATUS, row_TOPO_TBL_CFG, row_TOPO_TBL_BASE, row_TOPO_TBL_DEFAULT, row_PE_CTX_SEL, row_PE_CTX_SNAP, row_PE_CTX_STATE, row_PE_CTX_STACK, row_PE_CTX_FLAGS, row_PE_CTX_ANCH, row_PE_CTX_DESC, row_PE_CTX_W, row_PE_BADOP_INFO]

/-- The registers of block 0x30. -/
def rows_30 : List RegRow := [row_GATE_CTL, row_GATE_LEAD, row_GATE_WINDOW, row_GATE_SETUP, row_GATE_SHARE, row_GATE_FREE_MAX, row_GATE_LAST_MISS, row_GATE_PORT_ORIGIN_SEC, row_GATE_PORT_ORIGIN_SUB, row_GATE_PORT_PLAN, row_GATE_PORT_FILL]

/-- The registers of block 0x40. -/
def rows_40 : List RegRow := [row_SVC_CTL, row_SVC_STATUS, row_SVC_KEY_PERIOD, row_SVC_KEY_KEEP, row_SVC_KEY_EPOCH, row_SVC_KEY_CTL, row_SVC_SKETCH_DECAY, row_SVC_NTP_PROF, row_SVC_KEY_SLOT, row_SVC_KE_CTL, row_SVC_KE_LIMITS, row_SVC_KE_TIMEOUT, row_SVC_KE_BACKLOG, row_SVC_KE_STATUS, row_SVC_KE_IDENT, row_PTP_CTL, row_PTP_CLOCK_ID, row_PTP_STATUS, row_PTP_GRANT_CFG, row_PTP_UPSTREAM_Q, row_PTP_DOM, row_PTP_QPROF, row_PTP_PORT, row_PTP_RELAY]

/-- The registers of block 0x50. -/
def rows_50 : List RegRow := [row_BNU_CTL, row_BNU_STATUS, row_BNU_SLOT_WORDS, row_BNU_JOB, row_BNU_SUBMIT, row_BNU_CPL, row_BNU_ABORT, row_BNU_SLOT_QUERY, row_BNU_SLOT_INFO, row_BNU_LOAD, row_BNU_ES_CTL, row_BNU_ES_STATUS, row_BNU_RAND, row_BNU_DRBG_STATUS]

/-- The registers of block 0x60. -/
def rows_60 : List RegRow := [row_PAIR_CFG, row_PAIR_CMD, row_PAIR_STATUS, row_PAIR_BELAY_ASYM, row_PAIR_TT, row_PAIR_TT_RTT, row_PAIR_JSEQ, row_PAIR_TWIN]

/-- The registers of block 0x70. -/
def rows_70 : List RegRow := [row_EVC_CTL, row_EVC_SYNC, row_EVC_STATUS, row_EVC_SET, row_EVC_COMPLETE, row_EVC_EN, row_EVC_PEND, row_EVC_ACT, row_EVC_RAW, row_EVC_SRC_LEVEL, row_EVC_SRC_CFG, row_EVC_LINE_CFG, row_EVC_CLAIM]

/-- The registers of block 0x80. -/
def rows_80 : List RegRow := [row_CNT_CTL, row_CNT_DUMP_CFG, row_CNT_DUMP_RING, row_CNT_DUMP_HOST_ADDR, row_CNT_DUMP_HOST, row_CNT_CAIRN_CFG, row_CNT_CAIRN_HEAD, row_CNT_OCC_CFG, row_CNT_OVF]

/-- The registers of block 0x90. -/
def rows_90 : List RegRow := [row_ECC_CTL, row_ECC_SCRUB_CTL, row_ECC_STATUS, row_ECC_LOG_SEL, row_ECC_LOG_ADDR, row_ECC_LOG_INFO, row_ECC_LOG_LAST, row_ECC_LOG_CLR, row_ECC_INJECT, row_ECC_ED_LAP, row_ECC_ED_SPARE]

/-- The registers of block 0xA0. -/
def rows_A0 : List RegRow := [row_HOST_WAKE_CTL, row_HOST_WAKE_CODE, row_HOST_REST_STATUS, row_HOST_HARNESS_CFG, row_HOST_HARNESS_STATUS, row_HOST_REGPATH]

/-- The registers of the block that a plain non-zero reset value belongs to. -/
def nzRowsAt (addr : Nat) : List RegRow :=
  match addr / 0x10000 with
  | 0x0 => [row_SYS_ID, row_SYS_UNITS, row_SYS_TEMP]
  | 0x1 => [row_TSU_INC_NOM, row_TSU_INC_EFF, row_TSU_SLEW_LIMIT, row_TSU_SET_BOUND, row_TSU_ERR_BOUND]
  | 0x2 => [row_REFS_CTL, row_REFS_STATUS, row_REFS_SLOT_CFG, row_REFS_SLOT_INPUT, row_REFS_SLOT_FLIM, row_REFS_SLOT_PLIM, row_REFS_SLOT_JUMP, row_REFS_SLOT_DRIFT]
  | 0x3 => [row_SERVO_STATE, row_SERVO_CFG, row_SERVO_HO, row_SERVO_OSC_Y, row_SERVO_OSC_AGE, row_SERVO_OSC_NOISE]
  | 0x4 => [row_OUT_CTL, row_OUT_FREQ, row_OUT_WIDTH, row_OUT_TOD, row_TRIG_CTL]
  | 0x5 => [row_TIC_CH_GATE]
  | 0x6 => [row_GNSS_CTL, row_GNSS_SP_CFG, row_GNSS_SOL_CFG, row_GNSS_SURVEY, row_GNSS_SOL, row_GNSS_JUMP_CFG, row_GNSS_SNAP_CTL]
  | 0x20 => [row_PE_STEP_LIMIT]
  | 0x30 => [row_GATE_LEAD, row_GATE_WINDOW, row_GATE_SETUP, row_GATE_SHARE, row_GATE_FREE_MAX]
  | 0x40 => [row_SVC_KEY_PERIOD, row_SVC_KEY_KEEP, row_SVC_SKETCH_DECAY, row_SVC_NTP_PROF, row_SVC_KE_CTL, row_SVC_KE_LIMITS, row_SVC_KE_TIMEOUT, row_SVC_KE_BACKLOG, row_PTP_CTL, row_PTP_STATUS, row_PTP_GRANT_CFG, row_PTP_UPSTREAM_Q, row_PTP_DOM, row_PTP_QPROF, row_PTP_PORT]
  | 0x50 => [row_BNU_SLOT_WORDS]
  | 0x60 => [row_PAIR_CFG, row_PAIR_TWIN]
  | 0x70 => [row_EVC_CLAIM]
  | 0x80 => [row_CNT_DUMP_RING, row_CNT_CAIRN_CFG]
  | 0x90 => [row_ECC_CTL, row_ECC_SCRUB_CTL]
  | 0xA0 => [row_HOST_WAKE_CTL, row_HOST_HARNESS_CFG]
  | _ => if 0x100000 ≤ addr ∧ addr < 0x180000 then [row_PORT_MAC_CTL, row_PORT_FEC_THRESH] else []

/-- The rows of the block that holds `addr` (R520). -/
def rowsAt (addr : Nat) : List RegRow :=
  if 0x100000 ≤ addr ∧ addr < 0x180000 then rows_10
  else match addr / 0x10000 with
    | 0 => rows_00
    | 1 => rows_01
    | 2 => rows_02
    | 3 => rows_03
    | 4 => rows_04
    | 5 => rows_05
    | 6 => rows_06
    | 0x20 => rows_20
    | 0x30 => rows_30
    | 0x40 => rows_40
    | 0x50 => rows_50
    | 0x60 => rows_60
    | 0x70 => rows_70
    | 0x80 => rows_80
    | 0x90 => rows_90
    | 0xA0 => rows_A0
    | _ => []

/-- Does the row name the address? -/
def RegRow_covers (r : RegRow) (addr : Nat) : Bool :=
  let d := addr - r.base
  decide (r.base ≤ addr) && decide (d / r.s1 < r.n1) && decide (d % r.s1 % r.s2 = 0) && decide (d % r.s1 / r.s2 < r.n2)

/-- The register entry of an address; none where the address names no register (R16). -/
def regRow (addr : Nat) : Option RegRow := (rowsAt addr).find? (RegRow_covers · addr)

/-- Width mask of a field value. -/
def fldMod (f : Fld) : Nat := 2 ^ f.width

/-- The value of a field of a register word. -/
def getF (f : Fld) (w : Word) : Nat := (w.extractLsb' f.lo f.width).toNat

/-- The bits a field covers. -/
def maskF (f : Fld) : Word := ((BitVec.allOnes f.width).setWidth 64) <<< f.lo

/-- A register word with one field replaced; the value is taken modulo the field's width. -/
def setF (f : Fld) (v : Nat) (w : Word) : Word := (w &&& ~~~ (maskF f)) ||| (((BitVec.ofNat f.width v).setWidth 64) <<< f.lo)

/-- Two's complement reading of a `w`-bit value. -/
def sgn (w v : Nat) : Int := if v < 2 ^ (w - 1) then (v : Int) else (v : Int) - (2 ^ w : Nat)

/-- Two's complement encoding in `w` bits. -/
def unsgn (w : Nat) (v : Int) : Nat := (v % ((2 ^ w : Nat) : Int)).toNat

/-- Does the field accept the value (R527)? -/
def Rng_ok (g : Rng) (width v : Nat) : Bool :=
  match g with
  | .any => true
  | .nat lo hi => decide (lo ≤ v) && decide (v ≤ hi)
  | .int lo hi => decide (lo ≤ sgn width v) && decide (sgn width v ≤ hi)
  | .list vs => vs.contains v

/-- Number of the units a byte-wide bit field of SYS_UNITS names. -/
def unitBit (v : Variant) (bit : Nat) : Bool := (Config.sysUnits v).testBit bit

/-- Pitch engines fitted (SYS_UNITS.PE_COUNT). -/
def peCount (v : Variant) : Nat := Config.sysUnits v / 256 % 256

/-- The plain reset value of an entry: its fields' reset values side by side. -/
def rowReset (r : RegRow) : Nat := r.fields.foldl (fun a x => a ||| (x.reset <<< x.f.lo)) 0

/-- ID of each event source and whether it is a level source, an always-on one (R470, R486, the chapters' tables). -/
def srcLevel (id : Nat) : Bool :=
  if id < 16 then [5, 9, 10, 11].contains id
  else if id < 48 then id == 40
  else if id < 64 then id % 2 == 0
  else if id < 80 then [65, 66, 68, 70, 71, 73].contains id
  else if id < 112 then id % 4 == 0
  else if id < 128 then id == 120
  else if id < 144 then false
  else if id < 160 then id == 145 || id == 149
  else if id < 176 then id < 168 || id == 173 || id == 174
  else if id < 192 then [177, 181, 182].contains id
  else if id < 208 then id == 196 || id == 197
  else if id < 224 then id == 209
  else if id < 240 then id < 230
  else [240, 241, 242, 244, 247].contains id

/-- Reserved source IDs (the chapters' tables). -/
def srcReserved (id : Nat) : Bool :=
  [7, 14, 15, 41, 42, 43, 44, 45, 46, 47, 77, 78, 79, 122, 123, 124, 125, 126, 127, 136, 137, 138, 139, 140, 141, 142, 143,
   151, 152, 153, 154, 155, 156, 157, 158, 159, 175].contains id
  || (decide (185 ≤ id) && decide (id ≤ 191)) || (decide (201 ≤ id) && decide (id ≤ 207))
  || (decide (214 ≤ id) && decide (id ≤ 223)) || (decide (232 ≤ id) && decide (id ≤ 239)) || decide (248 ≤ id)

/-- Sources with an always-on latch (R485, R486). -/
def srcAon (id : Nat) : Bool := [240, 241, 242, 243, 246].contains id

/-- Is the unit of a source fitted (R8)? -/
def srcPresent (v : Variant) (id : Nat) : Bool :=
  if srcReserved id then false
  else if 48 ≤ id ∧ id < 64 then unitBit v (24 + (id - 48) / 2)
  else if 64 ≤ id ∧ id < 80 then unitBit v 35
  else if 80 ≤ id ∧ id < 112 then unitBit v ((id - 80) / 4)
  else if 144 ≤ id ∧ id ≤ 148 then id == 147 || unitBit v 36
  else if 160 ≤ id ∧ id < 168 then unitBit v (16 + (id - 160))
  else if 168 ≤ id ∧ id < 172 then unitBit v 16
  else true

/-- Reset values which depend on the variant or on the instance (R9, R324, R321, R348, R457, R524 and the tables). -/
def specialReset (v : Variant) (a : Nat) : Option Nat :=
  if a < 0x20 then (if a = SYS_ID then some (Config.sysId v) else if a = SYS_UNITS then some (Config.sysUnits v) else none)
  else if 0x21000 ≤ a ∧ a < 0x22400 then
    let n := (a - 0x21000) / 0x100
    let o := (a - 0x21000) % 0x100
    if o = 0 then
      some ((if n < 8 then 0 else 3 <<< 4) ||| 2 ||| 128 <<< 8 ||| 0x90 <<< 16 ||| 100 <<< 40
        ||| (if n < 8 then 10 else if n = 8 then 60 else if n < 17 then 30 else if n = 17 then 2 else 10) <<< 24)
    else if o = 0x18 then
      some (2 <<< 48 ||| (if n = 8 then 30 ||| 60 <<< 16 ||| 200 <<< 32
        else if 9 ≤ n ∧ n ≤ 16 then 2000 ||| 5000 <<< 16 ||| 20000 <<< 32
        else if n = 17 then 2 ||| 5 <<< 16 ||| 20 <<< 32
        else 50 ||| 100 <<< 16 ||| 500 <<< 32))
    else if o = 0x38 ∧ n = 8 ∧ !unitBit v 35 then some 1
    else none
  else if 0x30010 ≤ a ∧ a < 0x30040 then
    match (a - 0x30010) / 8 with
    | 0 => some (3000 ||| 20 <<< 32 ||| 300 <<< 48)
    | 1 => some (500 ||| 50 <<< 32 ||| 1800 <<< 48)
    | 2 => some (100 ||| 3600 <<< 48)
    | 3 => some (10000 ||| 200 <<< 32 ||| 100 <<< 48)
    | 4 => some (1000 ||| 2000 <<< 32 ||| 900 <<< 48)
    | _ => some (100000 ||| 2 <<< 32 ||| 10 <<< 48)
  else if a = PE_ENABLE then some (2 ^ peCount v - 1)
  else if 0x700000 ≤ a ∧ a < 0x701000 then
    if a = EVC_CTL then some (if unitBit v 39 then 1 else 32 <<< 8)
    else if 0x700800 ≤ a then
      let id := (a - 0x700800) / 8
      some (if srcReserved id then 0 else
        (if srcLevel id then 1 <<< 16 else 0) ||| (if srcAon id then 1 <<< 17 else 0) ||| (if srcPresent v id then 1 <<< 18 else 0))
    else none
  else if 0x900180 ≤ a ∧ a < 0x9001E0 then
    some (if [0, 1, 2, 3, 7].contains ((a - 0x900180) / 8) then 8 else 0)
  else none

/-- What a register reads as while nothing has changed it since reset (R12 and the Reset columns). -/
def regReset (v : Variant) (a : Nat) : Word :=
  match specialReset v a with
  | some n => BitVec.ofNat 64 n
  | none => match (nzRowsAt a).find? (RegRow_covers · a) with
    | some r => BitVec.ofNat 64 (rowReset r)
    | none => 0

end Sys2Proof.Machine
end

