-- ==== Sys2Proof/Machine/State.lean ====
section
/-!
DEFINITION. Machine/State.lean: the state of the device as plain data, the reasons a command may stop, and the state
after reset. The register file is the home of every register bit; the structures below hold what no register shows.
Sparse maps are lists of (key, value) pairs in the canonical form of Machine/Map.lean.
-/
namespace Sys2Proof.Machine
open Sys2Proof

/-- The block has no fault of its own: what the spec calls an error is an effect on the state. -/
inductive Fault where
  /-- Raised by no command. Kept so that the type has a name to print; safe. -/
  | none
  deriving DecidableEq, Repr

/-- Why a command has no next state. -/
inductive Refusal where
  /-- Answered by the dispatch for a command without a meaning; safe (the command does nothing provable). -/
  | notModelled (mnemonic : String)
  deriving DecidableEq, Repr

/-- A sparse map. -/
abbrev SMap (α : Type) := List (Nat × α)

/-- What left the device, newest first in `State.out`. -/
inductive Out where
  /-- A frame crossed a port: port, bytes with FCS, planned crossing instant (2^-32 ns). -/
  | frame (port : Nat) (bytes : List Byte) (at_ : Nat)
  /-- A frame left the management port. -/
  | mgmt (bytes : List Byte)
  /-- A Harness message on a transport ID. -/
  | msg (tid : List Byte) (bytes : List Byte)
  /-- One MSI-X message. -/
  | msix (vector : Nat)
  /-- A Belay record: type, record counter, body sealed; HELLO and PROOF unsealed with counter 0 (R383). -/
  | belay (type ctr : Nat) (body : List Byte)
  /-- A DMA write to host memory. -/
  | dma (addr : Nat) (bytes : List Byte)
  /-- A message on a serial time-of-day output. -/
  | tod (k : Nat) (bytes : List Byte)
  /-- A word on the GSPI port of the GNSS front end. -/
  | gspi (word : Nat)
  /-- A pulse on a trigger pin: trigger, width in ns (R372). -/
  | trig (n width : Nat)
  /-- An NTP or NTS-KE request of the upstream client: slot, bytes. -/
  | upstream (slot : Nat) (bytes : List Byte)
  deriving DecidableEq, Repr

/-- The time scale (R39 to R62). Times are counts of 2^-72 ns, so that the 40-bit residue of R40 is part of them. -/
structure TsuState where
  /-- The device time with its residue (R39, R40). -/
  now : Nat
  /-- The XO time base: nominal increments counted, 2^-48 ns (R289, R323). -/
  xo : Nat
  /-- The tick is the second of its FAB cycle (R487, R493). -/
  half : Bool
  /-- The part of one tick's increment that is not slew, in force (R40, R23). -/
  inc : Nat
  /-- The slew part of one tick's increment in force, signed (R44): it changes on the edges of R23, and is 0 once nothing remains. -/
  slewTick : Int
  /-- INC_EFF in force, to 2^-72 ns (R40): what TSU_INC_EFF shows of it changes on the edges of R23. -/
  eff : Nat
  /-- Slew still to apply, signed (R43). -/
  slewRemain : Int
  /-- The latest changes of the slew part, newest first: instant (2^-32 ns), slew part of one tick and the rest of the increment
  from there on (R348). -/
  slews : List (Nat × Int × Nat)
  /-- An increment change waits for its edge (R23). -/
  incPending : Bool
  /-- Internal error bound in fs (R62), and the bound without the J of a refused jump (R316, R317). -/
  errFs : Nat
  freeFs : Nat
  /-- The latest TSU second that a compare tick has met, and `freeFs` in ns on it (R316). -/
  secAt : Nat
  secErr : Nat
  /-- Armed set: value V in 2^-32 ns, bound in ns, edge kind, pin (R47, R48). -/
  setV : Nat
  setBound : Nat
  setRefin : Bool
  setPin : Nat
  /-- A set armed by the servo (R346): offset of the sample (2^-16 ns), its frequency against the TSU (10^-15), its instant. -/
  setOff : Option (Int × Int × Nat)
  /-- The set edge on the scale it set, 2^-32 ns; 0 while UNSET (R322). -/
  setAt : Nat
  /-- XO time of the set edge in 2^-32 ns; 0 while UNSET (R322). -/
  setXo : Nat
  /-- The Harness request that waits for the set edge: session ID, 0 none (R447). -/
  setSession : Nat
  setSeq : Nat
  /-- SEC at which the pending leap was armed (R58). -/
  leapArm : Nat
  /-- The last leap applied: its LEAP_SEC and its step, for values of an earlier SEC (R56). -/
  lastLeapSec : Nat
  lastLeapStep : Int
  /-- Local slave counters that differ from the TSU, in ticks, keyed by the bit of TSU_DIST_STATUS (R24): all add the same increment on
  the same edges (R23), so a difference stays until the counter is loaded. -/
  dist : SMap Int
  /-- Local counters that are reloaded on the next compare tick (R25). -/
  reload : SMap Nat
  /-- Stamp points: consecutive zero compares while in HOLD (R25), keyed by the bit of TSU_DIST_STATUS. -/
  zeroRun : SMap Nat
  /-- The set was armed in the present FAB cycle, and not by the servo (R51). -/
  armFab : Bool
  deriving DecidableEq, Repr

/-- The event controller beside its registers (R471 to R485). -/
structure EvcState where
  /-- Occurrences on their way to the controller (R479), one bit per source. -/
  inflight : BitVec 256
  /-- The enables in effect at the controller (R479). -/
  enEff : BitVec 256
  /-- The levels in effect at the controller (R479). -/
  lvEff : BitVec 256
  /-- Occurrences offered to the EVENT notification since the last one (R452, R471). -/
  ntf : BitVec 256
  /-- Always-on latches (R485). -/
  aon : BitVec 256
  /-- For sources raised once per TSU second: 1 + SEC of the last raise. -/
  once : SMap Nat
  /-- MSI-X pending bits (R483). -/
  msixPend : BitVec 32
  /-- MSI-X vector masks and the function mask (R483). -/
  msixMask : BitVec 32
  msixFnMask : Bool
  /-- A mask window is open for an initiator (R479). -/
  windowOpen : Bool
  /-- Sources that a software occurrence keeps PENDING, whatever their level (R481). -/
  sw : BitVec 256
  /-- Lines whose deliverable set was not empty at the last message decision (R483). -/
  lineSet : BitVec 34
  deriving DecidableEq, Repr

/-- Counters (R487 to R496): keys are EC 0 to 1023, UC 1024 to 1535, OC 1536 to 1599. -/
structure CntState where
  live : SMap Nat
  ext : SMap Nat
  shLive : SMap Nat
  shExt : SMap Nat
  shOvf : SMap Word
  /-- Stamp of the last snapshot in 2^-32 ns and its number (R495). -/
  snapAt : Nat
  snapSeq : Nat
  /-- Dumps delivered since the start (R498). -/
  dumps : Nat
  /-- Next slot of the control-SRAM dump ring (R497). -/
  sramAt : Nat
  /-- TSU second of the entries counted for BURST, entries written in it, entries suppressed in it (R502). -/
  burstSec : Nat
  burst : Nat
  suppressed : Nat
  /-- Conditions aggregated in this second: (class, unit, detail, key, arguments), count, NS of the first (R502). -/
  agg : List (List Nat × Nat × Nat)
  deriving DecidableEq, Repr

/-- The twin pair and the Belay link (R375 to R397). -/
structure PairState where
  /-- Pair key and the TIC channel of the PAIR leg (R411, R413); empty and 255: no such leg. -/
  key : List Byte
  tic : Nat
  sessionOpen : Bool
  /-- Own and twin nonce of the session being opened (R383); empty: none yet. -/
  ownNonce : List Byte
  twinNonce : List Byte
  /-- Session keys for sending and receiving, and the record counters: next to send, next that may come (R383). -/
  keyTx : List Byte
  keyRx : List Byte
  ctrTx : Nat
  ctrRx : Nat
  /-- Consecutive tag failures (R384), consecutive missed heartbeats (R386). -/
  authRun : Nat
  misses : Nat
  /-- The twin's latest heartbeat, if one came: custody held; NTP stratum, root delay (ns), kind of reference (1 packet
  upstream), timeSource (R386). -/
  twinHeard : Bool
  twinCustody : Bool
  twinStratum : Nat
  twinDelay : Nat
  twinKind : Nat
  twinSource : Nat
  /-- PTP_CLOCK_ID and PTP_CTL.PAIR_INDEX of the twin's latest HELLO (R256). -/
  twinClock : Nat
  twinPtp : Nat
  /-- A YIELD arrived in this session (R379). -/
  yieldSeen : Bool
  /-- A clash delay of `retryNs` runs (R378); a refused session waits for its retry (R383). -/
  retryWait : Bool
  retryNs : Nat
  refused : Bool
  /-- Journal sequence numbers sent and applied (R385); any number may come next. -/
  jTx : Nat
  jRx : Nat
  jAny : Bool
  /-- A snapshot is asked for (R392, R394); the records held until SNAP_END: sequence number, type, body. -/
  resync : Bool
  held : List (Nat × Nat × List Byte)
  /-- Time transfer: planned t_tx of the own last marker and of the one before, t_rx of the twin's last marker (2^-32 ns, 0
  none); accepted round trips, newest first; accepted offsets waiting for a REF17 sample (R387, R388). -/
  lastTx : Nat
  prevTx : Nat
  lastRx : Nat
  rtts : List Nat
  thetas : List Int
  deriving DecidableEq, Repr

/-- A frame as the gate holds it: bytes without FCS, and what its release, correction and report need. -/
structure GFrame where
  bytes : List Byte
  /-- The run's descriptor (R92). -/
  desc : List Byte
  cls : Nat
  /-- The received frame stays in the frame buffer until the gate is done with this one (R104). -/
  keep : Bool
  /-- CORR, with the byte offsets of correctionField and of the UDP checksum; no offset under NOCKS (R147, R172). -/
  corr : Option (Nat × Option Nat)
  /-- REPORT requested (R239). -/
  report : Bool
  /-- The counter of the PTP service that counts the frame once it is sent (R257). -/
  ptp : Option Nat
  /-- From a run or an ingress stamp older than the set edge (R50). -/
  old : Bool
  /-- Where in the frame buffer the gate reads the frame, one that RELAY sends; of a built frame the spec does not say (R465). -/
  mem : Option Nat
  deriving DecidableEq, Repr

/-- One booking of a port's launch calendar (R154 to R172). -/
structure Booking where
  /-- Start block position and frame bytes with padding and FCS. -/
  q : Nat
  n : Nat
  /-- Planned plane crossing in 2^-32 ns. -/
  t : Nat
  /-- GATE_SETUP at the grant in ns (R164). -/
  setup : Nat
  /-- Class 1 to 3 booking that counts against the reserve (R163). -/
  shared : Bool
  /-- 0 granted, 1 emitted, 2 committed, 3 placed (FREE or RELAY), 4 deadline passed without an EMIT (R167). -/
  st : Nat
  /-- Context 4e + c that was granted the slot, and the LEN it reserved. -/
  ctx : Nat
  len : Nat
  /-- Why the frame is withheld: 0 not, 1 DOWN, 2 HOLD, 3 the set edge, 4 REVOKED (R165 to R169). -/
  cause : Nat
  /-- The slot has been revoked (R158, R173). -/
  revoked : Bool
  frame : Option GFrame
  deriving DecidableEq, Repr

/-- The gate of one port (R154 to R172). -/
structure GatePort where
  /-- Ball crossing of bit 0 of codeword 0 in 2^-72 ns, rebased at every increment change (R156 to R158). -/
  origin : Int
  /-- Index of the first codeword that carries an alignment-marker group (R156). -/
  am : Nat
  /-- Byte position after the last released frame's FCS and the deficit count after it (R160). -/
  lastEnd : Nat
  deficit : Nat
  /-- Bookings in rising position. -/
  cal : List Booking
  /-- Free queues: class, frame, instant queued, oldest first (R171). -/
  free : List (Nat × GFrame × Nat)
  /-- Frames whose report is due: descriptor, T of the crossing or none where withheld (R239). -/
  reports : List (List Byte × Option Nat)
  deriving DecidableEq, Repr

/-- A service port or lane beside its registers (R64 to R86), by number. -/
structure PortState where
  /-- Reception stops at the next boundary (R66). -/
  stopRx : Bool
  /-- Lane powered (R66, R82). -/
  powered : Bool
  /-- Sides of the lane under calibration, and sides calibrated (R77, R78). -/
  calTx : Bool
  calRx : Bool
  txOk : Bool
  rxOk : Bool
  /-- Adjustments in force, and the writes that wait for their compare tick (R76): instant, value; oldest first. -/
  txAdj : Int
  rxAdj : Int
  /-- The receive adjustment before the one in force, and the compare tick (2^-32 ns) from which the latter applies (R76). -/
  rxPrev : Int
  rxAt : Nat
  txWait : List (Nat × Int)
  rxWait : List (Nat × Int)
  /-- RX_CAL_VALID was cleared for the rate (R73). -/
  rateOut : Bool
  /-- The lane's receive side holds codeword or block lock (R78); it has lost it and not regained it (R81). -/
  lock : Bool
  lost : Bool
  /-- The port signals remote fault to its far end (R81). -/
  rfOut : Bool
  /-- Rejections of the present calibration step, transmit and receive (R78, R79). -/
  txRej : Nat
  rxRej : Nat
  /-- Corrected symbols of the second noted, and 1 + the instant of the last uncorrectable codeword (R86). -/
  fecSec : Nat
  fecSym : Nat
  ueSec : Nat
  /-- 1 + SEC of the last alarm for PORTn_FEC_THRESH (R86). -/
  fecAl : Nat
  deriving DecidableEq, Repr

/-- A frame context of a pitch engine (R88). -/
structure Ctx where
  /-- 0 FREE, 1 DISPATCHING, 2 READY, 3 PARKED, 4 HALTED (PE_CTX_STATE). -/
  st : Nat
  pc : Nat
  bank : Nat
  gen : Nat
  w : List Nat
  /-- Bits as PE_CTX_FLAGS. -/
  flags : Nat
  /-- Anchors A1 to A3: in BUILD, base offset. -/
  anch : List (Bool × Nat)
  stack : List Nat
  steps : Nat
  /-- PE_STEP_LIMIT at dispatch (R101). -/
  limit : Nat
  blen : Nat
  /-- Departure slot: port, start position (R140). -/
  slot : Option (Nat × Nat)
  /-- STAMP LAUNCH has been executed in the run (R124). -/
  stamped : Bool
  desc : List Byte
  hdr : List Byte
  /-- Derived key registers of SEAL (R142 to R144). -/
  kr0 : List Byte
  kr1 : List Byte
  /-- The results of the Pitch at pc are complete and its successor is due (R98). -/
  done : Bool
  /-- The run counts as one of the old bank in a swap, of old generations in a flip (R112, R114). -/
  oldBank : Bool
  oldGen : Bool
  /-- Ingress stamp or dispatch older than the set edge (R50). -/
  old : Bool
  deriving DecidableEq, Repr

/-- An entry of a punt ring (R149): descriptor, received frame, tag, W0, build buffer under WITHB. -/
structure Punt where
  desc : List Byte
  frame : List Byte
  tag : Nat
  w0 : Nat
  build : List Byte
  /-- From a run of before the set edge (R50). -/
  old : Bool
  deriving DecidableEq, Repr

/-- Pitch engines, Topo memory and dispatch (R88 to R119). -/
structure PeState where
  /-- Contexts by 4e + c. -/
  ctx : SMap Ctx
  /-- Dispatch queues: port × 4 + class, 32 to 34 for Trailheads 8 to 10, 40 + class for redispatches (R90, R104).
  Each entry: descriptor, instant queued, stamped before the set edge (R50). -/
  q : SMap (List (List Byte × Nat × Bool))
  /-- Round-robin position per class. -/
  rr : SMap Nat
  /-- Frames held in the frame buffer: offset to length (R90, R104). -/
  frames : SMap Nat
  /-- Next dispatch sequence number (R92). -/
  seq : Nat
  /-- Topo staging registers per initiator: (bank × 32768 + index, word, value) (R113). -/
  stage : SMap (List (Nat × Nat × Nat))
  /-- A swap waits for its dispatch boundary, with WITH_GEN (R114). -/
  swapGo : Bool
  swapGen : Bool
  /-- Tables whose generation bit changed in a flip that drains (R112). -/
  draining : Nat
  /-- Lines of 64 bytes of the table store that were written through the window (R135). -/
  lpmDirty : SMap Bool
  /-- Banks that a window write or a Harness load has reached since the load of stage S6 (R115), one bit each. -/
  bankWritten : Nat
  /-- Banks that hold the stock Topo as the TOPO legs of stage S6 loaded it (R170, R414), one bit each. -/
  stock : Nat
  /-- The context, 4e + c, whose snapshot waits for its Pitch boundary (R116). -/
  snapWait : Option Nat
  /-- Punt rings 0 to 8, oldest first (R149). -/
  punts : SMap (List Punt)
  /-- Frames firmware and the scheduler offer for injection, oldest first: Trailhead, port, AUX, bytes without FCS (R90). -/
  inj : List (Nat × Nat × Nat × List Byte)
  deriving DecidableEq, Repr

/-- A master key slot (R194 to R197). -/
structure KeySlot where
  /-- 512-bit key; zeros while EMPTY. -/
  key : List Byte
  kid : Nat
  /-- 0 EMPTY, 1 NEXT, 2 CURRENT, 3 LIVE. -/
  st : Nat
  random : Bool
  /-- SEC at which the lifetime ends. -/
  ends : Nat
  deriving DecidableEq, Repr

/-- A service address (R175 to R177): of NTP or of PTP, the ports that serve it, the address, result word 0. -/
structure SvcAddr where
  ptp : Bool
  v6 : Bool
  addr : Nat
  ports : Nat
  word : Nat
  deriving DecidableEq, Repr

/-- The NTP and NTS service (R175 to R207). -/
structure SvcState where
  keys : SMap KeySlot
  /-- Cookie root secret of the NTS leg. -/
  root : List Byte
  /-- KEY_ID of the next RANDOM key (R195). -/
  nextId : Nat
  addrs : List SvcAddr
  /-- Sketch row seeds (R200) and counters, keyed row × 2^20 + column (R136). -/
  seeds : List Nat
  sketch : SMap Nat
  /-- Drop counters at the last read (R205). -/
  dropPrev : SMap Nat
  /-- Contents of the stock tables TBL2 to TBL8 as last written: key and result words (R175, R234). -/
  stock : SMap (List (Nat × List Nat))
  /-- How many of a port's PORTn_MCAST entries firmware has written (R177). -/
  mcast : SMap Nat
  deriving DecidableEq, Repr

/-- One sample a reference slot holds: instant on the XO time base (2^-32 ns), phase against that base and offset against
the TSU (2^-16 ns), TSU instant (2^-32 ns). -/
structure RefSample where
  xo : Nat
  x : Int
  e : Int
  t : Nat
  deriving DecidableEq, Repr

/-- A reference slot beside its registers (R321 to R341). -/
structure RefSlot where
  /-- Samples of the monitors' fit, newest first (R323). -/
  fit : List RefSample
  /-- Samples accepted over the last FREQ_WIN, newest first (R334), and of the current update of the servo (R347). -/
  accepted : List RefSample
  fresh : List RefSample
  /-- The last accepted sample that sets p; none: the next sample is accepted and sets it (R336). -/
  p : Option RefSample
  /-- Refused samples of the current run, newest first (R337). -/
  refused : List RefSample
  /-- Activity present (R321); consecutive misses counted; a jump disqualification is outstanding (R337). -/
  act : Bool
  misses : Nat
  jumpOut : Bool
  /-- p as the jump disqualification froze it, 2^-16 ns (R337). -/
  frozen : Int
  /-- The next switch pulls in by slew whatever PULLIN says (R337). -/
  mustSlew : Bool
  /-- Updates within ACCEPT in a row (R326); SEC at which the slot became QUALIFIED (R331). -/
  good : Nat
  qualAt : Nat
  /-- Beyond REJECT, or DRIFTING with preemption, since this instant; 0 not (R326). -/
  rejFreq : Nat
  rejPhase : Nat
  driftPre : Nat
  /-- Frequency values of the last DRIFT_WIN seconds, newest first: SEC and y in 10^-15 (R328). -/
  ys : List (Nat × Int)
  /-- SEC since which |r| held DRIFT_RATE; 0 not (R328). -/
  driftSince : Nat
  /-- r in 10^-15 per 1000 s and t_on of the drift noted, E_drift frozen in fs (R329, R353). -/
  driftR : Int
  driftFs : Nat
  /-- The slot has requalified since DRIFTING was last set (R329, R353). -/
  reQual : Bool
  /-- y_base in 10^-18 (R328), and whether it has a value. -/
  yBase : Option Int
  /-- First WATCH crossing since DRIFTING last cleared; 0 none (R329). -/
  watchAt : Nat
  /-- Q of the source in ns: SOL_BOUND, upstream accuracy, twin bound, message bound (R332); half round trip in ns. -/
  q : Nat
  rtt : Nat
  /-- Upstream: root delay (ns) and stratum it declares, its reference ID (R183, R339). -/
  upDelay : Nat
  upStratum : Nat
  upRefId : Nat
  /-- Instant of the last edge, or of the last activity (2^-32 ns); of the last valid time-of-day message (R321, R340). -/
  lastAt : Nat
  msgAt : Nat
  /-- TIC channel the REFS leg names; 255 none (R321, R417). An upstream entry is bound (R339). -/
  tic : Nat
  bound : Bool
  /-- y of the last monitor update that had a fit, in 10^-15; none since the fit restarted (R323). -/
  y : Option Int
  deriving DecidableEq, Repr

/-- One granted message type (R245, R246): held, log2 of the period, SEC at which it ends. -/
structure GrantOf where
  on : Bool
  log : Int
  ends : Nat
  deriving DecidableEq, Repr

/-- A grant entry (R246). The address is the 128-bit key; `eth` is the peer's MAC address with the VLAN tags of its request. -/
structure PtpGrant where
  addr : Nat
  v4 : Bool
  port : Nat
  inst : Nat
  udp : Nat
  pid : List Byte
  eth : List Byte
  /-- The service address it asked. -/
  own : Nat
  ann : GrantOf
  sync : GrantOf
  dresp : GrantOf
  /-- SEC at which the last grant ended; the entry is freed 1 s later (R247). -/
  idle : Nat
  deriving DecidableEq, Repr

/-- A foreign master heard on a port for an instance (R251): its portIdentity, its latest Announce message, when it came, and
1 + when the one before it came. -/
structure Foreign where
  port : Nat
  inst : Nat
  src : List Byte
  ann : List Byte
  at_ : Nat
  prev : Nat
  /-- Its address, where the transport is IP: IPv6, address (R183). -/
  addr : Option (Bool × Nat)
  /-- Its MAC address and VLAN tags, and the service address it wrote to, as its last Announce came (R244, R251). -/
  eth : List Byte
  own : Nat
  deriving DecidableEq, Repr

/-- The slave side of a PTP slot REF9 to REF16 (R244, R251, R252). -/
structure PtpUp where
  /-- portIdentity of the chosen master and its grandmaster; empty: none. -/
  master : List Byte
  gm : List Byte
  /-- portIdentity and grandmaster of the master that was lost last; empty: none (R338). -/
  prior : List Byte
  /-- A two-step Sync that waits for its Follow_Up: sequenceId, ingress stamp (2^-32 ns), correctionField (2^-16 ns). -/
  sync : Option (Nat × Nat × Int)
  /-- t2 − t1 of the last Sync and mean path delay, 2^-16 ns. -/
  ms : Option Int
  delay : Option Int
  /-- Grants of a G.8275.2 upstream held until (SEC), by type 0 Announce, 1 Sync, 2 Delay_Resp, and the waits before a retry, s. -/
  ends : SMap Nat
  wait : SMap Nat
  /-- logInterMessagePeriod granted, by type (R244). -/
  logs : SMap Int
  deriving DecidableEq, Repr

/-- The PTP service (R229 to R257). -/
structure PtpState where
  /-- sequenceId of the next message of each stream: multicast (kind + 8 × (instance + 4 × port)), unicast 2^10 + kind + 8 × index. -/
  seqs : SMap Nat
  /-- sequenceId of a stream that `seqs` does not list: 0 after a start, 512 further at each takeover (R255). -/
  seqBase : Nat
  grants : SMap (Option PtpGrant)
  foreign : List Foreign
  ups : SMap PtpUp
  /-- Launch instants of delay requests by (port × 4 + instance) × 2^16 + sequenceId, 1 + 2^-32 ns (R244). -/
  launches : SMap Nat
  /-- A Pdelay_Resp that waits for its follow-up, by port: sequenceId, t4, t2, correction. -/
  pdelay : SMap (Option (Nat × Nat × Nat × Int))
  /-- meanLinkDelay per port, 2^-16 ns (TBL_LINKDLY). -/
  link : SMap Int
  /-- The UTC offset has been confirmed since the start (R248). -/
  utcOk : Bool
  /-- clockClass each instance announced last (R257). -/
  cls : SMap Nat
  deriving DecidableEq, Repr

/-- Selection and the servo (R330 to R356). -/
structure ServoState where
  /-- Switch in progress: target slot and cause of the deselection (R334). -/
  target : Option Nat
  /-- The pull-in slew of the selected slot runs: ABSORB follows TSU_SLEW_REMAIN (R334). -/
  pulling : Bool
  /-- The servo has armed the initial set for the slot it follows (R346). -/
  armed : Bool
  /-- A REFS_CTL write that waits for the end of the switch (R333). -/
  ctlWait : Option Word
  /-- The last slot selected; 31 none. -/
  lastSel : Nat
  /-- Integrator I in 10^-15 × 2^-40 (R347). -/
  integ : Int
  /-- |φ| of the last 64 updates with a φ, 2^-16 ns, newest first (R353). -/
  phis : List Nat
  /-- Instant at which the lock run started, 1 + 2^-32 ns; 0 none. Consecutive updates beyond 4 × LOCK_PHASE (R345). -/
  runAt : Nat
  far : Nat
  /-- Holdover: t_loss (ns), t_c (ns × 2), ȳ (10^-15), y0 (10^-15), B_L (fs), D (10^-15 per day) (R350 to R354). -/
  tLoss : Nat
  tc2 : Nat
  yBar : Int
  y0 : Nat
  bL : Nat
  trend : Int
  /-- ȳ and D unrounded (R351, R352): ȳ = ySum / yCnt in 10^-15, D = trN / trD in 10^-15 per s; LIMIT_NS as the holdover began (R350). -/
  ySum : Int
  yCnt : Nat
  trN : Int
  trD : Nat
  limitNs : Nat
  /-- The bound computed at the last update, fs (R353). -/
  lastB : Nat
  /-- Bound at the switch to a FREQ slot, fs, and the instant of the switch, ns. -/
  freqB : Nat
  freqAt : Nat
  /-- Current 10-s period: updates of I so far (sum, count), and whether it is CLEAN so far; six 10-s means of the minute
  (sum, count, CLEAN) (R349). -/
  accSum : Int
  accN : Nat
  accClean : Bool
  minSum : Int
  minN : Nat
  minClean : Bool
  /-- Instant of REFTIME (R356); 0 none. -/
  refTime : Nat
  /-- Root delay recorded for the selected or last selected slot, ns (R183). -/
  rootDelay : Nat
  deriving DecidableEq, Repr

/-- An NTS upstream as firmware's client sees it (R339): the keys and cookies of its NTS-KE, the request that waits for its
answer (unique identifier, transmit timestamp), log2 of the poll interval in force, NTS-KE handshake under way. -/
structure NtsClient where
  c2s : List Byte
  s2c : List Byte
  cookies : List (List Byte)
  uid : List Byte
  xmt : Nat
  poll : Nat
  ke : Bool
  /-- The NTS-KE server name and the trust anchors of its entry in the REFS leg (R339, R413). -/
  name : List Byte
  anchors : List (List Byte)
  deriving DecidableEq, Repr

/-- A tracking channel (R305): 0 IDLE, 1 PULL_IN, 2 TRACK, 3 BIT_SYNC, 4 FRAME_SYNC, and the signal it holds: system, row of
R302, satellite. -/
structure GnssChan where
  st : Nat
  sys : Nat
  sig : Nat
  sv : Nat
  /-- Instant of its detection, 2^-32 ns (R303). -/
  at_ : Nat
  deriving DecidableEq, Repr

/-- What navigation messages of one satellite signal firmware holds (R307): SEC of the newest, and the newest units, each with the WORD_OK
mask of LNAV and its bits, words that failed their parity zero. -/
structure GnssNav where
  sec : Nat
  units : List (Nat × List Byte)
  deriving DecidableEq, Repr

/-- One report of a channel at a measurement instant (R305): code pseudorange and carrier phase in 2^-16 ns, Doppler in mHz,
C/N0 in 0.25 dB-Hz, lock time in ms. -/
structure GnssMeas where
  ch : Nat
  sys : Nat
  sig : Nat
  sv : Nat
  code : Int
  phase : Int
  dopp : Int
  cn0 : Nat
  lock : Nat
  deriving DecidableEq, Repr

/-- The GNSS baseband beside its registers (R298 to R320). -/
structure GnssState where
  /-- GSP_PWR_EN, GSP_VALID; VALID lost for 10 ms, script failed or VALID missing (R298, R301). -/
  power : Bool
  valid : Bool
  gap : Bool
  bad : Bool
  /-- Instant since which VALID is low while it is low, 2^-32 ns (R301, R313). -/
  lowAt : Nat
  /-- Script entries of the GNSS leg, 32 bytes each (R301, R413). -/
  script : List (List Byte)
  chan : SMap GnssChan
  /-- Satellites to be reacquired: system, signal row, satellite (R305). -/
  reacq : List (Nat × Nat × Nat)
  /-- Instant at which the acquisition buffer was filled, 2^-32 ns; none: empty (R303). -/
  bufAt : Option Nat
  /-- Navigation messages held, by satellite signal (R307): system × 2^16 + signal row × 2^8 + satellite. -/
  nav : SMap GnssNav
  /-- Offset of each system against that of the selected scale, 2^-16 ns (R309). -/
  isb : SMap Int
  /-- The last measurement epoch and its reports (R305). -/
  epoch : Nat
  meas : List GnssMeas
  /-- The last whole TSU second measured, its reports, and the code range of each satellite as the solution uses it (R305, R308): system,
  satellite, 2^-16 ns. -/
  secOf : Nat
  secMeas : List GnssMeas
  ranges : List (Nat × Nat × Int)
  /-- Coherent integration is interrupted (R301). -/
  broken : Bool
  /-- SEC of the last valid solution; 0 none in this start. A solution was posted since the set edge (R315, R316). -/
  solAt : Nat
  solSet : Bool
  nsv : Nat
  /-- D and SOL_BOUND of the last valid solution (R308, R312). -/
  solD : Int
  solB : Nat
  /-- Refused jump (R317): first refused D of the run in 2^-16 ns and its SEC, SOL_BOUND of the latest refused one. -/
  jumpD : Int
  jumpAt : Nat
  refBound : Nat
  /-- D of the latest refused solution. -/
  refD : Int
  /-- SEC of the latest refused solution, and the servo's prediction at the first refused one. -/
  jumpSec : Nat
  jumpP : Int
  /-- Time-only solutions since the survey ended, or FIXED; SEC at which the survey began (R310). -/
  timeOnly : Bool
  surveyAt : Nat
  surveying : Bool
  /-- SEC since which residuals imply more than 10 m; 0 not (R310). -/
  posSince : Nat
  /-- GPS UTC parameters delivered with CHECK = PASS, by satellite: ΔtLS, announced LEAP_SEC (0 none), its sign (R311). -/
  utc : SMap (Int × Nat × Int)
  /-- Messages posted (R312); the raw pulse edges given. -/
  tpSeq : Nat
  pulses : Nat
  /-- Instant of the last raw pulse's rising edge, 2^-32 ns (R312). -/
  pulseAt : Option Nat
  /-- The snapshot (R313): start or trigger instant in 2^-32 ns, none while it waits for its trigger; destination, bands,
  length in ms; data exported, as kept in the window. -/
  snapAt : Option Nat
  snapTrig : Option Nat
  snapDest : Nat
  snapBands : Nat
  snapLen : Nat
  /-- VALID was low during the capture. -/
  snapBad : Bool
  /-- Capture edge of its first sample, and the periods VALID was low during the capture, 2^-32 ns (R313). -/
  snapEdge : Nat
  lows : List (Nat × Nat)
  /-- A LOCAL snapshot that found enough satellites and awaits its solution: SEC of its start, satellites (R313). -/
  snapFix : Option (Nat × Nat)
  /-- Delay of band 0 (L1) and 1 (L5) before its last write, in ps, and the TSU second from which the register applies (R300). -/
  dly : SMap (Int × Nat)
  /-- Lean operation is in force; the front end is held on for ephemerides (R314). -/
  lean : Bool
  ephem : Bool
  /-- SEC of the last lean cycle; 0 none (R314). -/
  leanAt : Nat
  /-- Band monitor (R318): undisturbed seconds of the baseline, sums of the noise power of L1 and L5 over them in 0.25 dB, and whether a
  snapshot or a VALID fault disturbed the present second. -/
  baseN : Nat
  baseL1 : Nat
  baseL5 : Nat
  baseBad : Bool
  deriving DecidableEq, Repr

/-- An NTS-KE identity (R215): names, key type, RSA words, certificates leaf first, private key, notAfter in TAI, valid. -/
structure KeIdent where
  names : List (List Byte)
  kty : Nat
  rsa : Nat
  certs : List (List Byte)
  key : List Byte
  notAfter : Nat
  valid : Bool
  /-- Why it is not valid (R215): the codes of `identOf`; 0 valid. -/
  why : Nat
  deriving DecidableEq, Repr

/-- An NTS-KE connection (R210 to R212): 4-tuple, TCP numbers, and how far it has come. -/
structure KeConn where
  v6 : Bool
  peer : Nat
  peerPort : Nat
  own : Nat
  port : Nat
  /-- The peer's MAC address with the VLAN tags of its segments. -/
  eth : List Byte
  /-- Next sequence number to receive and to send, and the peer's MSS. -/
  rcv : Nat
  snd : Nat
  mss : Nat
  /-- 0 awaits ClientHello, 1 awaits the second ClientHello, 2 computes its flight, 3 awaits Finished, 5 awaits the request, 4 lingers. -/
  st : Nat
  /-- Bytes of records that have not been read. -/
  rx : List Byte
  /-- Suite, group and identity chosen (R213, R214); the identity as it was when chosen (R217). -/
  suite : Nat
  group : Nat
  ident : Option KeIdent
  /-- The client's key share and session ID, and the own private scalar; ServerHello.random and the salt of an RSASSA-PSS signature, 32 bytes
  each. -/
  share : List Byte
  sid : List Byte
  priv : Nat
  rnd : List Byte
  /-- BNU job wanted: 0 none, 1 key generation, 2 shared secret, 3 signature; a unit has accepted it; the signature is the
  repeat on another unit (R223). -/
  job : Nat
  sub : Bool
  again : Bool
  /-- Number of the receive keys' generation (KeyUpdate). -/
  upd : Nat
  /-- Segments in flight and segments that wait for the window, each with whether it carries FIN; whether a FIN has been given to the
  connection; retransmissions of the oldest segment, RTO in ms (R210). -/
  unacked : List (List Byte × Bool)
  wait : List (List Byte × Bool)
  fin : Bool
  resent : Nat
  rto : Nat
  /-- The peer's FIN has come (R212). -/
  pfin : Bool
  /-- Handshake messages so far, and bytes of a message whose records have not all come (RFC 8446). -/
  trans : List Byte
  hsb : List Byte
  /-- Traffic secrets in force for the client's and for the device's records, none in the clear, and their record numbers. -/
  rd : List Byte
  rdSeq : Nat
  wr : List Byte
  wrSeq : Nat
  /-- The client's application traffic secret, and the exporter secret (R220). -/
  app : List Byte
  expo : List Byte
  /-- The client offered early data, and none of its records has been opened yet (R213). -/
  early : Bool
  /-- The NTS-KE request as far as it has come (R218). -/
  req : List Byte
  deriving DecidableEq, Repr

/-- The NTS-KE service (R208 to R228). -/
structure KeState where
  conns : SMap (Option KeConn)
  idents : List KeIdent
  /-- Server name of the NTSKE leg (R219). -/
  server : List Byte
  /-- Day of the last expiry warning per identity (R216). -/
  warned : SMap Nat
  /-- Secret of the SYN cookies (R210). -/
  secret : List Byte
  deriving DecidableEq, Repr

/-- A slot of a big-number unit (R260): 0 EMPTY, 1 FULL, 2 BUSY; READ 0 ANY, 1 OWNER, 2 NONE; writer 0 to 2 cluster, 3 host. -/
structure BnuSlot where
  st : Nat
  read : Nat
  owner : Nat
  deriving DecidableEq, Repr

/-- A job of a big-number unit (R262): descriptor words, submitter (0 to 2 cluster, 3 host), cost and cycles left (R276),
class, and what befell it. -/
structure BnuJob where
  w0 : Nat
  w1 : Nat
  w2 : Nat
  w3 : Nat
  side : Nat
  cost : Nat
  left : Nat
  short : Bool
  yielded : Bool
  /-- Outcome of validation (R266): 0 runs on, a VAL code, 0x0C MEM_UE, 0x108 NO_ENTROPY. -/
  bad : Nat
  /-- A job of the NTS-KE service: its connection (R224); its operands are the connection's. -/
  ke : Option Nat
  deriving DecidableEq, Repr

/-- A big-number unit beside its registers (R258 to R278). -/
structure BnuUnit where
  slots : SMap BnuSlot
  shortQ : List BnuJob
  longQ : List BnuJob
  run : Option BnuJob
  saved : Option BnuJob
  /-- SHORT jobs started since the LONG job was saved (R269). -/
  since : Nat
  /-- Completion words, oldest first (R274). -/
  cpl : List Nat
  /-- A self-test runs (R277). -/
  test : Bool
  /-- XO time (2^-48 ns) at which the running job started or resumed (R276). -/
  begun : Nat
  deriving DecidableEq, Repr

/-- A key-store entry (R263): 1 P-256, 2 P-384, 3 Ed25519, 4 RSA; words; private scalar or seed; RSA primes and exponent; and what KEY_LOAD
derives for verify-before-release (R270): the public point, or an Ed25519 key in `px`; the modulus, and d mod p − 1, d mod q − 1 and
q⁻¹ mod p. -/
structure BnuKey where
  ty : Nat
  words : Nat
  d : Nat
  p : Nat
  q : Nat
  e : Nat
  px : Nat
  py : Nat
  n : Nat
  dp : Nat
  dq : Nat
  qi : Nat
  deriving DecidableEq, Repr

/-- The working state of an instance of CTR_DRBG (R281). -/
structure Drbg where
  key : List Byte
  v : Nat
  deriving DecidableEq, Repr

/-- Big-number units, key store, entropy source and DRBGs (R258 to R284). -/
structure BnuState where
  units : SMap BnuUnit
  keys : SMap (Option BnuKey)
  /-- Instances that have stopped (R282), and generate calls since the last reseed, per instance. -/
  stopped : Nat
  calls : SMap Nat
  /-- Instances that have been instantiated (R281, R282). -/
  drbg : SMap (Option Drbg)
  /-- Units whose instance was zeroed and waits for them to come back, one bit each (R282). -/
  gone : Nat
  /-- Conditioned blocks that no instance has taken, oldest first, at most two (R279). -/
  pool : List (List Byte)
  /-- The last raw bit and how often in a row it has come (R279). -/
  rawBit : Bool
  rawRun : Nat
  deriving DecidableEq, Repr

/-- One entry of an ECC domain's log (R460, R463). -/
structure EccEntry where
  addr : Nat
  syn : Nat
  ue : Bool
  /-- PERSISTENT, its row being copied, RETIRED. -/
  pers : Bool
  copying : Bool
  retired : Bool
  rep : Nat
  /-- The word was written back after the first error, and the corrections since. -/
  wb : Bool
  after : Nat
  first : Nat
  last : Nat
  deriving DecidableEq, Repr

/-- Memories and error correction (R457 to R469). -/
structure EccState where
  /-- Words that hold an error, keyed domain × 2^32 + word address: 1 + BIT_A × 256 + BIT_B. -/
  bad : SMap Nat
  /-- Domain logs, keyed domain × 16 + entry. -/
  log : SMap (Option EccEntry)
  /-- Per domain: 1 + word the scrubber read last, and the instant its lap began (R461). -/
  scrubAt : SMap Nat
  lapStart : SMap Nat
  deriving DecidableEq, Repr

/-- Starts (R422 to R439). -/
structure StartState where
  /-- Pins: supply good, both resets low, boot straps. -/
  pwrGood : Bool
  poresetLow : Bool
  warmLow : Bool
  bootSel : Nat
  /-- The start latch of the always-on domain (R423): cause of the current attempt, failure count, a record that waits for the
  journal: type, stage, cause, flags, FAIL_RUN, BUILD_ID, ms. -/
  latchCause : Nat
  latchRun : Nat
  latchRec : Option (List Nat)
  /-- The latch shows a fall of PWR_GOOD or a loss of VSTBY, a reset pin (R431). -/
  latchPower : Bool
  latchReset : Bool
  /-- An attempt is over and its retry waits (R429). -/
  retryWait : Bool
  /-- Copy the previous failed attempt used, and what a release asked to be tried first: 0 order of R419, 1 A, 2 B. -/
  failedCopy : Option Nat
  firstCopy : Nat
  /-- XO frequency identified in S1 XO, Hz (R424). -/
  xoHz : Nat
  /-- Time of the attempt: ms at an instant of the XO time base (2^-48 ns). -/
  msBase : Nat
  xoBase : Nat
  /-- No clock in Bivouac mode (R436). -/
  dark : Bool
  /-- XO instant of S9 OPEN (2^-48 ns). -/
  openXo : Nat
  /-- Patches applied to cluster SRAM: clusters, offset, code (R414). -/
  patches : List (Nat × Nat × List Byte)
  /-- Fixed part of the DEVICE leg in force (R413); empty: none. -/
  device : List Byte
  /-- Rest: 0 none, 1 entering, 3 exiting (R82, R85); the ports whose ENABLE was 1 at entry. -/
  rest : Nat
  restEn : Nat
  deriving DecidableEq, Repr

/-- One-time programmable memory: OWK, SHA-512 of the owner public key (empty: not programmed), lock, factory MAC address
(R407, R408, R437). -/
structure OtpState where
  owk : List Byte
  ownerHash : List Byte
  locked : Bool
  mac : Nat
  deriving DecidableEq, Repr

/-- An operation of the flash for a Harness request (R420): session, 0 erase, 1 write, 2 verify, offset, length, data. -/
structure NvmOp where
  sid : Nat
  kind : Nat
  off : Nat
  len : Nat
  data : List Byte
  deriving DecidableEq, Repr

/-- The flash (R398), erased bytes unlisted, and the operation that runs (R420). -/
structure NvmState where
  flash : SMap Byte
  op : Option NvmOp
  deriving DecidableEq, Repr

/-- An edge as a TIC engine measured it (R286, R288): ROOT edge, fine time k − k0 over k2 − k1 ROOT periods, device time at
the ROOT edge (2^-32 ns), INC_EFF (2^-56 ns), input-edge number, TSU UNSET and local counter in HOLD. -/
structure TicEdge where
  root : Nat
  num : Int
  den : Nat
  t : Nat
  eff : Nat
  n : Nat
  unset : Bool
  hold : Bool
  deriving DecidableEq, Repr

/-- A TIC channel beside its registers (R285 to R295). -/
structure TicCh where
  armed : Bool
  /-- Prescaled edges since arming: START, STOP (R286). -/
  cntS : Nat
  cntP : Nat
  /-- The start or opening edge measured (R290, R292). -/
  first : Option TicEdge
  /-- Last measured edge of each engine, fs of XO time (R287). -/
  lastS : Option Int
  lastP : Option Int
  /-- Results: words 0, 1 and 2 (R294). -/
  fifo : List (Nat × Nat × Nat)
  deriving DecidableEq, Repr

/-- An output beside its registers (R359 to R369). -/
structure OutCh where
  level : Bool
  /-- ORIGIN as SEC; index of the next rising edge (R361). -/
  origin : Nat
  k : Nat
  /-- The phase accumulator with the periods it has completed since edge 0, and PHASE_INC, in 2^-48 periods (R359). -/
  acc : Int
  inc : Nat
  /-- A rising edge that is due, with the delay of its fine delay line in ps; that delay of the last edge given (R359). -/
  edge : Option Nat
  fine : Nat
  /-- What is left of the high time, and of the time in which a set edge allows no rise, in 2^-72 ns (R362, R367). -/
  left : Nat
  guard : Nat
  /-- ALIGN: the first input edge has come; the phase shift made, and the shift still to make, in 2^-72 ns (R364). -/
  captured : Bool
  shift : Int
  corr : Int
  /-- The clean-up PLL has lost its lock while driving (R360). -/
  pllLost : Bool
  /-- TIC channel the OUTPUTS leg names for ALIGN; 255 none. -/
  tic : Nat
  deriving DecidableEq, Repr

/-- A schedule of firings (R370): T0 in 2^-16 ns, PERIOD, index of the next firing, index of the last; none without end. -/
structure TrigSched where
  t0 : Nat
  per : Nat
  k : Nat
  last : Option Nat
  deriving DecidableEq, Repr

/-- A trigger (R370): the schedule in force, and the one that replaces it from its first firing. -/
structure TrigCh where
  cur : Option TrigSched
  nxt : Option TrigSched
  deriving DecidableEq, Repr

/-- An open Harness session (R443 to R447, R452). -/
structure Session where
  sid : Nat
  /-- 1 OBSERVER, 2 OPERATOR, 3 CUSTODIAN. -/
  role : Nat
  /-- Transport ID (R440), session key. -/
  tid : List Byte
  key : List Byte
  /-- Highest SEQ accepted, and the accepted ones of the last 64: bit i stands for high − i (R445). -/
  high : Nat
  win : Nat
  /-- The last 8 accepted requests with their responses, newest first (R445); none while one executes. -/
  kept : List (Nat × List Byte × Option (List Byte))
  /-- Requests accepted that wait behind one that executes, oldest first (R447). -/
  wait : List (List Byte)
  /-- The request that executes and answers later: its bytes (R447). -/
  busy : Option (List Byte)
  evMask : Nat
  flags : Nat
  ntfSeq : Nat
  openSec : Nat
  deriving DecidableEq, Repr

/-- A handshake not yet proven (R443). -/
structure Handshake where
  hid : Nat
  slot : Nat
  cn : List Byte
  dn : List Byte
  tid : List Byte
  deriving DecidableEq, Repr

/-- A PCIe mailbox ring (R454). -/
structure Ring where
  reqBase : Nat
  rspBase : Nat
  size : Nat
  enable : Bool
  reqProd : Nat
  reqCons : Nat
  rspProd : Nat
  rspCons : Nat
  /-- Empty buffers posted: address and capacity. -/
  posted : List (Nat × Nat)
  /-- Messages that wait for a buffer, oldest first; true for a notification. -/
  wait : List (Bool × List Byte)
  deriving DecidableEq, Repr

/-- The Harness (R440 to R455). -/
structure HarnessState where
  /-- Key slots of the HARNESS_KEYS leg: role, transports, key. -/
  keys : SMap (Option (Nat × Nat × List Byte))
  shakes : List Handshake
  sessions : List Session
  /-- AUTH_FAIL instants of the last failures per transport, newest first, and the end of a lock, both on the XO time base in ns
  (R444). -/
  fails : SMap (List Nat)
  lockEnd : SMap Nat
  rings : SMap Ring
  /-- Messages waiting on HSPI, oldest first; true for a notification (R455). -/
  hspi : List (Bool × List Byte)
  /-- Cairn HEAD at the last CAIRN batch (R452). -/
  cairnAt : Nat
  /-- Rewrites of the status page, and the page (R454). -/
  pageSeq : Nat
  page : List Byte
  deriving DecidableEq, Repr

structure State where
  /-- Commands waiting, first in, first out. -/
  pending : List Instr
  /-- The part fitted (R1). -/
  variant : Variant
  /-- Register file by address. -/
  regs : SMap Word
  /-- Registers of which each bus initiator has its own copy (R51, R53, R265, R294), keyed by address + 2^32 × initiator. -/
  initRegs : SMap Word
  /-- The memories behind the windows of R521, by management address. -/
  mem : List Host.Cell
  /-- The last data returned to each bus initiator. -/
  busOut : SMap Word
  /-- What left the device, newest first. -/
  out : List Out
  /-- Number of the next draw of the free value Config.draw. -/
  fresh : Nat
  tsu : TsuState
  evc : EvcState
  cnt : CntState
  pair : PairState
  start : StartState
  otp : OtpState
  nvm : NvmState
  gate : SMap GatePort
  ports : SMap PortState
  pe : PeState
  ecc : EccState
  svc : SvcState
  refs : SMap RefSlot
  /-- Address of each slot's packet upstream: IPv6, address (R183, R251). -/
  refUp : SMap (Option (Bool × Nat))
  servo : ServoState
  har : HarnessState
  tic : SMap TicCh
  outs : SMap OutCh
  trigs : SMap TrigCh
  gnss : GnssState
  nts : SMap NtsClient
  /-- SEC the last message labelled and XO time of its pulse (2^-32 ns), per serial time-of-day input (R340). -/
  tod : SMap (Option (Nat × Nat))
  ptp : PtpState
  ke : KeState
  bnu : BnuState
  deriving DecidableEq, Repr

/-- The state after reset. -/
def State.reset : State where
  pending := []
  variant := .gt9840
  regs := []
  initRegs := []
  mem := []
  busOut := []
  out := []
  fresh := 0
  tsu := { now := 0, xo := 0, half := false, inc := 0x00A0000000000000 * 2 ^ 16, slewTick := 0, eff := 0x00A0000000000000 * 2 ^ 16, slewRemain := 0, slews := [], incPending := false,
           errFs := 0xFFFFFFFF * 1000000, freeFs := 0xFFFFFFFF * 1000000, secAt := 0, secErr := 0xFFFFFFFF, setV := 0, setBound := 0, setRefin := false, setPin := 0, setOff := none, setAt := 0, setXo := 0,
           setSession := 0, setSeq := 0, leapArm := 0, lastLeapSec := 0, lastLeapStep := 0, dist := [], reload := [], zeroRun := [], armFab := false }
  evc := { inflight := 0, enEff := 0, lvEff := 0, ntf := 0, aon := 0, once := [], msixPend := 0, msixMask := 0xFFFFFFFF,
           msixFnMask := false, windowOpen := false, sw := 0, lineSet := 0 }
  cnt := { live := [], ext := [], shLive := [], shExt := [], shOvf := [], snapAt := 0, snapSeq := 0, dumps := 0, sramAt := 0,
           burstSec := 0, burst := 0, suppressed := 0, agg := [] }
  pair := { key := [], tic := 255, sessionOpen := false, ownNonce := [], twinNonce := [], keyTx := [], keyRx := [], ctrTx := 0,
            ctrRx := 0, authRun := 0, misses := 0, twinHeard := false, twinCustody := false, twinStratum := 0, twinDelay := 0,
            twinKind := 0, twinSource := 0, twinClock := 0, twinPtp := 0, yieldSeen := false, retryWait := false, retryNs := 0, refused := false, jTx := 0,
            jRx := 0, jAny := true, resync := false, held := [], lastTx := 0, prevTx := 0, lastRx := 0, rtts := [],
            thetas := [] }
  start := { pwrGood := true, poresetLow := false, warmLow := false, bootSel := 0, latchCause := 0, latchRun := 0,
             latchRec := none, latchPower := false, latchReset := false, retryWait := false, failedCopy := none,
             firstCopy := 0, xoHz := 0, msBase := 0, xoBase := 0, dark := false, openXo := 0, patches := [], device := [], rest := 0, restEn := 0 }
  otp := { owk := [], ownerHash := [], locked := false, mac := 0 }
  nvm := { flash := [], op := none }
  gate := []
  ports := []
  pe := { ctx := [], q := [], rr := [], frames := [], seq := 0, stage := [], swapGo := false, swapGen := false,
          draining := 0, lpmDirty := [], bankWritten := 0, stock := 0, snapWait := none, punts := [], inj := [] }
  ecc := { bad := [], log := [], scrubAt := [], lapStart := [] }
  svc := { keys := [], root := [], nextId := 0, addrs := [], seeds := [0, 0, 0, 0], sketch := [], dropPrev := [], stock := [], mcast := [] }
  refs := []
  refUp := []
  servo := { target := none, pulling := false, armed := false, ctlWait := none, lastSel := 31, integ := 0, phis := [], runAt := 0, far := 0, tLoss := 0,
             tc2 := 0, yBar := 0, y0 := 0, bL := 0, trend := 0, ySum := 0, yCnt := 1, trN := 0, trD := 1, limitNs := 0, lastB := 0, freqB := 0, freqAt := 0, accSum := 0, accN := 0,
             accClean := false, minSum := 0, minN := 0, minClean := false, refTime := 0, rootDelay := 0 }
  har := { keys := [], shakes := [], sessions := [], fails := [], lockEnd := [], rings := [], hspi := [], cairnAt := 0,
           pageSeq := 0, page := [] }
  tic := []
  outs := []
  trigs := []
  gnss := { power := false, valid := false, gap := false, bad := false, lowAt := 0, script := [], chan := [], reacq := [], bufAt := none, nav := [], isb := [], epoch := 0,
            meas := [], secOf := 0, secMeas := [], ranges := [], broken := false, solAt := 0, solSet := false, nsv := 0, solD := 0, solB := 0, jumpD := 0, jumpAt := 0,
            refBound := 0, refD := 0, jumpSec := 0, jumpP := 0, timeOnly := false, surveyAt := 0, surveying := false, posSince := 0, utc := [],
            tpSeq := 0, pulses := 0, pulseAt := none, snapAt := none, snapTrig := none, snapDest := 0, snapBands := 0, snapLen := 0,
            snapBad := false, snapEdge := 0, lows := [], snapFix := none, dly := [], lean := false, ephem := false, leanAt := 0,
            baseN := 0, baseL1 := 0, baseL5 := 0, baseBad := false }
  nts := []
  tod := []
  ptp := { seqs := [], seqBase := 0, grants := [], foreign := [], ups := [], launches := [], pdelay := [], link := [], utcOk := false, cls := [] }
  ke := { conns := [], idents := [], server := [], warned := [], secret := [] }
  bnu := { units := [], keys := [], stopped := 0, calls := [], drbg := [], gone := 0, pool := [], rawBit := false, rawRun := 0 }

end Sys2Proof.Machine
end

