-- ==== Sys2Proof/Machine/Ops.lean ====
section
/-!
DEFINITION. Machine/Ops.lean: the shared operations: registers and fields, memory, bytes, the device time, event
sources (R471 to R483), counters (R487 to R492), Cairn entries (R499 to R503), draws, and the frame of a command.
-/
namespace Sys2Proof.Machine
open Sys2Proof

/-- A State → Outcome meaning that always continues. -/
abbrev Res := Host.Outcome State Fault Refusal

-- Registers and fields -------------------------------------------------------------------------------------------

/-- The stored bits of a register. -/
def rd (s : State) (a : Nat) : Word := mapGet (regReset s.variant) s.regs a

/-- Store a register. -/
def wr (a : Nat) (v : Word) (s : State) : State := { s with regs := mapSet (regReset s.variant) a v s.regs }

/-- A field of a register, as a number. -/
def fget (s : State) (a : Nat) (f : Fld) : Nat := getF f (rd s a)

/-- A field of a register, as a truth value. -/
def fbit (s : State) (a : Nat) (f : Fld) : Bool := decide (fget s a f ≠ 0)

/-- A field of a register, as a two's complement number. -/
def fint (s : State) (a : Nat) (f : Fld) : Int := sgn f.width (fget s a f)

/-- Replace one field of a register. -/
def fset (a : Nat) (f : Fld) (v : Nat) (s : State) : State := wr a (setF f v (rd s a)) s

/-- Replace one single-bit field. -/
def fsetB (a : Nat) (f : Fld) (b : Bool) (s : State) : State := fset a f (if b then 1 else 0) s

/-- Replace one field with a signed value. -/
def fsetI (a : Nat) (f : Fld) (v : Int) (s : State) : State := fset a f (unsgn f.width v) s

/-- Raise a field to a value if that is larger (a high-water mark). -/
def fmax (a : Nat) (f : Fld) (v : Nat) (s : State) : State :=
  if fget s a f < v then fset a f (min v (2 ^ f.width - 1)) s else s

/-- Clamp into an unsigned field. -/
def satF (f : Fld) (v : Nat) : Nat := min v (2 ^ f.width - 1)

/-- Clamp into a signed field of `w` bits. -/
def satI (w : Nat) (v : Int) : Int :=
  if v < -((2 ^ (w - 1) : Nat) : Int) then -((2 ^ (w - 1) : Nat) : Int)
  else if v > ((2 ^ (w - 1) : Nat) : Int) - 1 then ((2 ^ (w - 1) : Nat) : Int) - 1 else v

/-- Bit `i` of a bank of 64-bit registers. -/
def bankBit (s : State) (reg : Nat → Nat) (i : Nat) : Bool := (rd s (reg (i / 64))).getLsbD (i % 64)

/-- Write bit `i` of a bank of 64-bit registers. -/
def setBank (reg : Nat → Nat) (i : Nat) (b : Bool) (s : State) : State :=
  let a := reg (i / 64)
  let m : Word := (1 : Word) <<< (i % 64)
  wr a (if b then rd s a ||| m else rd s a &&& ~~~ m) s

/-- Index of a bus initiator's private copies. -/
def initIx : Initiator → Nat
  | .core n => n.val
  | .pcie => 24
  | .hspi => 25
  | .jtag => 26
  | .harness => 27

/-- INITIATOR coding of SYS_ABSENT_ACCESS and of BNU slot owners (R526). -/
def initCode : Initiator → Nat
  | .core n => n.val / 8
  | .pcie => 3
  | .hspi => 4
  | .jtag => 5
  | .harness => 0

/-- Key of an initiator's private copy of a register. -/
def initKey (i : Initiator) (a : Nat) : Nat := a + 2 ^ 32 * initIx i

/-- Default of a private copy. -/
def initReset (v : Variant) (k : Nat) : Word := regReset v (k % 2 ^ 32)

/-- An initiator's private copy of a register. -/
def rdI (s : State) (i : Initiator) (a : Nat) : Word := mapGet (initReset s.variant) s.initRegs (initKey i a)

/-- Store an initiator's private copy. -/
def wrI (i : Initiator) (a : Nat) (v : Word) (s : State) : State :=
  { s with initRegs := mapSet (initReset s.variant) (initKey i a) v s.initRegs }

/-- The data a read returned to an initiator. -/
def answer (i : Initiator) (v : Word) (s : State) : State :=
  { s with busOut := mapSet (fun _ => 0) (initIx i) v s.busOut }

-- Bytes and memory -----------------------------------------------------------------------------------------------

/-- A window byte that nothing has written reads zero (R458). -/
def memDefault (_ : Nat) : Byte := 0

/-- The canonical form of the window memory. -/
def memWf (m : List Host.Cell) : Bool := mapWf memDefault m

/-- One byte of a window memory. -/
def ldB (s : State) (a : Nat) : Byte := mapGet memDefault s.mem a

/-- Bytes of a window memory. -/
def ldBytes (s : State) (a n : Nat) : List Byte := mapBytes memDefault s.mem a n

/-- A little-endian word of a window memory. -/
def ldW (s : State) (a : Nat) : Word := BitVec.ofNat 64 (leNat (ldBytes s a 8))

/-- Write bytes of a window memory. -/
def stBytes (a : Nat) (bs : List Byte) (s : State) : State := { s with mem := mapPut memDefault s.mem a bs }

/-- Write a little-endian word of a window memory. -/
def stW (a : Nat) (w : Word) (s : State) : State := stBytes a (leBytes 8 w.toNat) s

/-- Clear the bytes of a range: they read zero again. -/
def clrRange (lo hi : Nat) (s : State) : State := { s with mem := s.mem.filter (fun c => c.1 < lo || hi ≤ c.1) }

-- The device time ------------------------------------------------------------------------------------------------

/-- One second in units of 2^-32 ns. -/
def gtSecond : Nat := 1000000000 * 2 ^ 32

/-- The device time as a count of 2^-32 ns (R39). -/
def gtNow (s : State) : Nat := s.tsu.now / 2 ^ 40

/-- SEC of a time. -/
def gtSec (t : Nat) : Nat := t / gtSecond % 2 ^ 64

/-- NS of a time. -/
def gtNs (t : Nat) : Nat := t / 2 ^ 32 % 1000000000

/-- FRAC of a time. -/
def gtFrac (t : Nat) : Nat := t % 2 ^ 32

/-- NS and FRAC packed as a register (R39). -/
def gtSub (t : Nat) : Nat := gtNs t * 2 ^ 32 + gtFrac t

/-- A time from SEC and the packed sub-second word. -/
def gtOf (sec sub : Nat) : Nat := sec * gtSecond + (sub / 2 ^ 32) * 2 ^ 32 + sub % 2 ^ 32

/-- SEC now. -/
def nowSec (s : State) : Nat := gtSec (gtNow s)

/-- SEC[31:0] now. -/
def nowSec32 (s : State) : Nat := nowSec s % 2 ^ 32

/-- A number of ns in units of 2^-32 ns. -/
def ns32 (n : Nat) : Nat := n * 2 ^ 32

-- Device phase ---------------------------------------------------------------------------------------------------

/-- SYS_PHASE.PHASE (R525). -/
def phase (s : State) : Nat := fget s SYS_PHASE SYS_PHASE_PHASE

/-- Change the phase and note the second (SYS_PHASE). -/
def setPhase (p : Nat) (s : State) : State :=
  fset SYS_PHASE SYS_PHASE_ENTER_SEC (nowSec32 s) (fset SYS_PHASE SYS_PHASE_PHASE p s)

/-- Is the S9 lock of RWL fields in force (R13, R15)? -/
def rwlLocked (s : State) : Bool := decide (9 ≤ fget s SYS_START_STATUS SYS_START_STATUS_STAGE)

-- Counters -------------------------------------------------------------------------------------------------------

/-- Set an overflow bit (R492). -/
def setOvf (i : Nat) (s : State) : State := setBank CNT_OVF i true s

/-- Add to a counter; the flag says that an overflow bit was set (R491). -/
def bumpCore (i n : Nat) (s : State) : State × Bool :=
  let v := mapGet (fun _ => 0) s.cnt.live i + n
  let s1 : State := { s with cnt := { s.cnt with live := mapSet (fun _ => 0) i (v % 2 ^ 48) s.cnt.live } }
  let c := v / 2 ^ 48
  if c = 0 then (s1, false)
  else if phase s = 3 ∨ phase s = 5 then (setOvf i s1, true)
  else
    let e := mapGet (fun _ => 0) s.cnt.ext i + c
    let s2 : State := { s1 with cnt := { s1.cnt with ext := mapSet (fun _ => 0) i (e % 2 ^ 48) s1.cnt.ext } }
    if e / 2 ^ 48 = 0 then (s2, false) else (setOvf i s2, true)

/-- Number of non-reserved source IDs below `id` (R489). -/
def srcRank (id : Nat) : Nat := (List.range id).countP (fun k => !srcReserved k)

/-- The event counter of a source (R488, R489). -/
def srcCounter (id : Nat) : Nat := 816 + srcRank id

/-- The fabric runs, and with it the event controller and the Cairn log (R485, R501): stage S3 MEM has ended. -/
def fabRuns (s : State) : Bool := decide (4 ≤ fget s SYS_START_STATUS SYS_START_STATUS_STAGE) || decide (phase s = 4)

/-- Is the source that of a port which the group's 400GBASE-R port leaves inert: its events never become pending (R65)? -/
def srcInert (s : State) (id : Nat) : Bool :=
  decide (80 ≤ id) && decide (id < 112) && decide ((id - 80) / 4 % 4 ≠ 0)
    && decide (fget s (PORT_MODE (4 * ((id - 80) / 16))) PORT_MODE_GROUP_MODE = 5)

/-- One hardware occurrence, before the overflow of its own counter is looked at (R471, R485). -/
def occurCore (id : Nat) (s : State) : State × Bool :=
  if !srcPresent s.variant id || srcInert s id then (s, false)
  else if !fabRuns s then
    (if srcAon id then { s with evc := { s.evc with aon := s.evc.aon ||| (1 <<< id : BitVec 256) } } else s, false)
  else
    let s1 := setBank EVC_RAW id true s
    let s2 : State := { s1 with
      evc := { s1.evc with inflight := s1.evc.inflight ||| (1 <<< id : BitVec 256),
                           ntf := s1.evc.ntf ||| (1 <<< id : BitVec 256) } }
    bumpCore (srcCounter id) 1 s2

/-- Assert CNT_OVF (R492). -/
def ovfRise (s : State) : State :=
  if bankBit s EVC_SRC_LEVEL 209 then s
  else
    let s1 := setBank EVC_SRC_LEVEL 209 true s
    (occurCore 209 { s1 with evc := { s1.evc with lvEff := s1.evc.lvEff ||| (1 <<< 209 : BitVec 256) } }).1

/-- Add `n` to a counter (R487, R491, R492). -/
def bump (i n : Nat) (s : State) : State :=
  let r := bumpCore i n s
  if r.2 then ovfRise r.1 else r.1

/-- One occurrence of an event source (R471). -/
def occur (id : Nat) (s : State) : State :=
  let r := occurCore id s
  if r.2 then ovfRise r.1 else r.1

/-- Drive the level of a level source (R471, R473, R479, R480). A rise is an occurrence; a fall reaches the controller
at the end of the mask window, or at once in the direct configuration. -/
def setLevel (id : Nat) (b : Bool) (s : State) : State :=
  if !srcPresent s.variant id then s
  else if bankBit s EVC_SRC_LEVEL id == b then s
  else if b then
    if srcInert s id then s
    else
      let s1 := setBank EVC_SRC_LEVEL id true s
      occur id { s1 with evc := { s1.evc with lvEff := s1.evc.lvEff ||| (1 <<< id : BitVec 256) } }
  else
    let s1 := setBank EVC_SRC_LEVEL id false s
    if unitBit s.variant 39 then
      setBank EVC_PEND id (s.evc.sw.getLsbD id)
        { s1 with evc := { s1.evc with lvEff := s1.evc.lvEff &&& ~~~ (1 <<< id : BitVec 256),
                                       inflight := s1.evc.inflight &&& ~~~ (1 <<< id : BitVec 256) } }
    else { s1 with evc := { s1.evc with windowOpen := true } }

/-- An occurrence of a source that is raised once per TSU second. -/
def raiseOnce (id : Nat) (s : State) : State :=
  if mapGet (fun _ => 0) s.evc.once id = nowSec s + 1 then s
  else occur id { s with evc := { s.evc with once := mapSet (fun _ => 0) id (nowSec s + 1) s.evc.once } }

-- Cairn log ------------------------------------------------------------------------------------------------------

/-- Severities of R499. -/
def sevInfo : Nat := 0
def sevNotice : Nat := 1
def sevWarning : Nat := 2
def sevError : Nat := 3
def sevCritical : Nat := 4

/-- The link is up: a lane is up and the session is open (R382). -/
def linkUp (s : State) : Bool :=
  s.pair.sessionOpen && (fbit s PAIR_STATUS PAIR_STATUS_LANE0_UP || fbit s PAIR_STATUS PAIR_STATUS_LANE1_UP)

/-- The nonce of a Belay record: 32 zero bits, then the record counter (R383). -/
def belayNonce (ctr : Nat) : List Byte := beBytes 12 (ctr % 2 ^ 64)

/-- Send a Belay record, sealed under the key of its direction (R383, R385); its type is associated data. -/
def belaySend (type : Nat) (body : List Byte) (s : State) : State :=
  if linkUp s then
    let n := s.pair.ctrTx
    let box := gcmSeal s.pair.keyTx (belayNonce n) [BitVec.ofNat 8 type] body
    { s with pair := { s.pair with ctrTx := n + 1 }, out := .belay type n box :: s.out }
  else s

/-- The 32 bytes of an entry (R499). -/
def cairnEntry (t unit orig sev cls detail : Nat) (args : List Byte) : List Byte :=
  leBytes 6 (gtSec t) ++ leBytes 4 (gtNs t)
    ++ [BitVec.ofNat 8 unit, BitVec.ofNat 8 orig, BitVec.ofNat 8 sev, 0, BitVec.ofNat 8 detail, BitVec.ofNat 8 cls]
    ++ (args ++ zeros 16).take 16

/-- Write an entry into the ring and advance HEAD (R501); CAIRN_ALERT under R503. -/
def cairnStore (sev : Nat) (e : List Byte) (s : State) : State :=
  let h := fget s CNT_CAIRN_HEAD CNT_CAIRN_HEAD_HEAD
  let s1 := fset CNT_CAIRN_HEAD CNT_CAIRN_HEAD_HEAD (h + 1) (stBytes (0x78000000 + 32 * (h % 4096)) e s)
  if fget s CNT_CAIRN_CFG CNT_CAIRN_CFG_IRQ_MIN ≤ sev then occur 212 s1 else s1

/-- Write and mirror an entry that no burst rule holds back (R502, R503). -/
def cairnForce (unit sev cls detail : Nat) (args : List Byte) (s : State) : State :=
  if !fabRuns s then s
  else
    let e := cairnEntry (gtNow s) unit 0 sev cls detail args
    let s1 := cairnStore sev e s
    if fget s CNT_CAIRN_CFG CNT_CAIRN_CFG_MIRROR_MIN ≤ sev then belaySend 0x15 e s1 else s1

/-- Make an entry at once (R502): beyond BURST entries in a TSU second, entries below WARNING are only counted. -/
def cairn (unit sev cls detail : Nat) (args : List Byte) (s : State) : State :=
  let n := if s.cnt.burstSec = nowSec s then s.cnt.burst else 0
  if fget s CNT_CAIRN_CFG CNT_CAIRN_CFG_BURST < n ∧ sev < sevWarning then
    fset CNT_CAIRN_HEAD CNT_CAIRN_HEAD_SUPPRESSED
      (satF CNT_CAIRN_HEAD_SUPPRESSED (fget s CNT_CAIRN_HEAD CNT_CAIRN_HEAD_SUPPRESSED + 1))
      { s with cnt := { s.cnt with suppressed := s.cnt.suppressed + 1, burstSec := nowSec s, burst := n } }
  else cairnForce unit sev cls detail args { s with cnt := { s.cnt with burstSec := nowSec s, burst := n + 1 } }

/-- UNIT of an address (R499): bits 23 to 16 of its block's base; a memory window (R521) takes the block whose memory it
shows. -/
def unitOf (addr : Nat) : Nat :=
  if 0x100000 ≤ addr ∧ addr < 0x180000 then 0x10 + (addr - 0x100000) / 0x10000
  else match addr / 0x1000000 with
  | 0x10 | 0x20 | 0x21 | 0x50 | 0x51 => 0x20
  | 0x40 => 0x50
  | 0x60 => 0x06
  | 0x70 | 0x78 => 0x80
  | _ => addr / 0x10000 % 256

/-- A WRITE_IGNORED entry (R500): detail 1 RULE, 2 ROLE, 3 RWL, 4 READ_ONLY. -/
def writeIgnored (addr : Nat) (v : Word) (detail : Nat) (s : State) : State :=
  cairn (unitOf addr) sevNotice 0x01 detail (leBytes 4 addr ++ zeros 4 ++ leBytes 8 v.toNat) s

/-- A STATE entry (R500). -/
def cairnState (unit sev inst old new cause value : Nat) (s : State) : State :=
  cairn unit sev 0x04 (new % 256) (leBytes 2 inst ++ leBytes 2 old ++ leBytes 2 new ++ leBytes 2 cause ++ leBytes 8 value) s

/-- A FAULT entry (R500). -/
def cairnFault (unit sev detail : Nat) (args : List Byte) (s : State) : State := cairn unit sev 0x08 detail args s

/-- Count a key in an aggregate list: the first five numbers identify it; later ones stay those of the first occurrence. -/
def aggAdd (key : List Nat) (n ns : Nat) : List (List Nat × Nat × Nat) → List (List Nat × Nat × Nat)
  | [] => [(key, n, ns)]
  | (k, m, f) :: r => if k.take 5 = key.take 5 then (k, m + n, f) :: r else (k, m, f) :: aggAdd key n ns r

/-- Count one condition that is aggregated per TSU second (R502). The key is class, unit, severity, detail and key number;
for a TRAP the engine, context and Pitch index of the first one follow (R151). -/
def cairnAgg (key : List Nat) (s : State) : State :=
  { s with cnt := { s.cnt with agg := aggAdd key 1 (gtNs (gtNow s)) s.cnt.agg } }

-- Draws ----------------------------------------------------------------------------------------------------------

/-- A free value of `bits` bits and the state in which the next one is another draw. -/
def draw (bits : Nat) (s : State) : Nat × State :=
  (Config.draw s.fresh % 2 ^ bits, { s with fresh := s.fresh + 1 })

-- Output ---------------------------------------------------------------------------------------------------------

/-- Something leaves the device. -/
def emitOut (o : Out) (s : State) : State := { s with out := o :: s.out }

/-- Fold an operation over a list of indices. -/
def forEach (xs : List Nat) (f : Nat → State → State) (s : State) : State := xs.foldl (fun a x => f x a) s

/-- What a register's rules say of a write before it is made: accepted; accepted without effect; or refused with a
WRITE_IGNORED detail (R500), a Harness status (R442) and a state code (R449). -/
inductive Verdict where
  | ok
  | silent
  | refuse (detail status state : Nat)
  deriving DecidableEq, Repr

/-- Refused by the register's own rule, answered RANGE (R451, R527). -/
def vRange : Verdict := .refuse 1 9 0

/-- Refused by the register's own rule, answered STATE_REFUSED with a state code. -/
def vState (code : Nat) : Verdict := .refuse 1 7 code

/-- First verdict that is not `ok`. -/
def Verdict_and : Verdict → Verdict → Verdict
  | .ok, b => b
  | a, _ => a

/-- Is the initiator a control core, that is, the firmware? -/
def isCore : Initiator → Bool
  | .core _ => true
  | _ => false

/-- The device holds itself in reset (R422), or has no clock (R436). -/
def heldInReset (s : State) : Bool := !s.start.pwrGood || s.start.poresetLow || s.start.warmLow || s.start.dark

/-- A command whose effect is `f`; while the device holds itself in reset nothing happens (R422). -/
def run (f : State → State) (s : State) : Res := if heldInReset s then .next s else .next (f s)

/-- A command about a numbered unit: nothing happens where the number names none. -/
def runIf (b : Bool) (f : State → State) (s : State) : Res := run (fun a => if b then f a else a) s

end Sys2Proof.Machine
end

