-- ==== Sys2Proof/Machine/Ecc.lean ====
section
/-!
DEFINITION. Machine/Ecc.lean: memories and error correction (R457 to R469): reads and writes of protected words, the domain
logs, the scrubber, retirement and injection.
-/
namespace Sys2Proof.Machine
open Sys2Proof

/-- ECC domain and word address of a window address (R457, R521). -/
def eccWord (a : Nat) : Option (Nat × Nat) :=
  if 0x10000000 ≤ a ∧ a < 0x10200000 then some (0, (a - 0x10000000) / 32)
  else if 0x20000000 ≤ a ∧ a < 0x21800000 then some (1, (a - 0x20000000) / 8)
  else if 0x30000000 ≤ a ∧ a < 0x31000000 then some (3, (a - 0x30000000) / 8)
  else if 0x40000000 ≤ a ∧ a < 0x40080000 then some (6, (a - 0x40000000) / 8)
  else if 0x50000000 ≤ a ∧ a < 0x52000000 then some (2, (a - 0x50000000) / 8)
  else if 0x60000000 ≤ a ∧ a < 0x60600000 then some (8, (a - 0x60000000) / 8)
  else if 0x70000000 ≤ a ∧ a < 0x70030000 then some (10, (a - 0x70000000) / 8)
  else if 0x78000000 ≤ a ∧ a < 0x78020000 then some (11, (a - 0x78000000) / 8)
  else none

/-- What is wrong with a word: zero nothing, else 1 + BIT_A × 256 + BIT_B. -/
def eccBad (s : State) (d w : Nat) : Nat := mapGet (fun _ => 0) s.ecc.bad (d * 2 ^ 32 + w)

/-- Is the word uncorrectable: two different bits flipped? -/
def eccUe (bad : Nat) : Bool := bad ≠ 0 && (bad - 1) / 256 != (bad - 1) % 256

def eccMark (d w bad : Nat) (s : State) : State :=
  { s with ecc := { s.ecc with bad := mapSet (fun _ => 0) (d * 2 ^ 32 + w) bad s.ecc.bad } }

/-- A log entry. -/
def eccEntry (s : State) (d i : Nat) : Option EccEntry := mapGet (fun _ => none) s.ecc.log (d * 16 + i)
def eccEntrySet (d i : Nat) (e : Option EccEntry) (s : State) : State :=
  { s with ecc := { s.ecc with log := mapSet (fun _ => none) (d * 16 + i) e s.ecc.log } }

/-- The entry that holds an address. -/
def eccFind (s : State) (d w : Nat) : Option Nat :=
  (List.range 16).find? (fun i => match eccEntry s d i with | some e => decide (e.addr = w) | none => false)

/-- The entry a new address takes: a free one, else the least repeated that is not PERSISTENT, the oldest of these (R460). -/
def eccVictim (s : State) (d : Nat) : Option Nat :=
  match (List.range 16).find? (fun i => (eccEntry s d i).isNone) with
  | some i => some i
  | none =>
    ((List.range 16).foldl (fun (b : Option (Nat × EccEntry)) i => match eccEntry s d i with
      | none => b
      | some e =>
        if e.pers then b
        else match b with
          | none => some (i, e)
          | some (_, f) => if e.rep < f.rep ∨ (e.rep = f.rep ∧ e.last < f.last) then some (i, e) else b) none).map (·.1)

/-- SPARE_EXHAUSTED and its level (R463, R467). -/
def spareOut (d : Nat) (s : State) : State :=
  setLevel EV_ECC_SPARE_EXHAUSTED true
    (fset ECC_STATUS ECC_STATUS_SPARE_EXHAUSTED (fget s ECC_STATUS ECC_STATUS_SPARE_EXHAUSTED ||| 2 ^ d) s)

/-- An entry has become PERSISTENT: its row is to be retired where a spare is free (R463). -/
def eccPersist (d i : Nat) (e : EccEntry) (s : State) : State :=
  let free := decide (fget s (ECC_ED_SPARE d) ECC_ED_SPARE_USED < fget s (ECC_ED_SPARE d) ECC_ED_SPARE_TOTAL)
  let s1 := eccEntrySet d i (some { e with pers := true, copying := free }) s
  let s2 := cairnFault 0x90 sevWarning d (leBytes 4 e.addr ++ leBytes 4 e.rep) (raiseOnce EV_ECC_PERSIST s1)
  if free then s2 else spareOut d s2

/-- Log one error at a word (R460, R463). -/
def eccLog (d w bad : Nat) (s : State) : State :=
  let ue := eccUe bad
  let syn := Config.eccSyndrome d ((bad - 1) / 256) ((bad - 1) % 256) % 1024
  let now := nowSec32 s
  match eccFind s d w with
  | some i => match eccEntry s d i with
    | none => s
    | some e =>
      let e1 := { e with rep := min (e.rep + 1) 65535, last := now, ue := e.ue || ue, syn := syn,
                         after := if e.wb ∧ !ue then min (e.after + 1) 15 else e.after }
      if !e.pers ∧ fget s ECC_CTL ECC_CTL_PERSIST_THRESH ≤ e1.after then eccPersist d i e1 s
      else eccEntrySet d i (some e1) s
  | none => match eccVictim s d with
    | some i =>
      eccEntrySet d i (some { addr := w, syn := syn, ue := ue, pers := false, copying := false, retired := false, rep := 1,
                              wb := false, after := 0, first := now, last := now }) s
    | none =>
      setLevel EV_ECC_LOG_FULL true
        (fset ECC_STATUS ECC_STATUS_LOG_FULL (fget s ECC_STATUS ECC_STATUS_LOG_FULL ||| 2 ^ d) s)

/-- A read meets a word: whether it is uncorrectable, and the counts and log (R459, R465). -/
def eccRead (d w : Nat) (s : State) : Bool × State :=
  let b := eccBad s d w
  if b = 0 then (false, s)
  else if eccUe b then
    (true, eccLog d w b (raiseOnce EV_ECC_UE (bump (UC_ECC_UE d) 1
      (fset ECC_STATUS ECC_STATUS_UE_SEEN (fget s ECC_STATUS ECC_STATUS_UE_SEEN ||| 2 ^ d) s))))
  else (false, eccLog d w b (raiseOnce EV_ECC_CE (bump (UC_ECC_CE d) 1 s)))

/-- A word is written: its error is gone, an armed injection for it takes effect, and an entry sees its write-back
(R462, R463, R469). -/
def eccWrite (d w : Nat) (s : State) : State :=
  let s1 := if eccBad s d w = 0 then s else eccMark d w 0 s
  let s2 := match eccFind s1 d w with
    | some i => match eccEntry s1 d i with
      | some e => eccEntrySet d i (some { e with wb := true }) s1
      | none => s1
    | none => s1
  if fbit s2 ECC_INJECT ECC_INJECT_ARMED ∧ fget s2 ECC_INJECT ECC_INJECT_DOMAIN = d ∧ fget s2 ECC_INJECT ECC_INJECT_ADDR = w then
    wr ECC_INJECT 0 (eccMark d w (1 + fget s2 ECC_INJECT ECC_INJECT_BIT_A * 256 + fget s2 ECC_INJECT ECC_INJECT_BIT_B) s2)
  else s2

/-- No word is bad, no entry is held and no injection waits. -/
def eccQuiet (s : State) : Bool := s.ecc.bad.isEmpty && s.ecc.log.isEmpty && !fbit s ECC_INJECT ECC_INJECT_ARMED

/-- The word addresses under `n` bytes from a window address, 8 bytes apart. -/
def eccSpan (a n : Nat) : List Nat := (List.range ((a % 8 + n + 7) / 8)).map (fun i => a / 8 * 8 + 8 * i)

/-- Write window bytes with their codewords. -/
def putMem (a : Nat) (bs : List Byte) (s : State) : State :=
  let s1 := stBytes a bs s
  if eccQuiet s1 then s1
  else forEach (eccSpan a bs.length) (fun x b => match eccWord x with | some (d, w) => eccWrite d w b | none => b) s1

/-- Meet the words of a read; the flag says that one is uncorrectable. -/
def touchMem (a n : Nat) (s : State) : Bool × State :=
  if s.ecc.bad.isEmpty then (false, s)
  else (eccSpan a n).foldl (fun (acc : Bool × State) x => match eccWord x with
    | some (d, w) => let r := eccRead d w acc.2; (acc.1 || r.1, r.2)
    | none => acc) (false, s)

/-- Where the other copy of a key-store word lies: a free value, another word (R466). -/
def keyTwin (w : Nat) : Nat := let x := Config.keyTwin w % 2 ^ 30; if x = w then w + 1 else x

theorem keyTwin_ne (w : Nat) : keyTwin w ≠ w := by unfold keyTwin; dsimp only; split <;> omega

/-- The ED9 words of key `k`, in the copy that is read first (R466). Keys 0 to 63 are the master key slots, 64 to 67 the private keys of the
NTS-KE identities, 68 on the Harness key slots; where they lie is a free value (log entry 174). -/
def keyWords (k : Nat) : List Nat :=
  (List.range (if k < 64 then 8 else if k < 68 then 64 else 4)).map (fun i => Config.keyWord k i % 2 ^ 30)

/-- Key `k` is written: both copies of its words. -/
def keyPut (k : Nat) (s : State) : State :=
  if eccQuiet s then s else forEach (keyWords k) (fun w a => eccWrite 9 (keyTwin w) (eccWrite 9 w a)) s

/-- A read of a key-store word (R466): where its first copy is uncorrectable and the other is not, the other is taken and the first rewritten,
as a correction; the flag says that both are uncorrectable. -/
def keyWordMeet (w : Nat) (s : State) : Bool × State :=
  if !eccUe (eccBad s 9 w) then (false, (eccRead 9 w s).2)
  else if eccUe (eccBad s 9 (keyTwin w)) then (true, (eccRead 9 (keyTwin w) (eccRead 9 w s).2).2)
  else (false, eccWrite 9 w (eccLog 9 w 1 (raiseOnce EV_ECC_CE (bump (UC_ECC_CE 9) 1 (eccRead 9 (keyTwin w) s).2))))

/-- A consumer reads key `k`; the flag says that it is to be treated as absent (R466). -/
def keyMeet (k : Nat) (s : State) : Bool × State :=
  if s.ecc.bad.isEmpty then (false, s)
  else (keyWords k).foldl (fun (r : Bool × State) w => let m := keyWordMeet w r.2; (r.1 || m.1, m.2)) (false, s)

/-- Key `k` is lost to two uncorrectable copies, which makes a Cairn entry (R466). -/
def keyGone (k : Nat) (s : State) : State := cairnFault 0x90 sevError 9 (leBytes 4 k) s

/-- Checks of a write to an ECC register (R469). -/
def eccCheck (a : Nat) (v : Word) (s : State) : Verdict :=
  if a = ECC_INJECT ∧ (getF ECC_INJECT_ARM v = 0 ∨ fbit s ECC_INJECT ECC_INJECT_ARMED ∨ 12 ≤ getF ECC_INJECT_DOMAIN v) then
    (if getF ECC_INJECT_ARM v = 0 then .silent else vRange)
  else if a = ECC_LOG_SEL ∧ 12 ≤ getF ECC_LOG_SEL_DOMAIN v then vRange
  else if a = ECC_LOG_CLR ∧ 12 ≤ getF ECC_LOG_CLR_DOMAIN v then vRange
  else .ok

/-- Arm an injection (R469). -/
def eccArm (v : Word) (s : State) : State :=
  wr ECC_INJECT (setF ECC_INJECT_ARMED 1 (setF ECC_INJECT_ARM 0 v)) s

/-- Free the entries of a domain's log that are neither PERSISTENT nor RETIRED (R460). -/
def eccClear (d : Nat) (s : State) : State :=
  forEach (List.range 16) (fun i a => match eccEntry a d i with
    | some e => if e.pers || e.retired then a else eccEntrySet d i none a
    | none => a) s

/-- The effect of an accepted write to an ECC register; none where the plain storing is all there is. -/
def eccApply (a : Nat) (v : Word) (s : State) : Option State :=
  if a = ECC_INJECT then some (eccArm v s)
  else if a = ECC_LOG_CLR then some (if getF ECC_LOG_CLR_GO v ≠ 0 then eccClear (getF ECC_LOG_CLR_DOMAIN v) s else s)
  else if a = ECC_STATUS then
    let s1 := wr a (rd s a &&& ~~~ (v &&& (maskF ECC_STATUS_LOG_FULL ||| maskF ECC_STATUS_UE_SEEN))) s
    some (setLevel EV_ECC_LOG_FULL (decide (fget s1 a ECC_STATUS_LOG_FULL ≠ 0)) s1)
  else none

/-- The log registers show the entry that ECC_LOG_SEL names. -/
def eccView (s : State) (a : Nat) : Option Word :=
  if a = ECC_LOG_ADDR ∨ a = ECC_LOG_INFO ∨ a = ECC_LOG_LAST then
    match eccEntry s (fget s ECC_LOG_SEL ECC_LOG_SEL_DOMAIN) (fget s ECC_LOG_SEL ECC_LOG_SEL_ENTRY) with
    | none => some 0
    | some e =>
      let b := fun (x : Bool) => if x then 1 else 0
      some (if a = ECC_LOG_ADDR then
          setF ECC_LOG_ADDR_ADDR e.addr (setF ECC_LOG_ADDR_SYNDROME e.syn (setF ECC_LOG_ADDR_VALID 1
            (setF ECC_LOG_ADDR_UE (b e.ue) (setF ECC_LOG_ADDR_PERSISTENT (b e.pers) (setF ECC_LOG_ADDR_RETIRED (b e.retired) 0)))))
        else if a = ECC_LOG_INFO then
          setF ECC_LOG_INFO_REPEAT e.rep (setF ECC_LOG_INFO_AFTER_WB e.after (setF ECC_LOG_INFO_FIRST e.first 0))
        else setF ECC_LOG_LAST_LAST e.last 0)
  else none

/-- The scrubber reads the next valid word (R461, R462, R465, R466): `w` is its address. A word at or below the last one
begins a new lap. -/
def scrub (d w : Nat) (s : State) : State :=
  if 12 ≤ d ∨ !fbit s ECC_CTL ECC_CTL_SCRUB_EN then s
  else
    let prev := mapGet (fun _ => 0) s.ecc.scrubAt d
    let t0 := mapGet (fun _ => 0) s.ecc.lapStart d
    let s0 : State := { s with ecc := { s.ecc with scrubAt := mapSet (fun _ => 0) d (w + 1) s.ecc.scrubAt } }
    let s1 :=
      if prev = 0 then { s0 with ecc := { s0.ecc with lapStart := mapSet (fun _ => 0) d (gtNow s) s0.ecc.lapStart } }
      else if w < prev then
        let dur := gtNow s - t0
        let s2 : State := { s0 with ecc := { s0.ecc with lapStart := mapSet (fun _ => 0) d (gtNow s) s0.ecc.lapStart } }
        let s3 := fset (ECC_ED_LAP d) ECC_ED_LAP_LAP_MS (min (dur / ns32 1000000) (2 ^ 32 - 1))
          (fset (ECC_ED_LAP d) ECC_ED_LAP_LAPS (fget s2 (ECC_ED_LAP d) ECC_ED_LAP_LAPS + 1) s2)
        if fget s ECC_SCRUB_CTL ECC_SCRUB_CTL_LAP_MAX_S * gtSecond < dur then raiseOnce EV_ECC_SCRUB_SLOW s3 else s3
      else s0
    let b := eccBad s1 d w
    if b = 0 then s1
    else if d = 9 ∧ eccUe b then (keyWordMeet w s1).2
    else if eccUe b then (eccRead d w s1).2
    else eccWrite d w (eccRead d w s1).2

/-- A row has been copied to its spare (R463). -/
def retireDone (d i : Nat) (s : State) : State :=
  match eccEntry s d i with
  | none => s
  | some e =>
    if !e.copying then s
    else
      let s1 := eccEntrySet d i (some { e with copying := false, retired := true }) s
      let s2 := fset (ECC_ED_SPARE d) ECC_ED_SPARE_USED (fget s1 (ECC_ED_SPARE d) ECC_ED_SPARE_USED + 1) s1
      raiseOnce EV_ECC_RETIRED (bump (UC_ECC_RETIRE d) 1 (eccMark d e.addr 0 s2))

/-- SCRUB_READ (R461). -/
def execScrubRead (domain word : Nat) (s : State) : Res := run (scrub domain word) s

/-- ROW_RETIRE_COMPLETE (R463). -/
def execRowRetireComplete (domain entry : Nat) (s : State) : Res := run (retireDone domain entry) s

end Sys2Proof.Machine
end

