-- ==== Sys2Proof/Machine/Tsu.lean ====
section
/-!
DEFINITION. Machine/Tsu.lean: the time scale (R39 to R62): its tick, its rate, slews, the initial set, readout, leaps and
the conversions to NTP and PTP.
-/
namespace Sys2Proof.Machine
open Sys2Proof

/-- Range limit of the steering value (R42). -/
def freqLimit : Int := 2 ^ 39 - 1

/-- INC_NOM × (1 + adj × 10^-15) in 2^-72 ns, truncated toward zero (R40); `nom` is in 2^-48 ns. -/
def incOf (nom : Nat) (adj : Int) : Nat := ((nom : Int) * 2 ^ 24 * (10 ^ 15 + adj) / 10 ^ 15).toNat

/-- The slew rate in ns/s that RATE and LIMIT give (R44). -/
def slewRate (s : State) : Nat :=
  let r := fget s TSU_SLEW_RATE TSU_SLEW_RATE_RATE
  let l := fget s TSU_SLEW_LIMIT TSU_SLEW_LIMIT_LIMIT
  if r = 0 then l else min r l

/-- SLEW_TERM in units of 10^-15 (R40, R44). -/
def slewTerm (s : State) : Int :=
  if s.tsu.slewRemain = 0 then 0
  else if s.tsu.slewRemain < 0 then -((slewRate s * 1000000 : Nat) : Int) else ((slewRate s * 1000000 : Nat) : Int)

/-- The steering value in force when the sum saturates (R42). -/
def clampAdj (x : Int) : Int := if x < -freqLimit then -freqLimit else if freqLimit < x then freqLimit else x

/-- Round a quotient to the nearest integer, ties up. -/
def divRound (n : Int) (d : Nat) : Int := (2 * n + d) / (2 * (d : Int))

/-- Note a change of the slew part that a tick adds; eight changes are kept. -/
def slewNote (part : Int) (s : State) : State :=
  let x := s.tsu
  let was := match x.slews with | r :: _ => r.2.1 | [] => 0
  if was = part then s
  else { s with tsu := { x with slews := (gtNow s, part, x.inc) :: x.slews.take 7 } }

/-- Increment added on a tick, slew included, in 2^-72 ns. -/
def incNow (s : State) : Nat := ((s.tsu.inc : Int) + s.tsu.slewTick).toNat

def gateReset (_ : Nat) : GatePort := { origin := 0, am := 0, lastEnd := 0, deficit := 0, cal := [], free := [], reports := [] }

/-- The grid is carried on where the increment changes from `old` to `new` (R157): root edges later than the tick that was to read `was` and reads
`is` are converted with the new one, and LAT_TX is added as it stands. -/
def gateCarry (was is : Int) (old new : Nat) (s : State) : State :=
  forEach (s.gate.map (·.1)) (fun p a =>
    let g := mapGet gateReset a.gate p
    let at_ : Int := is + (fget s (PORT_CAL_TX p) PORT_CAL_TX_LAT_TX : Int) * 2 ^ 56
    { a with gate := mapSet gateReset p { g with origin := at_ + (g.origin - (at_ - is + was)) * new / old } a.gate }) s

/-- Slew applied between two instants, the later one given first with the changes before it, in 2^-32 ns. -/
def slewBetween (hi lo : Nat) : List (Nat × Int × Nat) → Int
  | [] => 0
  | (at_, st, inc) :: r =>
    if hi ≤ lo then 0
    else divRound (((hi - max at_ lo : Nat) : Int) * st) ((inc : Int) + st).toNat + slewBetween (min hi at_) lo r

/-- A new effective increment takes effect at the TSU (R23, R40, R42, R44). -/
def incrementEdge (s : State) : State :=
  let f := fint s TSU_FREQ_ADJ TSU_FREQ_ADJ_FREQ_ADJ
  let sum := f + slewTerm s
  let nom := fget s TSU_INC_NOM TSU_INC_NOM_INC_NOM
  let full := incOf nom (clampAdj sum)
  let base := incOf nom (clampAdj f)
  let sat := decide (clampAdj sum ≠ sum)
  let s1 : State := { s with tsu := { s.tsu with inc := base, slewTick := (full : Int) - base, eff := full, incPending := false } }
  let s2 := wr TSU_INC_EFF (BitVec.ofNat 64 (full / 2 ^ 16)) (slewNote s1.tsu.slewTick s1)
  let s3 := fsetB TSU_STATE TSU_STATE_SLEWING (decide (s.tsu.slewRemain ≠ 0)) s2
  setLevel EV_TSU_ADJ_SAT sat (fsetB TSU_STATE TSU_STATE_ADJ_SAT sat s3)

/-- The rate has been changed and waits for its edge (R23). -/
def incWaits (s : State) : State := { s with tsu := { s.tsu with incPending := true } }

/-- A change of TSU_FREQ_ADJ by an allowed writer (R30, R42). -/
def setFreqAdj (v : Int) (s : State) : State := incWaits (fsetI TSU_FREQ_ADJ TSU_FREQ_ADJ_FREQ_ADJ (clampAdj v) s)

/-- Units of 2^-16 ns in units of 2^-72 ns. -/
def slewUnit : Int := 2 ^ 56

/-- Show the remaining slew (TSU_SLEW_REMAIN, 2^-16 ns). -/
def showRemain (s : State) : State :=
  wr TSU_SLEW_REMAIN (BitVec.ofInt 64 (Int.tdiv s.tsu.slewRemain slewUnit)) s

/-- The end of a slew (R44, R63): nothing remains to be added. The tick that ended it was to read `was`; TSU_INC_EFF leaves its slew part on
the edge of R23. -/
def slewEnd (was : Int) (s : State) : State :=
  let s0 := gateCarry was s.tsu.now (incNow s) s.tsu.inc s
  let s1 := slewNote 0 { s0 with tsu := { s0.tsu with slewRemain := 0, slewTick := 0 } }
  occur EV_TSU_SLEW_DONE (incWaits (fsetB TSU_STATE TSU_STATE_SLEWING false (showRemain s1)))

/-- Add an amount in 2^-16 ns to the slew still to apply (R43); a total of zero ends the slew (R63). DESIGN CHOICE (log entry 113): the total is not bounded, and
TSU_SLEW_REMAIN shows it modulo 2^64; the spec does not say what a total beyond a signed 64-bit register does. -/
def slewAdd (amount : Int) (s : State) : State :=
  let total := s.tsu.slewRemain + amount * slewUnit
  if total = 0 ∧ s.tsu.slewRemain ≠ 0 then slewEnd s.tsu.now s
  else incWaits (showRemain { s with tsu := { s.tsu with slewRemain := total } })

/-- Firmware cancels the remaining slew (R334, R350): a request of the negative of what remains (R43, R44). -/
def slewCancel (s : State) : State := if s.tsu.slewRemain = 0 then s else slewEnd s.tsu.now s

/-- The device time wraps after 2^64 seconds. -/
def tsuModulus : Nat := 2 ^ 64 * 10 ^ 9 * 2 ^ 72

/-- Move the device time by a signed amount of 2^-72 ns. -/
def tsuAdvance (d : Int) (s : State) : State :=
  { s with tsu := { s.tsu with now := (((s.tsu.now : Int) + d) % (tsuModulus : Int)).toNat } }

/-- One TSC tick (R40, R44). -/
def tsuTick (s0 : State) : State :=
  let s : State := { s0 with tsu := { s0.tsu with xo := s0.tsu.xo + fget s0 TSU_INC_NOM TSU_INC_NOM_INC_NOM } }
  if s.tsu.slewTick = 0 ∨ s.tsu.slewRemain = 0 then tsuAdvance s.tsu.inc s
  else if s.tsu.slewTick.natAbs < s.tsu.slewRemain.natAbs then
    showRemain (tsuAdvance ((s.tsu.inc : Int) + s.tsu.slewTick)
      { s with tsu := { s.tsu with slewRemain := s.tsu.slewRemain - s.tsu.slewTick } })
  else slewEnd (s.tsu.now + incNow s) (tsuAdvance ((s.tsu.inc : Int) + s.tsu.slewRemain) s)

/-- The tick that brings a slew to its end: what remains is no more than the slew part of one tick (R44). -/
def tsuSlewDone (s : State) : State :=
  if fbit s TSU_STATE TSU_STATE_SLEWING ∧ s.tsu.slewRemain ≠ 0 ∧ s.tsu.slewTick ≠ 0 ∧ s.tsu.slewRemain.natAbs ≤ s.tsu.slewTick.natAbs then
    tsuTick s else s

/-- Difference of a local counter from the TSU in ticks (R24), by its bit of TSU_DIST_STATUS. -/
def distOf (s : State) (pt : Nat) : Int := mapGet (fun _ => (0 : Int)) s.tsu.dist pt

/-- The time a local counter shows, 2^-32 ns (R24). -/
def localNow (s : State) (pt : Nat) : Nat := (((s.tsu.now : Int) + distOf s pt * incNow s) / 2 ^ 40).toNat

/-- A local counter is loaded from the TSU (R24, R25). -/
def localLoad (pt : Nat) (s : State) : State :=
  { s with tsu := { s.tsu with dist := mapSet (fun _ => (0 : Int)) pt 0 s.tsu.dist, reload := mapSet (fun _ => 0) pt 0 s.tsu.reload } }

/-- Every local counter is loaded from the TSU (R24, R49). -/
def localLoadAll (s : State) : State := { s with tsu := { s.tsu with dist := [], reload := [] } }

/-- The bound in ns as it reads (R46, R62). -/
def boundNs (s : State) : Nat :=
  let b := (s.tsu.errFs + 999999) / 1000000
  if !fbit s TSU_STATE TSU_STATE_STATE ∨ 0xFFFFFFFE < b then 0xFFFFFFFF else b

/-- Write base (fs) and growth rate (ps/s) of the bound together (R62, R355); `free` is the base without the J of a refused jump (R317). -/
def setBounds (fs free rate : Nat) (s : State) : State :=
  let s1 : State := { s with tsu := { s.tsu with errFs := fs, freeFs := free } }
  fset TSU_ERR_BOUND TSU_ERR_BOUND_BOUND (boundNs s1)
    (fset TSU_ERR_RATE TSU_ERR_RATE_RATE (satF TSU_ERR_RATE_RATE rate) s1)

/-- A base into which no J enters. -/
def setBound (fs rate : Nat) (s : State) : State := setBounds fs fs rate s

/-- Growth on a 1 ms compare tick (R62): TSU_ERR_RATE fs. -/
def boundGrow (s : State) : State :=
  let r := fget s TSU_ERR_RATE TSU_ERR_RATE_RATE
  setBounds (s.tsu.errFs + r) (s.tsu.freeFs + r) r s

/-- The bound without J in ns, as it is read (R46, R316). -/
def freeNs (s : State) : Nat := if fbit s TSU_STATE TSU_STATE_STATE then min 0xFFFFFFFF ((s.tsu.freeFs + 999999) / 1000000) else 0xFFFFFFFF

/-- The bound of a TSU second is noted on the compare tick that meets it (R316). -/
def boundNote (s : State) : State :=
  if nowSec s = s.tsu.secAt then s else { s with tsu := { s.tsu with secAt := nowSec s, secErr := freeNs s } }

/-- Checks of a write to a TSU register (R30, R41, R42, R43, R51, R57). DESIGN CHOICE (log entry 114): a write of TSU_SET_CTL whose ARM is
ignored, for NS above 999,999,999 too, is ignored as a whole, EDGE and PIN included. -/
def tsuCheck (i : Initiator) (a : Nat) (v : Word) (s : State) : Verdict :=
  let free := decide (fget s SERVO_STATE SERVO_STATE_STATE = 0)
  if a = TSU_INC_NOM then
    let n := getF TSU_INC_NOM_INC_NOM v
    if 624375 * 2 ^ 48 ≤ n * 1000000 ∧ n * 1000000 ≤ 625625 * 2 ^ 48 then .ok else vRange
  else if a = TSU_FREQ_ADJ then
    if sgn 40 (getF TSU_FREQ_ADJ_FREQ_ADJ v) < -freqLimit then vRange
    else if isCore i || free then .ok else vState 3
  else if a = TSU_SLEW_REQ then
    if !fbit s TSU_STATE TSU_STATE_STATE then vState 2
    else if isCore i || free then .ok else vState 3
  else if a = TSU_SET_CTL then
    let arm := getF TSU_SET_CTL_ARM v ≠ 0
    let cancel := getF TSU_SET_CTL_CANCEL v ≠ 0
    if arm ∧ cancel then vRange
    else if arm ∧ (fbit s TSU_STATE TSU_STATE_SET_ARMED ∨ fbit s TSU_STATE TSU_STATE_STATE) then vState 1
    else if arm ∧ 999999999 < getF TSU_SET_SUB_NS (rdI s i TSU_SET_SUB) then vRange
    else .ok
  else if a = TSU_LEAP_PENDING then
    let p := getF TSU_LEAP_PENDING_PENDING v
    if p ≠ 0 ∧ (rd s TSU_LEAP_SEC).toNat < nowSec s + 2 then vRange else .ok
  else .ok

/-- What a refused write of TSU_INC_NOM does besides its Cairn entry (R41). -/
def tsuRefused (a : Nat) (s : State) : State :=
  if a = TSU_INC_NOM then occur EV_TSU_INC_RANGE (fsetB TSU_STATE TSU_STATE_INC_RANGE true s) else s

/-- Arm the initial set (R47, R48). -/
def setArm (v bound : Nat) (refin : Bool) (pin : Nat) (s : State) : State :=
  fsetB TSU_STATE TSU_STATE_SET_ARMED true
    { s with tsu := { s.tsu with setV := v, setBound := bound, setRefin := refin, setPin := pin, setOff := none, armFab := true } }

/-- Disarm a set (R48, R51); the servo may arm again. -/
def setDisarm (s : State) : State :=
  fsetB TSU_STATE TSU_STATE_SET_ARMED false { s with servo := { s.servo with armed := false } }

/-- SMEAR_ACTIVE (R58): some profile's view is not asked; the window of a pending leap is open. -/
def smearStart (s : State) : Nat := max ((rd s TSU_LEAP_SEC).toNat - 86400) s.tsu.leapArm

/-- Refresh SMEAR_ACTIVE: the TSU lies within the smear window (R58). -/
def smearRefresh (s : State) : State :=
  fsetB TSU_STATE TSU_STATE_SMEAR_ACTIVE
    (decide (fget s TSU_LEAP_PENDING TSU_LEAP_PENDING_PENDING ≠ 0 ∧ smearStart s ≤ nowSec s
      ∧ nowSec s < (rd s TSU_LEAP_SEC).toNat)) s

/-- The UTC offset or the leap state has changed: a LEADER journals it (R391). -/
def journalState (s : State) : State :=
  if fget s PAIR_STATUS PAIR_STATUS_ROLE = 1 ∧ linkUp s then
    let n := s.pair.jTx + 1
    let s1 : State := { s with pair := { s.pair with jTx := n } }
    let s2 := fset PAIR_JSEQ PAIR_JSEQ_TX n (bump (UC_PAIR 2) 1 s1)
    belaySend 0x10 (leBytes 8 n ++ leBytes 2 (rd s TSU_UTC_OFFSET).toNat ++ leBytes 1 (rd s TSU_LEAP_PENDING).toNat
      ++ leBytes 8 (rd s TSU_LEAP_SEC).toNat) s2
  else s

/-- A write of TSU_LEAP_PENDING that its rule accepts (R57): schedule or cancel. The SEC at which a leap was armed (R58) is that of the write; a
later set edge leaves it as it stands (DESIGN CHOICE, log entry 139). -/
def leapPendingSet (p : Nat) (s : State) : State :=
  let s1 := fset TSU_LEAP_PENDING TSU_LEAP_PENDING_PENDING p s
  journalState (smearRefresh { s1 with tsu := { s1.tsu with leapArm := if p = 0 then 0 else nowSec s } })

/-- The leap is applied (R55). -/
def leapApply (s : State) : State :=
  let p := fint s TSU_LEAP_PENDING TSU_LEAP_PENDING_PENDING
  if p = 0 then s
  else
    let s1 := fsetI TSU_UTC_OFFSET TSU_UTC_OFFSET_OFFSET (fint s TSU_UTC_OFFSET TSU_UTC_OFFSET_OFFSET + p) s
    let s2 : State := { s1 with tsu := { s1.tsu with lastLeapSec := (rd s TSU_LEAP_SEC).toNat, lastLeapStep := p } }
    occur EV_TSU_LEAP_DONE (journalState (smearRefresh (fset TSU_LEAP_PENDING TSU_LEAP_PENDING_PENDING 0 s2)))

/-- The effect of an accepted write to a TSU register; `none` where the plain storing is all there is. -/
def tsuApply (i : Initiator) (a : Nat) (v : Word) (s : State) : Option State :=
  if a = TSU_INC_NOM then some (incWaits (fset a TSU_INC_NOM_INC_NOM (getF TSU_INC_NOM_INC_NOM v) s))
  else if a = TSU_FREQ_ADJ then some (incWaits (fset a TSU_FREQ_ADJ_FREQ_ADJ (getF TSU_FREQ_ADJ_FREQ_ADJ v) s))
  else if a = TSU_SLEW_LIMIT then some (incWaits (fset a TSU_SLEW_LIMIT_LIMIT (getF TSU_SLEW_LIMIT_LIMIT v) s))
  else if a = TSU_SLEW_RATE then some (incWaits (fset a TSU_SLEW_RATE_RATE (getF TSU_SLEW_RATE_RATE v) s))
  else if a = TSU_SLEW_REQ then some (slewAdd v.toInt s)
  else if a = TSU_SET_SEC ∨ a = TSU_SET_SUB then some (wrI i a v s)
  else if a = TSU_SET_BOUND then some (wrI i a (setF TSU_SET_BOUND_BOUND (getF TSU_SET_BOUND_BOUND v) 0) s)
  else if a = TSU_SET_CTL then
    let s1 := wrI i a (setF TSU_SET_CTL_EDGE (getF TSU_SET_CTL_EDGE v) (setF TSU_SET_CTL_PIN (getF TSU_SET_CTL_PIN v) 0)) s
    if getF TSU_SET_CTL_ARM v ≠ 0 then
      some (setArm (gtOf (rdI s i TSU_SET_SEC).toNat (rdI s i TSU_SET_SUB).toNat)
        (getF TSU_SET_BOUND_BOUND (rdI s i TSU_SET_BOUND)) (decide (getF TSU_SET_CTL_EDGE v ≠ 0)) (getF TSU_SET_CTL_PIN v) s1)
    else if getF TSU_SET_CTL_CANCEL v ≠ 0 then some (if fbit s TSU_STATE TSU_STATE_SET_ARMED then setDisarm s1 else s)
    else some s1
  else if a = TSU_LEAP_PENDING then some (leapPendingSet (getF TSU_LEAP_PENDING_PENDING v) s)
  else if a = TSU_UTC_OFFSET then some (journalState (fset a TSU_UTC_OFFSET_OFFSET (getF TSU_UTC_OFFSET_OFFSET v) s))
  else if a = TSU_LEAP_SEC then some (journalState (smearRefresh (wr a v s)))
  else none

/-- Status word of a capture (R54, TSU_CAP_STATUS). -/
def capStatus (s : State) : Word :=
  setF TSU_CAP_STATUS_BOUND (boundNs s) (setF TSU_CAP_STATUS_UTC_OFFSET (fget s TSU_UTC_OFFSET TSU_UTC_OFFSET_OFFSET)
    (setF TSU_CAP_STATUS_LEAP (fget s TSU_LEAP_PENDING TSU_LEAP_PENDING_PENDING)
      (setF TSU_CAP_STATUS_STATE (fget s TSU_STATE TSU_STATE_STATE)
        (setF TSU_CAP_STATUS_SLEWING (fget s TSU_STATE TSU_STATE_SLEWING) 0))))

/-- The low word of a capture: NS and FRAC. -/
def capLo (s : State) : Word := BitVec.ofNat 64 (gtSub (gtNow s))

/-- The high word of a capture: SEC. -/
def capHi (s : State) : Word := BitVec.ofNat 64 (nowSec s)

/-- A read of TSU_NOW_LO by an initiator captures the TSU state into its shadow (R53). -/
def tsuCapture (i : Initiator) (s : State) : State :=
  wrI i TSU_NOW_HI (capHi s) (wrI i TSU_CAP_STATUS (capStatus s) (wrI i TSU_NOW_LO (capLo s) s))

-- Conversions ----------------------------------------------------------------------------------------------------

/-- UTC offset that applies to a time's own SEC (R55, R56). -/
def utcOffsetAt (s : State) (sec : Nat) : Int :=
  let o := fint s TSU_UTC_OFFSET TSU_UTC_OFFSET_OFFSET
  let p := fint s TSU_LEAP_PENDING TSU_LEAP_PENDING_PENDING
  if p ≠ 0 ∧ (rd s TSU_LEAP_SEC).toNat ≤ sec then o + p
  else if sec < s.tsu.lastLeapSec then o - s.tsu.lastLeapStep else o

/-- Smear term L × (t − S) / (LEAP_SEC − S) in units of 2^-64 s for a time in 2^-32 ns (R58); zero outside the window. -/
def smearTerm (s : State) (t : Nat) : Int :=
  let ls := (rd s TSU_LEAP_SEC).toNat
  let st := smearStart s
  let p := fint s TSU_LEAP_PENDING TSU_LEAP_PENDING_PENDING
  if p ≠ 0 ∧ st * gtSecond ≤ t ∧ t < ls * gtSecond then
    divRound (p * ((t : Int) - st * gtSecond) * 2 ^ 64) (gtSecond * (ls - st))
  else 0

/-- NTP64: seconds since 1900 and fraction as one count of 2^-32 s, era included (R59); with the smear term of R58. -/
def ntpCount (s : State) (smear : Bool) (t : Nat) : Int :=
  let n : Int := (gtSec t : Int) - utcOffsetAt s (gtSec t) + 2208988800
  if smear then
    -- exact value in 2^-64 s is not an integer multiple: the smear term is first rounded to 2^-64 s, then one rounding
    let sub : Int := (t % gtSecond : Nat)
    n * 2 ^ 32 + divRound (sub * 2 ^ 64 - smearTerm s t * gtSecond) (gtSecond * 2 ^ 32)
  else n * 2 ^ 32 + divRound ((t % gtSecond : Nat) : Int) 1000000000

/-- The 64-bit NTP timestamp (R59). -/
def ntp64 (s : State) (smear : Bool) (t : Nat) : Nat := (ntpCount s smear t % (2 ^ 64 : Int)).toNat

/-- The NTP short format of a time (R60). -/
def ntp32 (s : State) (smear : Bool) (t : Nat) : Nat :=
  (divRound (ntpCount s smear t) (2 ^ 16) % (2 ^ 32 : Int)).toNat

/-- PTP seconds field (R61). -/
def ptpSec (t : Nat) : Nat := gtSec t % 2 ^ 48

/-- Sub-nanosecond part in units of 2^-16 ns, ties up (R61). -/
def ptpSubNs (t : Nat) : Nat := (gtFrac t * 2 + 2 ^ 16) / 2 ^ 17

end Sys2Proof.Machine
end

