-- ==== Sys2Proof/Machine/Quality.lean ====
section
/-!
DEFINITION. Machine/Quality.lean: the declared quality (R182 to R185, R248 to R250, R357): every indication is computed from
one reading of the error bound.
-/
namespace Sys2Proof.Machine
open Sys2Proof

/-- The followed or last followed slot (SERVO_STATE.SLOT); 31 none. -/
def followed (s : State) : Nat := fget s SERVO_STATE SERVO_STATE_SLOT

/-- The servo state (R344). -/
def servoSt (s : State) : Nat := fget s SERVO_STATE SERVO_STATE_STATE

/-- Is the device UNSET? -/
def tsuUnset (s : State) : Bool := !fbit s TSU_STATE TSU_STATE_STATE

/-- Is the bound unbounded (R62)? -/
def unbounded (s : State) : Bool := boundNs s == 0xFFFFFFFF

/-- Does the bound alone declare profile `k` unsynchronised (R182)? -/
def ntpLost (s : State) (k : Nat) : Bool :=
  tsuUnset s || unbounded s || decide (fget s (SVC_NTP_PROF k) SVC_NTP_PROF_UNSYNC_BOUND < boundNs s)

/-- Stratum of the followed slot (R182). -/
def slotStratum (s : State) (k : Nat) : Nat :=
  let n := followed s
  if n = 31 then fget s (SVC_NTP_PROF k) SVC_NTP_PROF_FREE_STRATUM
  else if n = 17 then (if 15 < s.pair.twinStratum + 1 then 16 else s.pair.twinStratum + 1)
  else if 9 ≤ n ∧ n ≤ 16 then 2 else 1

/-- Does profile `k` declare the device unsynchronised (R182)? -/
def ntpUnsync (s : State) (k : Nat) : Bool :=
  ntpLost s k || (decide (followed s = 31) && decide (fget s (SVC_NTP_PROF k) SVC_NTP_PROF_FREE_STRATUM = 16))

/-- Stratum declared (R182). -/
def ntpStratum (s : State) (k : Nat) : Nat := if ntpUnsync s k then 16 else slotStratum s k

/-- LI declared (R182, R185). -/
def ntpLi (s : State) (k : Nat) : Nat :=
  let p := fint s TSU_LEAP_PENDING TSU_LEAP_PENDING_PENDING
  let ls := (rd s TSU_LEAP_SEC).toNat
  if ntpUnsync s k then 3
  else if fbit s (SVC_NTP_PROF k) SVC_NTP_PROF_SMEAR then 0
  else if p ≠ 0 ∧ ls ≤ nowSec s + 86400 ∧ nowSec s < ls then (if 0 < p then 1 else 2) else 0

/-- ns in NTP short units of 2^-16 s, rounded up, saturating (R183). -/
def ntpShort (ns : Nat) : Nat := min ((ns * 65536 + 999999999) / 1000000000) 0xFFFFFFFF

/-- Root delay (R183). -/
def ntpRootDelay (s : State) : Nat :=
  let n := followed s
  if tsuUnset s ∨ !(decide (9 ≤ n) && decide (n ≤ 17)) then 0 else ntpShort s.servo.rootDelay

/-- Root dispersion (R183). -/
def ntpRootDisp (s : State) : Nat := if unbounded s then 0xFFFFFFFF else max 1 (ntpShort (boundNs s))

/-- Within a smear window (R58)? -/
def smearOpen (s : State) : Bool :=
  decide (fget s TSU_LEAP_PENDING TSU_LEAP_PENDING_PENDING ≠ 0) && decide (smearStart s ≤ nowSec s)
    && decide (nowSec s < (rd s TSU_LEAP_SEC).toNat)

/-- Text of a reference ID. -/
def refText (x : String) : Nat := beNat ((ascii x ++ zeros 4).take 4)

/-- Reference ID (R183). DESIGN CHOICE (log entry 147): 0 for a packet upstream without an IP address, as over Ethernet; the rule names IPv4 and
IPv6 upstreams. -/
def ntpRefId (s : State) (k : Nat) : Nat :=
  let n := followed s
  if tsuUnset s then refText "INIT"
  else if smearOpen s ∧ fbit s (SVC_NTP_PROF k) SVC_NTP_PROF_SMEAR then refText "SMER"
  else if n = 31 then refText "FREE"
  else if n = 8 then refText "GNSS"
  else if n < 8 then
    (if fget s (REFS_SLOT_INPUT n) REFS_SLOT_INPUT_SIGNAL = 2 then refText "FREQ" else refText "PPS")
  else if n = 17 then refText "TWIN"
  else if 18 ≤ n then refText "TOD"
  else match mapGet (fun _ => none) s.refUp n with
    | none => 0
    | some (false, a) => a % 2 ^ 32
    | some (true, a) => beNat ((md5 (beBytes 16 a)).take 4)

/-- Profile `k` of an instance is one of G.8275.x (R229). -/
def isG8275 (s : State) (k : Nat) : Bool :=
  let p := fget s (PTP_DOM k) PTP_DOM_PROFILE
  decide (p = 3) || decide (p = 4)

/-- Is the followed reference a packet upstream, the Leader's for the twin (R249)? -/
def packetRef (s : State) : Bool :=
  let n := followed s
  (decide (9 ≤ n) && decide (n ≤ 16)) || (decide (n = 17) && decide (s.pair.twinKind = 1))

/-- The class of a grandmaster for the bound (R249). -/
def gmClass (s : State) (k : Nat) : Nat :=
  let b := boundNs s
  let g := isG8275 s k
  let lim := fun (f : Fld) => 10 * fget s (PTP_QPROF k) f
  if servoSt s = 2 ∧ b ≤ lim PTP_QPROF_T1 then 6
  else if b ≤ lim PTP_QPROF_T2 then 7
  else if b ≤ lim PTP_QPROF_T3 then (if g then 140 else 52)
  else if b ≤ lim PTP_QPROF_T4 then (if g then 150 else 52)
  else if g then 160 else 187

/-- clockClass of instance `k` (R249). -/
def ptpClass (s : State) (k : Nat) : Nat :=
  let b := boundNs s
  let g := isG8275 s k
  if tsuUnset s ∨ unbounded s ∨ followed s = 31 then 248
  else if packetRef s then
    if servoSt s = 2 then max (fget s PTP_UPSTREAM_Q PTP_UPSTREAM_Q_CLASS) (gmClass s k)
    else if b ≤ 10 * fget s (PTP_QPROF k) PTP_QPROF_T2 then (if g then 135 else 7)
    else if g then 165 else 187
  else gmClass s k

/-- Limits of the clockAccuracy codes from 0x1D, in 0.5 ns. -/
def accLimits : List Nat :=
  [2, 5, 20, 50, 200, 500, 2000, 5000, 20000, 50000, 200000, 500000, 2000000, 5000000, 20000000, 50000000, 200000000,
   500000000, 2000000000, 20000000000]

/-- The smallest clockAccuracy code whose limit is at least `b` ns (R250). -/
def accCode (b : Nat) : Nat := 0x1D + accLimits.countP (fun l => decide (l < 2 * b))

/-- clockAccuracy of instance `k` (R250). -/
def ptpAccuracy (s : State) (k : Nat) : Nat :=
  if isG8275 s k then (if ptpClass s k = 6 then 0x21 else 0xFE)
  else if unbounded s then 0xFE else accCode (boundNs s)

/-- round(512 × log2(b / (2 × 10^9))), ties up. -/
def logVar (b : Nat) : Int :=
  let k : Nat := 40000
  let l : Int := (Nat.log2 (b ^ 1024 * 2 ^ k / 2000000000 ^ 1024) : Int) - (k : Int)
  (l + 1) / 2

/-- offsetScaledLogVariance of instance `k` (R250). -/
def ptpVariance (s : State) (k : Nat) : Nat :=
  if isG8275 s k then (if ptpClass s k = 6 then 0x4E5D else 0xFFFF)
  else if unbounded s then 0xFFFF
  else if boundNs s = 0 then 0
  else
    let v := 0x8000 + logVar (boundNs s)
    if v < 0 then 0 else if 0xFFFE < v then 0xFFFE else v.toNat

/-- ceil(log2 B) of the ToD message; 0xFF unbounded (R340, R357). -/
def boundLog2 (s : State) : Nat :=
  if unbounded s then 0xFF else if boundNs s ≤ 1 then 0 else Nat.log2 (boundNs s - 1) + 1

end Sys2Proof.Machine
end

