-- ==== Sys2Proof/Machine/Gate.lean ====
section
/-!
DEFINITION. Machine/Gate.lean: the departure gate (R154 to R174): the launch grid, spacing, slots, commitment, release,
withholding and free emission.
-/
namespace Sys2Proof.Machine
open Sys2Proof

-- Ports and lanes ------------------------------------------------------------------------------------------------

/-- Mode of the lane group of port or lane `p` (R64). -/
def groupMode (s : State) (p : Nat) : Nat := fget s (PORT_MODE (4 * (p / 4))) PORT_MODE_GROUP_MODE

/-- 25GBASE-R without FEC (FEC25). -/
def noFec25 (s : State) (p : Nat) : Bool := fbit s (PORT_MODE (4 * (p / 4))) PORT_MODE_FEC25

/-- Is lane `p` fitted (R2)? -/
def laneFitted (s : State) (p : Nat) : Bool := decide (p < 8) && unitBit s.variant p

/-- The port that carries lane `l` (R64, R65). -/
def lanePort (s : State) (l : Nat) : Nat := if groupMode s l = 5 then 4 * (l / 4) else l

/-- The lanes of port `p`. -/
def portLanes (s : State) (p : Nat) : List Nat := if groupMode s p = 5 then [p, p + 1, p + 2, p + 3] else [p]

/-- Is `p` a port of its own, not one whose registers only hold a lane's calibration (R65)? -/
def portLive (s : State) (p : Nat) : Bool := laneFitted s p && decide (lanePort s p = p)

/-- A lane or port with nothing begun. -/
def portReset (_ : Nat) : PortState :=
  { stopRx := false, powered := false, calTx := false, calRx := false, txOk := false, rxOk := false, txAdj := 0, rxAdj := 0, rxPrev := 0, rxAt := 0,
    txWait := [], rxWait := [], rateOut := false, lock := false, lost := false, rfOut := false, txRej := 0, rxRej := 0, fecSec := 0,
    fecSym := 0, ueSec := 0, fecAl := 0 }

def portOf (s : State) (p : Nat) : PortState := mapGet portReset s.ports p
def portSet (p : Nat) (x : PortState) (s : State) : State := { s with ports := mapSet portReset p x s.ports }

/-- Is a stamp point in HOLD (R25)? Points are numbered by their bit of TSU_DIST_STATUS. -/
def inHold (s : State) (pt : Nat) : Bool := (rd s TSU_DIST_STATUS).getLsbD pt

/-- The device enters, is in or leaves Rest (R82 to R85). -/
def resting (s : State) : Bool := decide (phase s = 5) || decide (s.start.rest ≠ 0)

/-- In Rest, and from its start on, the lanes are not powered or calibrated anew (R82, R83). -/
def restHalt (s : State) : Bool := (decide (phase s = 5) && decide (s.start.rest ≠ 3)) || decide (s.start.rest = 1)

-- The grid -------------------------------------------------------------------------------------------------------

def gateOf (s : State) (p : Nat) : GatePort := mapGet gateReset s.gate p

/-- Nominal bit time of a mode as a fraction of ns: numerator, denominator (R64). -/
def uiNum (m : Nat) : Nat := if m = 1 then 16 else if m = 2 then 32 else if m = 3 then 8 else 4
def uiDen (m : Nat) : Nat := if m = 1 then 165 else if m = 2 then 825 else 425

/-- pos of block b′ of an ordinary RS codeword (R156). -/
def posRs (b : Nat) : Nat := 257 * (b / 4) + 1 + 64 * (b % 4)

/-- Codewords from one that carries an alignment-marker group to the next, and the 257-bit groups its markers take (R156). PRESUMED (log entry
115) for 50GBASE-R and 400GBASE-R: the marker placement of IEEE 802.3; in 400GBASE-R the unit is a pair of codewords. -/
def amOf (m : Nat) : Nat × Nat := if m = 4 then (4096, 5) else if m = 5 then (4096, 8) else (1024, 1)

/-- Blocks of a codeword without markers; in 400GBASE-R of two interleaved ones (R154). -/
def cwBlocks (m : Nat) : Nat := if m = 5 then 160 else 80

/-- Codeword of block `q` of an RS(544,514) stream of `n` blocks to a codeword, its block number there, and the groups of markers before its
blocks (R156). -/
def codeword (n span groups am q : Nat) : Nat × Nat × Nat :=
  if q < n * am then (q / n, q % n, 0)
  else
    let r := q - n * am
    let c := am + span * (r / (n * span - 4 * groups))
    let r' := r % (n * span - 4 * groups)
    if r' < n - 4 * groups then (c, r', groups) else (c + 1 + (r' - (n - 4 * groups)) / n, (r' - (n - 4 * groups)) % n, 0)

/-- Where bit `b` of a 50GBASE-R codeword stands on the lane (R156): its symbols go to two FEC lanes in turn, whose bits the PMA multiplexes.
PRESUMED (log entry 115). -/
def pos50 (b : Nat) : Nat := 20 * (b / 20) + 2 * (b % 10) + (b / 10 + Config.pmaPlace 3 0) % 2

/-- PCS lane of bit `b` of two interleaved 400GBASE-R codewords, and where it stands there (R156): symbols go to the codewords in turn, and
groups of eight of each to the 16 PCS lanes, with the codewords exchanged from one group to the next. PRESUMED (log entry 115). -/
def pcs400 (b : Nat) : Nat × Nat :=
  let i := b / 20
  ((2 * (i % 8) + (b / 10 + i / 8) % 2), 10 * (i / 8) + b % 10)

/-- Physical lane of bit `b` of two 400GBASE-R codewords, and where it stands on it (R156). -/
def pos400 (b : Nat) : Nat × Nat :=
  let x := pcs400 b
  let w := Config.pmaPlace 5 x.1 % 16
  (w / 4, 4 * x.2 + w % 4)

/-- Bits from bit 0 of the reference codeword to the timestamp point in block `q` of the port's stream (R156). Positions
number the 66-bit blocks; those of parity and markers are skipped. In 400GBASE-R the bits are those of the physical lane. -/
def gridBits (m : Nat) (noFec : Bool) (am q : Nat) : Nat :=
  let w := codeword (cwBlocks m) (amOf m).1 (amOf m).2 am q
  let b := 257 * w.2.2 + posRs w.2.1
  match m with
  | 2 => if noFec then 66 * q + 2 else 5280 * (q / 80) + posRs (q % 80)
  | 3 => 5440 * w.1 + pos50 b
  | 4 => 5440 * w.1 + b
  | 5 => 2720 * w.1 + (pos400 b).2
  | _ => 66 * q + 2

/-- The lane of a port that carries the point in block `q`, from the port's first (R156). -/
def gridLane (m am q : Nat) : Nat :=
  if m = 5 then
    let w := codeword (cwBlocks m) (amOf m).1 (amOf m).2 am q
    (pos400 (257 * w.2.2 + posRs w.2.1)).1
  else 0

/-- A block position whose point lies no later than `bits` bits after the origin, and close below. -/
def gridBelow (m : Nat) (noFec : Bool) (am bits : Nat) : Nat :=
  let rs := fun (c : Nat) => cwBlocks m * c - 4 * (amOf m).2 * ((c + ((amOf m).1 - 1) - am) / (amOf m).1) - 2
  match m with
  | 2 => if noFec then bits / 66 - 2 else 80 * (bits / 5280) - 2
  | 3 => rs (bits / 5440 - 1)
  | 4 => rs (bits / 5440)
  | 5 => rs (bits / 2720 - 1)
  | _ => bits / 66 - 2

/-- Nominal increment in 2^-72 ns. -/
def incNom (s : State) : Nat := fget s TSU_INC_NOM TSU_INC_NOM_INC_NOM * 2 ^ 24

/-- A delay in ps as 2^-72 ns. -/
def ps72 (x : Int) : Int := divRound (x * 2 ^ 72) 1000

/-- Planned plane crossing of the point of a frame started in block `q`, in 2^-32 ns (R157). -/
def crossing (s : State) (p q : Nat) : Nat :=
  let m := groupMode s p
  let g := gateOf s p
  let bits := gridBits m (noFec25 s p) g.am (q + 1)
  let run : Nat := bits * uiNum m * 2 ^ 72 * incNow s / (uiDen m * incNom s)
  let lane := gridLane m g.am (q + 1)
  let skew : Int := ((fget s (PORT_CAL_TX (p + lane)) PORT_CAL_TX_LAT_TX : Int) - fget s (PORT_CAL_TX p) PORT_CAL_TX_LAT_TX)
    * 2 ^ 56
  (divRound (g.origin + (run : Int) + skew + ps72 (portOf s p).txAdj) (2 ^ 40)).toNat

/-- A position from which the search for a crossing at or after `t` may begin. -/
def searchFrom (s : State) (p t : Nat) : Nat :=
  let m := groupMode s p
  let g := gateOf s p
  let d : Int := (t : Int) * 2 ^ 40 - g.origin - ps72 (portOf s p).txAdj
  gridBelow m (noFec25 s p) g.am (d.toNat * uiDen m * incNom s / (uiNum m * 2 ^ 72 * incNow s))

/-- Nominal pitch of the launch grid in 2^-16 ns, rounded (R154). -/
def gridPitch (m : Nat) : Nat :=
  match m with
  | 1 => 419430
  | 2 => 167772
  | 3 => 83886
  | 4 => 41943
  | 5 => 10486
  | _ => 0

/-- Bits per codeword and lane; zero without FEC. -/
def cwBits (m : Nat) (noFec : Bool) : Nat :=
  match m with
  | 2 => if noFec then 0 else 5280
  | 3 => 5440
  | 4 => 5440
  | 5 => 1360
  | _ => 0

-- Calendar -------------------------------------------------------------------------------------------------------

/-- Bytes a frame of `l` bytes puts after its start block: padded, with FCS (R70, R160). -/
def wireBytes (l : Nat) : Nat := max l 60 + 4

/-- Blocks of a frame of `n` wire bytes: the start block and those that carry its bytes (R160). -/
def blocksOf (n : Nat) : Nat := 1 + (n + 7) / 8

/-- The deficit rule over frames in transmission order: the deficit after the last, none where one is too near (R160). -/
def spacing (endPrev d : Nat) : List (Nat × Nat) → Option Nat
  | [] => some d
  | (q, n) :: r =>
    if 8 * q < endPrev + 5 + d then none
    else spacing (8 * (q + 1) + n) (d + 12 - (8 * q - endPrev)) r

/-- Frames that are to leave: withheld bookings, and slots whose deadline has passed, leave their blocks idle (R167). -/
def liveOf (cal : List Booking) : List (Nat × Nat) := (cal.filter (fun b => b.cause = 0 ∧ b.st ≠ 4)).map (fun b => (b.q, b.n))

/-- Insert into a list in rising position. -/
def insertPos (x : Nat × Nat) : List (Nat × Nat) → List (Nat × Nat)
  | [] => [x]
  | y :: r => if x.1 ≤ y.1 then x :: y :: r else y :: insertPos x r

/-- Insert a booking in rising position. -/
def insertBooking (b : Booking) : List Booking → List Booking
  | [] => [b]
  | y :: r => if b.q ≤ y.q then b :: y :: r else y :: insertBooking b r

/-- The deficit D at the last committed frame. -/
def deficitShown (g : GatePort) : Nat :=
  let live := g.cal.filter (fun b => b.cause = 0 ∧ b.st ≠ 4)
  let last := live.foldl (fun a b => if b.st = 2 ∨ b.st = 3 then b.q else a) 0
  (spacing g.lastEnd g.deficit ((live.filter (fun b => b.q ≤ last)).map (fun b => (b.q, b.n)))).getD g.deficit

/-- Store a port's gate state and what its registers show of it (GATE_PORTn_PLAN, GATE_PORTn_FILL). -/
def gateSet (p : Nat) (g : GatePort) (s : State) : State :=
  let s1 : State := { s with gate := mapSet gateReset p g s.gate }
  let n := min g.cal.length 511
  let f := min g.free.length 511
  fset (GATE_PORT_PLAN p) GATE_PORT_PLAN_DEFICIT (deficitShown g)
    (fmax (GATE_PORT_FILL p) GATE_PORT_FILL_PENDING_HWM n
      (fmax (GATE_PORT_FILL p) GATE_PORT_FILL_FREE_Q_HWM f
        (fset (GATE_PORT_FILL p) GATE_PORT_FILL_PENDING n (fset (GATE_PORT_FILL p) GATE_PORT_FILL_FREE_Q f s1))))

/-- Blocks of [q, q+b) inside segment `sg` of 1,024 positions. DESIGN CHOICE (log entry 116): segments begin at the multiples of 1,024,
counted from the reference block of the last transmit calibration; the spec does not say where they begin. -/
def segOverlap (q b sg : Nat) : Nat := min (q + b) (1024 * (sg + 1)) - max q (1024 * sg)

/-- The reserve of R163 for class 1 to 3: a booking counts until its blocks are freed (R166, R167). -/
def reserveOk (s : State) (p q n : Nat) : Bool :=
  let cap := 1024 * (100 - fget s GATE_SHARE GATE_SHARE_CAL_PTP_SHARE) / 100
  let cal := (gateOf s p).cal
  (List.range ((q + blocksOf n - 1) / 1024 + 1 - q / 1024)).all (fun i =>
    let sg := q / 1024 + i
    decide (crossing s p (1024 * sg) ≤ gtNow s + ns32 2000)
    || decide (cal.foldl (fun a b => if b.shared then a + segOverlap b.q (blocksOf b.n) sg else a)
        (segOverlap q (blocksOf n) sg) ≤ cap))

/-- Are the blocks of a frame of `n` wire bytes at `q` free of every booking (R161)? A slot that is withheld, or whose deadline has passed,
holds its blocks until it is freed (R166, R167). -/
def blocksFree (cal : List Booking) (q n : Nat) : Bool :=
  cal.all (fun b => decide (q + blocksOf n ≤ b.q) || decide (b.q + blocksOf b.n ≤ q))

/-- May a frame of `n` wire bytes start in block `q` (R160, R163)? -/
def placeOk (s : State) (p q n : Nat) (shared : Bool) : Bool :=
  let g := gateOf s p
  blocksFree g.cal q n && (spacing g.lastEnd g.deficit (insertPos (q, n) (liveOf g.cal))).isSome && (!shared || reserveOk s p q n)

/-- The earliest position from `q` whose crossing lies in [lo, hi] and that `ok` accepts. Crossings rise but for the differences of the lanes
of one port, which stay far below 64 ns. -/
def findPos (s : State) (p lo hi : Nat) (ok : Nat → Bool) : Nat → Nat → Option (Nat × Nat)
  | 0, _ => none
  | fuel + 1, q =>
    let t := crossing s p q
    if hi + ns32 64 < t then none
    else if lo ≤ t ∧ t ≤ hi ∧ ok q then some (q, t)
    else findPos s p lo hi ok fuel (q + 1)

/-- The calendar's length in positions (R154). -/
def horizon : Nat := 262144

/-- May the gate grant or place on the port (R80, R161, R171)? -/
def portReady (s : State) (p : Nat) : Bool :=
  portLive s p && fbit s (PORT_MODE p) PORT_MODE_ENABLE && fbit s (PORT_STATUS p) PORT_STATUS_LINK
    && fbit s (PORT_STATUS p) PORT_STATUS_TX_CAL_VALID && !inHold s p && !resting s

/-- Instant of the ingress stamp in a descriptor (R92). -/
def descIn (d : List Byte) : Nat := gtOf (leAt d 0 8) (leAt d 8 8)

/-- A field of CLASS: the class, REPROC (R92). -/
def descClass (d : List Byte) : Nat := leAt d 24 1 % 4
def descReproc (d : List Byte) : Bool := decide (leAt d 24 1 / 16 % 2 = 1)

/-- Class for the gate: Trailhead 9 runs count as class 0 (R140). -/
def gateClass (d : List Byte) : Nat := if leAt d 23 1 % 16 = 9 then 0 else descClass d

/-- A refused slot request (R161, R173). -/
def slotRefused (p cls j : Nat) (s : State) : State :=
  let s1 := bump (EC_GATE p j) 1 s
  if cls = 0 then raiseOnce EV_GATE_PTP_REFUSED s1
  else if j = jREFUSE_FULL then raiseOnce EV_GATE_REFUSE_FULL s1 else s1

/-- Book the position found for a slot request, or refuse it (R161, R164). -/
def slotBook (p cls ec len : Nat) (s : State) : Option (Nat × Nat) → Option (Nat × Nat) × State
  | none => (none, slotRefused p cls jREFUSE_FULL s)
  | some (q, t) =>
    let g := gateOf s p
    let b : Booking := { q := q, n := wireBytes len, t := t, setup := fget s GATE_SETUP GATE_SETUP_SETUP,
                         shared := decide (1 ≤ cls), st := 0, ctx := ec, len := len, cause := 0, revoked := false, frame := none }
    (some (q, t), bump (EC_GATE p (jGRANT cls)) 1 (gateSet p { g with cal := insertBooking b g.cal } s))

/-- A slot request of context `ec` (R161): the position and instant granted, if any. -/
def slotRequest (p cls ec inT lead win len : Nat) (s : State) : Option (Nat × Nat) × State :=
  if !portReady s p then (none, slotRefused p cls jREFUSE_PORT s)
  else if lead < 400 ∨ 30000 < lead ∨ 10000 < win ∨ len = 0 ∨ 2048 < len
      ∨ fget s (PORT_MAC_CTL p) PORT_MAC_CTL_MAX_FRAME < len + 4 then
    (none, slotRefused p cls jREFUSE_RANGE s)
  else
    let setup := fget s GATE_SETUP GATE_SETUP_SETUP
    let n := wireBytes len
    let shared := decide (1 ≤ cls)
    let lo := inT + ns32 lead
    let hi := inT + ns32 (lead + win)
    let ok := fun q => decide (gtNow s + ns32 setup < crossing s p q) && placeOk s p q n shared
    slotBook p cls ec len s (findPos s p lo hi ok horizon (searchFrom s p lo))

/-- The booking a context holds: its position, and not yet emitted. -/
def heldBy (ec q : Nat) (b : Booking) : Bool := decide (b.ctx = ec) && decide (b.q = q) && (decide (b.st = 0) || decide (b.st = 4))

/-- Release a slot that a run gives up (R99, R140). -/
def slotRelease (p q ec : Nat) (s : State) : State :=
  let g := gateOf s p
  gateSet p { g with cal := g.cal.filter (fun b => !heldBy ec q b) } s

-- Frame buffer and reprocessing ----------------------------------------------------------------------------------

/-- The frame buffer gives up a frame (R104). -/
def frameFree (d : List Byte) (s : State) : State :=
  { s with pe := { s.pe with frames := mapSet (fun _ => 0) (leAt d 16 4) 0 s.pe.frames } }

/-- Redispatch ahead of every queued descriptor of the class, with REPROC = 1 (R104). -/
def redispatch (d : List Byte) (old : Bool) (s : State) : State :=
  let k := 40 + descClass d
  let d' := putBytes (d.take 64) 24 [BitVec.ofNat 8 (leAt d 24 1 ||| 16)]
  { s with pe := { s.pe with q := mapSet (fun _ => []) k ((d', gtNow s, old) :: mapGet (fun _ => []) s.pe.q k) s.pe.q } }

/-- The gate is done with a frame it will not send again. -/
def frameDone (f : GFrame) (s : State) : State := if f.keep then frameFree f.desc s else s

/-- A frame the gate does not release, under its cause (R169, R173); `launch`: it was a LAUNCH frame. -/
def withhold (p cause : Nat) (launch : Bool) (f : GFrame) (s : State) : State :=
  let s1 : State :=
    if f.report then gateSet p { gateOf s p with reports := (gateOf s p).reports ++ [(f.desc, none)] } s else s
  match cause with
  | 1 => frameDone f (raiseOnce EV_GATE_DOWN_DISCARD (bump (EC_GATE p jDOWN_DISCARD) 1 s1))
  | 2 => frameDone f (raiseOnce EV_GATE_HELD (bump (EC_GATE p jHELD) 1 s1))
  | 3 => frameDone f (raiseOnce EV_GATE_HELD (bump (EC_GATE p jHELD) 1 s1))
  | _ =>
    let s2 := if cause = 4 then bump (EC_GATE p jREVOKED) 1 s1
      else raiseOnce EV_GATE_MISSED_LAUNCH (bump (EC_GATE p jMISSED_LAUNCH) 1 s1)
    if launch ∧ fbit s2 GATE_CTL GATE_CTL_REPROC ∧ !descReproc f.desc ∧ f.keep then redispatch f.desc f.old s2
    else frameDone f s2

/-- A cause reaches a booking: a frame is withheld at once, a slot without one remembers its first cause in the order of
R169. GATE_REVOKED is raised when the slot is revoked (R173). Answers the booking that stays, if any. -/
def strike (p cause : Nat) (b : Booking) (s : State) : Option Booking × State :=
  let s1 := if cause = 4 ∧ !b.revoked then raiseOnce EV_GATE_REVOKED s else s
  match b.frame with
  | some f => (none, withhold p cause (decide (b.st < 3)) f s1)
  | none => (some { b with cause := if b.cause = 0 then cause else min b.cause cause, revoked := b.revoked || decide (cause = 4) }, s1)

/-- A cause reaches every booking of a port that `sel` picks. -/
def strikePort (p cause : Nat) (sel : Booking → Bool) (s : State) : State :=
  let r := (gateOf s p).cal.foldl (fun (acc : List Booking × State) b =>
    if sel b then
      let x := strike p cause b acc.2
      (match x.1 with | some b' => acc.1 ++ [b'] | none => acc.1, x.2)
    else (acc.1 ++ [b], acc.2)) ([], s)
  gateSet p { gateOf r.2 p with cal := r.1 } r.2

/-- The port whose ingress stamp a descriptor carries (R25, R92): none for an injected frame. DESIGN CHOICE (log entry 141): every frame of a
run carries the ingress stamp of the frame received, whatever the run writes into it, and a frame of an injected run carries none. -/
def descFrom (d : List Byte) : Option Nat := if leAt d 23 1 % 16 < 8 then some (leAt d 22 1 % 8) else none

/-- Does a booking carry an ingress stamp of port `pt` (R25)? One without a frame stands for the run that holds it. -/
def carriesFrom (s : State) (pt : Nat) (b : Booking) : Bool :=
  match b.frame with
  | some f => descFrom f.desc == some pt
  | none => match s.pe.ctx.find? (fun x => x.1 = b.ctx) with
    | some x => descFrom x.2.desc == some pt
    | none => false

/-- Port `pt` enters HOLD: what holds a slot or a placement on another port and carries its ingress stamp is withheld too (R25, R36). -/
def strikeFrom (pt : Nat) (s : State) : State :=
  forEach ((List.range 8).filter (· ≠ pt)) (fun p a => strikePort p 2 (carriesFrom a pt) a) s

/-- Is the ingress port of a frame in HOLD (R25)? -/
def fromHeld (s : State) (f : GFrame) : Bool := match descFrom f.desc with | some p => inHold s p | none => false

/-- Does a change of the increment move a launch by more than 25 ps (R158)? -/
def shiftTooFar (t te old new : Nat) : Bool :=
  decide (25 * old * 2 ^ 32 < ((t : Int) - te).natAbs * ((new : Int) - old).natAbs * 1000)

/-- The gate at an increment change on the tick `te` (R158): revoke what moves too far. -/
def gateIncrement (te old new : Nat) (s : State) : State :=
  forEach (List.range 8) (fun p a =>
    let sel := fun (b : Booking) =>
      (b.st ≠ 3 || (match b.frame with | some f => f.corr.isSome | none => false)) && shiftTooFar b.t te old new
    strikePort p 4 sel a) s

/-- A transmit calibration starts on the port (R159). -/
def gateReplan (p : Nat) (s : State) : State :=
  fset (GATE_PORT_PLAN p) GATE_PORT_PLAN_PITCH 0 (strikePort p 4 (fun _ => true) s)

/-- The grid origin at the end of a transmit calibration (R156): word-clock edge `tcw` in 2^-72 ns, marker phase `am`. -/
def gatePlan (p tcw am : Nat) (s : State) : State :=
  let m := groupMode s p
  let o : Int := (tcw : Int) + (fget s (PORT_CAL_TX p) PORT_CAL_TX_LAT_TX : Int) * 2 ^ 56
  let shown := (divRound (o + ps72 (portOf s p).txAdj) (2 ^ 40)).toNat
  let s1 := gateSet p { gateOf s p with origin := o, am := am % 4096, lastEnd := 0, deficit := 0 } s
  let s2 := wr (GATE_PORT_ORIGIN_SEC p) (BitVec.ofNat 64 (gtSec shown))
    (wr (GATE_PORT_ORIGIN_SUB p) (BitVec.ofNat 64 (gtSub shown)) s1)
  fset (GATE_PORT_PLAN p) GATE_PORT_PLAN_PITCH (gridPitch m)
    (fset (GATE_PORT_PLAN p) GATE_PORT_PLAN_CW_BITS (cwBits m (noFec25 s p)) s2)

-- Correction -----------------------------------------------------------------------------------------------------

/-- Ones'-complement sum of bytes taken as 16-bit words, folded to 16 bits; an odd last byte is paired with zero. -/
def onesSum : List Byte → Nat → Nat
  | [], a => a
  | [b], a => let x := a + 256 * b.toNat; x % 65536 + x / 65536
  | b :: c :: r, a => let x := a + 256 * b.toNat + c.toNat; onesSum r (x % 65536 + x / 65536)

/-- EtherType after at most two VLAN tags, the offset behind it, and the number of tags (R67, R92). -/
def etherOf (bs : List Byte) : Nat × Nat × Nat :=
  let t0 := beAt bs 12 2
  if t0 = 0x88A8 ∨ t0 = 0x8100 then
    if beAt bs 16 2 = 0x8100 then (beAt bs 20 2, 22, 2) else (beAt bs 16 2, 18, 1)
  else (t0, 14, 0)

/-- Incremental update of an Internet checksum for bytes at `off` that change from `o` to `n` (RFC 1624, R147, R172). -/
def cksUpdate (old off : Nat) (cksOff : Nat) (o n : List Byte) : Nat :=
  let pad := fun (x : List Byte) => if (off + cksOff) % 2 = 1 then (0 : Byte) :: x else x
  let inv := fun (x : Nat) => 65535 - x
  let s1 := onesSum (pad n) (onesSum ((pad o).map (fun b => ~~~ b) ++ (if (pad o).length % 2 = 1 then [0xFF] else [])) (inv old))
  let r := inv (s1 % 65536 + s1 / 65536)
  if r = 0 then 65535 else r

/-- Add to the correctionField at `off`, with the UDP checksum at `cks` (R147, R172); the flag says that it saturated. -/
def corrAdd (off : Nat) (cks : Option Nat) (add : Int) (bytes : List Byte) : List Byte × Bool :=
  let o := slice bytes off 8
  let sum := sgn 64 (beNat o) + add
  let v := satI 64 sum
  let n := beBytes 8 (unsgn 64 v)
  let b1 := putBytes bytes off n
  let b2 := match cks with
    | none => b1
    | some c =>
      let old := beAt bytes c 2
      if old = 0 ∧ (etherOf bytes).1 = 0x0800 then b1
      else putBytes b1 c (beBytes 2 (cksUpdate old off c o n))
  (b2, decide (v ≠ sum))

/-- The residence correction of a frame whose planned crossing is `t` (R147, R172); the flag says that it saturated. -/
def correct (t : Nat) (f : GFrame) : GFrame × Bool :=
  match f.corr with
  | none => (f, false)
  | some (off, cks) =>
    let r := corrAdd off cks (divRound ((t : Int) - descIn f.desc) (2 ^ 16)) f.bytes
    ({ f with bytes := r.1 }, r.2)

/-- Correct a frame that is being committed and count a saturation (R172). -/
def correctCount (p t : Nat) (f : GFrame) (s : State) : GFrame × State :=
  let r := correct t f
  (r.1, if r.2 then raiseOnce EV_GATE_CORR_SAT (bump (EC_GATE p jCORR_SAT) 1 s) else s)

-- Emission -------------------------------------------------------------------------------------------------------

/-- Is the frame with FCS longer than MAX_FRAME (R70, R168)? -/
def oversize (s : State) (p len : Nat) : Bool := decide (fget s (PORT_MAC_CTL p) PORT_MAC_CTL_MAX_FRAME < wireBytes len)

/-- GATE_LAST_MISS (R166): the first since the last read stays until it is read. -/
def noteMiss (p ec : Nat) (revoked reproc : Bool) (late : Nat) (s : State) : State :=
  fset GATE_LAST_MISS GATE_LAST_MISS_PORT p
    (fsetB GATE_LAST_MISS GATE_LAST_MISS_VALID true
      (fset GATE_LAST_MISS GATE_LAST_MISS_ENGINE (ec / 4)
        (fset GATE_LAST_MISS GATE_LAST_MISS_CTX (ec % 4)
          (fsetB GATE_LAST_MISS GATE_LAST_MISS_REVOKED revoked
            (fsetB GATE_LAST_MISS GATE_LAST_MISS_REPROC reproc
              (fset GATE_LAST_MISS GATE_LAST_MISS_LATE (min late (2 ^ 32 - 1)) s))))))

/-- EMIT LAUNCH reaches the gate for the slot at `q` that context `ec` holds (R165, R166, R168). DESIGN CHOICE (log entry 146): a cause of R169
is counted before the length is compared with MAX_FRAME. -/
def gateEmit (p q ec : Nat) (f : GFrame) (s : State) : State :=
  let g := gateOf s p
  match g.cal.find? (heldBy ec q) with
  | none => frameDone f s
  | some b =>
    let rest := g.cal.filter (fun x => !heldBy ec q x)
    let dl := b.t - ns32 b.setup
    let late := decide (dl < gtNow s) || decide (b.st = 4)
    let held := if b.cause = 1 then 1 else if b.cause = 2 ∨ inHold s 8 ∨ inHold s p ∨ fromHeld s f then 2 else if b.cause = 3 ∨ f.old then 3
      else if b.cause = 4 then 4 else if late then 5 else 0
    let s1 := gateSet p { g with cal := rest } s
    if held ≠ 0 then
      let s2 := if 4 ≤ held then
        noteMiss p ec b.revoked (descReproc f.desc) ((gtNow s - dl) / 2 ^ 32) s1 else s1
      withhold p held true f s2
    else if oversize s p f.bytes.length then frameDone f (bump (EC_PORT p jTX_OVERSIZE) 1 s1)
    else gateSet p { g with cal := insertBooking { b with st := 1, n := wireBytes f.bytes.length, frame := some f } rest } s

/-- A frame is discarded from or before a free queue (R171). -/
def freeDrop (p : Nat) (f : GFrame) (s : State) : State :=
  let s1 : State := if f.report then gateSet p { gateOf s p with reports := (gateOf s p).reports ++ [(f.desc, none)] } s else s
  frameDone f (raiseOnce EV_GATE_FREE_DROP (bump (EC_GATE p jFREE_DROP) 1 s1))

/-- EMIT FREE or RELAY reaches the gate (R171). -/
def gateFree (p cls : Nat) (f : GFrame) (s : State) : State :=
  let g := gateOf s p
  if oversize s p f.bytes.length then frameDone f (bump (EC_PORT p jTX_OVERSIZE) 1 s)
  else if !portLive s p || !fbit s (PORT_MODE p) PORT_MODE_ENABLE || resting s then freeDrop p f s
  else if f.old then withhold p 3 false f s
  else if 64 ≤ g.free.countP (fun x => x.1 = cls) then freeDrop p f s
  else gateSet p { g with free := g.free ++ [(cls, f, gtNow s)] } s

/-- Discard every frame waiting in the port's free queues (R171). -/
def freeFlush (p : Nat) (s : State) : State :=
  let g := gateOf s p
  g.free.foldl (fun a x => freeDrop p x.2.1 a) (gateSet p { g with free := [] } s)

/-- The lowest class that waits. -/
def freeClass (g : GatePort) : Option Nat := [0, 1, 2, 3].find? (fun c => g.free.any (fun x => x.1 = c))

/-- Remove the first entry of a class. -/
def freePop (c : Nat) : List (Nat × GFrame × Nat) → List (Nat × GFrame × Nat)
  | [] => []
  | x :: r => if x.1 = c then r else x :: freePop c r

/-- Place the frame at the head of class `c` at the position found (R171). -/
def freeBook (p c n : Nat) (f : GFrame) (s : State) : Option (Nat × Nat) → State
  | none => s
  | some (q, t) =>
    let g := gateOf s p
    let r := correctCount p t f s
    let b : Booking := { q := q, n := n, t := t, setup := fget s GATE_SETUP GATE_SETUP_SETUP, shared := decide (1 ≤ c),
                         st := 3, ctx := 0, len := f.bytes.length, cause := 0, revoked := false, frame := some r.1 }
    bump (EC_GATE p jFREE_TX) 1
      (gateSet p { g with free := freePop c g.free, cal := insertBooking b g.cal } r.2)

/-- The end of a port's calendar (R154): it holds `horizon` positions from the first that has not yet crossed. -/
def calendarEnd (s : State) (p : Nat) : Nat :=
  let now := gtNow s
  horizon + match findPos s p now (now + ns32 4000000) (fun _ => true) horizon (searchFrom s p now) with
    | some (q, _) => q
    | none => 0

/-- The gate places the head frame of the highest-priority free queue (R171). One that carries a stamp of a point in HOLD, the gate's own
under CORR or an ingress stamp, is withheld instead (R25, R36). -/
def freePlace (p : Nat) (s : State) : State :=
  let g := gateOf s p
  if !portReady s p then s
  else match freeClass g with
    | none => s
    | some c => match g.free.find? (fun x => x.1 = c) with
      | none => s
      | some (_, f, _) =>
        if (f.corr.isSome && inHold s 8) || fromHeld s f then withhold p 2 false f (gateSet p { g with free := freePop c g.free } s)
        else
          let n := wireBytes f.bytes.length
          let lo := gtNow s + ns32 (fget s GATE_SETUP GATE_SETUP_SETUP)
          let last := calendarEnd s p
          freeBook p c n f s
            (findPos s p lo (lo + ns32 4000000) (fun q => decide (q < last) && placeOk s p q n (decide (1 ≤ c))) horizon (searchFrom s p lo))

/-- The frame at the head of a class's free queue has waited GATE_FREE_MAX (R171). -/
def freeTimeout (p c : Nat) (s : State) : State :=
  let g := gateOf s p
  match g.free.find? (fun x => x.1 = c) with
  | none => s
  | some (_, f, _) => freeDrop p f (gateSet p { g with free := freePop c g.free } s)

/-- Change the booking at `q` that `sel` picks. -/
def updBooking (q : Nat) (sel : Booking → Bool) (f : Booking → Booking) : List Booking → List Booking
  | [] => []
  | b :: r => if b.q = q ∧ sel b then f b :: r else b :: updBooking q sel f r

/-- The setup deadline of the slot at `q` (R165, R167, R172). -/
def gateDeadline (p q : Nat) (s : State) : State :=
  let g := gateOf s p
  match g.cal.find? (fun b => b.q = q ∧ b.cause = 0 ∧ b.st < 2) with
  | none => s
  | some b => match b.frame with
    | none => gateSet p { g with cal := updBooking q (fun x => x.cause = 0 ∧ x.st < 2) (fun x => { x with st := 4 }) g.cal } s
    | some f =>
      let r := correctCount p b.t f s
      let cal := updBooking q (fun x => x.cause = 0 ∧ x.st < 2) (fun x => { x with st := 2, frame := some r.1 }) g.cal
      gateSet p { g with cal := cal } r.2

/-- CRC-32 of IEEE 802.3, one byte. -/
def crc32Step (poly : Nat) (c : Nat) (b : Byte) : Nat :=
  (List.range 8).foldl (fun a _ => if a % 2 = 1 then (a / 2) ^^^ poly else a / 2) (c ^^^ b.toNat)

/-- A bit-reflected 32-bit CRC with its final inversion (R529). -/
def crc32With (poly init : Nat) (bs : List Byte) : Nat := 0xFFFFFFFF ^^^ bs.foldl (crc32Step poly) init

/-- The FCS of a frame, as sent. -/
def fcsOf (bs : List Byte) : List Byte := leBytes 4 (crc32With 0xEDB88320 0xFFFFFFFF bs)

/-- CRC-32C (R529). -/
def crc32c (init : Nat) (bs : List Byte) : Nat := crc32With 0x82F63B78 init bs

/-- The bytes that leave for a frame: padded, with FCS (R70). -/
def macBytes (bs : List Byte) : List Byte :=
  let x := bs ++ zeros (60 - bs.length)
  x ++ fcsOf x

/-- The gate reads a frame that leaves (R459, R465). DESIGN CHOICE (log entry 172): all of it before its start block enters the PCS. -/
def gateMeet (f : GFrame) (s : State) : Bool × State :=
  match f.mem with
  | none => (false, s)
  | some a => touchMem (0x50000000 + a) f.bytes.length s

/-- A frame with an uncorrectable word is withheld, counted in ECC_TX_UE and not reprocessed (R465). -/
def gateUe (p : Nat) (b : Booking) (f : GFrame) (s : State) : State :=
  frameDone f (bump UC_ECC_TX_UE 1 (gateSet p { gateOf s p with cal := (gateOf s p).cal.filter (fun x => x ≠ b) } s))

/-- The frame of a booking leaves as planned (R157). -/
def gateSend (p q : Nat) (b : Booking) (f : GFrame) (s : State) : State :=
  let g := gateOf s p
  let g1 : GatePort := { g with
    cal := g.cal.filter (fun x => x ≠ b), lastEnd := 8 * (q + 1) + b.n, deficit := g.deficit + 12 - (8 * q - g.lastEnd),
    reports := if f.report then g.reports ++ [(f.desc, some b.t)] else g.reports }
  let s1 := bump (EC_PORT p jTX_OK) 1 (emitOut (.frame p (macBytes f.bytes) b.t) (gateSet p g1 s))
  frameDone f (match f.ptp with | some i => bump (UC_PTP i) 1 s1 | none => s1)

/-- The start block of the frame at `q` enters the PCS (R157, R465). -/
def gateRelease (p q : Nat) (s : State) : State :=
  let g := gateOf s p
  match g.cal.find? (fun b => b.q = q ∧ b.cause = 0 ∧ (b.st = 2 ∨ b.st = 3)) with
  | none => s
  | some b => match b.frame with
    | none => s
    | some f =>
      let m := gateMeet f s
      if m.1 then gateUe p b f m.2 else gateSend p q b f m.2

/-- The gate at the set edge (R50): bookings are withheld, and so are waiting free frames. -/
def gateSetEdge (s : State) : State :=
  forEach (List.range 8) (fun p a =>
    let a1 := strikePort p 3 (fun _ => true) a
    let g := gateOf a1 p
    let a2 := if g.free = [] then a1 else gateSet p { g with free := [] } a1
    g.free.foldl (fun b x => withhold p 3 false x.2.1 b) a2) s

/-- Everything planned is forgotten without a count (R22, R422). -/
def gateClear (s : State) : State := { s with gate := [] }

/-- SETUP_DEADLINE (R165). -/
def execSetupDeadline (port q : Nat) (s : State) : Res := run (gateDeadline port q) s

/-- START_BLOCK_ENTRY (R157). -/
def execStartBlockEntry (port q : Nat) (s : State) : Res := run (gateRelease port q) s

/-- FREE_PLACEMENT (R171). -/
def execFreePlacement (port : Nat) (s : State) : Res := run (freePlace port) s

/-- FREE_QUEUE_TIMEOUT (R171). -/
def execFreeQueueTimeout (port cls : Nat) (s : State) : Res := run (freeTimeout port cls) s

end Sys2Proof.Machine
end

