-- ==== Sys2Proof/Machine/Tic.lean ====
section
/-!
DEFINITION. Machine/Tic.lean: the time-interval counters (R285 to R297): edges, dead time, interpolation, the three modes,
time bases, arming and the result FIFO.
-/
namespace Sys2Proof.Machine
open Sys2Proof

def ticReset (_ : Nat) : TicCh :=
  { armed := false, cntS := 0, cntP := 0, first := none, lastS := none, lastP := none, fifo := [] }
def ticOf (s : State) (n : Nat) : TicCh := mapGet ticReset s.tic n

/-- Is channel `n` fitted (R285)? -/
def ticFitted (s : State) (n : Nat) : Bool := decide (n < 8) && unitBit s.variant (24 + n)

/-- Store a channel and what its status and event show (R294, R296). -/
def ticSet (n : Nat) (x : TicCh) (s : State) : State :=
  let s1 : State := { s with tic := mapSet ticReset n x s.tic }
  setLevel (EV_TIC_RESULT n) (!x.fifo.isEmpty)
    (fset (TIC_CH_STATUS n) TIC_CH_STATUS_FIFO x.fifo.length (fsetB (TIC_CH_STATUS n) TIC_CH_STATUS_ARMED x.armed s1))

/-- Arm a channel: prescalers and edge counters start again (R286, R293). -/
def ticArm (n : Nat) (s : State) : State :=
  ticSet n { ticOf s n with armed := true, cntS := 0, cntP := 0, first := none } s

/-- A write of CTL or SRC aborts the measurement in progress (R293); `old` is CTL before it. Under the new values a CONTINUOUS channel
arms again, and so does one that was armed under the same ARM_SRC, for TRIGGER under the same TRIG_SEL; any other waits for its write of ARM
or its trigger. -/
def ticAbort (n : Nat) (old : Word) (s : State) : State :=
  let x := ticOf s n
  let src := fget s (TIC_CH_CTL n) TIC_CH_CTL_ARM_SRC
  let same := src = getF TIC_CH_CTL_ARM_SRC old ∧ (src = 2 → fget s (TIC_CH_CTL n) TIC_CH_CTL_TRIG_SEL = getF TIC_CH_CTL_TRIG_SEL old)
  if src = 0 ∨ (x.armed ∧ same) then ticArm n s else ticSet n { x with armed := false, first := none } s

/-- A measurement has ended: CONTINUOUS arms again, the others wait (R293). -/
def ticEnd (n : Nat) (nxt : Option TicEdge) (s : State) : State :=
  let x := ticOf s n
  if fget s (TIC_CH_CTL n) TIC_CH_CTL_ARM_SRC = 0 then ticSet n { x with first := nxt } s
  else ticSet n { x with first := none, armed := false } s

/-- Post a result (R287, R294). -/
def ticPost (n st mode w0 w1 edge : Nat) (s : State) : State :=
  let x := ticOf s n
  if 64 ≤ x.fifo.length then
    raiseOnce (EV_TIC_FAULT n) (bump (UC_TIC n 2) 1 (fsetB (TIC_CH_STATUS n) TIC_CH_STATUS_OVERRUN true s))
  else
    let w2 := edge % 2 ^ 32 + st * 2 ^ 32 + mode * 2 ^ 40 + 2 ^ 63
    bump (UC_TIC n 0) 1 (ticSet n { x with fifo := x.fifo ++ [(w0, w1, w2)] } s)

/-- XO time of an edge in fs (R288). -/
def edgeFs (root : Nat) (num : Int) (den : Nat) : Int := (root : Int) * 312500 - num * 312500 / (den : Int)

/-- Interval between two edges in ps, rounded to the nearest (R289, R290). -/
def ticInterval (s : State) (tsu : Bool) (a b : TicEdge) : Int :=
  let d : Nat := a.den * b.den
  if tsu then
    let n : Int := ((b.t : Int) - a.t) * 2 ^ 25 * d - b.num * b.eff * a.den + a.num * a.eff * b.den
    divRound (n * 1000) (2 ^ 57 * d)
  else
    let n : Int := ((b.root : Int) - a.root) * d + a.num * b.den - b.num * a.den
    let day : Nat := 86400 * 10 ^ 15
    let age : Int := if b.unset then 0
      else fint s TIC_AGE_RATE TIC_AGE_RATE_RATE * ((gtSec b.t : Int) - (rd s TIC_AGE_EPOCH).toNat)
    divRound (500 * n * fget s TSU_INC_NOM TSU_INC_NOM_INC_NOM * ((day : Int) - age)) (d * 2 ^ 48 * day)

/-- Status of a result over its edges: the lowest code that applies (R294). -/
def ticStatus (mode : Nat) (a b : TicEdge) : Nat :=
  if a.unset != b.unset then 2 else if a.hold || b.hold then 3 else if mode = 1 ∧ b.unset then 5 else 0

/-- Device time of an edge in 2^-32 ns (R291). -/
def edgeTime (e : TicEdge) : Nat := ((e.t : Int) - divRound (e.num * e.eff) (e.den * 2 ^ 25)).toNat

/-- A measured edge of channel `n` (R290 to R292). -/
def ticMeasured (n : Nat) (stop : Bool) (e : TicEdge) (s : State) : State :=
  let x := ticOf s n
  let tsu := fbit s (TIC_CH_CTL n) TIC_CH_CTL_TBASE
  match fget s (TIC_CH_CTL n) TIC_CH_CTL_MODE with
  | 0 => match x.first with
    | none => if stop then s else ticSet n { x with first := some e } s
    | some a =>
      if !stop then s
      else
        let st := ticStatus 0 a e
        let v := if st = 2 then 0 else unsgn 64 (ticInterval s tsu a e)
        ticEnd n none (ticPost n st 0 v (a.n % 2 ^ 32) e.n s)
  | 1 =>
    let t := edgeTime e
    if stop then s else ticEnd n none (ticPost n (ticStatus 1 e e) 1 (gtSec t) (gtSub t) e.n s)
  | _ => match x.first with
    | none => if stop then s else ticSet n { x with first := some e } s
    | some a =>
      let d : Nat := a.den * e.den
      let el : Int := ((e.root : Int) - a.root) * d + a.num * e.den - e.num * a.den
      if stop ∨ el * 3125 < (fget s (TIC_CH_GATE n) TIC_CH_GATE_GATE_US : Int) * 10000000 * d then s
      else
        let st := ticStatus 2 a e
        let v := if st = 2 then 0 else unsgn 64 (ticInterval s tsu a e)
        ticEnd n (some e) (ticPost n st 2 v (if st = 2 then 0 else e.n - a.n) e.n s)

/-- Do START and STOP select the same source and polarity (R290)? -/
def ticSame (s : State) (n : Nat) : Bool :=
  let g := fun f => fget s (TIC_CH_SRC n) f
  g TIC_CH_SRC_START == g TIC_CH_SRC_STOP && g TIC_CH_SRC_START_EDGE == g TIC_CH_SRC_STOP_EDGE

/-- Does the engine measure input edge `e`? With one source and polarity for both engines the stop is a later edge than the start (R290). -/
def ticWants (s : State) (n : Nat) (stop : Bool) (e : Nat) : Bool :=
  match fget s (TIC_CH_CTL n) TIC_CH_CTL_MODE with
  | 0 => match (ticOf s n).first with
    | some a => stop && !(ticSame s n && decide (e ≤ a.n))
    | none => !stop
  | _ => !stop

/-- Has the source edges on this part (R285)? A pin of an absent unit has none: TICIN4 to TICIN7, the GNSS time pulse. -/
def ticSource (v : Variant) (src : Nat) : Bool :=
  decide (src ≤ 26) && (decide (8 ≤ src) || unitBit v (24 + src)) && (src != 24 || unitBit v 35)

/-- The reading of channel `n`'s local slave counter at a ROOT edge of the present tick (R291), 2^-32 ns; the second ROOT edge of a tick
(`half` odd) lies half an increment after the first (R289, log entry 153). -/
def ticTime (s : State) (n half : Nat) : Nat := localNow s (16 + n) + if half % 2 = 1 then incNow s / 2 ^ 41 else 0

/-- Is the GNSS time pulse at an edge of this polarity: it rises on its sample edge and falls 1 µs later (R285, R312)? -/
def ticPulse (s : State) (falling : Bool) : Bool :=
  match s.gnss.pulseAt with
  | some a => let d := (if falling then 1000 else 0) * 2 ^ 32; decide (a + d ≤ gtNow s) && decide (gtNow s < a + d + 1000 * 2 ^ 32)
  | none => false

/-- A prescaled edge at an engine (R286 to R288): number of the latching ROOT edge, its place `half` in the present tick, tap counts. The
dead time of an edge without a valid calibration is judged at its ROOT edge (log entry 153). -/
def ticEdge (n : Nat) (stop : Bool) (root half k k1 k2 : Nat) (s : State) : State :=
  let src := fget s (TIC_CH_SRC n) (if stop then TIC_CH_SRC_STOP else TIC_CH_SRC_START)
  let down := fbit s (TIC_CH_SRC n) (if stop then TIC_CH_SRC_STOP_EDGE else TIC_CH_SRC_START_EDGE)
  if !ticFitted s n || !(ticOf s n).armed || !ticSource s.variant src || (src == 24 && !ticPulse s down) then s
  else
    let pre := fget s (TIC_CH_SRC n) (if stop then TIC_CH_SRC_STOP_PRE else TIC_CH_SRC_START_PRE)
    let x0 := ticOf s n
    let x := if stop then { x0 with cntP := x0.cntP + 1 } else { x0 with cntS := x0.cntS + 1 }
    let s1 := ticSet n x s
    let num : Int := (k : Int) - (2 * (k1 : Int) - k2)
    let den := max 1 (k2 - k1)
    let bad := decide ((k2 : Int) - k1 < 35) || decide (80 < (k2 : Int) - k1)
    let fs := if bad then edgeFs root 0 1 else edgeFs root num den
    let edge := (if stop then x.cntP else x.cntS) * 2 ^ pre
    let near := match (if stop then x.lastP else x.lastS) with | some l => decide (fs < l + 10000000) | none => false
    if near then bump (UC_TIC n 1) 1 s1
    else if !ticWants s n stop edge then s1
    else
      let x1 := if bad then x else if stop then { x with lastP := some fs } else { x with lastS := some fs }
      let s2 := fset (TIC_CH_STATUS n) TIC_CH_STATUS_LAST_K1 k1 (fset (TIC_CH_STATUS n) TIC_CH_STATUS_LAST_K2 k2 (ticSet n x1 s1))
      if bad then
        ticEnd n none (ticPost n 1 (fget s2 (TIC_CH_CTL n) TIC_CH_CTL_MODE) 0 0 edge
          (raiseOnce (EV_TIC_FAULT n) (bump (UC_TIC n 3) 1 s2)))
      else
        ticMeasured n stop { root := root, num := num, den := den, t := ticTime s n half, eff := (rd s TSU_INC_EFF).toNat, n := edge,
                             unset := !fbit s TSU_STATE TSU_STATE_STATE, hold := inHold s (16 + n) } s2

/-- No stop edge within TIMEOUT_US (R290). A start edge taken in HOLD shows as DIST_HOLD, the lower code (R294). -/
def ticTimeout (n : Nat) (s : State) : State :=
  let x := ticOf s n
  if !ticFitted s n || fget s (TIC_CH_CTL n) TIC_CH_CTL_MODE != 0 || fget s (TIC_CH_GATE n) TIC_CH_GATE_TIMEOUT_US == 0 then s
  else match x.first with
    | none => s
    | some a => ticEnd n none (ticPost n (if a.hold then 3 else 4) 0 0 (a.n % 2 ^ 32) 0 (raiseOnce (EV_TIC_FAULT n) (bump (UC_TIC n 4) 1 s)))

/-- A read of TIC_CHn_RES0 pops the head result into the reader's shadow (R294, R295). -/
def ticPop (i : Initiator) (n : Nat) (s : State) : Nat × State :=
  let x := ticOf s n
  let mine := isCore i || fbit s (TIC_CH_CTL n) TIC_CH_CTL_OWNER
  match x.fifo with
  | (w0, w1, w2) :: r =>
    if mine then
      (w0, ticSet n { x with fifo := r } (wrI i (TIC_CH_RES1 n) (BitVec.ofNat 64 w1) (wrI i (TIC_CH_RES2 n) (BitVec.ofNat 64 w2) s)))
    else (0, wrI i (TIC_CH_RES1 n) 0 (wrI i (TIC_CH_RES2 n) 0 s))
  | [] => (0, wrI i (TIC_CH_RES1 n) 0 (wrI i (TIC_CH_RES2 n) 0 s))

/-- A trigger fires: channels that wait for it are armed (R293, R372). -/
def ticTrigger (k : Nat) (s : State) : State :=
  forEach (List.range 8) (fun n a =>
    if ticFitted a n && fget a (TIC_CH_CTL n) TIC_CH_CTL_ARM_SRC == 2 && fget a (TIC_CH_CTL n) TIC_CH_CTL_TRIG_SEL == k then ticArm n a
    else a) s

/-- Channel and offset of an address of the block. -/
def ticAddr (a : Nat) : Option (Nat × Nat) :=
  if 0x50000 ≤ a ∧ a < 0x50800 then some ((a - 0x50000) / 0x100, a % 0x100) else none

/-- Checks of a write to a TIC register (R295). -/
def ticCheck (i : Initiator) (a : Nat) (s : State) : Verdict :=
  match ticAddr a with
  | some (n, o) => if (o = 0 ∨ o = 8) ∧ !isCore i ∧ !fbit s (TIC_CH_CTL n) TIC_CH_CTL_OWNER then vState 0xD else .ok
  | none => .ok

/-- The effect of an accepted write to a TIC register (R293). -/
def ticApply (a : Nat) (v : Word) (s : State) : Option State :=
  match ticAddr a with
  | some (n, o) =>
    if o = 0 then
      let m := maskF TIC_CH_CTL_MODE ||| maskF TIC_CH_CTL_TBASE ||| maskF TIC_CH_CTL_ARM_SRC ||| maskF TIC_CH_CTL_TRIG_SEL
      let s1 := ticAbort n (rd s a) (wr a ((rd s a &&& ~~~ m) ||| (v &&& m)) s)
      some (if getF TIC_CH_CTL_ARM v ≠ 0 then ticArm n s1 else s1)
    else if o = 8 then
      let m := maskF TIC_CH_SRC_START ||| maskF TIC_CH_SRC_START_EDGE ||| maskF TIC_CH_SRC_START_PRE ||| maskF TIC_CH_SRC_STOP
        ||| maskF TIC_CH_SRC_STOP_EDGE ||| maskF TIC_CH_SRC_STOP_PRE
      some (ticAbort n (rd s (TIC_CH_CTL n)) (wr a (v &&& m) s))
    else none
  | none => none

/-- TIC_EDGE (R286). -/
def execTicEdge (ch : Nat) (stop : Bool) (root t k k1 k2 : Nat) (s : State) : Res := run (ticEdge ch stop root t k k1 k2) s

/-- TIC_TIMEOUT (R290). -/
def execTicTimeout (ch : Nat) (s : State) : Res := run (ticTimeout ch) s

end Sys2Proof.Machine
end

