-- ==== Sys2Proof/Machine/Outs.lean ====
section
/-!
DEFINITION. Machine/Outs.lean: the outputs (R359 to R369): configuration, edges, squelch, alignment and time-of-day messages.
-/
namespace Sys2Proof.Machine
open Sys2Proof

def outReset (_ : Nat) : OutCh :=
  { level := false, origin := 0, k := 0, acc := 0, inc := 0, edge := none, fine := 0, left := 0, guard := 0, captured := false,
    shift := 0, corr := 0, pllLost := false, tic := 255 }
def outOf (s : State) (n : Nat) : OutCh := mapGet outReset s.outs n
def outSet (n : Nat) (x : OutCh) (s : State) : State := { s with outs := mapSet outReset n x s.outs }

def outMode (s : State) (n : Nat) : Nat := fget s (OUT_CTL n) OUT_CTL_MODE
def outOn (s : State) (n : Nat) : Bool := fbit s (OUT_CTL n) OUT_CTL_ENABLE

/-- Frequency in µHz; 1 Hz in PPS mode (R362). -/
def outFreq (s : State) (n : Nat) : Nat := if outMode s n = 2 then 1000000 else fget s (OUT_FREQ n) OUT_FREQ_FREQ

/-- PHASE_INC of R359: the step of the 48-bit accumulator for a frequency in µHz and INC_EFF in 2^-72 ns. -/
def phaseInc (f eff : Nat) : Nat := (divRound ((f * eff : Nat) : Int) (2 ^ 25 * 10 ^ 15)).toNat

/-- Nominal rate in µHz of a source code of R285 where the device knows it (log entry 154). -/
def srcRate (s : State) (c : Nat) : Option Nat :=
  if 8 ≤ c ∧ c < 16 then
    (if fget s (REFS_SLOT_INPUT (c - 8)) REFS_SLOT_INPUT_SIGNAL = 0 then some 1000000
     else if fget s (REFS_SLOT_INPUT (c - 8)) REFS_SLOT_INPUT_NOMINAL = 0 then none
     else some (1000000 * fget s (REFS_SLOT_INPUT (c - 8)) REFS_SLOT_INPUT_NOMINAL))
  else if 16 ≤ c ∧ c < 24 then some (outFreq s (c - 16))
  else if 24 ≤ c ∧ c ≤ 26 then some 1000000
  else none

/-- Does a configuration keep the limits of R362? -/
def outLimits (s : State) (n : Nat) : Bool :=
  let m := outMode s n
  let f := outFreq s n
  let w := fget s (OUT_WIDTH n) OUT_WIDTH_WIDTH
  let rate := decide (500000 ≤ f) && decide (f ≤ (if m = 0 then 800000000000000 else 10000000000000))
  let wide := m = 0 || (decide (5 ≤ w) && decide ((w + 5) * f ≤ 1000000000000000))
  let al := m != 3 || (match srcRate s (fget s (OUT_CTL n) OUT_CTL_ALIGN_SRC) with | some r => f % r == 0 | none => true)
  decide (m ≤ 3) && rate && wide && al && decide ((fint s (OUT_PHASE n) OUT_PHASE_PHASE).natAbs * f < 10 ^ 18)

/-- Has an ALIGN output a free channel (R364)? -/
def alignFree (s : State) (n : Nat) : Bool :=
  let c := (outOf s n).tic
  ticFitted s c && !fbit s (TIC_CH_CTL c) TIC_CH_CTL_OWNER
    && (List.range 8).all (fun m => m == n || !(outOn s m && outMode s m == 3 && (outOf s m).tic == c))

/-- Is the output to be held low (R360, R366)? -/
def outQuiet (s : State) (n : Nat) : Bool :=
  (outOf s n).pllLost || (match fget s (OUT_CTL n) OUT_CTL_SQUELCH with
    | 1 => servoSt s == 0
    | 2 => tsuUnset s
    | _ => false)

/-- DRIVING (OUTn_STATUS). -/
def outShow (n : Nat) (s : State) : State :=
  let sq := fbit s (OUT_STATUS n) OUT_STATUS_SQUELCHED
  let s1 := fsetB (OUT_STATUS n) OUT_STATUS_DRIVING (outOn s n && !sq) s
  if sq then fsetB (OUT_STATUS n) OUT_STATUS_QERR_VALID false s1 else s1

/-- Enter or leave squelch (R366). -/
def outSquelch (n : Nat) (b : Bool) (s : State) : State :=
  if fbit s (OUT_STATUS n) OUT_STATUS_SQUELCHED == b then s
  else
    let s1 := fsetB (OUT_STATUS n) OUT_STATUS_SQUELCHED b s
    outShow n (if b then bump (UC_OUT n 0) 1 s1 else s1)

/-- Squelch follows its cause at once (R366): the servo state, the TSU state, the lock of the clean-up PLL or a write of SQUELCH. A pulse that is
high still completes, and the next rising edge is one that `outRoot` makes due. -/
def outQuell (n : Nat) (s : State) : State := if outOn s n then outSquelch n (outQuiet s n) s else s

/-- Every output's squelch after a change of the servo state or of the TSU state (R366). -/
def outQuells (s : State) : State := forEach (List.range 8) outQuell s

/-- The first TSU second at least 2 ms from now; even for PULSE at 0.5 Hz (R361). -/
def originOf (s : State) (n : Nat) : Nat :=
  let t := gtNow s + ns32 2000000
  let sec := (t + gtSecond - 1) / gtSecond
  if outMode s n = 1 ∧ outFreq s n = 500000 then sec + sec % 2 else sec

/-- The accumulator that R361 gives an output with ORIGIN `o` at the local time `t` (2^-72 ns): 2^48 × f × (t − (ORIGIN + PHASE − DELAY)). -/
def outAcc (s : State) (n o : Nat) (t : Int) : Int :=
  let off := fint s (OUT_PHASE n) OUT_PHASE_PHASE - fint s (OUT_DELAY n) OUT_DELAY_DELAY
  (outFreq s n : Int) * (t * 1000 - ((o : Int) * 10 ^ 12 + off) * 2 ^ 72) / (10 ^ 18 * 2 ^ 24)

/-- The local time of an output in 2^-72 ns (R24). -/
def outLocal (s : State) (n : Nat) : Int := (s.tsu.now : Int) + distOf s (32 + n) * incNow s

/-- Load the accumulator (R361, R364): the next edge is the first that it has not passed. -/
def outLoad (x : OutCh) (acc : Int) : OutCh := { x with acc := acc, k := (acc / 2 ^ 48 + 1).toNat }

/-- Take a new ORIGIN (R361, R367). -/
def outOrigin (n : Nat) (s : State) : State :=
  let o := originOf s n
  fset (OUT_STATUS n) OUT_STATUS_ORIGIN o
    (outSet n (outLoad { outOf s n with origin := o, edge := none, inc := phaseInc (outFreq s n) s.tsu.eff } (outAcc s n o (outLocal s n))) s)

/-- PHASE_INC is computed anew on the edges of R23 (R359). -/
def outIncs (s : State) : State :=
  forEach (List.range 8) (fun n a => if outOn a n then outSet n { outOf a n with inc := phaseInc (outFreq a n) a.tsu.eff } a else a) s

/-- The high time of an edge in 2^-72 ns (R362): half a period in FREQ mode, WIDTH in the others. -/
def outHigh (s : State) (n : Nat) : Nat :=
  if outMode s n = 0 then 10 ^ 15 * 2 ^ 72 / (2 * max 1 (outFreq s n)) else fget s (OUT_WIDTH n) OUT_WIDTH_WIDTH * 2 ^ 72

/-- The phase in 2^-48 periods: the accumulator less the shift of an ALIGN output (R359, R364). -/
def outPhase (s : State) (n : Nat) (x : OutCh) : Int := x.acc - (outFreq s n : Int) * x.shift / (10 ^ 15 * 2 ^ 24)

/-- Delay of the fine delay line in ps for an accumulator that has wrapped to `res` (R359). -/
def fineDelay (inc : Nat) (res : Int) : Nat := (divRound (((inc : Int) - res) * 3125) (10 * max 1 inc)).toNat

/-- A ROOT edge of an output that runs (R359, R367): the accumulator steps, and a wrap makes a rising edge due, unless a set edge was less
than 100 ns ago or the pulse before is still high. -/
def outRoot (s : State) (n : Nat) (x : OutCh) : OutCh :=
  let y := { x with acc := x.acc + x.inc }
  let p := outPhase s n y
  if p / 2 ^ 48 < (y.k : Int) then y
  else { y with k := (p / 2 ^ 48 + 1).toNat,
                edge := if y.guard = 0 ∧ (y.level = false ∨ y.left = 0) then some (fineDelay y.inc (p % 2 ^ 48)) else none }

/-- The part of an ALIGN output's correction that one tick makes (R364): no more than ALIGN_SLEW. -/
def alignStep (s : State) (n : Nat) (corr : Int) : Int :=
  let lim : Int := (incNow s * fget s (OUT_CTL n) OUT_CTL_ALIGN_SLEW / 10 ^ 9 : Nat)
  max (-lim) (min lim corr)

/-- Is the accumulator to be reloaded on this tick (R361)? The first tick of a second at which f × (SEC − ORIGIN) is an integer; not in ALIGN
mode, whose phase is that of R364, and not in HOLD (R367). -/
def outReload (s : State) (n : Nat) (x : OutCh) : Bool :=
  let t := outLocal s n
  outMode s n != 3 && !inHold s (32 + n) && decide (t % (10 ^ 9 * 2 ^ 72) < (incNow s : Int))
    && decide ((outFreq s n : Int) * (t / (10 ^ 9 * 2 ^ 72) - x.origin) % 10 ^ 6 = 0)

/-- One TSC tick of an output: two ROOT edges (R359, R361, R362, R364). -/
def outTick (n : Nat) (s : State) : State :=
  let x := outOf s n
  let x1 := { x with left := x.left - incNow s, guard := x.guard - incNow s }
  if !outOn s n || (outMode s n == 3 && !x.captured) then (if x.left = 0 ∧ x.guard = 0 then s else outSet n x1 s)
  else
    let m := if outMode s n = 3 then alignStep s n x.corr else 0
    let y := outRoot s n (outRoot s n { x1 with shift := x.shift + m, corr := x.corr - m })
    outSet n (if outReload s n y then { y with acc := outAcc s n y.origin (outLocal s n) } else y) s

/-- One TSC tick of every output. -/
def outTicks (s : State) : State := forEach (List.range 8) outTick s

/-- Show the path of R360. -/
def outPath (n : Nat) (s : State) : State := fsetB (OUT_STATUS n) OUT_STATUS_PATH (decide (1000000000000 ≤ outFreq s n)) s

/-- ENABLE is set (R360, R361, R364). -/
def outEnable (n : Nat) (s : State) : State :=
  let s0 := outSet n { outOf s n with captured := false, shift := 0, corr := 0, guard := 0, pllLost := false } s
  let s1 := outOrigin n (if outMode s n = 3 then fset (OUT_CTL n) OUT_CTL_ALIGN_TIC (outOf s n).tic s0 else s0)
  let s2 := fsetB (OUT_STATUS n) OUT_STATUS_PLL_LOCK false (outPath n s1)
  let s3 := fsetB (OUT_STATUS n) OUT_STATUS_ALIGNED false (fsetB (OUT_STATUS n) OUT_STATUS_ALIGN_LOST false
    (fsetB (OUT_STATUS n) OUT_STATUS_QERR_VALID false s2))
  outShow n (outSquelch n (outQuiet s3 n) (fsetB (OUT_STATUS n) OUT_STATUS_SQUELCHED false s3))

/-- ENABLE is cleared (R363): a pulse that is high completes. -/
def outDisable (n : Nat) (s : State) : State :=
  outShow n (fsetB (OUT_STATUS n) OUT_STATUS_SQUELCHED false (fsetB (OUT_STATUS n) OUT_STATUS_QERR_VALID false
    (outSet n { outOf s n with edge := none } s)))

/-- An edge of the waveform (R359, R361 to R363, R366): a rising edge that the accumulator has made due, and the falling edge once the high
time is over; at any other time there is no edge. -/
def outEdge (n : Nat) (rise : Bool) (s : State) : State :=
  let x := outOf s n
  if rise then
    match x.edge with
    | none => s
    | some fine =>
      let s1 := outQuell n (outSet n { x with edge := none } s)
      let go := !fbit s1 (OUT_STATUS n) OUT_STATUS_SQUELCHED
        && (!fbit s1 (OUT_STATUS n) OUT_STATUS_PATH || fbit s1 (OUT_STATUS n) OUT_STATUS_PLL_LOCK)
        && (outMode s1 n != 3 || x.captured)
      if go then outSet n { outOf s1 n with level := true, fine := fine, left := outHigh s n } s1 else s1
  else if !x.level || x.left != 0 then s
  else outQuell n (outSet n { x with level := false } s)

/-- The clean-up PLL locks (R360). -/
def outLock (n : Nat) (s : State) : State :=
  if !outOn s n || !fbit s (OUT_STATUS n) OUT_STATUS_PATH then s
  else outQuell n (fsetB (OUT_STATUS n) OUT_STATUS_PLL_LOCK true (outSet n { outOf s n with pllLost := false } s))

/-- The clean-up PLL loses its lock (R360): the loss counts whether or not the output is squelched already. -/
def outLockLoss (n : Nat) (s : State) : State :=
  if !fbit s (OUT_STATUS n) OUT_STATUS_PLL_LOCK then s
  else if !outOn s n then fsetB (OUT_STATUS n) OUT_STATUS_PLL_LOCK false s
  else
    let s1 := fsetB (OUT_STATUS n) OUT_STATUS_PLL_LOCK false (outSet n { outOf s n with pllLost := true } s)
    let s2 := outShow n (fsetB (OUT_STATUS n) OUT_STATUS_SQUELCHED true (bump (UC_OUT n 0) 1 s1))
    cairnFault 0x04 sevWarning 1 (leBytes 4 n) s2

/-- Instant of edge `k` in ps (R361). -/
def outInstant (s : State) (n k : Nat) : Int :=
  let x := outOf s n
  (x.origin : Int) * 10 ^ 12 + fint s (OUT_PHASE n) OUT_PHASE_PHASE - fint s (OUT_DELAY n) OUT_DELAY_DELAY
    + ((k * 10 ^ 18 / max 1 (outFreq s n) : Nat) : Int)

/-- Post QERR for the next edge (R368): `err` is the rounding of the fine delay in ps. -/
def outQerr (n : Nat) (err : Int) (s : State) : State :=
  if !outOn s n || !(outMode s n == 1 || outMode s n == 2) || fbit s (OUT_STATUS n) OUT_STATUS_SQUELCHED then s
  else
    let sec := (outInstant s n (outOf s n).k / 10 ^ 12).toNat
    fsetB (OUT_STATUS n) OUT_STATUS_QERR_VALID true
      (fset (OUT_QERR n) OUT_QERR_SEC sec (fsetI (OUT_QERR n) OUT_QERR_QERR err s))

/-- The error of an ALIGN output in ps (R364): the interval to the first OUTFB edge at or after the input edge + ALIGN_OFFSET − half a period,
less ALIGN_OFFSET; `interval` was measured to any OUTFB edge. -/
def alignError (s : State) (n : Nat) (interval : Int) : Int :=
  let f : Nat := max 1 (outFreq s n)
  let c := (interval - fint s (OUT_PHASE n) OUT_PHASE_PHASE) * f
  divRound ((c + 5 * 10 ^ 17) % 10 ^ 18 - 5 * 10 ^ 17) f

/-- One measured input edge of an ALIGN output (R364, R365, R368): the interval measured in ps. The first one after ENABLE aligns the
accumulator to the edge; a later one leaves its error to be removed at ALIGN_SLEW. -/
def alignMeasure (n : Nat) (interval : Int) (s : State) : State :=
  if !outOn s n || outMode s n != 3 then s
  else
    let x := outOf s n
    let s0 := fsetB (OUT_STATUS n) OUT_STATUS_ALIGN_LOST false s
    if !x.captured then
      outSet n (outLoad { x with captured := true }
        (-((outFreq s n : Int) * fint s (OUT_PHASE n) OUT_PHASE_PHASE * 2 ^ 48 / 10 ^ 18))) s0
    else
      let e := alignError s n interval
      let s1 := outSet n { x with corr := -(e * 2 ^ 72 / 1000) } s0
      let s2 := fsetB (OUT_STATUS n) OUT_STATUS_ALIGNED (decide (e.natAbs ≤ 1000)) s1
      fsetB (OUT_STATUS n) OUT_STATUS_QERR_VALID (!fbit s2 (OUT_STATUS n) OUT_STATUS_SQUELCHED)
        (fset (OUT_QERR n) OUT_QERR_SEC (nowSec32 s2) (fsetI (OUT_QERR n) OUT_QERR_QERR e s2))

/-- No input edge within 1.5 periods (R365). -/
def alignLost (n : Nat) (s : State) : State :=
  if !outOn s n || outMode s n != 3 || fbit s (OUT_STATUS n) OUT_STATUS_ALIGN_LOST then s
  else
    let s1 := fsetB (OUT_STATUS n) OUT_STATUS_ALIGNED false (fsetB (OUT_STATUS n) OUT_STATUS_ALIGN_LOST true s)
    cairnFault 0x04 sevWarning 2 (leBytes 4 n) (bump (UC_OUT n 1) 1 (fsetB (OUT_STATUS n) OUT_STATUS_QERR_VALID false s1))

/-- The set edge (R366, R367). -/
def outSetEdge (s : State) : State :=
  outQuells (forEach (List.range 8)
    (fun n a => if outOn a n && outMode a n != 3 then outOrigin n (outSet n { outOf a n with guard := 100 * 2 ^ 72 } a) else a) s)

/-- An output enters or leaves HOLD (R367). -/
def outHold (n : Nat) (b : Bool) (s : State) : State :=
  let was := fbit s (OUT_STATUS n) OUT_STATUS_DIST_HOLD
  let s1 := fsetB (OUT_STATUS n) OUT_STATUS_DIST_HOLD b s
  if b && !was then bump (UC_OUT n 2) 1 s1 else s1

-- Time of day ----------------------------------------------------------------------------------------------------

/-- Year, month and day of a day count from 1970-01-01. -/
def civilOf (days : Nat) : Nat × Nat × Nat :=
  let z := days + 719468
  let era := z / 146097
  let doe := z % 146097
  let yoe := (doe - doe / 1460 + doe / 36524 - doe / 146096) / 365
  let doy := doe - (365 * yoe + yoe / 4 - yoe / 100)
  let mp := (5 * doy + 2) / 153
  let d := doy - (153 * mp + 2) / 5 + 1
  let m := if mp < 10 then mp + 3 else mp - 9
  (yoe + era * 400 + (if m ≤ 2 then 1 else 0), m, d)

/-- Decimal digits of a number, `n` of them. -/
def dec (n v : Nat) : List Byte :=
  ((List.range n).map (fun i => BitVec.ofNat 8 (48 + v / 10 ^ i % 10))).reverse

/-- One hexadecimal digit. -/
def hexDigit (v : Nat) : Byte := BitVec.ofNat 8 (if v < 10 then 48 + v else 55 + v)

/-- Two hexadecimal digits. -/
def hex2 (v : Nat) : List Byte := [hexDigit (v / 16 % 16), hexDigit (v % 16)]

/-- An NMEA sentence around its body. -/
def nmea (body : List Byte) : List Byte :=
  ascii "$" ++ body ++ ascii "*" ++ hex2 (body.foldl (fun a b => a ^^^ b) (0 : Byte)).toNat ++ [13, 10]

/-- The ZDA sentence for a TAI second (R369); the last second before a positive leap reads 60 (R55). -/
def zda (s : State) (sec : Nat) : List Byte :=
  let p := fint s TSU_LEAP_PENDING TSU_LEAP_PENDING_PENDING
  let extra := decide (p = 1) && decide (sec + 1 = (rd s TSU_LEAP_SEC).toNat)
  let u := ((sec : Int) - utcOffsetAt s sec).toNat - (if extra then 1 else 0)
  let d := civilOf (u / 86400)
  let r := u % 86400
  nmea (ascii "GPZDA," ++ dec 2 (r / 3600) ++ dec 2 (r / 60 % 60) ++ dec 2 (r % 60 + if extra then 1 else 0) ++ ascii ".00,"
    ++ dec 2 d.2.2 ++ ascii "," ++ dec 2 d.2.1 ++ ascii "," ++ dec 4 d.1 ++ ascii ",00,00")

/-- The binary ToD message (R340, R357, R369). -/
def todBinary (s : State) (sec : Nat) (valid : Bool) : List Byte :=
  let p := fint s TSU_LEAP_PENDING TSU_LEAP_PENDING_PENDING
  let st := (if valid then 1 else 0) + (if p ≠ 0 then 2 else 0) + (if p < 0 then 4 else 0)
  let b := [0x47, 0x54, 0x01, BitVec.ofNat 8 st] ++ leBytes 8 sec ++ leBytes 2 (fget s TSU_UTC_OFFSET TSU_UTC_OFFSET_OFFSET)
    ++ [BitVec.ofNat 8 (boundLog2 s)]
  b ++ [0 - b.foldl (fun a x => a + x) 0]

/-- The message of ToD output `k`, 500 ms before the labelled edge (R369). -/
def todSend (k : Nat) (s : State) : State :=
  if !fbit s (OUT_TOD k) OUT_TOD_ENABLE ∨ 2 ≤ k then s
  else
    let n := fget s (OUT_TOD k) OUT_TOD_SRC
    if outMode s n ≠ 2 then cairnFault 0x04 sevNotice 3 (leBytes 4 k) s
    else if !outOn s n then s
    else
      let sec := (outOf s n).origin + (outOf s n).k
      let valid := !ntpUnsync s 0 && !fbit s (OUT_STATUS n) OUT_STATUS_SQUELCHED
      emitOut (.tod k (if fbit s (OUT_TOD k) OUT_TOD_FORMAT then zda s sec else todBinary s sec valid)) s

-- Registers ------------------------------------------------------------------------------------------------------

/-- Output and offset of an address. -/
def outAddr (a : Nat) : Option (Nat × Nat) :=
  if 0x40000 ≤ a ∧ a < 0x40800 then some ((a - 0x40000) / 0x100, a % 0x100) else none

/-- Writable fields of OUTn_CTL. -/
def outCtlMask : Word :=
  maskF OUT_CTL_ENABLE ||| maskF OUT_CTL_MODE ||| maskF OUT_CTL_SQUELCH ||| maskF OUT_CTL_ALIGN_SRC ||| maskF OUT_CTL_ALIGN_SLEW

/-- The register as a write leaves it. -/
def outStored (a : Nat) (v : Word) (s : State) : State :=
  match outAddr a with
  | some (_, 0) => wr a ((rd s a &&& ~~~ outCtlMask) ||| (v &&& outCtlMask)) s
  | some (_, 8) => fset a OUT_FREQ_FREQ (getF OUT_FREQ_FREQ v) s
  | some (_, 0x10) => fset a OUT_WIDTH_WIDTH (getF OUT_WIDTH_WIDTH v) s
  | some (_, 0x18) => fset a OUT_PHASE_PHASE (getF OUT_PHASE_PHASE v) s
  | some (_, 0x20) => fset a OUT_DELAY_DELAY (getF OUT_DELAY_DELAY v) s
  | _ => s

/-- Checks of a write to an output register (R362 to R364). -/
def outCheck (a : Nat) (v : Word) (s : State) : Verdict :=
  match outAddr a with
  | some (n, o) =>
    if 0x20 < o then .ok
    else
      let s1 := outStored a v s
      let locked := o ≠ 0 ∨ outMode s1 n ≠ outMode s n ∨ getF OUT_CTL_ALIGN_SRC v ≠ fget s a OUT_CTL_ALIGN_SRC
      if !outLimits s1 n then vRange
      else if outOn s n ∧ locked then vState 0xE
      else if o = 0 ∧ !outOn s n ∧ outOn s1 n ∧ outMode s1 n = 3 ∧ !alignFree s1 n then vState 0xE
      else .ok
  | none => .ok

/-- The effect of an accepted write to an output register. -/
def outApply (a : Nat) (v : Word) (s : State) : Option State :=
  match outAddr a with
  | some (n, o) =>
    if 0x20 < o then none
    else
      let s1 := outPath n (outStored a v s)
      some (if o ≠ 0 then s1 else if outOn s n = outOn s1 n then outQuell n s1 else if outOn s1 n then outEnable n s1 else outDisable n s1)
  | none => none

/-- OUT_PLL_LOCK (R360). -/
def execOutPllLock (n : Nat) (s : State) : Res := runIf (n < 8) (outLock n) s

/-- OUT_PLL_LOCK_LOSS (R360). -/
def execOutPllLockLoss (n : Nat) (s : State) : Res := runIf (n < 8) (outLockLoss n) s

/-- OUT_QERR_POST (R368). -/
def execOutQerrPost (n : Nat) (err : Int) (s : State) : Res := runIf (n < 8) (outQerr n err) s

/-- ALIGN_MEASUREMENT (R364). -/
def execAlignMeasurement (n : Nat) (interval : Int) (s : State) : Res := runIf (n < 8) (alignMeasure n interval) s

/-- ALIGN_LOST (R365). -/
def execAlignLost (n : Nat) (s : State) : Res := runIf (n < 8) (alignLost n) s

/-- TOD_OUT_MESSAGE (R369). -/
def execTodOutMessage (k : Nat) (s : State) : Res := run (todSend k) s

/-- OUTPUT_EDGE (R361). -/
def execOutputEdge (n : Nat) (rise : Bool) (s : State) : Res := runIf (n < 8) (outEdge n rise) s

end Sys2Proof.Machine
end

