-- ==== Sys2Proof/Machine/Flags.lean ====
section
/-!
DEFINITION. Machine/Flags.lean: the flags of a run, the conditions that test them (R97, R121), and the flag computations of
ALU and TESTB (R130, R131).
-/
namespace Sys2Proof.Machine
open Sys2Proof

-- Bits of PE_CTX_FLAGS.
def fZ : Nat := 0
def fC : Nat := 1
def fLT : Nat := 2
def fBIT : Nat := 3
def fHIT : Nat := 4
def fOOB : Nat := 8
def fLATE : Nat := 9
def fOVER : Nat := 10
def fAUTHF : Nat := 11
def fBAD : Nat := 12

/-- Write one flag. -/
def flagSet (i : Nat) (b : Bool) (f : Nat) : Nat := if b then f ||| 2 ^ i else (f ||| 2 ^ i) ^^^ 2 ^ i

/-- Raise a sticky flag when a condition holds (R97). -/
def flagRaise (i : Nat) (b : Bool) (f : Nat) : Nat := if b then f ||| 2 ^ i else f

/-- COND (R121). -/
def condHolds (c f : Nat) : Bool :=
  match c with
  | 0 => true
  | 1 => f.testBit fZ
  | 2 => !f.testBit fZ
  | 3 => f.testBit fC
  | 4 => !f.testBit fC
  | 5 => f.testBit fHIT
  | 6 => !f.testBit fHIT
  | 7 => f.testBit fOOB
  | 8 => f.testBit fLATE
  | 9 => f.testBit fOVER
  | 10 => f.testBit fAUTHF
  | 11 => f.testBit fBAD
  | 12 => f.testBit fLT
  | 13 => !f.testBit fLT
  | 14 => f.testBit fBIT
  | _ => !f.testBit fBIT

/-- What ALU computes: the result (none for CMP, which writes nothing), Z, C and LT. -/
structure AluOut where
  r : Option Nat
  z : Bool
  c : Bool
  lt : Bool
  deriving DecidableEq, Repr

/-- a < b, signed or unsigned. -/
def aluLess (sg : Bool) (a b : Nat) : Bool := if sg then decide (sgn 64 a < sgn 64 b) else decide (a < b)

/-- A result with its Z. -/
def aluRes (r : Nat) (c lt : Bool) : AluOut := ⟨some r, decide (r = 0), c, lt⟩

/-- Shift right, logical or arithmetic, of a 64-bit value. -/
def aluShr (sg : Bool) (a k : Nat) : Nat :=
  if sg ∧ 2 ^ 63 ≤ a then
    (if 64 ≤ k then 2 ^ 64 - 1 else a / 2 ^ k + (2 ^ 64 - 2 ^ (64 - k)))
  else if 64 ≤ k then 0 else a / 2 ^ k

/-- ALU (R130): sub-operation, SGN, BW, operands. None for an encoded value outside its table (R124). -/
def aluOp (sub : Nat) (sg : Bool) (bw a b : Nat) : Option AluOut :=
  let k := b % 256
  match sub with
  | 0 => some (aluRes ((a + b) % 2 ^ 64) (decide (2 ^ 64 ≤ a + b)) (aluLess sg a b))
  | 1 => some (aluRes ((a + 2 ^ 64 - b) % 2 ^ 64) (decide (a < b)) (aluLess sg a b))
  | 2 => some (aluRes (a &&& b) false false)
  | 3 => some (aluRes (a ||| b) false false)
  | 4 => some (aluRes (a ^^^ b) false false)
  | 5 => some (aluRes (if 64 ≤ k then 0 else a * 2 ^ k % 2 ^ 64) (decide (1 ≤ k ∧ k ≤ 64) && a.testBit (64 - k)) false)
  | 6 => some (aluRes (aluShr sg a k) (decide (1 ≤ k ∧ k ≤ 64) && a.testBit (k - 1)) false)
  | 7 => some ⟨none, decide (a = b), decide (a < b), aluLess sg a b⟩
  | 8 => some (aluRes (if aluLess sg a b then a else b) false (aluLess sg a b))
  | 9 => some (aluRes (if aluLess sg a b then b else a) false (aluLess sg a b))
  | 10 => if bw = 3 then none
    else
      let n := 2 ^ (bw + 1)
      some (aluRes (beNat (leBytes n a)) false false)
  | _ => none

/-- TESTB (R131). -/
def testBits (all : Bool) (a m : Nat) : Bool := if all then decide (a &&& m = m) else decide (a &&& m ≠ 0)

end Sys2Proof.Machine
end

