-- ==== Sys2Proof/Machine/Ports.lean ====
section
/-!
DEFINITION. Machine/Ports.lean: the service ports (R64 to R87): modes, lane calibration, the receive MAC, the ingress stamp,
pre-classification (R33) and the dispatch queues (R34, R90, R92).
-/
namespace Sys2Proof.Machine
open Sys2Proof

-- Service state --------------------------------------------------------------------------------------------------

/-- What PORTn_STATUS and PORTn_LINK_DOWN show (R80, R82, R86). -/
def portRefresh (p : Nat) (s : State) : State :=
  if !portLive s p then s
  else
    let en := fbit s (PORT_MODE p) PORT_MODE_ENABLE
    let lk := fbit s (PORT_STATUS p) PORT_STATUS_LINK
    let up := en && lk && fbit s (PORT_STATUS p) PORT_STATUS_TX_CAL_VALID && fbit s (PORT_STATUS p) PORT_STATUS_RX_CAL_VALID
      && !inHold s p && !resting s
    setLevel (EV_PORT_LINK_DOWN p) (en && !lk)
      (fsetB (PORT_STATUS p) PORT_STATUS_IN_SERVICE up (fsetB (PORT_STATUS p) PORT_STATUS_REST (decide (phase s = 5)) s))

/-- All ports. -/
def portsRefresh (s : State) : State := forEach (List.range 8) portRefresh s

-- Calibration ----------------------------------------------------------------------------------------------------

/-- A calibration of lane `l` starts for the sides named, from step 1, and so does again what still runs there (R77). A lane of a DISABLED group, without power or at rest has
none (R64, R83). -/
def calStart (tx rx : Bool) (l : Nat) (s : State) : State :=
  if !laneFitted s l || groupMode s l = 0 || !(portOf s l).powered || restHalt s then s
  else
    let x := portOf s l
    let p := lanePort s l
    let s1 := portSet l { x with calTx := x.calTx || tx, calRx := x.calRx || rx, txOk := x.txOk && !tx, rxOk := x.rxOk && !rx,
                                 txRej := if tx || x.calTx then 0 else x.txRej, rxRej := if rx || x.calRx then 0 else x.rxRej } s
    let s2 := fsetB (PORT_STATUS p) PORT_STATUS_CAL_FAILED false s1
    let s3 := if tx then gateReplan p (fsetB (PORT_STATUS p) PORT_STATUS_TX_CAL_VALID false s2) else s2
    let s4 := if rx then fsetB (PORT_STATUS p) PORT_STATUS_RX_CAL_VALID false s3 else s3
    portRefresh p s4

/-- Both sides of every lane of a port. -/
def calPort (p : Nat) (s : State) : State := forEach (portLanes s p) (calStart true true) s

/-- The lanes of a port get power, its local counter is loaded (R24) and they are calibrated (R77). -/
def portUp (p : Nat) (s : State) : State :=
  calPort p (localLoad p (forEach (portLanes s p) (fun l a => portSet l { portOf a l with powered := true, stopRx := false } a) s))

/-- The sum of a list. -/
def sumInt (xs : List Int) : Int := xs.foldl (fun a x => a + x) 0

/-- Is the measurement of a calibration step accepted (R78)? Transmit: 256 phases in ps that span no more than 20 ps. Receive: 256
boundary intervals, as their distance in ps from the mean of 1,024. -/
def calOk (tx : Bool) (meas : List Int) : Bool :=
  if tx then meas.all (fun x => meas.all (fun y => decide (x - y ≤ 20))) else meas.all (fun x => decide (x.natAbs ≤ 20))

/-- The latency a step finds in 2^-16 ns (R78): the part in OTP plus the mean phase, or plus `slip` unit intervals. -/
def calLat (s : State) (l : Nat) (tx : Bool) (meas : List Int) (slip : Nat) : Nat :=
  let m := groupMode s l
  let d : Int := if tx then divRound (sumInt meas * 65536) (256 * 1000) else divRound ((slip * uiNum m * 65536 : Nat) : Int) (uiDen m)
  ((Config.otpLatency tx l m : Int) + d).toNat

/-- Is the side under calibration, and for the receive side does the lane hold lock (R77, R78)? A lane of a DISABLED group has none (R64). -/
def calRuns (s : State) (l : Nat) (tx : Bool) : Bool :=
  let x := portOf s l
  decide (groupMode s l ≠ 0) && (if tx then x.calTx else x.calRx && x.lock)

/-- A measurement of a calibration step is rejected, and the step repeated (R78). -/
def calReject (l : Nat) (tx : Bool) (s : State) : State :=
  let x := portOf s l
  portSet l (if tx then { x with txRej := x.txRej + 1 } else { x with rxRej := x.rxRej + 1 }) s

/-- A side completes (R78): `lat` is its latency, 2^-16 ns; `tcw` (2^-72 ns) and `am` place the grid origin (R156). DESIGN CHOICE (log entry
142): the valid bit of a port of several lanes sets once the side has completed on all of them. -/
def calDone (l : Nat) (tx : Bool) (lat tcw am : Nat) (s : State) : State :=
  let x := portOf s l
  if !calRuns s l tx then s
  else
    let p := lanePort s l
    let x1 := if tx then { x with calTx := false, txOk := true } else { x with calRx := false, rxOk := !x.rateOut }
    let s1 := portSet l x1 s
    let s2 := if tx then fset (PORT_CAL_TX l) PORT_CAL_TX_LAT_TX lat s1 else fset (PORT_CAL_RX l) PORT_CAL_RX_LAT_RX lat s1
    let allTx := (portLanes s2 p).all (fun k => (portOf s2 k).txOk)
    let allRx := (portLanes s2 p).all (fun k => (portOf s2 k).rxOk)
    let s3 := if tx ∧ allTx then gatePlan p tcw am (fsetB (PORT_STATUS p) PORT_STATUS_TX_CAL_VALID true s2) else s2
    let s4 := if !tx ∧ allRx then fsetB (PORT_STATUS p) PORT_STATUS_RX_CAL_VALID true s3 else s3
    let s5 := fset (PORT_CAL_CTL l) PORT_CAL_CTL_CAL_COUNT (fget s4 (PORT_CAL_CTL l) PORT_CAL_CTL_CAL_COUNT + 1)
      (fset (PORT_CAL_CTL l) PORT_CAL_CTL_LAST_SEC (nowSec32 s4) s4)
    portRefresh p (occur (EV_PORT_CAL p) s5)

/-- A step is rejected a third time (R79). -/
def calFail (l : Nat) (tx : Bool) (s : State) : State :=
  let x := portOf s l
  if !calRuns s l tx then s
  else
    let p := lanePort s l
    let s1 := portSet l (if tx then { x with calTx := false } else { x with calRx := false }) s
    let s2 := occur (EV_PORT_CAL p) (fsetB (PORT_STATUS p) PORT_STATUS_CAL_FAILED true s1)
    portRefresh p (cairnFault (0x10 + p) sevError (if tx then 1 else 2) (leBytes 4 l) s2)

-- Registers ------------------------------------------------------------------------------------------------------

/-- The modes a variant has for a group (R64 to R66). -/
def modeFitted (v : Variant) (p m : Nat) : Bool :=
  decide (m ≤ 5) && unitBit v p && (decide (m ≠ 5) || unitBit v (p + 3))

/-- Checks of a write to a port register (R75). -/
def portCheck (a : Nat) (v : Word) : Verdict :=
  let o := (a - 0x100000) % 0x10000
  if 0x100000 ≤ a ∧ a < 0x180000 ∧ (o = 0xA0 ∨ o = 0xA8) then
    let x := sgn 32 (getF PORT_TX_DELAY_ADJ_ADJ v)
    if -10000000 ≤ x ∧ x ≤ 10000000 then .ok else vRange
  else .ok

/-- ENABLE of a port changes (R66, R77, R170, R171). A DISABLED group's lanes stay without power (R64), and so do those of a device
at rest (R83); before stage S7 LANES, which calibrates, nothing is powered. -/
def portEnable (p : Nat) (on : Bool) (s : State) : State :=
  if on then
    portRefresh p (if groupMode s p = 0 ∨ restHalt s ∨ fget s SYS_START_STATUS SYS_START_STATUS_STAGE < 7 then s else portUp p s)
  else portRefresh p (freeFlush p (forEach (portLanes s p) (fun l a => portSet l { portOf a l with stopRx := true } a) s))

/-- Receive lock lost on lane `l` (R81): the port signals remote fault. -/
def lockLoss (l : Nat) (s : State) : State :=
  let p := lanePort s l
  if !portLive s p then s
  else
    let s1 := portSet l { portOf s l with rxOk := false, calRx := false, lock := false, lost := true } s
    let s2 := portSet p { portOf s1 p with rfOut := true } s1
    let s3 := fsetB (PORT_STATUS p) PORT_STATUS_LINK false (fsetB (PORT_STATUS p) PORT_STATUS_RX_CAL_VALID false s2)
    portRefresh p (strikePort p 1 (fun _ => true) s3)

/-- The lanes of a port power down and lose lock (R64, R66, R82); a calibration of one ends unfinished. -/
def lanesDown (p : Nat) (s : State) : State :=
  let s1 := forEach (portLanes s p) lockLoss s
  let s2 := forEach (portLanes s p) (fun l b => portSet l { portOf b l with powered := false, calTx := false, txOk := false, lost := false, rfOut := false } b) s1
  portRefresh p s2

/-- The three ports of a group that turn inert lose the levels of their sources (R65). -/
def inertLevels (p : Nat) (s : State) : State :=
  forEach [p + 1, p + 2, p + 3] (fun k a => setLevel (EV_PORT_LINK_DOWN k) false a) s

/-- The lanes of a group that becomes DISABLED power down (R64). -/
def groupDown (p m : Nat) (s : State) : State :=
  if m = 0 ∧ groupMode s p ≠ 0 then forEach ((List.range 4).map (p + ·)) (fun k a => if portLive a k then lanesDown k a else a) s else s

/-- The effect of a write of PORTn_MODE (R66): before S9 it also sets the group mode. -/
def portMode (p : Nat) (v : Word) (s : State) : State :=
  let en := getF PORT_MODE_ENABLE v ≠ 0
  let was := fbit s (PORT_MODE p) PORT_MODE_ENABLE
  let s1 :=
    if rwlLocked s ∨ p % 4 ≠ 0 then s
    else
      let m := getF PORT_MODE_GROUP_MODE v
      let ok := modeFitted s.variant p m
      let s0 := fset (PORT_MODE p) PORT_MODE_FEC25 (getF PORT_MODE_FEC25 v)
        (fset (PORT_MODE p) PORT_MODE_GROUP_MODE (if ok then m else 0)
          (if ok ∧ m = 5 then inertLevels p s else groupDown p (if ok then m else 0) s))
      if ok then s0 else writeIgnored (PORT_MODE p) v 1 s0
  let s2 := fsetB (PORT_MODE p) PORT_MODE_ENABLE (decide en) s1
  if decide en = was then s2 else portEnable p (decide en) s2

/-- Alarm of PORTn_FEC_THRESH (R86): the corrected symbols of the present TSU second exceed it. Raised once in a second. -/
def fecAlarm (p : Nat) (s : State) : State :=
  let x := portOf s p
  let now := nowSec s + 1
  if x.fecSec = now ∧ fget s (PORT_FEC_THRESH p) PORT_FEC_THRESH_THRESH < x.fecSym ∧ x.fecAl ≠ now then
    occur (EV_PORT_FEC_ALARM p) (portSet p { x with fecAl := now } s)
  else s

/-- The effect of an accepted write to a port register; none where the plain storing is all there is. -/
def portApply (a : Nat) (v : Word) (s : State) : Option State :=
  if a < 0x100000 ∨ 0x180000 ≤ a then none
  else
    let p := (a - 0x100000) / 0x10000
    let o := (a - 0x100000) % 0x10000
    if o = 0 then some (portMode p v s)
    else if o = 0xA0 then
      some (portSet p { portOf s p with txWait := (portOf s p).txWait ++ [(gtNow s, sgn 32 (getF PORT_TX_DELAY_ADJ_ADJ v))] }
        (fset a PORT_TX_DELAY_ADJ_ADJ (getF PORT_TX_DELAY_ADJ_ADJ v) s))
    else if o = 0xA8 then
      some (portSet p { portOf s p with rxWait := (portOf s p).rxWait ++ [(gtNow s, sgn 32 (getF PORT_RX_DELAY_ADJ_ADJ v))] }
        (fset a PORT_RX_DELAY_ADJ_ADJ (getF PORT_RX_DELAY_ADJ_ADJ v) s))
    else if o = 0xC0 then some (if getF PORT_CAL_CTL_RECAL v ≠ 0 then calStart true true p s else s)
    else if o = 0xC8 then some (fecAlarm p (fset a PORT_FEC_THRESH_THRESH (getF PORT_FEC_THRESH_THRESH v) s))
    else none

/-- Registers of a lane whose port another lane's number names hold calibration values only (R65). -/
def portInert (s : State) (a : Nat) : Bool :=
  decide (0x100000 ≤ a) && decide (a < 0x180000) && !portLive s ((a - 0x100000) / 0x10000)
    && !([0xB0, 0xB8, 0xC0].contains ((a - 0x100000) % 0x10000))

/-- The value of the latest of the waiting writes made at least 40 ns before `now`, if any is (R76). -/
def adjDue (now : Nat) (w : List (Nat × Int)) : Option Int :=
  ((w.filter (fun x => decide (x.1 + ns32 40 ≤ now))).getLast?).map (fun x => x.2)

/-- The writes that still wait. -/
def adjLeft (now : Nat) (w : List (Nat × Int)) : List (Nat × Int) := w.filter (fun x => decide (now < x.1 + ns32 40))

/-- Adjustments written at least 40 ns before a compare tick come into force on it (R76). -/
def adjTick (s : State) : State :=
  forEach (List.range 8) (fun p a =>
    let x := portOf a p
    let now := gtNow a
    let x1 := match adjDue now x.txWait with
      | some v => { x with txAdj := v, txWait := adjLeft now x.txWait }
      | none => x
    let x2 := match adjDue now x1.rxWait with
      | some v => { x1 with rxAdj := v, rxPrev := x1.rxAdj, rxAt := now, rxWait := adjLeft now x1.rxWait }
      | none => x1
    portSet p x2 a) s

-- Far-end rate ---------------------------------------------------------------------------------------------------

/-- A measured far-end rate in ppb crosses a limit of R73. -/
def rateExcursion (p : Nat) (rate : Int) (s : State) : State :=
  if !portLive s p then s
  else
    let s1 := fsetI (PORT_STATUS p) PORT_STATUS_RX_RATE rate s
    if 200000 < rate.natAbs then
      portRefresh p (fsetB (PORT_STATUS p) PORT_STATUS_RX_CAL_VALID false
        (forEach (portLanes s1 p) (fun l a => portSet l { portOf a l with rateOut := true, rxOk := false } a) s1))
    else if rate.natAbs < 150000 ∧ (portOf s1 p).rateOut then
      forEach (portLanes s1 p) (fun l a => calStart false true l (portSet l { portOf a l with rateOut := false } a)) s1
    else s1

-- Reception ------------------------------------------------------------------------------------------------------

/-- A frame as the port receives it: its bytes with FCS; code or uncorrectable-FEC error within it; the lane of its
timestamp point, the phase-meter instant of the boundary before it (2^-32 ns) and the unit intervals from there (R72); the
measured far-end rate (ppb); corrected symbols and uncorrectable codewords met since the last frame (R86); the
frame-buffer offset the device takes for it. -/
structure RxFrame where
  bytes : List Byte
  code : Bool
  lane : Nat
  tw : Nat
  k : Nat
  rate : Int
  fecSym : Nat
  fecUe : Nat
  addr : Nat
  deriving DecidableEq, Repr

/-- The ingress stamp in 2^-32 ns (R72), with the adjustment in force when the point crossed the ball (R76). -/
def ingress (s : State) (p lane tw k : Nat) : Nat :=
  let m := groupMode s p
  let r := fint s (PORT_STATUS p) PORT_STATUS_RX_RATE
  let d : Int := uiDen m * 1000000000
  let lat : Int := (fget s (PORT_CAL_RX lane) PORT_CAL_RX_LAT_RX : Int)
  let n : Int := ((tw : Int) - lat * 2 ^ 16) * d * 1000 + (k : Int) * uiNum m * (1000000000 - r) * 1000 * 2 ^ 32
  let x := portOf s p
  let adj := if x.rxAt ≤ (divRound n (uiDen m * 1000000000 * 1000)).toNat then x.rxAdj else x.rxPrev
  (divRound (n - adj * d * 2 ^ 32) (uiDen m * 1000000000 * 1000)).toNat

/-- Offset of the UDP or TCP header, and the protocol (R92). -/
def l4Of (bs : List Byte) (et l3 : Nat) : Option (Nat × Nat) :=
  if et = 0x0800 then
    let proto := beAt bs (l3 + 9) 1
    let ihl := beAt bs l3 1 % 16
    if beAt bs (l3 + 6) 2 % 0x4000 = 0 ∧ (proto = 17 ∨ proto = 6) then some (l3 + 4 * ihl, proto) else none
  else if et = 0x86DD then
    let proto := beAt bs (l3 + 6) 1
    if proto = 17 ∨ proto = 6 then some (l3 + 40, proto) else none
  else none

/-- The dispatch class of a frame (R33). -/
def classOf (bs : List Byte) (et l3 : Nat) (l4 : Option (Nat × Nat)) : Nat :=
  if et = 0x88F7 ∧ beAt bs l3 1 % 16 ≤ 3 then 0
  else match l4 with
    | some (o, 17) =>
      let port := beAt bs (o + 2) 2
      let len := beAt bs (o + 4) 2
      if port = 319 then 0 else if port = 123 ∧ 56 < len then 1 else if port = 123 ∧ len = 56 then 2 else 3
    | _ => 3

/-- A frame descriptor (R92), with SEQ and DISP_SUB still open. -/
def mkDesc (inT addr len port th cls rxErr tags l3 l4 et aux : Nat) (injected : Bool) : List Byte :=
  leBytes 8 (gtSec inT) ++ leBytes 8 (gtSub inT) ++ leBytes 4 addr ++ leBytes 2 len
    ++ [BitVec.ofNat 8 port, BitVec.ofNat 8 th, BitVec.ofNat 8 (cls + if injected then 32 else 0), BitVec.ofNat 8 rxErr,
        BitVec.ofNat 8 tags, BitVec.ofNat 8 l3]
    ++ leBytes 2 l4 ++ leBytes 2 et ++ zeros 8 ++ leBytes 8 aux ++ zeros 16

/-- Base of the frame-buffer window (R521). -/
def frameBase : Nat := 0x50000000

/-- Is [a, a + n) free in the frame buffer (R90, R116)? -/
def frameFits (s : State) (a n : Nat) : Bool :=
  decide (a + n ≤ 0x01F80000) && s.pe.frames.all (fun x => decide (a + n ≤ x.1) || decide (x.1 + x.2 ≤ a))

/-- Put a frame into the frame buffer. -/
def frameStore (a : Nat) (bs : List Byte) (s : State) : State :=
  stBytes (frameBase + a) bs { s with pe := { s.pe with frames := mapSet (fun _ => 0) a bs.length s.pe.frames } }

/-- A dispatch queue (R90). -/
def queueOf (s : State) (k : Nat) : List (List Byte × Nat × Bool) := mapGet (fun _ => []) s.pe.q k
def queueSet (k : Nat) (x : List (List Byte × Nat × Bool)) (s : State) : State :=
  { s with pe := { s.pe with q := mapSet (fun _ => []) k x s.pe.q } }

/-- Queue a descriptor; `old`: its ingress stamp lies before the set edge (R50). -/
def queueAdd (k : Nat) (d : List Byte) (old : Bool) (s : State) : State := queueSet k (queueOf s k ++ [(d, gtNow s, old)]) s

/-- Queue the descriptor of an injected frame. -/
def queuePush (k : Nat) (d : List Byte) (s : State) : State := queueAdd k d false s

/-- A frame lost to a full queue or frame buffer (R34, R86, R90). -/
def dispDrop (p cls : Nat) (s : State) : State := raiseOnce (EV_PORT_DISCARD p) (bump (EC_PORT p (jDISP_DROP cls)) 1 s)

/-- Deliver a frame to dispatch (R90 to R92). One whose point crossed before the set edge is older than it, though it comes later (R50). -/
def deliver (p rxErr : Nat) (x : RxFrame) (bs : List Byte) (s : State) : State :=
  let e := etherOf bs
  let l4 := l4Of bs e.1 e.2.1
  let cls := if rxErr ≠ 0 then 3 else classOf bs e.1 e.2.1 l4
  let k := 4 * p + cls
  if 256 ≤ (queueOf s k).length ∨ !frameFits s x.addr bs.length then dispDrop p cls s
  else
    let t := ingress s p x.lane x.tw x.k
    let d := mkDesc t x.addr bs.length p p cls rxErr e.2.2 e.2.1
      (match l4 with | some (o, _) => o | none => 0xFFFF) e.1 0 false
    queueAdd k d (fbit s TSU_STATE TSU_STATE_STATE && decide (t < s.tsu.setAt)) (frameStore x.addr bs s)

/-- FEC counts met with a frame (R86, R87). -/
def fecNote (p sym ue : Nat) (s : State) : State :=
  let x := portOf s p
  let now := nowSec s + 1
  let n := (if x.fecSec = now then x.fecSym else 0) + sym
  let s1 := portSet p { x with fecSec := if sym = 0 then x.fecSec else now, fecSym := if sym = 0 then x.fecSym else n,
                               ueSec := if ue = 0 then x.ueSec else gtNow s + 1 } s
  let s2 := fecAlarm p (bump (EC_PORT p jFEC_UE_CW) ue (bump (EC_PORT p jFEC_CORR_SYM) sym s1))
  if ue ≠ 0 ∧ (x.ueSec = 0 ∨ x.ueSec - 1 + gtSecond ≤ gtNow s) then occur (EV_PORT_FEC_ALARM p) s2 else s2

/-- Is the destination address accepted (R67)? -/
def macAccepts (s : State) (p : Nat) (bs : List Byte) : Bool :=
  let da := beAt bs 0 6
  fbit s (PORT_MAC_CTL p) PORT_MAC_CTL_PROMISC || decide (da = fget s (PORT_MAC_ADDR p) PORT_MAC_ADDR_ADDR)
    || (decide (da = 0xFFFFFFFFFFFF) && fbit s (PORT_MAC_CTL p) PORT_MAC_CTL_BCAST)
    || (List.range 16).any (fun k => fbit s (PORT_MCAST p k) PORT_MCAST_VALID && decide (da = fget s (PORT_MCAST p k) PORT_MCAST_ADDR))

/-- EtherType behind any number of tags at `off`, at most `n` of them. -/
def typeBehind (bs : List Byte) : Nat → Nat → Nat
  | 0, off => beAt bs off 2
  | n + 1, off => if beAt bs off 2 = 0x8100 then typeBehind bs n (off + 4) else beAt bs off 2

/-- Is it a MAC control frame, behind however many tags (R69)? -/
def macControl (bs : List Byte) : Bool :=
  let e := etherOf bs
  decide ((if e.2.2 = 2 ∧ e.1 = 0x8100 then typeBehind bs (bs.length / 4) (e.2.1 + 2) else e.1) = 0x8808)

/-- The receive MAC judges a frame, whole or cut off (R67 to R69, R80). -/
def judge (p : Nat) (x : RxFrame) (s : State) : State :=
  if !fbit s (PORT_STATUS p) PORT_STATUS_RX_CAL_VALID then raiseOnce (EV_PORT_DISCARD p) (bump (EC_PORT p jRX_UNCAL) 1 s)
  else
    let max := fget s (PORT_MAC_CTL p) PORT_MAC_CTL_MAX_FRAME
    let n := x.bytes.length
    let bs := if max < n then x.bytes.take max else x.bytes
    let body := x.bytes.take (n - 4)
    let e := etherOf body
    let fcsBad := decide (fcsOf body ≠ x.bytes.drop (n - 4))
    let runt := decide (n < 64)
    let long := decide (max < n)
    let tags := decide (e.2.2 = 2) && decide (e.1 = 0x8100)
    let keep := fbit s (PORT_MAC_CTL p) PORT_MAC_CTL_KEEP_BAD && !macControl body
    let err := (if fcsBad then 1 else 0) + (if runt then 2 else 0) + (if long then 4 + 32 else 0) + (if x.code then 8 else 0)
      + (if tags then 16 else 0)
    let bad := if x.code then some jRX_CODE else if runt then some jRX_RUNT else if long then some jRX_LONG
      else if fcsBad then some jRX_FCS else if tags then some jRX_TAGS_OVER else none
    match bad with
    | some j =>
      let s1 := bump (EC_PORT p j) 1 s
      if keep then deliver p err x bs s1 else s1
    | none =>
      if e.1 = 0x8808 then
        let op := beAt body e.2.1 2
        bump (EC_PORT p (if op = 0x0001 ∨ op = 0x0101 then jRX_PAUSE else jRX_MAC_CTL)) 1 s
      else if !macAccepts s p body then bump (EC_PORT p jRX_FILTERED) 1 s
      else deliver p 0 x bs (bump (EC_PORT p jRX_OK) 1 s)

/-- A received frame: one of a port just disabled still comes in until reception stops (R66); the far-end rate met with it counts
for R73. -/
def receive (p : Nat) (x : RxFrame) (s : State) : State :=
  if !portLive s p || groupMode s p = 0 || !(fbit s (PORT_MODE p) PORT_MODE_ENABLE || (portOf s p).stopRx)
      || !fbit s (PORT_STATUS p) PORT_STATUS_LINK || resting s then s
  else judge p x (rateExcursion p x.rate (fecNote p x.fecSym x.fecUe s))

/-- A partly received frame is cut off (R66, R68, R81): a frame that fails for CODE; no bytes: none was being received. -/
def partialDrop (p : Nat) (part : List Byte) (lane tw k addr : Nat) (s : State) : State :=
  if part.isEmpty then s
  else judge p { bytes := part, code := true, lane := lane, tw := tw, k := k, rate := 0, fecSym := 0, fecUe := 0, addr := addr } s

-- Loss and gain of lock ------------------------------------------------------------------------------------------

/-- Receive lock gained on lane `l` (R77, R79); one that was lost counts in RELOCK (R81). The port has link once each of its lanes holds
lock. -/
def lockGain (l : Nat) (fault : Bool) (s : State) : State :=
  let p := lanePort s l
  if !portLive s p || groupMode s p = 0 || !(portOf s l).powered || restHalt s then s
  else
    let s1 := if (portOf s l).lost then bump (EC_PORT p jRELOCK) 1 s else s
    let s2 := portSet l { portOf s1 l with lock := true, lost := false } s1
    let up := (portLanes s2 p).all (fun k => (portOf s2 k).lock)
    let s3 := if up then portSet p { portOf s2 p with rfOut := false } (fsetB (PORT_STATUS p) PORT_STATUS_LINK true s2) else s2
    calStart false true l (fsetB (PORT_STATUS p) PORT_STATUS_REMOTE_FAULT fault s3)

/-- FRAME_RECEIVE (R67). -/
def execFrameReceive (port : Nat) (bytes : List Byte) (code : Bool) (lane tw k : Nat) (rate : Int) (fecSym fecUe addr : Nat)
    (s : State) : Res :=
  run (receive port { bytes := bytes, code := code, lane := lane, tw := tw, k := k, rate := rate, fecSym := fecSym,
                      fecUe := fecUe, addr := addr }) s

/-- Reception of a disabled port stops at a boundary (R66). -/
def receptionStop (port : Nat) (part : List Byte) (lane tw k addr : Nat) (s : State) : State :=
  if (portOf s port).stopRx then
    partialDrop port part lane tw k addr (forEach (portLanes s port) (fun l b => portSet l { portOf b l with stopRx := false } b) s)
  else s

/-- RECEPTION_STOP (R66). -/
def execReceptionStop (port : Nat) (part : PartFrame) (s : State) : Res :=
  runIf (port < 8) (receptionStop port part.bytes part.lane part.tw part.k part.addr) s

/-- LANE_POWER_DOWN (R66): nothing planned is left on a disabled port. -/
def execLanePowerDown (port : Nat) (s : State) : Res :=
  runIf (port < 8 ∧ portLive s port) (fun a =>
    if fbit a (PORT_MODE port) PORT_MODE_ENABLE ∨ (gateOf a port).cal ≠ [] then a else lanesDown port a) s

/-- RX_RATE_EXCURSION (R73). -/
def execRxRateExcursion (port : Nat) (rate : Int) (s : State) : Res := run (rateExcursion port rate) s

/-- TX_PLL_RELOCK (R77). -/
def execTxPllRelock (lane : Nat) (s : State) : Res := run (calStart true true lane) s

/-- RX_LOCK_GAIN (R77). -/
def execRxLockGain (lane : Nat) (fault : Bool) (s : State) : Res := run (lockGain lane fault) s

/-- RX_LOCK_LOSS (R81): what was partly received is judged as the port stood before the loss. -/
def execRxLockLoss (lane : Nat) (part : PartFrame) (s : State) : Res :=
  run (fun a => lockLoss lane (if portLive a (lanePort a lane) ∧ fbit a (PORT_STATUS (lanePort a lane)) PORT_STATUS_LINK ∧ !resting a then
    partialDrop (lanePort a lane) part.bytes part.lane part.tw part.k part.addr a else a)) s

end Sys2Proof.Machine
end

