-- ==== Sys2Proof/Machine/Operands.lean ====
section
/-!
DEFINITION. Machine/Operands.lean: the operand fields of a Pitch (R120, R122, R123), work registers, anchors, and reads and
writes of memory references (R92 to R96, R127).
-/
namespace Sys2Proof.Machine
open Sys2Proof

/-- A field of a 256-bit Pitch. -/
def pf (p lo n : Nat) : Nat := p / 2 ^ lo % 2 ^ n

/-- One bit of a Pitch. -/
def pb (p i : Nat) : Bool := p.testBit i

def pOp (p : Nat) : Nat := pf p 248 8
def pCond (p : Nat) : Nat := pf p 244 4
def pNextT (p : Nat) : Nat := pf p 228 16
def pNextF (p : Nat) : Nat := pf p 212 16
def pRes (p : Nat) : Nat := pf p 208 4
def pWd (p : Nat) : Nat := pf p 204 4
def pWa (p : Nat) : Nat := pf p 200 4
def pWb (p : Nat) : Nat := pf p 196 4
def pAnc1 (p : Nat) : Nat := pf p 193 3
def pOff1 (p : Nat) : Int := sgn 16 (pf p 177 16)
def pAnc2 (p : Nat) : Nat := pf p 174 3
def pOff2 (p : Nat) : Int := sgn 16 (pf p 158 16)
def pLen (p : Nat) : Nat := pf p 142 16
def pImm (p : Nat) : Nat := pf p 0 64

-- Contexts -------------------------------------------------------------------------------------------------------

/-- A free context. -/
def ctxReset (_ : Nat) : Ctx :=
  { st := 0, pc := 0, bank := 0, gen := 0, w := List.replicate 16 0, flags := 0, anch := List.replicate 3 (false, 0), stack := [],
    steps := 0, limit := 0, blen := 0, slot := none, stamped := false, desc := zeros 64, hdr := [], kr0 := zeros 32,
    kr1 := zeros 32, done := false, oldBank := false, oldGen := false, old := false }

def ctxOf (s : State) (ec : Nat) : Ctx := mapGet ctxReset s.pe.ctx ec
def ctxSet (ec : Nat) (c : Ctx) (s : State) : State := { s with pe := { s.pe with ctx := mapSet ctxReset ec c s.pe.ctx } }

/-- Value of a work register. -/
def wOf (c : Ctx) (i : Nat) : Nat := (c.w.drop i).headD 0

/-- Write a work register. -/
def wSet (i v : Nat) (c : Ctx) : Ctx := { c with w := c.w.set i (v % 2 ^ 64) }

/-- Write the low 32 bits of a work register. -/
def wSet32 (i v : Nat) (c : Ctx) : Ctx := wSet i (wOf c i / 2 ^ 32 * 2 ^ 32 + v % 2 ^ 32) c

/-- Write the low 16 bits of a work register. -/
def wSet16 (i v : Nat) (c : Ctx) : Ctx := wSet i (wOf c i / 2 ^ 16 * 2 ^ 16 + v % 2 ^ 16) c

/-- Write a flag of a context. -/
def cFlag (i : Nat) (b : Bool) (c : Ctx) : Ctx := { c with flags := flagSet i b c.flags }

/-- Raise a sticky flag of a context. -/
def cRaise (i : Nat) (b : Bool) (c : Ctx) : Ctx := { c with flags := flagRaise i b c.flags }

/-- A length specifier (R123). -/
def lenOf (c : Ctx) (spec : Nat) : Nat := if spec < 2 ^ 15 then spec % 4096 else wOf c (spec % 16) % 4096

-- References -----------------------------------------------------------------------------------------------------

/-- Regions of R92 to R95. -/
inductive Region where
  | desc
  | frame
  | build
  deriving DecidableEq, Repr

/-- A memory reference: its region and effective address. -/
structure Ref where
  reg : Region
  ea : Int
  deriving DecidableEq, Repr

/-- An anchor as region and base (R123); none for codes 6 and 7. -/
def anchorOf (c : Ctx) (a : Nat) : Option (Region × Nat) :=
  if a = 0 then some (.desc, 0)
  else if a = 1 then some (.frame, 0)
  else if a = 5 then some (.build, 0)
  else if 5 < a then none
  else
    let x := (c.anch.drop (a - 2)).headD (false, 0)
    some (if x.1 then .build else .frame, x.2)

/-- The reference an anchor and offset name (R94). -/
def refOf (c : Ctx) (a : Nat) (off : Int) : Option Ref := (anchorOf c a).map (fun x => ⟨x.1, (x.2 : Int) + off⟩)

def descFrameLen (c : Ctx) : Nat := leAt c.desc 20 2
def descAddr (c : Ctx) : Nat := leAt c.desc 16 4

/-- Extent of a region (R94). -/
def extentOf (c : Ctx) : Region → Nat
  | .desc => 64
  | .frame => descFrameLen c - 4
  | .build => 2048

/-- Window address of a build buffer (R116). -/
def buildBase (ec : Nat) : Nat := frameBase + 0x01F80000 + ec * 0x800

/-- A byte of a region; outside it zero (R95). -/
def refByte (ec : Nat) (c : Ctx) (s : State) (g : Region) (i : Int) : Byte :=
  if i < 0 ∨ (extentOf c g : Int) ≤ i then 0
  else match g with
    | .desc => (c.desc.drop i.toNat).headD 0
    | .frame => if i.toNat < c.hdr.length then (c.hdr.drop i.toNat).headD 0 else ldB s (frameBase + descAddr c + i.toNat)
    | .build => ldB s (buildBase ec + i.toNat)

/-- Does an access of `n` bytes lie wholly in the region? -/
def refFits (c : Ctx) (r : Ref) (n : Nat) : Bool := n == 0 || (decide (0 ≤ r.ea) && decide (r.ea + n ≤ extentOf c r.reg))

/-- Read `n` bytes (R95). -/
def refRead (ec : Nat) (c : Ctx) (s : State) (r : Ref) (n : Nat) : List Byte :=
  (List.range n).map (fun (i : Nat) => refByte ec c s r.reg (r.ea + i))

/-- Does the read meet an uncorrectable word, and the log of what it meets (R459, R465)? -/
def refMeet (ec : Nat) (c : Ctx) (r : Ref) (n : Nat) (s : State) : Bool × State :=
  if s.ecc.bad.isEmpty then (false, s)
  else match r.reg with
    | .desc => (false, s)
    | .frame =>
      let lo := max r.ea.toNat c.hdr.length
      let hi := min (r.ea + n).toNat (extentOf c .frame)
      if lo < hi then touchMem (frameBase + descAddr c + lo) (hi - lo) s else (false, s)
    | .build =>
      let hi := min (r.ea + n).toNat 2048
      if r.ea.toNat < hi then touchMem (buildBase ec + r.ea.toNat) (hi - r.ea.toNat) s else (false, s)

/-- Write one byte of a region; nothing outside it, and nothing in DESC (R93, R95, R96). -/
def refPut (ec : Nat) (g : Region) (i : Int) (b : Byte) (x : Ctx × State) : Ctx × State :=
  if i < 0 ∨ (extentOf x.1 g : Int) ≤ i then x
  else match g with
    | .desc => x
    | .frame =>
      if i.toNat < x.1.hdr.length then ({ x.1 with hdr := x.1.hdr.set i.toNat b }, x.2)
      else (x.1, putMem (frameBase + descAddr x.1 + i.toNat) [b] x.2)
    | .build => ({ x.1 with blen := max x.1.blen (i.toNat + 1) }, putMem (buildBase ec + i.toNat) [b] x.2)

/-- Write bytes at a reference; OOB where one is not written (R93, R95). -/
def refWrite (ec : Nat) (r : Ref) (bs : List Byte) (x : Ctx × State) : Ctx × State :=
  let y := (List.zip (List.range bs.length) bs).foldl (fun a ib => refPut ec r.reg (r.ea + (ib.1 : Int)) ib.2 a) x
  (cRaise fOOB (!bs.isEmpty && (r.reg = .desc || !refFits x.1 r bs.length)) y.1, y.2)

/-- Bytes a bit field spans (R127). -/
def fieldBytes (off width : Nat) : Nat := (off + width + 7) / 8

/-- Read a bit field (R127). -/
def fieldGet (desc : Bool) (bs : List Byte) (off width : Nat) : Nat :=
  if desc then leNat bs / 2 ^ off % 2 ^ width
  else beNat bs / 2 ^ (8 * bs.length - off - width) % 2 ^ width

/-- Bytes with a bit field replaced, network order (R127). -/
def fieldPut (bs : List Byte) (off width v : Nat) : List Byte :=
  let sh := 8 * bs.length - off - width
  let n := beNat bs
  beBytes bs.length (n - n / 2 ^ sh % 2 ^ width * 2 ^ sh + v % 2 ^ width * 2 ^ sh)

end Sys2Proof.Machine
end

