-- ==== Sys2Proof/Machine/Tables.lean ====
section
/-!
DEFINITION. Machine/Tables.lean: the table store (R109 to R112, R133 to R135) and the two Topo banks (R113 to R115).
-/
namespace Sys2Proof.Machine
open Sys2Proof

/-- Base of the table-store window (R521). -/
def tblBase : Nat := 0x20000000

/-- A descriptor copy: type, key bits, result words, seed, base, entries, default (R109). -/
structure TblCopy where
  ty : Nat
  keyBits : Nat
  words : Nat
  seed : Nat
  base : Nat
  entries : Nat
  dflt : Nat
  deriving DecidableEq, Repr

def tblCopy (s : State) (n g : Nat) : TblCopy :=
  let c := TOPO_TBL_CFG n g
  let b := TOPO_TBL_BASE n g
  { ty := fget s c TOPO_TBL_CFG_TYPE, keyBits := fget s c TOPO_TBL_CFG_KEY_BITS, words := fget s c TOPO_TBL_CFG_RESULT_WORDS,
    seed := fget s c TOPO_TBL_CFG_SEED, base := fget s b TOPO_TBL_BASE_BASE, entries := fget s b TOPO_TBL_BASE_ENTRIES,
    dflt := (rd s (TOPO_TBL_DEFAULT n g)).toNat }

/-- Bytes of one entry (R134). The layout of LPM entries is the model's own (R135): key, prefix length at byte 16 with a valid
bit above it, result words at byte 32. -/
def entryBytes (c : TblCopy) : Nat := if c.ty = 1 then 8 * c.words else 32 + 8 * c.words

/-- Footprint of a copy, rounded up to 64 (R134). -/
def footprint (c : TblCopy) : Nat :=
  let n := match c.ty with
    | 1 => c.entries * 8 * c.words
    | 2 => c.entries * 4 * (32 + 8 * c.words)
    | 3 => 262144 + 2 * c.entries * (32 + 8 * c.words)
    | 4 => c.entries * (32 + 8 * c.words)
    | _ => 0
  (n + 63) / 64 * 64

/-- Validation of a copy (R109). -/
def tblValid (c : TblCopy) : Bool :=
  decide (c.ty = 0) || (decide (c.ty ≤ 4) && decide (1 ≤ c.keyBits ∧ c.keyBits ≤ 128) && decide (1 ≤ c.words ∧ c.words ≤ 8)
    && decide (c.base % 64 = 0) && decide (c.base + footprint c ≤ 0x1800000))

/-- Is generation `g` of table `n` live? -/
def tblLive (s : State) (n g : Nat) : Bool := decide ((rd s TOPO_TBL_GEN).toNat / 2 ^ n % 2 = g)

/-- Is a copy closed to writes (R110)? -/
def tblClosed (s : State) (n g : Nat) : Bool := rwlLocked s && (tblLive s n g || s.pe.draining.testBit n)

/-- Write a copy's CFG and validate it (R109). -/
def tblCfgWrite (n g : Nat) (v : Word) (s : State) : State :=
  let a := TOPO_TBL_CFG n g
  let m := maskF TOPO_TBL_CFG_TYPE ||| maskF TOPO_TBL_CFG_KEY_BITS ||| maskF TOPO_TBL_CFG_RESULT_WORDS ||| maskF TOPO_TBL_CFG_SEED
  let s2 := wr a (v &&& m) s
  if tblValid (tblCopy s2 n g) then s2
  else
    let s3 := fset a TOPO_TBL_CFG_TYPE 0 s2
    let s4 := fset TOPO_TBL_STATUS TOPO_TBL_STATUS_ERR_TBL n (fset TOPO_TBL_STATUS TOPO_TBL_STATUS_ERR_GEN g
      (fsetB TOPO_TBL_STATUS TOPO_TBL_STATUS_ERR true s3))
    occur EV_TOPO_TBL_ERR s4

/-- Does a table-store byte range meet a closed copy (R110)? -/
def storeClosed (s : State) (off n : Nat) : Bool :=
  rwlLocked s && (List.range 128).any (fun i =>
    let c := tblCopy s (i / 2) (i % 2)
    tblClosed s (i / 2) (i % 2) && decide (c.ty ≠ 0) && decide (off < c.base + footprint c) && decide (c.base < off + n))

/-- Lines that a window write reaches: what a copy of TYPE LPM finds that covers one is not defined (R135), whether the write came before
the copy or after it. -/
def lpmTouch (off n : Nat) (s : State) : State :=
  forEach ((List.range ((off + n - 1) / 64 + 1 - off / 64)).map (fun k => off / 64 + k)) (fun i a =>
    { a with pe := { a.pe with lpmDirty := mapSet (fun _ => false) i true a.pe.lpmDirty } }) s

/-- Does a copy cover a line that was written through the window? -/
def lpmLost (s : State) (c : TblCopy) : Bool :=
  s.pe.lpmDirty.any (fun x => decide (c.base < 64 * x.1 + 64) && decide (64 * x.1 < c.base + footprint c))

-- Entries --------------------------------------------------------------------------------------------------------

/-- The 16-byte key field (R134). -/
def keyField (k : Nat) : List Byte := beBytes 16 k

/-- Bytes of the table store. -/
def tsBytes (s : State) (off n : Nat) : List Byte := ldBytes s (tblBase + off) n

/-- Offset of entry `i` of a copy. -/
def entryAt (c : TblCopy) (i : Nat) : Nat := c.base + i * entryBytes c

/-- Result words of an entry. -/
def entryWords (s : State) (c : TblCopy) (i : Nat) : List Nat :=
  let o := entryAt c i + (if c.ty = 1 then 0 else 32)
  (List.range c.words).map (fun k => leNat (tsBytes s (o + 8 * k) 8))

/-- Bucket of a key in an EXACT copy (R134, R529). -/
def bucketOf (c : TblCopy) (key : Nat) : Nat := crc32c c.seed (keyField key) % c.entries

/-- Key of an EXACT entry, where it is VALID. -/
def exactKey (s : State) (c : TblCopy) (i : Nat) : Option (List Byte) :=
  if (ldB s (tblBase + entryAt c i)).getLsbD 0 then some (tsBytes s (entryAt c i + 16) 16) else none

/-- Prefix and length of an LPM entry, where it is valid. -/
def lpmKey (s : State) (c : TblCopy) (i : Nat) : Option (Nat × Nat) :=
  let l := leNat (tsBytes s (entryAt c i + 16) 2)
  if 256 ≤ l then some (beNat (tsBytes s (entryAt c i) 16), l % 256) else none

/-- Does a prefix of `l` bits contain a key of `bits` bits? -/
def prefixHolds (bits p l key : Nat) : Bool := decide (p / 2 ^ (bits - l) = key / 2 ^ (bits - l))

/-- The longest prefix of an LPM copy that contains the key. -/
def lpmFind (s : State) (c : TblCopy) (key : Nat) : Option Nat :=
  ((List.range c.entries).foldl (fun (b : Option (Nat × Nat)) i => match lpmKey s c i with
    | none => b
    | some (p, l) =>
      if prefixHolds c.keyBits p l key then
        match b with
        | none => some (i, l)
        | some (_, m) => if m < l then some (i, l) else b
      else b) none).map (·.1)

/-- The binary search of a RANGE copy: entries below `lo` have low keys at or below the key (R134, R135). DESIGN CHOICE (log entry 117): it
probes the middle of the entries left, rounded down, and ends on the last entry found at or below the key; R134 names no probes, and
they fix what a table finds that is not sorted, or overlaps. -/
def rangeSearch (s : State) (c : TblCopy) (key : Nat) : Nat → Nat → Nat → Nat
  | 0, lo, _ => lo
  | f + 1, lo, hi =>
    if hi ≤ lo then lo
    else
      let m := (lo + hi) / 2
      if beNat (tsBytes s (entryAt c m) 16) ≤ key then rangeSearch s c key f (m + 1) hi else rangeSearch s c key f lo m

/-- The entry a search hits (R134). -/
def tblFind (s : State) (n g : Nat) (c : TblCopy) (key : Nat) : Option Nat :=
  if c.entries = 0 then none
  else match c.ty with
    | 1 => if key < c.entries then some key else none
    | 2 => ((List.range 4).map (fun k => 4 * bucketOf c key + k)).find? (fun i => exactKey s c i = some (keyField key))
    | 3 =>
      if lpmLost s c then
        let x := Config.lpmAny n g key % (c.entries + 1)
        if x = 0 then none else some (x - 1)
      else lpmFind s c key
    | 4 =>
      let i := rangeSearch s c key 33 0 c.entries
      if i = 0 then none
      else if key ≤ beNat (tsBytes s (entryAt c (i - 1) + 16) 16) then some (i - 1) else none
    | _ => none

/-- A lookup in one generation (R133): hit, and the result words or DEFAULT. -/
def tblLookup (s : State) (n g key : Nat) : Bool × List Nat :=
  let c := tblCopy s n g
  match tblFind s n g c (key % 2 ^ c.keyBits) with
  | some i => (true, entryWords s c i)
  | none => (false, c.dflt :: List.replicate (c.words - 1) 0)

/-- Bytes of an entry that holds a key and result words. -/
def entryData (c : TblCopy) (key : List Byte) (ws : List Nat) : List Byte :=
  let r := ws.flatMap (leBytes 8)
  match c.ty with
  | 1 => r
  | 2 => leBytes 8 1 ++ zeros 8 ++ key ++ r
  | 3 => key ++ leBytes 2 (256 + c.keyBits) ++ zeros 14 ++ r
  | _ => key ++ key ++ r

/-- Write one entry as a unit (R111); none where an EXACT bucket, an LPM or a RANGE copy has no room. A RANGE entry written
by key covers that key alone; an LPM entry is a full-length prefix. -/
def tblPut (n g : Nat) (key : List Byte) (ws : List Nat) (s : State) : Option State :=
  let c := tblCopy s n g
  let k := beNat key
  let kf := keyField (k % 2 ^ c.keyBits)
  let store := fun (i : Nat) => some (putMem (tblBase + entryAt c i) (entryData c kf ws) s)
  if c.ty = 0 ∨ c.entries = 0 then none
  else match c.ty with
    | 1 => if k < c.entries then store k else none
    | 2 =>
      let slots := (List.range 4).map (fun i => 4 * bucketOf c (k % 2 ^ c.keyBits) + i)
      match slots.find? (fun i => exactKey s c i = some kf) with
      | some i => store i
      | none => match slots.find? (fun i => (exactKey s c i).isNone) with
        | some i => store i
        | none => none
    | 3 => match (List.range c.entries).find? (fun i => lpmKey s c i = some (beNat kf, c.keyBits)) with
      | some i => store i
      | none => match (List.range c.entries).find? (fun i => (lpmKey s c i).isNone) with
        | some i => store i
        | none => none
    | _ => match tblFind s n g c k with
      | some i => store i
      | none => match (List.range c.entries).find? (fun i => tsBytes s (entryAt c i) (entryBytes c) = zeros (entryBytes c)) with
        | some i => store i
        | none => none

/-- Remove one entry; none where the key is not present. -/
def tblDel (n g : Nat) (key : List Byte) (s : State) : Option State :=
  let c := tblCopy s n g
  let k := beNat key % 2 ^ c.keyBits
  match tblFind s n g c k with
  | some i =>
    if c.ty = 3 ∧ lpmKey s c i ≠ some (k, c.keyBits) then none
    else some (putMem (tblBase + entryAt c i) (zeros (entryBytes c)) s)
  | none => none

-- Flips ----------------------------------------------------------------------------------------------------------

/-- Contexts that run. -/
def running (s : State) : Nat := s.pe.ctx.countP (fun x => x.2.st ≠ 0)

/-- Mark every running context. -/
def markRuns (f : Ctx → Ctx) (s : State) : State :=
  { s with pe := { s.pe with ctx := mapEach ctxReset (fun x => if x.st = 0 then x else f x) s.pe.ctx } }

/-- Is a flip refused at present (R112)? -/
def flipBusy (s : State) : Bool :=
  fbit s TOPO_TBL_STATUS TOPO_TBL_STATUS_DRAIN || (fbit s TOPO_BANK TOPO_BANK_SWAP_PENDING && s.pe.swapGen)

/-- A flip (R112): later dispatches use the new generations, the runs under the old ones drain. -/
def tblFlip (gen : Nat) (s : State) : State :=
  let old := (rd s TOPO_TBL_GEN).toNat
  let s1 := wr TOPO_TBL_GEN (BitVec.ofNat 64 gen) s
  let s2 : State := { s1 with pe := { s1.pe with draining := old ^^^ (gen % 2 ^ 64) } }
  let s3 := markRuns (fun c => { c with oldGen := true }) s2
  fset TOPO_TBL_STATUS TOPO_TBL_STATUS_DRAIN_COUNT (running s3) (fsetB TOPO_TBL_STATUS TOPO_TBL_STATUS_DRAIN true s3)

/-- The drain has ended (R112). -/
def flipDone (s : State) : State :=
  if fbit s TOPO_TBL_STATUS TOPO_TBL_STATUS_DRAIN ∧ fget s TOPO_TBL_STATUS TOPO_TBL_STATUS_DRAIN_COUNT = 0 then
    let s1 := fsetB TOPO_TBL_STATUS TOPO_TBL_STATUS_DRAIN false { s with pe := { s.pe with draining := 0 } }
    occur EV_TOPO_TBL_FLIP_DONE (bump EC_TBL_FLIPS 1 s1)
  else s

-- Topo banks -----------------------------------------------------------------------------------------------------

/-- Window address of a Pitch (R120). -/
def pitchAddr (bank i : Nat) : Nat := 0x10000000 + bank * 0x100000 + i * 0x20

/-- The 256 bits of a Pitch. -/
def pitchAt (s : State) (bank i : Nat) : Nat := leNat (ldBytes s (pitchAddr bank i) 32)

/-- A bank loses REPAIRABLE (R115); one written before stage S9 OPEN does not gain it there. -/
def notRepairable (bank : Nat) (s : State) : State :=
  fsetB TOPO_BANK (if bank = 0 then TOPO_BANK_REPAIRABLE0 else TOPO_BANK_REPAIRABLE1) false
    { s with pe := { s.pe with bankWritten := s.pe.bankWritten ||| 2 ^ bank, stock := if s.pe.stock.testBit bank then s.pe.stock - 2 ^ bank else s.pe.stock } }

/-- Is a bank closed to writes (R113)? -/
def bankClosed (s : State) (bank : Nat) : Bool :=
  fbit s TOPO_BANK TOPO_BANK_SWAP_PENDING || decide (fget s TOPO_BANK TOPO_BANK_ACTIVE = bank)

/-- Whose staging register an initiator uses (R113): the Harness that of the control core that executes its commands. DESIGN CHOICE (log
entry 126): that is core 0. -/
def stageIx : Initiator → Nat
  | .harness => 0
  | i => initIx i

/-- The staging register of an initiator: Pitch (bank × 32768 + index), word, value. -/
def stageOf (s : State) (i : Initiator) : List (Nat × Nat × Nat) := mapGet (fun _ => []) s.pe.stage (stageIx i)
def stageSet (i : Initiator) (x : List (Nat × Nat × Nat)) (s : State) : State :=
  { s with pe := { s.pe with stage := mapSet (fun _ => []) (stageIx i) x s.pe.stage } }

/-- A window write into a Topo bank (R113). -/
def topoWrite (i : Initiator) (a : Nat) (v : Word) (s : State) : State :=
  let o := a - 0x10000000
  let bank := o / 0x100000
  let idx := o % 0x100000 / 0x20
  let w := o % 0x20 / 8
  let id := bank * 32768 + idx
  let st := stageOf s i
  if bankClosed s bank then writeIgnored a v 1 s
  else if w < 3 then
    let keep := st.filter (fun x => x.1 = id ∧ x.2.1 ≠ w)
    notRepairable bank (stageSet i ((id, w, v.toNat) :: keep) s)
  else
    let word := fun (k : Nat) => (st.find? (fun x => x.1 = id ∧ x.2.1 = k)).map (fun x => x.2.2)
    let s1 := stageSet i [] s
    match word 0, word 1, word 2 with
    | some w0, some w1, some w2 =>
      notRepairable bank (putMem (pitchAddr bank idx) (leBytes 8 w0 ++ leBytes 8 w1 ++ leBytes 8 w2 ++ leBytes 8 v.toNat) s1)
    | _, _, _ => writeIgnored a v 1 s1

/-- May a swap be requested (R114)? -/
def swapBusy (s : State) (withGen : Bool) : Bool :=
  fbit s TOPO_BANK TOPO_BANK_SWAP_PENDING || (withGen && fbit s TOPO_TBL_STATUS TOPO_TBL_STATUS_DRAIN)

/-- GO is accepted (R114). -/
def swapGo (withGen : Bool) (s : State) : State :=
  fsetB TOPO_BANK TOPO_BANK_SWAP_PENDING true { s with pe := { s.pe with swapGo := true, swapGen := withGen } }

/-- The dispatch boundary of a requested swap (R114). -/
def swapBoundary (s : State) : State :=
  if !s.pe.swapGo then s
  else
    let s1 : State := { s with pe := { s.pe with swapGo := false } }
    let s2 := markRuns (fun c => { c with oldBank := true })
      (fset TOPO_BANK TOPO_BANK_ACTIVE (1 - fget s1 TOPO_BANK TOPO_BANK_ACTIVE) s1)
    let s3 := fset TOPO_BANK TOPO_BANK_DRAIN_COUNT (running s2) s2
    if s3.pe.swapGen then tblFlip (rd s3 TOPO_TBL_GEN_NEXT).toNat s3 else s3

/-- The last old-bank run has ended (R114). -/
def swapDone (s : State) : State :=
  if fbit s TOPO_BANK TOPO_BANK_SWAP_PENDING ∧ !s.pe.swapGo ∧ fget s TOPO_BANK TOPO_BANK_DRAIN_COUNT = 0 then
    occur EV_TOPO_SWAP_DONE (bump EC_TOPO_SWAPS 1
      (fsetB TOPO_BANK TOPO_BANK_SWAP_PENDING false { s with pe := { s.pe with swapGen := false } }))
  else s

/-- Checks of a write to a register of the Topo memory or table store (R110, R112, R114). -/
def topoCheck (a : Nat) (v : Word) (s : State) : Verdict :=
  if a = TOPO_TBL_GEN then (if flipBusy s then vState 6 else .ok)
  else if a = TOPO_SWAP_CTL then
    if getF TOPO_SWAP_CTL_GO v = 0 then .ok
    else if swapBusy s (decide (getF TOPO_SWAP_CTL_WITH_GEN v ≠ 0)) then
      vState (if fbit s TOPO_BANK TOPO_BANK_SWAP_PENDING then 5 else 6)
    else .ok
  else if 0x201000 ≤ a ∧ a < 0x202000 ∧ (a - 0x201000) % 0x20 < 0x18 then
    if tblClosed s ((a - 0x201000) / 0x40) ((a - 0x201000) / 0x20 % 2) then vState 6 else .ok
  else .ok

/-- The effect of an accepted write to a register of the Topo memory or table store. -/
def topoApply (a : Nat) (v : Word) (s : State) : Option State :=
  if a = TOPO_TBL_GEN then some (tblFlip v.toNat s)
  else if a = TOPO_SWAP_CTL then
    some (if getF TOPO_SWAP_CTL_GO v = 0 then s else swapGo (decide (getF TOPO_SWAP_CTL_WITH_GEN v ≠ 0)) s)
  else if 0x201000 ≤ a ∧ a < 0x202000 ∧ (a - 0x201000) % 0x20 = 0 then
    some (tblCfgWrite ((a - 0x201000) / 0x40) ((a - 0x201000) / 0x20 % 2) v s)
  else none

/-- TOPO_SWAP_DONE (R114). -/
def execTopoSwapDone (s : State) : Res := run swapDone s

/-- TOPO_TBL_FLIP_DONE (R112). -/
def execTopoTblFlipDone (s : State) : Res := run flipDone s

end Sys2Proof.Machine
end

