-- ==== Sys2Proof/Machine/Pitch.lean ====
section
/-!
DEFINITION. Machine/Pitch.lean: dispatch and injection (R89 to R92), the run of a Topo (R97 to R104), and one operation per
opcode of the Pitch encoding (R125 to R152).
-/
namespace Sys2Proof.Machine
open Sys2Proof

-- Drop reasons of the hardware range (R153).
def rsnNoDisposition : Nat := 1
def rsnStepLimit : Nat := 2
def rsnBadNext : Nat := 3
def rsnBadOp : Nat := 4
def rsnCallDepth : Nat := 5
def rsnRetEmpty : Nat := 6
def rsnMemUe : Nat := 7
def rsnTrap : Nat := 8
def rsnPuntFull : Nat := 9

-- Dispatch -------------------------------------------------------------------------------------------------------

/-- Queues of a class in round-robin order: ports 0 to 7, then Trailheads 8, 9 and 10 (R90). -/
def classQueues (c : Nat) : List Nat :=
  (List.range 8).map (fun p => 4 * p + c) ++ (if c = 0 then [33] else if c = 3 then [32, 34] else [])

/-- The queue served next in a class: the first non-empty one after the last served (R90). -/
def nextQueue (s : State) (c : Nat) : Option Nat :=
  let qs := classQueues c
  let k := mapGet (fun _ => 0) s.pe.rr c
  (qs.drop k ++ qs.take k).find? (fun i => !(queueOf s i).isEmpty)

/-- The queue a free context takes its head from: redispatches first, then the lowest class (R90, R104). -/
def pickQueue (s : State) : Option (Nat × Nat) :=
  [0, 1, 2, 3].findSome? (fun c =>
    if !(queueOf s (40 + c)).isEmpty then some (c, 40 + c) else (nextQueue s c).map (fun q => (c, q)))

/-- Free contexts of an engine. -/
def freeCtx (s : State) (e : Nat) : Nat := (List.range 4).countP (fun c => (ctxOf s (4 * e + c)).st = 0)

/-- The enabled engine with the most free contexts, the lowest-numbered of them (R90). -/
def pickEngine (s : State) : Option Nat :=
  let es := (List.range (peCount s.variant)).filter (fun e => (rd s PE_ENABLE).getLsbD e && decide (0 < freeCtx s e))
  es.foldl (fun (b : Option Nat) e => match b with
    | none => some e
    | some f => if freeCtx s f < freeCtx s e then some e else b) none

/-- The context that runs a descriptor (R88, R91, R92, R94, R97). -/
def startCtx (s : State) (d : List Byte) (old : Bool) : Ctx :=
  let l3 := leAt d 27 1
  let l4 := leAt d 28 2
  let n := min (leAt d 20 2 - 4) 512
  { ctxReset 0 with
    st := 2
    pc := leAt d 23 1 % 16
    bank := fget s TOPO_BANK TOPO_BANK_ACTIVE
    gen := (rd s TOPO_TBL_GEN).toNat
    flags := if leAt d 25 1 = 0 then 0 else 2 ^ fBAD
    anch := [(false, l3), (false, if l4 = 0xFFFF then 0 else l4), (true, 0)]
    limit := fget s PE_STEP_LIMIT PE_STEP_LIMIT_LIMIT
    desc := d
    hdr := ldBytes s (frameBase + leAt d 16 4) n
    old := old }

/-- PE_DISP_WAIT_HWM (ns, saturating). -/
def waitHwm (cls ns : Nat) (s : State) : State :=
  fmax PE_DISP_WAIT_HWM ⟨16 * cls, 16⟩ (min ns 65535) s

/-- A frame injected by firmware, the host or the scheduler at Trailhead 8, 9 or 10, without FCS, kept at frame-buffer offset
`addr` (R90, R92). -/
def injected (th port aux addr : Nat) (bs : List Byte) (s : State) : List Byte :=
  let e := etherOf bs
  let l4 := l4Of bs e.1 e.2.1
  mkDesc (gtNow s) addr (bs.length + 4) port th (if th = 9 then 0 else 3) 0 e.2.2 e.2.1
    (match l4 with | some (o, _) => o | none => 0xFFFF) e.1 aux true

/-- Queue depth of an injection source (R90). -/
def injectDepth (th : Nat) : Nat := if th = 9 then 1024 else 256

/-- Can an injection be accepted (R90)? In Rest dispatch and frame buffer are stopped (R83). -/
def injectFits (s : State) (th addr n : Nat) : Bool :=
  decide (phase s ≠ 5) && decide ((queueOf s (24 + th)).length < injectDepth th) && frameFits s addr (n + 4)

/-- Inject a frame; refused when the queue is full (R90). -/
def inject (th port aux addr : Nat) (bs : List Byte) (s : State) : State :=
  if injectFits s th addr bs.length then
    queuePush (24 + th) (injected th port aux addr bs s) (frameStore addr (bs ++ zeros 4) s)
  else s

/-- The lowest place in the frame buffer, a multiple of 64, where `n` bytes fit. DESIGN CHOICE (log entry 144): R90 does not say where a
frame that firmware injects is kept. -/
def frameSpot (s : State) (n : Nat) : Option Nat :=
  (0 :: s.pe.frames.map (fun x => (x.1 + x.2 + 63) / 64 * 64)).find? (fun a => frameFits s a n)

/-- Offer the frames that wait for injection again, oldest first per Trailhead (R90). -/
def injectFlush : List (Nat × Nat × Nat × List Byte) → State → State
  | [], s => s
  | (th, port, aux, bs) :: r, s =>
    match frameSpot s (bs.length + 4) with
    | some a =>
      if injectFits s th a bs.length then injectFlush r (inject th port aux a bs s)
      else injectFlush r { s with pe := { s.pe with inj := s.pe.inj ++ [(th, port, aux, bs)] } }
    | none => injectFlush r { s with pe := { s.pe with inj := s.pe.inj ++ [(th, port, aux, bs)] } }

/-- Offer what waits. -/
def injectWaiting (s : State) : State :=
  if s.pe.inj.isEmpty then s else injectFlush s.pe.inj { s with pe := { s.pe with inj := [] } }

/-- Firmware or the scheduler injects a frame; it is kept until there is room (R90). In Rest service has stopped, and nothing is
injected (R83). -/
def fwInject (th port aux : Nat) (bs : List Byte) (s : State) : State :=
  if phase s = 5 then s
  else injectWaiting { s with pe := { s.pe with inj := s.pe.inj ++ [(th, port, aux, bs)] } }

/-- The first free context of the engine that takes the next descriptor (R90). -/
def pickCtx (s : State) : Option Nat :=
  (pickEngine s).bind (fun e => ((List.range 4).find? (fun c => (ctxOf s (4 * e + c)).st = 0)).map (fun c => 4 * e + c))

/-- Context `ec` takes the head of queue `q`, which is of class `cls` (R90, R91). -/
def dispatchTo (cls q ec : Nat) (s : State) : State :=
  match queueOf s q with
  | [] => s
  | (d0, t, old) :: rest =>
    let again := decide (40 ≤ q)
    let d1 := if again then d0 else putBytes d0 32 (leBytes 8 s.pe.seq)
    let d := putBytes d1 48 (leBytes 8 (gtSub (gtNow s)))
    let s1 := queueSet q rest s
    let qs := classQueues cls
    let rr := if again then s1.pe.rr else mapSet (fun _ => 0) cls ((qs.idxOf q + 1) % qs.length) s1.pe.rr
    let s2 : State := { s1 with pe := { s1.pe with rr := rr, seq := if again then s1.pe.seq else s1.pe.seq + 1 } }
    let s3 := clrRange (buildBase ec) (buildBase ec + 2048) s2
    let s4 := ctxSet ec (startCtx s3 d old) s3
    let s5 := waitHwm cls ((gtNow s - t) / 2 ^ 32) (bump (EC_RUNS_TH (leAt d 23 1 % 16)) 1 s4)
    injectWaiting (if descReproc d then bump EC_RUNS_REPROC 1 s5 else s5)

/-- What is dispatched next, and to which context: class, queue, context (R90). -/
def dispatchPlan (s : State) : Option (Nat × Nat × Nat) :=
  if fget s SYS_START_STATUS SYS_START_STATUS_STAGE ≠ 9 ∨ phase s = 5 then none
  else match pickQueue s, pickCtx s with
    | some (cls, q), some ec => some (cls, q, ec)
    | _, _ => none

-- The end of a run -----------------------------------------------------------------------------------------------

/-- Count down a drain. -/
def drainDown (a : Nat) (f : Fld) (s : State) : State := fset a f (fget s a f - 1) s

/-- A run ends: its slot is released, its context is free (R99, PE_STEP_HWM, R112, R114). -/
def endRun (ec : Nat) (s : State) : State :=
  let c := ctxOf s ec
  let s1 := match c.slot with | some (p, q) => slotRelease p q ec s | none => s
  let s2 := if fget s1 PE_STEP_HWM PE_STEP_HWM_STEPS < c.steps then
      fset PE_STEP_HWM PE_STEP_HWM_STEPS c.steps (fset PE_STEP_HWM PE_STEP_HWM_TRAILHEAD (leAt c.desc 23 1 % 16)
        (fset PE_STEP_HWM PE_STEP_HWM_SEC (nowSec32 s1) s1))
    else s1
  let s3 := if c.oldBank then drainDown TOPO_BANK TOPO_BANK_DRAIN_COUNT s2 else s2
  let s4 := if c.oldGen then drainDown TOPO_TBL_STATUS TOPO_TBL_STATUS_DRAIN_COUNT s3 else s3
  let s5 := ctxSet ec (ctxReset 0) s4
  if c.st = 4 then setLevel EV_PE_CTX_HALTED (s5.pe.ctx.any (fun x => decide (x.2.st = 4))) s5 else s5

/-- The event of a hardware-generated reason (R103, R118). -/
def reasonEvent (rsn : Nat) : Option Nat :=
  if rsn = 1 then some EV_PE_NO_DISPOSITION else if rsn = 2 then some EV_PE_STEP_LIMIT
  else if 3 ≤ rsn ∧ rsn ≤ 6 then some EV_PE_BAD_PITCH else if rsn = 7 then some EV_PE_MEM_UE
  else if rsn = 9 then some EV_PE_PUNT_FULL else none

/-- A run ends as DROP (R103, R104, R150); `hw`: the reason is hardware-generated. -/
def dropRun (ec rsn : Nat) (hw : Bool) (s : State) : State :=
  let s1 := bump (EC_DROP_RSN rsn) 1 s
  let s2 := if hw then (match reasonEvent rsn with | some e => raiseOnce e s1 | none => s1) else s1
  let s3 := if leAt (ctxOf s ec).desc 23 1 % 16 = 9 ∧ rsn = 0x1D then bump (UC_PTP 7) 1 s2 else s2
  endRun ec (frameFree (ctxOf s ec).desc s3)

/-- A Pitch fails under R124. -/
def badOp (ec cause : Nat) (s : State) : State :=
  let c := ctxOf s ec
  let s1 := if fget s PE_BADOP_INFO PE_BADOP_INFO_CAUSE = 0 then
      fset PE_BADOP_INFO PE_BADOP_INFO_INDEX c.pc (fset PE_BADOP_INFO PE_BADOP_INFO_BANK c.bank
        (fset PE_BADOP_INFO PE_BADOP_INFO_CAUSE cause (fset PE_BADOP_INFO PE_BADOP_INFO_ENGINE (ec / 4)
          (fset PE_BADOP_INFO PE_BADOP_INFO_CTX (ec % 4) (fset PE_BADOP_INFO PE_BADOP_INFO_SEC (nowSec32 s) s)))))
    else s
  dropRun ec rsnBadOp true s1

/-- Go on at a successor (R98, R100, R101). -/
def goTo (ec nxt : Nat) (s : State) : State :=
  let c := ctxOf s ec
  if nxt = 0xFFFF then dropRun ec rsnNoDisposition true s
  else if 0x8000 ≤ nxt then dropRun ec rsnBadNext true s
  else if c.limit ≤ c.steps then dropRun ec rsnStepLimit true s
  else ctxSet ec { c with pc := nxt, done := false } s

/-- Header-window stores are written through to the frame buffer (R95, R148): the bytes that differ. -/
def writeThrough (c : Ctx) (s : State) : State :=
  (List.zip (List.range c.hdr.length) c.hdr).foldl (fun a ib =>
    let w := frameBase + descAddr c + ib.1
    if ldB a w = ib.2 then a else putMem w [ib.2] a) s

/-- The frame of a run as it stands, header-window stores included, without FCS (R95, R148). -/
def runFrame (c : Ctx) (s : State) : List Byte :=
  c.hdr ++ ldBytes s (frameBase + descAddr c + c.hdr.length) (descFrameLen c - 4 - c.hdr.length)

-- Pitches --------------------------------------------------------------------------------------------------------

/-- How a Pitch ends. -/
inductive POut where
  /-- Its results are complete; the successor is due. -/
  | ok (c : Ctx) (s : State)
  /-- It fails under R124 with a cause. -/
  | bad (cause : Nat)
  /-- It met an uncorrectable word (R465). -/
  | ue (s : State)
  /-- It is a disposition or names its own successor; the state says everything. -/
  | all (s : State)

/-- Opcodes of the table (R125); the GT9810 has no SEAL. -/
def opKnown (v : Variant) (op : Nat) : Bool :=
  [0x00, 0x01, 0x02, 0x03, 0x04, 0x05, 0x08, 0x09, 0x0C, 0x0D, 0x0E, 0x10, 0x11, 0x12, 0x14, 0x15, 0x18, 0x19, 0x1A, 0x1B,
   0x1C, 0x1D, 0x1F].contains op && !(op = 0x14 && v = .gt9810)

/-- Context `c` of engine `e` issues the Pitch at its program counter, whose opcode is `op` (R97, R101, R102, R115). -/
def issue (op e c : Nat) (body : Nat → Nat → Ctx → State → POut) (s : State) : State :=
  let ec := 4 * e + c
  let x := ctxOf s ec
  if peCount s.variant ≤ e ∨ 4 ≤ c ∨ x.st ≠ 2 ∨ x.done ∨ phase s = 5 then s
  else
    let r := eccRead 0 (x.bank * 32768 + x.pc) s
    let s1 := ctxSet ec { x with steps := x.steps + 1 } r.2
    let p := pitchAt s1 x.bank x.pc
    if r.1 then dropRun ec rsnMemUe true s1
    else if !opKnown s.variant (pOp p) then badOp ec 1 s1
    else if pOp p ≠ op then s
    else if pRes p ≠ 0 then badOp ec 2 s1
    else match body ec p (ctxOf s1 ec) s1 with
      | .ok c' s' => ctxSet ec { c' with done := true } s'
      | .bad cause => badOp ec cause s1
      | .ue s' => dropRun ec rsnMemUe true s'
      | .all s' => s'

/-- SUCCESSOR (R98): the COND of the completed Pitch picks NEXT_T or NEXT_F. -/
def successor (e c : Nat) (s : State) : State :=
  let ec := 4 * e + c
  let x := ctxOf s ec
  if x.st ≠ 2 ∨ !x.done then s
  else
    let p := pitchAt s x.bank x.pc
    goTo ec (if condHolds (pCond p) x.flags then pNextT p else pNextF p) s

/-- NOP (R126). -/
def pNop (_ p : Nat) (c : Ctx) (s : State) : POut :=
  let f := [fOOB, fLATE, fOVER, fAUTHF, fBAD].foldl (fun a i => if pb p (64 + i - 8) then flagSet i false a else a) c.flags
  .ok { c with flags := f } s

/-- IMM (R126). -/
def pImmOp (_ p : Nat) (c : Ctx) (s : State) : POut := .ok (wSet (pWd p) (pImm p) c) s

/-- LOAD (R127). -/
def pLoad (ec p : Nat) (c : Ctx) (s : State) : POut :=
  match refOf c (pAnc1 p) (pOff1 p) with
  | none => .bad 3
  | some r =>
    let off := pf p 64 3
    let wd := pf p 67 6 + 1
    let n := fieldBytes off wd
    let m := refMeet ec c r n s
    if m.1 then .ue m.2
    else
      let v := fieldGet (r.reg = .desc) (refRead ec c m.2 r n) off wd
      .ok (cFlag fZ (decide (v = 0)) (cRaise fOOB (!refFits c r n) (wSet (pWd p) v c))) m.2

/-- STORE (R127). -/
def pStore (ec p : Nat) (c : Ctx) (s : State) : POut :=
  match refOf c (pAnc1 p) (pOff1 p) with
  | none => .bad 3
  | some r =>
    let off := pf p 64 3
    let wd := pf p 67 6 + 1
    let n := fieldBytes off wd
    let v := if pb p 73 then pImm p else wOf c (pWa p)
    let m := refMeet ec c r n s
    if m.1 then .ue m.2
    else
      let y := refWrite ec r (fieldPut (refRead ec c m.2 r n) off wd v) (c, m.2)
      .ok y.1 y.2

/-- COPY (R128). The bytes copied are those from the start address up to the end of each region. DESIGN CHOICE (log entry 119): source bytes
below offset 0 are read as zeros, destination bytes below it are not written, and neither shortens the COPY. A COPY to DESC sets OOB
whatever its length (R93). -/
def pCopy (ec p : Nat) (c : Ctx) (s : State) : POut :=
  match refOf c (pAnc1 p) (pOff1 p), refOf c (pAnc2 p) (pOff2 p) with
  | some dst, some src =>
    let n := lenOf c (pLen p)
    -- only the bytes that fit are copied (R95)
    let room := fun (r : Ref) => ((extentOf c r.reg : Int) - r.ea).toNat
    let k := min (min n 1024) (min (room dst) (room src))
    let m := refMeet ec c src k s
    if m.1 then .ue m.2
    else
      let y := refWrite ec dst (refRead ec c m.2 src k) (c, m.2)
      .ok (cRaise fOOB (decide (k < n) || dst.reg = .desc || !refFits c src k) y.1) y.2
  | _, _ => .bad 3

/-- SETA (R129, R94). -/
def pSeta (_ p : Nat) (c : Ctx) (s : State) : POut :=
  let dst := pf p 64 2
  match anchorOf c (pAnc1 p) with
  | none => .bad 3
  | some (g, b) =>
    if g = .desc then .bad 3
    else if dst = 0 then .bad 4
    else
      let nb : Int := (b : Int) + pOff1 p + (if pb p 66 then (wOf c (pWa p) : Int) else 0)
      if nb < 0 ∨ (extentOf c g : Int) < nb then .ok (cRaise fOOB true c) s
      else .ok { c with anch := c.anch.set (dst - 1) (decide (g = .build), nb.toNat) } s

/-- ALU (R130). -/
def pAlu (_ p : Nat) (c : Ctx) (s : State) : POut :=
  let b := if pb p 68 then pImm p else wOf c (pWb p)
  match aluOp (pf p 64 4) (pb p 69) (pf p 70 2) (wOf c (pWa p)) b with
  | none => .bad 4
  | some o =>
    let c1 := match o.r with | some r => wSet (pWd p) r c | none => c
    .ok (cFlag fZ o.z (cFlag fC o.c (cFlag fLT o.lt c1))) s

/-- TESTB (R131). -/
def pTestb (_ p : Nat) (c : Ctx) (s : State) : POut :=
  .ok (cFlag fBIT (testBits (pb p 64) (wOf c (pWa p)) (pImm p)) c) s

/-- A key of one register, or of two under K128 (R133, R136). -/
def keyOf (c : Ctx) (k128 : Bool) (wa : Nat) : Option Nat :=
  if k128 then (if wa = 15 then none else some (wOf c wa * 2 ^ 64 + wOf c (wa + 1))) else some (wOf c wa)

/-- Write a run of registers from WD; words beyond W15 are lost (R133). -/
def wSetRun (i : Nat) (ws : List Nat) (c : Ctx) : Ctx :=
  (List.zip (List.range ws.length) ws).foldl (fun a kv => if i + kv.1 < 16 then wSet (i + kv.1) kv.2 a else a) c

/-- A lookup meets the entry it finds (R465). An entry of a stock table that cannot be corrected is rewritten by firmware, here at once (DESIGN
CHOICE, log entry 172: within 10 ms). -/
def lookMeet (n g key : Nat) (s : State) : Bool × State :=
  let cp := tblCopy s n g
  match tblFind s n g cp (key % 2 ^ cp.keyBits) with
  | some i =>
    let m := touchMem (tblBase + entryAt cp i) (entryBytes cp) s
    if m.1 && decide (n < 16) then (true, putMem (tblBase + entryAt cp i) (ldBytes m.2 (tblBase + entryAt cp i) (entryBytes cp)) m.2) else m
  | none => (false, s)

/-- LOOKUP (R133). -/
def pLookup (_ p : Nat) (c : Ctx) (s : State) : POut :=
  match keyOf c (pb p 70) (pWa p) with
  | none => .bad 5
  | some key =>
    let n := pf p 64 6
    let g := c.gen / 2 ^ n % 2
    let m := lookMeet n g key s
    if m.1 then .ue m.2
    else
      let r := tblLookup m.2 n g key
      .ok (cFlag fHIT r.1 (cRaise fOOB (decide (16 < pWd p + r.2.length)) (wSetRun (pWd p) r.2 c))) m.2

/-- A sketch counter, keyed row × 2^20 + column; an uncorrectable one reads zero (R465). -/
def sketchGet (k : Nat) (s : State) : Nat × State :=
  let r := eccRead 7 (k / 4) s
  (if r.1 then 0 else mapGet (fun _ => 0) s.svc.sketch k, r.2)

def sketchSet (k v : Nat) (s : State) : State :=
  let s1 : State := { s with svc := { s.svc with sketch := mapSet (fun _ => 0) k v s.svc.sketch } }
  if eccQuiet s1 then s1 else eccWrite 7 (k / 4) s1

/-- The counters a key selects, one per row (R136, R200). -/
def sketchKeys (s : State) (key : Nat) : List Nat :=
  (List.zip (List.range 4) s.svc.seeds).map (fun rs => rs.1 * 2 ^ 20 + crc32c rs.2 (keyField key) % 2 ^ 20)

/-- Add to the counters of a key, or only read them, and answer the estimate: the least of them (R136). -/
def sketchAdd (key add : Nat) (peek : Bool) (s : State) : Nat × State :=
  (sketchKeys s key).foldl (fun (a : Nat × State) k =>
    let g := sketchGet k a.2
    let v := min (g.1 + add) 65535
    (min a.1 v, if peek then g.2 else sketchSet k v g.2)) (65535, s)

/-- SKETCH (R136). -/
def pSketch (_ p : Nat) (c : Ctx) (s : State) : POut :=
  match keyOf c (pb p 64) (pWa p) with
  | none => .bad 5
  | some key =>
    let r := sketchAdd key (if pb p 65 then 0 else pImm p % 65536) (pb p 65) s
    let th := if pb p 67 then wOf c (pWb p) % 65536 else pImm p / 65536 % 65536
    .ok (cRaise fOVER (decide (th < r.1)) (wSet (pWd p) r.1 c)) r.2

/-- The service event of a Topo counter (R192, R207): TC2 counts Kiss-o'-Death, TC3 NTS NAKs. DEDUCED (log entry 120): the count stands for
the emission it counts. -/
def tcEvent (tc : Nat) (s : State) : State :=
  if tc = 2 then raiseOnce EV_SVC_RATE_LIMIT s else if tc = 3 then raiseOnce EV_SVC_NTS_NAK s else s

/-- COUNT (R132). -/
def pCount (_ p : Nat) (c : Ctx) (s : State) : POut :=
  let n := (if pb p 72 then wOf c (pWa p) else pImm p) % 2 ^ 32
  let s1 := bump (EC_TC (pf p 64 8)) n s
  .ok c (if n = 0 then s1 else tcEvent (pf p 64 8) s1)

/-- Launch instant of the slot a context holds. -/
def slotTime (s : State) (ec : Nat) (c : Ctx) : Option Nat :=
  match c.slot with
  | none => none
  | some (p, q) => ((gateOf s p).cal.find? (heldBy ec q)).map (·.t)

/-- STAMP (R137 to R139). DESIGN CHOICE (log entry 145): under PTP80 the timestamp is written at reference 1 before the correctionField at
reference 2 is read, which shows where the two overlap. Reference 1 is not used under TOW, nor is its anchor code looked at (log entry 121, DEDUCED from R122). -/
def pStamp (ec p : Nat) (c : Ctx) (s : State) : POut :=
  let src := pf p 64 2
  let fmt := pf p 66 2
  let smear := pb p 68
  let tow := pb p 69
  let noSlot := decide (src = 1) && (slotTime s ec c).isNone
  let t := if src = 0 then descIn c.desc else if src = 1 then (slotTime s ec c).getD 0
    else if src = 2 then localNow s 8 else s.servo.refTime
  let c0 := cFlag fZ (tsuUnset s) (cRaise fLATE noSlot { c with stamped := c.stamped || decide (src = 1) })
  let z := fun (v : Nat) => if noSlot then 0 else v
  if tow then
    if fmt = 3 then .bad 4
    else if fmt = 0 then
      if pWd p = 15 then .bad 5 else .ok (wSet (pWd p + 1) (z (gtSub t)) (wSet (pWd p) (z (gtSec t)) c0)) s
    else if fmt = 1 then .ok (wSet (pWd p) (z (ntp64 s smear t)) c0) s
    else .ok (wSet32 (pWd p) (z (ntp32 s smear t)) c0) s
  else match refOf c (pAnc1 p) (pOff1 p) with
    | none => .bad 3
    | some r =>
      let bs := if fmt = 0 then beBytes 8 (z (gtSec t)) ++ beBytes 4 (z (gtNs t)) ++ beBytes 4 (z (gtFrac t))
        else if fmt = 1 then beBytes 8 (z (ntp64 s smear t))
        else if fmt = 2 then beBytes 4 (z (ntp32 s smear t))
        else beBytes 6 (z (ptpSec t)) ++ beBytes 4 (z (gtNs t))
      if fmt = 3 then match refOf c (pAnc2 p) (pOff2 p) with
        | none => .bad 3
        | some r2 =>
          let m := refMeet ec c r2 8 s
          if m.1 then .ue m.2
          else
            let y := refWrite ec r bs (c0, m.2)
            let o := sgn 64 (beNat (refRead ec y.1 y.2 r2 8))
            let v := satI 64 (o + z (ptpSubNs t))
            let y2 := refWrite ec r2 (beBytes 8 (unsgn 64 v)) y
            .ok y2.1 y2.2
      else
        let y := refWrite ec r bs (c0, s)
        .ok y.1 y.2

/-- A port selector (R140): the port, or a failure as PORT. -/
def portSel (s : State) (c : Ctx) (sel : Nat) : Option Nat :=
  let p := if sel = 15 then leAt c.desc 22 1 else sel
  if (8 ≤ sel ∧ sel < 15) ∨ !laneFitted s p then none else some p

/-- Give up a held slot (R140, R147). -/
def dropSlot (ec : Nat) (x : Ctx × State) : Ctx × State :=
  match x.1.slot with
  | none => x
  | some (p, q) => ({ x.1 with slot := none }, slotRelease p q ec x.2)

/-- SLOT (R140, R161). -/
def pSlot (ec p : Nat) (c : Ctx) (s : State) : POut :=
  match portSel s c (pf p 64 4) with
  | none => .bad 6
  | some port =>
    let x := dropSlot ec (c, s)
    let lead := if pb p 68 then pImm p % 2 ^ 32 else fget s GATE_LEAD GATE_LEAD_LEAD
    let win := if pb p 69 then pImm p / 2 ^ 32 else fget s GATE_WINDOW GATE_WINDOW_WINDOW
    let r := slotRequest port (gateClass c.desc) ec (descIn c.desc) lead win (lenOf c (pLen p)) x.2
    match r.1 with
    | none => .ok (cRaise fLATE true x.1) r.2
    | some (q, t) =>
      let c1 := { x.1 with slot := some (port, q) }
      .ok (if pb p 70 then wSet (pWd p) (gtSub t) c1 else c1) r.2

/-- QUALITY (R141). BOUND uses no reference, nor is an anchor code looked at (log entry 121, DEDUCED from R122). -/
def pQuality (ec p : Nat) (c : Ctx) (s : State) : POut :=
  let form := pf p 64 2
  let prof := if pb p 69 then wOf c (pWb p) % 8 else pf p 66 3
  if form = 3 then .bad 4
  else if form = 2 then .ok (cFlag fZ (unbounded s) (wSet (pWd p) (boundNs s) c)) s
  else match refOf c (pAnc1 p) (pOff1 p) with
    | none => .bad 3
    | some r =>
      if form = 0 then
        let m := refMeet ec c r 1 s
        if m.1 then .ue m.2
        else
          let b0 := beNat (refRead ec c m.2 r 1) % 64 + 64 * ntpLi s prof
          let y := refWrite ec r (beBytes 1 b0 ++ beBytes 1 (ntpStratum s prof)) (c, m.2)
          let y2 := refWrite ec ⟨r.reg, r.ea + 4⟩
            (beBytes 4 (ntpRootDelay s) ++ beBytes 4 (ntpRootDisp s) ++ beBytes 4 (ntpRefId s prof)) y
          .ok (cFlag fZ (ntpUnsync s prof) y2.1) y2.2
      else
        let k := prof % 4
        let y := refWrite ec r (beBytes 1 (ptpClass s k) ++ beBytes 1 (ptpAccuracy s k) ++ beBytes 2 (ptpVariance s k)) (c, s)
        .ok (cFlag fZ (decide (ptpClass s k = 248)) y.1) y.2

-- SEAL -----------------------------------------------------------------------------------------------------------

def keyReset (_ : Nat) : KeySlot := { key := zeros 64, kid := 0, st := 0, random := false, ends := 0 }
def keyOfSlot (s : State) (n : Nat) : KeySlot := mapGet keyReset s.svc.keys n

/-- Key slots in CURRENT or LIVE, and the CURRENT one, as SVC_STATUS shows them. -/
def keysShow (s : State) : State :=
  let cur := (List.range 64).find? (fun n => (keyOfSlot s n).st = 2)
  let live := (List.range 64).countP (fun n => 2 ≤ (keyOfSlot s n).st)
  wr SVC_STATUS (setF SVC_STATUS_KEYS_READY (if cur.isSome then 1 else 0) (setF SVC_STATUS_KEYS_LIVE live
    (match cur with
      | some n => setF SVC_STATUS_CUR_SLOT n (setF SVC_STATUS_CUR_KEY_ID (keyOfSlot s n).kid 0)
      | none => 0))) s

/-- Store a slot (R194): an EMPTY slot holds zeros. -/
def keySet (n : Nat) (k : KeySlot) (s : State) : State :=
  let x := if k.st = 0 then keyReset n else k
  keysShow (wr (SVC_KEY_SLOT n) (setF SVC_KEY_SLOT_KEY_ID x.kid (setF SVC_KEY_SLOT_STATE x.st
    (setF SVC_KEY_SLOT_SOURCE (if x.random then 1 else 0) 0)))
    (keyPut n { s with svc := { s.svc with keys := mapSet keyReset n x s.svc.keys } }))

/-- A consumer reads the key of master slot `n`: where both copies of a word are uncorrectable the slot becomes EMPTY, and the flag says so
(R466). -/
def keyUse (n : Nat) (s : State) : Bool × State :=
  let m := keyMeet n s
  (m.1, if m.1 then keySet n (keyReset n) (keyGone n m.2) else m.2)


/-- A key SEAL may use (R143): 64 bytes of a master slot, or 32 bytes of KR0 or KR1; its KEY_ID. -/
structure SealKey where
  key : List Byte
  master : Bool
  kid : Nat

/-- Is a master slot usable: CURRENT for sealing, CURRENT or LIVE otherwise (R143, R194)? DESIGN CHOICE (log entry 122): CMAC and ECB take
the slots that SIV_OPEN takes; R143 names the usable slots of the two SIV modes alone. -/
def slotUsable (sealing : Bool) (k : KeySlot) : Bool := decide (k.st = 2) || (!sealing && decide (k.st = 3))

/-- KSEL (R143): none for a reserved value; some none where no usable key is found. -/
def sealKey (s : State) (c : Ctx) (ksel wb : Nat) (sealing : Bool) : Option (Option SealKey) :=
  let master := fun (n : Nat) =>
    let k := keyOfSlot s n
    if slotUsable sealing k then some (SealKey.mk k.key true k.kid) else none
  if ksel < 64 then some (master ksel)
  else if ksel = 0x40 then some (some ⟨c.kr0, false, 0⟩)
  else if ksel = 0x41 then some (some ⟨c.kr1, false, 0⟩)
  else if ksel = 0x7E then some (((List.range 64).find? (fun n => (keyOfSlot s n).st = 2)).bind master)
  else if ksel = 0x7F then
    some (((List.range 64).find? (fun n => (keyOfSlot s n).st ≠ 0 ∧ (keyOfSlot s n).kid = wOf c wb % 2 ^ 32)).bind master)
  else none

/-- SEAL fails its check: AUTHF, and the key registers are zeroed in the key-extract form (R144). -/
def sealFail (kx : Bool) (c : Ctx) : Ctx :=
  let c1 := cRaise fAUTHF true c
  if kx then { c1 with kr0 := zeros 32, kr1 := zeros 32 } else c1

/-- One AES-256 block operation over 16-byte blocks. -/
def ecbRun (dec : Bool) (key bs : List Byte) : List Byte :=
  (blocks16 bs).flatMap (fun b => if dec then aesDec key b else aesEnc key b)

/-- SEAL (R142 to R144). References that the mode does not use are not looked at (log entry 121, DEDUCED from R122). DESIGN CHOICE: a wrong
anchor code is noted before a wrong KSEL (log entry 123); under KSEL 0x7E the KEY_ID goes to WB once the key is found, also where
SIV_OPEN then ends in AUTHF (log entry 122); an OUT in DESC, which a run cannot write (R93), fails as a bounds failure
(log entry 124). A master key that both copies of the key store have lost is no usable key (R466). -/
def pSeal (ec p : Nat) (c : Ctx) (s : State) : POut :=
  let mode := pf p 64 2
  let siv := decide (mode ≤ 1)
  let kx := siv && pb p 73
  let dir := pb p 74
  let n := lenOf c (pLen p)
  let na := if siv then lenOf c (pf p 94 16) else 0
  let nonce := siv && pb p 129
  let useIn := !(kx && decide (mode = 1))
  let useOut := !(kx && decide (mode = 0))
  let rIn := refOf c (pAnc1 p) (pOff1 p)
  let rOut := refOf c (pAnc2 p) (pOff2 p)
  let rAd := refOf c (pf p 75 3) (sgn 16 (pf p 78 16))
  let rNo := refOf c (pf p 110 3) (sgn 16 (pf p 113 16))
  if (useIn && rIn.isNone) || (useOut && rOut.isNone) || (decide (na ≠ 0) && rAd.isNone) || (nonce && rNo.isNone) then .bad 3
  else match sealKey s c (pf p 66 7) (pWb p) (decide (mode = 1)) with
    | none => .bad 4
    | some k =>
      let i := rIn.getD ⟨.build, 0⟩
      let o := rOut.getD ⟨.build, 0⟩
      let a := rAd.getD ⟨.build, 0⟩
      let v := rNo.getD ⟨.build, 0⟩
      let pt := if kx then 66 else n
      let nIn := if !useIn then 0 else if mode = 0 then 16 + n else n
      let nOut := if !useOut then 0 else if mode = 1 then 16 + pt else if mode = 2 then 16 else n
      let verify := mode = 0 ∨ (mode = 2 ∧ dir)
      let fit := refFits c i nIn && refFits c o nOut && refFits c a na && refFits c v (if nonce then 16 else 0)
        && !(nOut != 0 && o.reg = .desc && !(mode = 2 && dir))
      let oob := !fit || (decide (mode = 3) && decide (n % 16 ≠ 0))
      match (if oob then none else k) with
        | none =>
          -- bounds and key fail each in its own right
          let c1 := cRaise fOOB oob c
          .ok (if k.isNone || (verify && !fit) then sealFail (kx && decide (mode = 0)) c1 else c1) s
        | some key =>
          let u := if key.master then keyUse (key.kid % 64) s else (false, s)
          let m1 := refMeet ec c i nIn u.2
          let m2 := refMeet ec c a na m1.2
          let m3 := refMeet ec c v (if nonce then 16 else 0) m2.2
          if m1.1 || m2.1 || m3.1 then .ue m3.2
          else if u.1 then .ok (sealFail (kx && decide (mode = 0)) c) m3.2
          else
            let s1 := m3.2
            let c1 := if pf p 66 7 = 0x7E then wSet32 (pWb p) key.kid c else c
            let inp := refRead ec c s1 i nIn
            let ad := (if na = 0 then [] else [refRead ec c s1 a na]) ++ (if nonce then [refRead ec c s1 v 16] else [])
            let k32 := key.key.take 32
            match mode with
            | 0 =>
              if kx ∧ n ≠ 66 then .ok (sealFail true c1) s1
              else match sivOpen key.key ad (inp.take 16) (inp.drop 16) with
                | none => .ok (sealFail kx c1) s1
                | some plain =>
                  if kx then
                    .ok { wSet16 (pWd p) (beAt plain 0 2) c1 with kr0 := slice plain 2 32, kr1 := slice plain 34 32 } s1
                  else
                    let y := refWrite ec o plain (c1, s1)
                    .ok y.1 y.2
            | 1 =>
              let plain := if kx then beBytes 2 (wOf c (pWd p)) ++ c.kr0 ++ c.kr1 else inp
              let r := sivSeal key.key ad plain
              let y := refWrite ec o (r.1 ++ r.2) (c1, s1)
              .ok y.1 y.2
            | 2 =>
              let t := cmac k32 inp
              if dir then .ok (if refRead ec c s1 o 16 = t then c1 else sealFail false c1) s1
              else
                let y := refWrite ec o t (c1, s1)
                .ok y.1 y.2
            | _ =>
              let y := refWrite ec o (ecbRun dir k32 inp) (c1, s1)
              .ok y.1 y.2

/-- CSUM (R146): the running sum is WD[15:0]. Only FINAL uses reference 2; in the other modes its anchor code is not looked at (log entry
121, DEDUCED from R122). -/
def pCsum (ec p : Nat) (c : Ctx) (s : State) : POut :=
  let mode := pf p 64 2
  let n := lenOf c (pLen p)
  if mode = 3 then .bad 4
  else match refOf c (pAnc1 p) (pOff1 p), (if mode = 1 then refOf c (pAnc2 p) (pOff2 p) else some ⟨.build, 0⟩) with
    | some r, some r2 =>
      let m := refMeet ec c r n s
      if m.1 then .ue m.2
      else
        let bs := refRead ec c m.2 r n
        let hole := fun (i : Nat) => mode = 1 ∧ r.reg = r2.reg ∧ (r.ea + (i : Int) = r2.ea ∨ r.ea + (i : Int) = r2.ea + 1)
        let bs1 := (List.zip (List.range n) bs).map (fun ib => if hole ib.1 then 0 else ib.2)
        let fold := fun (x : Nat) => let y := x % 65536 + x / 65536; y % 65536 + y / 65536
        let sum := onesSum bs1 (wOf c (pWd p) % 65536)
        let sum1 := fold sum
        let c1 := cRaise fOOB (!refFits c r n) c
        if mode = 2 then .ok (cFlag fZ (decide (sum1 = 65535)) c1) m.2
        else
          let c2 := wSet (pWd p) sum1 c1
          if mode = 0 then .ok c2 m.2
          else
            let k := 65535 - sum1
            let y := refWrite ec r2 (beBytes 2 (if k = 0 ∧ pb p 66 then 65535 else k)) (c2, m.2)
            .ok y.1 y.2
    | _, _ => .bad 3

-- Dispositions ---------------------------------------------------------------------------------------------------

/-- CORR references of EMIT and RELAY: offsets within the bytes sent, or the cause of failure (R124, R147, R148). Without CORR neither
reference is looked at, under NOCKS not the second (log entry 121, DEDUCED from R122). -/
def corrRefs (p : Nat) (c : Ctx) (g : Region) (l : Nat) : Nat ⊕ Option (Nat × Option Nat) :=
  if !pb p 65 then .inr none
  else
    let nocks := pb p 70
    match refOf c (pAnc1 p) (pOff1 p), (if nocks then some ⟨g, 0⟩ else refOf c (pAnc2 p) (pOff2 p)) with
    | some a, some b =>
      if a.reg ≠ g ∨ b.reg ≠ g then .inl 3
      else if a.ea < 0 ∨ (l : Int) < a.ea + 8 ∨ (!nocks ∧ (b.ea < 0 ∨ (l : Int) < b.ea + 2)) then .inl 0x0B
      else .inr (some (a.ea.toNat, if nocks then none else some b.ea.toNat))
    | _, _ => .inl 3

/-- Put the egress port's address over the source address (MACSRC, R147). -/
def macSrc (s : State) (port : Nat) (on : Bool) (bs : List Byte) : List Byte :=
  if on then putBytes bs 6 (beBytes 6 (fget s (PORT_MAC_ADDR port) PORT_MAC_ADDR_ADDR)) else bs

/-- REPORT of a Trailhead 9 record (R237, R239). -/
def wantsReport (c : Ctx) : Bool := decide (leAt c.desc 23 1 % 16 = 9) && ((c.hdr.drop 3).headD 0).getLsbD 2

/-- messageType of the PTP message a run received, if it is one (R233). -/
def ptpTypeOf (c : Ctx) : Option Nat :=
  let l3 := leAt c.desc 27 1
  let l4 := leAt c.desc 28 2
  let at_ := fun (o : Nat) => ((c.hdr.drop o).headD 0).toNat % 16
  if leAt c.desc 30 2 = 0x88F7 then some (at_ l3)
  else if l4 ≠ 0xFFFF ∧ (beAt c.hdr (l4 + 2) 2 = 319 ∨ beAt c.hdr (l4 + 2) 2 = 320) then some (at_ (l4 + 8))
  else none

/-- The PTP counter of a frame that a run sends, once it is sent (R257): Sync, Follow_Up and Announce of the scheduler, Delay_Resp and
Pdelay_Resp, frames relayed. -/
def ptpSent (relay : Bool) (c : Ctx) : Option Nat :=
  if leAt c.desc 23 1 % 16 = 9 then (if leAt c.hdr 0 1 ≤ 2 then some (leAt c.hdr 0 1) else none)
  else match ptpTypeOf c with
    | none => none
    | some t => if relay then some (if t ≤ 3 then 13 else 14) else if t = 1 then some 3 else if t = 2 then some 4 else none

/-- Delay_Req and Pdelay_Req count as they are initiated (R257). -/
def ptpCount (c : Ctx) (s : State) : State :=
  if leAt c.desc 23 1 % 16 ≠ 9 then s
  else if leAt c.hdr 0 1 = 3 then bump (UC_PTP 5) 1 s
  else if leAt c.hdr 0 1 = 4 then bump (UC_PTP 6) 1 s
  else s

/-- A run ends as EMIT with the bytes to send (R99, R104, R147): FREE, or LAUNCH from the slot it holds. -/
def emitRun (ec port : Nat) (free : Bool) (bytes : List Byte) (corr : Option (Nat × Option Nat)) (c : Ctx) (s : State) : State :=
  let keep := fbit s GATE_CTL GATE_CTL_REPROC
  let f : GFrame :=
    { bytes := bytes, desc := if wantsReport c then c.desc ++ c.hdr.take 24 else c.desc, cls := gateClass c.desc,
      keep := keep, corr := corr, report := wantsReport c, ptp := ptpSent false c, old := c.old,
      mem := none }
  let s1 := ptpCount c (if keep then s else frameFree c.desc s)
  if free then
    let x := dropSlot ec (c, s1)
    endRun ec (gateFree port (gateClass c.desc) f (ctxSet ec x.1 x.2))
  else
    let q := match c.slot with | some (_, q) => q | none => 0
    endRun ec (ctxSet ec { c with slot := none } (gateEmit port q ec f s1))

/-- A run ends as RELAY with the frame as it then stands (R99, R104, R148). -/
def relayRun (ec port : Nat) (bytes : List Byte) (corr : Option (Nat × Option Nat)) (c : Ctx) (s : State) : State :=
  let f : GFrame :=
    { bytes := bytes, desc := c.desc, cls := gateClass c.desc, keep := true, corr := corr, report := false, ptp := ptpSent true c,
      old := c.old, mem := some (descAddr c) }
  let x := dropSlot ec (c, writeThrough c s)
  endRun ec (gateFree port (gateClass c.desc) f (ctxSet ec x.1 x.2))

/-- EMIT (R147). DESIGN CHOICE (log entry 123): where several failures apply, the first of NO_SLOT, FREE_STAMPED, PORT, EMIT_LEN, ANCHOR and
CORR_RANGE is noted. -/
def pEmit (ec p : Nat) (c : Ctx) (s : State) : POut :=
  let free := pb p 64
  let n := lenOf c (pLen p)
  let l := if n ≠ 0 then n else c.blen
  if !free ∧ c.slot.isNone then .bad 8
  else if free ∧ c.stamped then .bad 9
  else match (if free then portSel s c (pf p 66 4) else c.slot.map (·.1)) with
    | none => .bad 6
    | some port =>
      let q := match c.slot with | some (_, q) => q | none => 0
      let cap := match (gateOf s port).cal.find? (heldBy ec q) with | some b => b.len | none => 2048
      if l = 0 ∨ 2048 < l ∨ (!free ∧ cap < l) then .bad 0x0A
      else match corrRefs p c .build l with
        | .inl cause => .bad cause
        | .inr corr =>
          let m := touchMem (buildBase ec) l s
          if m.1 then .ue m.2
          else
            .all (emitRun ec port free (macSrc s port (pb p 71) (ldBytes m.2 (buildBase ec) l)) corr c m.2)

/-- RELAY (R148). -/
def pRelay (ec p : Nat) (c : Ctx) (s : State) : POut :=
  match portSel s c (pf p 66 4) with
  | none => .bad 6
  | some port =>
    match corrRefs p c .frame (descFrameLen c - 4) with
    | .inl cause => .bad cause
    | .inr corr =>
      let m := touchMem (frameBase + descAddr c) (descFrameLen c - 4) s
      if m.1 then .ue m.2
      else
        .all (relayRun ec port (macSrc s port (pb p 71) (runFrame c m.2)) corr c m.2)

/-- A punt ring. -/
def puntsOf (s : State) (r : Nat) : List Punt := mapGet (fun _ => []) s.pe.punts r
def puntsSet (r : Nat) (x : List Punt) (s : State) : State :=
  { s with pe := { s.pe with punts := mapSet (fun _ => []) r x s.pe.punts } }

/-- The entry of a run joins a punt ring that has room, and the run ends (R99, R149). -/
def puntRun (ec ring tag : Nat) (build : List Byte) (c : Ctx) (s : State) : State :=
  let x : Punt := { desc := c.desc, frame := runFrame c s, tag := tag, w0 := wOf c 0, build := build, old := c.old }
  let s1 := puntsSet ring (puntsOf s ring ++ [x]) (writeThrough c s)
  endRun ec (if (ring = 3 ∨ ring = 4) ∧ (ptpTypeOf c).isSome then bump (UC_PTP (12 + ring)) 1 s1 else s1)

/-- PUNT (R149). -/
def pPunt (ec p : Nat) (c : Ctx) (s : State) : POut :=
  let ring := pf p 64 4
  if 8 < ring then .bad 6
  else if Config.puntCapacity ring ≤ (puntsOf s ring).length then .all (dropRun ec rsnPuntFull true s)
  else
    let m := touchMem (frameBase + descAddr c) (descFrameLen c - 4) s
    if m.1 then .ue m.2
    else .all (puntRun ec ring (pImm p % 65536) (if pb p 68 then ldBytes m.2 (buildBase ec) c.blen else []) c m.2)

/-- A Topo drops the frame of a run (R150); a drop for RATE raises SVC_RATE_LIMIT (R207). -/
def topoDrop (ec rsn : Nat) (s : State) : State := dropRun ec rsn false (if rsn = 0x1C then raiseOnce EV_SVC_RATE_LIMIT s else s)

/-- DROP (R150). -/
def pDrop (ec p : Nat) (_ : Ctx) (s : State) : POut := .all (topoDrop ec (pf p 64 8) s)

/-- CALL (R152). -/
def pCall (ec p : Nat) (c : Ctx) (s : State) : POut :=
  if pCond p ≠ 0 then .bad 7
  else if 4 ≤ c.stack.length then .all (dropRun ec rsnCallDepth true s)
  else .all (goTo ec (pNextT p) (ctxSet ec { c with stack := c.stack ++ [pNextF p] } s))

/-- RET (R152). -/
def pRet (ec _ : Nat) (c : Ctx) (s : State) : POut :=
  match c.stack.getLast? with
  | none => .all (dropRun ec rsnRetEmpty true s)
  | some r => .all (goTo ec r (ctxSet ec { c with stack := c.stack.dropLast } s))

/-- TRAP (R117, R151). -/
def pTrap (ec p : Nat) (c : Ctx) (s : State) : POut :=
  let s1 := cairnAgg [0x07, 0x20, sevNotice, 0, pImm p % 65536, ec / 4, ec % 4, c.pc] (raiseOnce EV_PE_TRAP s)
  if fbit s PE_DEBUG PE_DEBUG_TRAP_HALT then .all (setLevel EV_PE_CTX_HALTED true (ctxSet ec { c with st := 4 } s1))
  else .all (dropRun ec rsnTrap true s1)

-- Snapshots ------------------------------------------------------------------------------------------------------

/-- The context PE_CTX_SEL names. -/
def selCtx (s : State) : Nat := 4 * fget s PE_CTX_SEL PE_CTX_SEL_ENGINE + fget s PE_CTX_SEL PE_CTX_SEL_CTX

/-- RESUME of a halted context (R117). -/
def snapResume (s : State) : State :=
  if (ctxOf s (selCtx s)).st = 4 then dropRun (selCtx s) rsnTrap true s else s

/-- One packed anchor of PE_CTX_ANCH. -/
def anchWord (x : Bool × Nat) : Nat := (if x.1 then 2 ^ 15 else 0) + x.2

/-- STATE of a context (PE_CTX_STATE): DISPATCHING until its first Pitch issues, PARKED while a Pitch has issued and its successor is not
yet chosen (DEDUCED, log entry 125). -/
def ctxShown (c : Ctx) : Nat := if c.st ≠ 2 then c.st else if c.done then 3 else if c.steps = 0 then 1 else 2

/-- Index of the next Pitch of a context, or of the halted one; of a parked one the index its flags choose, if they choose one. -/
def ctxNext (s : State) (c : Ctx) : Nat :=
  if c.st = 2 ∧ c.done then
    let p := pitchAt s c.bank c.pc
    let n := if condHolds (pCond p) c.flags then pNextT p else pNextF p
    if n < 0x8000 then n else c.pc
  else c.pc

/-- Copy context `ec` into the PE_CTX registers (R116). -/
def snapTake (ec : Nat) (s : State) : State :=
  let c := ctxOf s ec
  let at_ := fun (i : Nat) => (c.stack.drop i).headD 0 % 2 ^ 15
  let an := fun (i : Nat) => anchWord ((c.anch.drop i).headD (false, 0))
  let st := setF PE_CTX_STATE_STATE (ctxShown c) (setF PE_CTX_STATE_BANK c.bank (setF PE_CTX_STATE_PC (ctxNext s c)
    (setF PE_CTX_STATE_SLOT_HELD (if c.slot.isSome then 1 else 0) (setF PE_CTX_STATE_STACK_DEPTH c.stack.length
      (setF PE_CTX_STATE_STEPS c.steps (setF PE_CTX_STATE_TRAILHEAD (leAt c.desc 23 1) 0))))))
  let s1 := wr PE_CTX_STATE st s
  let s2 := wr PE_CTX_STACK (BitVec.ofNat 64 (at_ 0 + at_ 1 * 2 ^ 16 + at_ 2 * 2 ^ 32 + at_ 3 * 2 ^ 48)) s1
  let s3 := wr PE_CTX_FLAGS (BitVec.ofNat 64 c.flags) s2
  let s4 := wr PE_CTX_ANCH (BitVec.ofNat 64 (an 0 + an 1 * 2 ^ 16 + an 2 * 2 ^ 32 + c.blen * 2 ^ 48)) s3
  let s5 := forEach (List.range 8) (fun k a => wr (PE_CTX_DESC k) (BitVec.ofNat 64 (leAt c.desc (8 * k) 8)) a) s4
  let s6 := forEach (List.range 16) (fun k a => wr (PE_CTX_W k) (BitVec.ofNat 64 (wOf c k)) a) s5
  fsetB PE_CTX_SNAP PE_CTX_SNAP_DONE true { s6 with pe := { s6.pe with snapWait := none } }

/-- GO: a snapshot of the context PE_CTX_SEL names now is requested; one that is free, parked or halted is taken at once (R116). -/
def snapGo (s : State) : State :=
  let ec := selCtx s
  let s1 := fsetB PE_CTX_SNAP PE_CTX_SNAP_DONE false { s with pe := { s.pe with snapWait := some ec } }
  if [0, 3, 4].contains (ctxShown (ctxOf s ec)) then snapTake ec s1 else s1

/-- The effect of an accepted write to a pitch-engine register. -/
def peApply (a : Nat) (v : Word) (s : State) : Option State :=
  if a = PE_CTX_SNAP then
    let s1 := if getF PE_CTX_SNAP_GO v ≠ 0 then snapGo s else s
    some (if getF PE_CTX_SNAP_RESUME v ≠ 0 then snapResume s1 else s1)
  else if a = PE_ENABLE then some (wr a (v &&& BitVec.ofNat 64 (2 ^ peCount s.variant - 1)) s)
  else none

-- Meanings -------------------------------------------------------------------------------------------------------

/-- INJECTION (R90). -/
def execInjection (port : Nat) (tag : Word) (addr : Nat) (bytes : List Byte) (s : State) : Res :=
  run (inject 8 port tag.toNat addr bytes) s

/-- NOP (R126). -/
def execNop (e c : Nat) (s : State) : Res := run (issue 0x00 e c pNop) s
/-- IMM (R126). -/
def execImm (e c : Nat) (s : State) : Res := run (issue 0x01 e c pImmOp) s
/-- LOAD (R127). -/
def execLoad (e c : Nat) (s : State) : Res := run (issue 0x02 e c pLoad) s
/-- STORE (R127). -/
def execStore (e c : Nat) (s : State) : Res := run (issue 0x03 e c pStore) s
/-- COPY (R128). -/
def execCopy (e c : Nat) (s : State) : Res := run (issue 0x04 e c pCopy) s
/-- SETA (R129). -/
def execSeta (e c : Nat) (s : State) : Res := run (issue 0x05 e c pSeta) s
/-- ALU (R130). -/
def execAlu (e c : Nat) (s : State) : Res := run (issue 0x08 e c pAlu) s
/-- TESTB (R131). -/
def execTestb (e c : Nat) (s : State) : Res := run (issue 0x09 e c pTestb) s
/-- LOOKUP (R133). -/
def execLookup (e c : Nat) (s : State) : Res := run (issue 0x0C e c pLookup) s
/-- SKETCH (R136). -/
def execSketch (e c : Nat) (s : State) : Res := run (issue 0x0D e c pSketch) s
/-- COUNT (R132). -/
def execCount (e c : Nat) (s : State) : Res := run (issue 0x0E e c pCount) s
/-- STAMP (R137). -/
def execStamp (e c : Nat) (s : State) : Res := run (issue 0x10 e c pStamp) s
/-- SLOT (R140). -/
def execSlot (e c : Nat) (s : State) : Res := run (issue 0x11 e c pSlot) s
/-- QUALITY (R141). -/
def execQuality (e c : Nat) (s : State) : Res := run (issue 0x12 e c pQuality) s
/-- SEAL (R144). -/
def execSeal (e c : Nat) (s : State) : Res := run (issue 0x14 e c pSeal) s
/-- CSUM (R146). -/
def execCsum (e c : Nat) (s : State) : Res := run (issue 0x15 e c pCsum) s
/-- EMIT (R147). -/
def execEmit (e c : Nat) (s : State) : Res := run (issue 0x18 e c pEmit) s
/-- RELAY (R148). -/
def execRelay (e c : Nat) (s : State) : Res := run (issue 0x19 e c pRelay) s
/-- PUNT (R149). -/
def execPunt (e c : Nat) (s : State) : Res := run (issue 0x1A e c pPunt) s
/-- DROP (R150). -/
def execDrop (e c : Nat) (s : State) : Res := run (issue 0x1B e c pDrop) s
/-- CALL (R152). -/
def execCall (e c : Nat) (s : State) : Res := run (issue 0x1C e c pCall) s
/-- RET (R152). -/
def execRet (e c : Nat) (s : State) : Res := run (issue 0x1D e c pRet) s
/-- TRAP (R117). -/
def execTrap (e c : Nat) (s : State) : Res := run (issue 0x1F e c pTrap) s
/-- SUCCESSOR (R98). -/
def execSuccessor (e c : Nat) (s : State) : Res := run (successor e c) s

end Sys2Proof.Machine
end

