-- ==== Sys2Proof/Machine/Session.lean ====
section
/-!
DEFINITION. Machine/Session.lean: Harness messages and transports (R440 to R442), open sessions, notifications (R452), the
PCIe rings (R454) and HSPI (R455).
-/
namespace Sys2Proof.Machine
open Sys2Proof

/-- A Harness message: header, body and tag under a key; an empty key stands for a tag of zeros (R441). -/
def harMsg (key : List Byte) (type sid seq cmd status : Nat) (body : List Byte) : List Byte :=
  let m := leBytes 2 0x4748 ++ [1, BitVec.ofNat 8 type] ++ leBytes 4 sid ++ leBytes 8 seq ++ leBytes 2 cmd ++ leBytes 2 status
    ++ leBytes 4 body.length ++ zeros 8 ++ body
  m ++ (if key.isEmpty then zeros 16 else (hmac256 key m).take 16)

/-- Body of a response that is not OK (R442). -/
def failBody (state detail : Nat) : List Byte := leBytes 2 state ++ zeros 2 ++ leBytes 4 detail

/-- Transport number of a transport ID: 1 MGMT, 2 PCIE, 3 HSPI (R440). -/
def tidKind (tid : List Byte) : Nat := leAt tid 0 1

-- Rings ----------------------------------------------------------------------------------------------------------

def ringReset (_ : Nat) : Ring :=
  { reqBase := 0, rspBase := 0, size := 0, enable := false, reqProd := 0, reqCons := 0, rspProd := 0, rspCons := 0,
    posted := [], wait := [] }
def ringOf (s : State) (k : Nat) : Ring := mapGet ringReset s.har.rings k
def ringSet (k : Nat) (r : Ring) (s : State) : State :=
  setLevel (EV_HOST_RING_RSP k) (decide (r.rspProd ≠ r.rspCons))
    { s with har := { s.har with rings := mapSet ringReset k r s.har.rings } }

/-- The notification lost (R452, R454, R455). -/
def ntfLost (s : State) : State := bump (UC_HARNESS 7) 1 s

/-- A response too large for its buffer is replaced by BAD_LENGTH (R454); the tag is made under the same key. -/
def shrink (key msg : List Byte) : List Byte :=
  harMsg key 1 (leAt msg 4 4) (leAt msg 8 8) (leAt msg 16 2) 2 (failBody 0 0xFFFFFFFF)

/-- Write messages that wait into posted buffers, oldest first (R454). The key is that of the session the message names; a response that is
replaced counts as one that is not OK (R448). A notification larger than its buffer is lost, and the buffer goes to the next message (DESIGN
CHOICE, log entry 172). -/
def ringFill (k : Nat) : Nat → State → State
  | 0, s => s
  | n + 1, s =>
    let r := ringOf s k
    match r.wait, r.posted with
    | (ntf, m) :: ws, (addr, cap) :: ps =>
      let key := ((s.har.sessions.find? (fun x => x.sid = leAt m 4 4)).map (·.key)).getD []
      if cap < m.length ∧ ntf then ringFill k n (ntfLost (ringSet k { r with wait := ws } s))
      else
        let big := decide (cap < m.length)
        let m' := if big then shrink key m else m
        let s0 := if big && decide (leAt m 18 2 = 0) then bump (UC_HARNESS 5) 1 s else s
        let s1 := ringSet k { r with wait := ws, posted := ps, rspProd := (r.rspProd + 1) % 2 ^ 32 } s0
        let slot := r.rspBase + 16 * (r.rspProd % max r.size 1)
        ringFill k n (emitOut (.dma (slot + 8) (leBytes 4 m'.length)) (emitOut (.dma addr m') s1))
    | _, _ => s

/-- Send a message on a transport; `ntf` marks a notification (R440, R452, R454, R455). -/
def harSend (tid : List Byte) (ntf : Bool) (m : List Byte) (s : State) : State :=
  if tidKind tid = 2 then
    let k := leAt tid 1 1
    let r := ringOf s k
    ringFill k (r.wait.length + 1) (ringSet k { r with wait := r.wait ++ [(ntf, m)] } s)
  else if tidKind tid = 3 then
    let q := s.har.hspi ++ [(ntf, m)]
    let put := fun (x : List (Bool × List Byte)) (a : State) =>
      setLevel EV_HSPI_READY (!x.isEmpty) { a with har := { a.har with hspi := x } }
    if q.length ≤ 8 then put q s
    else match q.findIdx? (fun x => x.1) with
      | some i => ntfLost (put (q.eraseIdx i) s)
      | none => s
  else emitOut (.msg tid m) s

-- Sessions -------------------------------------------------------------------------------------------------------

def sessionOf (s : State) (sid : Nat) : Option Session := s.har.sessions.find? (fun x => x.sid = sid)

/-- Replace a session. -/
def sessionSet (x : Session) (s : State) : State :=
  { s with har := { s.har with sessions := s.har.sessions.map (fun y => if y.sid = x.sid then x else y) } }

/-- Notify one session (R452). -/
def notify (sid cmd : Nat) (body : List Byte) (s : State) : State :=
  match sessionOf s sid with
  | none => s
  | some x =>
    let n := x.ntfSeq + 1
    harSend x.tid true (harMsg x.key 2 x.sid n cmd 0 body) (sessionSet { x with ntfSeq := n } s)

/-- Notify every session that `sel` picks. -/
def notifyAll (sel : Session → Bool) (cmd : Nat) (body : Session → List Byte) (s : State) : State :=
  s.har.sessions.foldl (fun a x => if sel x then notify x.sid cmd (body x) a else a) s

/-- The XO time base in ns (R289). -/
def xoNs (s : State) : Nat := s.tsu.xo / 2 ^ 48

/-- Seconds of the longest remaining lock (R444, LOCK_LEFT). -/
def lockLeft (s : State) : Nat := s.har.lockEnd.foldl (fun m x => max m ((x.2 - xoNs s + 999999999) / 10 ^ 9)) 0

/-- Refresh the counts that HOST_HARNESS_STATUS shows. -/
def harShow (s : State) : State :=
  fset HOST_HARNESS_STATUS HOST_HARNESS_STATUS_SESSIONS s.har.sessions.length
    (fset HOST_HARNESS_STATUS HOST_HARNESS_STATUS_PENDING s.har.shakes.length s)

/-- A session closes (R446, R453): its register path is unbound. -/
def sessionClose (sid : Nat) (s : State) : State :=
  let s1 : State := { s with har := { s.har with sessions := s.har.sessions.filter (fun x => x.sid ≠ sid) } }
  let s2 := if fget s1 HOST_REGPATH HOST_REGPATH_PCIE_SESSION = sid then fset HOST_REGPATH HOST_REGPATH_PCIE_SESSION 0 s1 else s1
  let s3 := if fget s2 HOST_REGPATH HOST_REGPATH_HSPI_SESSION = sid then fset HOST_REGPATH HOST_REGPATH_HSPI_SESSION 0 s2 else s2
  occur EV_HARNESS_SESSION (harShow s3)

/-- Close with the notification CLOSED (R446): 1 IDLE, 2 CUSTODIAN, 3 RESTART, 4 PHASE. -/
def sessionEnd (cause sid : Nat) (s : State) : State :=
  sessionClose sid (notify sid 0x01F0 (leBytes 4 cause ++ zeros 4) s)

/-- Close every session for a cause. -/
def sessionsEnd (cause : Nat) (s : State) : State := s.har.sessions.foldl (fun a x => sessionEnd cause x.sid a) s

/-- Role of the session bound to a register path; 0 unbound (R453). -/
def pathRole (s : State) (f : Fld) : Nat :=
  match sessionOf s (fget s HOST_REGPATH f) with
  | some x => if fget s HOST_REGPATH f = 0 then 0 else x.role
  | none => 0

/-- NTF_EVENT_TICK (R452). -/
def eventTick (s : State) : State :=
  let m := s.evc.ntf.toNat
  if m = 0 then s
  else
    let t := leBytes 8 (nowSec s) ++ leBytes 8 (gtSub (gtNow s))
    let s1 := notifyAll (fun x => decide (x.evMask &&& m ≠ 0)) 0x09F0 (fun x => t ++ leBytes 32 (x.evMask &&& m)) s
    { s1 with evc := { s1.evc with ntf := s1.evc.ntf &&& ~~~ s.evc.ntf } }

/-- Cairn entries from index `i`, `n` of them. -/
def cairnEntries (s : State) (i n : Nat) : List Byte :=
  (List.range n).flatMap (fun k => ldBytes s (0x78000000 + 32 * ((i + k) % 4096)) 32)

/-- `n` Cairn entries from index `i` are read (R465): one with an uncorrectable word is rewritten with unit ECC and class LOST. Its time is that of
the rewriting, and its severity ERROR (DESIGN CHOICE, log entry 172). -/
def cairnMeet (i n : Nat) (s : State) : State :=
  if s.ecc.bad.isEmpty then s
  else forEach (List.range n) (fun k a =>
    let at_ := 0x78000000 + 32 * ((i + k) % 4096)
    let m := touchMem at_ 32 a
    if m.1 then putMem at_ (cairnEntry (gtNow a) 0x90 0 sevError 0xFF 0 []) m.2 else m.2) s

/-- NTF_CAIRN_BATCH (R452): entries written since the last batch, at most 64 to a message. -/
def cairnBatch (s0 : State) : State :=
  let h := fget s0 CNT_CAIRN_HEAD CNT_CAIRN_HEAD_HEAD
  let lo := max s0.har.cairnAt (h - 4096)
  let s := cairnMeet lo (h - lo) s0
  let s1 : State := { s with har := { s.har with cairnAt := h } }
  forEach (List.range ((h - lo + 63) / 64)) (fun k a =>
    let i := lo + 64 * k
    notifyAll (fun x => decide (x.flags % 2 = 1)) 0x09F1 (fun _ => cairnEntries s i (min 64 (h - i))) a) s1

/-- NTF_EVENT_TICK (R452). -/
def execNtfEventTick (s : State) : Res := run eventTick s

/-- NTF_CAIRN_BATCH (R452). -/
def execNtfCairnBatch (s : State) : Res := run cairnBatch s

end Sys2Proof.Machine
end

