-- ==== Sys2Proof/Machine/Cnt.lean ====
section
/-!
DEFINITION. Machine/Cnt.lean: occupancy counters, snapshots, dumps and the end of a second of the Cairn log (R493 to R504),
and what the device does while no command waits.
-/
namespace Sys2Proof.Machine
open Sys2Proof

/-- A counter of a bank. -/
def cntAt (m : SMap Nat) (i : Nat) : Nat := mapGet (fun _ => 0) m i

/-- The occupancy that OC `k` watches (R493); none for a port or unit that does not exist (log entry 152). -/
def occupancy (s : State) (k : Nat) : Option Nat :=
  let inst := fget s (CNT_OCC_CFG k) CNT_OCC_CFG_INST
  let some8 := fun (n : Nat) => if inst < 8 then some n else none
  match fget s (CNT_OCC_CFG k) CNT_OCC_CFG_SRC with
  | 1 => some (queueOf s (4 * (inst % 8) + inst / 16 % 4)).length
  | 2 => some (running s)
  | 3 => some8 (fget s (GATE_PORT_FILL (inst % 8)) GATE_PORT_FILL_PENDING)
  | 4 => some8 (fget s (GATE_PORT_FILL (inst % 8)) GATE_PORT_FILL_FREE_Q)
  | 5 => some (puntsOf s inst).length
  | 6 => some8 (fget s (BNU_STATUS (inst % 8)) BNU_STATUS_SHORT_Q + fget s (BNU_STATUS (inst % 8)) BNU_STATUS_LONG_Q)
  | 7 => some (s.pe.frames.foldl (fun a x => a + x.2) 0 / 1024)
  | 8 => some (queueOf s 33).length
  | 9 => some (fget s SVC_KE_STATUS SVC_KE_STATUS_CONN)
  | _ => none

/-- One FAB cycle of the occupancy counters (R493). -/
def occCycle (s : State) : State :=
  forEach (List.range 64) (fun k a => match occupancy a k with
    | none => a
    | some n => if fget a (CNT_OCC_CFG k) CNT_OCC_CFG_THRESH < n then bump (1536 + k) 1 a else a) s

/-- What passes while no command waits: one TSC tick, with it two ROOT edges of the outputs (R359), and with every second tick a FAB cycle
(R40, R493). -/
def idle (s : State) : State :=
  if heldInReset s || !(decide (3 ≤ fget s SYS_START_STATUS SYS_START_STATUS_STAGE) || decide (phase s = 4)) then s
  else
    let s1 := outTicks (tsuTick { s with tsu := { s.tsu with half := !s.tsu.half } })
    if s.tsu.half then occCycle { s1 with tsu := { s1.tsu with armFab := false } } else s1

/-- The words of the shadow bank are written (R462, R494): the counters and the stamp. -/
def shadowWrite (s : State) : State :=
  if eccQuiet s then s else forEach ((List.range 1600 ++ [1792, 1793, 1794]).map (8192 + ·)) (eccWrite 10) s

/-- A global snapshot (R495). -/
def cntSnap (s : State) : State :=
  let s1 : State := { s with cnt := { s.cnt with
    shLive := s.cnt.live, shExt := s.cnt.ext,
    shOvf := (List.range 25).foldl (fun m k => mapSet (fun _ => 0) k (rd s (CNT_OVF k)) m) [],
    snapAt := gtNow s, snapSeq := s.cnt.snapSeq + 1 } }
  occur EV_CNT_SNAP_DONE (fset CNT_CTL CNT_CTL_SNAP_SEQ (s.cnt.snapSeq + 1) (shadowWrite s1))

/-- Counter `i` restarts at zero. -/
def liveZero (i : Nat) (s : State) : State := { s with cnt := { s.cnt with live := mapSet (fun _ => 0) i 0 s.cnt.live } }

/-- Counter `i` restarts at zero, in the live bank or in the snapshot. -/
def cntZero (sh : Bool) (i : Nat) (s : State) : State :=
  if sh then { s with cnt := { s.cnt with shLive := mapSet (fun _ => 0) i 0 s.cnt.shLive } } else liveZero i s

/-- `n` counters from `i` are read, of the live bank or of the snapshot (R465): one with an uncorrectable word restarts at zero. -/
def cntMeet (sh : Bool) (i n : Nat) (s : State) : State :=
  if s.ecc.bad.isEmpty then s
  else forEach (List.range n) (fun k a =>
    let w := (if sh then 8192 else 0) + i + k
    let m := eccRead 10 w a
    if m.1 then eccWrite 10 w (cntZero sh (i + k) m.2) else m.2) s

/-- A word of the counter window (R494). DEDUCED (log entry 173): the extension bank is that of the extension counters themselves. -/
def cntWord (s : State) (a : Nat) : Word :=
  let o := a - 0x70000000
  let i := o % 0x10000 / 8
  let get := fun (m : SMap Nat) => if i < 1600 then BitVec.ofNat 64 (cntAt m i) else 0
  match o / 0x10000 with
  | 0 => get s.cnt.live
  | 1 =>
    if o = 0x13800 then BitVec.ofNat 64 (gtSec s.cnt.snapAt)
    else if o = 0x13808 then BitVec.ofNat 64 (gtSub s.cnt.snapAt)
    else if o = 0x13810 then BitVec.ofNat 64 s.cnt.snapSeq
    else get s.cnt.shLive
  | 2 => get s.cnt.ext
  | _ => 0

/-- The dump of the shadow bank (R498). -/
def dumpBytes (s : State) : List Byte :=
  let chained := (List.range 1600).any (fun i => cntAt s.cnt.shExt i ≠ 0)
  leBytes 8 (gtSec s.cnt.snapAt) ++ leBytes 8 (gtSub s.cnt.snapAt) ++ leBytes 8 s.cnt.snapSeq
    ++ [BitVec.ofNat 8 (phase s), if chained then 1 else 0] ++ leBytes 2 s.cnt.dumps ++ zeros 4
    ++ (List.range 1600).flatMap (fun i =>
      leBytes 8 (cntAt s.cnt.shLive i + (if (mapGet (fun _ => 0) s.cnt.shOvf (i / 64)).getLsbD (i % 64) then 2 ^ 63 else 0)))
    ++ (if chained then (List.range 1600).flatMap (fun i => leBytes 8 (cntAt s.cnt.shExt i)) else [])

/-- Bytes of a dump that DMA delivers (R465): those before the first word of the shadow bank that cannot be corrected. -/
def dumpStop (s : State) : Option Nat :=
  if s.ecc.bad.isEmpty then none
  else ((List.range 1600).find? (fun i => eccUe (eccBad s 10 (8192 + i)))).map (fun i => 32 + 8 * i)

/-- A DMA transfer stops at an uncorrectable word (R465). -/
def dmaUe (s : State) : State := raiseOnce EV_ECC_DMA_UE (bump UC_ECC_DMA_UE 1 s)

/-- Delivery of a dump to host memory (R465, R497): one that stops at an uncorrectable word is lost. -/
def dumpHost (d : List Byte) (s : State) : State :=
  let slots := fget s CNT_DUMP_HOST CNT_DUMP_HOST_SLOTS
  let prod := fget s CNT_DUMP_HOST CNT_DUMP_HOST_PROD
  let at_ := (rd s CNT_DUMP_HOST_ADDR).toNat + 32768 * prod
  match dumpStop s with
  | some n => occur EV_CNT_DUMP_LOST (dmaUe (emitOut (.dma at_ (d.take n)) (touchMem (0x70010000 + (n - 32)) 8 s).2))
  | none => fset CNT_DUMP_HOST CNT_DUMP_HOST_PROD ((prod + 1) % slots) (emitOut (.dma at_ d) s)

/-- COUNTER_DUMP (R497). -/
def counterDump (s : State) : State :=
  if fget s CNT_DUMP_CFG CNT_DUMP_CFG_PERIOD = 0 then s
  else
    let dest := fget s CNT_DUMP_CFG CNT_DUMP_CFG_DEST
    let s0 := cntSnap s
    let s1 : State := { s0 with cnt := { s0.cnt with dumps := s0.cnt.dumps + 1 } }
    let d := dumpBytes s1
    let s2 := if dest.testBit 0 then
        let slots := max 1 (fget s1 CNT_DUMP_RING CNT_DUMP_RING_SLOTS)
        let at_ := s1.cnt.sramAt % slots
        let a := putMem (0x30000000 + fget s1 CNT_DUMP_RING CNT_DUMP_RING_BASE + 32768 * at_) d s1
        fset CNT_DUMP_RING CNT_DUMP_RING_HEAD (fget a CNT_DUMP_RING CNT_DUMP_RING_HEAD + 1)
          { a with cnt := { a.cnt with sramAt := (at_ + 1) % slots } }
      else s1
    let slots := fget s2 CNT_DUMP_HOST CNT_DUMP_HOST_SLOTS
    let prod := fget s2 CNT_DUMP_HOST CNT_DUMP_HOST_PROD
    let host := dest.testBit 1 && decide (2 ≤ slots)
    let full := decide ((prod + 1) % max slots 1 = fget s2 CNT_DUMP_HOST CNT_DUMP_HOST_CONS)
    let s3 := if host && full then occur EV_CNT_DUMP_LOST s2
      else if host then dumpHost d s2
      else s2
    let s4 := if dest.testBit 2 then notifyAll (fun x => x.flags.testBit 1) 0x09F2 (fun _ => d) s3 else s3
    if dest.testBit 0 || (host && !full && (dumpStop s2).isNone) || dest.testBit 2 then occur EV_CNT_DUMP_DONE s4 else s4

/-- Entries of the conditions counted in the second that has ended (R500, R502, R151). -/
def secondEnd (s : State) : State :=
  let sec := (nowSec s - 1) % 2 ^ 32
  let s1 := s.cnt.agg.foldl (fun (a : State) x =>
    let g := fun (i : Nat) => (x.1.drop i).headD 0
    if g 0 = 0x07 then
      cairnForce (g 1) (g 2) 0x07 (g 3)
        ([BitVec.ofNat 8 (g 5), BitVec.ofNat 8 (g 6)] ++ leBytes 2 (g 7) ++ leBytes 2 (g 4) ++ zeros 2 ++ leBytes 4 x.2.1 ++ leBytes 4 sec) a
    else
      cairnForce (g 1) (g 2) 0x03 (g 3) (leBytes 4 (g 4) ++ leBytes 4 x.2.1 ++ leBytes 4 x.2.2 ++ leBytes 4 sec) a) s
  let s2 := if s.cnt.suppressed = 0 then s1
    else occur EV_CAIRN_SUPPRESS (cairnForce 0x80 sevNotice 0x09 0 (leBytes 4 s.cnt.suppressed ++ leBytes 4 sec ++ zeros 8) s1)
  { s2 with cnt := { s2.cnt with agg := [], suppressed := 0 } }

/-- Checks of a write to a register of the counters: the ring of SRC 5 is 0 to 8 (R493, R527), CNT_DUMP_RING, CNT_DUMP_HOST. -/
def cntCheck (a : Nat) (v : Word) : Verdict :=
  if CNT_OCC_CFG 0 ≤ a ∧ a ≤ CNT_OCC_CFG 63 ∧ getF CNT_OCC_CFG_SRC v = 5 ∧ 8 < getF CNT_OCC_CFG_INST v then vRange else
  if a = CNT_DUMP_RING ∧ getF CNT_DUMP_RING_BASE v % 32768 ≠ 0 then vRange
  else if a = CNT_DUMP_HOST ∧ (getF CNT_DUMP_HOST_SLOTS v = 1 ∨ 64 < getF CNT_DUMP_HOST_SLOTS v) then vRange else .ok

/-- The effect of an accepted write to a register of the counters; overflow bits are cleared by writing 1 (R492). -/
def cntApply (a : Nat) (v : Word) (s : State) : Option State :=
  if a = CNT_CTL then some (if getF CNT_CTL_SNAP v ≠ 0 then cntSnap s else s)
  else if CNT_OVF 0 ≤ a ∧ a ≤ CNT_OVF 24 then
    let s1 := wr a (rd s a &&& ~~~ v) s
    some (if (List.range 25).all (fun k => rd s1 (CNT_OVF k) = 0) then setLevel EV_CNT_OVF false s1 else s1)
  else none

/-- COUNTER_DUMP (R497). -/
def execCounterDump (s : State) : Res := run counterDump s

/-- CAIRN_SECOND_END (R502). -/
def execCairnSecondEnd (s : State) : Res := run secondEnd s

end Sys2Proof.Machine
end

