-- ==== Sys2Proof/Machine/Curve.lean ====
section
/-!
DEFINITION. Machine/Curve.lean: the public-key arithmetic of the big-number units (R263): modular powers, the NIST curves
P-256 and P-384, X25519 and Ed25519, and ECDSA.
-/
namespace Sys2Proof.Machine
open Sys2Proof

/-- b^e mod m, one bit of e per unit of fuel. -/
def powModGo (m : Nat) : Nat → Nat → Nat → Nat → Nat
  | 0, _, _, a => a
  | f + 1, b, e, a => powModGo m f (b * b % m) (e / 2) (if e % 2 = 1 then a * b % m else a)

/-- b^e mod m. -/
def powMod (b e m : Nat) : Nat := powModGo m (Nat.log2 e + 1) (b % m) e (1 % m)

/-- Inverse modulo a prime. -/
def invMod (a p : Nat) : Nat := powMod a (p - 2) p

/-- a − b modulo p. -/
def subMod (a b p : Nat) : Nat := (a % p + (p - b % p)) % p

-- NIST curves ----------------------------------------------------------------------------------------------------

/-- A short Weierstrass curve y² = x³ − 3x + b over p with order n and base point, and its words per coordinate (R259). -/
structure NistCurve where
  p : Nat
  b : Nat
  n : Nat
  gx : Nat
  gy : Nat
  w : Nat
  deriving DecidableEq, Repr

def p256 : NistCurve :=
  { p := 2 ^ 256 - 2 ^ 224 + 2 ^ 192 + 2 ^ 96 - 1
    b := 0x5AC635D8AA3A93E7B3EBBD55769886BC651D06B0CC53B0F63BCE3C3E27D2604B
    n := 0xFFFFFFFF00000000FFFFFFFFFFFFFFFFBCE6FAADA7179E84F3B9CAC2FC632551
    gx := 0x6B17D1F2E12C4247F8BCE6E563A440F277037D812DEB33A0F4A13945D898C296
    gy := 0x4FE342E2FE1A7F9B8EE7EB4A7C0F9E162BCE33576B315ECECBB6406837BF51F5
    w := 4 }

def p384 : NistCurve :=
  { p := 2 ^ 384 - 2 ^ 128 - 2 ^ 96 + 2 ^ 32 - 1
    b := 0xB3312FA7E23EE7E4988E056BE3F82D19181D9C6EFE8141120314088F5013875AC656398D8A2ED19D2A85C8EDD3EC2AEF
    n := 0xFFFFFFFFFFFFFFFFFFFFFFFFFFFFFFFFFFFFFFFFFFFFFFFFC7634D81F4372DDF581A0DB248B0A77AECEC196ACCC52973
    gx := 0xAA87CA22BE8B05378EB1C71EF320AD746E1D3B628BA79B9859F741E082542A385502F25DBF55296C3A545E3872760AB7
    gy := 0x3617DE4A96262C6F5D9E98BF9292DC29F8F41DBD289A147CE9DA3113B5F0B8C00A60B1CE1D7E819D7A431D7C90EA0E5F
    w := 6 }

/-- CURVE of a descriptor, 1 or 2 (R262). -/
def nistOf (c : Nat) : NistCurve := if c = 2 then p384 else p256

/-- Is a point on the curve (R266)? -/
def onCurve (c : NistCurve) (x y : Nat) : Bool :=
  decide (y * y % c.p = subMod (x * x % c.p * x + c.b) (3 * x) c.p)

/-- Addition of affine points; none is the point at infinity. -/
def ecAdd (c : NistCurve) : Option (Nat × Nat) → Option (Nat × Nat) → Option (Nat × Nat)
  | none, q => q
  | q, none => q
  | some (x1, y1), some (x2, y2) =>
    if x1 = x2 ∧ (y1 + y2) % c.p = 0 then none
    else
      let l := if x1 = x2 then (3 * x1 * x1 + (c.p - 3)) % c.p * invMod (2 * y1) c.p % c.p
        else subMod y2 y1 c.p * invMod (subMod x2 x1 c.p) c.p % c.p
      let x3 := subMod (subMod (l * l) x1 c.p) x2 c.p
      some (x3, subMod (l * subMod x1 x3 c.p) y1 c.p)

/-- Scalar multiplication, one bit of k per unit of fuel. -/
def ecMulGo (c : NistCurve) : Nat → Nat → Option (Nat × Nat) → Option (Nat × Nat) → Option (Nat × Nat)
  | 0, _, _, a => a
  | f + 1, k, q, a => ecMulGo c f (k / 2) (ecAdd c q q) (if k % 2 = 1 then ecAdd c a q else a)

def ecMul (c : NistCurve) (k : Nat) (q : Option (Nat × Nat)) : Option (Nat × Nat) := ecMulGo c (Nat.log2 k + 1) k q none

def ecBase (c : NistCurve) : Option (Nat × Nat) := some (c.gx, c.gy)

/-- ECDSA with nonce k (FIPS 186-5); the digest is used modulo n (R263). -/
def ecdsaSign (c : NistCurve) (d z k : Nat) : Nat × Nat :=
  match ecMul c k (ecBase c) with
  | none => (0, 0)
  | some (x, _) =>
    let r := x % c.n
    (r, invMod k c.n * ((z + r * d) % c.n) % c.n)

def ecdsaVerify (c : NistCurve) (q : Nat × Nat) (z r s : Nat) : Bool :=
  let i := invMod s c.n
  match ecAdd c (ecMul c (z % c.n * i % c.n) (ecBase c)) (ecMul c (r * i % c.n) (some q)) with
  | none => false
  | some (x, _) => decide (x % c.n = r)

-- Curve25519 -----------------------------------------------------------------------------------------------------

def p25519 : Nat := 2 ^ 255 - 19

/-- The clamped scalar of RFC 7748. -/
def clamp25519 (k : Nat) : Nat := 2 ^ 254 + k % 2 ^ 254 / 8 * 8

/-- The Montgomery ladder of RFC 7748. -/
def ladder (p u k : Nat) : Nat → Nat → Nat → Nat → Nat → Nat
  | 0, x2, z2, _, _ => x2 * invMod z2 p % p
  | t + 1, x2, z2, x3, z3 =>
    let sw := k.testBit t
    let a2 := if sw then x3 else x2
    let b2 := if sw then z3 else z2
    let a3 := if sw then x2 else x3
    let b3 := if sw then z2 else z3
    let a := (a2 + b2) % p
    let b := subMod a2 b2 p
    let aa := a * a % p
    let bb := b * b % p
    let e := subMod aa bb p
    let da := subMod a3 b3 p * a % p
    let cb := (a3 + b3) % p * b % p
    let y3 := (da + cb) * (da + cb) % p
    let w := subMod da cb p
    let w3 := u * (w * w % p) % p
    let y2 := aa * bb % p
    let w2 := e * ((aa + 121665 * e) % p) % p
    if sw then ladder p u k t y3 w3 y2 w2 else ladder p u k t y2 w2 y3 w3

/-- X25519; bit 255 of u is ignored. -/
def x25519 (k u : Nat) : Nat :=
  let v := u % 2 ^ 255 % p25519
  ladder p25519 v (clamp25519 k) 255 1 0 v 1

-- Ed25519 --------------------------------------------------------------------------------------------------------

def edOrder : Nat := 2 ^ 252 + 27742317777372353535851937790883648493
def edD : Nat := subMod 0 (121665 * invMod 121666 p25519) p25519

/-- Addition on −x² + y² = 1 + d x² y². -/
def edAdd (a b : Nat × Nat) : Nat × Nat :=
  let p := p25519
  let k := edD * (a.1 * b.1 % p) % p * (a.2 * b.2 % p) % p
  ((a.1 * b.2 + b.1 * a.2) % p * invMod (1 + k) p % p, (a.2 * b.2 + a.1 * b.1) % p * invMod (subMod 1 k p) p % p)

def edMulGo : Nat → Nat → Nat × Nat → Nat × Nat → Nat × Nat
  | 0, _, _, a => a
  | f + 1, k, q, a => edMulGo f (k / 2) (edAdd q q) (if k % 2 = 1 then edAdd a q else a)

def edMul (k : Nat) (q : Nat × Nat) : Nat × Nat := edMulGo (Nat.log2 k + 1) k q (0, 1)

/-- Decode a point (RFC 8032); none where no curve point has the encoding. -/
def edDecode (e : Nat) : Option (Nat × Nat) :=
  let p := p25519
  let y := e % 2 ^ 255
  let sign := e / 2 ^ 255 % 2
  if p ≤ y then none
  else
    let u := subMod (y * y) 1 p
    let v := (edD * (y * y % p) + 1) % p
    let w := u * invMod v p % p
    let r := powMod w ((p + 3) / 8) p
    let x := if r * r % p = w then some r
      else
        let r2 := r * powMod 2 ((p - 1) / 4) p % p
        if r2 * r2 % p = w then some r2 else none
    match x with
    | none => none
    | some x => if x = 0 ∧ sign = 1 then none else some (if x % 2 = sign then x else p - x, y)

def edEncode (q : Nat × Nat) : Nat := q.2 + q.1 % 2 * 2 ^ 255

/-- The base point: y = 4/5, x even. -/
def edBase : Nat × Nat := (edDecode (4 * invMod 5 p25519 % p25519)).getD (0, 1)

/-- Ed25519 signature R ‖ S of a message under a 32-byte private key (RFC 8032). -/
def edSign (key msg : List Byte) : List Byte :=
  let h := sha512 key
  let a := clamp25519 (leNat (h.take 32))
  let pub := leBytes 32 (edEncode (edMul a edBase))
  let r := leNat (sha512 (h.drop 32 ++ msg)) % edOrder
  let rr := leBytes 32 (edEncode (edMul r edBase))
  rr ++ leBytes 32 ((r + leNat (sha512 (rr ++ pub ++ msg)) * a) % edOrder)

/-- Ed25519 verification. -/
def edVerify (pub sig msg : List Byte) : Bool :=
  let s := leNat ((sig.drop 32).take 32)
  match edDecode (leNat (pub.take 32)), edDecode (leNat (sig.take 32)) with
  | some a, some r =>
    decide (s < edOrder) && decide (sig.length = 64)
      && decide (edMul s edBase = edAdd r (edMul (leNat (sha512 (sig.take 32 ++ pub.take 32 ++ msg)) % edOrder) a))
  | _, _ => false

end Sys2Proof.Machine
end

