-- ==== Sys2Proof/Machine/Svc.lean ====
section
/-!
DEFINITION. Machine/Svc.lean: service addresses and the stock tables (R175 to R177, R234), master keys (R194 to R199), the
source-rate sketch's decay (R201) and the aggregation of drops (R205).
-/
namespace Sys2Proof.Machine
open Sys2Proof

/-- Role of the device in a pair (R376): 0 SOLO, 1 LEADER, 2 SECOND, 3 JOINING, 4 PARTED. -/
def pairRole (s : State) : Nat := fget s PAIR_STATUS PAIR_STATUS_ROLE

/-- Is the NTS service fitted (R1, R208)? -/
def ntsFitted (s : State) : Bool := unitBit s.variant 36

/-- Send a journal record (R385, R391). -/
def journal (ty : Nat) (body : List Byte) (s : State) : State :=
  if pairRole s = 1 ∧ linkUp s then
    let n := s.pair.jTx + 1
    belaySend ty (leBytes 8 n ++ body)
      (fset PAIR_JSEQ PAIR_JSEQ_TX (n % 2 ^ 32) (bump (UC_PAIR 2) 1 { s with pair := { s.pair with jTx := n } }))
  else s

-- Stock tables ---------------------------------------------------------------------------------------------------

/-- A stock table: type, key bits, result words, entries or buckets, offset within a generation's area. -/
structure Stock where
  ty : Nat
  keyBits : Nat
  words : Nat
  entries : Nat
  off : Nat
  deriving DecidableEq, Repr

/-- The stock tables of R175 and R234; the offsets are firmware's choice. -/
def stockOf (n : Nat) : Stock :=
  match n with
  | 2 => ⟨2, 35, 1, 128, 0⟩
  | 3 => ⟨2, 128, 2, 128, 0x5000⟩
  | 4 => ⟨1, 1, 1, 1, 0x16000⟩
  | 5 => ⟨1, 2, 2, 4, 0x16040⟩
  | 6 => ⟨1, 3, 1, 8, 0x16080⟩
  | 7 => ⟨2, 35, 1, 128, 0xB000⟩
  | 8 => ⟨2, 128, 2, 128, 0x10000⟩
  | _ => ⟨2, 128, 1, 20480, 0xE0000⟩

/-- Offset of a copy of a stock table; TBL9 has one area, written entry by entry. -/
def stockBase (n g : Nat) : Nat := (stockOf n).off + if n = 9 then 0 else g * 0x20000

/-- Write the descriptor of a copy: BASE, DEFAULT, then CFG (R109, R415). -/
def stockDesc (n g seed : Nat) (s : State) : State :=
  let d := stockOf n
  let s1 := wr (TOPO_TBL_BASE n g) (setF TOPO_TBL_BASE_BASE (stockBase n g) (setF TOPO_TBL_BASE_ENTRIES d.entries 0)) s
  let s2 := wr (TOPO_TBL_DEFAULT n g) 0 s1
  tblCfgWrite n g (setF TOPO_TBL_CFG_TYPE d.ty (setF TOPO_TBL_CFG_KEY_BITS d.keyBits (setF TOPO_TBL_CFG_RESULT_WORDS d.words
    (setF TOPO_TBL_CFG_SEED seed 0)))) s2

/-- Put a list of entries; none where one finds no room. -/
def stockPuts (n g : Nat) : List (Nat × List Nat) → State → Option State
  | [], s => some s
  | (k, ws) :: r, s => match tblPut n g (keyField k) ws s with
    | some s1 => stockPuts n g r s1
    | none => none

/-- Write a copy with its entries; up to 16 new seeds are tried where a bucket overflows (R177). -/
def stockCopy (n g : Nat) (ents : List (Nat × List Nat)) (s : State) : Option State :=
  (List.range 17).findSome? (fun seed =>
    let s1 := stockDesc n g seed s
    stockPuts n g ents (clrRange (tblBase + stockBase n g) (tblBase + stockBase n g + footprint (tblCopy s1 n g)) s1))

/-- Contents of a table as last written. -/
def stockNow (s : State) (n : Nat) : List (Nat × List Nat) := mapGet (fun _ => []) s.svc.stock n

/-- Write the copies that are not live; before S9 generation 0 is written where it stands (R110). -/
def stockWrites : List (Nat × List (Nat × List Nat)) → State → Option (Nat × State)
  | [], s => some (0, s)
  | (n, ents) :: r, s =>
    let live := (rd s TOPO_TBL_GEN).toNat / 2 ^ n % 2
    let g := if rwlLocked s then 1 - live else live
    match stockCopy n g ents s with
    | none => none
    | some s1 =>
      match stockWrites r { s1 with svc := { s1.svc with stock := mapSet (fun _ => []) n ents s1.svc.stock } } with
      | none => none
      | some (m, s2) => some (m ||| 2 ^ n, s2)

/-- Rewrite stock tables whose contents change, or that have no live copy yet, and make them live in one flip (R175); none where one
cannot be built or a flip is under way (R112). -/
def stockCommit (want : List (Nat × List (Nat × List Nat))) (s : State) : Option State :=
  let live := fun (n : Nat) => (rd s TOPO_TBL_GEN).toNat / 2 ^ n % 2
  let diff := want.filter (fun x => x.2 ≠ stockNow s x.1 ∨ fget s (TOPO_TBL_CFG x.1 (live x.1)) TOPO_TBL_CFG_TYPE = 0)
  if diff.isEmpty then some s
  else if rwlLocked s && flipBusy s then none
  else match stockWrites diff s with
    | none => none
    | some (m, s1) => if rwlLocked s then some (tblFlip ((rd s TOPO_TBL_GEN).toNat ^^^ m) s1) else some s1

-- Service addresses ----------------------------------------------------------------------------------------------

/-- Ports of a mask that the variant fits. -/
def maskPorts (s : State) (m : Nat) : List Nat := (List.range 8).filter (fun p => m.testBit p && unitBit s.variant p)

/-- Result word 0 of an NTP address (R176): SMEAR follows the profile. -/
def svcWord (s : State) (a : SvcAddr) : Nat :=
  let w := a.word % 2 ^ 64
  let sm := fbit s (SVC_NTP_PROF (w % 8)) SVC_NTP_PROF_SMEAR
  (w ||| 0x200) ^^^ (if sm then 0 else 0x200)

/-- Instances of PTP that answer at an address on a port (R234). -/
def ptpMask (s : State) (v6 : Bool) (ports : List Nat) : Nat :=
  (List.range 4).foldl (fun m k =>
    let pr := fget s (PTP_DOM k) PTP_DOM_PROFILE
    if [1, 2, 4].contains pr && ports.any (fun p => (fget s (PTP_PORT p) PTP_PORT_DOM_MASK).testBit k
        && fbit s (PTP_PORT p) (if v6 then PTP_PORT_IPV6 else PTP_PORT_IPV4)) then m + 2 ^ k else m) 0

def keyEpoch (s : State) : Nat := (rd s SVC_KEY_EPOCH).toNat

/-- TBL_NTSCTL.KEYS_READY (R198): a CURRENT master key exists, the TSU is set and SEC has reached SVC_KEY_EPOCH. -/
def keysReady (s : State) : Bool :=
  (List.range 64).any (fun n => (keyOfSlot s n).st = 2) && !tsuUnset s && decide (keyEpoch s ≤ nowSec s)

/-- What the service tables should hold (R175, R234). -/
def svcTables (s : State) : List (Nat × List (Nat × List Nat)) :=
  let v4 := fun (ptp : Bool) => (s.svc.addrs.filter (fun a => a.ptp == ptp && !a.v6)).flatMap (fun a =>
    (maskPorts s a.ports).map (fun p => (p * 2 ^ 32 + a.addr % 2 ^ 32, [if ptp then ptpMask s false [p] else svcWord s a])))
  let v6 := fun (ptp : Bool) => (s.svc.addrs.filter (fun a => a.ptp == ptp && a.v6)).map (fun a =>
    (a.addr, [if ptp then ptpMask s true (maskPorts s a.ports) else svcWord s a, a.ports % 256]))
  [(2, v4 false), (3, v6 false), (4, [(0, [if keysReady s then 1 else 0])]), (7, v4 true), (8, v6 true)]

/-- Multicast MAC addresses the PTP service needs on a port (R229, R253). -/
def ptpGroups (s : State) (p : Nat) : List Nat :=
  let role := fget s (PTP_PORT p) PTP_PORT_ROLE
  let one := fun (k : Nat) =>
    let pr := fget s (PTP_DOM k) PTP_DOM_PROFILE
    let l2 := fbit s (PTP_PORT p) PTP_PORT_L2
    let i4 := fbit s (PTP_PORT p) PTP_PORT_IPV4
    let i6 := fbit s (PTP_PORT p) PTP_PORT_IPV6
    if pr = 1 ∨ pr = 2 then
      (if l2 then [0x011B19000000] else []) ++ (if i4 then [0x01005E000181] else []) ++ (if i6 then [0x333300000181] else [])
        ++ (if pr = 2 then (if l2 then [0x0180C200000E] else []) ++ (if i4 then [0x01005E00006B] else [])
          ++ (if i6 then [0x33330000006B] else []) else [])
    else if pr = 3 then (if fbit s (PTP_DOM k) PTP_DOM_L2_FWD then [0x011B19000000] else [0x0180C200000E])
    else []
  (if role = 0 then [] else if role = 4 then
    [0x011B19000000, 0x0180C200000E, 0x01005E000181, 0x01005E00006B, 0x333300000181, 0x33330000006B]
   else ((List.range 4).filter (fun k => (fget s (PTP_PORT p) PTP_PORT_DOM_MASK).testBit k)).flatMap one).eraseDups

/-- Solicited-node groups of a port's IPv6 service addresses (R177). -/
def solicited (s : State) (p : Nat) : List Nat :=
  ((s.svc.addrs.filter (fun a => a.v6 && a.ports.testBit p)).map (fun a => 0x3333FF000000 + a.addr % 2 ^ 24)).eraseDups

/-- Write a port's multicast entries; where they do not fit, PROMISC is set (R177). Entries that firmware never wrote keep
what a PORTS leg or a write put there. -/
def mcastWrite (p : Nat) (s : State) : State :=
  let gs := (ptpGroups s p ++ solicited s p).eraseDups
  let n := min 16 gs.length
  let s1 := forEach (List.range (max n (mapGet (fun _ => 0) s.svc.mcast p))) (fun k a => wr (PORT_MCAST p k) (match gs[k]? with
    | some g => setF PORT_MCAST_ADDR g (setF PORT_MCAST_VALID 1 0)
    | none => 0) a) { s with svc := { s.svc with mcast := mapSet (fun _ => 0) p n s.svc.mcast } }
  if 16 < gs.length ∧ !fbit s (PORT_MAC_CTL p) PORT_MAC_CTL_PROMISC then
    cairnState 0x40 sevNotice p 0 1 0 0 (occur EV_SVC_MCAST_PROMISC (fsetB (PORT_MAC_CTL p) PORT_MAC_CTL_PROMISC true s1))
  else s1

/-- Does some address serve NTS (R207)? -/
def ntsAddr (s : State) : Bool := ntsFitted s && s.svc.addrs.any (fun a => !a.ptp && a.word.testBit 11)

/-- SVC_KEY_MISSING and SVC_UNSYNC (R198, R207). -/
def svcLevels (s : State) : State :=
  setLevel EV_SVC_UNSYNC (ntpUnsync s 0) (setLevel EV_SVC_KEY_MISSING (ntsAddr s && !keysReady s) s)

/-- Firmware brings the service tables up to date (R175, R176, R198); a flip under way delays it. -/
def svcSync (s : State) : State := svcLevels ((stockCommit (svcTables s) s).getD s)

-- Announcements -------------------------------------------------------------------------------------------------

/-- An IPv4 gratuitous ARP request for a service address (R202, R255, RFC 826). -/
def gratArp (s : State) (p a : Nat) : List Byte :=
  let m := beBytes 6 (fget s (PORT_MAC_ADDR p) PORT_MAC_ADDR_ADDR)
  List.replicate 6 0xFF ++ m ++ [0x08, 0x06, 0, 1, 8, 0, 6, 4, 0, 1] ++ m ++ beBytes 4 a ++ zeros 6 ++ beBytes 4 a

/-- A frame that leaves port `p` with an IP packet: `eth` is the peer's MAC address and the VLAN tags (R181). -/
def ipFrame (s : State) (p : Nat) (eth : List Byte) (v4 : Bool) (src dst proto hop : Nat) (pay : List Byte) : List Byte :=
  let mac := eth.take 6 ++ beBytes 6 (fget s (PORT_MAC_ADDR p) PORT_MAC_ADDR_ADDR) ++ eth.drop 6
  if v4 then
    let h := [0x45, 0] ++ beBytes 2 (20 + pay.length) ++ [0, 0, 0x40, 0, BitVec.ofNat 8 hop, BitVec.ofNat 8 proto]
    let a := beBytes 4 src ++ beBytes 4 dst
    mac ++ [0x08, 0] ++ h ++ beBytes 2 (65535 - onesSum (h ++ [0, 0] ++ a) 0) ++ a ++ pay
  else mac ++ [0x86, 0xDD, 0x60, 0, 0, 0] ++ beBytes 2 pay.length ++ [BitVec.ofNat 8 proto, BitVec.ofNat 8 hop] ++ beBytes 16 src
    ++ beBytes 16 dst ++ pay

/-- Pseudo-header of a transport checksum (RFC 768, RFC 8200). -/
def pseudoHead (v4 : Bool) (src dst n proto : Nat) : List Byte :=
  let w := if v4 then 4 else 16
  beBytes w src ++ beBytes w dst ++ beBytes 4 n ++ [0, 0, 0, BitVec.ofNat 8 proto]

/-- An ICMPv6 message with its checksum (RFC 4443). -/
def icmp6 (src dst ty : Nat) (body : List Byte) : List Byte :=
  let h := [BitVec.ofNat 8 ty, 0]
  h ++ beBytes 2 (65535 - onesSum (pseudoHead false src dst (4 + body.length) 58 ++ h ++ [0, 0] ++ body) 0) ++ body

/-- The all-nodes address of IPv6. -/
def allNodes : Nat := 0xFF02 * 2 ^ 112 + 1

/-- A neighbour advertisement for address `a` with its flags and a target link-layer address option (R203, RFC 4861). -/
def naFrame (s : State) (p a : Nat) (eth : List Byte) (dst flags : Nat) : List Byte :=
  ipFrame s p eth false a dst 58 255 (icmp6 a dst 136
    ([BitVec.ofNat 8 flags, 0, 0, 0] ++ beBytes 16 a ++ [2, 1] ++ beBytes 6 (fget s (PORT_MAC_ADDR p) PORT_MAC_ADDR_ADDR)))

/-- An unsolicited neighbour advertisement with the override flag (R203, R255). -/
def unsolNa (s : State) (p a : Nat) : List Byte := naFrame s p a [0x33, 0x33, 0, 0, 0, 1] allNodes 0x20

/-- Announce one service address on a port, through Trailhead 8. -/
def announceAddr (p : Nat) (s : State) (x : SvcAddr) : State :=
  fwInject 8 p 0 (if x.v6 then unsolNa s p x.addr else gratArp s p x.addr) s

/-- The addresses a port announces when its IN_SERVICE rises (R202, R203). A twin that does not serve PTP leaves the PTP service addresses to
the one that does (R254; DEDUCED, log entry 128). -/
def announced (s : State) (p : Nat) : List SvcAddr :=
  s.svc.addrs.filter (fun x => x.ports.testBit p && (!x.ptp || [0, 1, 4].contains (pairRole s)))

/-- The ports whose IN_SERVICE has risen since `old` announce their addresses (R202, R203). -/
def announceRisen (old s : State) : State :=
  let up := fun (a : State) (p : Nat) => fbit a (PORT_STATUS p) PORT_STATUS_IN_SERVICE
  forEach ((List.range 8).filter (fun p => up s p && !up old p)) (fun p a => (announced a p).foldl (announceAddr p) a) s

/-- A change after which ports may have come into service. -/
def withAnnounce (f : State → State) (s : State) : State := announceRisen s (f s)

/-- Addresses one port serves (R177). -/
def portAddrs (as : List SvcAddr) (p : Nat) : Nat := as.countP (fun a => a.ports.testBit p)

/-- New service addresses (R175 to R177); none where a port would serve more than 64 or a table cannot be built. -/
def svcSetAddrs (as : List SvcAddr) (s : State) : Option State :=
  if (List.range 8).any (fun p => 64 < portAddrs as p) then none
  else
    let s1 : State := { s with svc := { s.svc with addrs := as } }
    match stockCommit (svcTables s1) s1 with
    | none => none
    | some s2 => some (svcLevels (forEach ((List.range 8).filter (fun p => unitBit s.variant p)) mcastWrite s2))

/-- Is it an entry of the same address? -/
def svcSame (x a : SvcAddr) : Bool := a.ptp == x.ptp && a.v6 == x.v6 && a.addr == x.addr

/-- The list without an address on the ports of an entry. -/
def svcDel (x : SvcAddr) (l : List SvcAddr) : List SvcAddr :=
  (l.map (fun a => if svcSame x a then { a with ports := a.ports - (a.ports &&& x.ports) } else a)).filter (fun a => a.ports != 0)

/-- Add an address on its ports. An IPv6 address has one entry for all its ports (R177); the entry added last gives its word. -/
def svcAdd (x : SvcAddr) (l : List SvcAddr) : List SvcAddr :=
  if x.v6 then l.filter (fun a => !svcSame x a) ++
    [{ x with ports := (l.filter (svcSame x)).foldl (fun m a => m ||| a.ports) x.ports }]
  else svcDel x l ++ [x]

-- Master keys ----------------------------------------------------------------------------------------------------

def keyRandom (s : State) : Bool := fbit s SVC_CTL SVC_CTL_KEY_SOURCE
def keyPeriod (s : State) : Nat := max 1 (fget s SVC_KEY_PERIOD SVC_KEY_PERIOD_PERIOD)
def keyKeep (s : State) : Nat := fget s SVC_KEY_KEEP SVC_KEY_KEEP_KEEP
/-- A derived master key (R195). -/
def deriveKey (root : List Byte) (k : Nat) : List Byte := hkdf [] root (ascii "GT98 NTS cookie" ++ beBytes 4 k) 64

/-- Period index now (R195). -/
def keyIndex (s : State) : Nat := (nowSec s - keyEpoch s) / keyPeriod s

/-- `n` bytes from the DRBG. -/
def drawBytes (n : Nat) (s : State) : List Byte × State :=
  let x := (List.range ((n + 31) / 32)).foldl (fun (a : List Byte × State) _ => let d := draw 256 a.2; (a.1 ++ leBytes 32 d.1, d.2)) ([], s)
  (x.1.take n, x.2)

/-- Slot of a key in a state. -/
def keyIn (s : State) (st : Nat) : Option Nat := (List.range 64).find? (fun n => (keyOfSlot s n).st = st)

/-- May this device generate RANDOM keys: the Leader, a SOLO or PARTED device, or a twin whose link is down (R195, R199)? -/
def keyMaker (s : State) : Bool := pairRole s = 0 || pairRole s = 1 || pairRole s = 4 || !linkUp s

/-- Make the key with KEY_ID `kid` NEXT (R195, R196): its period starts at SEC `start`. -/
def keyMakeNext (kid start : Nat) (s : State) : State :=
  if keyRandom s then
    let d := drawBytes 64 s
    let s1 := keySet (kid % 64) { key := d.1, kid := kid % 2 ^ 32, st := 1, random := true, ends := start + keyKeep s * keyPeriod s }
      { d.2 with svc := { d.2.svc with nextId := (kid + 1) % 2 ^ 32 } }
    journal 0x11 ([1] ++ leBytes 4 kid ++ leBytes 8 (start + keyKeep s * keyPeriod s) ++ d.1) s1
  else keySet (kid % 64) { key := deriveKey s.svc.root kid, kid := kid % 2 ^ 32, st := 1, random := false,
                           ends := keyEpoch s + (kid + keyKeep s) * keyPeriod s } s

/-- NEXT becomes CURRENT, CURRENT becomes LIVE (R196). -/
def keyTurn (s : State) : State :=
  match keyIn s 1 with
  | none => s
  | some n =>
    let s1 := match keyIn s 2 with
      | some c => keySet c { keyOfSlot s c with st := 3 } s
      | none => s
    let s2 := keySet n { keyOfSlot s1 n with st := 2 } s1
    let s3 := journal 0x11 ([if keyRandom s then 2 else 0] ++ leBytes 4 (keyOfSlot s n).kid ++ leBytes 8 (keyOfSlot s n).ends) s2
    svcSync (occur EV_SVC_KEY_ROTATED s3)

/-- Half a period before its start the next key is made (R196). -/
def keyNext (s : State) : State :=
  if tsuUnset s || (keyIn s 1).isSome || (keyIn s 2).isNone || !ntsFitted s then s
  else if keyRandom s then
    (if keyMaker s then keyMakeNext s.svc.nextId (keyEpoch s + (keyIndex s + 1) * keyPeriod s) s else s)
  else keyMakeNext (keyIndex s + 1) 0 s

/-- A period boundary (R196). -/
def keyRotation (s : State) : State :=
  if tsuUnset s || !ntsFitted s || (keyRandom s && !keyMaker s) then s else keyTurn s

/-- A LIVE key's lifetime ends (R196). -/
def keyExpiry (n : Nat) (s : State) : State :=
  if (keyOfSlot s n).st = 3 then keySet n (keyReset n) s else s

/-- The keys are first installed (R196, R198). -/
def keysInstall (s : State) : State :=
  if tsuUnset s || decide (nowSec s < keyEpoch s) || (keyIn s 2).isSome || !ntsFitted s then s
  else
    let k := keyIndex s
    let p := keyPeriod s
    let half := decide (p ≤ 2 * (nowSec s - keyEpoch s - k * p))
    if keyRandom s then
      if !keyMaker s then s
      else
        let s1 := if (keyIn s 1).isSome then s else keyMakeNext s.svc.nextId (keyEpoch s + k * p) s
        let s2 := keyTurn s1
        if half then keyMakeNext s2.svc.nextId (keyEpoch s + (k + 1) * p) s2 else s2
    else
      let s1 := forEach ((List.range (keyKeep s)).filter (fun i => 0 < i ∧ i ≤ k)) (fun i a =>
        let j := k - i
        keySet (j % 64) { key := deriveKey a.svc.root j, kid := j % 2 ^ 32, st := 3, random := false,
                          ends := keyEpoch a + (j + keyKeep a) * p } a) s
      let s2 := keyTurn (keyMakeNext k 0 s1)
      if half then keyMakeNext (k + 1) 0 s2 else s2

/-- The next RANDOM key where none is waiting. -/
def keyEnsureNext (s : State) : State :=
  if (keyIn s 1).isSome then s else keyMakeNext s.svc.nextId (keyEpoch s + (keyIndex s + 1) * keyPeriod s) s

/-- ROTATE (R197). -/
def keyRotate (s : State) : State :=
  keyEnsureNext (keyTurn (keyEnsureNext s))

/-- Slot that holds a KEY_ID. -/
def keyHolder (s : State) (kid : Nat) : Option Nat :=
  (List.range 64).find? (fun n => (keyOfSlot s n).st ≠ 0 ∧ (keyOfSlot s n).kid = kid)

/-- REVOKE (R197). -/
def keyRevoke (kid : Nat) (s : State) : State :=
  match keyHolder s kid with
  | none => s
  | some n =>
    let s1 := if (keyOfSlot s n).st = 2 then keyRotate s else s
    let s2 := keySet n (keyReset n) s1
    svcSync (occur EV_SVC_KEY_REVOKED (journal 0x11 ([3] ++ leBytes 4 kid ++ zeros 8) s2))

/-- A key record of the Leader's journal (R199, R391): 0 derived index, 1 new key, 2 turn, 3 revoke; 4 a slot of a snapshot. -/
def keyApply (body : List Byte) (s : State) : State :=
  let kid := leAt body 1 4
  match leAt body 0 1 with
  | 1 => keySet (kid % 64) { key := slice body 13 64, kid := kid, st := 1, random := true, ends := leAt body 5 8 }
      { s with svc := { s.svc with nextId := (kid + 1) % 2 ^ 32 } }
  | 2 => if (keyHolder s kid).isSome then keyTurn s else s
  | 3 => match keyHolder s kid with
    | some n => svcSync (occur EV_SVC_KEY_REVOKED (keySet n (keyReset n) s))
    | none => s
  | 4 => keySet (kid % 64) { key := slice body 13 64, kid := kid, st := leAt body 77 1, random := true, ends := leAt body 5 8 }
      { s with svc := { s.svc with nextId := max s.svc.nextId ((kid + 1) % 2 ^ 32) } }
  | _ => s

/-- Checks of SVC_KEY_CTL (R197): state refused, or a KEY_ID no slot holds. -/
def keyCtlCheck (v : Word) (s : State) : Verdict :=
  let rot := getF SVC_KEY_CTL_ROTATE v ≠ 0
  let rev := getF SVC_KEY_CTL_REVOKE v ≠ 0
  let kid := getF SVC_KEY_CTL_KEY_ID v
  if !rot ∧ !rev then .ok
  else if pairRole s = 2 then vState 0xA
  else if rot ∧ !keyRandom s then vState 0xB
  else if rev then
    match keyHolder s kid with
    | none => .refuse 1 10 0
    | some n => if (keyOfSlot s n).st = 2 ∧ !keyRandom s then vState 0xB else .ok
  else .ok

/-- An accepted write of SVC_KEY_CTL (R197). -/
def keyCtl (v : Word) (s : State) : State :=
  let s1 := if getF SVC_KEY_CTL_ROTATE v ≠ 0 then keyRotate s else s
  if getF SVC_KEY_CTL_REVOKE v ≠ 0 then keyRevoke (getF SVC_KEY_CTL_KEY_ID v) s1 else s1

-- Sketch and drops -----------------------------------------------------------------------------------------------

/-- A halving pass (R201). -/
def halvingPass (s : State) : State :=
  { s with svc := { s.svc with sketch := mapEach (fun _ => 0) (fun x => x / 2) s.svc.sketch } }

/-- Stock drop reasons that have grown since the last read (R205). -/
def dropAggregate (s : State) : State :=
  forEach ((List.range 112).map (· + 0x10)) (fun r a =>
    let now := mapGet (fun _ => 0) a.cnt.live (EC_DROP_RSN r)
    let old := mapGet (fun _ => 0) a.svc.dropPrev r
    if now = old then a
    else cairnForce 0x20 sevNotice 0x03 r (leBytes 4 r ++ leBytes 4 (min ((now + 2 ^ 48 - old) % 2 ^ 48) 0xFFFFFFFF)
        ++ leBytes 4 0xFFFFFFFF ++ leBytes 4 (nowSec32 a))
      { a with svc := { a.svc with dropPrev := mapSet (fun _ => 0) r now a.svc.dropPrev } }) s

/-- Checks of a write to a service register (R197, the field ranges apart). -/
def svcCheck (a : Nat) (v : Word) (s : State) : Verdict := if a = SVC_KEY_CTL then keyCtlCheck v s else .ok

/-- The effect of an accepted write to a service register; `stored` has the plain fields stored. -/
def svcApply (a : Nat) (v : Word) (stored : State) : Option State :=
  if a = SVC_KEY_CTL then some (keyCtl v stored)
  else if SVC_NTP_PROF 0 ≤ a ∧ a ≤ SVC_NTP_PROF 7 then some (svcSync stored)
  else none

/-- KEY_NEXT (R196). -/
def execKeyNext (s : State) : Res := run keyNext s

/-- KEY_ROTATION (R196). -/
def execKeyRotation (s : State) : Res := run keyRotation s

/-- KEY_EXPIRY (R196). -/
def execKeyExpiry (slot : Nat) (s : State) : Res := runIf (slot < 64) (keyExpiry slot) s

/-- KEYS_INSTALL (R198). -/
def execKeysInstall (s : State) : Res := run (fun a => svcSync (keysInstall a)) s

/-- SKETCH_HALVING_PASS (R201). -/
def execSketchHalvingPass (s : State) : Res := run halvingPass s

/-- DROP_AGGREGATION (R205). -/
def execDropAggregation (s : State) : Res := run dropAggregate s

end Sys2Proof.Machine
end

