-- ==== Sys2Proof/Machine/Bnu.lean ====
section
/-!
DEFINITION. Machine/Bnu.lean: the big-number units (R258 to R278): slots, descriptors, acceptance, validation, classes, results;
the entropy source and the DRBG instances (R279 to R282).
-/
namespace Sys2Proof.Machine
open Sys2Proof

def bnuFitted (s : State) (n : Nat) : Bool := decide (n < 8) && unitBit s.variant (16 + n)
def bnuReset (_ : Nat) : BnuUnit :=
  { slots := [], shortQ := [], longQ := [], run := none, saved := none, since := 0, cpl := [], test := false, begun := 0 }
def bnuOf (s : State) (n : Nat) : BnuUnit := mapGet bnuReset s.bnu.units n
def bnuOnline (s : State) (n : Nat) : Bool := fbit s (BNU_STATUS n) BNU_STATUS_ONLINE
def bnuHost (s : State) (n : Nat) : Bool := fbit s (BNU_CTL n) BNU_CTL_OWNER

/-- Jobs accepted and not yet completed. -/
def bnuJobs (u : BnuUnit) : List BnuJob := u.run.toList ++ u.saved.toList ++ u.shortQ ++ u.longQ

/-- BNU cycles since the running job started or resumed, at 1.6 GHz. -/
def bnuRan (s : State) (u : BnuUnit) : Nat := (s.tsu.xo - u.begun) * 16 / (10 * 2 ^ 48)

/-- Work of a unit as BNU_LOAD shows it (R276): the cost of the jobs not yet completed; of the job that runs, the cycles that remain. -/
def bnuWork (s : State) (u : BnuUnit) : Nat :=
  min (((bnuJobs u).map (·.left)).sum - (match u.run with | some j => min j.left (bnuRan s u) | none => 0)) 0xFFFFFFFF

/-- The backlog estimate in µs (R225). -/
def backlogUs (s : State) : Nat :=
  let on := (List.range 8).filter (fun n => bnuFitted s n && bnuOnline s n && !bnuHost s n)
  let w := (on.map (fun n => bnuWork s (bnuOf s n))).sum
  min (if on.isEmpty then (if w = 0 then 0 else 0xFFFFFFFF) else w / (1600 * on.length)) 0xFFFFFFFF

/-- SVC_KE_BACKLOG.NOW_US (R225). -/
def backlogShow (s : State) : State := fset SVC_KE_BACKLOG SVC_KE_BACKLOG_NOW_US (backlogUs s) s

/-- Store a unit with what its registers show (R274). The FIFO holds 64 completion words; words beyond them wait until one is read
(DESIGN CHOICE, log entry 130). -/
def bnuSet (n : Nat) (u : BnuUnit) (s : State) : State :=
  let s1 : State := { s with bnu := { s.bnu with units := mapSet bnuReset n u s.bnu.units } }
  let st := BNU_STATUS n
  let s2 := fset st BNU_STATUS_SHORT_Q u.shortQ.length (fset st BNU_STATUS_LONG_Q u.longQ.length
    (fset st BNU_STATUS_CPL_Q (min 64 u.cpl.length) (fsetB st BNU_STATUS_RUNNING u.run.isSome (fsetB st BNU_STATUS_YIELDED u.saved.isSome s1))))
  setLevel (EV_BNU_DONE n) (!u.cpl.isEmpty) (backlogShow (wr (BNU_LOAD n) (BitVec.ofNat 64 (bnuWork s2 u)) s2))

-- Slots ----------------------------------------------------------------------------------------------------------

def slotReset (_ : Nat) : BnuSlot := { st := 0, read := 0, owner := 0 }
def slotWords (s : State) (n : Nat) : Nat := max 4 (fget s (BNU_SLOT_WORDS n) BNU_SLOT_WORDS_WORDS)
def slotCount (s : State) (n : Nat) : Nat := 8192 / slotWords s n
def slotOf (s : State) (n k : Nat) : BnuSlot := if k < slotCount s n then mapGet slotReset (bnuOf s n).slots k else slotReset k
def slotSet (n k : Nat) (x : BnuSlot) (s : State) : State :=
  let u := bnuOf s n
  if k < slotCount s n then bnuSet n { u with slots := mapSet slotReset k x u.slots } s else s

/-- Window address of a slot (R258). -/
def slotAddr (s : State) (n k : Nat) : Nat := 0x40000000 + n * 0x10000 + k * slotWords s n * 8

/-- Words of an operand memory are written with zeros: an error in one of them is gone (R458). -/
def wordsZero (lo hi : Nat) (s : State) : State :=
  let k := fun (a : Nat) => 6 * 2 ^ 32 + (a - 0x40000000) / 8
  clrRange lo hi { s with ecc := { s.ecc with bad := s.ecc.bad.filter (fun c => c.1 < k lo || k hi ≤ c.1) } }

/-- The slot clear (R266): all words of a slot become zero. -/
def slotZero (n k : Nat) (s : State) : State :=
  if k < slotCount s n then wordsZero (slotAddr s n k) (slotAddr s n k + 8 * slotWords s n) s else s

/-- A slot becomes EMPTY: all words zero (R260). -/
def slotClear (n k : Nat) (s : State) : State := slotSet n k (slotReset k) (slotZero n k s)

/-- Every slot becomes EMPTY (R260, R261). -/
def slotsClear (n : Nat) (s : State) : State :=
  bnuSet n { bnuOf s n with slots := [] } (wordsZero (0x40000000 + n * 0x10000) (0x40010000 + n * 0x10000) s)

/-- The number in `w` words of a slot from word `o` (R259). -/
def slotNum (s : State) (n k o w : Nat) : Nat := leNat (ldBytes s (slotAddr s n k + 8 * o) (8 * w))

/-- Write a result into a slot. -/
def slotPut (n k read side : Nat) (bs : List Byte) (s : State) : State :=
  if k < slotCount s n then
    let s1 := clrRange (slotAddr s n k) (slotAddr s n k + 8 * slotWords s n) s
    slotSet n k { st := 1, read := read, owner := side } (putMem (slotAddr s n k) (bs.take (8 * slotWords s n)) s1)
  else s

/-- Side of an initiator: 0 to 2 its cluster, 3 the host. -/
def bnuSide : Initiator → Nat
  | .core n => n.val / 8
  | _ => 3

/-- May an initiator submit jobs to a unit (R265, R278)? A host-owned unit takes them from the PCIe, HSPI and Harness paths only. -/
def bnuMay (i : Initiator) (n : Nat) (s : State) : Bool :=
  match i with
  | .core _ => !bnuHost s n
  | .jtag => false
  | _ => bnuHost s n

/-- A window write (R260). -/
def bnuWinWrite (i : Initiator) (a : Nat) (v : Word) (s : State) : State :=
  let n := (a - 0x40000000) / 0x10000
  let k := a % 0x10000 / 8 / slotWords s n
  if slotCount s n ≤ k then s
  else if (slotOf s n k).st = 2 then writeIgnored a v 1 (fsetB (BNU_STATUS n) BNU_STATUS_WR_BUSY true s)
  else slotSet n k { st := 1, read := 0, owner := bnuSide i } (putMem a (leBytes 8 v.toNat) s)

/-- A window read (R260). -/
def bnuWinRead (i : Initiator) (a : Nat) (s : State) : Word :=
  let n := (a - 0x40000000) / 0x10000
  let k := a % 0x10000 / 8 / slotWords s n
  let x := slotOf s n k
  if slotCount s n ≤ k ∨ x.read = 2 ∨ (x.read = 1 ∧ x.owner ≠ bnuSide i) then 0 else ldW s a

-- Descriptors ----------------------------------------------------------------------------------------------------

def jOp (j : BnuJob) : Nat := j.w0 % 256
def jCurve (j : BnuJob) : Nat := j.w0 / 2 ^ 32 % 16
def jWords (j : BnuJob) : Nat := j.w0 / 2 ^ 40 % 256
def jMsg (j : BnuJob) : Nat := j.w0 / 2 ^ 48
def jTag (j : BnuJob) : Nat := j.w0 / 2 ^ 16 % 65536
def jRead (j : BnuJob) : Nat := j.w0 / 2 ^ 10 % 2
def jSrc (j : BnuJob) (i : Nat) : Nat := j.w1 / 2 ^ (16 * i) % 4096
def jDst (j : BnuJob) (i : Nat) : Nat := j.w2 / 2 ^ (16 * i) % 4096
def jKey (j : BnuJob) : Nat := j.w3 % 64
def jKeyOk (j : BnuJob) : Bool := j.w3.testBit 8

/-- Scratch slots. -/
def jScr (j : BnuJob) : List Nat := (List.range (j.w2 / 2 ^ 48 % 16)).map (fun i => j.w2 / 2 ^ 32 % 4096 + i)

/-- Kind of a source operand. -/
inductive BnuArg where
  | int
  | pair
  | point
  | sig
  | pub
  | msg
  deriving DecidableEq, Repr

/-- The source operands of an operation (R263). -/
def opArgs (j : BnuJob) : List BnuArg :=
  match jOp j with
  | 0x02 => if jSrc j 0 = 0xFFF then [] else [.int]
  | 0x11 => [.int, .int]
  | 0x19 => [.int, .point]
  | 0x1A => [.int]
  | 0x1B => [.int, .pair, .point]
  | 0x20 => [.msg]
  | 0x21 => [.msg, .sig, .pub]
  | 0x28 => [.int]
  | 0x30 => if jCurve j = 0 then [.int, .int, .int] else [.int]
  | _ => []

def bnuOpKnown (op : Nat) : Bool := [0x01, 0x02, 0x10, 0x11, 0x18, 0x19, 0x1A, 0x1B, 0x20, 0x21, 0x28, 0x30].contains op
def opCurve (op : Nat) : Bool := [0x10, 0x11, 0x18, 0x19, 0x1A, 0x1B, 0x20, 0x21].contains op
def opKey (op : Nat) : Bool := [0x1A, 0x20, 0x28].contains op
def opSign (op : Nat) : Bool := opKey op
def opRandom (op : Nat) : Bool := [0x02, 0x10, 0x18, 0x1A].contains op

/-- Is CURVE valid for OP (R262, R265)? -/
def curveOk (j : BnuJob) : Bool :=
  let c := jCurve j
  match jOp j with
  | 0x10 => decide (c = 0 ∨ c = 3)
  | 0x11 => decide (c = 0 ∨ c = 3)
  | 0x18 => decide (c = 1 ∨ c = 2)
  | 0x19 => decide (c = 1 ∨ c = 2)
  | 0x1A => decide (c = 1 ∨ c = 2)
  | 0x1B => decide (c = 1 ∨ c = 2)
  | 0x20 => decide (c = 0 ∨ c = 3)
  | 0x21 => decide (c = 0 ∨ c = 3)
  | _ => decide (c ≤ 3)

/-- Bits R262 does not list. -/
def descReserved (j : BnuJob) : Bool :=
  decide (j.w0 / 2 ^ 11 % 32 ≠ 0) || decide (j.w0 / 2 ^ 36 % 16 ≠ 0)
    || (List.range 4).any (fun i => decide (j.w1 / 2 ^ (16 * i + 12) % 16 ≠ 0))
    || decide (j.w2 / 2 ^ 12 % 16 ≠ 0) || decide (j.w2 / 2 ^ 28 % 16 ≠ 0) || decide (j.w2 / 2 ^ 44 % 16 ≠ 0)
    || decide (j.w2 / 2 ^ 52 ≠ 0) || decide (j.w3 / 2 ^ 6 % 4 ≠ 0) || decide (j.w3 / 2 ^ 9 ≠ 0)

/-- Cost of RSA_SIGN by modulus words (R276). -/
def rsaCost (w : Nat) : Nat := if w ≤ 32 then 427000 else if w ≤ 48 then 1325000 else 3564000

def bnuKeyOf (s : State) (k : Nat) : Option BnuKey := mapGet (fun _ => none) s.bnu.keys k

/-- Cost of a job in BNU cycles (R276). -/
def jobCost (s : State) (j : BnuJob) : Nat :=
  let big := decide (jCurve j = 2)
  match jOp j with
  | 0x01 => 8
  | 0x02 => 16 + 2 * jWords j
  | 0x10 => 35000
  | 0x11 => 35000
  | 0x18 => if big then 118000 else 35000
  | 0x19 => if big then 118000 else 35000
  | 0x1A => if big then 354000 else 105000
  | 0x1B => if big then 236000 else 70000
  | 0x20 => 105000
  | 0x21 => 70000
  | 0x28 => rsaCost (match bnuKeyOf s (jKey j) with | some k => k.words | none => jWords j)
  | 0x30 => if jCurve j = 0 then rsaCost (2 * jWords j) else 40000
  | _ => 0

/-- Does the SHORT class apply (R268)? -/
def jobShort (s : State) (j : BnuJob) : Bool :=
  let c := j.w0 / 2 ^ 8 % 4
  if c = 1 then true else if c = 2 then false else decide (jobCost s j < 50000)

/-- Check 3 of R265: the lengths of R264. -/
def lenOk (s : State) (n : Nat) (j : BnuJob) : Bool :=
  let w := jWords j
  let l := slotWords s n
  let op := jOp j
  let curve := opCurve op || (op == 0x30 && jCurve j != 0)
  let big := decide (jCurve j = 2)
  let scr := (jScr j).length * l
  (if curve then decide (w = if big then 6 else 4)
   else if op = 0x28 then decide (32 ≤ w ∧ w ≤ 64)
      && (match bnuKeyOf s (jKey j) with | some k => decide (k.ty ≠ 4 ∨ k.words = w) | none => true)
   else if op = 0x30 then decide (16 ≤ w ∧ w ≤ 32)
   else if op = 0x02 then decide (1 ≤ w ∧ w ≤ 128) else true)
  && decide (jMsg j ≤ 8 * l)
  && (op == 0x01 || decide (w ≤ l))
  && ((opArgs j).all (fun a => match a with | .int => true | .msg => true | .pub => true | _ => decide (2 * w ≤ l)))
  && (if op = 0x18 ∨ op = 0x1A ∨ op = 0x20 then decide (2 * w ≤ l) else true)
  && (if opCurve op then decide ((if big then 48 else 32) ≤ scr) else if op = 0x28 then decide (6 * w ≤ scr) else true)

/-- Key type an operation needs. -/
def keyFits (j : BnuJob) (k : BnuKey) : Bool :=
  match jOp j with
  | 0x1A => decide (k.ty = jCurve j)
  | 0x20 => decide (k.ty = 3)
  | 0x28 => decide (k.ty = 4)
  | _ => true

/-- Source slots of a job. -/
def jSrcs (j : BnuJob) : List Nat := if j.ke.isSome then [] else (List.range (opArgs j).length).map (jSrc j)

/-- Destination slots of a job. -/
def jDsts (j : BnuJob) : List Nat :=
  if j.ke.isSome then [] else
    let d := match jOp j with
      | 0x01 => [jDst j 0, jDst j 1]
      | 0x10 => [jDst j 0, jDst j 1]
      | 0x18 => [jDst j 0, jDst j 1]
      | 0x1B => []
      | 0x21 => []
      | 0x30 => []
      | _ => [jDst j 0]
    d.filter (fun k => k ≠ 0xFFF)

/-- Destinations and scratch. -/
def jOuts (j : BnuJob) : List Nat := jDsts j ++ (if j.ke.isSome then [] else jScr j)

/-- Check 4 of R265. -/
def sourcesOk (s : State) (n : Nat) (j : BnuJob) : Bool :=
  (jSrcs j).all (fun k => decide ((slotOf s n k).st ≠ 0))
    && (if opKey (jOp j) then jKeyOk j && (match bnuKeyOf s (jKey j) with | some k => keyFits j k | none => false)
        else if jOp j = 0x30 then jKeyOk j else true)

/-- Check 5 of R265. -/
def slotsFree (s : State) (n : Nat) (j : BnuJob) : Bool :=
  let u := bnuOf s n
  (jOuts j).all (fun k => decide ((slotOf s n k).st ≠ 2) && !(jSrcs j).contains k)
    && (jSrcs j).all (fun k => !(bnuJobs u).any (fun o => (jOuts o).contains k))

-- Completion -----------------------------------------------------------------------------------------------------

/-- Flags of a completion word (R275). -/
def cplWord (status tag cycles flags : Nat) : Nat := status + flags + tag * 2 ^ 16 + min cycles (2 ^ 31 - 1) * 2 ^ 32 + 2 ^ 63

def fRESULT : Nat := 2 ^ 8
def fQFULL : Nat := 2 ^ 9
def fBADDESC : Nat := 2 ^ 10
def fNOENTROPY : Nat := 2 ^ 11
def fYIELDED : Nat := 2 ^ 12
def fRETRIED : Nat := 2 ^ 13
def fOFFLINE : Nat := 2 ^ 14

/-- What the counters and events note of a completion (R283, R284). -/
def cplCount (n status : Nat) (short : Bool) (s : State) : State :=
  if status = 0 then bump (UC_BNU n (if short then 0 else 1)) 1 s
  else if status ≤ 7 then raiseOnce EV_BNU_REFUSED (bump (UC_BNU n (1 + status)) 1 s)
  else if status = 8 then bump (UC_BNU n 10) 1 s
  else if status = 9 then bump (UC_BNU n 13) 1 s
  else if status = 0xC then raiseOnce EV_BNU_MEM_UE (bump (UC_BNU n 14) 1 s)
  else bump (UC_BNU n 9) 1 s

/-- Post a completion word; that of a handshake's job is collected at once by firmware (R274). -/
def cplPost (n : Nat) (j : BnuJob) (status cycles flags : Nat) (s : State) : State :=
  let s1 := cplCount n status j.short s
  let u := bnuOf s1 n
  let s2 := bnuSet n { u with cpl := u.cpl ++ [cplWord status (jTag j) cycles flags] } s1
  if j.ke.isSome then bnuSet n { bnuOf s2 n with cpl := u.cpl } s2 else s2

/-- Slots a job named, once it is gone: sources are FULL again unless another job names them, the rest as `done` left them. -/
def slotsRelease (n : Nat) (j : BnuJob) (s : State) : State :=
  forEach (jSrcs j) (fun k a =>
    let x := slotOf a n k
    if x.st = 2 ∧ !(bnuJobs (bnuOf a n)).any (fun o => (jSrcs o ++ jOuts o).contains k) then slotSet n k { x with st := 1 } a else a) s

/-- Destinations and scratch are zeroed (R266, R273). -/
def outsClear (n : Nat) (j : BnuJob) (s : State) : State := forEach (jOuts j) (fun k a => slotClear n k a) s

/-- A job ends other than DONE (R273); it is no longer held by the unit. -/
def jobFail (n : Nat) (j : BnuJob) (status cycles flags : Nat) (s : State) : State :=
  cplPost n j status cycles (flags + if j.yielded then fYIELDED else 0) (slotsRelease n j (outsClear n j s))

-- Submission -----------------------------------------------------------------------------------------------------

/-- The descriptor an initiator has staged (R262). -/
def staged (i : Initiator) (n : Nat) (s : State) : BnuJob :=
  let w := fun (k : Nat) => (rdI s i (BNU_JOB n k)).toNat
  { w0 := w 0, w1 := w 1, w2 := w 2, w3 := w 3, side := bnuSide i, cost := 0, left := 0, short := true, yielded := false, bad := 0,
    ke := none }

/-- Room in the queue of a class (R268). -/
def queueRoom (u : BnuUnit) (short : Bool) : Bool := if short then decide (u.shortQ.length < 32) else decide (u.longQ.length < 8)

/-- Queue an accepted job; its slots are BUSY (R265). -/
def jobAccept (n : Nat) (j : BnuJob) (s : State) : State :=
  let s1 := forEach (jSrcs j ++ jOuts j) (fun k a => slotSet n k { slotOf a n k with st := 2 } a) s
  let u := bnuOf s1 n
  bnuSet n (if j.short then { u with shortQ := u.shortQ ++ [j] } else { u with longQ := u.longQ ++ [j] }) s1

/-- GO: the checks of R265 in their order. The owner has been checked by the register's rule. -/
def bnuSubmit (i : Initiator) (n : Nat) (s : State) : State :=
  let j0 := staged i n s
  let j : BnuJob := { j0 with short := jobShort s j0, cost := jobCost s j0, left := jobCost s j0 }
  if !bnuOnline s n then cplPost n j 8 0 fOFFLINE s
  else if !queueRoom (bnuOf s n) j.short then
    cplPost n j 8 0 fQFULL (bump (UC_BNU n 15) 1 (fsetB (BNU_STATUS n) BNU_STATUS_Q_FULL true s))
  else if !bnuOpKnown (jOp j) || decide (j.w0 / 2 ^ 8 % 4 = 3) || !curveOk j || descReserved j
      || (jOp j == 0x30 && j.side == 3) then cplPost n j 8 0 fBADDESC s
  else if !lenOk s n j then cplPost n j 7 0 0 s
  else if !sourcesOk s n j then cplPost n j 0xB 0 0 s
  else if !slotsFree s n j then cplPost n j 0xA 0 0 s
  else jobAccept n j s

-- Validation -----------------------------------------------------------------------------------------------------

/-- Cycles of validation (R266). -/
def valCycles (j : BnuJob) : Nat :=
  let w := jWords j
  32 + ((opArgs j).map (fun a => match a with
    | .int => 2 * w + 8
    | .pair => 2 * (2 * w + 8)
    | .point => 12 * w + 64
    | .sig => 12 * w + 64 + (2 * w + 8)
    | .pub => 12 * w + 64
    | .msg => 0)).sum

/-- First failure in the order ZERO, ONE, RANGE, EVEN, INF, CURVE (R266). -/
def firstBad (z o r e i c : Bool) : Nat :=
  if z then 1 else if o then 2 else if r then 3 else if e then 6 else if i then 5 else if c then 4 else 0

/-- INF and CURVE of a NIST point (R263). -/
def pointBad (c : NistCurve) (x y : Nat) : Bool × Bool × Bool :=
  (decide (c.p ≤ x) || decide (c.p ≤ y), decide (x = 0 ∧ y = 0), !onCurve c x y)

/-- The checks of a job on its operands (R263, R266). -/
def validate (s : State) (n : Nat) (j : BnuJob) : Nat :=
  let w := jWords j
  let c := nistOf (jCurve j)
  let num := fun (i o : Nat) => slotNum s n (jSrc j i) o w
  match jOp j with
  | 0x02 => if (opArgs j).isEmpty then 0 else firstBad (decide (num 0 0 = 0)) (decide (num 0 0 = 1)) false false false false
  | 0x11 =>
    let u := num 1 0 % 2 ^ 255
    firstBad (decide (u = 0)) (decide (u = 1)) (decide (p25519 ≤ u)) false false false
  | 0x19 =>
    let p := pointBad c (num 1 0) (num 1 w)
    firstBad (decide (num 0 0 = 0)) false (decide (c.n ≤ num 0 0) || p.1) false p.2.1 p.2.2
  | 0x1B =>
    let p := pointBad c (num 2 0) (num 2 w)
    firstBad (decide (num 1 0 = 0 ∨ num 1 w = 0)) false (decide (c.n ≤ num 1 0 ∨ c.n ≤ num 1 w) || p.1) false p.2.1 p.2.2
  | 0x21 =>
    let sg := ldBytes s (slotAddr s n (jSrc j 1)) 64
    firstBad false false (decide (edOrder ≤ leNat (sg.drop 32))) false false
      ((edDecode (leNat (sg.take 32))).isNone || (edDecode (num 2 0)).isNone)
  | 0x28 => match bnuKeyOf s (jKey j) with
    | some k => firstBad (decide (num 0 0 = 0)) (decide (num 0 0 = 1)) (decide (k.p * k.q ≤ num 0 0)) false false false
    | none => 0
  | 0x30 => -- an Ed25519 key is the RFC 8032 byte string (R259) and has no modulus (DEDUCED, log entry 129)
    if jCurve j = 0 then
      firstBad false (decide (num 0 0 = 1 ∨ num 1 0 = 1)) false (decide (num 0 0 % 2 = 0 ∨ num 1 0 % 2 = 0)) false false
    else firstBad (decide (num 0 0 = 0)) false (decide (jCurve j ≠ 3 ∧ c.n ≤ num 0 0)) false false false
  | _ => 0

/-- Do the source slots of a job hold an uncorrectable word (R273)? -/
def sourceUe (n : Nat) (j : BnuJob) (s : State) : Bool × State :=
  (jSrcs j).foldl (fun (a : Bool × State) k =>
    let m := touchMem (slotAddr a.2 n k) (8 * slotWords a.2 n) a.2
    (a.1 || m.1, m.2)) (false, s)

-- DRBG instances -------------------------------------------------------------------------------------------------

/-- DRBG instances the variant fits (R281). -/
def drbgFitted (s : State) (i : Nat) : Bool :=
  if i < 8 then bnuFitted s i else decide (i < 8 + (match s.variant with | .gt9820 => 2 | .gt9810 => 1 | _ => 3))

/-- BNU_DRBG_STALE (R282, R283). -/
def staleLevel (s : State) : State := setLevel EV_BNU_DRBG_STALE (decide (s.bnu.stopped ≠ 0)) s

/-- Does the entropy source deliver (R279, R282)? -/
def esGood (s : State) : Bool := fget s BNU_ES_STATUS BNU_ES_STATUS_STATE == 1

def drbgOf (s : State) (i : Nat) : Option Drbg := mapGet (fun _ => none) s.bnu.drbg i

def drbgSet (i : Nat) (d : Option Drbg) (s : State) : State :=
  { s with bnu := { s.bnu with drbg := mapSet (fun _ => none) i d s.bnu.drbg } }

/-- Output blocks after V. -/
def drbgBlocks (key : List Byte) : Nat → Nat → List Byte
  | 0, _ => []
  | n + 1, v => let w := (v + 1) % 2 ^ 128; aesEnc key (beBytes 16 w) ++ drbgBlocks key n w

/-- CTR_DRBG_Update with 384 bits of data (SP 800-90A). -/
def drbgUpdate (d : Drbg) (x : List Byte) : Drbg :=
  let t := xorBytes (drbgBlocks d.key 3 d.v) x
  { key := t.take 32, v := beNat (t.drop 32) }

/-- A 384-bit seed from two conditioned blocks (R281); none while the source has not delivered two. -/
def seedTake (s : State) : Option (List Byte × State) :=
  match s.bnu.pool with
  | a :: b :: r => some ((a ++ b).take 48, { s with bnu := { s.bnu with pool := r } })
  | _ => none

/-- An instance generates from now on. -/
def drbgOn (i : Nat) (d : Drbg) (s : State) : State :=
  let s1 := drbgSet i (some d) { s with bnu := { s.bnu with calls := mapSet (fun _ => 0) i 0 s.bnu.calls,
                                                            stopped := s.bnu.stopped &&& (2 ^ 11 - 1 - 2 ^ i) } }
  staleLevel (fset BNU_DRBG_STATUS BNU_DRBG_STATUS_READY (fget s1 BNU_DRBG_STATUS BNU_DRBG_STATUS_READY ||| 2 ^ i) s1)

/-- An instance is instantiated (R281): the personalization string is the serial number and the instance number. -/
def drbgStart (i : Nat) (s : State) : State :=
  match seedTake s with
  | none => s
  | some e =>
    let pers := leBytes 8 (rd s SYS_SERIAL).toNat ++ [BitVec.ofNat 8 i] ++ zeros 39
    drbgOn i (drbgUpdate { key := zeros 32, v := 0 } (xorBytes e.1 pers)) e.2

/-- An instance reseeds (R281): with the next two conditioned blocks, which it waits for where the source has not delivered them yet. -/
def drbgAgain (i : Nat) (s : State) : State :=
  match drbgOf s i with
  | none => drbgStart i s
  | some d => match seedTake s with
    | none => { s with bnu := { s.bnu with calls := mapSet (fun _ => 0) i (max 65536 (mapGet (fun _ => 0) s.bnu.calls i)) s.bnu.calls } }
    | some e => bump (UC_ES 2) 1 (drbgOn i (drbgUpdate d e.1) e.2)

/-- An instance stops (R282). -/
def drbgHalt (i : Nat) (s : State) : State :=
  let s1 : State := { s with bnu := { s.bnu with stopped := s.bnu.stopped ||| 2 ^ i } }
  staleLevel (fset BNU_DRBG_STATUS BNU_DRBG_STATUS_READY (fget s1 BNU_DRBG_STATUS BNU_DRBG_STATUS_READY &&& (2 ^ 11 - 1 - 2 ^ i)) s1)

/-- The state of a unit's instance is zeroed (R271, R282). -/
def drbgDrop (i : Nat) (s : State) : State :=
  fset BNU_DRBG_STATUS BNU_DRBG_STATUS_READY (fget s BNU_DRBG_STATUS BNU_DRBG_STATUS_READY &&& (2 ^ 11 - 1 - 2 ^ i))
    (drbgSet i none { s with bnu := { s.bnu with gone := s.bnu.gone ||| 2 ^ i } })

/-- A generate call of an instance (R281, R282): after 65,536 calls it reseeds while the source delivers; while it does not, the instance
stops after 2^20. -/
def drbgGen (i n : Nat) (s : State) : List Byte × State :=
  match drbgOf s i with
  | none => drawBytes n s
  | some d =>
    let k := (n + 15) / 16
    let c := mapGet (fun _ => 0) s.bnu.calls i + 1
    let d1 := drbgUpdate { d with v := (d.v + k) % 2 ^ 128 } (zeros 48)
    let s1 := drbgSet i (some d1) { s with bnu := { s.bnu with calls := mapSet (fun _ => 0) i c s.bnu.calls } }
    ((drbgBlocks d.key k d.v).take n,
      if 65536 ≤ c ∧ esGood s1 then drbgAgain i s1 else if 2 ^ 20 ≤ c then drbgHalt i s1 else s1)

/-- Does an instance wait for a seed (R281, R282)? One that has none waits, after its unit went offline for the unit to come back; one that
is due for a reseed waits too. -/
def drbgWaits (s : State) (i : Nat) : Bool :=
  drbgFitted s i && (match drbgOf s i with
    | none => !s.bnu.gone.testBit i || bnuOnline s i
    | some _ => decide (65536 ≤ mapGet (fun _ => 0) s.bnu.calls i))

/-- Instances that wait for a seed take it, in their order, as far as the source has delivered (R281). -/
def drbgServe (s : State) : State :=
  if esGood s then forEach (List.range 11) (fun i a => if drbgWaits a i then drbgAgain i a else a) s else s

/-- Is a DRBG instance generating (R281, R282)? -/
def drbgReady (s : State) (i : Nat) : Bool := (fget s BNU_DRBG_STATUS BNU_DRBG_STATUS_READY).testBit i


/-- The next job by class starts or resumes (R266, R269); the slot clear zeroes its destinations and scratch. A self-test has the unit to
itself (R277; DEDUCED, log entry 131). -/
def bnuStart (n : Nat) (s : State) : State :=
  let u := bnuOf s n
  if !bnuOnline s n || u.test || u.run.isSome || decide (64 ≤ u.cpl.length) then s
  else
    let first := fun (j : BnuJob) (v : BnuUnit) =>
      let s1 := bnuSet n v s
      let m := sourceUe n j s1
      let bad := if m.1 then 0xC else if opRandom (jOp j) && !drbgReady m.2 n then 0x108
        else if j.bad ≠ 0 then j.bad else if j.ke.isSome then 0 else validate m.2 n j
      let s2 := if bad = 0 then forEach (jOuts j) (slotZero n) m.2 else outsClear n j m.2
      bnuSet n { bnuOf s2 n with run := some { j with bad := bad }, begun := s2.tsu.xo } s2
    match u.shortQ, u.saved, u.longQ with
    | j :: r, none, _ => first j { u with shortQ := r }
    | j :: r, some x, _ =>
      if 64 ≤ u.since then bnuSet n { u with saved := none, run := some x, since := 0, begun := s.tsu.xo } s
      else first j { u with shortQ := r, since := u.since + 1 }
    | [], some x, _ => bnuSet n { u with saved := none, run := some x, since := 0, begun := s.tsu.xo } s
    | [], none, j :: r => first j { u with longQ := r }
    | [], none, [] => s

/-- A LONG job yields at a yield point, with `left` cycles to go (R269). -/
def bnuYield (n left : Nat) (s : State) : State :=
  let u := bnuOf s n
  match u.run with
  | none => s
  | some j =>
    if j.short ∨ u.shortQ.isEmpty ∨ u.saved.isSome ∨ j.bad ≠ 0 then s
    else bump (UC_BNU n 11) 1 (bnuSet n { u with run := none, saved := some { j with yielded := true, left := min left j.left }, since := 0 } s)

-- Results --------------------------------------------------------------------------------------------------------

/-- Extended Euclid: the inverse of `a` modulo `m`. -/
def euclidInv (m : Nat) : Nat → Nat → Nat → Int → Int → Nat
  | 0, _, _, x, _ => (x % (m : Int)).toNat
  | f + 1, a, b, x, y => if b = 0 then (x % (m : Int)).toNat else euclidInv m f b (a % b) y (x - ((a / b : Nat) : Int) * y)

/-- A number below `m` of `bits` bits from an instance, each equally likely: a draw beyond the range is discarded and another made (DESIGN
CHOICE, log entry 155); a free value after so many draws. -/
def drbgBelow (i m bits : Nat) : Nat → State → Nat × State
  | 0, s => let d := drawBytes ((bits + 7) / 8) s; (leNat d.1 % m, d.2)
  | f + 1, s =>
    let a := drbgGen i ((bits + 7) / 8) s
    let v := leNat a.1 % 2 ^ bits
    if v < m then (v, a.2) else drbgBelow i m bits f a.2

/-- A scalar in [1, m − 1] from an instance, uniform (R263). -/
def drbgScalar (i m : Nat) (s : State) : Nat × State :=
  let a := drbgBelow i (m - 1) (Nat.log2 (m - 1) + 1) 128 s
  (1 + a.1, a.2)

/-- The private exponent of p, q and e. -/
def rsaExp (p q e : Nat) : Nat :=
  let phi := (p - 1) * (q - 1)
  euclidInv phi 8192 (e % phi) phi 1 0

/-- RSA signature of an encoded message. -/
def rsaSign (k : BnuKey) (m : Nat) : Nat := powMod m (rsaExp k.p k.q k.e) (k.p * k.q)

/-- The entry KEY_LOAD makes of a curve key, its public key derived (R263). -/
def curveKey (ty words d : Nat) : BnuKey :=
  let pub := if ty = 3 then (edEncode (edMul (clamp25519 (leNat ((sha512 (leBytes 32 d)).take 32))) edBase), 0)
    else (ecMul (nistOf ty) d (ecBase (nistOf ty))).getD (0, 0)
  { ty := ty, words := words, d := d, p := 0, q := 0, e := 0, px := pub.1, py := pub.2, n := 0, dp := 0, dq := 0, qi := 0 }

/-- The entry KEY_LOAD makes of an RSA key: modulus and CRT values derived (R263). -/
def rsaKey (words p q e : Nat) : BnuKey :=
  let x := rsaExp p q e
  { ty := 4, words := words, d := 0, p := p, q := q, e := e, px := 0, py := 0, n := p * q, dp := x % (p - 1), dq := x % (q - 1),
    qi := euclidInv p 8192 (q % p) p 1 0 }

/-- The signature of a job in slot byte order, whether it verifies against the public key of its entry (R270), and the state after its
draws. -/
def jobSig (n : Nat) (j : BnuJob) (s : State) : List Byte × Bool × State :=
  let w := jWords j
  let c := nistOf (jCurve j)
  let m := slotNum s n (jSrc j 0) 0 w
  match bnuKeyOf s (jKey j) with
  | none => ([], true, s)
  | some k =>
    if jOp j = 0x1A then
      let d := drbgScalar n c.n s
      let r := ecdsaSign c k.d (m % c.n) d.1
      (leBytes (8 * w) r.1 ++ leBytes (8 * w) r.2, ecdsaVerify c (k.px, k.py) (m % c.n) r.1 r.2, d.2)
    else if jOp j = 0x20 then
      let msg := ldBytes s (slotAddr s n (jSrc j 0)) (jMsg j)
      let g := edSign (leBytes 32 k.d) msg
      (g, edVerify (leBytes 32 k.px) g msg, s)
    else
      let g := rsaSign k m
      (leBytes (8 * w) g, decide (powMod g k.e k.n = m), s)

/-- The effect of a job that ends DONE on its slots and the key store; and RESULT (R263). -/
def jobResult (n : Nat) (j : BnuJob) (s : State) : Bool × State :=
  let w := jWords j
  let c := nistOf (jCurve j)
  let num := fun (i o : Nat) => slotNum s n (jSrc j i) o w
  let rdA := jRead j
  let out := fun (k read : Nat) (bs : List Byte) (a : State) => slotPut n k read j.side bs a
  match jOp j with
  | 0x01 => (false, slotClear n (jDst j 0) (slotClear n (jDst j 1) s))
  | 0x02 =>
    if (opArgs j).isEmpty then
      let d := drbgGen n (8 * w) s
      (false, out (jDst j 0) rdA d.1 d.2)
    else
      let d := drbgScalar n (num 0 0) s
      (false, out (jDst j 0) rdA (leBytes (8 * w) d.1) d.2)
  | 0x10 =>
    let d := drbgGen n 32 s
    (false, out (jDst j 1) rdA (leBytes 32 (x25519 (leNat d.1) 9)) (out (jDst j 0) 2 d.1 d.2))
  | 0x11 => (false, out (jDst j 0) rdA (leBytes 32 (x25519 (num 0 0) (num 1 0))) s)
  | 0x18 =>
    let d := drbgScalar n c.n s
    let q := (ecMul c d.1 (ecBase c)).getD (0, 0)
    (false, out (jDst j 1) rdA (leBytes (8 * w) q.1 ++ leBytes (8 * w) q.2) (out (jDst j 0) 2 (leBytes (8 * w) d.1) d.2))
  | 0x19 => (false, out (jDst j 0) rdA (leBytes (8 * w) ((ecMul c (num 0 0) (some (num 1 0, num 1 w))).getD (0, 0)).1) s)
  | 0x1A => let g := jobSig n j s; (false, out (jDst j 0) rdA g.1 g.2.2)
  | 0x1B => (ecdsaVerify c (num 2 0, num 2 w) (num 0 0 % c.n) (num 1 0) (num 1 w), s)
  | 0x20 => let g := jobSig n j s; (false, out (jDst j 0) rdA g.1 g.2.2)
  | 0x21 =>
    (edVerify (ldBytes s (slotAddr s n (jSrc j 2)) 32) (ldBytes s (slotAddr s n (jSrc j 1)) 64)
      (ldBytes s (slotAddr s n (jSrc j 0)) (jMsg j)), s)
  | 0x28 => let g := jobSig n j s; (false, out (jDst j 0) rdA g.1 g.2.2)
  | 0x30 =>
    let k := if jCurve j = 0 then rsaKey (2 * w) (num 0 0) (num 1 0) (num 2 0) else curveKey (jCurve j) w (num 0 0)
    (false, { s with bnu := { s.bnu with keys := mapSet (fun _ => none) (jKey j) (some k) s.bnu.keys } })
  | _ => (false, s)

/-- Scratch slots after a job that ended DONE hold what the unit left in them. -/
def scratchLeft (n : Nat) (j : BnuJob) (s : State) : State :=
  forEach (if j.ke.isSome then [] else jScr j) (fun k a =>
    let d := drawBytes (8 * slotWords a n) a
    slotPut n k 2 j.side d.1 d.2) s

/-- The unit goes offline with cause (R271, R277). -/
def bnuOffline (n detail : Nat) (s : State) : State :=
  let s1 := drbgDrop n (fsetB (BNU_STATUS n) BNU_STATUS_ONLINE false s)
  backlogShow (cairnFault 0x50 sevError detail (leBytes 4 n) (raiseOnce EV_BNU_OFFLINE s1))

/-- End every job a predicate selects with ABORTED (R272, R273); the jobs ended are returned. -/
def jobsAbort (n flags : Nat) (sel : BnuJob → Bool) (s : State) : List BnuJob × State :=
  let u := bnuOf s n
  let gone := (bnuJobs u).filter sel
  let keep := fun (x : Option BnuJob) => x.filter (fun j => !sel j)
  let s1 := bnuSet n { u with run := keep u.run, saved := keep u.saved, shortQ := u.shortQ.filter (fun j => !sel j),
                              longQ := u.longQ.filter (fun j => !sel j) } s
  (gone, gone.foldl (fun a j => jobFail n j 8 (j.cost - j.left + if u.run = some j then min j.left (bnuRan s u) else 0) flags a) s1)

-- Self-test ------------------------------------------------------------------------------------------------------

/-- Are the units stopped? They are in Rest, until its exit starts (R83, R85). -/
def bnuStopped (s : State) : Bool := phase s == 5 && s.start.rest != 3

/-- A self-test starts (R277); not while the units are stopped (R83). -/
def selftestStart (n : Nat) (s : State) : State := if bnuStopped s then s else bnuSet n { bnuOf s n with test := true } s

/-- A self-test ends (R277); the unit's DRBG instance is instantiated where the source delivers (R282). -/
def selftestEnd (n : Nat) (pass : Bool) (s : State) : State :=
  let s1 := bnuSet n { bnuOf s n with test := false } s
  if pass then
    let s2 := fsetB (BNU_STATUS n) BNU_STATUS_ONLINE true (fsetB (BNU_STATUS n) BNU_STATUS_SELFTEST_PASS true
      (fsetB (BNU_STATUS n) BNU_STATUS_FAULT false s1))
    backlogShow (drbgServe s2)
  else bnuOffline n 0x02 (fsetB (BNU_STATUS n) BNU_STATUS_SELFTEST_PASS false s1)

-- Entropy --------------------------------------------------------------------------------------------------------

/-- The health tests as samples come (R279): last bit, its run, the samples like the window's first, and what failed first: 0 nothing,
1 repetition count, 2 adaptive proportion. -/
structure EsTest where
  bit : Bool
  run : Nat
  like : Nat
  fail : Nat
  deriving DecidableEq, Repr

/-- The samples of a block: 1,024 raw bits in 128 bytes, the first in bit 0 of the first byte (DESIGN CHOICE, log entry 137). -/
def rawBits (raw : List Byte) : List Bool := raw.flatMap (fun b => (List.range 8).map (fun i => b.getLsbD i))

/-- One sample: a run of 81 fails the repetition count, 589 samples like the first of the window the adaptive proportion (R279). -/
def esSample (first : Bool) (x : EsTest) (b : Bool) : EsTest :=
  let run := if b == x.bit then x.run + 1 else 1
  let like := if b == first then x.like + 1 else x.like
  { bit := b, run := run, like := like,
    fail := if x.fail ≠ 0 then x.fail else if 81 ≤ run then 1 else if 589 ≤ like then 2 else 0 }

/-- The tests over one block, which is one window of the adaptive proportion test; the repetition count goes on from the block before. -/
def esTests (raw : List Byte) (s : State) : EsTest :=
  (rawBits raw).foldl (esSample ((rawBits raw).headD false)) { bit := s.bnu.rawBit, run := s.bnu.rawRun, like := 0, fail := 0 }

/-- A block of 1,024 raw bits (R279 to R281): the first is the start-up test; a block that passes is conditioned, and instances that wait for
the source are instantiated. -/
def esBlock (raw : List Byte) (s : State) : State :=
  let st := fget s BNU_ES_STATUS BNU_ES_STATUS_STATE
  let x := esTests raw s
  let fail := x.fail
  if 2 ≤ st then s
  else if fail = 0 then
    let pool := s.bnu.pool ++ [sha256 raw]
    let s1 := fset BNU_ES_STATUS BNU_ES_STATUS_FAIL_RUN 0 (fset BNU_ES_STATUS BNU_ES_STATUS_STATE 1
      { s with bnu := { s.bnu with pool := pool.drop (pool.length - 2), rawBit := x.bit, rawRun := x.run } })
    drbgServe s1
  else
    let run := fget s BNU_ES_STATUS BNU_ES_STATUS_FAIL_RUN + 1
    let s1 := fsetB BNU_ES_STATUS (if fail = 1 then BNU_ES_STATUS_RCT_FAIL else BNU_ES_STATUS_APT_FAIL) true
      (fset BNU_ES_STATUS BNU_ES_STATUS_FAIL_RUN (min run 3) { s with bnu := { s.bnu with rawRun := 0 } })
    let s2 := cairnFault 0x50 sevWarning (0x10 + fail) (leBytes 4 run) (raiseOnce EV_BNU_ES_HEALTH (bump (UC_ES (fail - 1)) 1 s1))
    if 3 ≤ run then setLevel EV_BNU_ES_FAILED true (fset BNU_ES_STATUS BNU_ES_STATUS_STATE 3 s2)
    else fset BNU_ES_STATUS BNU_ES_STATUS_STATE 2 s2

/-- 100 ms after a failure the source restarts (R280). -/
def esRestart (s : State) : State :=
  if fget s BNU_ES_STATUS BNU_ES_STATUS_STATE = 2 then fset BNU_ES_STATUS BNU_ES_STATUS_STATE 0 s else s

/-- RESTART of a FAILED source (R280). -/
def esRevive (s : State) : State :=
  if fget s BNU_ES_STATUS BNU_ES_STATUS_STATE = 3 then
    setLevel EV_BNU_ES_FAILED false (fset BNU_ES_STATUS BNU_ES_STATUS_FAIL_RUN 0 (fset BNU_ES_STATUS BNU_ES_STATUS_STATE 0 s))
  else s

/-- An instance reseeds while the source delivers (R281, R282). -/
def drbgReseed (i : Nat) (s : State) : State :=
  if !drbgFitted s i || !esGood s || (decide (i < 8) && !bnuOnline s i) then s
  else
    drbgAgain i s

/-- An instance that could not reseed for 60 s stops (R282). -/
def drbgStop (i : Nat) (s : State) : State :=
  if drbgFitted s i && drbgReady s i && !esGood s then drbgHalt i s else s

/-- A read of BNU_RAND (R282). -/
def bnuRand (i : Initiator) (s : State) : Word × State :=
  match i with
  | .core c =>
    let k := 8 + c.val / 8
    if drbgReady s k then
      let d := drbgGen k 8 s
      (BitVec.ofNat 64 (leNat d.1), d.2)
    else (0, bump (UC_ES 3) 1 (fset BNU_DRBG_STATUS BNU_DRBG_STATUS_STALE
      (fget s BNU_DRBG_STATUS BNU_DRBG_STATUS_STALE ||| 2 ^ k) s))
  | _ => (0, s)

/-- A read of BNU_CPL pops the head (R274). -/
def bnuPop (n : Nat) (s : State) : Word × State :=
  match (bnuOf s n).cpl with
  | [] => (0, s)
  | c :: r => (BitVec.ofNat 64 c, bnuSet n { bnuOf s n with cpl := r } s)

-- Registers ------------------------------------------------------------------------------------------------------

/-- Unit and offset of a register of a unit. -/
def bnuAddr (a : Nat) : Option (Nat × Nat) :=
  if 0x500000 ≤ a ∧ a < 0x508000 then some ((a - 0x500000) / 0x1000, a % 0x1000) else none

/-- Checks of a write to a unit's register (R261, R265, R277, R278). -/
def bnuCheck (i : Initiator) (a : Nat) (v : Word) (s : State) : Verdict :=
  match bnuAddr a with
  | none => .ok
  | some (n, o) =>
    let busy := !(bnuJobs (bnuOf s n)).isEmpty
    if o = 0 then
      let self := getF BNU_CTL_SELFTEST v ≠ 0
      let own := getF BNU_CTL_OWNER v ≠ fget s (BNU_CTL n) BNU_CTL_OWNER
      if busy ∧ (self ∨ own) then vState 0xC else .ok
    else if o = 0x10 then (if busy then vState 0xC else .ok)
    else if o = 0x38 ∧ getF BNU_SUBMIT_GO v ≠ 0 ∧ !bnuMay i n s then vState 0xD
    else .ok

/-- BNU_SLOT_INFO and BNU_LOAD as they read. -/
def bnuView (s : State) (a : Nat) : Option Word :=
  match bnuAddr a with
  | some (n, 0x58) =>
    let x := slotOf s n (fget s (BNU_SLOT_QUERY n) BNU_SLOT_QUERY_INDEX)
    some (setF BNU_SLOT_INFO_STATE x.st (setF BNU_SLOT_INFO_READ x.read (setF BNU_SLOT_INFO_OWNER x.owner 0)))
  | some (n, 0x60) => some (BitVec.ofNat 64 (bnuWork s (bnuOf s n)))
  | _ => none

/-- A new slot length (R261). -/
def slotLength (n w : Nat) (s : State) : State :=
  let s1 := slotsClear n s
  wr (BNU_SLOT_WORDS n) (setF BNU_SLOT_WORDS_WORDS w (setF BNU_SLOT_WORDS_SLOTS (8192 / max w 4) 0)) s1

-- Meanings -------------------------------------------------------------------------------------------------------

/-- BNU_WINDOW_WRITE (R260): byte offset within the operand memories. -/
def execBnuWindowWrite (i : Initiator) (unit off : Nat) (v : Word) (s : State) : Res :=
  runIf (bnuFitted s unit ∧ off < 0x10000) (bnuWinWrite i (0x40000000 + unit * 0x10000 + off / 8 * 8) v) s

/-- BNU_JOB_START (R266, R269). -/
def execBnuJobStart (n : Nat) (s : State) : Res := runIf (bnuFitted s n) (bnuStart n) s

/-- BNU_YIELD (R269). -/
def execBnuYield (n left : Nat) (s : State) : Res := runIf (bnuFitted s n) (bnuYield n left) s

/-- BNU_SELFTEST_DONE (R277). -/
def execBnuSelftestDone (n : Nat) (pass : Bool) (s : State) : Res :=
  runIf (bnuFitted s n) (fun a => if (bnuOf a n).test then selftestEnd n pass a else a) s

/-- ES_BLOCK (R279, R280). -/
def execEsBlock (raw : List Byte) (s : State) : Res := run (esBlock raw) s

/-- ES_RESTART (R280). -/
def execEsRestart (s : State) : Res := run esRestart s

/-- DRBG_RESEED (R281). -/
def execDrbgReseed (n : Nat) (s : State) : Res := run (drbgReseed n) s

/-- DRBG_STALE (R282). -/
def execDrbgStale (n : Nat) (s : State) : Res := run (drbgStop n) s

end Sys2Proof.Machine
end

