-- ==== Sys2Proof/Machine/Evc.lean ====
section
/-!
DEFINITION. Machine/Evc.lean: the host receiver of the event controller (R470 to R485): pending and active, lines, claims,
completes, masks and messages.
-/
namespace Sys2Proof.Machine
open Sys2Proof

/-- One bit of a 256-bit set. -/
def bit256 (i : Nat) : BitVec 256 := 1 <<< i

/-- Priority and line of a source. -/
def srcPrio (s : State) (id : Nat) : Nat := fget s (EVC_SRC_CFG id) EVC_SRC_CFG_PRIORITY
def srcLine (s : State) (id : Nat) : Nat := fget s (EVC_SRC_CFG id) EVC_SRC_CFG_LINE

/-- Is a source deliverable on line `v` (R474)? One that is ACTIVE waits for its complete (R476, R477). -/
def deliverable (s : State) (v id : Nat) : Bool :=
  bankBit s EVC_PEND id && !bankBit s EVC_ACT id && srcLine s id == v && decide (fget s (EVC_LINE_CFG v) EVC_LINE_CFG_THRESH < srcPrio s id)

/-- The source a claim on line `v` takes: the highest priority, then the lowest ID (R475). -/
def claimBest (s : State) (v : Nat) : Option Nat :=
  (List.range 256).foldl (fun b id =>
    if deliverable s v id then
      match b with
      | none => some id
      | some j => if srcPrio s j < srcPrio s id then some id else some j
    else b) none

/-- One message of vector `v`, or its pending bit where a mask blocks it (R483). -/
def msixSend (v : Nat) (s : State) : State :=
  if s.evc.msixFnMask || s.evc.msixMask.getLsbD v then
    { s with evc := { s.evc with msixPend := s.evc.msixPend ||| (1 <<< v : BitVec 32) } }
  else emitOut (.msix v) s

/-- Note lines whose set has become empty. -/
def lineEmpty (s : State) : State :=
  { s with evc := { s.evc with lineSet := (List.range 34).foldl (fun (b : BitVec 34) v =>
      if (claimBest s v).isSome then b else b &&& ~~~ (1 <<< v : BitVec 34)) s.evc.lineSet } }

/-- The message decision of R483; `done` is the line of a complete. -/
def lineDecide (done : Option Nat) (s : State) : State :=
  forEach (List.range 34) (fun v a =>
    let now := (claimBest a v).isSome
    let was := a.evc.lineSet.getLsbD v
    let b : State := { a with evc := { a.evc with
      lineSet := if now then a.evc.lineSet ||| (1 <<< v : BitVec 34) else a.evc.lineSet &&& ~~~ (1 <<< v : BitVec 34) } }
    if v < 32 ∧ now ∧ (!was ∨ done = some v) then msixSend v b else b) s

/-- Apply a change of the receiver's state with its message decision. -/
def evcChange (f : State → State) (s : State) : State := lineDecide none (f (lineEmpty s))

/-- Occurrence of a source that has reached the controller (R472, R473, R477). -/
def arrive (id : Nat) (s : State) : State :=
  if !s.evc.inflight.getLsbD id then s
  else
    let s1 : State := { s with evc := { s.evc with inflight := s.evc.inflight &&& ~~~ bit256 id } }
    if !s.evc.enEff.getLsbD id then s1
    else if srcLevel id then
      (if s.evc.lvEff.getLsbD id && !bankBit s EVC_ACT id then setBank EVC_PEND id true s1 else s1)
    else setBank EVC_PEND id true s1

/-- The enables and levels as written take effect (R474, R479, R480). -/
def evcSettle (s : State) : State :=
  let en : BitVec 256 := (List.range 256).foldl (fun b i => if bankBit s EVC_EN i then b ||| bit256 i else b) 0
  let lv : BitVec 256 := (List.range 256).foldl (fun b i => if bankBit s EVC_SRC_LEVEL i then b ||| bit256 i else b) 0
  let fl := s.evc.inflight &&& ((List.range 256).foldl (fun (b : BitVec 256) i =>
    if srcLevel i && !bankBit s EVC_SRC_LEVEL i then b else b ||| bit256 i) 0)
  let s1 : State := { s with evc := { s.evc with enEff := en, lvEff := lv, inflight := fl, sw := s.evc.sw &&& en, windowOpen := false } }
  forEach (List.range 256) (fun i a =>
    let e := a.evc.enEff.getLsbD i
    if srcLevel i then
      setBank EVC_PEND i (a.evc.sw.getLsbD i || (e && a.evc.lvEff.getLsbD i && !bankBit a EVC_ACT i && !a.evc.inflight.getLsbD i)) a
    else if e then a else setBank EVC_PEND i false a) s1

/-- A write of EVC_ENk (R474, R479, R480): bits of absent sources stay 0. -/
def enWrite (k : Nat) (v : Word) (s : State) : State :=
  let s0 := if s.evc.windowOpen then evcChange evcSettle s else s
  let keep : Word := (List.range 64).foldl (fun (m : Word) i =>
    if srcPresent s.variant (64 * k + i) then m ||| (1 <<< i : Word) else m) 0
  let s1 := wr (EVC_EN k) (v &&& keep) s0
  if unitBit s.variant 39 then evcChange evcSettle s1 else { s1 with evc := { s1.evc with windowOpen := true } }

/-- A claim on line `v`: the ID, and the state after (R475). -/
def evcClaim (v : Nat) (s : State) : Nat × State :=
  match claimBest s v with
  | none => (0x1FF, s)
  | some id =>
    let s1 := setBank EVC_ACT id true (setBank EVC_PEND id false s)
    (id, lineEmpty { s1 with evc := { s1.evc with sw := s1.evc.sw &&& ~~~ bit256 id } })

/-- The end of a service (R476 to R478). -/
def evcComplete (v id : Nat) (s : State) : State :=
  if id < 256 ∧ bankBit s EVC_ACT id ∧ srcLine s id = v then
    let s1 := setBank EVC_ACT id false (lineEmpty s)
    let s2 := if srcLevel id && s1.evc.lvEff.getLsbD id && s1.evc.enEff.getLsbD id && !s1.evc.inflight.getLsbD id then
        setBank EVC_PEND id true s1 else s1
    lineDecide (some v) s2
  else fsetB EVC_STATUS EVC_STATUS_BAD_COMPLETE true s

/-- A software occurrence (R481). -/
def evcSet (id : Nat) (s : State) : State :=
  if !srcPresent s.variant id then fsetB EVC_STATUS EVC_STATUS_SET_ABSENT true s
  else if srcInert s id then s
  else
    let s1 := setBank EVC_RAW id true { s with evc := { s.evc with ntf := s.evc.ntf ||| bit256 id } }
    if !s.evc.enEff.getLsbD id then s1
    else evcChange (fun a =>
      let b : State := if srcLevel id then { a with evc := { a.evc with sw := a.evc.sw ||| bit256 id } } else a
      setBank EVC_PEND id true b) s1

/-- Checks of a write to an event-controller register (R482). -/
def evcCheck (a : Nat) (v : Word) (s : State) : Verdict :=
  if EVC_SRC_CFG 0 ≤ a ∧ a < EVC_SRC_CFG 256 then
    let l := getF EVC_SRC_CFG_LINE v
    let id := (a - EVC_SRC_CFG 0) / 8
    if 33 < l then vRange else if l ≠ srcLine s id ∧ bankBit s EVC_ACT id then vRange else .ok
  else .ok

/-- The effect of an accepted write to an event-controller register. -/
def evcApply (a : Nat) (v : Word) (s : State) : Option State :=
  if EVC_EN 0 ≤ a ∧ a ≤ EVC_EN 3 then some (enWrite ((a - EVC_EN 0) / 8) v s)
  else if a = EVC_COMPLETE then some (evcComplete (getF EVC_COMPLETE_LINE v) (getF EVC_COMPLETE_ID v) s)
  else if a = EVC_SET then some (if getF EVC_SET_GO v ≠ 0 then evcSet (getF EVC_SET_ID v) s else s)
  else if EVC_SRC_CFG 0 ≤ a ∧ a < EVC_SRC_CFG 256 then
    let m := maskF EVC_SRC_CFG_PRIORITY ||| maskF EVC_SRC_CFG_LINE
    let s1 := wr a ((rd s a &&& ~~~ m) ||| (v &&& m)) (lineEmpty s)
    some (if getF EVC_SRC_CFG_LINE v ≠ fget s a EVC_SRC_CFG_LINE then lineDecide none s1 else s1)
  else none

/-- What the claim registers read without a claim (R475). -/
def evcView (s : State) (a : Nat) : Option Word :=
  if EVC_CLAIM 0 ≤ a ∧ a ≤ EVC_CLAIM 33 then some (BitVec.ofNat 64 ((claimBest s ((a - EVC_CLAIM 0) / 8)).getD 0x1FF)) else none

/-- Is pin IRQ0_N (line 32) or IRQ1_N (line 33) driven low (R484)? -/
def irqLow (s : State) (v : Nat) : Bool := fabRuns s && (claimBest s v).isSome

/-- New vector masks and function mask (R483): a vector that is unmasked with its pending bit set sends its message if its
set is still not empty. -/
def msixMasks (masks : BitVec 32) (fn : Bool) (s : State) : State :=
  forEach (List.range 32) (fun v a =>
    if a.evc.msixPend.getLsbD v && !fn && !masks.getLsbD v then
      let b : State := { a with evc := { a.evc with msixPend := a.evc.msixPend &&& ~~~ (1 <<< v : BitVec 32) } }
      if (claimBest b v).isSome then emitOut (.msix v) b else b
    else a) { s with evc := { s.evc with msixMask := masks, msixFnMask := fn } }

/-- SOURCE_PENDING (R479). -/
def execSourcePending (id : Nat) (s : State) : Res := run (fun a => if id < 256 then evcChange (arrive id) a else a) s

/-- MASK_WINDOW_END (R479). -/
def execMaskWindowEnd (s : State) : Res := run (fun a => if a.evc.windowOpen then evcChange evcSettle a else a) s

/-- MSIX_UNMASK (R483): the host's new vector masks and function mask. -/
def execMsixUnmask (masks : BitVec 32) (fn : Bool) (s : State) : Res := run (msixMasks masks fn) s

end Sys2Proof.Machine
end

