-- ==== Sys2Proof/Machine/Servo.lean ====
section
/-!
DEFINITION. Machine/Servo.lean: the reference slots as the servo sees them, the servo, holdover and the error bound (R332,
R344 to R356).
-/
namespace Sys2Proof.Machine
open Sys2Proof

-- Slots ----------------------------------------------------------------------------------------------------------

def refReset (_ : Nat) : RefSlot :=
  { fit := [], accepted := [], fresh := [], p := none, refused := [], act := false, misses := 0, jumpOut := false, frozen := 0,
    mustSlew := false, good := 0, qualAt := 0, rejFreq := 0, rejPhase := 0, driftPre := 0, ys := [], driftSince := 0,
    driftR := 0, driftFs := 0, reQual := false, yBase := none, watchAt := 0, q := 0, rtt := 0, upDelay := 0, upStratum := 0, upRefId := 0,
    lastAt := 0, msgAt := 0, tic := 255, bound := false, y := none }
def refSl (s : State) (n : Nat) : RefSlot := mapGet refReset s.refs n
def refSlSet (n : Nat) (x : RefSlot) (s : State) : State := { s with refs := mapSet refReset n x s.refs }

/-- State of a slot (REFS_SLOTn_STATE). -/
def slotSt (s : State) (n : Nat) : Nat := fget s (REFS_SLOT_STATE n) REFS_SLOT_STATE_STATE

/-- Kind of a slot (R321): 0 PPS, 1 FRAME, 2 FREQ, 3 TIME. -/
def slotKind (s : State) (n : Nat) : Nat := if n < 8 then fget s (REFS_SLOT_INPUT n) REFS_SLOT_INPUT_SIGNAL else 3

/-- The selected slot; 31 none. -/
def selected (s : State) : Nat := fget s REFS_STATUS REFS_STATUS_SELECTED

/-- Is a switch in progress? -/
def switching (s : State) : Bool := fbit s REFS_STATUS REFS_STATUS_SWITCHING

/-- Frequency of a slot against the XO in 10^-15 (REFS_SLOTn_MEAS). -/
def slotY (s : State) (n : Nat) : Int := fint s (REFS_SLOT_MEAS n) REFS_SLOT_MEAS_FREQ

/-- Frequency of a slot against the TSU in 10^-15, as last measured; zero before its first fit. -/
def slotYTsu (s : State) (n : Nat) : Int :=
  let nom := incNom s
  match (refSl s n).y with
  | none => 0
  | some y => y - divRound (((incNow s : Int) - nom) * 10 ^ 15) (max nom 1)

/-- Quality Q of a slot in ns (R332). -/
def slotQ (s : State) (n : Nat) : Nat :=
  let x := refSl s n
  let qn := fget s (REFS_SLOT_CFG n) REFS_SLOT_CFG_QUALITY_NS
  if n < 8 then qn
  else if n = 8 then x.q
  else if n < 17 then x.q + (x.rtt + 1) / 2
  else if n = 17 then x.q + 1
  else max qn x.q

/-- ABSORB of a slot in 2^-16 ns (R334): while its pull-in runs, what is left of the slew. -/
def absorbOf (s : State) (n : Nat) : Int :=
  if s.servo.pulling && n == selected s then Int.tdiv s.tsu.slewRemain slewUnit else (rd s (REFS_SLOT_ABSORB n)).toInt

/-- What is left of a pull-in stays in the slot's ABSORB (R334, R350). -/
def absorbHold (n : Nat) (s : State) : State :=
  if s.servo.pulling then
    let a := absorbOf s n
    wr (REFS_SLOT_ABSORB n) (BitVec.ofInt 64 a) { s with servo := { s.servo with pulling := false } }
  else s

/-- Window of the frequency monitor and of the absorbed offset in s (R323). -/
def freqWin (n : Nat) : Nat := if 8 ≤ n ∧ n ≤ 16 then 100 else 10

/-- An NTS upstream as firmware's client sees it (R339). -/
def ntsReset (_ : Nat) : NtsClient :=
  { c2s := [], s2c := [], cookies := [], uid := [], xmt := 0, poll := 0, ke := false, name := [], anchors := [] }
def ntsOf (s : State) (n : Nat) : NtsClient := mapGet ntsReset s.nts n
def ntsSet (n : Nat) (x : NtsClient) (s : State) : State := { s with nts := mapSet ntsReset n x s.nts }

/-- log2 of the poll interval in force (R339). -/
def ntsPollLog (s : State) (n : Nat) : Nat := max (ntsOf s n).poll (fget s (REFS_SLOT_INPUT n) REFS_SLOT_INPUT_POLL_LOG)

/-- The device time in ns. -/
def nowNs (s : State) : Nat := gtNow s / 2 ^ 32

/-- Least-squares slope of points (t, y) as a fraction. -/
def lsSlope (ps : List (Int × Int)) : Int × Int :=
  let n : Int := ps.length
  let sx := (ps.map (·.1)).sum
  let sy := (ps.map (·.2)).sum
  let sxy := (ps.map (fun p => p.1 * p.2)).sum
  let sxx := (ps.map (fun p => p.1 * p.1)).sum
  (n * sxy - sx * sy, n * sxx - sx * sx)

-- Servo ----------------------------------------------------------------------------------------------------------

/-- Type of the loop for a slot (R348). -/
def loopType (s : State) (n : Nat) : Nat :=
  if n = 8 then 0
  else if n < 8 then (if slotKind s n = 2 then 2 else 1)
  else if n = 17 then 5
  else if 18 ≤ n then 1
  else if fget s (REFS_SLOT_INPUT n) REFS_SLOT_INPUT_SIGNAL = 2 then 4 else 3

/-- The servo changes its state (R345, R358). -/
def servoGo (st : Nat) (s : State) : State :=
  let old := servoSt s
  if old = st then s
  else
    let s1 := fset SERVO_STATE SERVO_STATE_ENTER_SEC (nowSec32 s) (fset SERVO_STATE SERVO_STATE_STATE st s)
    let s2 := setLevel EV_SERVO_LOCKED (decide (st = 2)) (setLevel EV_SERVO_HOLDOVER (decide (st = 3 ∨ st = 4))
      (setLevel EV_SERVO_HO_EXCEEDED (decide (st = 4)) (occur EV_SERVO_STATE s1)))
    let s3 := if st = 2 then bump (UC_SERVO 1) 1 s2 else if st = 3 then bump (UC_SERVO 2) 1 s2 else s2
    outQuells (cairnState 0x03 sevNotice (followed s) old st 0 0
      { s3 with servo := { s3.servo with accClean := false, runAt := 0, far := 0 } })

/-- π as a fraction. -/
def piNum : Int := 3141592653589793238
def piDen : Nat := 10 ^ 18

/-- The integrator in 10^-15, rounded. -/
def integY (s : State) : Int := divRound s.servo.integ (2 ^ 40)

/-- The root delay of a slot in ns (R183): a packet upstream's own and the measured round trip, the Leader's for the twin. -/
def slotRootDelay (s : State) (n : Nat) : Nat := (refSl s n).upDelay + if 9 ≤ n ∧ n ≤ 16 then (refSl s n).rtt else 0

/-- A slot becomes the servo's reference (R334, R345, R348, R353). -/
def servoFollow (n : Nat) (s : State) : State :=
  let fresh := decide (servoSt s = 0 ∨ servoSt s = 3 ∨ servoSt s = 4)
  let i := if fresh then fint s TSU_FREQ_ADJ TSU_FREQ_ADJ_FREQ_ADJ * 2 ^ 40 else s.servo.integ
  let s1 : State := { s with servo := { s.servo with integ := i, phis := [], runAt := 0, far := 0, lastSel := n, freqB := s.tsu.errFs,
                                                     freqAt := nowNs s, rootDelay := slotRootDelay s n, armed := false } }
  let s2 := fset SERVO_STATE SERVO_STATE_SLOT n (wr SERVO_PHASE 0 s1)
  fsetB SERVO_STATE SERVO_STATE_TREND_ACTIVE false (fsetB SERVO_STATE SERVO_STATE_HO_FALLBACK false (servoGo 1 s2))

/-- Update period in ms (R347): of an NTS slot the poll interval in force (R339). -/
def updatePeriod (s : State) (n : Nat) : Nat :=
  if n = 17 then 100
  else if 9 ≤ n ∧ n ≤ 16 ∧ fget s (REFS_SLOT_INPUT n) REFS_SLOT_INPUT_SIGNAL = 2 then
    1000 * 2 ^ ntsPollLog s n
  else 1000

/-- Mean of a list of signed numbers, rounded. -/
def meanInt (xs : List Int) : Int := if xs.isEmpty then 0 else divRound xs.sum xs.length

/-- T_trk in 2^-16 ns (R353). -/
def trackPhi (s : State) : Nat := s.servo.phis.foldl max 0

/-- 2^-16 ns in fs, rounded up. -/
def fsOf16 (x : Nat) : Nat := (x * 1000000 + 65535) / 65536

/-- E_drift of a slot in fs (R353). -/
def driftErr (s : State) (n : Nat) : Nat :=
  let x := refSl s n
  let on := (rd s (REFS_SLOT_ONSET n)).toNat
  if on = 0 ∨ x.reQual then 0
  else if fbit s (REFS_SLOT_STATE n) REFS_SLOT_STATE_DRIFTING then
    (x.driftR.natAbs * (nowSec s - on) ^ 2 + 1999) / 2000
  else x.driftFs

/-- J in fs (R317, R353). -/
def jumpErr (s : State) : Nat :=
  if fbit s GNSS_STATUS GNSS_STATUS_JUMP ∧ fbit s GNSS_CTL GNSS_CTL_JUMP_BOUND then
    fsOf16 s.gnss.refD.natAbs + s.gnss.refBound * 1000000
  else 0

/-- Y_FREE in 10^-15 (R353). -/
def yFree (s : State) : Nat := fget s SERVO_OSC_NOISE SERVO_OSC_NOISE_Y_FREE

/-- The bound of R353 without J and its growth rate in ps/s. On a FREQ slot it grows from the bound at the switch, never below what the
hardware has grown it to. -/
def servoBound (s : State) : Nat × Nat :=
  let n := selected s
  if slotKind s n = 2 ∧ n < 8 then
    let r := (fget s SERVO_CFG SERVO_CFG_FREQ_UNC + yFree s + 999) / 1000
    let b := s.servo.freqB + (r * 1000 * (nowNs s - s.servo.freqAt) + 999999999) / 10 ^ 9
    (if tsuUnset s then b else max b s.tsu.freeFs, r)
  else
    (slotQ s n * 1000000 + fsOf16 (absorbOf s n).natAbs + fsOf16 (trackPhi s) + driftErr s n, (yFree s + 999) / 1000)

/-- While SET, write the bound computed (R353, R355). -/
def boundPut (s : State) : State :=
  if tsuUnset s then s
  else
    let b := servoBound s
    setBounds (max b.1 (jumpErr s)) b.1 b.2 s

/-- Compute the bound at an update, for B_L of R354 too, and write it. -/
def boundWrite (s : State) : State :=
  boundPut { s with servo := { s.servo with lastB := max (servoBound s).1 (jumpErr s) } }

/-- The bound of R353 is computed at least once per second, also between the polls of an NTS slot. -/
def boundSecond (s : State) : State :=
  if (servoSt s = 1 ∨ servoSt s = 2) ∧ selected s ≠ 31 ∧ !switching s then boundPut s else s

/-- Is the period CLEAN so far (R349)? -/
def cleanNow (s : State) : Bool :=
  let n := followed s
  servoSt s == 2 && !tsuUnset s && !fbit s (REFS_SLOT_STATE n) REFS_SLOT_STATE_WATCH
    && !fbit s (REFS_SLOT_STATE n) REFS_SLOT_STATE_DRIFTING && !fbit s (REFS_SLOT_STATE n) REFS_SLOT_STATE_JUMP

/-- A flag of the followed slot is set: the period is not CLEAN (R349). -/
def histTaint (n : Nat) (s : State) : State :=
  if followed s = n then { s with servo := { s.servo with accClean := false } } else s

/-- Note the integrator for the history (R349). -/
def histNote (s : State) : State :=
  { s with servo := { s.servo with accSum := s.servo.accSum + integY s, accN := s.servo.accN + 1,
                                   accClean := s.servo.accClean && cleanNow s } }

/-- The lock run of R345: `met` says that the update's φ or y meets the limit. -/
def lockRun (met : Bool) (lockTime : Nat) (s : State) : State :=
  if servoSt s ≠ 1 then s
  else if !met || s.tsu.slewRemain != 0 then { s with servo := { s.servo with runAt := 0 } }
  else if s.servo.runAt = 0 then { s with servo := { s.servo with runAt := gtNow s + 1 } }
  else if lockTime * gtSecond ≤ gtNow s + 1 - s.servo.runAt then servoGo 2 s
  else s

/-- LOCKED is left after three updates in a row beyond 4 × LOCK_PHASE (R345). -/
def lockFar (phi lim : Nat) (s : State) : State :=
  if servoSt s ≠ 2 then s
  else
    let f := if 4 * lim < phi then s.servo.far + 1 else 0
    let s1 : State := { s with servo := { s.servo with far := f } }
    if 3 ≤ f then servoGo 1 { s1 with servo := { s1.servo with phis := [] } } else s1

/-- Slew applied since an instant, in 2^-16 ns. -/
def slewSince (s : State) (t : Nat) : Int := divRound (slewBetween (gtNow s) t s.tsu.slews) (2 ^ 16)

/-- An update without a sample breaks the run only by a slew that runs (R345). -/
def lockRunIdle (s : State) : State :=
  if servoSt s = 1 ∧ s.tsu.slewRemain ≠ 0 then { s with servo := { s.servo with runAt := 0 } } else s

/-- y_k in 10^-15 (R346, R347): the frequency against the TSU of the samples accepted in the update, newest first; a slope is taken over
them and the accepted sample before them (DEDUCED, log entry 161). Zero where there is none before. -/
def updateY (s : State) (n : Nat) (fresh : List RefSample) : Int :=
  let nom := incNom s
  let tsu := divRound (((incNow s : Int) - nom) * 10 ^ 15) (max nom 1)
  let xs := fresh ++ ((refSl s n).accepted.drop fresh.length).take 1
  if slotKind s n = 2 then meanInt (fresh.map (·.x)) - tsu
  else match xs with
    | [] => 0
    | h :: _ =>
      let sl := lsSlope (xs.map (fun r => ((r.xo : Int) - h.xo, r.x - h.x)))
      if sl.2 ≤ 0 then 0 else divRound (sl.1 * 65536 * 10 ^ 15) sl.2.toNat - tsu

/-- One update of the servo (R346, R347, R348, R353, R356). -/
def servoUpdate (s : State) : State :=
  let n := selected s
  if n = 31 || switching s || servoSt s = 0 || servoSt s = 3 || servoSt s = 4 then s
  else
    let x := refSl s n
    let k := loopType s n
    let bw : Int := fget s (SERVO_BW k) SERVO_BW_BW
    let damp : Int := fget s SERVO_CFG SERVO_CFG_DAMP
    let tau : Int := updatePeriod s n
    let lockT := fget s (SERVO_BW k) SERVO_BW_LOCK_TIME
    let s0 := refSlSet n { x with fresh := [] } (bump (UC_SERVO 0) 1 s)
    match x.fresh with
    | [] => histNote (boundWrite (lockRunIdle s0))
    | f :: _ =>
      let s1 : State := { s0 with servo := { s0.servo with refTime := f.t } }
      if tsuUnset s || k = 2 then
        let y := updateY s n x.fresh
        let i := s.servo.integ + divRound (2 * piNum * bw * tau * y * 2 ^ 40) (piDen * 10 ^ 9)
        let s2 := setFreqAdj (divRound s.servo.integ (2 ^ 40)) { s1 with servo := { s1.servo with integ := i } }
        let s3 := if k = 2 then lockRun (decide (y.natAbs ≤ 10000)) lockT s2 else s2
        histNote (boundWrite s3)
      else
        let phi := meanInt (x.fresh.map (fun r => r.e - slewSince s r.t)) - absorbOf s n
        let u := divRound (s.servo.integ * piDen * 2 ^ 22 + phi * damp * bw * piNum * 2 ^ 40) (piDen * 2 ^ 62)
        let i := s.servo.integ + divRound (4 * piNum * piNum * bw * bw * phi * tau * 2 ^ 24) (piDen * piDen * 10 ^ 9)
        let lim := fget s (SERVO_BW k) SERVO_BW_LOCK_PHASE * 65536
        let s2 := setFreqAdj u { s1 with servo := { s1.servo with integ := i, phis := (phi.natAbs :: s1.servo.phis).take 64 } }
        let s3 := lockFar phi.natAbs lim (lockRun (decide (phi.natAbs ≤ lim)) lockT s2)
        let s4 := fset SERVO_PHASE SERVO_PHASE_TRACK (satF SERVO_PHASE_TRACK ((trackPhi s3 + 65535) / 65536))
          (fsetI SERVO_PHASE SERVO_PHASE_PHI (satI 48 phi) s3)
        histNote (boundWrite s4)

-- History --------------------------------------------------------------------------------------------------------

/-- Window address of entry `i` of the 10-s ring (k = 0) or the minute ring (k = 1). -/
def histAddr (s : State) (k i : Nat) : Nat :=
  0x30000000 + fget s SERVO_HIST SERVO_HIST_BASE + (if k = 0 then 0 else 11520) + 16 * i

/-- The 16 bytes of an entry (R349): a slot is followed in ACQUIRE and LOCKED alone (R344). -/
def histEntry (s : State) (y : Int) (clean : Bool) : List Byte :=
  leBytes 8 (nowSec s) ++ leBytes 5 (unsgn 40 y) ++ [BitVec.ofNat 8 (servoSt s),
    BitVec.ofNat 8 (if servoSt s = 1 ∨ servoSt s = 2 then followed s else 31), if clean then 1 else 0]

/-- Every 10 s: an entry of the 10-s ring, and with each sixth one an entry of the minute ring (R349). -/
def historyEntry (s : State) : State :=
  let v := s.servo
  let y := if v.accN = 0 then integY s else divRound v.accSum v.accN
  let clean := v.accClean && cleanNow s
  let h := fget s SERVO_HIST SERVO_HIST_HEAD10
  let s1 := fset SERVO_HIST SERVO_HIST_HEAD10 ((h + 1) % 720) (putMem (histAddr s 0 h) (histEntry s y clean) s)
  let n := v.minN + 1
  let sum := v.minSum + y
  let mc := (v.minClean || v.minN == 0) && clean
  let next : ServoState := { s1.servo with accSum := 0, accN := 0, accClean := cleanNow s }
  if n < 6 then { s1 with servo := { next with minN := n, minSum := sum, minClean := mc } }
  else
    let m := fget s1 SERVO_HIST SERVO_HIST_HEAD60
    let s2 := fset SERVO_HIST SERVO_HIST_HEAD60 ((m + 1) % 4320) (putMem (histAddr s1 1 m) (histEntry s (divRound sum 6) mc) s1)
    { s2 with servo := { next with minN := 0, minSum := 0, minClean := false } }

/-- CLEAN entries of a ring at or before `te`, newest first: SEC and Y. -/
def cleanEntries (s : State) (k len te : Nat) : List (Nat × Int) :=
  let h := if k = 0 then fget s SERVO_HIST SERVO_HIST_HEAD10 else fget s SERVO_HIST SERVO_HIST_HEAD60
  (List.range len).filterMap (fun i =>
    let a := histAddr s k ((h + len - 1 - i) % len)
    let sec := leNat (ldBytes s a 8)
    if (ldB s (a + 15)).getLsbD 0 ∧ sec ≤ te then some (sec, sgn 40 (leNat (ldBytes s (a + 8) 5))) else none)

-- Holdover -------------------------------------------------------------------------------------------------------

/-- Least integer whose square is at least `n`. -/
def ceilSqrt (n : Nat) : Nat := let r := Nat.sqrt n; if r * r = n then r else r + 1

/-- A fraction rounded to the nearest; zero where the denominator is not positive. -/
def ratRound (x : Int × Int) : Int := if x.2 ≤ 0 then 0 else divRound x.1 x.2.toNat

/-- Entry into HOLDOVER (R350 to R352). -/
def servoHoldover (s0 : State) : State :=
  let n := s0.servo.lastSel
  let s := slewCancel (absorbHold n s0)
  let tl := nowSec s
  let on := (rd s (REFS_SLOT_ONSET n)).toNat
  let te0 := tl - 60 * fget s SERVO_HO SERVO_HO_GUARD
  let te := if on = 0 then te0 else min te0 on
  let win := 60 * fget s SERVO_HO SERVO_HO_WINDOW
  let all := cleanEntries s 1 4320 te
  let inW := all.filter (fun x => te - win < x.1 ∨ te < win)
  let es := if inW.length < 10 then all.take 10 else inW
  let cnt := es.length
  let ysum := (es.map (·.2)).sum
  let yy := (es.map (fun x => x.2 * x.2)).sum
  let last10 := (cleanEntries s 0 720 te).head?
  let fb := decide (cnt = 0)
  let yBar := if fb then (match last10 with | some x => x.2 | none => integY s) else divRound ysum cnt
  let ns := nowNs s
  let tc2 := if fb then (match last10 with | some x => 2 * x.1 * 10 ^ 9 | none => 2 * ns)
    else 2 * 10 ^ 9 * (es.map (·.1)).sum / cnt - 60 * 10 ^ 9
  let y0 := if cnt ≤ 1 then yFree s
    else max (fget s SERVO_OSC_Y SERVO_OSC_Y_Y0_MIN)
      (ceilSqrt ((9 * ((cnt : Int) * yy - ysum * ysum)).toNat / (cnt * cnt * (cnt - 1))))
  let day := all.filter (fun x => te - 86400 < x.1 ∨ te < 86400)
  let trendOn := fbit s SERVO_CFG SERVO_CFG_HO_TREND && decide (720 ≤ day.length)
  let sl := lsSlope (day.map (fun x => ((x.1 : Int) - te, x.2)))
  let trend := if trendOn then ratRound (86400 * sl.1, sl.2) else 0
  let s1 : State := { s with servo := { s.servo with
    tLoss := ns, tc2 := tc2, yBar := yBar, y0 := y0, bL := s.servo.lastB, trend := trend, ySum := if fb then yBar else ysum,
    yCnt := if fb then 1 else cnt, trN := if trendOn ∧ 0 < sl.2 then sl.1 else 0, trD := if trendOn ∧ 0 < sl.2 then sl.2.toNat else 1,
    limitNs := fget s SERVO_HO SERVO_HO_LIMIT_NS } }
  let s2 := setFreqAdj yBar s1
  let s3 := fsetI SERVO_HO_VALUE SERVO_HO_VALUE_TREND (satI 24 trend) (fsetI SERVO_HO_VALUE SERVO_HO_VALUE_Y yBar s2)
  let s4 := fset SERVO_HO_INFO SERVO_HO_INFO_Y0 (satF SERVO_HO_INFO_Y0 y0) (fset SERVO_HO_INFO SERVO_HO_INFO_N cnt
    (fset SERVO_HO_INFO SERVO_HO_INFO_WIN_END te s3))
  let s5 := fsetB SERVO_STATE SERVO_STATE_TREND_ACTIVE trendOn (fsetB SERVO_STATE SERVO_STATE_HO_FALLBACK fb s4)
  servoGo 3 (if fb then occur EV_SERVO_HO_FALLBACK s5 else s5)

/-- No slot is selected any more: HOLDOVER from ACQUIRE or LOCKED (R333, R345). -/
def servoLost (s : State) : State := if servoSt s = 1 ∨ servoSt s = 2 then servoHoldover s else s

/-- The holdover bound in fs and its rate in ps/s, `dt` ns after the loss (R354), each rounded up once. -/
def holdoverBound (s : State) (dt : Nat) : Nat × Nat :=
  let v := s.servo
  let temp := fget s SERVO_OSC_Y SERVO_OSC_Y_TEMP_Y
  let age := if fbit s SERVO_STATE SERVO_STATE_TREND_ACTIVE then fget s SERVO_OSC_AGE SERVO_OSC_AGE_AGE_RES
    else fget s SERVO_OSC_AGE SERVO_OSC_AGE_AGE
  let rw := fget s SERVO_OSC_NOISE SERVO_OSC_NOISE_RW_H
  let d2 := 2 * v.tLoss - v.tc2
  let dt1 := dt + 10 ^ 9
  -- over the common denominators 172800 × 10^18 and 172800 × 10^9 each sum is rounded up once
  let b := (v.bL * (172800 * 10 ^ 18) + (v.y0 + temp) * dt * (172800 * 10 ^ 9) + age * (dt * dt + dt * d2)
    + ceilSqrt (rw * rw * dt ^ 3 * (172800 ^ 2 * 10 ^ 9)) + (172800 * 10 ^ 18 - 1)) / (172800 * 10 ^ 18)
  let r := ((v.y0 + temp) * (172800 * 10 ^ 9) + age * (2 * dt1 + d2) + ceilSqrt (9 * rw * rw * dt1 * (86400 ^ 2 * 10 ^ 9))
    + (172800 * 10 ^ 12 - 1)) / (172800 * 10 ^ 12)
  (b, r)

/-- The bound once per second in holdover (R345, R354), with LIMIT_NS as the holdover began (R350). While UNSET the bound reads 0xFFFF_FFFF
(R46). -/
def holdoverUpdate (s : State) : State :=
  if servoSt s ≠ 3 ∧ servoSt s ≠ 4 then s
  else
    let b := holdoverBound s (nowNs s - s.servo.tLoss)
    let s1 := if tsuUnset s then s else setBounds (max b.1 (jumpErr s)) b.1 b.2 s
    if servoSt s1 = 3 ∧ s1.servo.limitNs < boundNs s1 then servoGo 4 s1 else s1

/-- The trended holdover frequency every 10 s (R352): the value is rounded once. -/
def trendWrite (s : State) : State :=
  if (servoSt s = 3 ∨ servoSt s = 4) ∧ fbit s SERVO_STATE SERVO_STATE_TREND_ACTIVE then
    let v := s.servo
    setFreqAdj (divRound (v.ySum * (v.trD * (2 * 10 ^ 9) : Nat) + v.trN * (2 * (nowNs s : Int) - v.tc2) * v.yCnt) (v.yCnt * v.trD * (2 * 10 ^ 9))) s
  else s

/-- Range of SERVO_BWk.BW in µHz (R348); none where it is fixed. -/
def bwRange (k : Nat) : Option (Nat × Nat) :=
  match k with
  | 0 => some (100, 100000)
  | 1 => some (50, 10000)
  | 3 => some (1000, 100000)
  | _ => none

/-- Checks of a write to a servo register (R348). -/
def servoCheck (a : Nat) (v : Word) : Verdict :=
  if SERVO_BW 0 ≤ a ∧ a ≤ SERVO_BW 5 then
    match bwRange ((a - SERVO_BW 0) / 8) with
    | some (lo, hi) => if getF SERVO_BW_BW v < lo ∨ hi < getF SERVO_BW_BW v then vRange else .ok
    | none => .ok
  else .ok

/-- The effect of an accepted write to a servo register: a fixed BW keeps its value (R348). -/
def servoApply (a : Nat) (v : Word) (s : State) : Option State :=
  if SERVO_BW 0 ≤ a ∧ a ≤ SERVO_BW 5 ∧ (bwRange ((a - SERVO_BW 0) / 8)).isNone then
    some (wr a (setF SERVO_BW_BW (fget s a SERVO_BW_BW) v) s)
  else none

/-- SERVO_UPDATE (R347). -/
def execServoUpdate (s : State) : Res := run servoUpdate s

/-- HOLDOVER_BOUND_UPDATE (R354). -/
def execHoldoverBoundUpdate (s : State) : Res := run holdoverUpdate s

/-- HOLDOVER_TREND_WRITE (R352). -/
def execHoldoverTrendWrite (s : State) : Res := run trendWrite s

/-- SERVO_HISTORY_ENTRY (R349). -/
def execServoHistoryEntry (s : State) : Res := run historyEntry s

end Sys2Proof.Machine
end

