-- ==== Sys2Proof/Machine/Refs.lean ====
section
/-!
DEFINITION. Machine/Refs.lean: reference slots: samples and the jump test (R321, R322, R336, R337), monitors and slot states
(R323 to R327), slow drift (R328 to R330), selection (R331 to R333) and the switch (R334, R335).
-/
namespace Sys2Proof.Machine
open Sys2Proof

-- Slot state -----------------------------------------------------------------------------------------------------

/-- Is a slot's source there (R9, R321)? -/
def refPresent (s : State) (n : Nat) : Bool :=
  let x := refSl s n
  if n < 8 then x.tic < 8 && unitBit s.variant (24 + x.tic)
    && (slotKind s n == 0 || fget s (REFS_SLOT_INPUT n) REFS_SLOT_INPUT_NOMINAL != 0)
  else if n = 8 then unitBit s.variant 35
  else if n < 17 then x.bound && [1, 2].contains (fget s (REFS_SLOT_INPUT n) REFS_SLOT_INPUT_SIGNAL)
  else if n = 17 then fbit s PAIR_CFG PAIR_CFG_ENABLE
  else x.tic < 8 && unitBit s.variant (24 + x.tic) && fget s (REFS_SLOT_INPUT n) REFS_SLOT_INPUT_NOMINAL != 0

/-- Restart of a slot's fit from the samples given (R323); its frequency stays the one last measured. -/
def fitFrom (xs : List RefSample) (x : RefSlot) : RefSlot := { x with fit := xs }

/-- Slots that are QUALIFIED or SELECTED, as REFS_STATUS shows them. -/
def showQualified (s : State) : State :=
  fset REFS_STATUS REFS_STATUS_QUALIFIED
    ((List.range 20).foldl (fun a n => if slotSt s n = 3 ∨ slotSt s n = 4 then a + 2 ^ n else a) 0) s

/-- A slot changes its state (R326, R327, R343); REF8 stays ABSENT where the GNSS unit is (R9). -/
def slotGo (n st cause : Nat) (s : State) : State :=
  let old := slotSt s n
  if old = st ∨ (n = 8 ∧ !unitBit s.variant 35) then s
  else
    let s1 := fset (REFS_SLOT_STATE n) REFS_SLOT_STATE_CAUSE cause (fset (REFS_SLOT_STATE n) REFS_SLOT_STATE_STATE st s)
    let s2 := if old = 2 ∧ st = 3 then bump (UC_SLOT n 0) 1 s1 else if st = 5 then bump (UC_SLOT n 1) 1 s1 else s1
    cairnState 0x02 sevNotice n old st cause 0 (occur (EV_REFS_SLOT_STATE n) (showQualified s2))

/-- The run of refused samples ends (R336, R337). -/
def jumpClear (n : Nat) (s : State) : State :=
  fset (REFS_SLOT_STATE n) REFS_SLOT_STATE_JUMP_RUN 0 (fsetB (REFS_SLOT_STATE n) REFS_SLOT_STATE_JUMP false
    (refSlSet n { refSl s n with refused := [], jumpOut := false } s))

/-- A slot starts anew (R323, R336): of an earlier source it keeps the drift noted, whose onset stays until DRIFTING clears and the slot has
requalified (R328, R329). -/
def slotFresh (n : Nat) (s : State) : State :=
  let x := refSl s n
  let s1 := refSlSet n { refReset n with tic := x.tic, bound := x.bound, q := x.q, upDelay := x.upDelay, upStratum := x.upStratum,
                                         upRefId := x.upRefId, yBase := x.yBase, ys := x.ys, driftSince := x.driftSince,
                                         driftR := x.driftR, driftFs := x.driftFs, reQual := x.reQual, watchAt := x.watchAt } s
  fset (REFS_SLOT_STATE n) REFS_SLOT_STATE_TIMER_LEFT 0 (fsetB (REFS_SLOT_STATE n) REFS_SLOT_STATE_WATCH false (jumpClear n s1))

-- Selection ------------------------------------------------------------------------------------------------------

def slotPrio (s : State) (n : Nat) : Nat := fget s (REFS_SLOT_CFG n) REFS_SLOT_CFG_PRIORITY

/-- Rank order of R332. -/
def ranksAbove (s : State) (a b : Nat) : Bool :=
  if slotPrio s a ≠ slotPrio s b then decide (slotPrio s a < slotPrio s b)
  else if slotQ s a ≠ slotQ s b then decide (slotQ s a < slotQ s b) else decide (a < b)

/-- A revertive switch away from `c` may go to `a` (R331, R332). -/
def outranks (s : State) (a c : Nat) : Bool :=
  if slotPrio s a ≠ slotPrio s c then decide (slotPrio s a < slotPrio s c) else decide (2 * slotQ s a < slotQ s c)

/-- The best-ranked of a list of slots. -/
def bestSlot (s : State) (xs : List Nat) : Option Nat :=
  xs.foldl (fun b a => match b with | none => some a | some c => if ranksAbove s a c then some a else some c) none

/-- May a slot be selected? REF17 only in role SECOND (R389). -/
def selectable (s : State) (n : Nat) : Bool :=
  (slotSt s n == 3 || slotSt s n == 4) && (n != 17 || fget s PAIR_STATUS PAIR_STATUS_ROLE == 2)

/-- Slots that may be selected. -/
def qualified (s : State) : List Nat := (List.range 20).filter (fun n => selectable s n)

/-- The slot the mode selects now (R331). -/
def selectWant (s : State) : Option Nat :=
  let m := fget s REFS_CTL REFS_CTL_MODE
  let cur := selected s
  let ok := cur ≠ 31 ∧ slotSt s cur = 4 ∧ selectable s cur
  let f := fget s REFS_CTL REFS_CTL_FORCE_SLOT
  if fbit s PAIR_CFG PAIR_CFG_FOLLOW ∧ selectable s 17 then some 17
  else if m = 3 then none
  else if m = 2 then (if selectable s f then some f else none)
  else if ok ∧ m = 1 then some cur
  else if ok then
    match bestSlot s ((qualified s).filter (fun a => a ≠ cur ∧ outranks s a cur
        ∧ fget s REFS_CTL REFS_CTL_WTR ≤ nowSec s - (refSl s a).qualAt)) with
    | some a => some a
    | none => some cur
  else bestSlot s (qualified s)

/-- Selection is evaluated (R333); a switch begins with its steps 1 and 2 (R334). -/
def select (s : State) : State :=
  if switching s then s
  else
    let cur := selected s
    match selectWant s with
    | none =>
      let s1 := if cur ≠ 31 ∧ slotSt s cur = 4 then slotGo cur 3 0 s else s
      let s2 := if cur = 31 then s1 else
        fset REFS_STATUS REFS_STATUS_LAST_CAUSE (fget s (REFS_SLOT_STATE cur) REFS_SLOT_STATE_CAUSE)
          (fset REFS_STATUS REFS_STATUS_SELECTED 31 (absorbHold cur s1))
      setLevel EV_REFS_NONE true (servoLost s2)
    | some a =>
      if a = cur ∧ slotSt s a = 4 then s
      else
        let s1 := slewCancel (absorbHold s.servo.lastSel s)
        fsetB REFS_STATUS REFS_STATUS_SWITCHING true { s1 with servo := { s1.servo with target := some a } }

/-- A write of REFS_CTL that its rules accept (R333). -/
def refsCtl (v : Word) (s : State) : State :=
  if switching s then { s with servo := { s.servo with ctlWait := some v } }
  else
    let m := maskF REFS_CTL_MODE ||| maskF REFS_CTL_FORCE_SLOT ||| maskF REFS_CTL_WTR
    select (wr REFS_CTL (v &&& m) s)

/-- The absorbed offset A of a switch to a slot, in 2^-16 ns (R334, R346). -/
def absorbedOffset (s : State) (n : Nat) : Int :=
  if tsuUnset s ∨ slotKind s n = 2 then 0
  else
    let y := slotYTsu s n
    let now := gtNow s
    let xs := (refSl s n).accepted.filter (fun r => now < r.t + freqWin n * gtSecond)
    meanInt (xs.map (fun r => r.e + divRound (y * ((now : Int) - r.t)) (2 ^ 16 * 10 ^ 15)))

/-- A slot that is no longer the last selected one accepts its first sample after an activity loss (R336). -/
def dropLost (n : Nat) (s : State) : State :=
  if (refSl s n).act then s else refSlSet n { refSl s n with p := none } s

/-- Steps 3 to 6 of R334 on a slot: absorb, follow, pull in. -/
def switchTo (n : Nat) (s : State) : State :=
  let a := absorbedOffset s n
  let x := refSl s n
  let old := s.servo.lastSel
  let s0 := if old = 31 then s else wr (REFS_SLOT_ABSORB old) 0 (if old = n then s else dropLost old s)
  let s1 := servoFollow n (wr (REFS_SLOT_ABSORB n) (BitVec.ofInt 64 a) s0)
  let slew := slotKind s n ≠ 2 ∧ !tsuUnset s ∧ (fbit s (REFS_SLOT_CFG n) REFS_SLOT_CFG_PULLIN ∨ x.mustSlew) ∧ a ≠ 0
  let s2 := refSlSet n { refSl s1 n with mustSlew := false, fresh := [] } s1
  if slew then slewAdd a { s2 with servo := { s2.servo with pulling := true } }
  else { s2 with servo := { s2.servo with pulling := false } }

/-- Step 6 of R334: the switch from `last` to `n` is raised, counted and logged with A and its cause. -/
def switchNote (last n cause : Nat) (a : Int) (s : State) : State :=
  let s1 := fset REFS_STATUS REFS_STATUS_SWITCHES (fget s REFS_STATUS REFS_STATUS_SWITCHES + 1) s
  cairnState 0x02 sevNotice n last n cause (unsgn 64 a) (occur EV_REFS_SWITCH (bump UC_REFS_SWITCHES 1 s1))

/-- A switch ends (R334, R335). -/
def switchEnd (s : State) : State :=
  match s.servo.target with
  | none => s
  | some n =>
    if !switching s then s
    else
      let old := selected s
      let last := if old = 31 then s.servo.lastSel else old
      let a := absorbedOffset s n
      let cause := if last = 31 then 0 else fget s (REFS_SLOT_STATE last) REFS_SLOT_STATE_CAUSE
      let s1 := if old ≠ 31 ∧ old ≠ n ∧ slotSt s old = 4 then slotGo old 3 0 s else s
      let s2 := switchTo n s1
      let s3 := if slotSt s2 n = 3 then slotGo n 4 0 s2 else s2
      let s4 := fset REFS_STATUS REFS_STATUS_LAST_CAUSE (if old = 31 then fget s3 REFS_STATUS REFS_STATUS_LAST_CAUSE else cause)
        (fset REFS_STATUS REFS_STATUS_SELECTED n (fsetB REFS_STATUS REFS_STATUS_SWITCHING false s3))
      let s5 := switchNote last n cause a (setLevel EV_REFS_NONE false s4)
      let s7 : State := { s5 with servo := { s5.servo with target := none, ctlWait := none } }
      match s.servo.ctlWait with
      | some v => refsCtl v s7
      | none => select s7

-- Samples --------------------------------------------------------------------------------------------------------

/-- XO time of a TSU instant a short while ago, in 2^-32 ns, by the rate in force. -/
def xoAt (s : State) (t : Nat) : Nat :=
  let d : Int := (gtNow s : Int) - t
  (((s.tsu.xo / 2 ^ 16 : Nat) : Int) - divRound (d * incNom s) (max (incNow s) 1)).toNat

/-- Reduce an offset (2^-16 ns) of a pulse or frame of `f` per second into one period (R322). -/
def reduceOff (f : Nat) (e : Int) : Int :=
  let p : Int := 1000000000 * 65536
  let r := (e * f) % p
  divRound (if p < 2 * r then r - p else r) (max f 1)

/-- OFFSET of a slot in 2^-16 ns (R322). -/
def calOffset (s : State) (n : Nat) : Int := divRound (fint s (REFS_SLOT_OFFSET n) REFS_SLOT_OFFSET_OFFSET * 65536) 1000

/-- The offset of a sample with OFFSET, reduced by kind (R322). -/
def sampleOffset (s : State) (n : Nat) (off : Int) : Int :=
  let e := off + calOffset s n
  match slotKind s n with
  | 0 => reduceOff 1 e
  | 1 => reduceOff (fget s (REFS_SLOT_INPUT n) REFS_SLOT_INPUT_NOMINAL) e
  | _ => e

/-- The prediction p for a sample at `t` (R336, R337): the frozen p of a jump disqualification; the servo's for the selected slot and, in
holdover, for the slot last selected, unless a jump was accepted on it that no switch has pulled in; else the last accepted offset carried
forward. None: the sample is accepted and sets p. -/
def prediction (s : State) (n t : Nat) : Option Int :=
  match (refSl s n).p with
  | none => none
  | some r =>
    if (refSl s n).jumpOut then some (refSl s n).frozen
    else if n = s.servo.lastSel ∧ (selected s = n ∨ selected s = 31) ∧ !(refSl s n).mustSlew then
      some (absorbOf s n + slewSince s t + fint s SERVO_PHASE SERVO_PHASE_PHI)
    else some (r.e + divRound (slotYTsu s n * ((t : Int) - r.t)) (2 ^ 16 * 10 ^ 15))

/-- The acceptance window W in ns for a sample of bound `q` (R316, R336): of a GNSS solution at `t` with the bound at its second, into which
no J of an earlier refusal enters (DEDUCED from the table of R317, log entry 159). -/
def jumpWindow (s : State) (n t q : Nat) : Nat :=
  let l := fget s (REFS_SLOT_JUMP n) REFS_SLOT_JUMP_LIMIT
  if n = 8 then max l ((if s.tsu.secAt = gtSec t then s.tsu.secErr else freeNs s) + q)
  else if n = s.servo.lastSel ∧ selected s = 31 then max l (boundNs s + q) else l

/-- Does a sample pass (R316, R336)? -/
def sampleFits (s : State) (n t : Nat) (e : Int) (q : Nat) : Bool :=
  tsuUnset s || match prediction s n t with
    | none => true
    | some p => decide ((e - p).natAbs ≤ jumpWindow s n t q * 65536)

/-- Samples of a list within `w` seconds of XO time of the newest. -/
def within (w xo : Nat) (xs : List RefSample) : List RefSample := xs.filter (fun r => xo < r.xo + w * gtSecond)

/-- The armed set is the servo's: no other ARM replaces it (R51). -/
def servoArmed (s : State) : State := { s with tsu := { s.tsu with armFab := false } }

/-- An ARM of the present FAB cycle gives way to the servo's (R51): it is ignored, with its Cairn entry. -/
def armGivesWay (s : State) : State :=
  if fbit s TSU_STATE TSU_STATE_SET_ARMED then
    writeIgnored TSU_SET_CTL (setF TSU_SET_CTL_PIN s.tsu.setPin (setF TSU_SET_CTL_EDGE (if s.tsu.setRefin then 1 else 0) (setF TSU_SET_CTL_ARM 1 0))) 1 s
  else s

/-- The servo arms the initial set on the selected slot's first accepted sample (R346). A set armed before stands, unless its ARM came in
the same FAB cycle (R51). -/
def armFirstSet (n : Nat) (r : RefSample) (s : State) : State :=
  if !tsuUnset s || s.servo.armed || selected s != n || slotKind s n != 3 || switching s
      || (fbit s TSU_STATE TSU_STATE_SET_ARMED && !s.tsu.armFab) then s
  else
    let s0 := armGivesWay s
    let s1 : State := { s0 with servo := { s0.servo with armed := true } }
    servoArmed (occur EV_SERVO_SET_ARM (
      if 18 ≤ n then
        let sec := (((r.t : Int) + r.e * 2 ^ 16 + (gtSecond / 2 : Nat)) / (gtSecond : Int) + 1).toNat
        setArm (sec * gtSecond) (fget s (REFS_SLOT_CFG n) REFS_SLOT_CFG_QUALITY_NS) true (fget s (REFS_SLOT_INPUT n) REFS_SLOT_INPUT_PORT) s1
      else
        let s2 := setArm 0 (slotQ s n) false 0 s1
        { s2 with tsu := { s2.tsu with setOff := some (r.e, slotYTsu s n, r.t) } }))

/-- An accepted sample (R336, R347). -/
def refAccept (n : Nat) (r : RefSample) (s : State) : State :=
  let x0 := refSl s n
  let x := if x0.refused.isEmpty then { x0 with fit := within (freqWin n) r.xo (r :: x0.fit) } else fitFrom [r] x0
  let s1 := jumpClear n (refSlSet n { x with accepted := within (freqWin n) r.xo (r :: x0.accepted), p := some r } s)
  if switching s ∧ (s.servo.target = some n ∨ selected s = n) then bump (UC_SERVO 3) 1 s1
  else if selected s = n then
    let s2 := refSlSet n { refSl s1 n with fresh := r :: (refSl s1 n).fresh } s1
    armFirstSet n r { s2 with servo := { s2.servo with rootDelay := slotRootDelay s n } }
  else s1

/-- A refused sample (R336): true when the persistence limit is reached (R337). -/
def refRefuse (n : Nat) (r : RefSample) (s : State) : State :=
  let x := refSl s n
  let run := r :: x.refused
  let x1 := if x.refused.isEmpty then fitFrom [r] x else { x with fit := within (freqWin n) r.xo (r :: x.fit) }
  let s1 := refSlSet n { x1 with refused := run } s
  let s2 := fset (REFS_SLOT_STATE n) REFS_SLOT_STATE_JUMP_RUN (min run.length 255)
    (histTaint n (fsetB (REFS_SLOT_STATE n) REFS_SLOT_STATE_JUMP true s1))
  let s3 := raiseOnce EV_REFS_JUMP (bump (UC_SLOT n 2) 1 s2)
  if n ≠ 8 ∧ fget s (REFS_SLOT_JUMP n) REFS_SLOT_JUMP_CONFIRM ≤ run.length then
    let s4 := refSlSet n { refSl s3 n with jumpOut := true, frozen := (prediction s n r.t).getD 0 } s3
    if slotSt s n = 3 ∨ slotSt s n = 4 then select (slotGo n 5 5 s4) else s4
  else s3

/-- A slot has activity (R321). -/
def refActive (n : Nat) (s : State) : State :=
  refSlSet n { refSl s n with act := true, misses := 0, lastAt := gtNow s } s

/-- An edge of a pin slot, or the labelled pulse of a composite, came at `t` (R321, R340). -/
def refEdgeAt (n t : Nat) (s : State) : State :=
  if (n < 8 ∧ slotKind s n ≠ 2) ∨ 18 ≤ n then refSlSet n { refSl s n with lastAt := t, msgAt := gtNow s } s else s

/-- A sample reaches its slot (R321, R322, R336): instant and XO time of the sample in 2^-32 ns; reference − TSU in 2^-16 ns,
or for a FREQ slot N/τ of its gate as y in 10^-15; its bound or accuracy and half round trip in ns; from before the set edge. -/
def refSample (n t xo : Nat) (off : Int) (q rtt : Nat) (old : Bool) (s : State) : State :=
  if slotSt s n < 2 then s
  else
    let s0 := refActive n s
    let s1 := if old then s0 else refEdgeAt n t s0
    if old then s1
    else if slotKind s n = 2 then
      let r : RefSample := { xo := xo, x := off, e := 0, t := t }
      let x := refSl s1 n
      let s2 := refSlSet n { x with fit := [r], accepted := [r], p := some r } s1
      if switching s ∧ (s.servo.target = some n ∨ selected s = n) then bump (UC_SERVO 3) 1 s2
      else if selected s = n then refSlSet n { refSl s2 n with fresh := r :: x.fresh } s2
      else s2
    else
      let e := sampleOffset s n off
      let r : RefSample := { xo := xo, x := e + ((t : Int) - xo) / 2 ^ 16, e := e, t := t }
      if sampleFits s n t e q then refAccept n r (refSlSet n { refSl s1 n with q := q, rtt := rtt } s1) else refRefuse n r s1

/-- Nominal period of a slot's edges in 2^-32 ns: 1 s but for a FRAME signal (R321). -/
def edgePeriod (s : State) (n : Nat) : Nat :=
  if n < 8 ∧ slotKind s n = 1 then gtSecond / max 1 (fget s (REFS_SLOT_INPUT n) REFS_SLOT_INPUT_NOMINAL) else gtSecond

/-- Are so many consecutive expected edges missing as ACT_MISS says: half a period after the last of them none has come (R321)? -/
def edgesMissing (s : State) (n : Nat) : Bool :=
  decide (2 * (refSl s n).lastAt + (2 * fget s (REFS_SLOT_PLIM n) REFS_SLOT_PLIM_ACT_MISS + 1) * edgePeriod s n ≤ 2 * gtNow s)

/-- Has a slot lost its activity by the rule of its kind (R321, R388)? A FREQ signal's edges and an upstream are watched where they come in: there
the loss itself is the command. -/
def refSilent (s : State) (n : Nat) : Bool :=
  if n < 8 ∧ slotKind s n ≠ 2 then edgesMissing s n
  else if n = 8 then !fbit s GNSS_STATUS GNSS_STATUS_SOL_VALID
  else if n = 17 then decide ((refSl s n).lastAt + ns32 10000000 ≤ gtNow s)
  else if 18 ≤ n then edgesMissing s n || decide ((refSl s n).msgAt + 3 * gtSecond ≤ gtNow s)
  else true

/-- Activity lost (R321, R323, R326, R336). -/
def refActLoss (n : Nat) (s : State) : State :=
  if slotSt s n < 2 then s
  else
    let x := refSl s n
    let y := fitFrom [] { x with act := false, good := 0, p := if n = s.servo.lastSel then x.p else none }
    let s1 := refSlSet n y (if x.act then bump (UC_SLOT n 3) 1 s else s)
    if slotSt s n = 3 ∨ slotSt s n = 4 then select (slotGo n 5 1 s1) else s1

/-- A reference change of a packet slot (R338). -/
def refChange (n : Nat) (s : State) : State :=
  if slotSt s n < 2 then s
  else
    let s1 := jumpClear n (refSlSet n (fitFrom [] { refSl s n with p := none, good := 0, accepted := [], fresh := [] }) s)
    if slotSt s n = 3 ∨ slotSt s n = 4 then select (slotGo n 2 6 s1) else s1

-- Monitors -------------------------------------------------------------------------------------------------------

/-- y (10^-15) and the largest absolute residual of a least-squares fit of phase against XO time (R323), the residual in whole
ns rounded up, as the limits compare it, and to nearest, as MEAS shows it. -/
def fitOf (xs : List RefSample) : Int × Nat × Nat :=
  match xs with
  | [] => (0, 0, 0)
  | h :: _ =>
    let ps : List (Int × Int) := xs.map (fun r => ((r.xo : Int) - h.xo, r.x - h.x))
    let sl := lsSlope ps
    if sl.2 ≤ 0 then (0, 0, 0)
    else
      let n : Int := ps.length
      let sx := (ps.map (·.1)).sum
      let sy := (ps.map (·.2)).sum
      let res := ps.foldl (fun m p => max m ((n * sl.2 * p.2 - sl.2 * sy - sl.1 * (n * p.1 - sx)).natAbs)) 0
      let den := (n * sl.2).toNat * 65536
      (divRound (sl.1 * 65536 * 10 ^ 15) sl.2.toNat, (res + den - 1) / den, (2 * res + den) / (2 * den))

/-- What the monitors found: within WATCH, within ACCEPT, frequency within REJECT, phase within REJECT, monitor beyond WATCH. -/
structure Mon where
  watch : Bool
  accept : Bool
  freqIn : Bool
  phaseIn : Bool
  code : Nat
  deriving DecidableEq, Repr

/-- Compare with the limits (R323, R324). -/
def monitor (s : State) (n : Nat) (y : Int) (res : Nat) : Mon :=
  let f := REFS_SLOT_FLIM n
  let p := REFS_SLOT_PLIM n
  let a := y.natAbs
  let fw := decide (a ≤ fget s f REFS_SLOT_FLIM_WATCH * 1000000)
  let pw := decide (res ≤ fget s p REFS_SLOT_PLIM_WATCH)
  { watch := fw && pw
    accept := decide (a ≤ fget s f REFS_SLOT_FLIM_ACCEPT * 1000000) && decide (res ≤ fget s p REFS_SLOT_PLIM_ACCEPT)
    freqIn := decide (a ≤ fget s f REFS_SLOT_FLIM_REJECT * 1000000)
    phaseIn := decide (res ≤ fget s p REFS_SLOT_PLIM_REJECT)
    code := if fw then 2 else 1 }

/-- The WATCH flag follows the monitors (R325, R329). -/
def watchFlag (n : Nat) (m : Mon) (s : State) : State :=
  let f := fbit s (REFS_SLOT_STATE n) REFS_SLOT_STATE_WATCH
  if m.watch then fsetB (REFS_SLOT_STATE n) REFS_SLOT_STATE_WATCH false s
  else
    let x := refSl s n
    let s1 := histTaint n (refSlSet n { x with watchAt := if x.watchAt = 0 then nowSec s else x.watchAt } s)
    if f then s1
    else cairnFault 0x02 sevNotice 0x01 (leBytes 4 n ++ leBytes 4 m.code ++ leBytes 8 (rd s (REFS_SLOT_MEAS n)).toNat)
      (occur EV_REFS_WATCH (fsetB (REFS_SLOT_STATE n) REFS_SLOT_STATE_WATCH true s1))

/-- Start or clear of a persistence: instant since which a condition holds, in ms; 0 not. -/
def since (c : Bool) (old nowMs : Nat) : Nat := if c then (if old = 0 then nowMs else old) else 0

/-- The device time in ms. -/
def nowMs (s : State) : Nat := gtNow s / (10 ^ 6 * 2 ^ 32)

/-- A persistent condition disqualifies a QUALIFIED or SELECTED slot after DISQ_TIME (R326): state without the selection. -/
def disqualify (n : Nat) (s : State) : State :=
  let x := refSl s n
  let d := fget s (REFS_SLOT_FLIM n) REFS_SLOT_FLIM_DISQ_TIME
  let late := fun (a : Nat) => a ≠ 0 ∧ a + d ≤ nowMs s
  if slotSt s n ≠ 3 ∧ slotSt s n ≠ 4 then s
  else if late x.rejFreq then slotGo n 5 2 s
  else if late x.rejPhase then slotGo n 5 3 s
  else if late x.driftPre then slotGo n 5 4 s
  else s

/-- The state machine of one slot at an update (R326, R327, R329). -/
def slotMachine (n : Nat) (m : Mon) (s : State) : State :=
  let x := refSl s n
  let cfg := REFS_SLOT_CFG n
  let drift := fbit s (REFS_SLOT_STATE n) REFS_SLOT_STATE_DRIFTING
  let qt := fget s cfg REFS_SLOT_CFG_QUAL_TIME
  let timer := fun (v : Nat) (a : State) => fset (REFS_SLOT_STATE n) REFS_SLOT_STATE_TIMER_LEFT (min v 65535) a
  let st := slotSt s n
  if st = 2 then
    let g := if x.act && m.accept then x.good + 1 else 0
    let s1 := timer (qt - g) (refSlSet n { x with good := g, rejFreq := 0, rejPhase := 0, driftPre := 0 } s)
    if qt ≤ g ∧ 0 < g ∧ !fbit s (REFS_SLOT_STATE n) REFS_SLOT_STATE_JUMP then
      let s2 := refSlSet n { refSl s1 n with qualAt := nowSec s, driftFs := 0, reQual := true } s1
      slotGo n 3 0 (if drift then s2 else wr (REFS_SLOT_ONSET n) 0 s2)
    else s1
  else if st = 3 ∨ st = 4 then
    let ms := nowMs s
    let s1 := refSlSet n { x with rejFreq := since (!m.freqIn) x.rejFreq ms, rejPhase := since (!m.phaseIn) x.rejPhase ms,
                                  driftPre := since (drift && fbit s cfg REFS_SLOT_CFG_DRIFT_PREEMPT) x.driftPre ms } s
    let left := if st = 3 then fget s REFS_CTL REFS_CTL_WTR - (nowSec s - x.qualAt) else 0
    disqualify n (timer left s1)
  else if st = 5 then
    if x.act ∧ m.accept ∧ !x.jumpOut then
      slotGo n 2 0 (refSlSet n { x with good := 0 } s)
    else s
  else s

/-- A slot follows the presence of its source (R321, R326). -/
def presence (n : Nat) (s : State) : State :=
  let st := slotSt s n
  if st = 0 then s
  else if refPresent s n then (if st = 1 then slotGo n 2 0 (slotFresh n s) else s)
  else if st = 1 then s else slotGo n 1 0 (slotFresh n s)

/-- The update of one slot on a TSU second (R323, R325, R328). -/
def slotUpdate (n : Nat) (s0 : State) : State :=
  let s := presence n s0
  if slotSt s n < 2 then s
  else
    let x := refSl s n
    let fit := within (freqWin n) (s.tsu.xo / 2 ^ 16) x.fit
    let free := decide (slotKind s n = 2)
    let yr : Option (Int × Nat × Nat) :=
      if free then (match x.fit with | r :: _ => some (r.x, 0, 0) | [] => none)
      else if fit.length < 3 then none else some (fitOf fit)
    match yr with
    | none => slotMachine n { watch := true, accept := true, freqIn := true, phaseIn := true, code := 0 }
        (watchFlag n { watch := true, accept := true, freqIn := true, phaseIn := true, code := 0 }
          (fset (REFS_SLOT_STATE n) REFS_SLOT_STATE_QUALITY (satF REFS_SLOT_STATE_QUALITY (slotQ s n)) (refSlSet n { x with fit := if free then x.fit else fit } s)))
    | some (y, res, shown) =>
      let m := monitor s n y res
      let s1 := fset (REFS_SLOT_MEAS n) REFS_SLOT_MEAS_PHASE (satF REFS_SLOT_MEAS_PHASE shown)
        (fsetI (REFS_SLOT_MEAS n) REFS_SLOT_MEAS_FREQ (satI 40 y) s)
      let s2 := fset (REFS_SLOT_STATE n) REFS_SLOT_STATE_QUALITY (satF REFS_SLOT_STATE_QUALITY (slotQ s n)) s1
      let frozen := !m.watch || fbit s (REFS_SLOT_STATE n) REFS_SLOT_STATE_DRIFTING
      let yb := match x.yBase with
        | none => if frozen then none else some (y * 1000)
        | some b => if frozen then some b else some (b + divRound (y * 1000 - b) 86400)
      let win := fget s (REFS_SLOT_DRIFT n) REFS_SLOT_DRIFT_WIN
      let s3 := refSlSet n { x with fit := if free then x.fit else fit, y := some y, yBase := yb,
                                    ys := ((nowSec s, y) :: x.ys).filter (fun p => nowSec s < p.1 + win) } s2
      slotMachine n m (watchFlag n m s3)

/-- On every TSU second the monitors of every slot update, the changes reach the selector together (R323, R327), and the bound is computed
(R353; that this is done together is a DESIGN CHOICE, log entry 162). -/
def monitorUpdate (s : State) : State :=
  let t := forEach (List.range 20) slotUpdate s
  boundSecond (if (List.range 20).any (fun n => slotSt t n ≠ slotSt s n) then select t else t)

/-- DISQ_TIME of a slot expires (R326). -/
def disqExpiry (n : Nat) (s : State) : State :=
  let t := disqualify n s
  if slotSt t n ≠ slotSt s n then select t else s

-- Drift ----------------------------------------------------------------------------------------------------------

/-- The drift estimator of one slot (R328, R329). -/
def driftSlot (n : Nat) (s : State) : State :=
  let x := refSl s n
  let now := nowSec s
  let rate := fget s (REFS_SLOT_DRIFT n) REFS_SLOT_DRIFT_RATE
  let hold := fget s (REFS_SLOT_DRIFT n) REFS_SLOT_DRIFT_HOLD
  let win := fget s (REFS_SLOT_DRIFT n) REFS_SLOT_DRIFT_WIN
  let ps : List (Int × Int) := (x.ys.filter (fun p => now < p.1 + win)).map (fun p => ((p.1 : Int) - now, p.2))
  let sl := lsSlope ps
  if slotSt s n < 2 ∨ ps.length < 3 ∨ sl.2 ≤ 0 then s
  else
    let den := sl.2.toNat
    let mag := sl.1.natAbs
    let flag := fbit s (REFS_SLOT_STATE n) REFS_SLOT_STATE_DRIFTING
    let begun := if rate * den ≤ mag then (if x.driftSince = 0 then now else x.driftSince) else 0
    let s1 := refSlSet n { x with driftSince := begun } s
    if flag then
      if 2 * mag < rate * den then
        let e := driftErr s n
        let s2 := fsetB (REFS_SLOT_STATE n) REFS_SLOT_STATE_DRIFTING false
          (refSlSet n { x with driftSince := begun, driftFs := e, watchAt := 0, driftPre := 0 } s)
        if x.reQual then wr (REFS_SLOT_ONSET n) 0 s2 else s2
      else s1
    else if begun ≠ 0 ∧ hold ≤ now - begun ∧ 0 < mag then
      let len : Int := ps.length
      let sx := (ps.map (·.1)).sum
      let sy := (ps.map (·.2)).sum
      -- y_now − y_base over r, in s: (sy·den − num·sx)/(len·den) − y_base, divided by num/den
      let yb := x.yBase.getD 0
      let num := (sy * den - sl.1 * sx) * 1000 - yb * (len * den)
      let back := divRound (num * (if sl.1 < 0 then -1 else 1)) (len.toNat * 1000 * mag)
      let lo : Int := (now : Int) - 86400
      let hi : Int := if x.watchAt = 0 then now else x.watchAt
      let on : Int := max lo (min hi ((now : Int) - back))
      let s2 := refSlSet n { x with driftSince := begun, driftR := divRound (sl.1 * 1000) den, reQual := false,
                                    driftPre := if fbit s (REFS_SLOT_CFG n) REFS_SLOT_CFG_DRIFT_PREEMPT then nowMs s else 0 } s
      let s3 := wr (REFS_SLOT_ONSET n) (BitVec.ofNat 64 on.toNat) (histTaint n (fsetB (REFS_SLOT_STATE n) REFS_SLOT_STATE_DRIFTING true s2))
      cairnFault 0x02 sevWarning 0x02 (leBytes 4 n ++ zeros 4 ++ leBytes 8 on.toNat) (occur EV_REFS_DRIFTING s3)
    else s1

/-- Every 10 s: the drift estimators (R328). -/
def driftEstimate (s : State) : State := forEach (List.range 20) driftSlot s

-- Commands -------------------------------------------------------------------------------------------------------

/-- A refused jump is accepted (R337). -/
def acceptJump (n : Nat) (s : State) : State :=
  let x := refSl s n
  match x.refused with
  | [] => jumpClear n s
  | r :: _ => jumpClear n (refSlSet n { x with accepted := x.refused, p := some r, mustSlew := true } s)

/-- LOCKOUT of a slot (R326, R341). -/
def lockout (n : Nat) (s : State) : State := select (slotGo n 6 7 s)

/-- UNLOCK of a slot (R326, R336). -/
def unlock (n : Nat) (s : State) : State := select (slotGo n 2 0 (slotFresh n s))

/-- ENABLE of a slot changes (R326). -/
def slotEnable (n : Nat) (on : Bool) (s : State) : State :=
  if on then (if slotSt s n ≠ 0 then s else select (slotGo n (if refPresent s n then 2 else 1) 0 (slotFresh n s)))
  else if slotSt s n = 0 then s else select (slotGo n 0 8 (slotFresh n s))

/-- On the set edge (R323, R334, R336, R346, R356) every p and fit restarts, and a selected slot that did not arm the set runs
steps 3 to 6 of the switch with its offset after the set. `d` is what the set added to the TSU, in 2^-32 ns. -/
def refsSetEdge (armedBySlot : Bool) (d : Int) (s : State) : State :=
  let s1 := forEach (List.range 20) (fun n a =>
    let x := refSl a n
    let moved := x.accepted.map (fun r => { r with e := sampleOffset a n (r.e - d / 2 ^ 16 - calOffset a n), t := ((r.t : Int) + d).toNat })
    jumpClear n (refSlSet n (fitFrom [] { x with p := none, accepted := moved, fresh := [] }) a)) s
  let s2 : State := { s1 with servo := { s1.servo with refTime := 0, phis := [] } }
  let n := selected s2
  let s3 := if n = 31 ∨ switching s2 ∨ armedBySlot then s2
    else switchNote n n 0 (absorbedOffset s2 n) (switchTo n s2)
  forEach (List.range 20) (fun n a => refSlSet n { refSl a n with accepted := [] } a) s3

/-- Slot and offset of an address of a slot block. -/
def refsAddr (a : Nat) : Option (Nat × Nat) :=
  if 0x21000 ≤ a ∧ a < 0x22400 then some ((a - 0x21000) / 0x100, a % 0x100) else none

/-- Checks of a write to a REFS register (R324, R333, R341, the field ranges apart). -/
def refsCheck (a : Nat) (v : Word) (s : State) : Verdict :=
  if a = REFS_CTL then
    if getF REFS_CTL_MODE v = 2 ∧ 19 < getF REFS_CTL_FORCE_SLOT v then vRange else .ok
  else if a = REFS_CMD then
    let n := getF REFS_CMD_SLOT v
    let st := slotSt s n
    let aj := getF REFS_CMD_ACCEPT_JUMP v ≠ 0
    let lo := getF REFS_CMD_LOCKOUT v ≠ 0
    let un := getF REFS_CMD_UNLOCK v ≠ 0
    if !aj ∧ !lo ∧ !un then .ok
    else if 19 < n then vRange
    else if aj ∧ !fbit s (REFS_SLOT_STATE n) REFS_SLOT_STATE_JUMP then vState 0xF
    else if lo ∧ (st = 0 ∨ st = 1) then vState 0x10
    else if un ∧ st ≠ 6 then vState 0x10
    else .ok
  else match refsAddr a with
  | some (n, o) =>
    if 20 ≤ n then .ok
    else if o = 0x08 then
      if (n < 8 ∨ (9 ≤ n ∧ n ≤ 16)) ∧ getF REFS_SLOT_INPUT_SIGNAL v = 3 then vRange
      else if 18 ≤ n ∧ (getF REFS_SLOT_INPUT_INSTANCE v = 3 ∨ getF REFS_SLOT_INPUT_NOMINAL v < 4800
          ∨ 115200 < getF REFS_SLOT_INPUT_NOMINAL v) then vRange
      else .ok
    else if o = 0x10 then
      if getF REFS_SLOT_FLIM_WATCH v ≤ getF REFS_SLOT_FLIM_ACCEPT v ∧ getF REFS_SLOT_FLIM_ACCEPT v ≤ getF REFS_SLOT_FLIM_REJECT v then .ok
      else vRange
    else if o = 0x18 then
      if getF REFS_SLOT_PLIM_WATCH v ≤ getF REFS_SLOT_PLIM_ACCEPT v ∧ getF REFS_SLOT_PLIM_ACCEPT v ≤ getF REFS_SLOT_PLIM_REJECT v then .ok
      else vRange
    else .ok
  | none => .ok

/-- The effect of an accepted write of REFS_CTL or of a slot's CFG; `stored` is the state with the plain fields stored. Slots
are enabled from stage S8 TIME on (R424). -/
def refsApply (a : Nat) (v : Word) (s stored : State) : Option State :=
  if fget s SYS_START_STATUS SYS_START_STATUS_STAGE < 8 then none
  else if a = REFS_CTL then some (refsCtl v s)
  else match refsAddr a with
  | some (n, o) => if n < 20 ∧ o = 0 then some (slotEnable n (decide (getF REFS_SLOT_CFG_ENABLE v ≠ 0)) stored) else none
  | none => none

/-- What ABSORB and KIND read (R334, REFS_SLOTn_CFG). -/
def refsView (s : State) (a : Nat) : Option Word :=
  match refsAddr a with
  | some (n, o) =>
    if 20 ≤ n then none
    else if o = 0x40 then some (BitVec.ofInt 64 (absorbOf s n))
    else if o = 0 then some (setF REFS_SLOT_CFG_KIND (slotKind s n) (rd s a))
    else none
  | none => none

/-- REF_SAMPLE (R336): a sample of a slot other than REF8, whose samples are GNSS solutions. -/
def execRefSample (slot t xo : Nat) (off : Int) (q rtt : Nat) (old : Bool) (s : State) : Res :=
  runIf (decide (slot < 20) && decide (slot ≠ 8)) (refSample slot t xo off q rtt old) s

/-- REF_MONITOR_UPDATE (R323). -/
def execRefMonitorUpdate (s : State) : Res := run monitorUpdate s

/-- REF_ACTIVITY_LOSS (R321). -/
def execRefActivityLoss (slot : Nat) (s : State) : Res := runIf (decide (slot < 20) && refSilent s slot) (refActLoss slot) s

/-- REF_DRIFT_ESTIMATE (R328). -/
def execRefDriftEstimate (s : State) : Res := run driftEstimate s

/-- REF_WTR_END (R331, R333). -/
def execRefWtrEnd (s : State) : Res := run select s

/-- REF_SWITCH_END (R334). -/
def execRefSwitchEnd (s : State) : Res := run switchEnd s

/-- DISQ_TIME_EXPIRY (R326). -/
def execDisqTimeExpiry (slot : Nat) (s : State) : Res := runIf (slot < 20) (disqExpiry slot) s

end Sys2Proof.Machine
end

