-- ==== Sys2Proof/Machine/Ptp.lean ====
section
/-!
DEFINITION. Machine/Ptp.lean: the PTP service as firmware and the transmit scheduler run it (R229 to R257): streams and their
records, unicast grants, foreign masters, upstream measurement, and the tables TBL5, TBL6 and TBL9.
-/
namespace Sys2Proof.Machine
open Sys2Proof

-- The clock and its ports ----------------------------------------------------------------------------------------

def ptpProfile (s : State) (k : Nat) : Nat := fget s (PTP_DOM k) PTP_DOM_PROFILE
def ptpRole (s : State) (p : Nat) : Nat := fget s (PTP_PORT p) PTP_PORT_ROLE

/-- Profiles 1 to 4 enable an instance (R229). -/
def instOn (s : State) (k : Nat) : Bool := decide (1 ≤ ptpProfile s k) && decide (ptpProfile s k ≤ 4)

/-- Is the instance on the port? -/
def onPort (s : State) (k p : Nat) : Bool := (fget s (PTP_PORT p) PTP_PORT_DOM_MASK).testBit k && instOn s k

/-- The device serves PTP (R254, R256). -/
def ptpServes (s : State) : Bool :=
  [0, 1, 4].contains (pairRole s) && !fbit s PAIR_STATUS PAIR_STATUS_ELECT && !fbit s PTP_STATUS PTP_STATUS_ID_MISMATCH
    && decide (9 ≤ fget s SYS_START_STATUS SYS_START_STATUS_STAGE)

/-- Instance `k` is held (R232). -/
def instHeld (s : State) (k : Nat) : Bool := tsuUnset s && !fbit s (PTP_DOM k) PTP_DOM_TX_UNSET

/-- portIdentity of a port (R230). -/
def portIdentity (s : State) (p : Nat) : List Byte :=
  beBytes 8 (rd s PTP_CLOCK_ID).toNat ++ beBytes 2 (8 * fget s PTP_CTL PTP_CTL_PAIR_INDEX + p + 1)

/-- The relay pair of a port: the other port and whether its MODE is P2P; a valid pair needs two ports of ROLE 4 (R253). -/
def relayPair (s : State) (p : Nat) : Option (Nat × Bool) :=
  (List.range 4).findSome? (fun k =>
    let a := fget s (PTP_RELAY k) PTP_RELAY_PORT_A
    let b := fget s (PTP_RELAY k) PTP_RELAY_PORT_B
    if fbit s (PTP_RELAY k) PTP_RELAY_VALID ∧ a ≠ b ∧ ptpRole s a = 4 ∧ ptpRole s b = 4 then
      (if p = a then some (b, fbit s (PTP_RELAY k) PTP_RELAY_MODE)
       else if p = b then some (a, fbit s (PTP_RELAY k) PTP_RELAY_MODE) else none)
    else none)

-- Messages -------------------------------------------------------------------------------------------------------

/-- The PTP message of a punted frame, without padding (R233). -/
def puntMsg (x : Punt) : List Byte :=
  let l3 := leAt x.desc 27 1
  let l4 := leAt x.desc 28 2
  let m := if leAt x.desc 30 2 = 0x88F7 then x.frame.drop l3 else if l4 = 0xFFFF then [] else x.frame.drop (l4 + 8)
  m.take (beAt m 2 2)

def puntPort (x : Punt) : Nat := leAt x.desc 22 1 % 8

/-- Source address of a punted IP frame: IPv6, address. -/
def puntSrc (x : Punt) : Option (Bool × Nat) :=
  let l3 := leAt x.desc 27 1
  if leAt x.desc 30 2 = 0x0800 then some (false, beAt x.frame (l3 + 12) 4)
  else if leAt x.desc 30 2 = 0x86DD then some (true, beAt x.frame (l3 + 8) 16)
  else none

/-- Destination address of a punted IP frame. -/
def puntDst (x : Punt) : Nat :=
  let l3 := leAt x.desc 27 1
  if leAt x.desc 30 2 = 0x0800 then beAt x.frame (l3 + 16) 4 else beAt x.frame (l3 + 24) 16

/-- Peer MAC address and the VLAN tags of a punted frame. -/
def puntEth (x : Punt) : List Byte := slice x.frame 6 6 ++ slice x.frame 12 (leAt x.desc 27 1 - 14)

def ptpMsgType (m : List Byte) : Nat := beAt m 0 1 % 16
def ptpSeq (m : List Byte) : Nat := beAt m 30 2
def ptpSrc (m : List Byte) : List Byte := slice m 20 10

/-- correctionField in 2^-16 ns. -/
def ptpCorr (m : List Byte) : Int := sgn 64 (beAt m 8 8)

/-- The PTP80 timestamp at byte 34, in 2^-16 ns. -/
def ptpStamp (m : List Byte) : Int := (beAt m 34 6 * 1000000000 + beAt m 40 4) * 65536

/-- An ingress stamp or a launch instant in 2^-16 ns. -/
def toPtp (t : Nat) : Int := (t : Int) / 2 ^ 16

/-- The instance a punted message belongs to (R233, test 6). -/
def puntInst (s : State) (x : Punt) : Option Nat :=
  let udp := decide (leAt x.desc 30 2 ≠ 0x88F7)
  (List.range 4).find? (fun k => onPort s k (puntPort x)
    && (if udp then ptpProfile s k != 3 else ptpProfile s k != 4)
    && fget s (PTP_DOM k) PTP_DOM_DOMAIN == beAt (puntMsg x) 4 1)

/-- Has firmware something to do with an entry of a punt ring: TCP segments on rings 1 and 2 (R208, R209), the messages of R235 on rings 3
and 4, of Signaling those whose first TLV requests, grants or cancels a unicast transmission (R245, R247)? -/
def puntServed (r : Nat) (x : Punt) : Bool :=
  let m := puntMsg x
  match r with
  | 1 | 2 => true
  | 3 => [8, 9, 0xA, 0xB].contains (ptpMsgType m) || (decide (ptpMsgType m = 0xC) && [4, 5, 6].contains (beAt m 44 2))
  | 4 => [0, 3].contains (ptpMsgType m)
  | _ => false

/-- Host DMA takes an entry of ring 8 (R149, R465): a frame with an uncorrectable word stops the transfer. -/
def puntDma (r : Nat) (x : Punt) (s : State) : State :=
  if r ≠ 8 then s
  else
    let m := touchMem (frameBase + leAt x.desc 16 4) x.frame.length s
    if m.1 then raiseOnce EV_ECC_DMA_UE (bump UC_ECC_DMA_UE 1 m.2) else m.2

/-- The control cores give back the entries of a ring that firmware has nothing to do with, and host DMA takes those of ring 8 (R104, R149).
DESIGN CHOICE (log entry 168): R104 does not say when. -/
def puntsBack (r : Nat) (s : State) : State :=
  let xs := puntsOf s r
  if xs.all (puntServed r) then s
  else (xs.filter (fun x => !puntServed r x)).foldl (fun a x => frameFree x.desc (puntDma r x a)) (puntsSet r (xs.filter (puntServed r)) s)

/-- Take the head of a punt ring where it is a PTP message that `want` accepts; with that the control cores give its frame back (R104). Entries
ahead of it that firmware has nothing to do with are given back first. -/
def puntTake (r : Nat) (want : List Byte → Bool) (s : State) : Option (Punt × State) :=
  match (puntsOf s r).dropWhile (fun x => !puntServed r x) with
  | [] => none
  | x :: rest =>
    let lead := (puntsOf s r).takeWhile (fun x => !puntServed r x)
    if want (puntMsg x) then some (x, frameFree x.desc (lead.foldl (fun a y => frameFree y.desc a) (puntsSet r rest s))) else none

-- Foreign masters ------------------------------------------------------------------------------------------------

/-- Dataset of an Announce as the comparison of IEEE 1588 orders it, smaller is better: the default profiles, or G.8275.x with
localPriority. -/
def dataKey (g : Bool) (p1 cls acc var p2 lp : Nat) (gm : Nat) (steps src : Nat) : List Nat :=
  if g then [cls, acc, var, p2, lp] ++ (if cls ≤ 127 then [steps, src] else [gm, steps, src])
  else [p1, cls, acc, var, p2, gm, steps, src]

/-- Lexicographic order of two keys. -/
def keyBelow : List Nat → List Nat → Bool
  | a :: as, b :: bs => if a = b then keyBelow as bs else decide (a < b)
  | _, _ => false

/-- localPriority of an instance, which every dataset compared in it takes: the spec gives no other (PRESUMED, log entry 134). -/
def localPrio (s : State) (k : Nat) : Nat := fget s (PTP_DOM k) PTP_DOM_LOCAL_PRIO

/-- The dataset of a foreign master as the instance compares it (R251). -/
def annKey (s : State) (f : Foreign) : List Nat :=
  let a := f.ann
  dataKey (isG8275 s f.inst) (beAt a 47 1) (beAt a 48 1) (beAt a 49 1) (beAt a 50 2) (beAt a 52 1) (localPrio s f.inst) (beAt a 53 8) (beAt a 61 2) (beNat f.src)

/-- The device's own dataset D0 on a port (R231). -/
def ownKey (s : State) (k p : Nat) : List Nat :=
  dataKey (isG8275 s k) (fget s (PTP_DOM k) PTP_DOM_PRIORITY1) (ptpClass s k) (ptpAccuracy s k) (ptpVariance s k)
    (fget s (PTP_DOM k) PTP_DOM_PRIORITY2) (localPrio s k) (rd s PTP_CLOCK_ID).toNat 0 (beNat (portIdentity s p))

/-- 2^l seconds in 2^-32 ns, exact for every interval a message states from -8 on. -/
def logSpan (l : Int) : Nat := if l < 0 then gtSecond / 2 ^ l.natAbs else gtSecond * 2 ^ l.natAbs

/-- The announce interval of a message in 2^-32 ns (R252); its logarithm is read within -8 to 8. -/
def annInterval (ann : List Byte) : Nat := logSpan (max (-8) (min 8 (sgn 8 (beAt ann 33 1))))

/-- A foreign master qualifies with two Announce messages within four intervals (IEEE 1588). -/
def foreignOk (s : State) (f : Foreign) : Bool :=
  decide (f.prev ≠ 0) && decide (f.at_ + 1 - f.prev ≤ 4 * annInterval f.ann) && decide (gtNow s - f.at_ ≤ 4 * annInterval f.ann)

/-- The best foreign master of a port and instance. -/
def bestForeign (s : State) (p k : Nat) (sel : Foreign → Bool) : Option Foreign :=
  (s.ptp.foreign.filter (fun f => f.port = p ∧ f.inst = k ∧ foreignOk s f ∧ sel f)).foldl (fun (b : Option Foreign) f =>
    match b with
    | none => some f
    | some c => if keyBelow (annKey s f) (annKey s c) then some f else b) none

/-- PASSIVE: the best master heard beats the own dataset; only ROLE BMCA of a default profile (R231). -/
def passive (s : State) (p k : Nat) : Bool :=
  decide (ptpRole s p = 2) && !isG8275 s k &&
    match bestForeign s p k (fun _ => true) with
    | none => false
    | some f => keyBelow (annKey s f) (ownKey s k p)

/-- MASTER in instance `k` (R231). -/
def isMaster (s : State) (p k : Nat) : Bool :=
  onPort s k p && (decide (ptpRole s p = 1) || (decide (ptpRole s p = 2) && !passive s p k))

/-- Does the port measure delay by peer delay for the instance (R235, R244)? -/
def p2pOn (s : State) (p k : Nat) : Bool :=
  if ptpRole s p = 4 then decide (k = 0) && (match relayPair s p with | some (_, m) => m | none => false)
  else decide (ptpRole s p ≠ 0) && onPort s k p && decide (ptpProfile s k = 2)

-- Upstreams of the packet slots -----------------------------------------------------------------------------------

def upReset (_ : Nat) : PtpUp := { master := [], gm := [], prior := [], sync := none, ms := none, delay := none, ends := [], wait := [], logs := [] }
def upOf (s : State) (n : Nat) : PtpUp := mapGet upReset s.ptp.ups n
def upSet (n : Nat) (x : PtpUp) (s : State) : State := { s with ptp := { s.ptp with ups := mapSet upReset n x s.ptp.ups } }

def upPort (s : State) (n : Nat) : Nat := fget s (REFS_SLOT_INPUT n) REFS_SLOT_INPUT_PORT
def upInst (s : State) (n : Nat) : Nat := fget s (REFS_SLOT_INPUT n) REFS_SLOT_INPUT_INSTANCE

/-- The PTP slots bound to a port and instance (R251). -/
def ptpSlots (s : State) (p k : Nat) : List Nat :=
  (List.range 17).filter (fun n => decide (9 ≤ n) && fget s (REFS_SLOT_INPUT n) REFS_SLOT_INPUT_SIGNAL == 1 && (refSl s n).bound
    && upPort s n == p && upInst s n == k && ptpRole s p == 3)

-- Streams --------------------------------------------------------------------------------------------------------

def mSeqKey (kind inst port : Nat) : Nat := kind + 8 * (inst + 4 * port)
def uSeqKey (kind gidx : Nat) : Nat := 2 ^ 10 + kind + 8 * gidx
def seqRest (s : State) (_ : Nat) : Nat := s.ptp.seqBase
def seqOf (s : State) (key : Nat) : Nat := mapGet (seqRest s) s.ptp.seqs key

/-- The sequenceId of a stream advances (R238). -/
def seqNext (key : Nat) (s : State) : State :=
  { s with ptp := { s.ptp with seqs := mapSet (seqRest s) key ((seqOf s key + 1) % 65536) s.ptp.seqs } }

def grantOf (s : State) (g : Nat) : Option PtpGrant := mapGet (fun _ => none) s.ptp.grants g
def grantSet (g : Nat) (x : Option PtpGrant) (s : State) : State :=
  { s with ptp := { s.ptp with grants := mapSet (fun _ => none) g x s.ptp.grants } }

/-- A record of R237. -/
def txRecord (kind inst port flags seq : Nat) (log : Int) (origin : Nat) : List Byte :=
  [BitVec.ofNat 8 kind, BitVec.ofNat 8 inst, BitVec.ofNat 8 port, BitVec.ofNat 8 flags] ++ beBytes 2 seq ++ [BitVec.ofInt 8 log, 0]
    ++ beBytes 8 (if kind = 1 then gtSec origin else 0) ++ beBytes 8 (if kind = 1 then gtSub origin else 0) ++ zeros 36

/-- May the multicast stream run (R232, R236, R244, R254)? -/
def streamOn (s : State) (kind inst port : Nat) : Bool :=
  let slave := decide (ptpRole s port = 3)
  fbit s PTP_CTL PTP_CTL_ENABLE && unitBit s.variant port &&
  (if kind = 0 ∨ kind = 2 then ptpServes s && !instHeld s inst && isMaster s port inst && decide (ptpProfile s inst ≠ 4)
   else if kind = 3 then slave && onPort s inst port && decide (ptpProfile s inst ≠ 2)
   else if kind = 4 then p2pOn s port inst && (slave || ptpServes s)
   else false)

/-- The Delay_Resp period a G.8275.2 upstream has granted to a slot of the port and instance (R244). -/
def upGranted (s : State) (inst port : Nat) : Option Int :=
  ((ptpSlots s port inst).find? (fun n => decide (nowSec s < mapGet (fun _ => 0) (upOf s n).ends 2))).map
    (fun n => mapGet (fun _ => 0) (upOf s n).logs 2)

/-- Interval of a multicast stream, log2 s; a Delay_Req of G.8275.2 goes at the rate the upstream granted (R244). -/
def streamLog (s : State) (kind inst port : Nat) : Int :=
  let own := fint s (PTP_DOM inst) (if kind = 0 then PTP_DOM_SYNC_LOG else if kind = 2 then PTP_DOM_ANN_LOG else PTP_DOM_DREQ_LOG)
  if kind = 3 ∧ ptpProfile s inst = 4 then (upGranted s inst port).getD own else own

/-- How far a stream's nominal instants lie behind the multiples of its interval (R236), in 2^-32 ns. -/
def streamShift (port : Nat) (gidx : Option Nat) : Nat :=
  match gidx with
  | none => ns32 (10000 * port)
  | some g => ns32 (1000 * (g % 4096))

/-- The `j`-th nominal instant of a stream of interval 2^l s (R236), in 2^-32 ns. -/
def nominalInstant (l : Int) (port : Nat) (gidx : Option Nat) (j : Nat) : Nat := j * logSpan l + streamShift port gidx

/-- FLAGS of a record (R237, R239, R240). -/
def txFlags (s : State) (kind inst : Nat) (uni : Bool) : Nat :=
  let two := decide (kind = 0) && !fbit s (PTP_DOM inst) PTP_DOM_ONE_STEP
  (if two then 1 else 0) + (if uni then 2 else 0) + (if two ∨ 3 ≤ kind then 4 else 0)

/-- Offer a record at Trailhead 9, or skip it (R236, R238); where the queue is full the injection waits and nothing changes. -/
def txOffer (port aux key : Nat) (late : Bool) (rec : List Byte) (s : State) : State :=
  if late then seqNext key (bump (UC_PTP 7) 1 s)
  else match frameSpot s (rec.length + 4) with
    | none => s
    | some a => if injectFits s 9 a rec.length then seqNext key (inject 9 port aux a rec s) else s

/-- A grant in force. -/
def grantLive (s : State) (x : GrantOf) : Bool := x.on && decide (nowSec s < x.ends)

/-- The scheduler's turn for a nominal instant (R236): nothing before the instant less GATE_LEAD, and a skip once it is past. -/
def txTurn (port aux key t : Nat) (rec : List Byte) (s : State) : State :=
  if gtNow s + ns32 (fget s GATE_LEAD GATE_LEAD_LEAD) < t then s
  else txOffer port aux key (decide (t ≤ gtNow s)) rec s

/-- The scheduler's turn of a stream for its `j`-th nominal instant (R236). -/
def txInject (kind inst port : Nat) (gidx : Option Nat) (j : Nat) (s : State) : State :=
  match gidx with
  | none =>
    if streamOn s kind inst port then
      let key := mSeqKey kind inst port
      let l := streamLog s kind inst port
      txTurn port 0x10000 key (nominalInstant l port none j) (txRecord kind inst port (txFlags s kind inst (decide (ptpProfile s inst = 4))) (seqOf s key)
        l 0) s
    else s
  | some g =>
    match grantOf s g with
    | none => s
    | some x =>
      let gr := if kind = 0 then x.sync else x.ann
      if (kind = 0 ∨ kind = 2) ∧ grantLive s gr ∧ ptpServes s ∧ fbit s PTP_CTL PTP_CTL_ENABLE ∧ isMaster s x.port x.inst
          ∧ !instHeld s x.inst then
        let key := uSeqKey kind g
        txTurn x.port (g % 65536) key (nominalInstant gr.log x.port (some g) j)
          (txRecord kind x.inst x.port (txFlags s kind x.inst true) (seqOf s key) gr.log 0) s
      else s

/-- A report of the gate (R239): the Follow_Up of a two-step Sync (R241), or the launch of a delay request (R244). -/
def launchReport (p : Nat) (s : State) : State :=
  let g := gateOf s p
  match g.reports with
  | [] => s
  | (d, t) :: rest =>
    let s1 := gateSet p { g with reports := rest } s
    let r := d.drop 64
    let kind := leAt r 0 1
    let inst := leAt r 1 1
    let port := leAt r 2 1
    if kind = 0 then
      if !(ptpServes s && fbit s PTP_CTL PTP_CTL_ENABLE && !instHeld s inst) then s1
      else match t with
      | none => bump (UC_PTP 8) 1 s1
      | some t => fwInject 9 port (leAt d 40 4) (txRecord 1 inst port (leAt r 3 1 / 2 % 2 * 2) (beAt r 4 2) (sgn 8 (leAt r 6 1)) t) s1
    else match t with
      | none => s1
      | some t => { s1 with ptp := { s1.ptp with
          launches := mapSet (fun _ => 0) ((4 * port + inst) * 65536 + beAt r 4 2) (1 + t) s1.ptp.launches } }

-- Frames firmware sends ------------------------------------------------------------------------------------------

/-- A UDP frame from a service address of a port: `eth` is the peer's MAC address with VLAN tags. -/
def udpFrame (s : State) (port : Nat) (eth : List Byte) (v4 : Bool) (src dst sport dport : Nat) (pay : List Byte) : List Byte :=
  let n := 8 + pay.length
  let head := beBytes 2 sport ++ beBytes 2 dport ++ beBytes 2 n
  let k := 65535 - onesSum (pseudoHead v4 src dst n 17 ++ head ++ [0, 0] ++ pay) 0
  ipFrame s port eth v4 src dst 17 64 (head ++ beBytes 2 (if k = 0 then 65535 else k) ++ pay)

/-- A Signaling message of a port and instance with its TLVs. -/
def signalMsg (s : State) (port inst : Nat) (target : List Byte) (tlvs : List Byte) : List Byte :=
  [0x0C, 0x02] ++ beBytes 2 (44 + tlvs.length) ++ [BitVec.ofNat 8 (fget s (PTP_DOM inst) PTP_DOM_DOMAIN), 0, 0x04, 0]
    ++ zeros 12 ++ portIdentity s port ++ beBytes 2 (seqOf s (mSeqKey 5 inst port)) ++ [5, 0x7F] ++ target ++ tlvs

/-- Send a Signaling message to a requester (R245, R247). -/
def signalSend (x : PtpGrant) (tlvs : List Byte) (s : State) : State :=
  if tlvs.isEmpty then s
  else
    let a := x.addr % (if x.v4 then 2 ^ 32 else 2 ^ 128)
    fwInject 8 x.port 0 (udpFrame s x.port x.eth x.v4 x.own a 320 x.udp (signalMsg s x.port x.inst x.pid tlvs))
      (seqNext (mSeqKey 5 x.inst x.port) s)

/-- Send a Signaling message to the upstream of a slot (R251). -/
def signalUp (n : Nat) (target tlvs : List Byte) (s : State) : State :=
  let p := fget s (REFS_SLOT_INPUT n) REFS_SLOT_INPUT_PORT
  let k := fget s (REFS_SLOT_INPUT n) REFS_SLOT_INPUT_INSTANCE
  seqNext (mSeqKey 5 k p) (emitOut (.upstream n (signalMsg s p k target tlvs)) s)

-- Grants ---------------------------------------------------------------------------------------------------------

/-- Key of a requester's address (R246). -/
def grantAddr (a : Bool × Nat) : Nat := if a.1 then a.2 else 0xFFFF * 2 ^ 32 + a.2 % 2 ^ 32

/-- Entries held. -/
def grantList (s : State) : List (Nat × PtpGrant) := s.ptp.grants.filterMap (fun x => x.2.map (fun g => (x.1, g)))

/-- Word 0 of TBL_GRANT (R234). -/
def grantWord (g : Nat) (x : PtpGrant) : Nat :=
  x.port % 8 + (if x.ann.on then 2 ^ 8 else 0) + (if x.sync.on then 2 ^ 9 else 0) + (if x.dresp.on then 2 ^ 10 else 0)
    + unsgn 8 x.dresp.log * 2 ^ 16 + g % 65536 * 2 ^ 32

/-- Write TBL_GRANT's entry; none where the bucket has no room. DESIGN CHOICE (log entry 143): the control cores write TBL9's live copy in place,
where R110 ignores the writes of others; R29, R111 and R234 speak of such writes, and no rule exempts them by name. -/
def grantTable (g : Nat) (x : PtpGrant) (s : State) : Option State :=
  tblPut 9 (if (rd s TOPO_TBL_GEN).getLsbD 9 then 1 else 0) (keyField x.addr) [grantWord g x] s

/-- Remove TBL_GRANT's entry. -/
def grantUntable (x : PtpGrant) (s : State) : State :=
  (tblDel 9 (if (rd s TOPO_TBL_GEN).getLsbD 9 then 1 else 0) (keyField x.addr) s).getD s

/-- Messages of a grant in units of 1/8 per second; periods above 8 s are refused. -/
def grantRate (x : GrantOf) : Nat := if x.on then (if x.log ≤ 3 then 2 ^ (3 - x.log).toNat else 1) else 0

/-- Sync and Delay_Resp rate granted on a port. -/
def portGrantRate (s : State) (p : Nat) : Nat :=
  ((grantList s).filter (fun x => x.2.port = p)).foldl (fun a x => a + grantRate x.2.sync + grantRate x.2.dresp) 0

/-- Body of a GRANT journal record (R391): the entry's index and contents, or that it is gone. -/
def grantBody (g : Nat) (x : Option PtpGrant) : List Byte :=
  let one := fun (y : GrantOf) => [if y.on then 1 else 0, BitVec.ofInt 8 y.log] ++ leBytes 8 y.ends
  leBytes 4 g ++ match x with
    | none => [0]
    | some y => [1, if y.v4 then 1 else 0, BitVec.ofNat 8 y.port, BitVec.ofNat 8 y.inst] ++ leBytes 2 y.udp ++ leBytes 16 y.addr
        ++ leBytes 16 y.own ++ one y.ann ++ one y.sync ++ one y.dresp ++ leBytes 8 y.idle ++ y.pid
        ++ [BitVec.ofNat 8 y.eth.length] ++ y.eth

/-- The entry a GRANT record carries. -/
def grantParse (b : List Byte) : Nat × Option PtpGrant :=
  let one := fun (o : Nat) => (⟨leAt b o 1 = 1, sgn 8 (leAt b (o + 1) 1), leAt b (o + 2) 8⟩ : GrantOf)
  (leAt b 0 4, if leAt b 4 1 = 0 then none else
    some { addr := leAt b 10 16, v4 := leAt b 5 1 = 1, port := leAt b 6 1, inst := leAt b 7 1, udp := leAt b 8 2,
           own := leAt b 26 16, ann := one 42, sync := one 52, dresp := one 62, idle := leAt b 72 8, pid := slice b 80 10,
           eth := slice b 91 (leAt b 90 1) })

/-- GRANTS of PTP_STATUS. -/
def grantsShow (s : State) : State := fset PTP_STATUS PTP_STATUS_GRANTS (grantList s).length s

/-- Store an entry with its table entry and journal record; none where the table has no room. -/
def grantStore (g : Nat) (x : PtpGrant) (s : State) : Option State :=
  (grantTable g x s).map (fun s1 => journal 0x12 (grantBody g (some x)) (grantsShow (grantSet g (some x) s1)))

/-- A denied grant: counted, and aggregated by cause (R245, R257). -/
def grantDeny (cause : Nat) (s : State) : State := cairnAgg [0x03, 0x40, sevNotice, cause, cause] (bump (UC_PTP 10) 1 s)

/-- GRANT_UNICAST_TRANSMISSION. -/
def grantTlv (mt log dur : Nat) : List Byte :=
  [0, 5, 0, 8, BitVec.ofNat 8 (mt * 16), BitVec.ofNat 8 log] ++ beBytes 4 dur ++ [0, if dur = 0 then 0 else 1]

def noGrant : GrantOf := ⟨false, 0, 0⟩

/-- The grants of an entry by messageType; none for a type that is never granted. -/
def grantType (x : PtpGrant) (mt : Nat) : Option GrantOf :=
  if mt = 0xB then some x.ann else if mt = 0 then some x.sync else if mt = 9 then some x.dresp else none

def grantPut (x : PtpGrant) (mt : Nat) (y : GrantOf) : PtpGrant :=
  if mt = 0xB then { x with ann := y } else if mt = 0 then { x with sync := y } else { x with dresp := y }

/-- Shortest period of a type (R245). -/
def grantMinLog (s : State) (mt : Nat) : Int :=
  fint s PTP_GRANT_CFG (if mt = 0xB then PTP_GRANT_CFG_ANN_MIN_LOG else if mt = 0 then PTP_GRANT_CFG_SYNC_MIN_LOG
    else PTP_GRANT_CFG_DRESP_MIN_LOG)

/-- Why a request is denied, 0 for a grant (R245, R246); `held` is the requester's entry. -/
def grantCause (s : State) (held : Option (Nat × PtpGrant)) (x : PtpGrant) (mt : Nat) (log : Int) (dur : Nat) : Nat :=
  let old := match held with | some (_, y) => y | none => x
  match grantType old mt with
  | none => 1
  | some cur =>
    if !ptpServes s || instHeld s x.inst then 2
    else if log < grantMinLog s mt ∨ 3 < log then 3
    else if dur < 10 then 4
    else if held.isSome ∧ old.port ≠ x.port then 9
    else if mt ≠ 0xB ∧ !(held.isSome && grantLive s old.ann) then 5
    else if held.isNone ∧ fget s PTP_GRANT_CFG PTP_GRANT_CFG_MAX_GRANTS ≤ (grantList s).length then 6
    else if mt ≠ 0xB ∧ fget s PTP_GRANT_CFG PTP_GRANT_CFG_PORT_RATE * 64
        < portGrantRate s x.port - grantRate cur + grantRate ⟨true, log, 0⟩ then 8
    else 0

/-- The entry of a requester. -/
def grantHeld (s : State) (addr : Nat) : Option (Nat × PtpGrant) := (grantList s).find? (fun g => g.2.addr = addr)

/-- The lowest free grant index. -/
def grantFree (s : State) : Nat :=
  s.ptp.grants.foldl (fun n x => if x.1 = n ∧ x.2.isSome then n + 1 else n) 0

/-- One REQUEST_UNICAST_TRANSMISSION; the answer's TLV. -/
def grantRequest (x : PtpGrant) (mt : Nat) (logByte dur : Nat) (s : State) : List Byte × State :=
  let log := sgn 8 logByte
  let held := grantHeld s x.addr
  let cause := grantCause s held x mt log dur
  if cause ≠ 0 then (grantTlv mt logByte 0, grantDeny cause s)
  else
    let d := min dur (fget s PTP_GRANT_CFG PTP_GRANT_CFG_MAX_DUR)
    let base := match held with
      | some (_, y) => { y with udp := x.udp, pid := x.pid, eth := x.eth, own := x.own, inst := x.inst }
      | none => x
    let g := match held with | some (g, _) => g | none => grantFree s
    match grantStore g (grantPut base mt ⟨true, log, nowSec s + d⟩) s with
    | none => (grantTlv mt logByte 0, grantDeny 7 s)
    | some s1 => (grantTlv mt logByte d, bump (UC_PTP 9) 1 s1)

/-- One granted type of an entry ends; the entry itself stays for 1 s more where nothing is left (R247). -/
def grantEnd (g mt : Nat) (s : State) : State :=
  match grantOf s g with
  | none => s
  | some x =>
    let y := grantPut x mt noGrant
    let y1 := if y.ann.on ∨ y.sync.on ∨ y.dresp.on then y else { y with idle := nowSec s }
    (grantStore g y1 s).getD (grantSet g (some y1) s)

/-- The TLVs of a Signaling message: type and body. -/
def tlvsOf : Nat → List Byte → List (Nat × List Byte)
  | 0, _ => []
  | f + 1, b =>
    if b.length < 4 then [] else (beAt b 0 2, slice b 4 (beAt b 2 2)) :: tlvsOf f (b.drop (4 + beAt b 2 2))

def signalTlvs (m : List Byte) : List (Nat × List Byte) := tlvsOf 64 (m.drop 44)

/-- Is the message a Signaling message whose first TLV has the type? -/
def isSignal (ty : Nat) (m : List Byte) : Bool := decide (ptpMsgType m = 0xC) && decide (beAt m 44 2 = ty)

/-- The requester of a punted Signaling message. -/
def requester (x : Punt) (k : Nat) (a : Bool × Nat) : PtpGrant :=
  { addr := grantAddr a, v4 := !a.1, port := puntPort x, inst := k, udp := beAt x.frame (leAt x.desc 28 2) 2,
    pid := ptpSrc (puntMsg x), eth := puntEth x, own := puntDst x, ann := noGrant, sync := noGrant, dresp := noGrant, idle := 0 }

/-- Is Signaling of a port answered (R245, R247, R254)? A device that does not serve answers none on ports other than SLAVE_REF (DEDUCED, log
entry 68). -/
def signalAnswered (s : State) (p : Nat) : Bool := ptpServes s || decide (ptpRole s p = 3)

/-- A punted REQUEST_UNICAST_TRANSMISSION (R245, R246). -/
def grantRx (s : State) : State :=
  match puntTake 3 (isSignal 4) s with
  | none => s
  | some (x, s1) =>
    match puntInst s1 x, puntSrc x with
    | some k, some a =>
      if ptpProfile s1 k ≠ 4 then s1
      else
        let q := requester x k a
        let r := (signalTlvs (puntMsg x)).foldl (fun (acc : List Byte × State) t =>
          if t.1 = 4 then
            let y := grantRequest q (beAt t.2 0 1 / 16) (beAt t.2 1 1) (beAt t.2 2 4) acc.2
            (acc.1 ++ y.1, y.2)
          else acc) ([], s1)
        if signalAnswered s1 (puntPort x) then signalSend q r.1 r.2 else r.2
    | _, _ => s1

-- The slave side -------------------------------------------------------------------------------------------------

/-- Granted types at an upstream: 0 Announce, 1 Sync, 2 Delay_Resp. -/
def upType (mt : Nat) : Option Nat := if mt = 0xB then some 0 else if mt = 0 then some 1 else if mt = 9 then some 2 else none
def upMsgType (j : Nat) : Nat := if j = 0 then 0xB else if j = 1 then 0 else 9

/-- An upstream grant is denied or cancelled: the wait before its retry (R252). -/
def upDenied (n j : Nat) (s : State) : State :=
  let u := upOf s n
  let w := mapGet (fun _ => 0) u.wait j
  upSet n { u with ends := mapSet (fun _ => 0) j 0 u.ends, wait := mapSet (fun _ => 0) j (if w = 0 then 1 else min 64 (2 * w)) u.wait } s

/-- Request a message type from the upstream of a slot (R251). -/
def upRequest (n j : Nat) (s : State) : State :=
  let k := upInst s n
  let f := if j = 0 then PTP_DOM_ANN_LOG else if j = 1 then PTP_DOM_SYNC_LOG else PTP_DOM_DREQ_LOG
  if ptpProfile s k = 4 ∧ (ptpSlots s (upPort s n) k).contains n then
    signalUp n (if (upOf s n).master.isEmpty then List.replicate 10 0xFF else (upOf s n).master)
      ([0, 4, 0, 6, BitVec.ofNat 8 (upMsgType j * 16), BitVec.ofInt 8 (fint s (PTP_DOM k) f)]
        ++ beBytes 4 (fget s PTP_GRANT_CFG PTP_GRANT_CFG_MAX_DUR)) s
  else s

/-- Renewal at half the duration (R251). -/
def upRenew (n j : Nat) (s : State) : State :=
  if nowSec s < mapGet (fun _ => 0) (upOf s n).ends j then upRequest n j s else s

/-- The first request, or the retry after a denial or cancellation (R251, R252). -/
def upRetry (n j : Nat) (s : State) : State :=
  if nowSec s < mapGet (fun _ => 0) (upOf s n).ends j then s else upRequest n j s

/-- The slot whose G.8275.2 upstream sent the message (R251). -/
def upSlot (s : State) (x : Punt) : Option Nat :=
  match puntInst s x, puntSrc x with
  | some k, some a => (ptpSlots s (puntPort x) k).find? (fun n => ptpProfile s k == 4 && mapGet (fun _ => none) s.refUp n == some a)
  | _, _ => none

/-- A GRANT_UNICAST_TRANSMISSION of an upstream (R251, R252). -/
def upGrantRx (s : State) : State :=
  match puntTake 3 (isSignal 5) s with
  | none => s
  | some (x, s1) =>
    match upSlot s1 x with
    | none => s1
    | some n => (signalTlvs (puntMsg x)).foldl (fun a t =>
        if t.1 ≠ 5 then a
        else match upType (beAt t.2 0 1 / 16) with
          | none => a
          | some j =>
            let dur := beAt t.2 2 4
            if dur = 0 then upDenied n j a
            else
              let u := upOf a n
              upSet n { u with ends := mapSet (fun _ => 0) j (nowSec a + dur) u.ends, wait := mapSet (fun _ => 0) j 0 u.wait,
                                logs := mapSet (fun _ => 0) j (sgn 8 (beAt t.2 1 1)) u.logs } a) s1

/-- A received CANCEL_UNICAST_TRANSMISSION (R247, R252): every one is acknowledged; the stream it names stops, if there is one. -/
def cancelRx (s : State) : State :=
  match puntTake 3 (isSignal 6) s with
  | none => s
  | some (x, s1) =>
    let tl := (signalTlvs (puntMsg x)).filter (fun t => t.1 = 6)
    let ack := fun (mt : Nat) => ([0, 7, 0, 2, BitVec.ofNat 8 (mt * 16), 0] : List Byte)
    match upSlot s1 x with
    | some n =>
      signalUp n (ptpSrc (puntMsg x)) (tl.flatMap (fun t => ack (beAt t.2 0 1 / 16)))
        (tl.foldl (fun a t => match upType (beAt t.2 0 1 / 16) with | some j => upDenied n j a | none => a) s1)
    | none =>
      match puntInst s1 x, puntSrc x with
      | some k, some a =>
        if !signalAnswered s1 (puntPort x) || ptpProfile s1 k != 4 then s1
        else
          let end_ := fun (g mt : Nat) (b : State) => match (grantOf b g).bind (fun y => grantType y mt) with
            | some y => if y.on then bump (UC_PTP 11) 1 (grantEnd g mt b) else b
            | none => b
          let s2 := match grantHeld s1 (grantAddr a) with
            | none => s1
            | some (g, _) => tl.foldl (fun b t => end_ g (beAt t.2 0 1 / 16) b) s1
          signalSend (requester x k a) (tl.flatMap (fun t => ack (beAt t.2 0 1 / 16))) s2
      | _, _ => s1

/-- A grant's time is up (R247): no message. -/
def grantExpire (g j : Nat) (s : State) : State :=
  match (grantOf s g).bind (fun y => grantType y (upMsgType j)) with
  | some y => if y.on then bump (UC_PTP 12) 1 (grantEnd g (upMsgType j) s) else s
  | none => s

/-- An entry with nothing left is freed (R247). -/
def grantRelease (g : Nat) (s : State) : State :=
  match grantOf s g with
  | none => s
  | some x =>
    if x.ann.on ∨ x.sync.on ∨ x.dresp.on then s
    else journal 0x12 (grantBody g none) (grantsShow (grantSet g none (grantUntable x s)))

/-- A Custodian ends a grant (R247): the device sends CANCEL_UNICAST_TRANSMISSION for each type named by a bit of `kinds`. -/
def grantCancel (g kinds : Nat) (s : State) : State :=
  match grantOf s g with
  | none => s
  | some x =>
    (List.range 3).foldl (fun a j =>
      match (grantOf a g).bind (fun y => grantType y (upMsgType j)) with
      | some y =>
        if y.on ∧ kinds.testBit j then
          signalSend x ([0, 6, 0, 2, BitVec.ofNat 8 (upMsgType j * 16), 0]) (bump (UC_PTP 11) 1 (grantEnd g (upMsgType j) a))
        else a
      | none => a) s

-- Upstream datasets ----------------------------------------------------------------------------------------------

/-- The latest Announce of a slot's chosen master. -/
def parentAnn (s : State) (n : Nat) : Option (List Byte) :=
  let u := upOf s n
  if u.master.isEmpty then none
  else (s.ptp.foreign.find? (fun f => f.port = upPort s n ∧ f.inst = upInst s n ∧ f.src = u.master)).map (·.ann)

/-- The bound an accuracy code declares, ns (R332); unknown codes declare none. -/
def accNs (c : Nat) : Nat :=
  if c < 0x1D ∨ 0x31 ≤ c then 0xFFFFFFFF else ((accLimits.drop (c - 0x1D)).headD 0 + 1) / 2

/-- The dataset of the selected PTP slot as PTP_UPSTREAM_Q shows it (R251). -/
def upShow (s : State) : State :=
  let n := followed s
  if 9 ≤ n ∧ n ≤ 16 ∧ fget s (REFS_SLOT_INPUT n) REFS_SLOT_INPUT_SIGNAL = 1 then
    match parentAnn s n with
    | none => s
    | some a => wr PTP_UPSTREAM_Q (setF PTP_UPSTREAM_Q_CLASS (beAt a 48 1) (setF PTP_UPSTREAM_Q_ACCURACY (beAt a 49 1)
        (setF PTP_UPSTREAM_Q_VARIANCE (beAt a 50 2) (setF PTP_UPSTREAM_Q_STEPS (beAt a 61 2) (setF PTP_UPSTREAM_Q_SLOT n
          (setF PTP_UPSTREAM_Q_VALID 1 0)))))) s
  else fsetB PTP_UPSTREAM_Q PTP_UPSTREAM_Q_VALID false s

/-- timeSource (R248). -/
def timeSource (s : State) : Nat :=
  let n := followed s
  if n = 31 then 0xA0
  else if n = 8 then 0x20
  else if n < 8 then fget s (REFS_SLOT_CFG n) REFS_SLOT_CFG_TIME_SOURCE
  else if n = 17 then s.pair.twinSource
  else if 18 ≤ n then 0x39
  else if fget s (REFS_SLOT_INPUT n) REFS_SLOT_INPUT_SIGNAL = 2 then 0x50 else 0x40

/-- timeTraceable and frequencyTraceable (R248). -/
def ptpTraceable (s : State) : Bool :=
  let n := followed s
  n != 31 && (n == 8 || fbit s (REFS_SLOT_CFG n) REFS_SLOT_CFG_TRACEABLE
    || (match parentAnn s n with | some a => (BitVec.ofNat 8 (beAt a 7 1)).getLsbD 4 | none => false))

/-- Result words of TBL_PTPDS (R234, R248, R251). -/
def ptpdsWords (s : State) (k : Nat) : List Nat :=
  let n := selected s
  let par := if 9 ≤ n ∧ n ≤ 16 then parentAnn s n else none
  let pend := fint s TSU_LEAP_PENDING TSU_LEAP_PENDING_PENDING
  let near := decide ((rd s TSU_LEAP_SEC).toNat ≤ nowSec s + 43200)
  let b := fun (x : Bool) (i : Nat) => if x then 2 ^ i else 0
  let q := match par with
    | some a => (beAt a 53 8, beAt a 47 1, beAt a 52 1, (beAt a 61 2 + 1) % 65536)
    | none => ((rd s PTP_CLOCK_ID).toNat, fget s (PTP_DOM k) PTP_DOM_PRIORITY1, fget s (PTP_DOM k) PTP_DOM_PRIORITY2, 0)
  [q.1, q.2.1 + q.2.2.1 * 2 ^ 8 + q.2.2.2 * 2 ^ 16 + fget s TSU_UTC_OFFSET TSU_UTC_OFFSET_OFFSET * 2 ^ 32
    + timeSource s * 2 ^ 48 + b (pend == 1 && near) 56 + b (pend == -1 && near) 57 + b (!tsuUnset s && s.ptp.utcOk) 58
    + 2 ^ 59 + b (ptpTraceable s) 60 + b (ptpTraceable s) 61]

/-- What TBL5 and TBL6 should hold. -/
def ptpTables (s : State) : List (Nat × List (Nat × List Nat)) :=
  [(5, (List.range 4).map (fun k => (k, ptpdsWords s k))),
   (6, (List.range 8).map (fun p => (p, [unsgn 64 (mapGet (fun _ => 0) s.ptp.link p)])))]

/-- PORT_STATE of a port: that of the lowest instance on it. -/
def portShown (s : State) (p : Nat) : Nat :=
  let r := ptpRole s p
  if r = 1 then 1 else if r = 2 then
    (match (List.range 4).find? (fun k => onPort s k p) with | some k => if passive s p k then 2 else 1 | none => 1)
  else if r = 3 ∨ r = 4 then 3 else 0

/-- Firmware brings TBL5, TBL6 and PTP_STATUS up to date (R234, R248, R254, R257). -/
def ptpRefresh (s : State) : State :=
  let s1 := upShow s
  let s2 := (stockCommit (ptpTables s1) s1).getD s1
  let s3 := forEach ((List.range 4).filter (instOn s2)) (fun k a =>
    let c := ptpClass a k
    if c = mapGet (fun _ => 248) a.ptp.cls k then a
    else cairnAgg [0x03, 0x40, sevNotice, 0x20 + k, 0x20 + k]
      { a with ptp := { a.ptp with cls := mapSet (fun _ => 248) k c a.ptp.cls } }) s2
  let on := ptpServes s3 && fbit s3 PTP_CTL PTP_CTL_ENABLE
  let st := (List.range 8).foldl (fun a p => a + portShown s3 p * 4 ^ p) 0
  fsetB PTP_STATUS PTP_STATUS_SERVING on (fsetB PTP_STATUS PTP_STATUS_STANDBY
    (decide (pairRole s3 = 2) || decide (pairRole s3 = 3) || fbit s3 PAIR_STATUS PAIR_STATUS_ELECT)
    (fset PTP_STATUS PTP_STATUS_CLASS0 (if instOn s3 0 then ptpClass s3 0 else 248) (fset PTP_STATUS PTP_STATUS_PORT_STATE st s3)))

/-- A slot's master is chosen anew (R251, R338): a change is judged against the master chosen last, also where that was lost since. -/
def chooseMaster (n : Nat) (s : State) : State :=
  let p := upPort s n
  let k := upInst s n
  let up := mapGet (fun _ => none) s.refUp n
  let u := upOf s n
  match bestForeign s p k (fun f => ptpProfile s k != 4 || f.addr == up) with
  | none => s
  | some f =>
    let gm := slice f.ann 53 8
    let s1 := if u.master = f.src ∧ u.gm = gm then s
      else
        let v := if u.master = f.src then { u with gm := gm } else { u with master := f.src, gm := gm, sync := none, ms := none, delay := none }
        let s0 := upSet n v (refSlSet n { refSl s n with upRefId := 0 } s)
        let last := if u.master.isEmpty then u.prior else u.master ++ u.gm
        if last.isEmpty || last == f.src ++ gm then s0 else refChange n s0
    let a := f.ann
    let s2 := refSlSet n { refSl s1 n with q := accNs (beAt a 49 1), upDelay := 0 } s1
    if (BitVec.ofNat 8 (beAt a 7 1)).getLsbD 2 ∧ sgn 16 (beAt a 44 2) = fint s2 TSU_UTC_OFFSET TSU_UTC_OFFSET_OFFSET then
      { s2 with ptp := { s2.ptp with utcOk := true } } else s2

/-- A punted Announce (R231, R251). -/
def announceRx (s : State) : State :=
  match puntTake 3 (fun m => ptpMsgType m = 0xB) s with
  | none => s
  | some (x, s1) =>
    let m := puntMsg x
    match puntInst s1 x with
    | none => s1
    | some k =>
      let p := puntPort x
      if ptpRole s1 p = 0 ∨ ptpRole s1 p = 4 ∨ slice m 20 8 = beBytes 8 (rd s1 PTP_CLOCK_ID).toNat ∨ 255 ≤ beAt m 61 2 then s1
      else
        let same := fun (f : Foreign) => f.port = p ∧ f.inst = k ∧ f.src = ptpSrc m
        let prev := match s1.ptp.foreign.find? same with | some f => f.at_ + 1 | none => 0
        let f : Foreign := { port := p, inst := k, src := ptpSrc m, ann := m, at_ := gtNow s1, prev := prev, addr := puntSrc x, eth := puntEth x,
                             own := puntDst x }
        let s2 : State := { s1 with ptp := { s1.ptp with foreign := s1.ptp.foreign.filter (fun y => !decide (same y)) ++ [f] } }
        ptpRefresh (forEach (ptpSlots s2 p k) chooseMaster s2)

/-- Has the chosen master of a slot sent no Announce for ANN_TIMEOUT intervals of its latest one (R252)? -/
def annSilent (s : State) (n : Nat) : Bool :=
  match s.ptp.foreign.find? (fun f => f.port = upPort s n ∧ f.inst = upInst s n ∧ f.src = (upOf s n).master) with
  | none => true
  | some f => decide (f.at_ + fget s (PTP_DOM (upInst s n)) PTP_DOM_ANN_TIMEOUT * annInterval f.ann ≤ gtNow s)

/-- The chosen master of a slot has been silent (R252). -/
def annTimeout (n : Nat) (s : State) : State :=
  let u := upOf s n
  if u.master.isEmpty || !annSilent s n then s
  else
    let p := upPort s n
    let k := upInst s n
    let s1 : State := { s with ptp := { s.ptp with
      foreign := s.ptp.foreign.filter (fun f => !(decide (f.port = p) && decide (f.inst = k) && decide (f.src = u.master))) } }
    let s2 := upSet n { u with master := [], gm := [], prior := u.master ++ u.gm, sync := none, ms := none, delay := none } s1
    let s3 := refActLoss n (cairnAgg [0x03, 0x40, sevNotice, 0x10 + n, 0x10 + n] s2)
    ptpRefresh (chooseMaster n s3)

/-- An offset reaches the slot once the path delay is known (R251). -/
def upOffset (n : Nat) (t2 : Nat) (ms : Int) (old : Bool) (s : State) : State :=
  let u := upOf s n
  let s1 := upSet n { u with ms := some ms, sync := none } s
  let delay := if ptpProfile s (upInst s n) = 2 then some (mapGet (fun _ => 0) s.ptp.link (upPort s n)) else u.delay
  match delay with
  | none => refActive n s1
  | some d => refSample n t2 (xoAt s1 t2) (d - ms) (refSl s1 n).q ((2 * d.toNat + 65535) / 65536) old s1

/-- A punted Sync or Follow_Up of an upstream (R251). -/
def upSyncRx (fu : Bool) (s : State) : State :=
  match puntTake (if fu then 3 else 4) (fun m => ptpMsgType m = if fu then 8 else 0) s with
  | none => s
  | some (x, s1) =>
    let m := puntMsg x
    match puntInst s1 x with
    | none => s1
    | some k =>
      forEach ((ptpSlots s1 (puntPort x) k).filter (fun n => (upOf s1 n).master = ptpSrc m)) (fun n a =>
        let u := upOf a n
        if fu then
          match u.sync with
          | some (q, t2, c) => if q = ptpSeq m then upOffset n t2 (toPtp t2 - ptpStamp m - c - ptpCorr m) x.old a else a
          | none => a
        else
          let t2 := descIn x.desc
          if (BitVec.ofNat 8 (beAt m 6 1)).getLsbD 1 then upSet n { u with sync := if x.old then none else some (ptpSeq m, t2, ptpCorr m) } a
          else upOffset n t2 (toPtp t2 - ptpStamp m - ptpCorr m) x.old a) s1

/-- The launch stamp as the request carried it, 2^-16 ns: whole nanoseconds; the rest travels in the correctionField (R138, R244). -/
def launchPtp (t : Nat) : Int := ((t / 2 ^ 32 * 2 ^ 16 : Nat) : Int)

/-- Launch of an own delay request that is not yet answered (R244). -/
def launchOf (s : State) (p k q : Nat) : Option Nat :=
  let v := mapGet (fun _ => 0) s.ptp.launches ((4 * p + k) * 65536 + q)
  if v = 0 then none else some (v - 1)

def launchClear (p k q : Nat) (s : State) : State :=
  { s with ptp := { s.ptp with launches := mapSet (fun _ => 0) ((4 * p + k) * 65536 + q) 0 s.ptp.launches } }

/-- A Delay_Resp (R244): mean path delay of the slots that follow the answering master. -/
def delayRespRx (x : Punt) (s : State) : State :=
  let m := puntMsg x
  let p := puntPort x
  match puntInst s x with
  | none => s
  | some k =>
    if slice m 44 10 ≠ portIdentity s p then s
    else match launchOf s p k (ptpSeq m) with
      | none => s
      | some t3 =>
        forEach ((ptpSlots s p k).filter (fun n => (upOf s n).master = ptpSrc m)) (fun n a =>
          match (upOf a n).ms with
          | some ms => if x.old then a else
              upSet n { upOf a n with delay := some (divRound (ms + (ptpStamp m - ptpCorr m - launchPtp t3)) 2) } a
          | none => a) (launchClear p k (ptpSeq m) s)

/-- A meanLinkDelay has been measured (R244). -/
def linkDelay (p k q : Nat) (d : Int) (s : State) : State :=
  let s1 := launchClear p k q s
  let s2 : State := { s1 with ptp := { s1.ptp with link := mapSet (fun _ => 0) p (divRound d 2) s1.ptp.link,
                                                   pdelay := mapSet (fun _ => none) p none s1.ptp.pdelay } }
  (stockCommit (ptpTables s2) s2).getD s2

/-- The instance whose Pdelay_Req of a port has the sequenceId. -/
def pdelayInst (s : State) (p q : Nat) : Option Nat := (List.range 4).find? (fun k => p2pOn s p k && (launchOf s p k q).isSome)

/-- A Pdelay_Resp or Pdelay_Resp_Follow_Up (R244). -/
def pdelayRx (fu : Bool) (x : Punt) (s : State) : State :=
  let m := puntMsg x
  let p := puntPort x
  let q := ptpSeq m
  if slice m 44 10 ≠ portIdentity s p ∨ x.old then s
  else match pdelayInst s p q with
    | none => s
    | some k =>
      match launchOf s p k q with
      | none => s
      | some t1 =>
        if fu then
          match mapGet (fun _ => none) s.ptp.pdelay p with
          | some (q0, t4, t2, c) =>
            if q0 = q then linkDelay p k q (toPtp t4 - launchPtp t1 - (ptpStamp m - (t2 : Int)) - c - ptpCorr m) s else s
          | none => s
        else
          let t4 := descIn x.desc
          if (BitVec.ofNat 8 (beAt m 6 1)).getLsbD 1 then
            { s with ptp := { s.ptp with pdelay := mapSet (fun _ => none) p (some (q, t4, (ptpStamp m).toNat, ptpCorr m)) s.ptp.pdelay } }
          else linkDelay p k q (toPtp t4 - launchPtp t1 - ptpCorr m) s

/-- A punted answer to an own delay request: 0 Delay_Resp, 1 Pdelay_Resp, 2 Pdelay_Resp_Follow_Up (R244). -/
def delayAnswer (kind : Nat) (s : State) : State :=
  match puntTake (if kind = 1 then 4 else 3) (fun m => ptpMsgType m = if kind = 0 then 9 else if kind = 1 then 3 else 0xA) s with
  | none => s
  | some (x, s1) => if kind = 0 then delayRespRx x s1 else pdelayRx (decide (kind = 2)) x s1

-- The pair -------------------------------------------------------------------------------------------------------

/-- Body of a PTPSEQ record: the sequenceId of the streams not listed, count, then stream key and sequenceId (R255). -/
def seqBody (s : State) : List Byte :=
  leBytes 2 s.ptp.seqBase ++ leBytes 4 s.ptp.seqs.length ++ s.ptp.seqs.flatMap (fun x => leBytes 4 x.1 ++ leBytes 2 x.2)

/-- Take the sequenceIds of a PTPSEQ record (R391). -/
def seqApply (b : List Byte) (s : State) : State :=
  forEach (List.range (leAt b 2 4)) (fun i a =>
    { a with ptp := { a.ptp with seqs := mapSet (seqRest a) (leAt b (6 + 6 * i) 4) (leAt b (10 + 6 * i) 2) a.ptp.seqs } })
    { s with ptp := { s.ptp with seqs := [], seqBase := leAt b 0 2 } }

/-- Take a GRANT record (R391): held for takeover, with its table entry. -/
def grantApply (b : List Byte) (s : State) : State :=
  let r := grantParse b
  match r.2 with
  | none =>
    let s1 := match grantOf s r.1 with | some x => grantUntable x s | none => s
    grantsShow (grantSet r.1 none s1)
  | some x => grantsShow (grantSet r.1 (some x) ((grantTable r.1 x s).getD s))

/-- A twin becomes LEADER: every stream goes on 512 past the journalled sequenceId (R255). -/
def ptpTakeover (s : State) : State :=
  { s with ptp := { s.ptp with seqs := s.ptp.seqs.map (fun x => (x.1, (x.2 + 512) % 65536)),
                               seqBase := (s.ptp.seqBase + 512) % 65536 } }

/-- The relay pairs in use that a port whose ROLE is not RELAY leaves inert (R253). -/
def relayInert (s : State) : List Nat :=
  (List.range 4).filter (fun k => fbit s (PTP_RELAY k) PTP_RELAY_VALID
    && (ptpRole s (fget s (PTP_RELAY k) PTP_RELAY_PORT_A) != 4 || ptpRole s (fget s (PTP_RELAY k) PTP_RELAY_PORT_B) != 4))

/-- A PTP_CLOCK_ID of 0 is derived from PORT0_MAC_ADDR: the EUI-64 with FF FE in its middle (log entry 135). -/
def clockIdSet (s : State) : State :=
  let m := fget s (PORT_MAC_ADDR 0) PORT_MAC_ADDR_ADDR
  if rd s PTP_CLOCK_ID = 0 then wr PTP_CLOCK_ID (BitVec.ofNat 64 (m / 2 ^ 24 * 2 ^ 40 + 0xFFFE * 2 ^ 24 + m % 2 ^ 24)) s else s

/-- PTPSEQ once a second (R255). -/
def seqJournal (s : State) : State := journal 0x13 (seqBody s) s

-- Registers ------------------------------------------------------------------------------------------------------

/-- Is a signed log field in a range? -/
def logIn (v : Word) (f : Fld) (lo hi : Int) : Bool := decide (lo ≤ sgn 4 (getF f v)) && decide (sgn 4 (getF f v) ≤ hi)

/-- Limits of a PTP_DOM write by profile (R229). -/
def domOk (v : Word) : Bool :=
  let d := getF PTP_DOM_DOMAIN v
  match getF PTP_DOM_PROFILE v with
  | 1 => decide (d ≤ 127) && logIn v PTP_DOM_SYNC_LOG (-7) 1 && logIn v PTP_DOM_ANN_LOG (-3) 4 && logIn v PTP_DOM_DREQ_LOG (-7) 5
  | 2 => decide (d ≤ 127) && logIn v PTP_DOM_SYNC_LOG (-7) 1 && logIn v PTP_DOM_ANN_LOG (-3) 4 && logIn v PTP_DOM_DREQ_LOG (-7) 5
  | 3 => decide (24 ≤ d ∧ d ≤ 43) && logIn v PTP_DOM_SYNC_LOG (-4) (-4) && logIn v PTP_DOM_ANN_LOG (-3) (-3)
      && logIn v PTP_DOM_DREQ_LOG (-4) (-4)
  | 4 => decide (44 ≤ d ∧ d ≤ 63)
  | _ => true

/-- Checks of a write to a PTP register, the plain field ranges apart (R229, R250). -/
def ptpCheck (a : Nat) (v : Word) (s : State) : Verdict :=
  if PTP_DOM 0 ≤ a ∧ a ≤ PTP_DOM 3 then (if domOk v then .ok else vRange)
  else if PTP_QPROF 0 ≤ a ∧ a ≤ PTP_QPROF 3 then
    let t := fun (f : Fld) => getF f v
    if t PTP_QPROF_T1 ≤ t PTP_QPROF_T2 ∧ t PTP_QPROF_T2 ≤ t PTP_QPROF_T3 ∧ t PTP_QPROF_T3 ≤ t PTP_QPROF_T4
        ∧ !(isG8275 s ((a - PTP_QPROF 0) / 8) && decide (10 < t PTP_QPROF_T1)) then .ok else vRange
  else .ok

/-- The effect of an accepted write to a PTP register; `stored` has the plain fields stored. -/
def ptpApply (a : Nat) (v : Word) (stored : State) : Option State :=
  let sync := fun (x : State) => ptpRefresh (svcSync (forEach ((List.range 8).filter (fun p => unitBit x.variant p)) mcastWrite x))
  if PTP_DOM 0 ≤ a ∧ a ≤ PTP_DOM 3 then
    let s1 := if 4 < getF PTP_DOM_PROFILE v then
      cairnState 0x40 sevNotice ((a - PTP_DOM 0) / 8) 0 (getF PTP_DOM_PROFILE v) 0 0 stored else stored
    some (sync s1)
  else if PTP_PORT 0 ≤ a ∧ a ≤ PTP_PORT 7 then some (sync stored)
  else if a = PTP_CTL ∨ (PTP_QPROF 0 ≤ a ∧ a ≤ PTP_QPROF 3) then some (ptpRefresh stored)
  else if PTP_RELAY 0 ≤ a ∧ a ≤ PTP_RELAY 3 ∧ getF PTP_RELAY_VALID v ≠ 0 ∧ getF PTP_RELAY_PORT_A v = getF PTP_RELAY_PORT_B v then
    some (cairnState 0x40 sevNotice ((a - PTP_RELAY 0) / 8) 0 0 0x30 0 stored)
  else none

-- Meanings -------------------------------------------------------------------------------------------------------

/-- LAUNCH_REPORT (R239, R241, R244). -/
def execLaunchReport (port : Nat) (s : State) : Res := run (launchReport port) s

/-- PTP_TX_INJECT (R236). -/
def execPtpTxInject (kind inst port : Nat) (gidx : Option Nat) (j : Nat) (s : State) : Res :=
  run (txInject kind inst port gidx j) s

/-- GRANT_REQUEST (R245, R246). -/
def execGrantRequest (s : State) : Res := run grantRx s

/-- GRANT_CANCEL_RX (R247). -/
def execGrantCancelRx (s : State) : Res := run cancelRx s

/-- GRANT_EXPIRY (R247). -/
def execGrantExpiry (gidx kind : Nat) (s : State) : Res := run (grantExpire gidx kind) s

/-- GRANT_ENTRY_FREE (R247). -/
def execGrantEntryFree (gidx : Nat) (s : State) : Res := run (grantRelease gidx) s

/-- ANNOUNCE_RX (R251). -/
def execAnnounceRx (s : State) : Res := run announceRx s

/-- ANN_TIMEOUT (R252). -/
def execAnnTimeout (n : Nat) (s : State) : Res := runIf (9 ≤ n ∧ n ≤ 16) (annTimeout n) s

/-- UPSTREAM_SYNC_RX (R251). -/
def execUpstreamSyncRx (fu : Bool) (s : State) : Res := run (upSyncRx fu) s

/-- DELAY_ANSWER_RX (R244). -/
def execDelayAnswerRx (kind : Nat) (s : State) : Res := run (delayAnswer kind) s

/-- UPSTREAM_GRANT_RENEW (R251). -/
def execUpstreamGrantRenew (n kind : Nat) (s : State) : Res := runIf (9 ≤ n ∧ n ≤ 16) (upRenew n kind) s

/-- UPSTREAM_GRANT_RETRY (R252). -/
def execUpstreamGrantRetry (n kind : Nat) (s : State) : Res := runIf (9 ≤ n ∧ n ≤ 16) (upRetry n kind) s

/-- UPSTREAM_GRANT_REPLY (R252). -/
def execUpstreamGrantReply (s : State) : Res := run upGrantRx s

/-- PTPSEQ_JOURNAL (R255). -/
def execPtpseqJournal (s : State) : Res := run seqJournal s

end Sys2Proof.Machine
end

