-- ==== Sys2Proof/Machine/Tls.lean ====
section
/-!
DEFINITION. Machine/Tls.lean: what the TLS 1.3 subset of the NTS-KE service computes (R213, RFC 8446): the key schedule, record
protection, the exporter (R220), the Finished MAC, and signatures under an identity's key (R215).
-/
namespace Sys2Proof.Machine
open Sys2Proof

-- Key schedule ---------------------------------------------------------------------------------------------------

/-- Hash of a cipher suite, its length and its HMAC: SHA-256 for TLS_AES_128_GCM_SHA256, SHA-384 for TLS_AES_256_GCM_SHA384. -/
def tlsHash (su : Nat) (m : List Byte) : List Byte := if su = 0x1302 then sha384 m else sha256 m
def tlsLen (su : Nat) : Nat := if su = 0x1302 then 48 else 32
def tlsMac (su : Nat) (key m : List Byte) : List Byte := if su = 0x1302 then hmac384 key m else hmac256 key m

/-- HKDF-Expand blocks with the hash of a suite. -/
def tlsExpandGo (su : Nat) (prk info : List Byte) : Nat → Nat → List Byte → List Byte
  | 0, _, _ => []
  | n + 1, i, prev =>
    let t := tlsMac su prk (prev ++ info ++ [BitVec.ofNat 8 i])
    t ++ tlsExpandGo su prk info n (i + 1) t

/-- HKDF-Expand-Label. -/
def tlsLabel (su : Nat) (secret : List Byte) (label : String) (ctx : List Byte) (n : Nat) : List Byte :=
  let l := ascii "tls13 " ++ ascii label
  let info := beBytes 2 n ++ [BitVec.ofNat 8 l.length] ++ l ++ [BitVec.ofNat 8 ctx.length] ++ ctx
  (tlsExpandGo su secret info ((n + tlsLen su - 1) / tlsLen su) 1 []).take n

/-- Derive-Secret over messages. -/
def tlsDerive (su : Nat) (secret : List Byte) (label : String) (msgs : List Byte) : List Byte :=
  tlsLabel su secret label (tlsHash su msgs) (tlsLen su)

/-- The handshake secret for an (EC)DHE secret; no PSK. -/
def tlsHandshake (su : Nat) (ecdhe : List Byte) : List Byte :=
  let early := tlsMac su (zeros (tlsLen su)) (zeros (tlsLen su))
  tlsMac su (tlsDerive su early "derived" []) ecdhe

/-- The master secret. -/
def tlsMaster (su : Nat) (hs : List Byte) : List Byte := tlsMac su (tlsDerive su hs "derived" []) (zeros (tlsLen su))

/-- The traffic secret after a KeyUpdate. -/
def tlsNext (su : Nat) (secret : List Byte) : List Byte := tlsLabel su secret "traffic upd" [] (tlsLen su)

/-- verify_data of a Finished message over a transcript. -/
def tlsFinished (su : Nat) (secret msgs : List Byte) : List Byte :=
  tlsMac su (tlsLabel su secret "finished" [] (tlsLen su)) (tlsHash su msgs)

/-- The exporter: 32 bytes for a label and a context (R220). -/
def tlsExport (su : Nat) (expo : List Byte) (label : String) (ctx : List Byte) : List Byte :=
  tlsLabel su (tlsDerive su expo label []) "exporter" (tlsHash su ctx) 32

/-- C2S and S2C of NTS (R220): the last byte of the context tells them apart. -/
def ntsExport (su : Nat) (expo : List Byte) (dir : Byte) : List Byte :=
  tlsExport su expo "EXPORTER-network-time-security" [0, 0, 0, 15, dir]

-- Records --------------------------------------------------------------------------------------------------------

/-- Key and nonce of record `seq` under a traffic secret. -/
def tlsKey (su : Nat) (secret : List Byte) : List Byte := tlsLabel su secret "key" [] (if su = 0x1302 then 32 else 16)
def tlsNonce (su : Nat) (secret : List Byte) (seq : Nat) : List Byte :=
  xorBytes (tlsLabel su secret "iv" [] 12) (beBytes 12 seq)

/-- A record of content `ty`: in the clear without a secret, else sealed. -/
def tlsSeal (su : Nat) (secret : List Byte) (seq ty : Nat) (bs : List Byte) : List Byte :=
  if secret.isEmpty then [BitVec.ofNat 8 ty, 3, 3] ++ beBytes 2 bs.length ++ bs
  else
    let head := [23, 3, 3] ++ beBytes 2 (bs.length + 17)
    head ++ gcmSeal (tlsKey su secret) (tlsNonce su secret seq) head (bs ++ [BitVec.ofNat 8 ty])

/-- The inner plaintext of a sealed record, padding included; none where authentication fails. -/
def tlsOpen (su : Nat) (secret : List Byte) (seq : Nat) (body : List Byte) : Option (List Byte) :=
  gcmOpen (tlsKey su secret) (tlsNonce su secret seq) ([23, 3, 3] ++ beBytes 2 body.length) body

/-- Content and content type of an inner plaintext, its padding of zeros taken off. -/
def tlsInner (pt : List Byte) : Option (List Byte × Nat) :=
  match pt.reverse.dropWhile (· == 0) with
  | [] => none
  | t :: r => some (r.reverse, t.toNat)

-- Signatures -----------------------------------------------------------------------------------------------------

/-- Length-prefixed strings, `w` bytes of length each, little-endian. -/
def lvList (w : Nat) : Nat → List Byte → Option (List (List Byte) × List Byte)
  | 0, b => some ([], b)
  | n + 1, b =>
    let l := leAt b 0 w
    if b.length < w + l then none else (lvList w n (b.drop (w + l))).map (fun x => (slice b w l :: x.1, x.2))

/-- RSA key material: p, q and e (R413). -/
def rsaParts (key : List Byte) : Option (Nat × Nat × Nat) :=
  match lvList 2 3 key with
  | some ([p, q, e], _) => some (beNat p, beNat q, beNat e)
  | _ => none

/-- A non-negative INTEGER in DER. -/
def derNat (w x : Nat) : List Byte :=
  let b := (beBytes w x).dropWhile (· == 0)
  let c := match b with
    | [] => [0]
    | h :: _ => if 128 ≤ h.toNat then 0 :: b else b
  [2, BitVec.ofNat 8 c.length] ++ c

/-- An ECDSA signature in DER. -/
def derSig (w : Nat) (rs : Nat × Nat) : List Byte :=
  let b := derNat w rs.1 ++ derNat w rs.2
  [0x30, BitVec.ofNat 8 b.length] ++ b

/-- MGF1 with SHA-256, `n` blocks. -/
def mgf1 (seed : List Byte) (n : Nat) : List Byte := (List.range n).flatMap (fun i => sha256 (seed ++ beBytes 4 i))

/-- EMSA-PSS with SHA-256 and a 32-byte salt, for a modulus of `n` whole bytes (RFC 8017). -/
def emsaPss (n : Nat) (m salt : List Byte) : List Byte :=
  let h := sha256 (zeros 8 ++ sha256 m ++ salt)
  let db := zeros (n - 66) ++ [1] ++ salt
  let x := xorBytes db (mgf1 h (n / 32 + 1))
  (match x with | b :: r => (b &&& 0x7F) :: r | [] => []) ++ h ++ [0xBC]

/-- The key-store entry KEY_LOAD makes of an identity's key (R215, R263). -/
def identKey (i : KeIdent) : Option BnuKey :=
  if i.kty = 4 then (rsaParts i.key).map (fun x => rsaKey i.rsa x.1 x.2.1 x.2.2)
  else some (curveKey i.kty (if i.kty = 2 then 6 else 4) (if i.kty = 3 then leNat i.key else beNat i.key))

/-- The signature of content by unit `n` under an identity's key and scheme (R213), whether it verifies against the public key of the entry
(R270), and the state after its draws from the unit's instance (R263). -/
def keySign (n : Nat) (i : KeIdent) (salt m : List Byte) (s : State) : List Byte × Bool × State :=
  match identKey i with
  | none => ([], false, s)
  | some k =>
    if i.kty = 3 then (edSign i.key m, edVerify (leBytes 32 k.px) (edSign i.key m) m, s)
    else if i.kty = 4 then
      let x := beNat (emsaPss (8 * i.rsa) m salt)
      (beBytes (8 * i.rsa) (rsaSign k x), decide (powMod (rsaSign k x) k.e k.n = x), s)
    else
      let c := nistOf i.kty
      let d := drbgScalar n c.n s
      let z := beNat (if i.kty = 2 then sha384 m else sha256 m) % c.n
      let g := ecdsaSign c k.d z d.1
      (derSig (8 * c.w) g, ecdsaVerify c (k.px, k.py) z g.1 g.2, d.2)

/-- What CertificateVerify signs: the transcript up to Certificate (RFC 8446). -/
def certVerifyText (su : Nat) (msgs : List Byte) : List Byte :=
  List.replicate 64 0x20 ++ ascii "TLS 1.3, server CertificateVerify" ++ [0] ++ tlsHash su msgs

end Sys2Proof.Machine
end

