-- ==== Sys2Proof/Machine/Ke.lean ====
section
/-!
DEFINITION. Machine/Ke.lean: the NTS-KE service (R208 to R228): TCP segments, admission, the TLS subset, identities, requests and
responses, cookies, and the BNU jobs of a handshake. What a punted segment is follows from its bytes and its connection: a command of the
service that names another kind of segment than the one at the head of its ring finds nothing to do.
-/
namespace Sys2Proof.Machine
open Sys2Proof

-- Segments -------------------------------------------------------------------------------------------------------

/-- Offset of the TCP header of a punted segment. -/
def tcpOff (x : Punt) : Nat := leAt x.desc 28 2

def tcpSeq (x : Punt) : Nat := beAt x.frame (tcpOff x + 4) 4
def tcpAck (x : Punt) : Nat := beAt x.frame (tcpOff x + 8) 4
def tcpFlags (x : Punt) : Nat := beAt x.frame (tcpOff x + 13) 1
def tcpPort (x : Punt) : Nat := beAt x.frame (tcpOff x) 2

/-- Payload of a punted segment, without padding. -/
def tcpData (x : Punt) : List Byte :=
  let l3 := leAt x.desc 27 1
  let e := if leAt x.desc 30 2 = 0x0800 then l3 + beAt x.frame (l3 + 2) 2 else l3 + 40 + beAt x.frame (l3 + 4) 2
  (x.frame.take e).drop (tcpOff x + 4 * (beAt x.frame (tcpOff x + 12) 1 / 16))

/-- The peer's MSS option; none given reads 536. -/
def mssOpt : Nat → List Byte → Nat
  | 0, _ => 536
  | f + 1, o => match o with
    | 1 :: r => mssOpt f r
    | 2 :: 4 :: a :: b :: _ => beNat [a, b]
    | 0 :: _ => 536
    | [] => 536
    | _ :: n :: _ => if n.toNat < 2 then 536 else mssOpt f (o.drop n.toNat)
    | _ :: [] => 536

/-- Index of the MSS a SYN cookie encodes: 536, 1,220, 1,440 or 1,460, rounded down (R210). -/
def mssIndex (v6 : Bool) (m : Nat) : Nat :=
  let k := min m (if v6 then 1440 else 1460)
  if k < 1220 then 0 else if k < 1440 then 1 else if k < 1460 then 2 else 3

def mssValue (i : Nat) : Nat := if i = 0 then 536 else if i = 1 then 1220 else if i = 2 then 1440 else 1460

/-- The SYN cookie of a 4-tuple, the client's initial sequence number and an MSS index. -/
def synCookie (s : State) (v6 : Bool) (peer own pport isn m : Nat) : Nat :=
  beNat ((hmac256 s.ke.secret ([if v6 then 1 else 0] ++ beBytes 16 peer ++ beBytes 16 own ++ beBytes 2 pport ++ beBytes 4 isn
    ++ [BitVec.ofNat 8 m])).take 4) / 4 * 4 + m

/-- A TCP segment as a frame (R209, R210): options and payload. -/
def tcpSegment (s : State) (port : Nat) (eth : List Byte) (v6 : Bool) (src dst sport dport seq ack flags : Nat) (opts data : List Byte) :
    List Byte :=
  let n := 20 + opts.length + data.length
  let h := beBytes 2 sport ++ beBytes 2 dport ++ beBytes 4 seq ++ beBytes 4 ack
    ++ [BitVec.ofNat 8 ((20 + opts.length) / 4 * 16), BitVec.ofNat 8 flags] ++ beBytes 2 8192
  ipFrame s port eth (!v6) src dst 6 64
    (h ++ beBytes 2 (65535 - onesSum (pseudoHead (!v6) src dst n 6 ++ h ++ [0, 0, 0, 0] ++ opts ++ data) 0) ++ [0, 0] ++ opts ++ data)

/-- A TCP segment without payload as a frame. -/
def tcpFrame (s : State) (port : Nat) (eth : List Byte) (v6 : Bool) (src dst sport dport seq ack flags : Nat) (opts : List Byte) :
    List Byte := tcpSegment s port eth v6 src dst sport dport seq ack flags opts []

def kePort (s : State) : Nat := fget s SVC_KE_CTL SVC_KE_CTL_PORT

/-- Does the service listen at an address of a port: a service address with NTS = 1 (R176, R208)? -/
def keAddr (s : State) (port : Nat) (v6 : Bool) (addr : Nat) : Bool :=
  s.svc.addrs.any (fun a => !a.ptp && a.v6 == v6 && a.addr == addr && a.ports.testBit port && a.word.testBit 11)

/-- Is a segment addressed to the service (R208)? -/
def keServed (s : State) (x : Punt) : Bool :=
  (match puntSrc x with | some a => keAddr s (puntPort x) a.1 (puntDst x) | none => false)
    && decide (beAt x.frame (tcpOff x + 2) 2 = kePort s)

/-- Answer a punted segment with one that has no payload. -/
def tcpReply (x : Punt) (seq ack flags : Nat) (opts : List Byte) (s : State) : State :=
  match puntSrc x with
  | none => s
  | some a => fwInject 8 (puntPort x) 0
      (tcpFrame s (puntPort x) (puntEth x) a.1 (puntDst x) a.2 (kePort s) (tcpPort x) seq ack flags opts) s

-- Connections ----------------------------------------------------------------------------------------------------

def connOf (s : State) (c : Nat) : Option KeConn := mapGet (fun _ => none) s.ke.conns c
def connCount (s : State) : Nat := s.ke.conns.countP (fun x => x.2.isSome)

/-- CONN and CONN_HWM. -/
def connShow (s : State) : State :=
  let n := connCount s
  fmax SVC_KE_STATUS SVC_KE_STATUS_CONN_HWM n (fset SVC_KE_STATUS SVC_KE_STATUS_CONN n s)

def connSet (c : Nat) (x : Option KeConn) (s : State) : State :=
  connShow { s with ke := { s.ke with conns := mapSet (fun _ => none) c x s.ke.conns } }

/-- The alerts of R223 in the order of their counters (R227). -/
def alertCodes : List Nat := [10, 20, 22, 40, 47, 50, 51, 70, 80, 120]

/-- Detail and key under which an occurrence is aggregated (R228, R500): the detail is the refusal cause 1 to 5, the alert code or the error
code; which of them it is, bits [11:8] of the key tell (DESIGN CHOICE, log entry 132). -/
def keAggKey (j : Nat) : Nat × Nat :=
  if j < 7 then (j, 0x300 + j)
  else if j < 17 then let a := (alertCodes[j - 7]?).getD 0; (a, 0x100 + a)
  else (j - 21, 0x200 + (j - 21))

/-- Count an occurrence and aggregate it by cause (R227, R228). -/
def keCount (j : Nat) (agg : Bool) (s : State) : State :=
  let s1 := bump (EC_KE j) 1 s
  if agg then cairnAgg [0x03, 0x40, sevNotice, (keAggKey j).1, (keAggKey j).2] s1 else s1

/-- Connection of a punted segment. -/
def connFind (s : State) (x : Punt) : Option (Nat × KeConn) :=
  match puntSrc x with
  | none => none
  | some a => s.ke.conns.findSome? (fun y => match y.2 with
    | some c => if c.v6 = a.1 ∧ c.peer = a.2 ∧ c.peerPort = tcpPort x ∧ c.own = puntDst x then some (y.1, c) else none
    | none => none)

/-- Take the head of ring 1 or 2; with that the control cores give its frame back (R104). Ring 2 is that of cluster 2 (R208, R209). -/
def keTake (r : Nat) (s : State) : Option (Punt × State) :=
  if r ≠ 1 ∧ (r ≠ 2 ∨ !unitBit s.variant 34) then none
  else match puntsOf s r with
    | [] => none
    | x :: rest => some (x, frameFree x.desc (puntsSet r rest s))

/-- A segment without payload on a connection. -/
def connSend (c : KeConn) (flags : Nat) (s : State) : State :=
  fwInject 8 c.port 0 (tcpFrame s c.port c.eth c.v6 c.own c.peer (kePort s) c.peerPort c.snd c.rcv flags []) s

/-- Sequence numbers a segment takes. -/
def segLen (x : List Byte × Bool) : Nat := x.1.length + if x.2 then 1 else 0

/-- Inject a segment with payload at Trailhead 8 (R209). -/
def segSend (c : KeConn) (seq : Nat) (x : List Byte × Bool) (s : State) : State :=
  fwInject 8 c.port 0 (tcpSegment s c.port c.eth c.v6 c.own c.peer (kePort s) c.peerPort seq c.rcv
    ((if x.1.isEmpty then 0x10 else 0x18) + if x.2 then 1 else 0) [] x.1) s

/-- Segments that wait are sent while fewer than 10 are in flight (R210); the peer's own window is not consulted (DESIGN CHOICE, log
entry 137). -/
def connPush : Nat → Nat → State → State
  | 0, _, s => s
  | f + 1, k, s =>
    match connOf s k with
    | none => s
    | some c => match c.wait with
      | [] => s
      | x :: r =>
        if 10 ≤ c.unacked.length then s
        else connPush f k (connSet k (some { c with wait := r, unacked := c.unacked ++ [x], snd := (c.snd + segLen x) % 2 ^ 32 })
          (segSend c c.snd x s))

/-- Data cut into segments of the peer's MSS; FIN goes with the last (R210). -/
def segsOf (mss : Nat) (bs : List Byte) (fin : Bool) : List (List Byte × Bool) :=
  match (chunks mss bs.length bs).reverse with
  | [] => if fin then [([], true)] else []
  | x :: r => (r.reverse.map (fun y => (y, false))) ++ [(x, fin)]

/-- Bytes on a connection; FIN may go with them. -/
def connBytes (k : Nat) (c : KeConn) (fin : Bool) (bs : List Byte) (s : State) : State :=
  connPush 10 k (connSet k (some { c with wait := c.wait ++ segsOf c.mss bs fin, fin := c.fin || fin }) s)

/-- A record on a connection, and the connection after it (R213). -/
def recOut (ty : Nat) (bs : List Byte) (x : List Byte × KeConn) : List Byte × KeConn :=
  (x.1 ++ tlsSeal x.2.suite x.2.wr x.2.wrSeq ty bs, { x.2 with wrSeq := if x.2.wr.isEmpty then 0 else x.2.wrSeq + 1 })

/-- Records on a connection: content type and contents. -/
def connData (k : Nat) (c : KeConn) (fin : Bool) (rs : List (Nat × List Byte)) (s : State) : State :=
  let x := rs.foldl (fun a r => recOut r.1 r.2 a) ([], c)
  connBytes k x.2 fin x.1 s

/-- Handshake jobs of a connection are aborted (R212). -/
def connAbort (k : Nat) (s : State) : State :=
  forEach (List.range 8) (fun n a =>
    if (bnuJobs (bnuOf a n)).any (fun j => j.ke = some k) then (jobsAbort n 0 (fun j => decide (j.ke = some k)) a).2 else a) s

/-- A connection is freed. -/
def connFree (k : Nat) (s : State) : State := connSet k none (connAbort k s)

/-- Reset by the device. -/
def connReset (k : Nat) (s : State) : State :=
  match connOf s k with
  | none => s
  | some c => connFree k (connSend c 0x14 s)

/-- Position of an alert among the counters (R227). -/
def alertIndex (a : Nat) : Nat := 7 + alertCodes.idxOf a

/-- Both FINs have come and nothing waits: the connection is freed (R212). -/
def connDone (k : Nat) (s : State) : State :=
  match connOf s k with
  | some c => if c.st = 4 && c.pfin && c.wait.isEmpty then connFree k s else s
  | none => s

/-- A fatal alert, then FIN and the linger timer (R223); the handshake is over, and its identity's key with it (R217). -/
def keAlert (k a : Nat) (s : State) : State :=
  match connOf s k with
  | none => s
  | some c =>
    connDone k (connData k { c with st := 4, job := 0, sub := false, ident := none } true [(21, [2, BitVec.ofNat 8 a])]
      (connAbort k (keCount (alertIndex a) true s)))

-- Jobs -----------------------------------------------------------------------------------------------------------

/-- Descriptor of a handshake's job (R224, R268): 1 key generation, 2 shared secret, 3 signature. -/
def keJob (k step group : Nat) (id : Option KeIdent) (bad : Nat) (s : State) : BnuJob :=
  let big := decide (group = 24)
  let kty := match id with | some i => i.kty | none => 1
  let rsaW := match id with | some i => i.rsa | none => 32
  let op := if step = 1 then (if group = 29 then 0x10 else 0x18) else if step = 2 then (if group = 29 then 0x11 else 0x19)
    else if kty = 4 then 0x28 else if kty = 3 then 0x20 else 0x1A
  let curve := if step < 3 then (if group = 29 then 3 else if big then 2 else 1) else if kty = 4 then 0 else kty
  let w := if curve = 0 then rsaW else if curve = 2 then 6 else 4
  let j : BnuJob := { w0 := op + (if curve = 0 then 0 else 256) + (k % 65536) * 2 ^ 16 + curve * 2 ^ 32 + w * 2 ^ 40, w1 := 0xFFF, w2 := 0,
                      w3 := 0, side := 1, cost := 0, left := 0, short := true, yielded := false, bad := bad, ke := some k }
  let cost := if op = 0x28 then rsaCost rsaW else jobCost s j
  { j with cost := cost, left := cost, short := if curve = 0 then decide (cost < 50000) else true }

/-- What the unit finds wrong with a client's share (R223, R263): 0 nothing. -/
def shareBad (group : Nat) (share : List Byte) : Nat :=
  if group = 29 then
    let u := leNat share % 2 ^ 255
    firstBad (decide (u = 0)) (decide (u = 1)) (decide (p25519 ≤ u)) false false false
  else
    let c := if group = 24 then p384 else p256
    let x := beNat (slice share 1 (8 * c.w))
    let y := beNat (share.drop (1 + 8 * c.w))
    let b := pointBad c x y
    firstBad false false b.1 false b.2.1 b.2.2

/-- The online unit of firmware with the least work and room for a class. -/
def keUnit (s : State) (short : Bool) : Option Nat :=
  ((List.range 8).filter (fun n => bnuFitted s n && bnuOnline s n && !(bnuOf s n).test && !bnuHost s n && queueRoom (bnuOf s n) short)).foldl
    (fun (b : Option Nat) n => match b with
      | none => some n
      | some m => if bnuWork s (bnuOf s n) < bnuWork s (bnuOf s m) then some n else b) none

/-- Submit the job a connection wants, where a unit has room. -/
def keSubmit (k : Nat) (s : State) : State :=
  match connOf s k with
  | none => s
  | some c =>
    if c.job = 0 ∨ c.sub then s
    else
      let j := keJob k c.job c.group c.ident (if c.job = 2 then shareBad c.group c.share else 0) s
      match keUnit s j.short with
      | none => s
      | some n => jobAccept n j (connSet k (some { c with sub := true }) s)

/-- Connections that wait for room try again. -/
def keFeed (s : State) : State := forEach (s.ke.conns.map (·.1)) keSubmit s

-- TLS messages ---------------------------------------------------------------------------------------------------

/-- A vector with a length of `w` bytes, and what follows it. -/
def vecTake (w : Nat) (b : List Byte) : Option (List Byte × List Byte) :=
  let n := beAt b 0 w
  if b.length < w ∨ b.length - w < n then none else some (slice b w n, b.drop (w + n))

/-- Extensions: type and body; none where one runs past the end. -/
def extsOf : Nat → List Byte → Option (List (Nat × List Byte))
  | 0, _ => some []
  | f + 1, b =>
    if b.isEmpty then some []
    else if b.length < 4 then none
    else match vecTake 2 (b.drop 2) with
      | none => none
      | some (x, r) => (extsOf f r).map (fun l => (beAt b 0 2, x) :: l)

/-- Numbers of two bytes. -/
def pairsOf (b : List Byte) : List Nat := (List.range (b.length / 2)).map (fun i => beAt b (2 * i) 2)

/-- Entries with a length of `w` bytes. -/
def vecList (w : Nat) : Nat → List Byte → Option (List (List Byte))
  | 0, _ => some []
  | f + 1, b => if b.isEmpty then some [] else
    match vecTake w b with
    | none => none
    | some (x, r) => (vecList w f r).map (fun l => x :: l)

/-- A ClientHello: session ID, suites, legacy_compression_methods, extensions. -/
structure Hello where
  sid : List Byte
  suites : List Nat
  comp : List Byte
  exts : List (Nat × List Byte)
  deriving DecidableEq, Repr

/-- The body of a ClientHello message (RFC 8446); none where it is malformed: a session ID has at most 32 bytes, the suites are one or more
pairs, and there is a compression method. -/
def helloOf (b : List Byte) : Option Hello :=
  if b.length < 34 then none
  else match vecTake 1 (b.drop 34) with
    | none => none
    | some (sid, r1) => match vecTake 2 r1 with
      | none => none
      | some (su, r2) => match vecTake 1 r2 with
        | none => none
        | some (cm, r3) =>
          if 32 < sid.length ∨ su.length % 2 = 1 ∨ su.isEmpty ∨ cm.isEmpty then none
          else if r3.isEmpty then some ⟨sid, pairsOf su, cm, []⟩
          else match vecTake 2 r3 with
            | none => none
            | some (ex, r4) => if r4.isEmpty then (extsOf (ex.length + 1) ex).map (fun l => ⟨sid, pairsOf su, cm, l⟩) else none

/-- What the client's records turn out to hold. -/
inductive TlsEv where
  | hello (msg : List Byte)
  | finished (ok : Bool)
  | keyUpdate
  | data (bs : List Byte)
  | alert
  | bad (a : Nat)
  deriving DecidableEq, Repr

/-- The handshake message of the bytes collected, once it is whole (R213, R223). No message shares a record with the next: each that the
device accepts is followed by an answer or by new keys. DESIGN CHOICE (log entry 148): the limit of 8,192 bytes is held against the message
without its 4-byte header. -/
def hsTake (c : KeConn) : List TlsEv × KeConn :=
  let h := c.hsb
  let ty := beAt h 0 1
  let n := beAt h 1 3
  let rest := { c with hsb := [] }
  if h.length < 4 then ([], c)
  else if ty ≠ (if c.st < 2 then 1 else if c.st = 3 then 20 else 24) then ([.bad 10], c)
  else if c.st < 2 ∧ 8192 < n then ([.bad 40], c)
  else if c.st = 3 ∧ n ≠ tlsLen c.suite ∨ c.st = 5 ∧ n ≠ 1 then ([.bad 50], c)
  else if h.length < 4 + n then ([], c)
  else if 4 + n < h.length then ([.bad 10], c)
  else if c.st < 2 then ([.hello h], rest)
  else if c.st = 3 then
    (if h.drop 4 = tlsFinished c.suite c.rd c.trans then
      ([.finished true], { rest with trans := c.trans ++ h, rd := c.app, rdSeq := 0, st := 5 })
     else ([.finished false], c))
  else if 1 < beAt h 4 1 then ([.bad 50], c)
  else ([.keyUpdate], { rest with rd := tlsNext c.suite c.rd, rdSeq := 0, upd := c.upd + 1 })

/-- A sealed record (R213, R223): of early data, one that does not open is skipped. -/
def recSealed (body : List Byte) (c : KeConn) : List TlsEv × KeConn :=
  match tlsOpen c.suite c.rd c.rdSeq body with
  | none => if c.early then ([], c) else ([.bad 20], c)
  | some pt =>
    let d := { c with rdSeq := c.rdSeq + 1, early := false }
    if 16384 + 1 < pt.length then ([.bad 22], d)
    else match tlsInner pt with
      | some (b, 22) => hsTake { d with hsb := d.hsb ++ b }
      | some (b, 23) => if d.st = 5 then ([.data b], d) else ([.bad 10], d)
      | some (b, 21) => if b.length = 2 then ([.alert], d) else ([.bad 50], d)
      | _ => ([.bad 10], d)

/-- Does the client still send in the clear, as far as the device's keys tell? -/
def clearRx (c : KeConn) : Bool := c.rd.isEmpty || (decide (c.rd ≠ c.app) && decide (c.upd = 0))

/-- A record of a connection that lingers: an alert counts, a KeyUpdate changes the keys, all else is passed over (R223, R227). -/
def recLinger (ty : Nat) (b : List Byte) (d : KeConn) : List TlsEv × KeConn :=
  if ty = 21 ∧ clearRx d then (if b.length = 2 then [.alert] else [], d)
  else if ty = 23 ∧ !d.rd.isEmpty then
    match tlsOpen d.suite d.rd d.rdSeq b with
    | none => ([], d)
    | some pt =>
      let e := { d with rdSeq := d.rdSeq + 1 }
      match tlsInner pt with
      | some (x, 21) => (if x.length = 2 then [.alert] else [], e)
      | some (x, 22) =>
        if beAt x 0 1 = 24 ∧ !clearRx d then ([], { e with rd := tlsNext d.suite d.rd, rdSeq := 0, upd := d.upd + 1 }) else ([], e)
      | _ => ([], e)
  else ([], d)

/-- The next whole record of the bytes received (R213, R223); none while the connection waits for more. While it computes its flight, only
an alert is read, and what may stand before one: change_cipher_spec and early data. -/
def recTake (c : KeConn) : Option (List TlsEv × KeConn) :=
  let ty := beAt c.rx 0 1
  let n := beAt c.rx 3 2
  if c.rx.length < 5 then none
  else if c.st = 4 then
    (if c.rx.length < 5 + n then none else some (recLinger ty (slice c.rx 5 n) { c with rx := c.rx.drop (5 + n) }))
  else if c.st = 2 ∧ !(ty = 21 ∨ (ty = 20 ∧ n = 1) ∨ (ty = 23 ∧ c.early)) then none
  else if 16384 + (if ty = 23 then 256 else 0) < n then some ([.bad 22], c)
  else if c.rx.length < 5 + n then none
  else
    let b := slice c.rx 5 n
    let d := { c with rx := c.rx.drop (5 + n) }
    if ty = 20 then some (if (1 ≤ c.st ∧ c.st ≤ 3) ∧ b = [1] then ([], d) else ([.bad 10], d))
    else if ty = 21 ∧ c.st ≤ 3 then some (if n = 2 then ([.alert], d) else ([.bad 50], d))
    else if ty = 22 ∧ c.st < 2 then some (hsTake { d with hsb := d.hsb ++ b })
    else if ty = 23 ∧ (c.st = 1 ∨ c.st = 2) ∧ c.early then some ([], d)
    else if ty = 23 ∧ !c.rd.isEmpty then some (recSealed b d)
    else some ([.bad 10], d)

/-- Does the reading of records stop after an event? -/
def evStops : TlsEv → Bool
  | .hello _ => true
  | .finished ok => !ok
  | .alert => true
  | .bad _ => true
  | _ => false

/-- All whole records of the bytes received, up to one after which the device has to act. -/
def recScan : Nat → KeConn → List TlsEv × KeConn
  | 0, c => ([], c)
  | f + 1, c => match recTake c with
    | none => ([], c)
    | some (es, d) =>
      if es.any evStops then (es, d)
      else let r := recScan f d; (es ++ r.1, r.2)

def extOf (h : Hello) (t : Nat) : Option (List Byte) := (h.exts.find? (fun x => x.1 = t)).map (·.2)

/-- Does a name of an identity match a server name: equal, or "*.rest" for one leading label (R214)? -/
def nameFits (n want : List Byte) : Bool :=
  n == want || (n.take 2 == ascii "*." &&
    (match want.dropWhile (fun b => b ≠ 0x2E) with
      | [] => false
      | rest => decide (rest = n.drop 1) && decide (rest.length < want.length)))

/-- Signature scheme of an identity (R213). -/
def schemeOf (i : KeIdent) : Nat := if i.kty = 1 then 0x0403 else if i.kty = 2 then 0x0503 else if i.kty = 3 then 0x0807 else 0x0804

/-- The identity of a handshake (R214). -/
def identFor (s : State) (name : Option (List Byte)) (schemes : List Nat) : Option KeIdent :=
  let all := s.ke.idents.filter (·.valid)
  let byName := match name with
    | none => []
    | some n => all.filter (fun (i : KeIdent) => i.names.any (fun x => nameFits x n))
  (if byName.isEmpty then all else byName).find? (fun i => schemes.contains (schemeOf i))

/-- What a ClientHello leads to. -/
inductive HelloRes where
  | alert (a : Nat)
  | retry (suite group : Nat) (sid : List Byte)
  | ok (suite group : Nat) (id : KeIdent) (share sid : List Byte)
  deriving DecidableEq, Repr

/-- Key shares offered: group and key. -/
def sharesOf : Nat → List Byte → Option (List (Nat × List Byte))
  | 0, _ => some []
  | f + 1, b => if b.isEmpty then some [] else if b.length < 4 then none else
    match vecTake 2 (b.drop 2) with
    | none => none
    | some (x, r) => (sharesOf f r).map (fun l => (beAt b 0 2, x) :: l)

/-- The one vector with a length of `w` bytes that a body is. -/
def vecWhole (w : Nat) (b : List Byte) : Option (List Byte) := (vecTake w b).bind (fun x => if x.2.isEmpty then some x.1 else none)

/-- A vector of numbers of two bytes. -/
def vecPairs (w : Nat) (b : List Byte) : Option (List Nat) :=
  (vecWhole w b).bind (fun v => if v.length % 2 = 0 then some (pairsOf v) else none)

/-- The first host name of a server_name extension (RFC 6066). -/
def sniName (b : List Byte) : Option (Option (List Byte)) :=
  (vecWhole 2 b).bind (fun v => if v.isEmpty then none else if beAt v 0 1 ≠ 0 then some none
    else (vecTake 2 (v.drop 1)).map (fun x => some x.1))

/-- What an extension says: `dflt` where it is absent, none where it is malformed (R223). -/
def extRead {α : Type} (h : Hello) (t : Nat) (dflt : α) (f : List Byte → Option α) : Option α :=
  match extOf h t with
  | none => some dflt
  | some b => f b

/-- The extensions the device reads (R213). -/
structure HelloExts where
  vers : List Nat
  alpn : List (List Byte)
  groups : List Nat
  sigs : List Nat
  shares : List (Nat × List Byte)
  name : Option (List Byte)
  deriving DecidableEq, Repr

/-- The extensions of a ClientHello; none where one is malformed. -/
def helloExts (h : Hello) : Option HelloExts :=
  match extRead h 43 [] (vecPairs 1), extRead h 16 [] (fun b => (vecWhole 2 b).bind (fun v => vecList 1 (v.length + 1) v)),
      extRead h 10 [] (vecPairs 2), extRead h 13 [] (vecPairs 2),
      extRead h 51 [] (fun b => (vecWhole 2 b).bind (fun v => sharesOf (v.length + 1) v)), extRead h 0 none sniName with
  | some v, some a, some g, some sg, some sh, some n => some ⟨v, a, g, sg, sh, n⟩
  | _, _, _, _, _, _ => none

/-- Negotiation under the TLS subset (R213, R214, R223); `second` after a HelloRetryRequest. -/
def negotiate (s : State) (second : Bool) (h : Hello) : HelloRes :=
  let pref := if fbit s SVC_KE_CTL SVC_KE_CTL_AES256_FIRST then [0x1302, 0x1301] else [0x1301, 0x1302]
  match helloExts h with
  | none => .alert 50
  | some x =>
    if !x.vers.contains 0x0304 then .alert 70
    else if h.comp ≠ [0] then .alert 47
    else match pref.find? (fun c => h.suites.contains c), [29, 23, 24].find? (fun g => x.groups.contains g) with
      | some su, some g =>
        if !x.alpn.contains (ascii "ntske/1") then .alert 120
        else match identFor s x.name x.sigs with
          | none => .alert 40
          | some id => match x.shares.find? (fun y => y.1 = g) with
            | none => if second then .alert 40 else .retry su g h.sid
            | some (_, k) =>
              let n := if g = 29 then 32 else if g = 23 then 65 else 97
              if k.length ≠ n ∨ (g ≠ 29 ∧ beAt k 0 1 ≠ 4) then .alert 47 else .ok su g id k h.sid
      | _, _ => .alert 40

/-- The change_cipher_spec record that follows the device's first handshake message to a client with a session ID (RFC 8446, D.4). -/
def ccsFor (sid : List Byte) : List Byte := if sid.isEmpty then [] else tlsSeal 0 [] 0 20 [1]

/-- A handshake message. -/
def hsMsg (ty : Nat) (b : List Byte) : List Byte := [BitVec.ofNat 8 ty] ++ beBytes 3 b.length ++ b

/-- A ServerHello: random, session ID, suite, key_share body. -/
def serverHello (rnd sid : List Byte) (suite : Nat) (share : List Byte) : List Byte :=
  let ex := [0, 43, 0, 2, 3, 4, 0, 51] ++ beBytes 2 share.length ++ share
  hsMsg 2 ([3, 3] ++ rnd ++ [BitVec.ofNat 8 sid.length] ++ sid ++ beBytes 2 suite ++ [0] ++ beBytes 2 ex.length ++ ex)

/-- The own key share for a private scalar. -/
def ownShare (group d : Nat) : List Byte :=
  if group = 29 then leBytes 32 (x25519 d 9)
  else
    let c := if group = 24 then p384 else p256
    let q := (ecMul c d (ecBase c)).getD (0, 0)
    [4] ++ beBytes (8 * c.w) q.1 ++ beBytes (8 * c.w) q.2

/-- The Certificate message with a chain as stored (R214). -/
def certMsg (cs : List (List Byte)) : List Byte :=
  let l := cs.flatMap (fun c => beBytes 3 c.length ++ c ++ [0, 0])
  hsMsg 11 ([0] ++ beBytes 3 l.length ++ l)

-- Events of a connection -----------------------------------------------------------------------------------------

/-- What is left in flight once `d` sequence numbers have been acknowledged. -/
def ackDrop : Nat → List (List Byte × Bool) → List (List Byte × Bool)
  | _, [] => []
  | d, x :: r => if segLen x ≤ d then ackDrop (d - segLen x) r else (x.1.drop d, x.2) :: r

/-- Sequence numbers in flight, and the first of them. -/
def inFlight (c : KeConn) : Nat := (c.unacked.map segLen).sum
def connUna (c : KeConn) : Nat := (c.snd + 2 ^ 32 - inFlight c % 2 ^ 32) % 2 ^ 32

/-- An acknowledgement (R210). -/
def connAcked (x : Punt) (c : KeConn) : KeConn :=
  let d := (tcpAck x + 2 ^ 32 - connUna c) % 2 ^ 32
  if tcpFlags x / 16 % 2 = 1 ∧ 0 < d ∧ d ≤ inFlight c then { c with unacked := ackDrop d c.unacked, resent := 0, rto := 1000 } else c

/-- A segment in order on its connection: what it brings is kept for the TLS layer. -/
def segTake (x : Punt) (c : KeConn) : KeConn :=
  let d := connAcked x c
  { d with rcv := (c.rcv + (tcpData x).length + tcpFlags x % 2) % 2 ^ 32, pfin := c.pfin || decide (tcpFlags x % 2 = 1),
           rx := c.rx ++ tcpData x }

/-- What kind of segment of a connection a punted one is: 0 it ends a ClientHello, 1 it brings the client's Finished or of its request, 2 an
alert, 3 a KeyUpdate, 4 the peer's FIN alone, 5 any other. -/
def segKind (s : State) (x : Punt) : Nat :=
  match connFind s x with
  | none => 5
  | some (_, c) =>
    if tcpFlags x / 4 % 2 = 1 ∨ tcpSeq x ≠ c.rcv then 5
    else
      let d := segTake x c
      match (recScan (d.rx.length + 1) d).1 with
      | .hello _ :: _ => 0
      | .finished _ :: _ => 1
      | .data _ :: _ => 1
      | .alert :: _ => 2
      | .keyUpdate :: _ => 3
      | .bad _ :: _ => 5
      | [] => if tcpFlags x % 2 = 1 then 4 else 5

/-- KE_SYN (R210). -/
def keSyn (r : Nat) (s : State) : State :=
  match keTake r s with
  | none => s
  | some (x, s1) =>
    match puntSrc x with
    | none => s1
    | some a =>
      if tcpFlags x / 2 % 2 = 0 ∨ tcpFlags x / 16 % 2 = 1 ∨ !keServed s x then s1
      else
        let n := 4 * (beAt x.frame (tcpOff x + 12) 1 / 16) - 20
        let m := mssIndex a.1 (mssOpt (n + 1) (slice x.frame (tcpOff x + 20) n))
        tcpReply x (synCookie s1 a.1 a.2 (puntDst x) (tcpPort x) (tcpSeq x) m) ((tcpSeq x + 1) % 2 ^ 32) 0x12
          ([2, 4] ++ beBytes 2 (if a.1 then 1440 else 1460)) (keCount 0 false s1)

/-- Source of R211: an IPv4 address or an IPv6 /64. -/
def keSource (v6 : Bool) (a : Nat) : Nat := if v6 then a / 2 ^ 64 + 2 ^ 64 else a

/-- Why a completion is refused (R211): counter, 0 for none. -/
def keRefusal (s : State) (a : Bool × Nat) (ok : Bool) : Nat :=
  let mine := s.ke.conns.countP (fun y => match y.2 with
    | some c => decide (c.v6 = a.1) && decide (keSource c.v6 c.peer = keSource a.1 a.2)
    | none => false)
  if !ok then 1
  else if fget s SVC_KE_LIMITS SVC_KE_LIMITS_MAX_CONN ≤ connCount s then 2
  else if fget s SVC_KE_LIMITS SVC_KE_LIMITS_SRC_MAX ≤ mine then 3
  else if 1000 * fget s SVC_KE_BACKLOG SVC_KE_BACKLOG_LIMIT_MS < backlogUs s then 4
  else if !fbit s SVC_KE_STATUS SVC_KE_STATUS_LISTENING then 5
  else 0

/-- The lowest free connection. -/
def connFreeIx (s : State) : Nat := s.ke.conns.foldl (fun n x => if x.1 = n ∧ x.2.isSome then n + 1 else n) 0

/-- KE_HANDSHAKE_ACK (R211): a segment that also carries data stays at the head of its ring. -/
def keAck (r : Nat) (s : State) : State :=
  match keTake r s with
  | none => s
  | some (x, s1) =>
    match puntSrc x, connFind s1 x with
    | some a, none =>
      if tcpFlags x / 16 % 2 = 0 ∨ tcpFlags x / 2 % 4 ≠ 0 ∨ !keServed s x then s1
      else
        let isn := (tcpSeq x + 2 ^ 32 - 1) % 2 ^ 32
        let ck := (tcpAck x + 2 ^ 32 - 1) % 2 ^ 32
        let m := ck % 4
        let ok := decide (synCookie s1 a.1 a.2 (puntDst x) (tcpPort x) isn m = ck)
        let why := keRefusal s1 a ok
        if why ≠ 0 then tcpReply x (tcpAck x) 0 0x04 [] (keCount why true s1)
        else
          let c : KeConn :=
            { v6 := a.1, peer := a.2, peerPort := tcpPort x, own := puntDst x, port := puntPort x, eth := puntEth x,
              rcv := tcpSeq x, snd := tcpAck x, mss := mssValue m, st := 0, rx := [], suite := 0, group := 0, ident := none, share := [],
              sid := [], priv := 0, rnd := [], job := 0, sub := false, again := false, upd := 0, unacked := [], wait := [], fin := false, resent := 0,
              rto := 1000, pfin := false, trans := [], hsb := [], rd := [], rdSeq := 0, wr := [], wrSeq := 0, app := [], expo := [],
              early := false, req := [] }
          connSet (connFreeIx s1) (some c) (if (tcpData x).isEmpty then s1 else s)
    | _, _ => s1

/-- HelloRetryRequest's random (RFC 8446). -/
def hrrRandom : List Byte := sha256 (ascii "HelloRetryRequest")

/-- The message that stands for the first ClientHello in the transcript after a HelloRetryRequest (RFC 8446). -/
def helloHash (su : Nat) (m : List Byte) : List Byte := hsMsg 254 (tlsHash su m)

/-- A ClientHello message is negotiated (R213, R214). -/
def keHello (k : Nat) (m : List Byte) (s : State) : State :=
  match connOf s k with
  | none => s
  | some c =>
    match helloOf (m.drop 4) with
    | none => keAlert k 50 s
    | some h =>
      let early := (extOf h 42).isSome
      match negotiate s (decide (c.st = 1)) h with
      | .alert a => keAlert k a s
      | .retry su g sid =>
        let hrr := serverHello hrrRandom sid su (beBytes 2 g)
        let d := { c with st := 1, suite := su, group := g, early := early, trans := helloHash su m ++ hrr }
        connBytes k d false ((recOut 22 hrr ([], d)).1 ++ ccsFor sid) s
      | .ok su g id share sid =>
        if c.st = 1 ∧ su ≠ c.suite then keAlert k 47 s
        else keSubmit k (connSet k (some { c with st := 2, suite := su, group := g, ident := some id, share := share, sid := sid,
                                                  early := early, trans := c.trans ++ m, job := 1, sub := false }) s)

/-- Records of an NTS-KE request: critical, type, body; the last argument of the answer says that it ended with End of Message. -/
def ntsRecs : Nat → List Byte → Option (List (Bool × Nat × List Byte))
  | 0, _ => none
  | f + 1, b =>
    if b.length < 4 then none
    else match vecTake 2 (b.drop 2) with
      | none => none
      | some (x, r) =>
        let t := beAt b 0 2 % 2 ^ 15
        if t = 0 then (if r.isEmpty then some [] else none)
        else (ntsRecs f r).map (fun l => (decide (2 ^ 15 ≤ beAt b 0 2), t, x) :: l)

/-- What a request asks: an error code, or whether protocol 0 and AEAD 15 are offered and a port is asked (R218). DESIGN
CHOICE (log entry 149): duplicates and records a request may not hold come first, then an unknown critical record, then missing records. -/
def ntsAsk (req : List Byte) : Nat ⊕ (Bool × Bool × Bool) :=
  if 1024 < req.length then .inl 1
  else match ntsRecs 256 req with
    | none => .inl 1
    | some l =>
      let n := fun (t : Nat) => l.countP (fun x => x.2.1 = t)
      if [1, 4, 6, 7].any (fun t => decide (1 < n t)) || [2, 3, 5].any (fun t => decide (0 < n t)) then .inl 1
      else if l.any (fun x => x.1 && decide (7 < x.2.1)) then .inl 0
      else
        let body := fun (t : Nat) => (l.find? (fun x => x.2.1 = t)).map (fun x => pairsOf x.2.2)
        match body 1 with
        | none => .inl 1
        | some ps =>
          if ps.contains 0 then
            match body 4 with
            | none => .inl 1
            | some as => .inr (true, as.contains 15, decide (0 < n 7))
          else .inr (false, false, decide (0 < n 7))

/-- One NTS-KE record of the device; the critical bit is set but on cookies. -/
def ntsRec (t : Nat) (b : List Byte) : List Byte := beBytes 2 (t + if t = 5 then 0 else 2 ^ 15) ++ beBytes 2 b.length ++ b

/-- A cookie under a master key with a nonce (R189). -/
def cookieSeal (k : KeySlot) (nonce c2s s2c : List Byte) : List Byte :=
  let v := sivSeal k.key [nonce] ([0, 15] ++ c2s ++ s2c)
  beBytes 4 k.kid ++ nonce ++ v.1 ++ v.2 ++ [0, 0]

/-- One cookie under the CURRENT key (R189, R220, R221); none where the seal port has no key to seal it under, or the key
store has lost it (R466). -/
def cookieMake (c2s s2c : List Byte) (s : State) : Option (List Byte × State) :=
  match keyIn s 2 with
  | none => none
  | some n =>
    if (keyMeet n s).1 then none
    else
      let nonce := drawBytes 16 (keyMeet n s).2
      some (cookieSeal (keyOfSlot s n) nonce.1 c2s s2c, keCount 25 false nonce.2)

/-- `n` cookies as records. -/
def cookieRecs (c2s s2c : List Byte) : Nat → State → Option (List Byte × State)
  | 0, s => some ([], s)
  | n + 1, s =>
    match cookieMake c2s s2c s with
    | none => none
    | some x => (cookieRecs c2s s2c n x.2).map (fun y => (ntsRec 5 x.1 ++ y.1, y.2))

/-- The response to a request (R218 to R222); none where a cookie cannot be sealed (R223). A body that stays empty leaves out the AEAD record or
the cookies, and nothing else. -/
def ntsAnswer (req c2s s2c : List Byte) (s : State) : Option (List Byte × State) :=
  let err := fun (e : Nat) => some (ntsRec 2 (beBytes 2 e) ++ ntsRec 0 [], keCount (21 + e) true s)
  match ntsAsk req with
  | .inl e => err e
  | .inr (proto, aead, port) =>
    let side := (if s.ke.server.isEmpty then [] else ntsRec 6 s.ke.server) ++ (if port then ntsRec 7 [0, 123] else [])
    if !keysReady s then err 2
    else if !proto then some (ntsRec 1 [] ++ side ++ ntsRec 0 [], keCount 24 false s)
    else if !aead then some (ntsRec 1 [0, 0] ++ ntsRec 4 [] ++ side ++ ntsRec 0 [], keCount 24 false s)
    else (cookieRecs c2s s2c (fget s SVC_KE_CTL SVC_KE_CTL_COOKIES) s).map (fun ck =>
      (ntsRec 1 [0, 0] ++ ntsRec 4 [0, 15] ++ side ++ ck.1 ++ ntsRec 0 [], keCount 20 false ck.2))

/-- Has a request come to its end: End of Message, or a record that does not fit into 1,024 bytes (R218)? -/
def reqEnds : Nat → Nat → List Byte → Bool
  | 0, _, _ => true
  | f + 1, o, b =>
    let l := beAt b 2 2
    if b.length < 4 then decide (1024 < o + b.length)
    else if beAt b 0 2 % 2 ^ 15 = 0 ∨ 1024 < o + 4 + l then true
    else decide (4 + l ≤ b.length) && reqEnds f (o + 4 + l) (b.drop (4 + l))

/-- The answer to the request a connection holds, close_notify and FIN (R218 to R220). -/
def keReply (k : Nat) (s : State) : State :=
  match connOf s k with
  | none => s
  | some c =>
    match ntsAnswer c.req (ntsExport c.suite c.expo 0) (ntsExport c.suite c.expo 1) s with
    | none => keAlert k 80 (match keyIn s 2 with | some n => (keyUse n s).2 | none => s)
    | some r => connDone k (connData k { c with st := 4 } true [(23, r.1), (21, [1, 0])] r.2)

/-- What follows from one thing the client's records hold (R213, R217, R218, R223). -/
def keAct (k : Nat) (s : State) (e : TlsEv) : State :=
  match connOf s k with
  | none => s
  | some c =>
    if c.st = 4 then (match e with | .alert => connFree k (keCount 17 false s) | _ => s)
    else match e with
      | .hello m => keHello k m s
      | .finished ok => if ok then connSet k (some { c with ident := none }) (keCount 6 false s) else keAlert k 51 s
      | .keyUpdate => s
      | .data b =>
        let d := { c with req := c.req ++ b }
        if reqEnds 1024 0 d.req then keReply k (connSet k (some d) s) else connSet k (some d) s
      | .alert => connFree k (keCount 17 false s)
      | .bad a => keAlert k a s

/-- The records a connection has received are read, up to one after which the device has to act. -/
def keScanOnce (k : Nat) (s : State) : State :=
  match connOf s k with
  | none => s
  | some c => let r := recScan (c.rx.length + 1) c; r.1.foldl (keAct k) (connSet k (some r.2) s)

/-- The records a connection has received are read; what stands behind a ClientHello or an error is read as the connection then stands. -/
def keScan (k : Nat) (s : State) : State := keScanOnce k (keScanOnce k (keScanOnce k s))

/-- The peer's FIN (R212): a request it cuts off is answered as it stands. -/
def kePeerFin (k : Nat) (s : State) : State :=
  match connOf s k with
  | none => s
  | some c => connDone k (if c.pfin && decide (c.st = 5) then keReply k s else s)

/-- The segment at the head of a ring (R210, R212, R213, R218, R223); one of no connection is dropped. DESIGN CHOICE (log entry
150): the acknowledgement number of a segment that is discarded as out of order is taken all the same. -/
def keInput (r : Nat) (s : State) : State :=
  match keTake r s with
  | none => s
  | some (x, s1) =>
    match connFind s1 x with
    | none => s1
    | some (k, c) =>
      if tcpFlags x / 4 % 2 = 1 then connFree k s1
      else if tcpSeq x ≠ c.rcv then connPush 10 k (connSend (connAcked x c) 0x10 (connSet k (some (connAcked x c)) s1))
      else
        let d := segTake x c
        let s2 := connSet k (some d) s1
        let s3 := if (tcpData x).isEmpty ∧ tcpFlags x % 2 = 0 then s2 else connSend d 0x10 s2
        kePeerFin k (keScan k (connPush 10 k s3))

/-- The head of a ring is handled where it is a segment of the kind. -/
def keOn (kind r : Nat) (s : State) : State :=
  match keTake r s with
  | none => s
  | some (x, _) => if segKind s x = kind then keInput r s else s

-- Jobs of a handshake --------------------------------------------------------------------------------------------

/-- The (EC)DHE secret of a connection. -/
def sharedSecret (c : KeConn) : List Byte :=
  if c.group = 29 then leBytes 32 (x25519 c.priv (leNat c.share))
  else
    let v := if c.group = 24 then p384 else p256
    let n := 8 * v.w
    beBytes n ((ecMul v c.priv (some (beNat (slice c.share 1 n), beNat (c.share.drop (1 + n))))).getD (0, 0)).1

/-- ServerHello, the handshake secret, and EncryptedExtensions and Certificate of a connection whose secret is computed (R213, R214). -/
def keOpening (c : KeConn) (id : KeIdent) : List Byte × List Byte × List Byte × List Byte :=
  let pub := ownShare c.group c.priv
  let sh := serverHello (c.rnd.take 32) c.sid c.suite (beBytes 2 c.group ++ beBytes 2 pub.length ++ pub)
  let ee := hsMsg 8 ([0, 14, 0, 16, 0, 10, 0, 8, 7] ++ ascii "ntske/1")
  (sh, tlsHandshake c.suite (sharedSecret c), ee, certMsg id.certs)

/-- The signature of a connection's CertificateVerify by unit `n` (R270). -/
def connSig (n k : Nat) (s : State) : List Byte × Bool × State :=
  match connOf s k with
  | none => ([], true, s)
  | some c => match c.ident with
    | none => ([], true, s)
    | some id =>
      let o := keOpening c id
      keySign n id (c.rnd.drop 32) (certVerifyText c.suite (c.trans ++ o.1 ++ o.2.2.1 ++ o.2.2.2)) s

/-- ServerHello through Finished (R213, R214), with the signature of unit `n`: under the handshake keys the signature and the server's
Finished; then the application keys. -/
def keFlight (n k : Nat) (s : State) : State :=
  match connOf s k with
  | none => s
  | some c => match c.ident with
    | none => s
    | some id =>
      let su := c.suite
      let (sh, hs, ee, cm) := keOpening c id
      let t1 := c.trans ++ sh
      let sig := connSig n k s
      let cv := hsMsg 15 (beBytes 2 (schemeOf id) ++ beBytes 2 sig.1.length ++ sig.1)
      let out := tlsDerive su hs "s hs traffic" t1
      let fin := hsMsg 20 (tlsFinished su out (t1 ++ ee ++ cm ++ cv))
      let t4 := t1 ++ ee ++ cm ++ cv ++ fin
      let ms := tlsMaster su hs
      let x0 := recOut 22 sh ([], c)
      let ccs := if beAt c.trans 0 1 = 254 then [] else ccsFor c.sid
      let x1 := [ee, cm, cv, fin].foldl (fun a m => recOut 22 m a) (x0.1 ++ ccs, { x0.2 with wr := out, wrSeq := 0 })
      let d := { x1.2 with st := 3, job := 0, sub := false, trans := t4, rd := tlsDerive su hs "c hs traffic" t1, rdSeq := 0,
                           wr := tlsDerive su ms "s ap traffic" t4, wrSeq := 0, app := tlsDerive su ms "c ap traffic" t4,
                           expo := tlsDerive su ms "exp master" t4 }
      kePeerFin k (keScan k (connBytes k d false x1.1 sig.2.2))

/-- LISTENING, and the Cairn entry of a change (R215, R228). -/
def keListen (s : State) : State :=
  let on := ntsFitted s && fbit s SVC_KE_CTL SVC_KE_CTL_ENABLE && s.ke.idents.any (·.valid)
  if fbit s SVC_KE_STATUS SVC_KE_STATUS_LISTENING == on then s
  else cairnState 0x40 sevNotice 0 (if on then 0 else 1) (if on then 1 else 0) 0 0
    (fsetB SVC_KE_STATUS SVC_KE_STATUS_LISTENING on s)

/-- Is identity `k` past its notAfter (R216)? -/
def identPast (s : State) (k : Nat) : Bool :=
  match s.ke.idents[k]? with
  | some i => !tsuUnset s && decide (i.notAfter < nowSec s)
  | none => false

/-- Bit `k` for each identity that `f` accepts. -/
def identMask (s : State) (f : Nat → Bool) : Nat :=
  (List.range 4).foldl (fun a k => if decide (k < s.ke.idents.length) && f k then a + 2 ^ k else a) 0

/-- The identity registers (R215, R216). -/
def identsShow (s : State) : State :=
  let s1 := forEach (List.range 4) (fun k a => wr (SVC_KE_IDENT k) (match a.ke.idents[k]? with
    | none => 0
    | some i => setF SVC_KE_IDENT_KEY_TYPE i.kty (setF SVC_KE_IDENT_RSA_WORDS i.rsa (setF SVC_KE_IDENT_VALID (if i.valid then 1 else 0)
        (setF SVC_KE_IDENT_EXPIRED (if identPast a k then 1 else 0) (setF SVC_KE_IDENT_NAMES i.names.length
          (setF SVC_KE_IDENT_NOT_AFTER (i.notAfter % 2 ^ 32) 0)))))) a) s
  keListen (fset SVC_KE_STATUS SVC_KE_STATUS_IDENT_VALID (identMask s1 (fun k => match s1.ke.idents[k]? with | some i => i.valid | none => false))
    (fset SVC_KE_STATUS SVC_KE_STATUS_IDENT_EXPIRED (identMask s1 (identPast s1)) s1))

/-- The private key of identity `k` is read to sign with; where the key store has lost it the identity is not valid, and the flag says so
(R466). -/
def identUse (k : Nat) (s : State) : Bool × State :=
  let m := keyMeet (64 + k) s
  (m.1, if m.1 then identsShow (keyGone (64 + k) { m.2 with
      ke := { m.2.ke with idents := m.2.ke.idents.modify k (fun i => { i with valid := false }) },
      bnu := { m.2.bnu with keys := mapSet (fun _ => none) k none m.2.bnu.keys } })
    else m.2)

/-- A job of a handshake has ended on unit `n` with a status (R213, R223); keys are drawn from the unit's instance (R263). -/
def keJobDone (n : Nat) (j : BnuJob) (status : Nat) (s : State) : State :=
  match j.ke.bind (fun k => (connOf s k).map (fun c => (k, c))) with
  | none => s
  | some (k, c) =>
    if c.st ≠ 2 ∨ !c.sub then s
    else if status = 0 then
      if c.job = 1 then
        let d := if c.group = 29 then (leNat (drbgGen n 32 s).1, (drbgGen n 32 s).2) else drbgScalar n (if c.group = 24 then p384 else p256).n s
        keSubmit k (connSet k (some { c with priv := d.1, job := 2, sub := false }) d.2)
      else if c.job = 2 then
        let r := drawBytes 64 s
        if c.group = 29 ∧ x25519 c.priv (leNat c.share) = 0 then keAlert k 47 s
        else
          let u := (match s.ke.idents.findIdx? (fun i => c.ident = some i) with | some n => identUse n r.2 | none => (false, r.2))
          if u.1 then keAlert k 80 u.2
          else keSubmit k (connSet k (some { c with job := 3, sub := false, rnd := r.1 }) u.2)
      else keFlight n k s
    else if status ≤ 7 then keAlert k 47 s
    else if status = 9 then
      (if c.again then keAlert k 80 s else keSubmit k (connSet k (some { c with again := true, sub := false }) s))
    else if status = 8 then keSubmit k (connSet k (some { c with sub := false }) s)
    else keAlert k 80 s

/-- Jobs that went with a unit are submitted to another. -/
def keJobsLost (js : List BnuJob) (s : State) : State := js.foldl (fun a j => keJobDone 0 j 8 a) s

/-- The signature a signing job makes, whether it verifies, and the state after its draws (R270): a register job's or a handshake's. -/
def anySig (n : Nat) (j : BnuJob) (s : State) : List Byte × Bool × State :=
  match j.ke with
  | none => jobSig n j s
  | some k => connSig n k s

/-- The running job ends (R266, R270, R271, R275). The verify-before-release of a signature fails where an upset spoils it, `fault` counts these,
0 to 2, or where the signature does not verify; ECDSA repeats with a new nonce. The job, its status and the jobs that went with the unit
are returned. -/
def bnuComplete (n fault : Nat) (s : State) : Option (BnuJob × Nat × List BnuJob) × State :=
  let u := bnuOf s n
  match u.run with
  | none => (none, s)
  | some j =>
    let s1 := bnuSet n { u with run := none } s
    if j.bad = 0xC then (some (j, 0xC, []), jobFail n j 0xC j.cost 0 s1)
    else if j.bad = 0x108 then (some (j, 8, []), jobFail n j 8 0 fNOENTROPY s1)
    else if j.bad ≠ 0 then (some (j, j.bad, []), jobFail n j j.bad (valCycles j) 0 s1)
    else
      let own := opSign (jOp j)
      let retried := own && (decide (1 ≤ fault) || !(anySig n j s1).2.1)
      let s2 := if retried then raiseOnce EV_BNU_SIG_RETRY (bump (UC_BNU n 12) 1 s1) else s1
      let cyc := if retried then 2 * j.cost else j.cost
      let fl := if retried then fRETRIED else 0
      let s2r := if retried then (anySig n j s2).2.2 else s2
      if retried && (decide (2 ≤ fault) || !(anySig n j s2r).2.1) then
        let s3 := jobFail n j 9 cyc fl s2
        let s4 := fsetB (BNU_STATUS n) BNU_STATUS_ONLINE false (fsetB (BNU_STATUS n) BNU_STATUS_FAULT true s3)
        let r := jobsAbort n fOFFLINE (fun _ => true) s4
        (some (j, 9, r.1), bnuOffline n 0x01 r.2)
      else
        let r := if j.ke.isSome then (false, s2r) else jobResult n j s2r
        let s3 := slotsRelease n j (scratchLeft n j r.2)
        (some (j, 0, []), cplPost n j 0 cyc (fl + (if j.yielded then fYIELDED else 0) + if r.1 then fRESULT else 0) s3)

-- Timers ----------------------------------------------------------------------------------------------------------

/-- The handshake timer expires (R212). -/
def keTimeout (k : Nat) (s : State) : State :=
  match connOf s k with
  | none => s
  | some c => if c.st = 4 then s else connReset k (keCount 18 false s)

/-- The linger timer expires (R212). -/
def keLinger (k : Nat) (s : State) : State :=
  match connOf s k with
  | none => s
  | some c => if c.st = 4 then (if c.pfin then connFree k s else connReset k (keCount 19 false s)) else s

/-- A retransmission timeout (R210). -/
def keRetrans (k : Nat) (s : State) : State :=
  match connOf s k with
  | none => s
  | some c =>
    match c.unacked with
    | [] => s
    | x :: _ =>
      if 3 ≤ c.resent then connReset k s
      else segSend c (connUna c) x (connSet k (some { c with resent := c.resent + 1, rto := 2 * c.rto }) s)

-- Identities -----------------------------------------------------------------------------------------------------

/-- The daily warning from 30 days before notAfter (R216). -/
def identWarn (k : Nat) (s : State) : State :=
  match s.ke.idents[k]? with
  | none => s
  | some i =>
    let day := nowSec s / 86400 + 1
    if tsuUnset s || decide (nowSec s + 30 * 86400 < i.notAfter) || decide (mapGet (fun _ => 0) s.ke.warned k = day) then s
    else cairnFault 0x40 sevWarning 0x50 (leBytes 4 k ++ leBytes 8 i.notAfter)
      { s with ke := { s.ke with warned := mapSet (fun _ => 0) k day s.ke.warned } }

/-- The effect of a write to an NTS-KE register; `stored` has the plain fields stored. -/
def keApply (a : Nat) (stored : State) : Option State := if a = SVC_KE_CTL then some (keListen stored) else none

/-- Every connection is closed with a close_notify alert (R83, R226). -/
def keCloseAll (s : State) : State :=
  forEach (s.ke.conns.map (·.1)) (fun k a => match connOf a k with
    | some c => connFree k (connData k c true [(21, [1, 0])] a)
    | none => a) s

/-- A command of the service: nothing where it is not fitted (R208). -/
def keRun (f : State → State) (s : State) : Res := runIf (ntsFitted s) f s

-- Meanings -------------------------------------------------------------------------------------------------------

/-- KE_SYN (R210). -/
def execKeSyn (ring : Nat) (s : State) : Res := keRun (keSyn ring) s

/-- KE_HANDSHAKE_ACK (R211). -/
def execKeHandshakeAck (ring : Nat) (s : State) : Res := keRun (keAck ring) s

/-- KE_CLIENT_HELLO (R213, R214). -/
def execKeClientHello (ring : Nat) (s : State) : Res := keRun (keOn 0 ring) s

/-- KE_CLIENT_FINISHED (R218). -/
def execKeClientFinished (ring : Nat) (_ok _req _c2s _s2c : Unit) (s : State) : Res := keRun (keOn 1 ring) s

/-- KE_ALERT_RX (R223). -/
def execKeAlertRx (ring : Nat) (s : State) : Res := keRun (keOn 2 ring) s

/-- KE_KEY_UPDATE (R213). -/
def execKeKeyUpdate (ring : Nat) (s : State) : Res := keRun (keOn 3 ring) s

/-- KE_PEER_FIN (R212). -/
def execKePeerFin (ring : Nat) (s : State) : Res := keRun (keOn 4 ring) s

/-- KE_SEGMENT (R210). -/
def execKeSegment (ring : Nat) (_alert : Unit) (s : State) : Res := keRun (keOn 5 ring) s

/-- KE_HS_TIMEOUT (R212). -/
def execKeHsTimeout (conn : Nat) (s : State) : Res := keRun (keTimeout conn) s

/-- KE_LINGER_TIMEOUT (R212). -/
def execKeLingerTimeout (conn : Nat) (s : State) : Res := keRun (keLinger conn) s

/-- KE_RTO (R210). -/
def execKeRto (conn : Nat) (s : State) : Res := keRun (keRetrans conn) s

/-- IDENT_EXPIRY (R216). -/
def execIdentExpiry (n : Nat) (s : State) : Res := keRun (fun a => if identPast a n then identsShow a else a) s

/-- IDENT_EXPIRY_WARNING (R216). -/
def execIdentExpiryWarning (n : Nat) (s : State) : Res := keRun (identWarn n) s

/-- BNU_JOB_COMPLETE (R275); `fault` counts failed verifications of a signature (R271). -/
def execBnuJobComplete (n fault : Nat) (s : State) : Res :=
  runIf (bnuFitted s n) (fun a =>
    match bnuComplete n fault a with
    | (none, b) => b
    | (some (j, st, lost), b) => keFeed (keJobsLost lost (keJobDone n j st b))) s

end Sys2Proof.Machine
end

