-- ==== Sys2Proof/Machine/Gnss.lean ====
section
/-!
DEFINITION. Machine/Gnss.lean: the GNSS baseband (R298 to R320): front end, channels, navigation records, the time solution
with its jump test, the raw pulse, snapshots, lean mode and the band monitor.
-/
namespace Sys2Proof.Machine
open Sys2Proof

def gnssUnit : Nat := 0x06

/-- Is the baseband fitted (R9)? -/
def gnssFitted (s : State) : Bool := unitBit s.variant 35

/-- A command of the baseband: nothing happens where it is absent. -/
def gnssRun (f : State → State) (s : State) : Res := runIf (gnssFitted s) f s

def gnssOn (s : State) : Bool := fbit s GNSS_CTL GNSS_CTL_ENABLE
def solValid (s : State) : Bool := fbit s GNSS_STATUS GNSS_STATUS_SOL_VALID

def gnssSet (f : GnssState → GnssState) (s : State) : State := { s with gnss := f s.gnss }

/-- Show MODE, SOL_VALID's level and FE_FAULT (GNSS_STATUS, R301, R315, R319). While LEAN waits for its conditions MODE is SEARCH or SURVEY
(R314). -/
def gnssShow (s : State) : State :=
  let g := s.gnss
  let mode := if !gnssOn s then 0 else if g.lean then 4 else if g.surveying then (if g.solAt = 0 then 1 else 2)
    else if !solValid s then 1 else if !g.timeOnly then 2 else if fbit s GNSS_CTL GNSS_CTL_LEAN then 1 else 3
  let ff := g.bad || g.gap
  let s1 := fsetB GNSS_STATUS GNSS_STATUS_FE_FAULT ff (fset GNSS_STATUS GNSS_STATUS_MODE mode s)
  setLevel EV_GNSS_NO_SOL (gnssOn s && !solValid s) (setLevel EV_GNSS_FE_FAULT ff s1)

-- Front end ------------------------------------------------------------------------------------------------------

/-- Front-end fault (R301): each one makes its entry. -/
def feFault (detail : Nat) (s : State) : State :=
  cairnFault gnssUnit sevWarning detail [] (gnssShow (gnssSet (fun g => { g with baseBad := true }) s))

def snapState (s : State) : Nat := fget s GNSS_SNAP_STATUS GNSS_SNAP_STATUS_STATE

/-- VALID is high from `t` on (2^-32 ns): a low period within a capture is kept (R313). -/
def validRise (t : Nat) (s : State) : State :=
  let cap := decide (snapState s = 2)
  gnssSet (fun g => { g with valid := true, lows := if cap && !g.valid then (g.lowAt, t) :: g.lows else g.lows }) s

/-- Does a transaction's read-back pass its compare (R301, R413)? -/
def scriptPass (e rb : List Byte) : Bool :=
  leAt e 1 1 == 0 || (List.zip (List.zip (slice e 16 8) (slice e 24 8)) (rb.take (leAt e 0 1))).all
    (fun x => x.2 &&& x.1.1 == x.1.2 &&& x.1.1)

/-- The script of the GNSS leg (R301): what each transaction read back, and whether VALID rose within 50 ms. -/
def feScript (reads : List (List Byte)) (rose : Bool) (s : State) : State :=
  if !s.gnss.power then s
  else
    let s1 := s.gnss.script.foldl (fun a e => emitOut (.gspi (beNat (slice e 8 (leAt e 0 1)))) a) s
    let ok := (List.range s.gnss.script.length).all (fun i => scriptPass ((s.gnss.script.drop i).headD []) ((reads.drop i).headD []))
    if !ok then feFault 0x01 (gnssSet (fun g => { g with bad := true }) s1)
    else if rose then gnssShow (gnssSet (fun g => { g with bad := false, gap := false }) (validRise (gtNow s1) s1))
    else s1

/-- TRACKED (GNSS_STATUS). -/
def showTracked (s : State) : State :=
  fset GNSS_STATUS GNSS_STATUS_TRACKED (s.gnss.chan.countP (fun c => 2 ≤ c.2.st)) s

def chanReset (_ : Nat) : GnssChan := { st := 0, sys := 0, sig := 0, sv := 0, at_ := 0 }
def chanOf (s : State) (c : Nat) : GnssChan := mapGet chanReset s.gnss.chan c
def chanSet (c : Nat) (x : GnssChan) (s : State) : State :=
  showTracked (gnssSet (fun g => { g with chan := mapSet chanReset c x g.chan }) s)

/-- Every channel returns to IDLE (R314): tracking stops, no signal is lost. -/
def chansIdle (s : State) : State := showTracked (gnssSet (fun g => { g with chan := [] }) s)

/-- A channel loses its signal (R305). -/
def chanLoss (c : Nat) (s : State) : State :=
  let x := chanOf s c
  if x.st = 0 then s
  else chanSet c (chanReset c) (bump (UC_GNSS 2) 1 (gnssSet (fun g => { g with reacq := g.reacq ++ [(x.sys, x.sig, x.sv)] }) s))

/-- ps in 2^-32 ns. -/
def ps32 (d : Nat) : Nat := d * 2 ^ 32 / 1000

/-- GSP_VALID falls (R301): `back` is the length in ps of a low period of up to 10 ms. Only a capture that runs is touched (R313). -/
def validFall (back : Option Nat) (s : State) : State :=
  if !s.gnss.valid then s
  else
    let now := gtNow s
    let cap := decide (snapState s = 2)
    bump (UC_GNSS 11) 1 (gnssSet (fun g => { g with
      valid := back.isSome, broken := true, snapBad := g.snapBad || cap, lowAt := now, baseBad := true,
      lows := match back with | some d => if cap then (now, now + ps32 d) :: g.lows else g.lows | none => g.lows }) s)

/-- GSP_VALID has been low for 10 ms (R301): every channel returns to IDLE as at a loss of its signal (R305). -/
def validGap (s : State) : State :=
  if s.gnss.valid || !s.gnss.power then s
  else
    let lost := s.gnss.chan.filter (fun c => c.2.st ≠ 0)
    feFault 0x02 (showTracked (bump (UC_GNSS 2) lost.length (gnssSet (fun g => { g with
      gap := true, chan := [], reacq := g.reacq ++ lost.map (fun c => (c.2.sys, c.2.sig, c.2.sv)) }) s)))

/-- GSP_VALID has been high for 100 ms after a gap (R301). -/
def validBack (s : State) : State :=
  if s.gnss.gap then gnssShow (gnssSet (fun g => { g with gap := false }) (validRise (gtNow s - 100000000 * 2 ^ 32) s)) else s

/-- VALID did not rise after the script (R301). -/
def validTimeout (s : State) : State :=
  if s.gnss.valid || !s.gnss.power then s else feFault 0x03 (gnssSet (fun g => { g with bad := true }) s)

-- Acquisition and tracking ---------------------------------------------------------------------------------------

/-- Rows of R302 of each system. -/
def sigRows (sys : Nat) : Nat := if sys = 0 ∨ sys = 3 then 3 else if sys < 3 then 2 else 0

/-- Band of a signal row (R302): 0 L1, 1 L5. -/
def sigBand (sys sig : Nat) : Nat := if (sys = 0 ∨ sys = 3) ∧ sig < 2 ∨ sig = 0 then 0 else 1

/-- Is a band captured (R299)? -/
def bandOn (s : State) (b : Nat) : Bool := fbit s GNSS_SP_CFG (if b = 0 then GNSS_SP_CFG_L1_EN else GNSS_SP_CFG_L5_EN)

/-- Is a signal on: its system enabled, its band captured (R299, R302)? -/
def sigOn (s : State) (sys sig : Nat) : Bool :=
  gnssOn s && (fget s GNSS_CTL GNSS_CTL_SYS_EN).testBit sys && decide (sig < sigRows sys) && bandOn s (sigBand sys sig)

/-- Channels and requests of signals that are off end (R299, R302). DESIGN CHOICE (log entry 157): this is no loss of a signal and counts
nothing. -/
def chanPrune (s : State) : State :=
  showTracked (gnssSet (fun g => { g with chan := g.chan.filter (fun c => sigOn s c.2.sys c.2.sig),
                                          reacq := g.reacq.filter (fun r => sigOn s r.1 r.2.1) }) s)

/-- The delay of a band for a sample captured at `t` (2^-32 ns), in ps (R300): a write applies from the TSU second after it. -/
def bandDelay (s : State) (b t : Nat) : Int :=
  let w := mapGet (fun _ => ((0 : Int), 0)) s.gnss.dly b
  if gtSec t < w.2 then w.1
  else if b = 0 then fint s GNSS_L1_DELAY GNSS_L1_DELAY_DELAY else fint s GNSS_L5_DELAY GNSS_L5_DELAY_DELAY

/-- A write of a band's delay (R300): until the next TSU second the value in force stays. -/
def delayWrite (b : Nat) (s stored : State) : State :=
  let v := bandDelay s b (gtNow s)
  gnssSet (fun g => { g with dly := mapSet (fun _ => ((0 : Int), 0)) b (v, nowSec s + 1) g.dly }) stored

/-- Time tag of a sample captured at TSU instant `edge` (2^-32 ns) in a band (R300). -/
def sampleTag (s : State) (b edge : Nat) : Nat := ((edge : Int) - divRound (bandDelay s b edge * 2 ^ 32) 1000).toNat

/-- The key of a satellite signal in `nav` (R307). -/
def navKey (sys sig sv : Nat) : Nat := sys * 2 ^ 16 + sig * 2 ^ 8 + sv
def navReset (_ : Nat) : GnssNav := { sec := 0, units := [] }

/-- The units held of a system, newest first per signal, and of one of its satellites. -/
def navUnits (s : State) (sys : Nat) : List (List Byte) :=
  ((s.gnss.nav.filter (fun x => x.1 / 2 ^ 16 = sys)).map (fun x => x.2.units.map (·.2))).flatten

/-- Has a satellite data less than 7 days old (R304)? -/
def satFresh (s : State) (sys sv : Nat) : Bool :=
  s.gnss.nav.any (fun x => decide (x.1 / 2 ^ 16 = sys) && decide (x.1 % 2 ^ 8 = sv) && decide (nowSec s < x.2.sec + 7 * 86400))

/-- Is a surveyed, fixed or last-solution position known (R304)? -/
def posKnown (s : State) : Bool := s.gnss.timeOnly || s.gnss.solAt != 0

/-- Is a search for a satellite time-assisted (R304)? -/
def timeAssisted (s : State) (sys sv : Nat) : Bool :=
  !tsuUnset s && decide (boundNs s ≤ 100000) && posKnown s && satFresh s sys sv

/-- Chips per s and chips of the code of a signal row (R302; PRESUMED from the systems' ICDs, log entry 166), and whether it is a BOC signal. -/
def sigChips (sys sig : Nat) : Nat × Nat × Bool :=
  if sigBand sys sig = 1 then (10230000, 10230, false)
  else if (sys = 0 ∨ sys = 3) ∧ sig = 0 then (1023000, 1023, false)
  else (1023000, if sys = 1 then 4092 else 10230, true)

/-- Code phases of a time-assisted window (R304). -/
def windowPhases (s : State) (sys sig : Nat) : Nat :=
  2 * ((2 * (boundNs s + 50) * (sigChips sys sig).1 + 3 * 10 ^ 9 - 1) / 10 ^ 9) + 1

/-- Doppler bins of a time-assisted search (R304). DESIGN CHOICE (log entry 166): the servo's frequency uncertainty is TSU_ERR_RATE. -/
def dopplerBins (s : State) (sys sig : Nat) : Nat :=
  let carrier := if sigBand sys sig = 1 then 1176450000 else 1575420000
  2 * ((fget s TSU_ERR_RATE TSU_ERR_RATE_RATE * carrier + 20 * 10 ^ 12 - 250 * 10 ^ 12 + (500 * 10 ^ 12 - 1)) / (500 * 10 ^ 12)) + 1

/-- Cells of the search for a satellite signal (R303, R304): the window, or the whole code and ±5 kHz. -/
def searchCells (s : State) (sys sig sv : Nat) : Nat :=
  if timeAssisted s sys sv then windowPhases s sys sig * dopplerBins s sys sig
  else (sigChips sys sig).2.1 * (if (sigChips sys sig).2.2 then 4 else 2) * 21

/-- Requests that are served first (R303): reacquisition of satellites predicted visible. -/
def reacqFirst (s : State) : List (Nat × Nat × Nat) :=
  s.gnss.reacq.filter (fun r => satFresh s r.1 r.2.2 && Config.satVisible r.1 r.2.2 (nowSec s) (navUnits s r.1))

/-- The acquisition buffer is filled anew where its samples are older than 100 ms (R303). -/
def bufFill (s : State) : State :=
  let now := gtNow s
  gnssSet (fun g => { g with bufAt := match g.bufAt with
    | some a => if now ≤ a + 100000000 * 2 ^ 32 then some a else some now
    | none => some now }) s

/-- A batch reads the acquisition buffer (R465): an uncorrectable word of it has the batch refilled. -/
def bufMeet (s : State) : State :=
  let at_ := fun (k : Nat) => decide (8 * 2 ^ 32 + 0x80000 ≤ k) && decide (k < 8 * 2 ^ 32 + 0xC0000)
  (s.ecc.bad.filter (fun x => at_ x.1)).foldl (fun a x =>
    let r := eccRead 8 (x.1 - 8 * 2 ^ 32) a
    if r.1 then eccWrite 8 (x.1 - 8 * 2 ^ 32) (gnssSet (fun g => { g with bufAt := some (gtNow r.2) }) r.2) else r.2) s

/-- A detection (R303): its channel begins to pull in. -/
def acqHit (a : State) (x : Nat × Nat × Nat × Nat) : State :=
  if x.1 < 96 ∧ (chanOf a x.1).st = 0 ∧ sigOn a x.2.1 x.2.2.1 then
    chanSet x.1 { st := 1, sys := x.2.1, sig := x.2.2.1, sv := x.2.2.2, at_ := gtNow a }
      (gnssSet (fun g => { g with reacq := g.reacq.filter (· ≠ (x.2.1, x.2.2.1, x.2.2.2)) }) a)
  else a

/-- A batch of search cells (R303): cells searched and detections: channel, system, signal row, satellite. While satellites predicted visible
wait for reacquisition, the batch searches them alone, over no more cells than their searches have (R304). -/
def acqBatch (cells : Nat) (found : List (Nat × Nat × Nat × Nat)) (s : State) : State :=
  if !gnssOn s then s
  else
    let first := reacqFirst s
    let n := if first.isEmpty then cells else min cells ((first.map (fun r => searchCells s r.1 r.2.1 r.2.2)).sum)
    let hits := if first.isEmpty then found else found.filter (fun x => first.contains x.2)
    hits.foldl acqHit (bump (UC_GNSS 1) hits.length (bump (UC_GNSS 0) n (bufMeet (bufFill s))))

/-- A channel advances by one state (R305). A detection is confirmed by TRACK within 200 ms and else dropped (R303). -/
def chanTrack (c : Nat) (s : State) : State :=
  let x := chanOf s c
  if x.st = 1 ∧ x.at_ + 200000000 * 2 ^ 32 < gtNow s then chanSet c (chanReset c) s
  else if 1 ≤ x.st ∧ x.st < 4 then chanSet c { x with st := x.st + 1 } s else s

/-- Measurement instants per second (GNSS_CTL.MEAS_RATE). -/
def measRate (s : State) : Nat := match fget s GNSS_CTL GNSS_CTL_MEAS_RATE with | 0 => 1 | 1 => 2 | 2 => 5 | _ => 10

/-- What a channel reports that measured code, phase, Doppler, C/N0 and lock time. Code and phase come on the instants of capture; the
reports are on time tags, which lie the band's delay earlier (R300). -/
def measOf (s : State) (t c : Nat) (r : Int × Int × Int × Nat × Nat) : GnssMeas :=
  let x := chanOf s c
  let d := divRound (bandDelay s (sigBand x.sys x.sig) t * 65536) 1000
  { ch := c, sys := x.sys, sig := x.sig, sv := x.sv, code := r.1 - d, phase := r.2.1 - d, dopp := r.2.2.1, cn0 := r.2.2.2.1, lock := r.2.2.2.2 }

/-- Every channel in TRACK or beyond reports (R305); values the command does not give are free. -/
def measAll (t : Nat) (reports : List (Nat × Int × Int × Int × Nat × Nat)) (s : State) : List GnssMeas × State :=
  ((s.gnss.chan.map (·.1)).filter (fun c => 2 ≤ (chanOf s c).st)).foldl (fun (a : List GnssMeas × State) c =>
    match reports.find? (fun r => r.1 = c) with
    | some r => (a.1 ++ [measOf s t c r.2], a.2)
    | none =>
      let d := draw 256 a.2
      (a.1 ++ [measOf s t c (sgn 64 (d.1 % 2 ^ 64), sgn 64 (d.1 / 2 ^ 64 % 2 ^ 64), sgn 48 (d.1 / 2 ^ 128 % 2 ^ 48), d.1 / 2 ^ 176 % 2 ^ 16, d.1 / 2 ^ 192)], d.2))
    ([], s)

/-- The code range of a satellite as the solution uses it (R305): the ionosphere-free combination of L1 (154 × 10.23 MHz) and L5 (115 ×
10.23 MHz) where both are tracked, else the broadcast model. -/
def codeRange (s : State) (sec : Nat) (ms : List GnssMeas) (sys sv : Nat) : Option Int :=
  let of := fun b => ms.find? (fun m => m.sys = sys ∧ m.sv = sv ∧ sigBand m.sys m.sig = b)
  match of 0, of 1 with
  | some x, some y => some (divRound (23716 * x.code - 13225 * y.code) 10491)
  | some x, none | none, some x => some (x.code - Config.ionoDelay sys sv sec (navUnits s sys))
  | none, none => none

/-- A measurement instant (R305): a TSU second, or one that MEAS_RATE adds. -/
def measEpoch (t : Nat) (reports : List (Nat × Int × Int × Int × Nat × Nat)) (s : State) : State :=
  if !gnssOn s ∨ t % (gtSecond / measRate s) ≠ 0 then s
  else
    let r := measAll t reports s
    let whole := decide (t % gtSecond = 0)
    let sec := gtSec t
    let sats := (r.1.map (fun m => (m.sys, m.sv))).eraseDups
    gnssSet (fun g => { g with
      epoch := t, meas := r.1, broken := false, secOf := if whole then sec else g.secOf, secMeas := if whole then r.1 else g.secMeas,
      ranges := if whole then sats.filterMap (fun x => (codeRange s sec r.1 x.1 x.2).map (fun y => (x.1, x.2, y))) else g.ranges }) r.2

-- Navigation records ---------------------------------------------------------------------------------------------

/-- A GT128 value in memory (R39). -/
def gtBytes (t : Nat) : List Byte := leBytes 8 (gtSec t) ++ leBytes 4 (gtNs t) ++ leBytes 4 (gtFrac t)

/-- Is the navigation ring not empty (R319)? -/
def navLevel (s : State) : State :=
  setLevel EV_GNSS_NAV_REC (decide (fget s GNSS_NAV_RING GNSS_NAV_RING_HEAD ≠ fget s GNSS_NAV_RING GNSS_NAV_RING_TAIL)) s

/-- Bits of a bit field, the first in bit 7 of its first byte, that `keep` keeps; the others are zero. -/
def bitsKeep (keep : Nat → Bool) (b : List Byte) : List Byte :=
  (List.zip (List.range b.length) b).map (fun ix =>
    ix.2 &&& BitVec.ofNat 8 ((List.range 8).foldl (fun a k => if keep (8 * ix.1 + k) then a + 2 ^ (7 - k) else a) 0))

/-- A record of a decoded unit (R306, R307): bits past NBITS are zero. -/
def navRecord (t sys sig sv ch nbits check flags ok cn0 : Nat) (bits : List Byte) : List Byte :=
  gtBytes t ++ [BitVec.ofNat 8 sys, BitVec.ofNat 8 sig, BitVec.ofNat 8 sv, BitVec.ofNat 8 ch] ++ leBytes 2 nbits
    ++ [BitVec.ofNat 8 check, BitVec.ofNat 8 flags] ++ leBytes 4 ok ++ leBytes 2 cn0 ++ zeros 2 ++ (bitsKeep (fun k => decide (k < nbits)) bits ++ zeros 96).take 96

/-- UTC parameters of GPS (R311): once two satellites agree, the offset and an announced leap are taken. -/
def utcTake (sv : Nat) (p : Int × Nat × Int) (s : State) : State :=
  let s1 := gnssSet (fun g => { g with utc := mapSet (fun _ => (0, 0, 0)) sv p g.utc }) s
  if !fbit s GNSS_CTL GNSS_CTL_LEAP_AUTO || !(s1.gnss.utc.any (fun x => decide (x.1 ≠ sv) && decide (x.2 = p))) then s1
  else
    let s1 : State := { s1 with ptp := { s1.ptp with utcOk := true } }
    let off := p.1 + 19
    let old := fint s1 TSU_UTC_OFFSET TSU_UTC_OFFSET_OFFSET
    let s2 := if off = old then s1 else
      cairnState gnssUnit sevNotice 0 (unsgn 16 old) (unsgn 16 off) 0 0
        (journalState (fsetI TSU_UTC_OFFSET TSU_UTC_OFFSET_OFFSET off s1))
    let pend := fint s2 TSU_LEAP_PENDING TSU_LEAP_PENDING_PENDING
    if p.2.1 < nowSec s2 + 2 ∨ p.2.2 = 0 ∨ (pend = p.2.2 ∧ (rd s2 TSU_LEAP_SEC).toNat = p.2.1) then s2
    else occur EV_GNSS_LEAP (leapPendingSet (unsgn 2 p.2.2) (wr TSU_LEAP_SEC (BitVec.ofNat 64 p.2.1) s2))

/-- Is a unit an LNAV subframe (R302)? -/
def isLnav (sys sig : Nat) : Bool := (sys == 0 || sys == 3) && sig == 0

/-- The bits of a unit that may be taken (R307): of LNAV, whose word i is bits 30(i − 1) to 30i − 1, the words whose WORD_OK bit is set. -/
def navTaken (sys sig nbits ok : Nat) (bits : List Byte) : List Byte :=
  bitsKeep (fun k => decide (k < nbits) && (!isLnav sys sig || ok.testBit (k / 30 + 1))) bits

/-- Ephemerides, clock corrections and inter-system offsets are held as the units that carry them, the newest 32 of each signal (R307). -/
def navHold (sys sig sv nbits ok : Nat) (bits : List Byte) (s : State) : State :=
  let k := navKey sys sig sv
  let u := (if isLnav sys sig then ok else 1, navTaken sys sig nbits ok bits)
  let x : GnssNav := { sec := nowSec s, units := (u :: (mapGet navReset s.gnss.nav k).units).take 32 }
  gnssSet (fun g => { g with nav := mapSet navReset k x g.nav }) s

/-- May the UTC parameters of a unit be taken (R307)? Of LNAV they stand in words 9 and 10 (PRESUMED from IS-GPS-200, log entry 158). -/
def utcWords (sys sig ok : Nat) : Bool := !isLnav sys sig || (ok.testBit 9 && ok.testBit 10)

/-- A decoded unit (R306, R307), the first bit of which was captured at `edge`; `utc` is what its passed words say of UTC: ΔtLS, LEAP_SEC in
TAI (0 none), sign. A NOT_CHECKED record counts with the failed ones (log entry 63). -/
def navUnit (edge sys sig sv ch nbits check flags ok cn0 : Nat) (bits : List Byte) (utc : Option (Int × Nat × Int)) (s0 : State) : State :=
  if !sigOn s0 sys sig then s0 else
  let s := if check = 0 then navHold sys sig sv nbits ok bits s0 else s0
  let t := sampleTag s (sigBand sys sig) edge
  let s1 := if check = 0 then bump (UC_GNSS 3) 1 s
    else if check = 1 then raiseOnce EV_GNSS_PARITY (bump (UC_GNSS 4) 1 s) else bump (UC_GNSS 4) 1 s
  let h := fget s1 GNSS_NAV_RING GNSS_NAV_RING_HEAD
  let s2 := if (h + 1) % 2048 = fget s1 GNSS_NAV_RING GNSS_NAV_RING_TAIL then bump (UC_GNSS 5) 1 s1
    else navLevel (fset GNSS_NAV_RING GNSS_NAV_RING_HEAD ((h + 1) % 2048)
      (putMem (0x30000000 + fget s1 GNSS_NAV_RING GNSS_NAV_RING_BASE + 128 * h)
        (navRecord t sys sig sv ch nbits check flags ok cn0 bits) s1))
  match utc with
  | some p => if check = 0 ∧ sys = 0 ∧ utcWords sys sig ok then utcTake sv p s2 else s2
  | none => s2

-- The time solution ----------------------------------------------------------------------------------------------

/-- Seconds the selected scale lies behind TAI (R308). -/
def scaleLag (s : State) : Int :=
  match fget s GNSS_CTL GNSS_CTL_SCALE with
  | 2 => 33
  | 3 => fint s TSU_UTC_OFFSET TSU_UTC_OFFSET_OFFSET
  | _ => 19

/-- JUMP with its level and the seconds left (R317). -/
def jumpShow (on : Bool) (left : Nat) (s : State) : State :=
  setLevel EV_GNSS_JUMP on (fset GNSS_STATUS GNSS_STATUS_CONFIRM_LEFT left (fsetB GNSS_STATUS GNSS_STATUS_JUMP on s))

/-- A refused jump of REF8 is accepted (R317, R337). R317 has the new D pulled in by slewing: on a REF8 that is still selected, which no
switch follows, that is done at once (log entry 53). -/
def gnssAccept (s : State) : State :=
  let s1 := jumpShow false 0 (acceptJump 8 s)
  if selected s1 = 8 ∧ !switching s1 ∧ slotSt s1 8 = 4 then switchTo 8 s1 else s1

/-- The same for any slot (R337): ACCEPT_JUMP on REF8 is the acceptance of the GNSS jump; any other slot's next switch pulls in by slew. -/
def acceptAny (n : Nat) (s : State) : State := if n = 8 then gnssAccept s else acceptJump n s

/-- A solution beyond W (R317). -/
def gnssRefuse (sec : Nat) (d : Int) (bound : Nat) (r : RefSample) (s : State) : State :=
  let g := s.gnss
  let cfm := fget s GNSS_JUMP_CFG GNSS_JUMP_CFG_CONFIRM
  let on := fbit s GNSS_STATUS GNSS_STATUS_JUMP
  let p := (prediction s 8 r.t).getD 0
  let step := if g.lean then fget s GNSS_CTL GNSS_CTL_LEAN_PERIOD else 1
  let same := on && decide (sec = g.jumpSec + step)
    && decide ((d - g.jumpD - (p - g.jumpP)).natAbs ≤ fget s GNSS_JUMP_CFG GNSS_JUMP_CFG_CONSIST * 65536)
  let at0 := if same then g.jumpAt else sec
  let s1 := gnssSet (fun g => { g with jumpD := if same then g.jumpD else d, jumpAt := at0, jumpP := if same then g.jumpP else p,
                                       jumpSec := sec, refBound := bound, refD := d }) s
  let s2 := refRefuse 8 r (bump (UC_GNSS 8) 1 (refActive 8 s1))
  let s3 := jumpShow true (cfm - (sec - at0)) s2
  let s4 := if on then s3 else cairnFault gnssUnit sevWarning 0x10 (leBytes 8 (unsgn 64 d) ++ leBytes 4 bound ++ zeros 4) s3
  if same ∧ cfm ≤ sec - at0 then gnssAccept s4 else s4

/-- A satellite of a solution: system, number, residual in ps. -/
abbrev SolSat := Nat × Nat × Int

/-- Systems whose separate solution differs too far are excluded (R309): the satellites used, and each system's D on the selected scale. -/
def sysExclude (dAll : Int) (used : List SolSat) (systems : List (Nat × Int)) (s : State) : State :=
  systems.foldl (fun a (sys, d) =>
    if 2 ≤ used.countP (fun x => x.1 = sys) ∧ sys < 4 ∧ !(fget a GNSS_STATUS GNSS_STATUS_SYS_EXCL).testBit sys
        ∧ fget a GNSS_SOL_CFG GNSS_SOL_CFG_SYS_TOL * 65536 < (d - dAll).natAbs then
      cairnFault gnssUnit sevWarning 0x11 (leBytes 4 sys ++ zeros 4 ++ leBytes 8 (unsgn 64 (d - dAll)))
        (occur EV_GNSS_SYS_EXCLUDED (bump (UC_GNSS 7) 1
          (fset GNSS_STATUS GNSS_STATUS_SYS_EXCL (fget a GNSS_STATUS GNSS_STATUS_SYS_EXCL ||| 2 ^ sys) a)))
    else a) s

/-- Residuals that imply a wrong position (R310): position error in mm. -/
def posCheck (sec err : Nat) (s : State) : State :=
  if !s.gnss.timeOnly then s
  else if err ≤ 10000 then gnssSet (fun g => { g with posSince := 0 }) s
  else if s.gnss.posSince = 0 then gnssSet (fun g => { g with posSince := sec }) s
  else if 60 ≤ sec - s.gnss.posSince then
    setLevel EV_GNSS_POS_SUSPECT true (fsetB GNSS_STATUS GNSS_STATUS_POS_SUSPECT true
      (gnssSet (fun g => { g with posSince := 0, timeOnly := false }) s))
  else s

/-- SOL_BOUND in ns (R308): 3σ + CAL_UNC rounded up; σ in ps. -/
def solBound (s : State) (sigma : Nat) : Nat := (3 * sigma + fget s GNSS_SOL_CFG GNSS_SOL_CFG_CAL_UNC * 1000 + 999) / 1000

/-- A missing or invalid epoch restarts the confirmation (R317). -/
def jumpRestart (s : State) : State :=
  if fbit s GNSS_STATUS GNSS_STATUS_JUMP then
    fset GNSS_STATUS GNSS_STATUS_CONFIRM_LEFT (fget s GNSS_JUMP_CFG GNSS_JUMP_CFG_CONFIRM) (gnssSet (fun g => { g with jumpSec := 0 }) s)
  else s

/-- Is a solution of the second one that a LOCAL snapshot supports (R313)? -/
def fromSnap (s : State) (sec : Nat) : Bool := match s.gnss.snapFix with | some (a, _) => a == sec | none => false

/-- The satellites a solution of a TSU second can rest on (R302, R308, R313): those of enabled systems that were measured on that second, or
as many as the LOCAL snapshot of that second found. In lean operation only a snapshot or the 60 s window gives any (R314). -/
def solSats (s : State) (sec : Nat) (residuals : List SolSat) : List SolSat :=
  let xs := residuals.filter (fun x => (fget s GNSS_CTL GNSS_CTL_SYS_EN).testBit x.1)
  match s.gnss.snapFix with
  | some (a, n) => if a = sec then xs.take n else []
  | none =>
    if s.gnss.lean && !s.gnss.ephem then []
    else if s.gnss.secOf = sec then xs.filter (fun x => s.gnss.secMeas.any (fun m => m.sys == x.1 && m.sv == x.2.1)) else []

/-- The integrity monitoring keeps the satellites whose residual is within 5σ (R308). -/
def raimKeeps (sigma : Nat) (x : SolSat) : Bool := decide (x.2.2.natAbs ≤ 5 * sigma)

/-- The system whose scale is selected (R308); UTC is that of GPS. -/
def scaleSystem (s : State) : Nat := match fget s GNSS_CTL GNSS_CTL_SCALE with | 1 => 1 | 2 => 2 | _ => 0

/-- The offset of each other system used, estimated or as broadcast (R309); its value is free. -/
def isbTake (sec : Nat) (used : List SolSat) (s : State) : State :=
  let bc := fbit s GNSS_CTL GNSS_CTL_ISB_BCAST
  forEach ((List.range 4).filter (fun y => y ≠ scaleSystem s && used.any (fun x => x.1 == y))) (fun y a =>
    let v := if bc then Config.isbBroadcast y (navUnits a y) else Config.isbEstimate y sec a.gnss.ranges
    gnssSet (fun g => { g with isb := mapSet (fun _ => (0 : Int)) y v g.isb }) a) s

/-- The solution of a TSU second (R308 to R310, R315 to R317): the combined D of all satellites and the D and σ of those left, on the
selected scale (2^-16 ns, ps); satellites with their residuals; D per system; position error the residuals imply in mm. How D and σ follow
from the measurements is firmware's (log entry 167). -/
def gnssSolution (sec : Nat) (dAll d0 : Int) (sigma : Nat) (residuals : List SolSat) (systems : List (Nat × Int)) (posErr : Nat) (sIn : State) : State :=
  if !gnssOn sIn then sIn
  else
    let cand := solSats sIn sec residuals
    let used := cand.filter (raimKeeps sigma)
    let raim := cand.length - used.length
    let s0 := if fromSnap sIn sec then gnssSet (fun g => { g with snapFix := none }) sIn else sIn
    let s := sysExclude dAll used systems (if raim = 0 then s0 else bump (UC_GNSS 6) raim s0)
    let excl := fget s GNSS_STATUS GNSS_STATUS_SYS_EXCL
    let left := used.filter (fun x => !excl.testBit x.1)
    let nsv := left.length
    if nsv < fget s GNSS_SOL_CFG GNSS_SOL_CFG_MIN_SV then jumpRestart s
    else
      let d := d0 + scaleLag s * (1000000000 * 65536)
      let b := solBound s sigma
      let t := sec * gtSecond
      let old := decide (t < s.tsu.setAt)
      let first := !s.gnss.solSet
      let was := solValid s
      let full := s.gnss.surveying || !s.gnss.timeOnly
      let s1 := gnssSet (fun g => { g with solAt := sec, nsv := nsv, solD := d, solB := b, solSet := g.solSet || (!tsuUnset s && !old),
                                           surveyAt := if g.surveying ∧ g.surveyAt = 0 then sec else g.surveyAt,
                                           timeOnly := g.timeOnly || (fbit s GNSS_SURVEY GNSS_SURVEY_MODE && !g.surveying
                                             && !fbit s GNSS_STATUS GNSS_STATUS_POS_SUSPECT) }) (isbTake sec left s)
      let s2 := fset GNSS_SOL GNSS_SOL_BOUND (satF GNSS_SOL_BOUND b) (fsetI GNSS_SOL GNSS_SOL_OFFSET (satI 48 d) s1)
      let s3 := fset GNSS_STATUS GNSS_STATUS_USED nsv (fsetB GNSS_STATUS GNSS_STATUS_SOL_VALID true s2)
      let s4 := (if full then id else posCheck sec posErr) (if was then s3 else occur EV_GNSS_FIX s3)
      let s5 := gnssShow s4
      let xo := xoAt s5 t
      let e := sampleOffset s5 8 d
      let r : RefSample := { xo := xo, x := e + ((t : Int) - xo) / 2 ^ 16, e := e, t := t }
      if old then refSample 8 t xo d b 0 true s5
      else if tsuUnset s5 ∨ first ∨ slotSt s5 8 < 2 ∨ sampleFits s5 8 t e b then
        let s6 := if first ∧ !tsuUnset s5 then refSlSet 8 { refSl s5 8 with p := none } s5 else s5
        let s7 := if fbit s6 GNSS_STATUS GNSS_STATUS_JUMP then jumpShow false 0 s6 else s6
        refSample 8 t xo d b 0 false s7
      else gnssRefuse sec d b r s5

/-- An exclusion ends (R309). -/
def sysExclEnd (sys : Nat) (s : State) : State :=
  let x := fget s GNSS_STATUS GNSS_STATUS_SYS_EXCL
  if x.testBit sys then fset GNSS_STATUS GNSS_STATUS_SYS_EXCL (x - 2 ^ sys) s else s

/-- No valid solution for 2 s (R315). -/
def noSolution (s : State) : State :=
  if !solValid s then s
  else refActLoss 8 (gnssShow (jumpRestart (fsetB GNSS_STATUS GNSS_STATUS_SOL_VALID false s)))

/-- A survey begins (R310). -/
def surveyStart (s : State) : State :=
  gnssShow (setLevel EV_GNSS_POS_SUSPECT false (fsetB GNSS_STATUS GNSS_STATUS_POS_SUSPECT false
    (fsetB GNSS_STATUS GNSS_STATUS_ACC_NOT_MET false
      (gnssSet (fun g => { g with surveying := true, surveyAt := 0, timeOnly := false, posSince := 0 }) s))))

/-- May a survey end now (R310): SURVEY_TIME has passed since its first solution and the standard deviation is small enough, or three times
that has passed. -/
def surveyMayEnd (s : State) (sd : Nat) : Bool :=
  let g := s.gnss
  let n := fget s GNSS_SURVEY GNSS_SURVEY_SURVEY_TIME
  g.surveying && g.surveyAt != 0 && (decide (g.surveyAt + 3 * n ≤ nowSec s)
    || (decide (g.surveyAt + n ≤ nowSec s) && decide (sd ≤ fget s GNSS_SURVEY GNSS_SURVEY_SURVEY_ACC)))

/-- A survey ends with its mean in mm and the standard deviation of the mean in mm (R310). -/
def surveyDone (x y z : Int) (sd : Nat) (s : State) : State :=
  if !surveyMayEnd s sd then s
  else
    let s1 := wr (GNSS_POS 2) (BitVec.ofInt 64 z) (wr (GNSS_POS 1) (BitVec.ofInt 64 y) (wr (GNSS_POS 0) (BitVec.ofInt 64 x) s))
    let s2 := fsetB GNSS_STATUS GNSS_STATUS_ACC_NOT_MET (decide (fget s GNSS_SURVEY GNSS_SURVEY_SURVEY_ACC < sd)) s1
    gnssShow (occur EV_GNSS_SURVEY_DONE (gnssSet (fun g => { g with surveying := false, timeOnly := true }) s2))

-- The raw pulse --------------------------------------------------------------------------------------------------

/-- Sample period in 2^-32 ns (R298). -/
def samplePeriod (s : State) : Nat := (if fbit s GNSS_SP_CFG GNSS_SP_CFG_RATE then 50 else 25) * 2 ^ 31

/-- A valid solution no older than 2 s exists (R312). -/
def pulseOn (s : State) : Bool := solValid s && decide (nowSec s ≤ s.gnss.solAt + 2)

/-- Is the present sample edge the one whose tag, corrected by D, lies nearest a second of the selected scale, at most half a sample period
from it (R312)? The scales lie whole seconds apart. -/
def pulseHere (s : State) : Bool :=
  let x := (((sampleTag s (if bandOn s 0 then 0 else 1) (gtNow s) : Int) + s.gnss.solD * 2 ^ 16) % (gtSecond : Int)).toNat
  decide (2 * min x (gtSecond - x) ≤ samplePeriod s)

/-- The raw pulse rises, once for each second (R312); it stays high for 1 µs (`ticPulse`). -/
def timePulse (s : State) : State :=
  let fresh := match s.gnss.pulseAt with | some a => decide (a + gtSecond / 2 ≤ gtNow s) | none => true
  if pulseOn s && pulseHere s && fresh then gnssSet (fun g => { g with pulses := g.pulses + 1, pulseAt := some (gtNow s) }) s else s

/-- A time-pulse message for a TAI second, with the planned edge minus the true second in ps (R312). -/
def tpMessage (sec : Nat) (qerr : Int) (s : State) : State :=
  let g := s.gnss
  let st := (if pulseOn s then 1 else 0) + (if g.timeOnly then 2 else 0) + (if g.surveying then 4 else 0)
    + (if fbit s GNSS_STATUS GNSS_STATUS_JUMP then 8 else 0) + (if g.lean then 16 else 0)
  let m := leBytes 8 sec ++ leBytes 4 (unsgn 32 qerr) ++ leBytes 4 (min g.solB 0xFFFFFFFF)
    ++ leBytes 8 (unsgn 64 g.solD) ++ leBytes 1 (fget s GNSS_CTL GNSS_CTL_SCALE)
    ++ leBytes 1 g.nsv ++ leBytes 1 st ++ [0] ++ leBytes 4 (g.tpSeq + 1)
  occur EV_GNSS_TP (forEach (List.range 4) (fun k a => wr (GNSS_TP_MSG k) (BitVec.ofNat 64 (leAt m (8 * k) 8)) a)
    (gnssSet (fun g => { g with tpSeq := g.tpSeq + 1 }) s))

-- Snapshots ------------------------------------------------------------------------------------------------------

/-- Longest snapshot in ms (R313). -/
def snapMax (s : State) (bands : Nat) : Nat :=
  (if bands = 0 then 26 else 52) * (if fbit s GNSS_SP_CFG GNSS_SP_CFG_RATE then 2 else 1)

/-- A refused snapshot (R313). -/
def snapRefuse (result : Nat) (s : State) : State :=
  occur EV_GNSS_SNAP_DONE (bump (UC_GNSS 10) 1 (fset GNSS_SNAP_STATUS GNSS_SNAP_STATUS_RESULT result s))

/-- A snapshot is armed. -/
def snapPlace (start : Nat) (trig : Option Nat) (dest bands len : Nat) (s : State) : State :=
  fset GNSS_SNAP_STATUS GNSS_SNAP_STATUS_STATE 1
    (gnssSet (fun g => { g with snapAt := if trig.isNone then some start else none, snapTrig := trig, snapDest := dest,
                                snapBands := bands, snapLen := len, snapBad := false, snapFix := none }) s)

/-- Arm a snapshot with a start, or with a trigger (R313). -/
def snapArm (start : Nat) (trig : Option Nat) (dest bands len : Nat) (s : State) : State :=
  let lead := if s.gnss.lean then fget s GNSS_CTL GNSS_CTL_FE_WAKE_MS + 1 else 1
  if snapState s ≠ 0 then snapRefuse 2 s
  else if trig = none ∧ start < gtNow s + lead * (10 ^ 6 * 2 ^ 32) then snapRefuse 1 s
  else snapPlace start trig dest bands len s

/-- A trigger fires (R313, R372). -/
def snapTrigger (k at_ : Nat) (s : State) : State :=
  if snapState s = 1 ∧ s.gnss.snapTrig = some k ∧ s.gnss.snapAt = none then gnssSet (fun g => { g with snapAt := some at_ }) s else s

/-- Does a snapshot store a band (R313, GNSS_SNAP_CTL.BANDS: 0 both, 1 L1, 2 L5)? -/
def snapBand (s : State) (b : Nat) : Bool := decide (s.gnss.snapBands = 0) || decide (s.gnss.snapBands = b + 1)

/-- Capture begins with the sample captured at `edge` (R300, R313). DESIGN CHOICE (log entry 127): of both bands the tag of L1 counts. -/
def snapStart (edge : Nat) (s : State) : State :=
  let t := sampleTag s (if snapBand s 0 then 0 else 1) edge
  match s.gnss.snapAt with
  | some a =>
    if snapState s = 1 ∧ a ≤ t then
      fset GNSS_SNAP_STATUS GNSS_SNAP_STATUS_FIRST_OFS (satF GNSS_SNAP_STATUS_FIRST_OFS ((t - a) * 1000 / 2 ^ 32))
        (fset GNSS_SNAP_STATUS GNSS_SNAP_STATUS_STATE 2 (gnssSet (fun g => { g with snapBad := !g.valid, snapEdge := edge, lows := [], baseBad := true }) s))
    else s
  | none => s

/-- Was GSP_VALID low at the capture of sample `k` of the snapshot (R313)? -/
def sampleLow (s : State) (k : Nat) : Bool :=
  let t := s.gnss.snapEdge + k * samplePeriod s
  s.gnss.lows.any (fun x => decide (x.1 ≤ t) && decide (t < x.2)) || (!s.gnss.valid && decide (s.gnss.lowAt ≤ t))

/-- Samples as a snapshot stores them (R299, R313): those taken while GSP_VALID was low are zero, and those of a band that is not captured
(DESIGN CHOICE, log entry 127). -/
def snapBytes (s : State) (data : List Byte) : List Byte :=
  let both := decide (s.gnss.snapBands = 0)
  (List.zip (List.range data.length) data).map (fun ib =>
    if bandOn s (if both then ib.1 % 2 else s.gnss.snapBands - 1) && !sampleLow s (if both then ib.1 / 2 else ib.1) then ib.2 else 0)

/-- The samples of a snapshot are stored, and read where it is searched; the flag says that an uncorrectable word was met (R313, R465). -/
def snapStore (exp : Bool) (bs : List Byte) (s : State) : Bool × State :=
  if exp then (false, putMem 0x60000000 bs s) else touchMem 0x60000000 bs.length (putMem 0x60000000 bs s)

/-- A snapshot completes (R313): its samples in the snapshot buffer, and the satellites its local search found; enough of them make one solution
possible. An uncorrectable word that the search meets gives FE_INVALID and no solution (R465). -/
def snapDone (data : List Byte) (sats : Nat) (s : State) : State :=
  if snapState s ≠ 2 then s
  else
    let g := s.gnss
    let exp := g.snapDest = 1
    let m := snapStore exp (snapBytes s (data.take 0x400000)) s
    let s1 := m.2
    let s2 := fset GNSS_SNAP_STATUS GNSS_SNAP_STATUS_LEN_MS g.snapLen (fset GNSS_SNAP_STATUS GNSS_SNAP_STATUS_RESULT (if g.snapBad || m.1 then 3 else 0)
      (fset GNSS_SNAP_STATUS GNSS_SNAP_STATUS_STATE (if exp then 3 else 0) s1))
    let s3 := if exp then s2 else fset GNSS_SNAP_STATUS GNSS_SNAP_STATUS_SATS (min sats 255) s2
    let off := g.lean && !g.ephem
    let fix := if !exp && !m.1 && decide (fget s GNSS_SOL_CFG GNSS_SOL_CFG_MIN_SV ≤ sats) then g.snapAt.map (fun a => (gtSec a, sats)) else none
    let s4 := gnssSet (fun g => { g with snapAt := none, snapTrig := none, snapFix := fix, power := g.power && !off, valid := g.valid && !off,
                                         lowAt := if g.valid && off then gtNow s else g.lowAt }) s3
    occur EV_GNSS_SNAP_DONE (bump (UC_GNSS 9) 1 s4)

/-- An exported snapshot is released (R313). -/
def snapRelease (s : State) : State := if snapState s = 3 then fset GNSS_SNAP_STATUS GNSS_SNAP_STATUS_STATE 0 s else s

-- Lean mode and the band monitor ---------------------------------------------------------------------------------

/-- Satellites with data less than 7 days old. -/
def freshSats (s : State) : Nat :=
  (((s.gnss.nav.filter (fun x => decide (nowSec s < x.2.sec + 7 * 86400))).map (fun x => (x.1 / 2 ^ 16, x.1 % 2 ^ 8))).eraseDups).length

/-- Lean operation is possible (R304, R314): SET, bound at most 100 µs, a surveyed or fixed position, and data less than 7 days old of as many
satellites as a solution needs (the number is a DESIGN CHOICE, log entry 165). -/
def leanReady (s : State) : Bool :=
  fbit s GNSS_CTL GNSS_CTL_LEAN && gnssOn s && !tsuUnset s && decide (boundNs s ≤ 100000) && s.gnss.timeOnly
    && decide (fget s GNSS_SOL_CFG GNSS_SOL_CFG_MIN_SV ≤ freshSats s)

/-- Is a cycle due on the TSU second `sec`: a LEAN_PERIOD after the last, and still to come (R314)? -/
def leanDue (sec : Nat) (s : State) : Bool :=
  (!s.gnss.lean || decide (s.gnss.leanAt + fget s GNSS_CTL GNSS_CTL_LEAN_PERIOD ≤ sec)) && decide (gtNow s ≤ sec * gtSecond)

/-- A lean cycle for the TSU second `sec` (R314): FE_WAKE_MS before it the front end wakes and the script runs, and the snapshot is armed,
which is not late. Within the 60 s window the front end is on already and tracking goes on. -/
def leanCycle (sec : Nat) (reads : List (List Byte)) (rose : Bool) (s : State) : State :=
  if !leanReady s then
    (if s.gnss.lean then gnssShow (gnssSet (fun g => { g with lean := false, power := true, ephem := false }) s) else s)
  else if !leanDue sec s then s
  else
    let wake := !(s.gnss.lean && s.gnss.ephem)
    let s1 := gnssShow (gnssSet (fun g => { g with lean := true, power := true, leanAt := sec }) (if wake then chansIdle s else s))
    let s2 := if wake then feScript reads rose s1 else s1
    if snapState s2 ≠ 0 then snapRefuse 2 s2 else snapPlace (sec * gtSecond) none 0 0 20 s2

/-- The 60 s window of tracking begins or ends (R314). -/
def ephemWindow (on : Bool) (s : State) : State :=
  if !s.gnss.lean then s
  else if on then gnssSet (fun g => { g with ephem := true, power := true }) s
  else chansIdle (gnssSet (fun g => { g with ephem := false, power := false, valid := false, lowAt := if g.valid then gtNow s else g.lowAt }) s)

/-- Rise of a noise power over the mean of 600 s with this sum, 0.25 dB units, as JAM_L1 and JAM_L5 show it. -/
def bandRise (on : Bool) (l sum : Nat) : Nat := if on then min ((600 * l - sum) / 600) 255 else 0

/-- The band monitor (R318): noise power of L1 and L5 in 0.25 dB over any fixed level. The baseline is the mean of the first 600 seconds of
the start in which no snapshot or VALID fault occurs (DEDUCED, log entry 160); until then nothing is shown. -/
def bandMonitor (l1 l5 : Nat) (s : State) : State :=
  if !gnssOn s then s
  else if s.gnss.baseN < 600 then
    gnssSet (fun g => if g.baseBad then { g with baseBad := false }
      else { g with baseN := g.baseN + 1, baseL1 := g.baseL1 + l1, baseL5 := g.baseL5 + l5 }) s
  else
    let a := bandRise (bandOn s 0) l1 s.gnss.baseL1
    let b := bandRise (bandOn s 1) l5 s.gnss.baseL5
    let th := fget s GNSS_SOL_CFG GNSS_SOL_CFG_JAM_THRESH
    setLevel EV_GNSS_JAM (decide (th < a) || decide (th < b))
      (fset GNSS_STATUS GNSS_STATUS_JAM_L5 b (fset GNSS_STATUS GNSS_STATUS_JAM_L1 a s))

-- Registers ------------------------------------------------------------------------------------------------------

/-- Checks of a write to a GNSS register (R313, R317, the field ranges apart). -/
def gnssCheck (a : Nat) (v : Word) (s : State) : Verdict :=
  if a = GNSS_CTL then
    if getF GNSS_CTL_ACCEPT v ≠ 0 ∧ !fbit s GNSS_STATUS GNSS_STATUS_JUMP then vState 0xF else .ok
  else if a = GNSS_SNAP_CTL then
    let n := getF GNSS_SNAP_CTL_LEN_MS v
    if n = 0 ∨ snapMax s (getF GNSS_SNAP_CTL_BANDS v) < n then vRange else .ok
  else .ok

/-- The effect of an accepted write to a GNSS register; `stored` has the plain fields stored. -/
def gnssApply (a : Nat) (v : Word) (s stored : State) : Option State :=
  if a = GNSS_CTL then
    let s1 := if getF GNSS_CTL_ACCEPT v ≠ 0 then gnssAccept stored else stored
    let ends := s1.gnss.lean && !fbit s1 GNSS_CTL GNSS_CTL_LEAN
    some (gnssShow (chanPrune (if ends then gnssSet (fun g => { g with lean := false, ephem := false, power := true }) s1 else s1)))
  else if a = GNSS_SP_CFG then some (chanPrune stored)
  else if a = GNSS_SURVEY then some (if getF GNSS_SURVEY_RESTART v ≠ 0 then surveyStart stored else stored)
  else if a = GNSS_SNAP_CTL then
    let s1 := if getF GNSS_SNAP_CTL_RELEASE v ≠ 0 then snapRelease stored else stored
    some (if getF GNSS_SNAP_CTL_ARM v ≠ 0 then
      snapArm (gtOf (rd s1 GNSS_SNAP_SEC).toNat (rd s1 GNSS_SNAP_SUB).toNat)
        (if getF GNSS_SNAP_CTL_SRC v ≠ 0 then some (getF GNSS_SNAP_CTL_TRIG_SEL v) else none) (getF GNSS_SNAP_CTL_DEST v)
        (getF GNSS_SNAP_CTL_BANDS v) (getF GNSS_SNAP_CTL_LEN_MS v) s1
      else s1)
  else if a = GNSS_NAV_RING then some (navLevel stored)
  else if a = GNSS_L1_DELAY then some (delayWrite 0 s stored)
  else if a = GNSS_L5_DELAY then some (delayWrite 1 s stored)
  else none

/-- GNSS_FE_SCRIPT (R301). -/
def execGnssFeScript (reads : List (List Byte)) (rose : Bool) (s : State) : Res := gnssRun (feScript reads rose) s

/-- GNSS_FE_RETRY (R301): the script again while FE_FAULT is set. -/
def execGnssFeRetry (reads : List (List Byte)) (rose : Bool) (s : State) : Res :=
  gnssRun (fun a => if fbit a GNSS_STATUS GNSS_STATUS_FE_FAULT then feScript reads rose a else a) s

/-- GSP_VALID_FALL (R301). -/
def execGspValidFall (back : Option Nat) (s : State) : Res := gnssRun (validFall back) s

/-- GSP_VALID_GAP (R301). -/
def execGspValidGap (s : State) : Res := gnssRun validGap s

/-- GSP_VALID_RECOVER (R301). -/
def execGspValidRecover (s : State) : Res := gnssRun validBack s

/-- GSP_VALID_TIMEOUT (R301). -/
def execGspValidTimeout (s : State) : Res := gnssRun validTimeout s

/-- GNSS_ACQ_BATCH (R303). -/
def execGnssAcqBatch (cells : Nat) (found : List (Nat × Nat × Nat × Nat)) (s : State) : Res := gnssRun (acqBatch cells found) s

/-- GNSS_CHANNEL_TRACK (R305). -/
def execGnssChannelTrack (ch : Nat) (s : State) : Res := gnssRun (chanTrack ch) s

/-- GNSS_CHANNEL_LOSS (R305). -/
def execGnssChannelLoss (ch : Nat) (s : State) : Res := gnssRun (chanLoss ch) s

/-- GNSS_MEAS_EPOCH (R305). -/
def execGnssMeasEpoch (t : Nat) (reports : List (Nat × Int × Int × Int × Nat × Nat)) (s : State) : Res := gnssRun (measEpoch t reports) s

/-- GNSS_NAV_UNIT (R307). -/
def execGnssNavUnit (t sys sig sv ch nbits check flags ok cn0 : Nat) (bits : List Byte) (utc : Option (Int × Nat × Int)) (s : State) : Res :=
  gnssRun (navUnit t sys sig sv ch nbits check flags ok cn0 bits utc) s

/-- GNSS_SOLUTION (R308). -/
def execGnssSolution (sec : Nat) (dAll d : Int) (sigma : Nat) (residuals : List (Nat × Nat × Int)) (systems : List (Nat × Int)) (posErr : Nat)
    (s : State) : Res := gnssRun (gnssSolution sec dAll d sigma residuals systems posErr) s

/-- GNSS_SYS_EXCLUSION_END (R309). -/
def execGnssSysExclusionEnd (sys : Nat) (s : State) : Res := gnssRun (sysExclEnd sys) s

/-- GNSS_NO_SOL (R315). -/
def execGnssNoSol (s : State) : Res := gnssRun noSolution s

/-- GNSS_SURVEY_DONE (R310). -/
def execGnssSurveyDone (x y z : Int) (sd : Nat) (s : State) : Res := gnssRun (surveyDone x y z sd) s

/-- GNSS_TIME_PULSE (R312). -/
def execGnssTimePulse (s : State) : Res := gnssRun timePulse s

/-- GNSS_TP (R312). -/
def execGnssTp (sec : Nat) (qerr : Int) (s : State) : Res := gnssRun (tpMessage sec qerr) s

/-- GNSS_SNAP_CAPTURE_START (R313): the TSU instant of the sample's capture edge. -/
def execGnssSnapCaptureStart (edge : Nat) (s : State) : Res := gnssRun (snapStart edge) s

/-- GNSS_SNAP_DONE (R313). -/
def execGnssSnapDone (data : List Byte) (sats : Nat) (s : State) : Res := gnssRun (snapDone data sats) s

/-- GNSS_LEAN_CYCLE (R314). -/
def execGnssLeanCycle (sec : Nat) (_ : Unit) (reads : List (List Byte)) (rose : Bool) (s : State) : Res :=
  gnssRun (leanCycle sec reads rose) s

/-- GNSS_EPHEMERIS_WINDOW (R314). -/
def execGnssEphemerisWindow (on : Bool) (s : State) : Res := gnssRun (ephemWindow on) s

/-- GNSS_BAND_MONITOR (R318). -/
def execGnssBandMonitor (l1 l5 : Nat) (s : State) : Res := gnssRun (bandMonitor l1 l5) s

end Sys2Proof.Machine
end

