-- ==== Sys2Proof/Machine/Upstream.lean ====
section
/-!
DEFINITION. Machine/Upstream.lean: firmware's NTP client with NTS (R339) and the time-of-day inputs (R340).
-/
namespace Sys2Proof.Machine
open Sys2Proof

-- The NTS client -------------------------------------------------------------------------------------------------

/-- Is the slot an enabled NTS slot (R321, R339)? -/
def ntsSlot (s : State) (n : Nat) : Bool :=
  decide (9 ≤ n) && decide (n ≤ 16) && fget s (REFS_SLOT_INPUT n) REFS_SLOT_INPUT_SIGNAL == 2 && (refSl s n).bound
    && decide (2 ≤ slotSt s n)

/-- An NTP extension field (RFC 7822), padded to four bytes. -/
def extField (ty : Nat) (b : List Byte) : List Byte :=
  let p := (4 - b.length % 4) % 4
  beBytes 2 ty ++ beBytes 2 (4 + b.length + p) ++ b ++ zeros p

/-- The request of a new NTS-KE (RFC 8915): protocol 0, AEAD 15, End of Message. -/
def keAsk : List Byte := [0x80, 1, 0, 2, 0, 0, 0x80, 4, 0, 2, 0, 15, 0x80, 0, 0, 0]

/-- Begin NTS-KE with the upstream (R339). -/
def ntsKeStart (n : Nat) (s : State) : State :=
  emitOut (.upstream n keAsk) (ntsSet n { ntsOf s n with ke := true, c2s := [], s2c := [], cookies := [] } s)

/-- A poll (R339): one cookie is used, placeholders ask for those that are missing of eight. -/
def ntsPoll (n : Nat) (s : State) : State :=
  if !ntsSlot s n then s
  else
    let x := ntsOf s n
    match x.cookies with
    | [] => if x.ke then s else ntsKeStart n s
    | ck :: rest =>
      let u := drawBytes 32 s
      let t := draw 64 u.2
      let nonce := drawBytes 16 t.2
      let head := [0x23, 0, BitVec.ofNat 8 (ntsPollLog s n), 0] ++ zeros 36 ++ beBytes 8 t.1
      let ad := head ++ extField 0x0104 u.1 ++ extField 0x0204 ck
        ++ ((List.replicate (7 - rest.length) (extField 0x0304 (zeros ck.length))).flatten)
      let v := sivSeal x.c2s [ad, nonce.1] []
      let msg := ad ++ extField 0x0404 (beBytes 2 16 ++ beBytes 2 16 ++ nonce.1 ++ v.1)
      emitOut (.upstream n msg) (ntsSet n { x with cookies := rest, uid := u.1, xmt := t.1 } nonce.2)

/-- A poll has no answer after 1 s (R321, R339). -/
def ntsMiss (n : Nat) (s : State) : State :=
  let x := ntsOf s n
  if !ntsSlot s n || x.uid.isEmpty then s
  else
    let m := (refSl s n).misses + 1
    let s1 := refSlSet n { refSl s n with misses := m } (ntsSet n { x with uid := [] } s)
    if 4 ≤ m then refActLoss n s1 else s1

/-- Extension fields of a reply: offset, type, body. -/
def ntpExts : Nat → Nat → List Byte → List (Nat × Nat × List Byte)
  | 0, _, _ => []
  | f + 1, o, b =>
    let l := beAt b 2 2
    if b.length < 4 ∨ l < 4 ∨ b.length < l then [] else (o, beAt b 0 2, slice b 4 (l - 4)) :: ntpExts f (o + l) (b.drop l)

/-- The authenticator of a reply opened under S2C: the fields it encrypts (RFC 8915). -/
def ntsOpen (key msg : List Byte) : Option (List Byte) :=
  match (ntpExts 32 48 (msg.drop 48)).find? (fun x => x.2.1 = 0x0404) with
  | none => none
  | some (o, _, b) =>
    let nl := beAt b 0 2
    let cl := beAt b 2 2
    let box := slice b (4 + (nl + 3) / 4 * 4) cl
    sivOpen key [msg.take o, slice b 4 nl] (box.take 16) (box.drop 16)

/-- An NTP timestamp as a TSU time in 2^-16 ns, in the era nearest to now (R55, R59). -/
def ntpToTsu (s : State) (v : Nat) : Int :=
  let e : Int := (nowSec s : Int) - fint s TSU_UTC_OFFSET TSU_UTC_OFFSET_OFFSET + 2208988800
  let sec : Int := v / 2 ^ 32
  let d := (sec - e + 2 ^ 31) % 2 ^ 32 - 2 ^ 31
  let u := e + d - 2208988800
  (u + utcOffsetAt s u.toNat) * 1000000000 * 65536 + divRound ((v % 2 ^ 32 : Nat) * 1000000000) 65536

/-- NTP short format in ns, rounded up. -/
def shortNs (v : Nat) : Nat := (v * 1000000000 + 65535) / 65536

/-- A valid reply gives a sample (R322, R339): launch stamp t1 and ingress stamp t4 in 2^-32 ns. -/
def ntsSample (n t1 t4 : Nat) (old : Bool) (m : List Byte) (s : State) : State :=
  let r := refSl s n
  let st := beAt m 1 1
  let id := beAt m 12 4
  let s1 := if (r.upStratum ≠ st ∨ r.upRefId ≠ id) ∧ r.upStratum ≠ 0 then
    cairnState 0x02 sevNotice n r.upStratum st 0x40 id s else s
  let p1 : Int := (t1 : Int) / 2 ^ 16
  let p4 : Int := (t4 : Int) / 2 ^ 16
  let p2 := ntpToTsu s (beAt m 32 8)
  let p3 := ntpToTsu s (beAt m 40 8)
  let rtt := ((p4 - p1) - (p3 - p2)).toNat
  let s2 := refSlSet n { refSl s1 n with upStratum := st, upRefId := id, upDelay := shortNs (beAt m 4 4) } s1
  if 0xC0 ≤ beAt m 0 1 ∨ 16 ≤ st then refActive n s2
  else refSample n t4 (xoAt s2 t4) (divRound ((p2 - p1) + (p3 - p4)) 2) (shortNs (beAt m 8 4)) ((rtt + 65535) / 65536) old s2

/-- A reply to a poll (R339). -/
def ntsReply (n t1 t4 : Nat) (old : Bool) (m : List Byte) (s : State) : State :=
  let x := ntsOf s n
  let xs := ntpExts 32 48 (m.drop 48)
  if !ntsSlot s n || x.uid.isEmpty || decide (m.length < 48) || decide (beAt m 0 1 % 8 ≠ 4) || decide (beAt m 24 8 ≠ x.xmt)
      || !(xs.any (fun y => y.2.1 == 0x0104 && y.2.2 == x.uid)) then s
  else
    let done := { x with uid := [] }
    if beAt m 1 1 = 0 ∧ slice m 12 4 = ascii "NTSN" then ntsKeStart n (ntsSet n done (refActive n s))
    else match ntsOpen x.s2c m with
      | none => s
      | some inner =>
        let cks := (ntpExts 32 0 inner).filterMap (fun y => if y.2.1 = 0x0204 then some y.2.2 else none)
        let y := { done with cookies := (x.cookies ++ cks).take 8 }
        if beAt m 1 1 = 0 then
          let rate := decide (slice m 12 4 = ascii "RATE")
          refActive n (ntsSet n { y with poll := if rate then min 10 (ntsPollLog s n + 1) else y.poll } s)
        else ntsSample n t1 t4 old m (ntsSet n y s)

/-- Records of an NTS-KE response. -/
def keRecords : Nat → List Byte → List (Nat × List Byte)
  | 0, _ => []
  | f + 1, b =>
    let l := beAt b 2 2
    if b.length < 4 ∨ b.length < 4 + l then [] else (beAt b 0 2 % 2 ^ 15, slice b 4 l) :: keRecords f (b.drop (4 + l))

/-- The upstream's NTS-KE response (R339): whether its chain leads to one of the trust anchors held for the upstream (the path
validation of X.509 itself is the command's, log entry 163), the period in which every certificate of the
chain is valid (TAI), the exported keys and the records. -/
def ntsKeReply (n : Nat) (chain : Bool) (notBefore notAfter : Nat) (c2s s2c recs : List Byte) (s : State) : State :=
  let x := ntsOf s n
  if !x.ke then s
  else
    let l := keRecords 64 recs
    let now := nowSec s
    let timely := tsuUnset s || (decide (notBefore ≤ now) && decide (now ≤ notAfter))
    let cks := l.filterMap (fun r => if r.1 = 5 then some r.2 else none)
    let good := chain && !x.anchors.isEmpty && timely && l.any (fun r => r.1 == 1 && r.2 == [0, 0]) && l.any (fun r => r.1 == 4 && r.2 == [0, 15])
      && !(l.any (fun r => r.1 == 2)) && l.any (fun r => r.1 == 0) && !cks.isEmpty
    if good then ntsSet n { x with ke := false, c2s := c2s, s2c := s2c, cookies := cks.take 8 } s
    else ntsSet n { x with ke := false } s

-- Time of day ----------------------------------------------------------------------------------------------------

/-- Days from 1970-01-01 to a civil date. -/
def daysOf (y m d : Nat) : Nat :=
  let y1 := if m ≤ 2 then y - 1 else y
  let mp := (m + 9) % 12
  y1 * 365 + y1 / 4 - y1 / 100 + y1 / 400 + (153 * mp + 2) / 5 + d - 1 - 719468

def isDigit (b : Byte) : Bool := decide (48 ≤ b.toNat) && decide (b.toNat ≤ 57)

/-- A decimal number. -/
def decOf (b : List Byte) : Option Nat :=
  if b.isEmpty || !b.all isDigit then none else some (b.foldl (fun a c => 10 * a + (c.toNat - 48)) 0)

/-- Comma-separated fields. -/
def fieldsOf : List Byte → List Byte → List (List Byte)
  | cur, [] => [cur]
  | cur, b :: r => if b = 0x2C then cur :: fieldsOf [] r else fieldsOf (cur ++ [b]) r

/-- The body of an NMEA sentence whose checksum fits (NMEA 0183). -/
def nmeaBody (b : List Byte) : Option (List Byte) :=
  match b with
  | 0x24 :: r =>
    let body := r.takeWhile (fun c => c ≠ 0x2A)
    let x := body.foldl (fun a c => a ^^^ c) (0 : Byte)
    let cs := (r.drop (body.length + 1)).take 2
    if body.length < r.length ∧ (cs = hex2 x.toNat) then some body else none
  | _ => none

/-- UTC seconds of a whole-second time field and a date. -/
def utcOf (time : List Byte) (y m d : Option Nat) : Option Nat :=
  let frac := time.drop 6
  match decOf (slice time 0 2), decOf (slice time 2 2), decOf (slice time 4 2), y, m, d with
  | some h, some mi, some sec, some y, some m, some d =>
    if (frac.isEmpty || (frac.headD 0 == 0x2E && frac.tail.all (fun c => c == 0x30))) && decide (h < 24) && decide (mi < 60)
        && decide (sec < 61) && decide (1 ≤ m ∧ m ≤ 12) && decide (1 ≤ d ∧ d ≤ 31) then
      some (daysOf y m d * 86400 + h * 3600 + mi * 60 + sec)
    else none
  | _, _, _, _, _, _ => none

/-- Label in TAI and bound of a message, by FORMAT (R340). -/
def todLabel (s : State) (k : Nat) (b : List Byte) : Option (Nat × Nat) :=
  let tai := fun (u : Nat) => (((u : Int) + fint s TSU_UTC_OFFSET TSU_UTC_OFFSET_OFFSET).toNat, 0)
  match fget s (REFS_SLOT_INPUT (18 + k)) REFS_SLOT_INPUT_INSTANCE with
  | 2 =>
    if b.length = 16 ∧ b.take 2 = [0x47, 0x54] ∧ beAt b 2 1 = 1 ∧ (b.map (·.toNat)).sum % 256 = 0 ∧ beAt b 3 1 % 2 = 1 then
      some (leAt b 4 8, if leAt b 14 1 = 0xFF then 0xFFFFFFFF else min 0xFFFFFFFF (2 ^ leAt b 14 1))
    else none
  | 0 => match (nmeaBody b).map (fieldsOf []) with
    | some (id :: t :: d :: m :: y :: _) =>
      if id.drop 2 = ascii "ZDA" then (utcOf t (decOf y) (decOf m) (decOf d)).map tai else none
    | _ => none
  | 1 => match (nmeaBody b).map (fieldsOf []) with
    | some (id :: t :: st :: _ :: _ :: _ :: _ :: _ :: _ :: date :: _) =>
      if id.drop 2 = ascii "RMC" ∧ st = [0x41] then
        (utcOf t ((decOf (slice date 4 2)).map (2000 + ·)) (decOf (slice date 2 2)) (decOf (slice date 0 2))).map tai
      else none
    | _ => none
  | _ => none

/-- Pulses between two instants of XO time (2^-32 ns), one per second (R340). -/
def pulsesBetween (a b : Nat) : Int := divRound ((b : Int) - a) gtSecond

/-- A time-of-day message with the pulse it labels (R340): framing good, instant of its last byte, pulse (TSU and XO time). The pulse itself
counts for the edge rule of R321 whatever the message. A label is compared with that of the message before, valid or not (DESIGN CHOICE,
log entry 65), by the pulses that XO time has between them (DESIGN CHOICE, log entry 164). A pulse from before the set edge is known by its XO time (R322). -/
def todMessage (k : Nat) (b : List Byte) (framed : Bool) (tEnd : Nat) (pulse : Option (Nat × Nat)) (s0 : State) : State :=
  let n := 18 + k
  let bad := bump UC_REFS_TOD_BAD 1
  if slotSt s0 n < 2 then s0
  else
    let s := match pulse with | some (t, _) => refSlSet n { refSl s0 n with lastAt := t } s0 | none => s0
    match (if framed then todLabel s k b else none) with
    | none => bad s
    | some (l, q) =>
      let after := fbit s (REFS_SLOT_INPUT n) REFS_SLOT_INPUT_LABEL
      match pulse with
      | none => bad s
      | some (t, xo) =>
        let last := mapGet (fun _ => none) s.tod k
        let s1 : State := { s with tod := mapSet (fun _ => none) k (some (l, xo)) s.tod }
        let next := match last with | some (l0, x0) => (l0 : Int) + pulsesBetween x0 xo | none => l
        let d := if after then t - tEnd else tEnd - t
        if d < ns32 10000000 ∨ ns32 990000000 < d ∨ (l : Int) ≠ next then bad s1
        else refSample n t xo ((l : Int) * 1000000000 * 65536 - divRound t 65536) q 0 (decide (xo < s.tsu.setXo)) s1

-- Meanings -------------------------------------------------------------------------------------------------------

/-- NTS_UPSTREAM_POLL (R339). -/
def execNtsUpstreamPoll (n : Nat) (s : State) : Res := run (ntsPoll n) s

/-- NTS_POLL_TIMEOUT (R339). -/
def execNtsPollTimeout (n : Nat) (s : State) : Res := run (ntsMiss n) s

/-- NTS_POLL_REPLY (R339). -/
def execNtsPollReply (n t1 t4 : Nat) (old : Bool) (bytes : List Byte) (s : State) : Res := run (ntsReply n t1 t4 old bytes) s

/-- NTS_KE_CLIENT_RESPONSE (R339). -/
def execNtsKeClientResponse (n : Nat) (chain : Bool) (notBefore notAfter : Nat) (c2s s2c recs : List Byte) (s : State) : Res :=
  run (ntsKeReply n chain notBefore notAfter c2s s2c recs) s

/-- TOD_MESSAGE (R340). -/
def execTodMessage (k : Nat) (bytes : List Byte) (framed : Bool) (tEnd : Nat) (pulse : Option (Nat × Nat)) (s : State) : Res :=
  runIf (k < 2) (todMessage k bytes framed tEnd pulse) s

end Sys2Proof.Machine
end

