-- ==== Sys2Proof/Machine/Legs.lean ====
section
/-!
DEFINITION. Machine/Legs.lean: the Route Book as bytes (R398 to R414): the flash, framing, leg bodies, sealed legs, the
identities of the NTSKE leg with their certificates (R215), and verification of a copy (R404).
-/
namespace Sys2Proof.Machine
open Sys2Proof

-- Flash ----------------------------------------------------------------------------------------------------------

/-- An erased byte. -/
def flashDefault (_ : Nat) : Byte := 0xFF

/-- Bytes of the flash. -/
def flashRead (s : State) (off n : Nat) : List Byte := mapBytes flashDefault s.nvm.flash off n

/-- Store bytes in the flash. -/
def flashStore (off : Nat) (bs : List Byte) (s : State) : State :=
  { s with nvm := { s.nvm with flash := mapPut flashDefault s.nvm.flash off bs } }

/-- Program bytes: a program operation only clears bits. -/
def flashProgram (off : Nat) (bs : List Byte) (s : State) : State :=
  flashStore off (List.zipWith (fun a b => a &&& b) (flashRead s off bs.length) bs) s

/-- Erase a range. -/
def flashErase (off n : Nat) (s : State) : State :=
  { s with nvm := { s.nvm with flash := s.nvm.flash.filter (fun c => c.1 < off || off + n ≤ c.1) } }

/-- Start of copy A or B, and the room of a copy (R398). -/
def copyBase (c : Nat) : Nat := if c = 0 then 0 else 0x2000000
def copyRoom : Nat := 32505856

/-- CRC32 of R401. -/
def bookCrc (bs : List Byte) : Nat := crc32With 0xEDB88320 0xFFFFFFFF bs

-- Units a setting may aim at -------------------------------------------------------------------------------------

/-- Does the address lie in the registers of a unit that the variant lacks (R3, R4, R524)? A port's PTP_PORTn and gate registers are
registers of that port. -/
def absentAddr (v : Variant) (a : Nat) : Bool :=
  if 0x100000 ≤ a ∧ a < 0x180000 then !unitBit v ((a - 0x100000) / 0x10000)
  else if 0x60000 ≤ a ∧ a < 0x70000 then !unitBit v 35
  else if 0x50000 ≤ a ∧ a < 0x50800 then !unitBit v (24 + (a - 0x50000) / 0x100)
  else if 0x300100 ≤ a ∧ a < 0x300200 then !unitBit v ((a - 0x300100) / 0x20)
  else if 0x400480 ≤ a ∧ a < 0x4004C0 then !unitBit v ((a - 0x400480) / 8)
  else if 0x500000 ≤ a ∧ a < 0x508000 then !unitBit v (16 + (a - 0x500000) / 0x1000)
  else if (0x400010 ≤ a ∧ a < 0x400030) ∨ (0x400200 ≤ a ∧ a < 0x400260) ∨ (0x401000 ≤ a ∧ a < 0x401200) then !unitBit v 36
  else false

/-- UNIT of the absent unit an address belongs to (R6, R499). -/
def absentUnit (a : Nat) : Nat :=
  if 0x300100 ≤ a ∧ a < 0x300200 then 0x10 + (a - 0x300100) / 0x20
  else if 0x400480 ≤ a ∧ a < 0x4004C0 then 0x10 + (a - 0x400480) / 8
  else unitOf a

-- DER and identities ---------------------------------------------------------------------------------------------

/-- One DER element: tag, contents, what follows. -/
def derTake (b : List Byte) : Option (Nat × List Byte × List Byte) :=
  match b with
  | t :: l :: r =>
    if l.toNat < 128 then (if l.toNat ≤ r.length then some (t.toNat, r.take l.toNat, r.drop l.toNat) else none)
    else
      let k := l.toNat - 128
      let n := beNat (r.take k)
      if k = 0 ∨ 4 < k ∨ r.length < k + n then none else some (t.toNat, slice r k n, r.drop (k + n))
  | _ => none

/-- The elements of a constructed DER value. -/
def derList : Nat → List Byte → Option (List (Nat × List Byte))
  | _, [] => some []
  | 0, _ => none
  | n + 1, b => match derTake b with
    | none => none
    | some (t, c, r) => (derList n r).map (fun x => (t, c) :: x)

/-- What a certificate says of its key: algorithm, key bits, and notAfter in seconds of UTC since 1970 (RFC 5280). -/
def certKey (cert : List Byte) : Option (List Byte × List Byte × Nat) :=
  match derTake cert with
  | some (0x30, c, []) => match derTake c with
    | some (0x30, tbs, _) => match derList 16 tbs with
      | some els =>
        match (if (els.headD (0, [])).1 = 0xA0 then els.drop 1 else els) with
        | (2, _) :: (0x30, _) :: (0x30, _) :: (0x30, val) :: (0x30, _) :: (0x30, spki) :: _ =>
          match derList 2 val, derList 2 spki with
          | some [_, (tt, t)], some [(0x30, alg), (3, bits)] =>
            let y := if tt = 0x17 then (decOf (slice t 0 2)).map (fun y => if y < 50 then 2000 + y else 1900 + y)
              else decOf (slice t 0 4)
            let d := if tt = 0x17 then t.drop 2 else t.drop 4
            (utcOf (slice d 4 6) y (decOf (slice d 0 2)) (decOf (slice d 2 2))).map (fun u => (alg, bits.drop 1, u))
          | _, _ => none
        | _ => none
      | none => none
    | _ => none
  | _ => none

/-- Modulus and exponent of an RSA public key (RFC 8017). -/
def leafRsa (bits : List Byte) : Option (Nat × Nat) :=
  match derTake bits with
  | some (0x30, c, []) => match derList 2 c with
    | some [(2, n), (2, x)] => some (beNat n, beNat x)
    | _ => none
  | _ => none

/-- The leaf's public key is of the identity's type: algorithms are told by their OID contents; and an RSA modulus has the length given
(R215). -/
def leafFits (kty rsa : Nat) (alg bits : List Byte) : Bool :=
  let oid := match derList 2 alg with | some ((6, o) :: _) => o | _ => []
  let par := match derList 2 alg with | some [_, (6, o)] => o | _ => []
  let ec := decide (oid = [0x2A, 0x86, 0x48, 0xCE, 0x3D, 2, 1]) && decide (bits.headD 0 = 4)
  match kty with
  | 1 => ec && decide (par = [0x2A, 0x86, 0x48, 0xCE, 0x3D, 3, 1, 7]) && decide (bits.length = 65)
  | 2 => ec && decide (par = [0x2B, 0x81, 4, 0, 0x22]) && decide (bits.length = 97)
  | 3 => decide (oid = [0x2B, 0x65, 0x70]) && decide (bits.length = 32)
  | 4 => decide (oid = [0x2A, 0x86, 0x48, 0x86, 0xF7, 0x0D, 1, 1, 1]) && decide (32 ≤ rsa ∧ rsa ≤ 64)
      && (match leafRsa bits with | some (n, _) => decide (2 ^ (64 * rsa - 1) ≤ n ∧ n < 2 ^ (64 * rsa)) | none => false)
  | _ => false

/-- Does the key pass the checks of KEY_LOAD (R263)? -/
def keyLoads (kty : Nat) (key : List Byte) : Bool :=
  match kty with
  | 3 => decide (key.length = 32)
  | 4 => match rsaParts key with
    | some (p, q, _) => decide (p ≠ 1 ∧ q ≠ 1) && decide (p % 2 = 1 ∧ q % 2 = 1)
    | none => false
  | _ => decide (0 < beNat key ∧ beNat key < (nistOf kty).n)

/-- One sign and verify with the key and the leaf's public key (R215). What is signed, and with which nonce, the spec does not say: the
digest of nothing, and a nonce of 2 (DESIGN CHOICE, log entry 133). -/
def keyMatches (kty : Nat) (key bits : List Byte) : Bool :=
  let z := beNat (sha256 [])
  match kty with
  | 3 => edVerify bits (edSign key []) []
  | 4 => match rsaParts key, leafRsa bits with
    | some (p, q, e), some (n, x) => decide (powMod (powMod z (rsaExp p q e) (p * q)) x n = z)
    | _, _ => false
  | _ =>
    let c := nistOf kty
    let w := 8 * c.w
    let q := (beNat (slice bits 1 w), beNat (bits.drop (1 + w)))
    let g := ecdsaSign c (beNat key) (z % c.n) 2
    onCurve c q.1 q.2 && ecdsaVerify c q (z % c.n) g.1 g.2

/-- An identity entry (R413), validated (R215). It is not valid for the first of these causes that holds: 1 the entry is cut off, 2 a limit is
broken, 3 the chain cannot be read, 4 the leaf's key is of another type, 5 KEY_LOAD refuses the key, 6 the signature does not verify
(the codes are the model's: DESIGN CHOICE, log entry 133). -/
def identOf (s : State) (e : List Byte) : KeIdent :=
  let kty := leAt e 4 1
  let rsa := leAt e 5 1
  let bad : KeIdent := { names := [], kty := kty, rsa := rsa, certs := [], key := [], notAfter := 0, valid := false, why := 1 }
  match lvList 1 (leAt e 6 1) (e.drop 8) with
  | none => bad
  | some (names, r1) => match lvList 4 (leAt e 7 1) r1 with
    | none => bad
    | some (certs, r2) =>
      let key := slice r2 4 (leAt r2 0 4)
      let x : KeIdent := { bad with names := names, certs := certs, key := key }
      if r2.length < 4 + leAt r2 0 4 then x
      else if 8 < names.length ∨ 4 < certs.length ∨ 8192 < (certs.map (·.length)).sum then { x with why := 2 }
      else if !certs.all (fun c => match derTake c with | some (0x30, _, []) => true | _ => false) then { x with why := 3 }
      else match certKey (certs.headD []) with
        | none => { x with why := 3 }
        | some (alg, bits, na) =>
          let y := { x with notAfter := ((na : Int) + fint s TSU_UTC_OFFSET TSU_UTC_OFFSET_OFFSET).toNat }
          if !leafFits kty rsa alg bits then { y with why := 4 }
          else if !keyLoads kty key then { y with why := 5 }
          else if !keyMatches kty key bits then { y with why := 6 }
          else { y with valid := true, why := 0 }

/-- An identity as an entry again, for a snapshot of the pair (R392). -/
def identBytes (i : KeIdent) : List Byte :=
  let b := [BitVec.ofNat 8 i.kty, BitVec.ofNat 8 i.rsa, BitVec.ofNat 8 i.names.length, BitVec.ofNat 8 i.certs.length]
    ++ i.names.flatMap (fun n => BitVec.ofNat 8 n.length :: n) ++ i.certs.flatMap (fun c => leBytes 4 c.length ++ c)
    ++ leBytes 4 i.key.length ++ i.key
  let n := (4 + b.length + 7) / 8 * 8
  leBytes 4 n ++ b ++ zeros (n - 4 - b.length)

-- Leg bodies -----------------------------------------------------------------------------------------------------

/-- A settings record (R410): address, mask, value. -/
structure Setting where
  addr : Nat
  mask : Word
  val : Word
  deriving DecidableEq, Repr

/-- A leg body in parts (R411): fixed part, entries, settings records. -/
structure LegBody where
  fixed : List Byte
  entries : List (List Byte)
  recs : List Setting
  deriving DecidableEq, Repr

def settingOf (b : List Byte) : Setting := ⟨leAt b 0 4, BitVec.ofNat 64 (leAt b 8 8), BitVec.ofNat 64 (leAt b 16 8)⟩

/-- `n` entries of `w` bytes; of their own ELEN where `w` is 0. -/
def takeEntries (w : Nat) : Nat → List Byte → Option (List (List Byte) × List Byte)
  | 0, b => some ([], b)
  | n + 1, b =>
    let l := if w = 0 then leAt b 0 4 else w
    if b.length < l ∨ l % 8 ≠ 0 ∨ l < 8 then none else (takeEntries w n (b.drop l)).map (fun x => (b.take l :: x.1, x.2))

/-- A part that begins with COUNT. -/
def countPart (w : Nat) (b : List Byte) : Option (List (List Byte) × List Byte) :=
  if b.length < 8 ∨ b.length < 8 * leAt b 0 4 then none else takeEntries w (leAt b 0 4) (b.drop 8)

/-- Bytes of the fixed part of a leg type (R413). -/
def fixedLen (ty : Nat) : Nat :=
  if ty = 1 then 100 else if ty = 0x10 ∨ ty = 0x62 ∨ ty = 0x41 ∨ ty = 0x80 then 32 else if ty = 0x42 then 256
  else if ty = 0x60 then 16 else if ty = 0x70 then 8 else if ty = 0xB0 then 40 else 0

/-- Width of the entries of a leg type; 0 where each gives its own; none: no entries part. -/
def entryLen (ty : Nat) : Option Nat :=
  if ty = 0x40 ∨ ty = 0x50 then some 24 else if ty = 0x42 ∨ ty = 0x60 then some 0 else if ty = 0x80 then some 32
  else if ty = 0xA0 then some 40 else none

/-- Legs with a settings part. -/
def hasSettings (ty : Nat) : Bool :=
  [0x20, 0x40, 0x41, 0x42, 0x50, 0x60, 0x61, 0x70, 0x71, 0x80, 0x90, 0xB0, 0xC0, 0xE0].contains ty

/-- Types of R411. -/
def legTypes : List Nat :=
  [0x01, 0x10, 0x20, 0x30, 0x31, 0x40, 0x41, 0x42, 0x50, 0x60, 0x61, 0x62, 0x70, 0x71, 0x80, 0x90, 0xA0, 0xB0, 0xC0, 0xD0, 0xE0, 0xFF]

/-- The parts of a body whose parts add up to it exactly (R411). -/
def bodyOf (ty : Nat) (b : List Byte) : Option LegBody :=
  let n := fixedLen ty
  if b.length < n then none
  else
    match (match entryLen ty with
      | none => some ([], b.drop n)
      | some w => countPart w (b.drop n)) with
    | none => none
    | some (es, r) =>
      if !hasSettings ty then (if r.isEmpty then some ⟨b.take n, es, []⟩ else none)
      else match countPart 24 r with
        | some (rs, []) => some ⟨b.take n, es, rs.map settingOf⟩
        | _ => none

/-- May a leg of the type set the register (R411)? -/
def legBlock (ty a : Nat) : Bool :=
  let rg := fun (lo hi : Nat) => decide (lo ≤ a) && decide (a < hi)
  match ty with
  | 0x20 => rg 0x100000 0x180000 || rg 0x300000 0x310000
  | 0x40 => rg 0x400100 0x400140 || a == 0x400030
  | 0x41 => a == 0x400000 || rg 0x400010 0x400028
  | 0x42 => rg 0x400200 0x400260
  | 0x50 => rg 0x400400 0x400500
  | 0x60 => rg 0x20000 0x30000
  | 0x61 => rg 0x30000 0x40000 && !rg 0x30048 0x30060
  | 0x70 => rg 0x40000 0x40800 || rg 0x42000 0x42010
  | 0x71 => rg 0x41000 0x41400
  | 0x80 => rg 0x60000 0x70000
  | 0x90 => rg 0x50000 0x60000
  | 0xB0 => rg 0x600000 0x610000 || rg 0x22100 0x22200
  | 0xC0 => rg 0x700000 0x710000 || rg 0x800000 0x810000 || rg 0x900000 0x910000
  | 0xE0 => true
  | _ => false

/-- Does the register have a WO field? -/
def hasWo (a : Nat) : Bool := match regRow a with | some r => r.fields.any (fun x => x.acc = .wo) | none => false

/-- Does a settings record keep R410 in a leg of the type? -/
def recordOk (ty : Nat) (r : Setting) : Bool :=
  (regRow r.addr).isSome && legBlock ty r.addr
    && !(ty == 0xE0 && (hasWo r.addr || [TSU_FREQ_ADJ, TSU_SET_SEC, TSU_SET_SUB, TSU_SET_BOUND].contains r.addr))

/-- A leg of a copy: offset, type, flags, body as stored. -/
structure Leg where
  off : Nat
  ty : Nat
  flags : Nat
  body : List Byte
  deriving DecidableEq, Repr

def legRequired (l : Leg) : Bool := l.flags.testBit 0
def legSealed (l : Leg) : Bool := l.flags.testBit 1
def legVariants (l : Leg) : Nat := l.flags / 256 % 16

/-- Does the leg apply to the variant (R402, R412)? -/
def legApplies (v : Variant) (l : Leg) : Bool := legVariants l == 0 || (legVariants l).testBit v.code

/-- Header of a leg (R401). -/
def legHead (l : Leg) : List Byte := leBytes 2 l.ty ++ leBytes 2 l.flags ++ leBytes 4 l.body.length

/-- The parts of a TABLES body: descriptors and chunks (R414). -/
def chunksOf : Nat → List Byte → Option (List (Nat × List Byte) × List Byte)
  | 0, b => some ([], b)
  | n + 1, b =>
    let l := leAt b 4 4
    let w := 8 + (l + 7) / 8 * 8
    if b.length < w ∨ b.length < 8 then none else (chunksOf n (b.drop w)).map (fun x => ((leAt b 0 4, slice b 8 l) :: x.1, x.2))

def tablesOf (b : List Byte) : Option (List (List Byte) × List (Nat × List Byte)) :=
  if b.length < 8 then none
  else match takeEntries 32 (leAt b 0 2) (b.drop 8) with
    | none => none
    | some (ds, r) => match chunksOf (leAt b 2 2) r with
      | some (cs, []) => some (ds, cs)
      | _ => none

/-- Pitches a TOPO body loads: bank, first index, count. -/
def topoOf (b : List Byte) : Option (Nat × Nat × Nat) :=
  let bank := leAt b 0 1
  let first := leAt b 4 4
  let n := leAt b 8 4
  if b.length = 16 + 32 * n ∧ bank < 2 ∧ first + n ≤ 32768 then some (bank, first, n) else none

/-- The conditions of "Leg bodies" on one body in plaintext (R410, R411, R413, R414). -/
def legBodyOk (ty : Nat) (b : List Byte) : Bool :=
  if ty = 0xFF then decide (b.length = 96)
  else if ty = 0x30 then (topoOf b).isSome
  else if ty = 0x31 then
    match tablesOf b with
    | none => false
    | some (ds, cs) => ds.all (fun d => decide (16 ≤ leAt d 0 1 ∧ leAt d 0 1 < 64) && decide (leAt d 1 1 < 2)
        && decide (0x400000 ≤ leAt d 16 4)) && cs.all (fun c => decide (0x400000 ≤ c.1 ∧ c.1 + c.2.length ≤ 0x1800000))
  else if ty = 0xD0 then decide (16 ≤ b.length ∧ b.length ≤ 16 + 262144) && decide (leAt b 8 4 + (b.length - 16) ≤ 0x100000)
  else if !legTypes.contains ty then true
  else match bodyOf ty b with
    | none => false
    | some x => x.recs.all (recordOk ty)
      && (if ty = 0x40 ∨ ty = 0x50 then x.entries.all (fun e => leAt e 1 1 == 4 || leAt e 1 1 == 6)
          else if ty = 0xA0 then
            x.entries.all (fun e => decide (leAt e 0 1 < 8)) && decide ((x.entries.map (fun e => leAt e 0 1)).eraseDups.length = x.entries.length)
          else if ty = 0x80 then decide (x.entries.length ≤ 256)
          else true)

/-- Channels that the maps of R413 name: pulse inputs, composites, ALIGN, twin. -/
def mapChannels (ls : List Leg) : List Nat × List Nat :=
  let f := fun (ty : Nat) => ((ls.find? (fun l => l.ty = ty)).map (·.body)).getD []
  let r := (f 0x60).take 16
  let on := fun (b : List Byte) => (b.map (·.toNat)).filter (fun c => c ≠ 0xFF)
  (on (r.take 8) ++ on ((f 0x70).take 8) ++ on (slice (f 0xB0) 32 1), on (slice r 8 2))

/-- No channel is named twice; a composite may share its channel with a pulse input (R413). -/
def mapsOk (ls : List Leg) : Bool :=
  let m := mapChannels ls
  let pulses := ((((ls.find? (fun l => l.ty = 0x60)).map (·.body)).getD []).take 8).map (·.toNat)
  decide (m.1.eraseDups.length = m.1.length) && decide (m.2.eraseDups.length = m.2.length)
    && m.2.all (fun c => pulses.contains c || !m.1.contains c)

/-- Types of which one leg may apply (R411). -/
def oneOnly (ty : Nat) : Bool := !([0x30, 0x31, 0xD0, 0xE0].contains ty)

/-- Two legs of a type "One" with overlapping VARIANTS: the second of them. -/
def doubled : List Leg → Option Leg
  | [] => none
  | l :: ls =>
    match ls.find? (fun m => m.ty = l.ty ∧ oneOnly l.ty ∧ l.ty ≠ 0xFF ∧ legTypes.contains l.ty
        ∧ (legVariants l = 0 ∨ legVariants m = 0 ∨ legVariants l &&& legVariants m ≠ 0)) with
    | some m => some m
    | none => doubled ls

/-- TOPO legs of one bank that overlap, or that load nothing into bank 0 (R414). -/
def toposOk (ls : List Leg) : Bool :=
  let ts := (ls.filter (fun l => l.ty = 0x30)).filterMap (fun l => topoOf l.body)
  (ts.isEmpty || ts.any (fun t => t.1 = 0 && t.2.2 ≠ 0))
    && (List.range ts.length).all (fun i => (List.range i).all (fun j =>
      match ts[i]?, ts[j]? with
      | some a, some b => a.1 != b.1 || decide (a.2.1 + a.2.2 ≤ b.2.1) || decide (b.2.1 + b.2.2 ≤ a.2.1)
      | _, _ => true))

/-- What in a leg aims at an absent unit (R6, R412): the whole leg. -/
def legAbsent (v : Variant) (l : Leg) : Bool :=
  ((l.ty = 0x41 || l.ty = 0x42) && !unitBit v 36) || (l.ty = 0x80 && !unitBit v 35)

/-- Does a channel map byte name an absent channel? -/
def chanAbsent (v : Variant) (c : Nat) : Bool := c ≠ 0xFF && !(decide (c < 8) && unitBit v (24 + c))

/-- Does some record, address entry or map byte of a leg aim at an absent unit (R412)? -/
def partAbsent (v : Variant) (l : Leg) : Bool :=
  match bodyOf l.ty l.body with
  | none => false
  | some x => x.recs.any (fun r => absentAddr v r.addr)
    || ((l.ty = 0x40 || l.ty = 0x50) && x.entries.any (fun e => (List.range 8).any (fun p => (leAt e 0 1).testBit p && !unitBit v p)))
    || (l.ty = 0x60 && (x.fixed.take 10).any (fun c => chanAbsent v c.toNat))
    || (l.ty = 0x70 && x.fixed.any (fun c => chanAbsent v c.toNat))
    || (l.ty = 0xB0 && chanAbsent v (leAt x.fixed 32 1))

-- Verification ---------------------------------------------------------------------------------------------------

/-- A failure of R404: step, leg offset, leg type. -/
structure BookFail where
  step : Nat
  off : Nat
  ty : Nat
  deriving DecidableEq, Repr

/-- Step 1: the header. -/
def headerOk (s : State) (h : List Byte) : Bool :=
  decide (h.take 4 = [0x47, 0x4C, 0x52, 0x42]) && decide (leAt h 4 2 = 1) && decide (leAt h 6 2 = 64)
    && decide (leAt h 60 4 = bookCrc (h.take 60)) && decide (leAt h 8 4 % 8 = 0) && decide (64 ≤ leAt h 8 4 ∧ leAt h 8 4 ≤ copyRoom)
    && (leAt h 12 1).testBit s.variant.code && decide (leAt h 14 2 ≤ Config.romVersion)

/-- Step 2: the legs from an offset on. -/
def legsFrom (img : List Byte) : Nat → Nat → Sum BookFail (List Leg)
  | 0, off => .inl ⟨2, off, 0⟩
  | n + 1, off =>
    let ty := leAt img off 2
    let fl := leAt img (off + 2) 2
    let len := leAt img (off + 4) 4
    let pad := (len + 7) / 8 * 8
    let l : Leg := ⟨off, ty, fl, slice img (off + 8) len⟩
    if img.length < off + 16 + pad ∨ leAt img (off + 8 + pad) 4 ≠ bookCrc (slice img off (8 + pad)) ∨ fl / 4 % 64 ≠ 0 ∨ 4096 ≤ fl
        ∨ (!legTypes.contains ty ∧ fl.testBit 0) then .inl ⟨2, off, ty⟩
    else if ty = 0xFF then (if off + 16 + pad = img.length then .inr [l] else .inl ⟨2, off, ty⟩)
    else match legsFrom img n (off + 16 + pad) with
      | .inl e => .inl e
      | .inr ls => .inr (l :: ls)

/-- Step 3: the END leg's key and signature (R403, R408). -/
def endOk (s : State) (img : List Byte) (l : Leg) : Bool :=
  let pub := l.body.take 32
  decide (l.body.length = 96) && (s.otp.ownerHash.isEmpty || decide (sha512 pub = s.otp.ownerHash))
    && edVerify pub (slice l.body 32 64) (sha512 (img.take (l.off + 8)))

/-- Open a SEALED body under the OWK (R407). -/
def unsealLeg (s : State) (l : Leg) : Option Leg :=
  if !legSealed l then some l
  else if s.otp.owk.isEmpty ∨ l.body.length < 28 then none
  else (gcmOpen s.otp.owk (l.body.take 12) (legHead l) (l.body.drop 12)).map (fun b => { l with body := b })

/-- The four secret legs (R406). -/
def secretLeg (ty : Nat) : Bool := [0x41, 0x42, 0xA0, 0xB0].contains ty

/-- Steps 4 to 6 over the legs, in image order; the legs that apply, in plaintext. -/
def legsVerify (s : State) (ls : List Leg) : Sum BookFail (List Leg) :=
  let mine := ls.filter (legApplies s.variant)
  let owned := !s.otp.ownerHash.isEmpty
  let bad4 := mine.find? (fun l => (owned && secretLeg l.ty && !legSealed l) || (!legSealed l && !legBodyOk l.ty l.body))
  match doubled ls, bad4 with
  | some l, _ => .inl ⟨4, l.off, l.ty⟩
  | none, some l => .inl ⟨4, l.off, l.ty⟩
  | none, none =>
    if !mine.any (fun l => l.ty = 1) then .inl ⟨4, 0, 1⟩
    else match mine.find? (fun l => (unsealLeg s l).isNone) with
      | some l => .inl ⟨5, l.off, l.ty⟩
      | none =>
        let open_ := mine.filterMap (unsealLeg s)
        match open_.find? (fun l => !legBodyOk l.ty l.body) with
        | some l => .inl ⟨4, l.off, l.ty⟩
        | none =>
          if !toposOk open_ then .inl ⟨4, ((open_.find? (fun l => l.ty = 0x30)).map (·.off)).getD 0, 0x30⟩
          else if !mapsOk open_ then .inl ⟨4, ((open_.find? (fun l => l.ty = 0x60)).map (·.off)).getD 0, 0x60⟩
          else match open_.find? (fun l => legRequired l && (legAbsent s.variant l || partAbsent s.variant l)) with
            | some l => .inl ⟨6, l.off, l.ty⟩
            | none => .inr open_

/-- A copy with its signature checked (steps 1 to 3). -/
def copyOpen (s : State) (c : Nat) : Sum BookFail (List Leg) :=
  let h := flashRead s (copyBase c) 64
  if !headerOk s h then .inl ⟨1, 0, 0⟩
  else
    let img := flashRead s (copyBase c) (leAt h 8 4)
    match legsFrom img (img.length / 16) 64 with
    | .inl e => .inl e
    | .inr ls => match ls.getLast? with
      | none => .inl ⟨2, 64, 0⟩
      | some l => if endOk s img l then .inr ls else .inl ⟨3, l.off, l.ty⟩

/-- Verification of a copy (R404): its legs that apply in plaintext, without END. -/
def copyVerify (s : State) (c : Nat) : Sum BookFail (List Leg) :=
  match copyOpen s c with
  | .inl e => .inl e
  | .inr ls => match legsVerify s ls with
    | .inl e => .inl e
    | .inr xs => .inr (xs.filter (fun l => l.ty ≠ 0xFF))

/-- Address entry as a service address (R176, R413). -/
def addrOf (ptp : Bool) (e : List Byte) : SvcAddr :=
  let v6 := leAt e 1 1 = 6
  { ptp := ptp, v6 := v6, addr := if v6 then beAt e 8 16 else beAt e 8 4, ports := leAt e 0 1,
    word := if ptp then 0 else leAt e 2 1 % 8 + (leAt e 3 1 &&& 0x2D) * 256 + leAt e 4 2 * 2 ^ 32 }

/-- A service address as an entry again. -/
def addrBytes (a : SvcAddr) : List Byte :=
  leBytes 1 a.ports ++ [if a.v6 then 6 else 4] ++ leBytes 1 (a.word % 8) ++ leBytes 1 (a.word / 256 % 256) ++ leBytes 2 (a.word / 2 ^ 32)
    ++ zeros 2 ++ (if a.v6 then beBytes 16 a.addr else beBytes 4 a.addr ++ zeros 12)

end Sys2Proof.Machine
end

