-- ==== Sys2Proof/Machine/Access.lean ====
section
/-!
DEFINITION. Machine/Access.lean: the plain part of a register write (R13, R527), and the Harness service commands whose
effect a pair mirrors (R391, R450): service addresses, NTP profiles, NTS-KE identities.
-/
namespace Sys2Proof.Machine
open Sys2Proof

/-- Is every writable field's value inside its stated range or list (R527)? -/
def rangesOk (a : Nat) (v : Word) : Bool :=
  match regRow a with
  | none => true
  | some r => r.fields.all (fun x => x.acc = .ro || x.acc = .rc || Rng_ok x.rng x.f.width (getF x.f v))

/-- A write under the access types alone (R13): RW and RWL fields take the value, ones clear RW1C bits. -/
def storePlain (a : Nat) (v : Word) (s : State) : State :=
  match regRow a with
  | none => s
  | some r =>
    wr a (r.fields.foldl (fun w x =>
      match x.acc with
      | .rw | .rwl => setF x.f (getF x.f v) w
      | .rw1c => w &&& ~~~ (v &&& maskF x.f)
      | _ => w) (rd s a)) s

/-- What a command comes to (R442): done with a response body; refused with status, state code and DETAIL; stopped part way with
status and DETAIL (R451); or accepted, and answered later (R447). -/
inductive CRes where
  | ok (body : List Byte) (s : State)
  | no (status state detail : Nat)
  | cut (status detail : Nat) (s : State)
  | wait (s : State)
  deriving DecidableEq, Repr

/-- No record, address or entry to name. -/
def noDetail : Nat := 0xFFFFFFFF

/-- Reserved bytes of a body are zero. -/
def allZero (b : List Byte) : Bool := b.all (fun x => x = 0)

/-- Is a change of journalled state refused here, on a Second (R391)? -/
def onSecond (s : State) : Bool := pairRole s == 2

/-- Journal a Harness change (R385): the command code and its body. -/
def journalCmd (cmd : Nat) (body : List Byte) (s : State) : State := journal 0x14 (leBytes 2 cmd ++ body) s

/-- SVC_ADDR on its own (R175, R450). -/
def svcAddrDo (b : List Byte) (s : State) : CRes :=
  let op := leAt b 0 1
  let n := leAt b 4 4
  let es := (List.range n).map (fun i => slice b (8 + 24 * i) 24)
  let bad := fun (f : List Byte → Bool) => es.findIdx? f
  if b.length < 8 ∨ !allZero (slice b 1 3) then .no 1 0 noDetail
  else if b.length ≠ 8 + 24 * n then .no 2 0 noDetail
  else match bad (fun e => (List.range 8).any (fun p => (leAt e 0 1).testBit p && !unitBit s.variant p)) with
  | some i => .no 8 0 i
  | none =>
    if op ≠ 1 ∧ op ≠ 2 then .no 9 0 noDetail
    else match bad (fun e => (leAt e 1 1 != 4 && leAt e 1 1 != 6) || decide (7 < leAt e 2 1)
        || s.svc.addrs.any (fun a => a.ptp && a.v6 == (addrOf false e).v6 && a.addr == (addrOf false e).addr)) with
    | some i => .no 9 0 i
    | none =>
      let as := es.map (addrOf false)
      match (if op = 2 then as.findIdx? (fun x => !s.svc.addrs.any (fun a => !a.ptp && a.v6 == x.v6 && a.addr == x.addr)) else none) with
      | some i => .no 10 0 i
      | none =>
        if flipBusy s then .no 11 0 noDetail
        else
          let want := if op = 1 then as.foldl (fun l x => svcAdd x l) s.svc.addrs
            else as.foldl (fun l x => svcDel x l) s.svc.addrs
          match svcSetAddrs want s with
          | none => .no 9 0 noDetail
          | some s1 => .ok [] s1

/-- NTP_PROF on its own (R450). -/
def ntpProfDo (b : List Byte) (s : State) : CRes :=
  let a := SVC_NTP_PROF (leAt b 0 1)
  let v := BitVec.ofNat 64 (leAt b 8 8)
  if b.length ≠ 16 ∨ !allZero (slice b 1 7) then .no 1 0 noDetail
  else if 7 < leAt b 0 1 ∨ !rangesOk a v then .no 9 0 noDetail
  else .ok [] (svcSync (storePlain a v s))

/-- The keys of the identities in the key store (R215, R263): that of identity `k` in entry `k` (DESIGN CHOICE, log entry 156). -/
def identKeys (s : State) : State :=
  let ks := (List.range 4).foldl (fun m k =>
    mapSet (fun _ => none) k (s.ke.idents[k]?.bind (fun i => if i.valid then identKey i else none)) m) s.bnu.keys
  forEach (List.range 4) (fun k a => keyPut (64 + k) a) { s with bnu := { s.bnu with keys := ks } }

/-- New identities in force (R215, R217); each that is not valid makes a Cairn entry with its number and its cause. -/
def identsSet (server : List Byte) (ids : List KeIdent) (s : State) : State :=
  let s1 := identsShow (identKeys { s with ke := { s.ke with idents := ids.take 4, server := server, warned := [] } })
  forEach (List.range (ids.take 4).length) (fun k a =>
    match ids[k]? with
    | some i => if i.valid then a else cairnFault 0x40 sevWarning 0x51 (leBytes 4 k ++ leBytes 4 i.why) a
    | none => a) s1

/-- The identities of an NTSKE body in plaintext. -/
def identsOf (s : State) (x : LegBody) : List KeIdent := x.entries.map (identOf s)

/-- Server name of an NTSKE body. -/
def serverOf (x : LegBody) : List Byte := slice x.fixed 1 (leAt x.fixed 0 1)

/-- KE_IDENT on its own (R217, R450): a sealed NTSKE leg. -/
def keIdentDo (b : List Byte) (s : State) : CRes :=
  let l : Leg := ⟨0, leAt b 0 2, leAt b 2 2, b.drop 8⟩
  if b.length < 8 ∨ l.ty ≠ 0x42 ∨ !legSealed l then .no 1 0 noDetail
  else if leAt b 4 4 ≠ l.body.length then .no 2 0 noDetail
  else if !ntsFitted s then .no 8 0 noDetail
  else match (unsealLeg s l).bind (fun m => bodyOf 0x42 m.body) with
  | none => .no 9 0 noDetail
  | some x =>
    let ids := identsOf s x
    if !(ids.take 4).any (·.valid) then .no 9 0 noDetail
    else
      let s1 := identsSet (serverOf x) ids s
      .ok (leBytes 1 (fget s1 SVC_KE_STATUS SVC_KE_STATUS_IDENT_VALID) ++ zeros 7) s1

/-- A mirrored command on this device (R391): not on a Second; the Leader journals it. -/
def mirrored (cmd : Nat) (f : List Byte → State → CRes) (b : List Byte) (s : State) : CRes :=
  match f b s with
  | .ok r s1 => if onSecond s then .no 7 0xA noDetail else .ok r (journalCmd cmd b s1)
  | x => x

/-- A CONFIG record on the Second: the same command (R391). -/
def configApply (b : List Byte) (s : State) : State :=
  let r := match leAt b 0 2 with
    | 0x0501 => svcAddrDo (b.drop 2) s
    | 0x0502 => ntpProfDo (b.drop 2) s
    | 0x0504 => keIdentDo (b.drop 2) s
    | _ => .wait s
  match r with
  | .ok _ s1 => s1
  | _ => s

end Sys2Proof.Machine
end

