-- ==== Sys2Proof/Machine/Pair.lean ====
section
/-!
DEFINITION. Machine/Pair.lean: the twin pair and the Belay link (R375 to R397): roles, custody, the session, heartbeats,
time transfer, the journal and the pair commands.
-/
namespace Sys2Proof.Machine
open Sys2Proof

def pairUnit : Nat := 0x60

/-- Is the device paired (R375)? -/
def paired (s : State) : Bool := fbit s PAIR_CFG PAIR_CFG_ENABLE

def pairIndex (s : State) : Nat := fget s PAIR_CFG PAIR_CFG_INDEX

/-- A paired device in service, whose link may work: not before S9 OPEN, not in Rest or Bivouac (R376, R382). -/
def pairOn (s : State) : Bool := paired s && decide (phase s = 3) && !resting s

def pst (s : State) (f : Fld) : Bool := fbit s PAIR_STATUS f
def pstSet (f : Fld) (b : Bool) (s : State) : State := fsetB PAIR_STATUS f b s
def pairSet (f : PairState → PairState) (s : State) : State := { s with pair := f s.pair }

def lane0 (s : State) : Bool := pst s PAIR_STATUS_LANE0_UP
def lane1 (s : State) : Bool := pst s PAIR_STATUS_LANE1_UP
def custIn (s : State) : Bool := pst s PAIR_STATUS_CUST_IN

/-- Does the device hold custody (R376)? -/
def custody (s : State) : Bool := pairRole s == 1 || pairRole s == 4

-- Time transfer lane ---------------------------------------------------------------------------------------------

/-- The transfer lane (R387). -/
def ttLane (s : State) : Nat :=
  match fget s PAIR_CFG PAIR_CFG_TT_LANE with
  | 1 => 0
  | 2 => 1
  | _ => if lane0 s then 0 else 1

/-- Time transfer begins anew, and REF17 loses activity (R388). -/
def ttRestart (s : State) : State :=
  let s1 := pairSet (fun p => { p with lastTx := 0, prevTx := 0, lastRx := 0, rtts := [], thetas := [] }) s
  if (refSl s1 17).act then refActLoss 17 s1 else s1

/-- The transfer lane after a change of the lanes or of TT_LANE (R387, R388). -/
def ttShow (s : State) : State :=
  if fget s PAIR_STATUS PAIR_STATUS_TT_LANE_USED = ttLane s then s
  else ttRestart (fset PAIR_STATUS PAIR_STATUS_TT_LANE_USED (ttLane s) s)

-- Roles ----------------------------------------------------------------------------------------------------------

/-- A new LEADER announces every PTP service address on each port in service (R255). -/
def announceAddrs (s : State) : State :=
  (s.svc.addrs.filter (·.ptp)).foldl (fun a x =>
    forEach ((maskPorts a x.ports).filter (fun p => fbit a (PORT_STATUS p) PORT_STATUS_IN_SERVICE)) (fun p b => announceAddr p b x) a) s

/-- A change of role (R376, R389): REF17 is deselected at once by a device that leaves SECOND. -/
def roleGo (r : Nat) (s : State) : State :=
  let old := pairRole s
  if old = r then s
  else
    let s1 := cairnState pairUnit sevNotice 0 old r 0 0 (occur EV_PAIR_ROLE (fset PAIR_STATUS PAIR_STATUS_ROLE r s))
    let s2 := if old = 2 ∧ slotSt s1 17 = 4 then slotGo 17 3 1 s1 else s1
    ptpRefresh (select s2)

/-- Is the device to try for custody (R378, R379)? -/
def custodyWanted (s : State) : Bool :=
  pairOn s && (pairRole s == 2 || pairRole s == 3) && !custIn s && !s.pair.retryWait && !pst s PAIR_STATUS_ELECT
    && (decide (5 ≤ s.pair.misses) || (s.pair.twinHeard && !s.pair.twinCustody) || s.pair.yieldSeen)

/-- A filtered change of CUST_IN (R378): in the watch a rise reveals a clash. A SOLO device ignores it (R375). -/
def custEdge (high : Bool) (s : State) : State :=
  let s1 := pstSet PAIR_STATUS_CUST_IN high s
  if high ∧ pst s PAIR_STATUS_ELECT then
    let d := draw 64 s1
    let ns := if pairIndex s = 0 then 20000 + d.1 % 80001 else 120000 + d.1 % 80001
    let s2 := pairSet (fun p => { p with retryWait := true, retryNs := ns }) d.2
    ptpRefresh (occur EV_PAIR_CLASH (bump (UC_PAIR 8) 1 (pstSet PAIR_STATUS_ELECT false (pstSet PAIR_STATUS_CUST_OUT false s2))))
  else s1

/-- CUST_IN has been low for the custody guard (R378). -/
def custodyGuard (s : State) : State :=
  if custodyWanted s then ptpRefresh (pstSet PAIR_STATUS_ELECT true (pstSet PAIR_STATUS_CUST_OUT true s)) else s

/-- The watch ends (R378, R379, R255). -/
def custodyTaken (s : State) : State :=
  if !pst s PAIR_STATUS_ELECT ∨ custIn s then s
  else
    let s1 := pstSet PAIR_STATUS_ELECT false s
    let s2 := if pairRole s = 3 then pstSet PAIR_STATUS_TWIN_UP false s1 else s1
    let s3 := roleGo 1 (ptpTakeover (pairSet (fun p => { p with jTx := max p.jTx p.jRx }) (occur EV_PAIR_TAKEOVER (bump (UC_PAIR 7) 1 s2))))
    announceAddrs (pstSet PAIR_STATUS_SYNCING false (pairSet (fun p => { p with yieldSeen := false, resync := false, held := [] }) s3))

/-- The clash delay ends (R378). -/
def custodyRetry (s : State) : State := pairSet (fun p => { p with retryWait := false }) s

/-- 1 ms of disagreement or of agreement (R381). -/
def custFault (s : State) : State :=
  if !s.pair.sessionOpen ∨ !s.pair.twinHeard then s
  else
    let bad := custIn s != s.pair.twinCustody
    if pst s PAIR_STATUS_CUST_FAULT == bad then s
    else
      let s1 := setLevel EV_PAIR_CUST_FAULT bad (pstSet PAIR_STATUS_CUST_FAULT bad s)
      if bad then cairnFault pairUnit sevError 1 [] s1 else s1

-- Session --------------------------------------------------------------------------------------------------------

/-- What opens a session carries of this device (R383); PTP_CLOCK_ID and PAIR_INDEX serve R256. -/
def helloBody (s : State) (nonce : List Byte) : List Byte :=
  [1] ++ leBytes 1 (pairIndex s) ++ leBytes 1 s.variant.code ++ leBytes 2 Config.fwMajor ++ leBytes 8 (rd s SYS_BOOK_ID).toNat
    ++ leBytes 1 (fget s PTP_CTL PTP_CTL_PAIR_INDEX) ++ leBytes 8 (rd s PTP_CLOCK_ID).toNat ++ nonce

/-- Send HELLO with the nonce of the attempt, drawn at its start (R383). -/
def helloSend (s : State) : State :=
  if !pairOn s ∨ !(lane0 s || lane1 s) ∨ s.pair.sessionOpen ∨ s.pair.refused then s
  else if s.pair.ownNonce.isEmpty then
    let d := drawBytes 32 s
    emitOut (.belay 3 0 (helloBody s d.1)) (pairSet (fun p => { p with ownNonce := d.1 }) d.2)
  else emitOut (.belay 3 0 (helloBody s s.pair.ownNonce)) s

/-- The session closes (R384, R388, R392): a snapshot under way is abandoned. -/
def belayClose (s : State) : State :=
  let again := s.pair.resync || pst s PAIR_STATUS_SYNCING
  let s1 := pairSet (fun p => { p with sessionOpen := false, ownNonce := [], twinNonce := [], keyTx := [], keyRx := [], ctrTx := 0,
                                       ctrRx := 0, authRun := 0, yieldSeen := false, held := [], jAny := true,
                                       resync := again && decide (pairRole s = 2) }) s
  ttRestart (pstSet PAIR_STATUS_SYNCING false (pstSet PAIR_STATUS_TWIN_UP false s1))

/-- The session refuses the pair (R383). -/
def pairRefuse (cause : Nat) (s : State) : State :=
  let s1 := pairSet (fun p => { p with refused := true, ownNonce := [], twinNonce := [] }) s
  cairnState pairUnit sevWarning 1 0 0 cause 0 (occur EV_PAIR_REFUSED (fset PAIR_STATUS PAIR_STATUS_CAUSE cause s1))

/-- The proof of a device with INDEX `ix` (R383). -/
def pairProof (key n0 n1 : List Byte) (ix : Nat) : List Byte :=
  hmac256 key (ascii "GT98 BELAY PROOF" ++ n0 ++ n1 ++ [BitVec.ofNat 8 ix])

/-- The INDEX 0 nonce, then the INDEX 1 nonce. -/
def nonces (s : State) : List Byte × List Byte :=
  if pairIndex s = 0 then (s.pair.ownNonce, s.pair.twinNonce) else (s.pair.twinNonce, s.pair.ownNonce)

/-- A HELLO arrives (R383). The same one again is a second copy. -/
def helloRx (b : List Byte) (s0 : State) : State :=
  let nonce := slice b 22 32
  if !pairOn s0 ∨ s0.pair.refused ∨ b.length ≠ 54 ∨ leAt b 0 1 ≠ 1 ∨ nonce = s0.pair.twinNonce then s0
  else
    let s := if s0.pair.sessionOpen then belayClose s0 else s0
    if leAt b 2 1 ≠ s.variant.code then pairRefuse 1 s
    else if leAt b 3 2 ≠ Config.fwMajor % 65536 then pairRefuse 2 s
    else if leAt b 1 1 = pairIndex s then pairRefuse 3 s
    else
      let s1 := helloSend s
      let s2 := pairSet (fun p => { p with twinNonce := nonce }) s1
      let s3 := fset PAIR_TWIN PAIR_TWIN_INDEX (leAt b 1 1) (fset PAIR_TWIN PAIR_TWIN_VARIANT (leAt b 2 1)
        (fset PAIR_TWIN PAIR_TWIN_FW_MAJOR (leAt b 3 2) s2))
      let s4 := if leAt b 5 8 = (rd s SYS_BOOK_ID).toNat then s3 else cairnState pairUnit sevNotice 2 0 0 0 (leAt b 5 8) s3
      let s5 := pairSet (fun p => { p with twinPtp := leAt b 13 1, twinClock := leAt b 14 8 }) s4
      let ns := nonces s5
      emitOut (.belay 3 0 ([2] ++ pairProof s5.pair.key ns.1 ns.2 (pairIndex s5))) s5

/-- Ask to join, or for resynchronisation (R392, R394). -/
def joinSend (s : State) : State :=
  belaySend 5 [] (pairSet (fun p => { p with resync := true, held := [], jAny := true }) s)

/-- A PROOF arrives; the session opens or the pair is refused (R383, R392, R394). -/
def proofRx (b : List Byte) (s : State) : State :=
  if !pairOn s ∨ s.pair.sessionOpen ∨ s.pair.refused ∨ s.pair.ownNonce.isEmpty ∨ s.pair.twinNonce.isEmpty then s
  else
    let ns := nonces s
    let ix := pairIndex s
    if b.drop 1 ≠ pairProof s.pair.key ns.1 ns.2 (1 - ix) ∨ leAt b 0 1 ≠ 2 then pairRefuse 4 s
    else
      let k := fun (i : Nat) => hkdf (ns.1 ++ ns.2) s.pair.key (ascii "GT98 Belay" ++ [BitVec.ofNat 8 i]) 32
      let s1 := pairSet (fun p => { p with sessionOpen := true, keyTx := k ix, keyRx := k (1 - ix), ctrTx := 0, ctrRx := 0, authRun := 0,
                                           yieldSeen := false }) (fset PAIR_STATUS PAIR_STATUS_CAUSE 0 s)
      if pairRole s = 3 ∨ (pairRole s = 2 ∧ s.pair.resync) then joinSend s1 else s1

/-- The retry time of a refusal ends (R383). -/
def refusalRetry (s : State) : State := helloSend (pairSet (fun p => { p with refused := false }) s)

/-- PAIR_LANE_DOWN (R382, R396). -/
def laneLevel (s : State) : State := setLevel EV_PAIR_LANE_DOWN (pairOn s && !(lane0 s && lane1 s)) s

/-- A lane is up (R382, R383). -/
def laneUp (l : Nat) (s : State) : State :=
  if !pairOn s ∨ 1 < l then s
  else
    let first := !(lane0 s || lane1 s)
    let s1 := ttShow (laneLevel (pstSet (if l = 0 then PAIR_STATUS_LANE0_UP else PAIR_STATUS_LANE1_UP) true s))
    if first then helloSend s1 else s1

/-- A lane goes down; with both down the session closes (R382, R384). -/
def laneDown (l : Nat) (s : State) : State :=
  if 1 < l then s
  else
    let s1 := ttShow (laneLevel (pstSet (if l = 0 then PAIR_STATUS_LANE0_UP else PAIR_STATUS_LANE1_UP) false s))
    if !(lane0 s1 || lane1 s1) ∧ (s1.pair.sessionOpen ∨ !s1.pair.ownNonce.isEmpty) then belayClose s1 else s1

/-- A sealed record arrives: opened, discarded as a second copy, or counted as a failure (R382, R384). -/
def recordIn (ty ctr : Nat) (box : List Byte) (f : List Byte → State → State) (s : State) : State :=
  if !linkUp s ∨ ctr < s.pair.ctrRx then s
  else match gcmOpen s.pair.keyRx (belayNonce ctr) [BitVec.ofNat 8 ty] box with
  | some b => f b (pairSet (fun p => { p with ctrRx := ctr + 1, authRun := 0 }) s)
  | none =>
    let n := s.pair.authRun + 1
    let s1 := bump (UC_PAIR 5) 1 (pairSet (fun p => { p with authRun := n }) s)
    if 5 ≤ n then helloSend (belayClose s1) else s1

/-- A CLOSE record (R384). -/
def closeRx (_ : List Byte) (s : State) : State := helloSend (belayClose s)

-- Heartbeats -----------------------------------------------------------------------------------------------------

/-- The heartbeat of the device (R386). -/
def heartbeat (s : State) : List Byte :=
  leBytes 1 (pairRole s) ++ [if custody s then 1 else 0] ++ leBytes 1 (servoSt s) ++ leBytes 1 (ntpStratum s 0)
    ++ [if packetRef s then 1 else 0] ++ leBytes 1 (timeSource s) ++ zeros 2 ++ leBytes 4 (boundNs s)
    ++ leBytes 4 (min s.servo.rootDelay 0xFFFFFFFF) ++ leBytes 8 (if pairRole s = 1 then s.pair.jTx else s.pair.jRx)

/-- The twin is the Leader: its HELLO's PTP_CLOCK_ID must be the own one, and its PAIR_INDEX must not (R256). -/
def idCheck (s : State) : State :=
  if pairRole s ≠ 1 ∧ (s.pair.twinClock ≠ (rd s PTP_CLOCK_ID).toNat ∨ s.pair.twinPtp = fget s PTP_CTL PTP_CTL_PAIR_INDEX)
    ∧ !fbit s PTP_STATUS PTP_STATUS_ID_MISMATCH then ptpRefresh (fsetB PTP_STATUS PTP_STATUS_ID_MISMATCH true s) else s

/-- A valid heartbeat (R386, R394). -/
def heartbeatRx (b : List Byte) (s0 : State) : State :=
  let role := leAt b 0 1
  let s := if role = 1 then idCheck s0 else s0
  let bound := leAt b 8 4
  let s1 := pairSet (fun p => { p with misses := 0, twinHeard := true, twinCustody := decide (leAt b 1 1 = 1), twinStratum := leAt b 3 1,
                                       twinKind := leAt b 4 1, twinSource := leAt b 5 1, twinDelay := leAt b 12 4 }) s
  let s2 := fset PAIR_TWIN PAIR_TWIN_ROLE role (fset PAIR_TWIN PAIR_TWIN_SERVO (leAt b 2 1) (fset PAIR_TWIN PAIR_TWIN_BOUND bound s1))
  let s3 := refSlSet 17 { refSl s2 17 with q := bound, upDelay := leAt b 12 4 } s2
  let s4 := setLevel EV_PAIR_BELAY_DOWN false (pstSet PAIR_STATUS_BELAY_DOWN false s3)
  let s5 := if pairRole s4 ≠ 1 ∨ role = 2 then pstSet PAIR_STATUS_TWIN_UP true s4 else s4
  if role = 4 ∧ pairRole s5 = 3 ∧ s5.pair.resync ∧ fget s5 PAIR_STATUS PAIR_STATUS_CAUSE ≠ 5 then
    cairnState pairUnit sevWarning 1 0 0 5 0 (occur EV_PAIR_REFUSED (fset PAIR_STATUS PAIR_STATUS_CAUSE 5 s5))
  else s5

/-- No heartbeat within 20 µs after an expected instant (R386, R379, R380). -/
def heartbeatMiss (s : State) : State :=
  if !pairOn s then s
  else
    let n := s.pair.misses + 1
    let s1 := bump (UC_PAIR 0) 1 (pairSet (fun p => { p with misses := n }) s)
    if n < 5 then s1
    else setLevel EV_PAIR_BELAY_DOWN true (pstSet PAIR_STATUS_TWIN_UP false (pstSet PAIR_STATUS_BELAY_DOWN true s1))

-- Time transfer --------------------------------------------------------------------------------------------------

/-- Send a TIME record whose marker crosses the ball at `t` (2^-32 ns), with the own marker before it and the twin's last (R387). -/
def timeSend (t : Nat) (s : State) : State :=
  if !linkUp s ∨ pst s PAIR_STATUS_DIST_HOLD ∨ !(if ttLane s = 0 then lane0 s else lane1 s) then s
  else
    let s1 := belaySend 2 (leBytes 16 s.pair.lastTx ++ leBytes 16 s.pair.lastRx) s
    pairSet (fun p => { p with prevTx := p.lastTx, lastTx := t }) s1

/-- Insert into a rising list. -/
def insertNat (x : Nat) : List Nat → List Nat
  | [] => [x]
  | y :: ys => if x ≤ y then x :: y :: ys else y :: insertNat x ys

/-- Median of round trips; the mean of the middle two. -/
def medianOf (xs : List Nat) : Option Nat :=
  let ys := xs.foldr insertNat []
  let n := ys.length
  if n = 0 then none
  else if n % 2 = 1 then ys[n / 2]?
  else match ys[n / 2 - 1]?, ys[n / 2]? with
    | some a, some b => some ((a + b) / 2)
    | _, _ => none

/-- θ = ((t2 − t1) − (t4 − t3) − ASYM) / 2 in 2^-16 ns, from instants in 2^-32 ns and ASYM in ps (R387). -/
def theta (t1 t2 t3 t4 : Nat) (asym : Int) : Int :=
  divRound (1000 * (((t2 : Int) - t1) - ((t4 : Int) - t3)) - asym * 2 ^ 32) (2000 * 2 ^ 16)

/-- An accepted exchange (R388). -/
def exchangeAccept (rtt : Nat) (th : Int) (t : Nat) (s : State) : State :=
  let s1 := pairSet (fun p => { p with rtts := (rtt :: p.rtts).take 64, thetas := th :: p.thetas }) s
  let s2 := fset PAIR_TT_RTT PAIR_TT_RTT_RTT (satF PAIR_TT_RTT_RTT (rtt / 2 ^ 32)) (fsetI PAIR_TT PAIR_TT_THETA (satI 48 th) s1)
  let s3 := bump (UC_PAIR 1) 1 s2
  let s4 := if 2 ≤ slotSt s3 17 then refActive 17 s3 else s3
  if s4.pair.thetas.length < 10 then s4
  else
    let m := meanInt s4.pair.thetas
    refSample 17 t (xoAt s4 t) m (fget s4 PAIR_TWIN PAIR_TWIN_BOUND) 0 false (pairSet (fun p => { p with thetas := [] }) s4)

/-- A TIME record whose marker crossed the ball at `t4` (R387, R388): the exchange is that of the markers before it. The
own marker is the one of the last two that gives a round trip below half a millisecond. -/
def timeRx (t : Nat) (b : List Byte) (s : State) : State :=
  if pst s PAIR_STATUS_DIST_HOLD then s
  else
    let t3 := leAt b 0 16
    let t2 := leAt b 16 16
    let t4 := s.pair.lastRx
    let s1 := pairSet (fun p => { p with lastRx := t }) s
    let rtt := fun (t1 : Nat) => ((t4 : Int) - t1) - ((t3 : Int) - t2)
    match [s.pair.lastTx, s.pair.prevTx].find? (fun t1 => decide (t1 ≠ 0) && decide (0 ≤ rtt t1) && decide (rtt t1 < ((500000 * 2 ^ 32 : Nat) : Int))) with
    | none => s1
    | some t1 =>
      if t2 = 0 ∨ t3 = 0 ∨ t4 = 0 then s1
      else
        let r := (rtt t1).toNat
        let ok := match medianOf s.pair.rtts with
          | none => true
          | some m => decide (r ≤ m + ns32 2) && decide (m ≤ r + ns32 2)
        let asym := if ttLane s = 0 then fint s PAIR_BELAY_ASYM PAIR_BELAY_ASYM_ASYM0 else fint s PAIR_BELAY_ASYM PAIR_BELAY_ASYM_ASYM1
        if ok then exchangeAccept r (theta t1 t2 t3 t4 asym) t4 s1 else s1

-- Journal --------------------------------------------------------------------------------------------------------

/-- UTC offset and leap as the Leader's (R391). DESIGN CHOICE (log entry 140): each state record arms the leap anew at the present SEC. -/
def stateApply (b : List Byte) (s : State) : State :=
  let p := leAt b 2 1
  let s1 := fset TSU_UTC_OFFSET TSU_UTC_OFFSET_OFFSET (leAt b 0 2) (fset TSU_LEAP_PENDING TSU_LEAP_PENDING_PENDING p
    (wr TSU_LEAP_SEC (BitVec.ofNat 64 (leAt b 3 8)) s))
  smearRefresh { s1 with tsu := { s1.tsu with leapArm := if p = 0 then 0 else nowSec s } }

/-- Apply one journal record (R391). -/
def journalApply (ty : Nat) (b : List Byte) (s : State) : State :=
  match ty with
  | 0x10 => stateApply b s
  | 0x11 => keyApply b s
  | 0x12 => grantApply b s
  | 0x13 => seqApply b s
  | 0x14 => configApply b s
  | 0x30 => pairSet (fun p => { p with yieldSeen := true }) (seqApply b s)
  | _ => s

/-- The last record applied (PAIR_JSEQ). -/
def jShow (n : Nat) (s : State) : State :=
  fset PAIR_JSEQ PAIR_JSEQ_RX (n % 2 ^ 32) (pairSet (fun p => { p with jRx := n, jAny := false }) s)

/-- A journal gap (R392). -/
def journalGap (s : State) : State := joinSend (occur EV_PAIR_JOURNAL_GAP (bump (UC_PAIR 4) 1 s))

/-- A journal record of the Leader, in its sequence (R392): while a snapshot is awaited, records are held. -/
def journalRx (ty : Nat) (f : List Byte → State → State) (b : List Byte) (s : State) : State :=
  let n := leAt b 0 8
  if pairRole s ≠ 2 ∧ pairRole s ≠ 3 then s
  else if s.pair.resync then
    if !s.pair.jAny ∧ n ≠ s.pair.jRx + 1 then journalGap s
    else
      let s1 := pairSet (fun p => { p with jRx := n, jAny := false, held := p.held ++ [(n, ty, b.drop 8)] }) s
      if ty = 0x40 then pstSet PAIR_STATUS_SYNCING true s1 else s1
  else if pairRole s = 3 then s
  else if n ≠ s.pair.jRx + 1 then journalGap s
  else jShow n (f (b.drop 8) (bump (UC_PAIR 3) 1 s))

/-- One part of a snapshot (R392): the record types of R385; service addresses and identities as a whole. -/
def snapPart (b : List Byte) (s : State) : State :=
  let c := b.drop 2
  match leAt b 0 2 with
  | 0x14 =>
    if leAt c 0 2 = 0x0501 then
      let es := (List.range (leAt c 2 4)).map (fun i => addrOf false (slice c (6 + 24 * i) 24))
      (svcSetAddrs (s.svc.addrs.filter (·.ptp) ++ es) s).getD s
    else if leAt c 0 2 = 0x0504 then
      match countPart 0 (c.drop 258) with
      | some (es, _) => identsSet (slice c 3 (leAt c 2 1)) (es.map (identOf s)) s
      | none => s
    else configApply c s
  | ty => journalApply ty c s

/-- Keys and grants that a snapshot replaces. -/
def snapClear (s : State) : State :=
  let s1 := forEach (List.range 64) (fun n a => if (keyOfSlot a n).random then keySet n (keyReset n) a else a) s
  (grantList s1).foldl (fun a g => grantsShow (grantSet g.1 none (grantUntable g.2 a))) s1

/-- SNAP_END (R392, R394): the snapshot and the records after its point apply; a joiner becomes SECOND. -/
def snapEnd (b : List Byte) (s : State) : State :=
  let n := leAt b 0 8
  let p := leAt b 8 8
  if (pairRole s ≠ 2 ∧ pairRole s ≠ 3) ∨ !s.pair.resync then s
  else if !s.pair.jAny ∧ n ≠ s.pair.jRx + 1 then journalGap s
  else
    let held := s.pair.held
    let s1 := (held.filter (fun x => x.2.1 = 0x40)).foldl (fun a x => snapPart x.2.2 a) (snapClear s)
    let s2 := (held.filter (fun x => x.2.1 ≠ 0x40 ∧ p ≤ x.1)).foldl (fun a x => journalApply x.2.1 x.2.2 (bump (UC_PAIR 3) 1 a)) s1
    let s3 := jShow n (pairSet (fun q => { q with resync := false, held := [] }) s2)
    let s4 := occur EV_PAIR_SYNC (bump (UC_PAIR 6) 1 (pstSet PAIR_STATUS_SYNCING false s3))
    let s5 := svcSync (fset PAIR_STATUS PAIR_STATUS_CAUSE 0 s4)
    if pairRole s5 = 3 then roleGo 2 s5 else s5

/-- The parts of the Leader's mirrored state (R391, R392). -/
def snapParts (s : State) : List (List Byte) :=
  let keys := ((List.range 64).filter (fun n => (keyOfSlot s n).st ≠ 0 ∧ (keyOfSlot s n).random)).map (fun n =>
    let k := keyOfSlot s n
    leBytes 2 0x11 ++ [4] ++ leBytes 4 k.kid ++ leBytes 8 k.ends ++ k.key ++ leBytes 1 k.st)
  let addrs := s.svc.addrs.filter (fun a => !a.ptp)
  [leBytes 2 0x10 ++ leBytes 2 (rd s TSU_UTC_OFFSET).toNat ++ leBytes 1 (rd s TSU_LEAP_PENDING).toNat ++ leBytes 8 (rd s TSU_LEAP_SEC).toNat]
    ++ keys ++ (grantList s).map (fun g => leBytes 2 0x12 ++ grantBody g.1 (some g.2)) ++ [leBytes 2 0x13 ++ seqBody s]
    ++ (List.range 8).map (fun k => leBytes 2 0x14 ++ leBytes 2 0x0502 ++ leBytes 1 k ++ zeros 7 ++ leBytes 8 (rd s (SVC_NTP_PROF k)).toNat)
    ++ [leBytes 2 0x14 ++ leBytes 2 0x0501 ++ leBytes 4 addrs.length ++ addrs.flatMap addrBytes,
        leBytes 2 0x14 ++ leBytes 2 0x0504 ++ leBytes 1 s.ke.server.length ++ (s.ke.server ++ zeros 255).take 255
          ++ leBytes 4 s.ke.idents.length ++ zeros 4 ++ s.ke.idents.flatMap identBytes]

/-- The Leader answers JOIN with a snapshot; a PARTED twin refuses (R392, R394). -/
def joinRx (_ : List Byte) (s : State) : State :=
  if pairRole s = 4 then cairnState pairUnit sevWarning 1 0 0 5 0 (occur EV_PAIR_REFUSED s)
  else if pairRole s ≠ 1 then s
  else
    let point := s.pair.jTx + 1
    let s1 := (snapParts s).foldl (fun a b => journal 0x40 b a) s
    let s2 := journal 0x41 (leBytes 8 point) s1
    pstSet PAIR_STATUS_TWIN_UP true (occur EV_PAIR_SYNC (bump (UC_PAIR 6) 1 s2))

/-- A refused joiner asks again (R394). -/
def joinRetry (s : State) : State := if pairRole s = 3 ∧ linkUp s then joinSend s else s

/-- A Second that receives PART becomes JOINING (R395). -/
def partApply (_ : List Byte) (s : State) : State := if pairRole s = 2 then joinSend (roleGo 3 s) else s

/-- A FRAME record is dispatched at Trailhead 10 for the port it names (R385). -/
def belayFrameRx (b : List Byte) (s : State) : State := fwInject 10 (leAt b 0 1 % 8) 0x20 (b.drop 1) s

/-- An entry of the twin's log (R503). -/
def cairnRx (b : List Byte) (s : State) : State :=
  if b.length ≠ 32 ∨ !fabRuns s then s
  else cairnStore (leAt b 12 1) (b.take 10 ++ [0xFE, BitVec.ofNat 8 (leAt b 10 1)] ++ b.drop 12) s

-- Commands -------------------------------------------------------------------------------------------------------

/-- Is a pair command accepted now (R395)? -/
def pairAllowed (cmd : Nat) (s : State) : Bool :=
  match cmd with
  | 0 => pairRole s == 4 || pairRole s == 3
  | 1 => pairRole s == 1 && pst s PAIR_STATUS_TWIN_UP && !pst s PAIR_STATUS_SYNCING && fget s PAIR_TWIN PAIR_TWIN_SERVO == 2
  | _ => pairRole s == 1

/-- A pair command that is accepted (R395): 0 PAIR_JOIN, 1 PAIR_YIELD, 2 PAIR_PART. -/
def pairDo (cmd : Nat) (s : State) : State :=
  match cmd with
  | 0 => if pairRole s = 4 then announceAddrs (roleGo 1 (ptpTakeover s))
    else if linkUp s then joinSend (fset PAIR_STATUS PAIR_STATUS_CAUSE 0 s) else fset PAIR_STATUS PAIR_STATUS_CAUSE 0 s
  | 1 => roleGo 2 (pstSet PAIR_STATUS_CUST_OUT false (pairSet (fun p => { p with jRx := p.jTx }) (journal 0x30 (seqBody s) s)))
  | _ => roleGo 4 (journal 0x31 [] s)

/-- Bits of PAIR_CMD as commands. -/
def pairCmds (v : Word) : List Nat :=
  (if getF PAIR_CMD_JOIN v ≠ 0 then [0] else []) ++ (if getF PAIR_CMD_YIELD v ≠ 0 then [1] else [])
    ++ (if getF PAIR_CMD_PART v ≠ 0 then [2] else [])

/-- Checks of a write to a pair register (R395, PAIR_CFG). -/
def pairCheck (a : Nat) (v : Word) (s : State) : Verdict :=
  if a = PAIR_CMD then (if (pairCmds v).all (fun c => pairAllowed c s) then .ok else vState 9)
  else if a = PAIR_CFG ∧ getF PAIR_CFG_TT_LANE v = 3 then vRange
  else .ok

/-- The effect of an accepted write to a pair register; `stored` has the plain fields stored. -/
def pairApply (a : Nat) (v : Word) (stored : State) : Option State :=
  if a = PAIR_CMD then some ((pairCmds v).foldl (fun x c => if pairAllowed c x then pairDo c x else x) stored)
  else if a = PAIR_CFG then some (select (ttShow stored))
  else none

/-- The pair at S9 OPEN: a paired device is JOINING (R376). -/
def pairOpen (s : State) : State := if paired s then laneLevel (roleGo 3 s) else s

-- Meanings -------------------------------------------------------------------------------------------------------

/-- CUST_IN_EDGE (R378). -/
def execCustInEdge (high : Bool) (s : State) : Res := run (custEdge high) s

/-- CUSTODY_GUARD (R378). -/
def execCustodyGuard (s : State) : Res := run custodyGuard s

/-- CUSTODY_WATCH_END (R378). -/
def execCustodyWatchEnd (s : State) : Res := run custodyTaken s

/-- CUSTODY_RETRY (R378). -/
def execCustodyRetry (s : State) : Res := run custodyRetry s

/-- CUST_FAULT_TIMER (R381). -/
def execCustFaultTimer (s : State) : Res := run custFault s

/-- BELAY_LANE_UP (R382). -/
def execBelayLaneUp (lane : Nat) (s : State) : Res := run (laneUp lane) s

/-- BELAY_LANE_DOWN (R382). -/
def execBelayLaneDown (lane : Nat) (s : State) : Res := run (laneDown lane) s

/-- HELLO_RX (R383). -/
def execHelloRx (bytes : List Byte) (s : State) : Res := run (helloRx bytes) s

/-- PROOF_RX (R383). -/
def execProofRx (bytes : List Byte) (s : State) : Res := run (proofRx bytes) s

/-- SESSION_REFUSAL_RETRY (R383). -/
def execSessionRefusalRetry (s : State) : Res := run refusalRetry s

/-- CLOSE_RX (R384). -/
def execCloseRx (ctr : Nat) (box : List Byte) (s : State) : Res := run (recordIn 4 ctr box closeRx) s

/-- HEARTBEAT_SEND (R386). -/
def execHeartbeatSend (s : State) : Res := run (fun a => if pairOn a then belaySend 1 (heartbeat a) a else a) s

/-- HEARTBEAT_RX (R386). -/
def execHeartbeatRx (ctr : Nat) (box : List Byte) (s : State) : Res := run (recordIn 1 ctr box heartbeatRx) s

/-- HEARTBEAT_MISS (R386). -/
def execHeartbeatMiss (s : State) : Res := run heartbeatMiss s

/-- TIME_SEND (R387). -/
def execTimeSend (t : Nat) (s : State) : Res := run (timeSend t) s

/-- TIME_RX (R388). -/
def execTimeRx (ctr : Nat) (box : List Byte) (t : Nat) (s : State) : Res := run (recordIn 2 ctr box (timeRx t)) s

/-- JOURNAL_RX (R392). -/
def execJournalRx (ty ctr : Nat) (box : List Byte) (s : State) : Res :=
  run (recordIn ty ctr box (journalRx ty (journalApply ty))) s

/-- JOIN_RX (R394). -/
def execJoinRx (ctr : Nat) (box : List Byte) (s : State) : Res := run (recordIn 5 ctr box joinRx) s

/-- SNAP_END_RX (R394). -/
def execSnapEndRx (ctr : Nat) (box : List Byte) (s : State) : Res := run (recordIn 0x41 ctr box snapEnd) s

/-- JOIN_RETRY (R394). -/
def execJoinRetry (s : State) : Res := run joinRetry s

/-- YIELD_RX (R379). -/
def execYieldRx (ctr : Nat) (box : List Byte) (s : State) : Res :=
  run (recordIn 0x30 ctr box (journalRx 0x30 (journalApply 0x30))) s

/-- PART_RX (R395). -/
def execPartRx (ctr : Nat) (box : List Byte) (s : State) : Res := run (recordIn 0x31 ctr box (journalRx 0x31 partApply)) s

/-- BELAY_FRAME_RX (R385). -/
def execBelayFrameRx (ctr : Nat) (box : List Byte) (s : State) : Res := run (recordIn 0x20 ctr box belayFrameRx) s

/-- CAIRN_RX (R503). -/
def execCairnRx (ctr : Nat) (box : List Byte) (s : State) : Res := run (recordIn 0x15 ctr box cairnRx) s

end Sys2Proof.Machine
end

