-- ==== Sys2Proof/Machine/StartOps.lean ====
section
/-!
DEFINITION. Machine/StartOps.lean: resets, the origin of an attempt, the start journal, failure and retry, Bivouac mode and
its way out (R419, R422 to R439).
-/
namespace Sys2Proof.Machine
open Sys2Proof

def stage (s : State) : Nat := fget s SYS_START_STATUS SYS_START_STATUS_STAGE
def stSet (f : Fld) (v : Nat) (s : State) : State := fset SYS_START_STATUS f v s
def startSet (f : StartState → StartState) (s : State) : State := { s with start := f s.start }

/-- The copy in use (SYS_BOOK_STATUS.COPY). -/
def copyUsed (s : State) : Nat := fget s SYS_BOOK_STATUS SYS_BOOK_STATUS_COPY

/-- Milliseconds since the origin of the attempt. -/
def attemptMs (s : State) : Nat := s.start.msBase + (s.tsu.xo - s.start.xoBase) / (10 ^ 6 * 2 ^ 48)

-- Resets and the origin of an attempt ----------------------------------------------------------------------------

/-- What keeps its value through a reset of all logic: identity, the spare map, sensors and the pin CUST_IN (R422, R464, R515). -/
def keepRegs (s : State) : List (Nat × Word) :=
  let t := rd s SYS_TEMP
  [(SYS_SERIAL, rd s SYS_SERIAL), (SYS_OTP, rd s SYS_OTP),
   (SYS_TEMP, setF SYS_TEMP_MAX 0x8000 (setF SYS_TEMP_TEMP (getF SYS_TEMP_TEMP t) (setF SYS_TEMP_WARN (getF SYS_TEMP_WARN t)
      (setF SYS_TEMP_CRIT (getF SYS_TEMP_CRIT t) 0)))),
   (SYS_RAIL, setF SYS_RAIL_OUT (fget s SYS_RAIL SYS_RAIL_OUT) 0),
   (PAIR_STATUS, setF PAIR_STATUS_CUST_IN (fget s PAIR_STATUS PAIR_STATUS_CUST_IN) 0)]
    ++ (List.range 12).map (fun d => (ECC_ED_SPARE d, rd s (ECC_ED_SPARE d)))

/-- All logic is reset, but for the always-on domain, OTP, the flash and the pins (R422, R423). -/
def logicReset (s : State) : State :=
  let r := State.reset
  let t : State := { r with
    pending := s.pending, variant := s.variant, out := s.out, fresh := s.fresh, otp := s.otp, nvm := { s.nvm with op := none },
    evc := { r.evc with aon := s.evc.aon },
    start := { r.start with pwrGood := s.start.pwrGood, poresetLow := s.start.poresetLow, warmLow := s.start.warmLow,
                            bootSel := s.start.bootSel, latchCause := s.start.latchCause, latchRun := s.start.latchRun,
                            latchRec := s.start.latchRec, latchPower := s.start.latchPower, latchReset := s.start.latchReset,
                            firstCopy := s.start.firstCopy } }
  (keepRegs s).foldl (fun a x => wr x.1 x.2 a) t

/-- Causes that end an attempt with event SYS_RECOVERY (R424). -/
def recoveryCause (cause : Nat) : Bool := [0x0F, 0x10, 0x20].contains cause

/-- Is the condition of a level source of the always-on domain present (R508, R515)? -/
def aonLevel (s : State) (id : Nat) : Bool :=
  if id = 240 then fbit s SYS_TEMP SYS_TEMP_WARN
  else if id = 241 then fbit s SYS_TEMP SYS_TEMP_CRIT
  else fbit s SYS_RAIL SYS_RAIL_OUT

/-- Occurrences latched while the fabric did not run reach the event controller, and levels present assert (R485). -/
def aonDeliver (s : State) : State :=
  let m := s.evc.aon
  forEach [240, 241, 242, 243, 246] (fun i a =>
    if srcLevel i && aonLevel a i then setLevel i true (setBank EVC_SRC_LEVEL i false a) else if m.getLsbD i then occur i a else a)
    { s with evc := { s.evc with aon := 0 } }

/-- The origin of an attempt (R422, R424): nothing begins while the device holds itself in reset. -/
def beginAttempt (cause : Nat) (recovery : Bool) (s : State) : State :=
  let t := logicReset s
  if heldInReset t then t
  else
    let t1 := startSet (fun x => { x with latchCause := cause }) t
    let t2 := stSet SYS_START_STATUS_STAGE 1 (stSet SYS_START_STATUS_FAIL_RUN (min t.start.latchRun 3)
      (stSet SYS_START_STATUS_RESET_CAUSE cause (stSet SYS_START_STATUS_BOOT_SEL t.start.bootSel t1)))
    let t3 := fset SYS_PHASE SYS_PHASE_PHASE (if recovery then 2 else 0) (fsetB SYS_START_STATUS SYS_START_STATUS_RECOVERY recovery t2)
    -- no solution yet, and no slot selected (R319, R342)
    let t4 := setLevel EV_GNSS_NO_SOL (unitBit t.variant 35) (setLevel EV_REFS_NONE true t3)
    if recoveryCause cause then occur EV_SYS_RECOVERY t4 else t4

/-- Causes that mark an unexpected end of SERVICE (R424). -/
def unexpected (s : State) (cause : Nat) : Bool := recoveryCause cause && (phase s == 3 || phase s == 5)

-- The start journal ----------------------------------------------------------------------------------------------

def journalBase : Nat := 0x03F00000

/-- Record `i` of the 4,096 places of both regions (R432). -/
def jRec (s : State) (i : Nat) : List Byte := flashRead s (journalBase + 32 * i) 32

/-- A valid record (R432). -/
def jValid (b : List Byte) : Bool := decide (leAt b 28 4 = bookCrc (b.take 28))

/-- The valid records with their places. -/
def jAll (s : State) : List (Nat × List Byte) := ((List.range 4096).map (fun i => (i, jRec s i))).filter (fun x => jValid x.2)

def jSeqOf (b : List Byte) : Nat := leAt b 0 8

/-- The record with the highest SEQ. -/
def jNewest (xs : List (Nat × List Byte)) : Option (Nat × List Byte) :=
  xs.foldl (fun m x => match m with
    | none => some x
    | some y => if jSeqOf y.2 < jSeqOf x.2 then some x else m) none

/-- A record as bytes: type, stage, cause, flags, FAIL_RUN, BUILD_ID, ms (R432). -/
def jBytes (q : Nat) (r : List Nat) : List Byte :=
  let f := fun (i n : Nat) => leBytes n ((r.drop i).headD 0)
  let b := leBytes 8 q ++ f 0 1 ++ f 1 1 ++ f 2 1 ++ f 3 1 ++ f 4 1 ++ zeros 3 ++ f 5 8 ++ f 6 4
  b ++ leBytes 4 (bookCrc b)

/-- An ended attempt enters SYS_START_HISTk (its register table). -/
def histPush (q : Nat) (r : List Nat) (s : State) : State :=
  let g := fun (i : Nat) => (r.drop i).headD 0
  if !([3, 4, 5].contains (g 0)) then s
  else
    let s1 := forEach [7, 6, 5, 4, 3, 2, 1] (fun k a => wr (SYS_START_HIST k) (rd s (SYS_START_HIST (k - 1))) a) s
    wr (SYS_START_HIST 0) (setF SYS_START_HIST_SEQ q (setF SYS_START_HIST_TYPE (g 0) (setF SYS_START_HIST_STAGE (g 1 % 16)
      (setF SYS_START_HIST_CAUSE (g 2) (setF SYS_START_HIST_COPY (g 3 % 2) (setF SYS_START_HIST_FALLBACK (g 3 / 2 % 2) 0)))))) s1

/-- Append a record behind the newest one (R432). -/
def jAppend (r : List Nat) (s : State) : State :=
  let n := jNewest (jAll s)
  let at_ := match n with | none => 0 | some x => (x.1 + 1) % 4096
  let q := match n with | none => 1 | some x => jSeqOf x.2 + 1
  histPush q r (flashProgram (journalBase + 32 * at_) (jBytes q r) s)

/-- FLAGS of a record. -/
def jFlags (s : State) : Nat :=
  copyUsed s + 2 * fget s SYS_BOOK_STATUS SYS_BOOK_STATUS_FALLBACK + 4 * fget s SYS_START_STATUS SYS_START_STATUS_RECOVERY
    + (if phase s = 1 then 8 else 0)

/-- A record of the present attempt. -/
def jNow (ty cause : Nat) (s : State) : List Nat :=
  [ty, stage s, cause, jFlags s, min s.start.latchRun 255, (rd s SYS_BOOK_ID).toNat, attemptMs s]

/-- The preference record in force, with one that a SUMMARY repeats (R419, R433): the copy. -/
def jPref (xs : List (Nat × List Byte)) : Option Nat :=
  (jNewest (xs.filter (fun x => leAt x.2 8 1 = 6 ∨ (leAt x.2 8 1 = 9 ∧ leAt x.2 10 1 = 6)))).map (fun x => leAt x.2 11 1 % 2)

/-- PREF_VALID and PREF_COPY. -/
def prefShow (s : State) : State :=
  let p := jPref (jAll s)
  fsetB SYS_BOOK_STATUS SYS_BOOK_STATUS_PREF_VALID p.isSome (fset SYS_BOOK_STATUS SYS_BOOK_STATUS_PREF_COPY (p.getD 0) s)

/-- After success or in Bivouac mode a region with fewer than 64 free records is left (R434): the other one is erased and begins
with SUMMARY, which carries FAIL_RUN and, in CAUSE and FLAGS, the newest preference. -/
def jSwitch (s : State) : State :=
  let xs := jAll s
  match jNewest xs with
  | none => s
  | some x =>
    if x.1 % 2048 + 64 < 2048 then s
    else
      let other := if x.1 < 2048 then 2048 else 0
      let p := jPref xs
      let s1 := flashErase (journalBase + 32 * other) 65536 s
      flashProgram (journalBase + 32 * other) (jBytes (jSeqOf x.2 + 1) [9, 0xFF, if p.isSome then 6 else 0, p.getD 0,
        min s.start.latchRun 255, 0, attemptMs s]) s1

-- Order of the copies --------------------------------------------------------------------------------------------

/-- The copies in the order they are tried (R419, R439). -/
def copyOrder (s : State) : List Nat :=
  let p := jPref (jAll s)
  let f := if s.start.firstCopy = 1 then 0 else if s.start.firstCopy = 2 then 1
    else match s.start.failedCopy, p with
      | some x, _ => 1 - x
      | none, some c => c
      | none, none => if s.start.bootSel = 1 then 1 else 0
  [f, 1 - f]

-- Harness keys and the DEVICE leg --------------------------------------------------------------------------------

/-- Key entries in force (R413, R443): role 0 OBSERVER, 1 OPERATOR, 2 CUSTODIAN. -/
def keysLoad (es : List (List Byte)) (s : State) : State :=
  let ks := es.foldl (fun m e => mapSet (fun _ => none) (leAt e 0 1) (some (leAt e 1 1 + 1, leAt e 2 1, slice e 8 32)) m) []
  forEach (es.map (fun e => leAt e 0 1)) (fun n a => keyPut (68 + n) a) { s with har := { s.har with keys := ks } }

/-- The DEVICE leg in force (R413, R440). -/
def deviceLoad (b : List Byte) (s : State) : State :=
  fset HOST_HARNESS_CFG HOST_HARNESS_CFG_TRANSPORTS (leAt b 96 4 % 8) (startSet (fun x => { x with device := b }) s)

/-- Keys and address of the Bivouac Harness (R437). -/
def bivHarness (s : State) : State :=
  let found := (copyOrder s).findSome? (fun c =>
    match copyOpen s c with
    | .inl _ => none
    | .inr ls =>
      let mine := ls.filter (legApplies s.variant)
      match (mine.find? (fun l => l.ty = 0xA0)).bind (unsealLeg s) with
      | none => none
      | some k => (bodyOf 0xA0 k.body).map (fun x => (x.entries, (mine.find? (fun l => l.ty = 1)).bind (unsealLeg s))))
  match found with
  | some (es, d) => (match d with | some l => deviceLoad l.body | none => id) (keysLoad es s)
  | none =>
    let ikm := if s.otp.owk.isEmpty then zeros 32 ++ leBytes 8 (rd s SYS_SERIAL).toNat else s.otp.owk
    { s with har := { s.har with keys := mapSet (fun _ => none) 0 (some (3, 7, hkdf [] ikm (ascii "GT98 Bivouac") 32)) s.har.keys } }

-- Failure and Bivouac mode ---------------------------------------------------------------------------------------

/-- The state in Bivouac mode (R436): what runs keeps its state, everything else is as after reset. -/
def bivState (s : State) : State :=
  let t := logicReset s
  { t with
    regs := s.regs.filter (fun x => x.1 < 0x20000 || (0x508000 ≤ x.1 && x.1 < 0x509000) || (0x500000 ≤ x.1 && x.1 < 0x501000)
      || (0x700000 ≤ x.1 && x.1 < 0xA00000) || x.1 = PAIR_STATUS),
    mem := s.mem.filter (fun c => 0x70000000 ≤ c.1), tsu := s.tsu, evc := s.evc, cnt := s.cnt, ecc := s.ecc,
    bnu := { s.bnu with units := s.bnu.units.filter (fun x => x.1 = 0), keys := [] },
    start := { s.start with retryWait := false, patches := [], rest := 0 } }

/-- Bivouac mode is entered for a cause of R435. -/
def enterBivouac (cause : Nat) (pcieClock : Bool) (s : State) : State :=
  let early := decide (stage s ≤ 2)
  let dark := early && !(decide (stage s ≤ 1) && pcieClock)
  let s1 := if early then s else jAppend (jNow 8 cause s) s
  let s2 := sessionsEnd 4 s1
  let s3 := setPhase 4 (stSet SYS_START_STATUS_BIV_CAUSE cause (bivState s2))
  let s4 := fset PAIR_STATUS PAIR_STATUS_ROLE 0 (pstSet PAIR_STATUS_CUST_OUT false s3)
  let s5 := if early then startSet (fun x => { x with dark := dark }) (fsetB SYS_START_STATUS SYS_START_STATUS_DARK_XO (!dark) s4)
    else jSwitch s4
  setLevel EV_SYS_BIVOUAC true (aonDeliver (bivHarness s5))

/-- The attempt fails (R424, R428 to R430). -/
def failAttempt (cause : Nat) (pcieClock : Bool) (s : State) : State :=
  let run := s.start.latchRun + 1
  let s1 := stSet SYS_START_STATUS_FAIL_RUN (min run 3) (startSet (fun x => { x with latchRun := run }) s)
  let s2 := if stage s ≤ 2 then startSet (fun x => { x with latchRec := some (jNow 4 cause s1) }) s1 else jAppend (jNow 4 cause s1) s1
  let s3 := cairn 0 sevError 0x05 cause (leBytes 1 (stage s) ++ leBytes 1 (copyUsed s) ++ zeros 6 ++ leBytes 8 (rd s SYS_BOOK_ID).toNat) s2
  if 3 ≤ run then enterBivouac 1 pcieClock (if recoveryCause cause then occur EV_SYS_RECOVERY s3 else s3)
  else startSet (fun x => { x with retryWait := true, latchCause := cause }) s3

/-- 1 s after a failure (R429); a failure in SERVICE was an unexpected end of it (R424). -/
def startRetry (s : State) : State :=
  if s.start.retryWait then beginAttempt s.start.latchCause (unexpected s s.start.latchCause) s else s

/-- The attempt ends before success with a neutral cause (R428): NEUTRAL, in the journal where it can still be written. -/
def neutralEnd (cause : Nat) (canWrite : Bool) (s : State) : State :=
  if fbit s SYS_START_STATUS SYS_START_STATUS_STABLE ∨ phase s = 4 ∨ s.start.retryWait then s
  else if canWrite ∧ 3 ≤ stage s then jAppend (jNow 5 cause s) s
  else startSet (fun x => { x with latchRec := some (jNow 5 cause s) }) s

/-- An internal restart (R422): sessions close (R446), the link is told (R384). -/
def internalRestart (cause : Nat) (s : State) : State :=
  let s1 := belaySend 4 (leBytes 4 3) (sessionsEnd 3 s)
  beginAttempt cause (unexpected s cause) s1

/-- Harness restart (R422, R428). -/
def harnessRestart (s : State) : State := internalRestart 0x22 (neutralEnd 0x22 true s)

/-- The root PLL has lost lock after S2 ROOT (R22). -/
def rootUnlock (s : State) : State :=
  if stage s < 3 then s
  else beginAttempt 0x20 (unexpected s 0x20) (neutralEnd 0x20 false s)

/-- May a Custodian leave Bivouac mode (R439)? 0 yes, 0x12 not in Bivouac mode, 0x14 straps. -/
def releaseState (s : State) : Nat := if phase s ≠ 4 then 0x12 else if 2 ≤ s.start.bootSel then 0x14 else 0

/-- Bivouac mode is left (R439): RELEASE with FAIL_RUN 0, then an internal restart. -/
def bivRelease (first : Nat) (s : State) : State :=
  let s1 := startSet (fun x => { x with latchRun := 0, firstCopy := first, latchRec := none }) s
  let s2 := if s.start.dark then s1 else jAppend (jNow 7 0 s1) s1
  beginAttempt 0x22 false (sessionsEnd 4 s2)

/-- A control cluster's watchdog expires, or an uncorrectable error ends a control core's execution (R425). -/
def watchdog (fatalUe : Bool) (s : State) : State :=
  let cause := if fatalUe then 0x10 else 0x0F
  if stage s < 5 ∧ !fatalUe ∨ phase s = 4 ∨ s.start.retryWait then s
  else if fbit s SYS_START_STATUS SYS_START_STATUS_STABLE then internalRestart cause s
  else failAttempt cause false s

/-- A stage's deadline passes (R424, R405). -/
def stageDeadline (s : State) : State :=
  if stage s = 0 ∨ 8 ≤ stage s ∨ phase s = 4 ∨ s.start.retryWait then s
  else
    let s1 := if stage s = 4 ∧ fget s SYS_BOOK_FAIL SYS_BOOK_FAIL_STEP = 0 then fset SYS_BOOK_FAIL SYS_BOOK_FAIL_STEP 7 s else s
    failAttempt 7 false s1

/-- STABLE_TIME has passed in SERVICE (R428, R434). -/
def startSuccess (s : State) : State :=
  if (phase s ≠ 3 ∧ phase s ≠ 5) ∨ fbit s SYS_START_STATUS SYS_START_STATUS_STABLE then s
  else
    let s1 := startSet (fun x => { x with latchRun := 0 }) s
    let s2 := jSwitch (jAppend (jNow 3 0 s1) s1)
    occur EV_SYS_START_STABLE (fsetB SYS_START_STATUS SYS_START_STATUS_STABLE true (stSet SYS_START_STATUS_FAIL_RUN 0 s2))

/-- STABLE_LEFT counts down in SERVICE (R428). -/
def stableLeft (s : State) : Nat :=
  if stage s ≠ 9 ∨ fbit s SYS_START_STATUS SYS_START_STATUS_STABLE then 0
  else 30 - min 30 ((s.tsu.xo - s.start.openXo) / (10 ^ 9 * 2 ^ 48))

-- Pins -----------------------------------------------------------------------------------------------------------

/-- A reset begins: the device holds itself in reset with its outputs in their reset state (R422). -/
def holdReset (f : StartState → StartState) (s : State) : State :=
  let t := logicReset (startSet f s)
  stSet SYS_START_STATUS_FAIL_RUN (min t.start.latchRun 3) t

/-- PWR_GOOD falls (R422, R431). -/
def pwrFall (s : State) : State := holdReset (fun x => { x with pwrGood := false, latchPower := true }) s

/-- PWR_GOOD rises (R422): BOOT_SEL is sampled at the origin. -/
def pwrRise (boot : Nat) (s : State) : State := beginAttempt 0 false (startSet (fun x => { x with pwrGood := true, bootSel := boot % 4 }) s)

/-- PORESET_N is driven low (R422, R431). -/
def poresetDown (s : State) : State := holdReset (fun x => { x with poresetLow := true, latchReset := true }) s

/-- PORESET_N is released (R422). -/
def poresetUp (boot : Nat) (s : State) : State :=
  beginAttempt (if s.start.latchPower then 0 else 0x21) false (startSet (fun x => { x with poresetLow := false, bootSel := boot % 4 }) s)

/-- WARM_RESET_N is driven low (R422, R431). -/
def warmDown (s : State) : State := holdReset (fun x => { x with warmLow := true, latchReset := true }) s

/-- WARM_RESET_N is released (R422). -/
def warmUp (boot : Nat) (s : State) : State :=
  beginAttempt 0x21 false (startSet (fun x => { x with warmLow := false, bootSel := boot % 4 }) s)

/-- VSTBY is lost (R510): the start latch, the always-on latches and the spare map are cleared. -/
def vstbyLoss (s : State) : State :=
  let s1 := startSet (fun x => { x with latchCause := 0, latchRun := 0, latchRec := none, latchPower := true, latchReset := false, firstCopy := 0 }) s
  forEach (List.range 12) (fun d a => wr (ECC_ED_SPARE d) (regReset a.variant (ECC_ED_SPARE d)) a)
    { s1 with evc := { s1.evc with aon := 0 } }

/-- In dark Bivouac mode the root PLL tries again (R436). -/
def bivRootRetry (locked pcie : Bool) (s : State) : State :=
  if s.start.dark ∧ locked then
    fsetB SYS_START_STATUS SYS_START_STATUS_DARK_XO pcie (startSet (fun x => { x with dark := false }) s)
  else s

-- Meanings -------------------------------------------------------------------------------------------------------

/-- PWR_GOOD_RISE (R422). -/
def execPwrGoodRise (boot : Nat) (s : State) : Res := .next (pwrRise boot s)

/-- PWR_GOOD_FALL (R422). -/
def execPwrGoodFall (s : State) : Res := .next (pwrFall s)

/-- PORESET_N_RELEASE (R422). -/
def execPoresetNRelease (boot : Nat) (s : State) : Res := .next (if s.start.poresetLow then poresetUp boot s else s)

/-- PORESET_N_ASSERT (R422). -/
def execPoresetNAssert (s : State) : Res := .next (poresetDown s)

/-- WARM_RESET_N_RELEASE (R422). -/
def execWarmResetNRelease (boot : Nat) (s : State) : Res := .next (if s.start.warmLow then warmUp boot s else s)

/-- WARM_RESET_N_ASSERT (R422). -/
def execWarmResetNAssert (s : State) : Res := .next (warmDown s)

/-- VSTBY_LOSS (R510). -/
def execVstbyLoss (s : State) : Res := .next (vstbyLoss s)

/-- BIVOUAC_ROOT_RETRY (R436). -/
def execBivouacRootRetry (locked pcie : Bool) (s : State) : Res := .next (bivRootRetry locked pcie s)

/-- ROOT_UNLOCK (R22). -/
def execRootUnlock (s : State) : Res := run rootUnlock s

/-- STAGE_DEADLINE (R424). -/
def execStageDeadline (s : State) : Res := run stageDeadline s

/-- WATCHDOG (R425). -/
def execWatchdog (fatalUe : Bool) (s : State) : Res := run (watchdog fatalUe) s

/-- START_RETRY (R429). -/
def execStartRetry (s : State) : Res := run startRetry s

/-- START_SUCCESS (R428). -/
def execStartSuccess (s : State) : Res := run startSuccess s

end Sys2Proof.Machine
end

