-- ==== Sys2Proof/Machine/Trig.lean ====
section
/-!
DEFINITION. Machine/Trig.lean: the triggers (R370 to R373).
-/
namespace Sys2Proof.Machine
open Sys2Proof

def trigReset (_ : Nat) : TrigCh := { cur := none, nxt := none }
def trigOf (s : State) (n : Nat) : TrigCh := mapGet trigReset s.trigs n

/-- Instant of the next firing of a schedule in 2^-16 ns. -/
def firingAt (x : TrigSched) : Nat := x.t0 + x.k * x.per

/-- Store a trigger and show ARMED; a schedule whose time has come replaces the one before it (R370). -/
def trigSet (n : Nat) (x : TrigCh) (s : State) : State :=
  let y : TrigCh := match x.nxt with
    | some b => match x.cur with
      | some a => if firingAt b ≤ firingAt a then ⟨some b, none⟩ else x
      | none => ⟨some b, none⟩
    | none => x
  fsetB (TRIG_STATUS n) TRIG_STATUS_ARMED y.cur.isSome { s with trigs := mapSet trigReset n y s.trigs }

/-- First index whose firing lies at or after `t`; none if the schedule ends before. -/
def firstFrom (t t0 per : Nat) (last : Option Nat) : Option Nat :=
  let k := if t ≤ t0 then 0 else if per = 0 then 1 else (t - t0 + per - 1) / per
  match last with
  | some l => if k ≤ l then some k else none
  | none => some k

/-- The schedule the registers describe, with ARM's value of CTL (R370). -/
def trigPlan (s : State) (n : Nat) (ctl : Word) : TrigSched :=
  let sub := (rd s (TRIG_SUB n)).toNat
  let per := (rd s (TRIG_PERIOD n)).toNat
  let c := getF TRIG_CTL_COUNT ctl
  { t0 := ((rd s (TRIG_SEC n)).toNat * 1000000000 + sub / 2 ^ 32) * 65536 + sub % 2 ^ 32 / 65536, per := per, k := 0,
    last := if per = 0 then some 0 else if c = 0 then none else some c }

/-- The earliest instant an ARM may fire at, in 2^-16 ns: 100 ns from now (R370). -/
def trigSoonest (s : State) : Nat := (gtNow s + 100 * 2 ^ 32 + 65535) / 65536

/-- Index from which an ARM's schedule runs; none: LATE (R370). -/
def trigFrom (s : State) (n : Nat) (ctl : Word) : Option Nat :=
  let p := trigPlan s n ctl
  match firstFrom (trigSoonest s) p.t0 p.per p.last with
  | some k => if k = 0 ∨ (trigOf s n).cur.isSome then some k else none
  | none => none

/-- ARM (R370). -/
def trigArm (n : Nat) (ctl : Word) (s : State) : State :=
  match trigFrom s n ctl with
  | none =>
    cairnState 0x04 sevNotice n 0 2 0 0 (bump (UC_TRIG n 1) 1 (fset (TRIG_STATUS n) TRIG_STATUS_RESULT 2 s))
  | some k =>
    let p := { trigPlan s n ctl with k := k }
    trigSet n { trigOf s n with nxt := some p }
      (fset (TRIG_STATUS n) TRIG_STATUS_FIRED 0 (fset (TRIG_STATUS n) TRIG_STATUS_RESULT 0 s))

/-- DISARM (R370). -/
def trigDisarm (n : Nat) (s : State) : State :=
  if (trigOf s n).cur.isSome then trigSet n (trigReset n) (fset (TRIG_STATUS n) TRIG_STATUS_RESULT 4 s) else s

/-- Snapshots requested in one FAB cycle are taken once (R372). -/
def trigSnap (s : State) : State :=
  let tick := if s.tsu.half then s.tsu.inc / 2 ^ 40 + 1 else 0
  if s.cnt.snapSeq ≠ 0 ∧ gtNow s ≤ s.cnt.snapAt + tick then s else cntSnap s

/-- The instant of a schedule's next firing less the present TSC tick, 2^-72 ns. -/
def trigAway (s : State) (p : TrigSched) : Int := (firingAt p : Int) * 2 ^ 56 - s.tsu.now

/-- Does the present tick place the firing (R371)? For TRIG0 to TRIG3 the instant lies between this tick and the next, where one of its two ROOT
edges and the fine delay place it; for the others this is the tick nearest the instant. -/
def trigDue (n : Nat) (s : State) (p : TrigSched) : Bool :=
  if n < 4 then decide (0 ≤ trigAway s p) && decide (trigAway s p < incNow s) else decide (2 * (trigAway s p).natAbs ≤ incNow s)

/-- The instant of a firing as placed less the programmed one, in ps (R371): the fine delay of TRIG0 to TRIG3 leaves less than 1 ps. -/
def trigErr (n : Nat) (s : State) (p : TrigSched) : Int := if n < 4 then 0 else divRound (-(trigAway s p) * 1000) (2 ^ 72)

/-- A firing on its tick (R371, R372); at any other time there is none. -/
def trigFire (n : Nat) (s : State) : State :=
  let x := trigOf s n
  match x.cur.filter (trigDue n s) with
  | none => s
  | some p =>
    let nx := if p.last = some p.k then none else some { p with k := p.k + 1 }
    let s1 := trigSet n { x with cur := nx } s
    let s2 := fset (TRIG_STATUS n) TRIG_STATUS_FIRED (fget s1 (TRIG_STATUS n) TRIG_STATUS_FIRED + 1)
      (fset (TRIG_STATUS n) TRIG_STATUS_RESULT 1 (fsetI (TRIG_STATUS n) TRIG_STATUS_LAST_ERR (satI 16 (trigErr n s p)) s1))
    let s3 := if fbit s (TRIG_CTL n) TRIG_CTL_PIN_EN then emitOut (.trig n (fget s (TRIG_CTL n) TRIG_CTL_WIDTH)) s2 else s2
    let s4 := snapTrigger n (gtNow s) (ticTrigger n (bump (UC_TRIG n 0) 1 s3))
    if fbit s (TRIG_CTL n) TRIG_CTL_CNT_SNAP then trigSnap s4 else s4

/-- The set edge disarms every armed trigger (R373). -/
def trigSetEdge (s : State) : State :=
  forEach (List.range 16) (fun n a =>
    if (trigOf a n).cur.isSome then
      cairnState 0x04 sevNotice n 0 3 0 0 (bump (UC_TRIG n 2) 1
        (fset (TRIG_STATUS n) TRIG_STATUS_RESULT 3 (trigSet n (trigReset n) a)))
    else a) s

/-- Trigger and offset of an address of the block. -/
def trigAddr (a : Nat) : Option (Nat × Nat) :=
  if 0x41000 ≤ a ∧ a < 0x41400 then some ((a - 0x41000) / 0x40, a % 0x40) else none

/-- Checks of a write to a trigger register (R370). -/
def trigCheck (a : Nat) (v : Word) (s : State) : Verdict :=
  match trigAddr a with
  | some (n, o) =>
    let per := (rd s (TRIG_PERIOD n)).toNat
    if o = 0 ∧ getF TRIG_CTL_ARM v ≠ 0 then
      if per ≠ 0 ∧ per ≤ getF TRIG_CTL_WIDTH v * 65536 then vRange
      else if (trigFrom s n v).isNone then vState 0x11
      else .ok
    else if o = 0x18 ∧ v ≠ 0 ∧ v.toNat < 6553600 then vRange
    else .ok
  | none => .ok

/-- The effect of an accepted write to a trigger register; `stored` has the plain fields stored. -/
def trigApply (a : Nat) (v : Word) (stored : State) : Option State :=
  match trigAddr a with
  | some (n, o) =>
    if o = 0 then
      let s1 := if getF TRIG_CTL_DISARM v ≠ 0 then trigDisarm n stored else stored
      some (if getF TRIG_CTL_ARM v ≠ 0 then trigArm n v s1 else s1)
    else none
  | none => none

/-- TRIG_FIRE (R372). -/
def execTrigFire (n : Nat) (_err : Unit) (s : State) : Res := runIf (n < 16) (trigFire n) s

end Sys2Proof.Machine
end

