-- ==== Sys2Proof/Machine/RegPath.lean ====
section
/-!
DEFINITION. Machine/RegPath.lean: accesses to the management address space (R3 to R17, R453, R520 to R528): what a register
write is checked for, what it does, what a read returns, and the memory windows.
-/
namespace Sys2Proof.Machine
open Sys2Proof

-- Address map ----------------------------------------------------------------------------------------------------

/-- Is the address inside a register block (R520)? -/
def inSpan (a : Nat) : Bool :=
  if 0x500000 ≤ a ∧ a < 0x510000 then decide (a < 0x509000)
  else decide (a < 0x70000) || (decide (0x100000 ≤ a) && decide (a < 0x180000))
    || [0x20, 0x30, 0x40, 0x60, 0x70, 0x80, 0x90, 0xA0].contains (a / 0x10000)

/-- The memory windows (R521): base, size, read-only. -/
def windows : List (Nat × Nat × Bool) :=
  [(0x10000000, 0x200000, false), (0x20000000, 0x1800000, false), (0x30000000, 0x1000000, true), (0x40000000, 0x80000, false),
   (0x50000000, 0x2000000, true), (0x60000000, 0x400000, true), (0x60400000, 0x200000, true), (0x70000000, 0x30000, true),
   (0x78000000, 0x20000, true)]

/-- The window an address lies in. -/
def windowOf (a : Nat) : Option (Nat × Nat × Bool) := windows.find? (fun w => decide (w.1 ≤ a) && decide (a < w.1 + w.2.1))

/-- Part of a window that belongs to an absent unit (R522). -/
def windowAbsent (v : Variant) (a : Nat) : Bool :=
  if 0x40000000 ≤ a ∧ a < 0x40080000 then !unitBit v (16 + (a - 0x40000000) / 0x10000)
  else if 0x60000000 ≤ a ∧ a < 0x60600000 then !unitBit v 35
  else false

/-- Does a byte range reach into a part of a window that belongs to an absent unit (R5, R522)? -/
def rangeAbsent (v : Variant) (a n : Nat) : Bool :=
  windowAbsent v a || windowAbsent v (a + (n - 1))
    || (List.range 8).any (fun k => let b := 0x40000000 + 0x10000 * k; decide (a ≤ b) && decide (b < a + n) && windowAbsent v b)
    || (decide (a ≤ 0x60000000) && decide (0x60000000 < a + n) && windowAbsent v 0x60000000)

/-- Inside no span and no window (R520). -/
def unmapped (a : Nat) : Bool := !inSpan a && (windowOf a).isNone

/-- Record an access in SYS_ABSENT_ACCESS (R4, R526): cause 1 absent unit, 2 narrow, 3 unmapped. -/
def absentRecord (cause : Nat) (i : Initiator) (write : Bool) (a : Nat) (s : State) : State :=
  if fbit s SYS_ABSENT_ACCESS SYS_ABSENT_ACCESS_SET then s
  else
    setLevel EV_SYS_ABSENT true (wr SYS_ABSENT_ACCESS
      (setF SYS_ABSENT_ACCESS_SET 1 (setF SYS_ABSENT_ACCESS_CAUSE cause (setF SYS_ABSENT_ACCESS_INITIATOR (initCode i)
        (setF SYS_ABSENT_ACCESS_WRITE (if write then 1 else 0) (setF SYS_ABSENT_ACCESS_ADDR a 0))))) s)

-- Roles ----------------------------------------------------------------------------------------------------------

/-- With what rights an initiator acts (R453): 0 unbound, 1 OBSERVER, 2 OPERATOR, 3 CUSTODIAN, 4 firmware. -/
def roleOf (i : Initiator) (s : State) : Nat :=
  match i with
  | .core _ => 4
  | .pcie => pathRole s HOST_REGPATH_PCIE_SESSION
  | .hspi => pathRole s HOST_REGPATH_HSPI_SESSION
  | .jtag => 3
  | .harness => 0

/-- Registers of which an initiator has its own copy (R51, R53, R265, R294). -/
def ownCopy (a : Nat) : Bool :=
  [TSU_SET_SEC, TSU_SET_SUB, TSU_SET_CTL, TSU_SET_BOUND, TSU_NOW_LO, TSU_NOW_HI, TSU_CAP_STATUS].contains a
    || (decide (0x50000 ≤ a ∧ a < 0x50800) && [0x28, 0x30].contains (a % 0x100))
    || (decide (0x500000 ≤ a ∧ a < 0x508000) && [0x18, 0x20, 0x28, 0x30].contains (a % 0x1000))

/-- The bits an initiator finds stored at a register. -/
def stored (i : Initiator) (a : Nat) (s : State) : Word := if ownCopy a then rdI s i a else rd s a

/-- Custodian-only fields (R528). -/
def custodianOnly (a : Nat) (f : Fld) : Bool :=
  [TSU_FREQ_ADJ, TSU_SLEW_REQ, TSU_SET_SEC, TSU_SET_SUB, TSU_SET_BOUND, TSU_SET_CTL, TSU_LEAP_PENDING, TSU_LEAP_SEC, REFS_CMD,
    SVC_KEY_CTL, PAIR_CMD, SYS_BIVOUAC_CTL, ECC_INJECT].contains a
    || (a == GNSS_CTL && f == GNSS_CTL_ACCEPT) || (a == GNSS_SURVEY && f == GNSS_SURVEY_RESTART)
    || (decide (0x500000 ≤ a ∧ a < 0x508000 ∧ a % 0x1000 = 0) && f == BNU_CTL_SELFTEST)
    || (a == BNU_ES_CTL && f == BNU_ES_CTL_RESTART)

/-- An RWL field of a register: GROUP_MODE and FEC25 are fields of PORT0 and PORT4 only (R66). -/
def lockedField (a : Nat) (x : FRow) : Bool :=
  x.acc == .rwl && !(decide (0x100000 ≤ a ∧ a < 0x180000 ∧ a % 0x10000 = 0) && (a - 0x100000) / 0x10000 % 4 != 0)

/-- Does a plain write of a register write an RWL field (R15)? It does where it would change the field, and also where the register
has no other writable field (DEDUCED, log entry 12): the other fields of a mixed register stay writable after S9. -/
def writesRwl (old v : Word) (a : Nat) : Bool :=
  match regRow a with
  | none => false
  | some r => r.fields.any (fun x => lockedField a x && getF x.f v != getF x.f old)
    || (r.fields.any (lockedField a) && !r.fields.any (fun x => x.acc == .rw || x.acc == .wo || x.acc == .rw1c))

/-- Would the write change a field that a predicate selects? A WO field counts when it is written non-zero (R528). -/
def touches (sel : FRow → Bool) (old v : Word) (a : Nat) : Bool :=
  match regRow a with
  | none => false
  | some r => r.fields.any (fun x => sel x && match x.acc with
    | .rw | .rwl => getF x.f v != getF x.f old
    | .wo | .rw1c => getF x.f v != 0
    | _ => false)

-- Writes ---------------------------------------------------------------------------------------------------------

/-- Fields that hold mirrored state: on a Second only the journal writes them (R391). -/
def mirroredReg (a : Nat) : Bool :=
  [TSU_UTC_OFFSET, TSU_LEAP_PENDING, TSU_LEAP_SEC].contains a || (decide (SVC_NTP_PROF 0 ≤ a ∧ a ≤ SVC_NTP_PROF 7))

/-- The rules of the register's own chapter. -/
def ownRules (i : Initiator) (a : Nat) (v : Word) (s : State) : Verdict :=
  match a / 0x10000 with
  | 0x00 =>
    if a = SYS_BIVOUAC_CTL ∧ getF SYS_BIVOUAC_CTL_RELEASE v ≠ 0 then
      (if releaseState s = 0 then .ok else vState (releaseState s))
    else .ok
  | 0x01 => tsuCheck i a v s
  | 0x02 => refsCheck a v s
  | 0x03 => servoCheck a v
  | 0x04 => Verdict_and (outCheck a v s) (trigCheck a v s)
  | 0x05 => ticCheck i a s
  | 0x06 => gnssCheck a v s
  | 0x20 => topoCheck a v s
  | 0x40 => Verdict_and (svcCheck a v s) (ptpCheck a v s)
  | 0x50 => bnuCheck i a v s
  | 0x60 => pairCheck a v s
  | 0x70 => evcCheck a v s
  | 0x80 => cntCheck a v
  | 0x90 => eccCheck a v s
  | _ => portCheck a v

/-- Everything a register write is checked for, in this order: binding and role (R453, R528), the lock of RWL fields (R15), stated
ranges (R527), registers that do nothing (R65), mirrored state (R391), the register's own rules. -/
def regCheck (i : Initiator) (role a : Nat) (v : Word) (s : State) : Verdict :=
  let old := stored i a s
  if role = 0 then .silent
  else if role = 1 then .refuse 2 6 0
  else if role = 2 ∧ touches (fun x => custodianOnly a x.f) old v a then .refuse 2 6 0
  else if rwlLocked s ∧ writesRwl old v a then .refuse 3 7 4
  else if !rangesOk a v then vRange
  else if portInert s a then .silent
  else if mirroredReg a ∧ onSecond s ∧ !isCore i then vState 0xA
  else ownRules i a v s

/-- What an accepted write of REFS_CMD does (R337, R341). -/
def refsCmd (v : Word) (s : State) : State :=
  let n := getF REFS_CMD_SLOT v
  let s1 := if getF REFS_CMD_ACCEPT_JUMP v ≠ 0 then acceptAny n s else s
  let s2 := if getF REFS_CMD_LOCKOUT v ≠ 0 then lockout n s1 else s1
  if getF REFS_CMD_UNLOCK v ≠ 0 then unlock n s2 else s2

/-- Abort jobs of a unit (R272): the service learns of its own (R224). -/
def bnuAbort (n : Nat) (sel : BnuJob → Bool) (s : State) : State :=
  let r := jobsAbort n 0 sel s
  keFeed (keJobsLost r.1 r.2)

/-- What an accepted write of a register of a unit does (R261 to R278). -/
def bnuRegs (i : Initiator) (n o : Nat) (v : Word) (s : State) : State :=
  if o = 0 then
    let s1 := fset (BNU_CTL n) BNU_CTL_OWNER (getF BNU_CTL_OWNER v) s
    let s2 := if getF BNU_CTL_ABORT_ALL v ≠ 0 then bnuAbort n (fun _ => true) s1 else s1
    let s3 := if getF BNU_CTL_OWNER v = fget s (BNU_CTL n) BNU_CTL_OWNER then s2 else keFeed (backlogShow s2)
    if getF BNU_CTL_SELFTEST v ≠ 0 then selftestStart n s3 else s3
  else if o = 0x10 then slotLength n (getF BNU_SLOT_WORDS_WORDS v) s
  else if 0x18 ≤ o ∧ o < 0x38 then wrI i (0x500000 + 0x1000 * n + o) v s
  else if o = 0x38 then (if getF BNU_SUBMIT_GO v ≠ 0 then bnuSubmit i n s else s)
  else if o = 0x48 then
    (if getF BNU_ABORT_GO v ≠ 0 then bnuAbort n (fun j => decide (j.w0 / 2 ^ 16 % 2 ^ 16 = getF BNU_ABORT_TAG v)) s else s)
  else storePlain (0x500000 + 0x1000 * n + o) v s

/-- A Custodian's write of TSU_UTC_OFFSET confirms the offset (R248). -/
def utcConfirm (role a : Nat) (s : State) : State :=
  if role = 3 ∧ a = TSU_UTC_OFFSET then { s with ptp := { s.ptp with utcOk := true } } else s

/-- What an accepted write does, by register block; none: the plain storing of R13 is all there is. -/
def ownEffect (i : Initiator) (a : Nat) (v : Word) (s plain : State) : Option State :=
  match a / 0x10000 with
  | 0x00 =>
    if a = SYS_ABSENT_ACCESS then some (setLevel EV_SYS_ABSENT (fbit plain a SYS_ABSENT_ACCESS_SET) plain)
    else if a = SYS_BIVOUAC_CTL ∧ getF SYS_BIVOUAC_CTL_RELEASE v ≠ 0 then some (bivRelease (getF SYS_BIVOUAC_CTL_FIRST v) s)
    else none
  | 0x01 =>
    (tsuApply i a v s).map (utcConfirm (roleOf i s) a)
  | 0x02 => if a = REFS_CMD then some (refsCmd v plain) else refsApply a v s plain
  | 0x03 => servoApply a v s
  | 0x04 => (outApply a v s).orElse (fun _ => trigApply a v plain)
  | 0x05 => ticApply a v s
  | 0x06 => gnssApply a v s plain
  | 0x20 => (topoApply a v s).orElse (fun _ => peApply a v s)
  | 0x40 =>
    if SVC_NTP_PROF 0 ≤ a ∧ a ≤ SVC_NTP_PROF 7 ∧ !isCore i then
      some (journalCmd 0x0502 (leBytes 1 ((a - SVC_NTP_PROF 0) / 8) ++ zeros 7 ++ leBytes 8 v.toNat) (svcSync plain))
    else (svcApply a v plain).orElse (fun _ => (ptpApply a v plain).orElse (fun _ => keApply a plain))
  | 0x50 =>
    match bnuAddr a with
    | some (n, o) => some (bnuRegs i n o v s)
    | none => if a = BNU_ES_CTL ∧ getF BNU_ES_CTL_RESTART v ≠ 0 then some (esRevive s) else none
  | 0x60 => pairApply a v plain
  | 0x70 => evcApply a v s
  | 0x80 => cntApply a v s
  | 0x90 => eccApply a v s
  | _ => portApply a v s

/-- What an accepted register write does. -/
def regApply (i : Initiator) (a : Nat) (v : Word) (s : State) : State :=
  let plain := storePlain a v s
  (ownEffect i a v s plain).getD plain

/-- A register write on a bus (R453, R500): one that a rule or the role refuses is ignored as a whole, with a Cairn entry. An ARM
of a trigger that is too late leaves its result (R370). -/
def regWrite (i : Initiator) (a : Nat) (v : Word) (s : State) : State :=
  match regCheck i (roleOf i s) a v s with
  | .ok => regApply i a v s
  | .silent => s
  | .refuse d _ st =>
    if st = 0x11 then match trigAddr a with
      | some (n, _) => trigArm n v s
      | none => s
    else if (regRow a).isNone then s
    else writeIgnored a v d (if d = 1 then tsuRefused a s else s)

-- Reads ----------------------------------------------------------------------------------------------------------

/-- What a register reads without any side effect; `i` is the initiator whose copies it sees. -/
def regView (i : Initiator) (a : Nat) (s : State) : Word :=
  if portInert s a then regReset s.variant a
  else if ownCopy a then rdI s i a
  else if a = SYS_START_STATUS then setF SYS_START_STATUS_STABLE_LEFT (stableLeft s) (rd s a)
  else if a = HOST_HARNESS_STATUS then setF HOST_HARNESS_STATUS_LOCK_LEFT (lockLeft s) (rd s a)
  else if a = SVC_KE_BACKLOG then setF SVC_KE_BACKLOG_NOW_US (backlogUs s) (rd s a)
  else match a / 0x10000 with
    | 0x01 => if a = TSU_NOW_LO then capLo s else if a = TSU_STATE then rd (smearRefresh s) a else rd s a
    | 0x02 => (refsView s a).getD (rd s a)
    | 0x05 =>
      match ticAddr a with
      | some (n, 0x20) => BitVec.ofNat 64 (ticPop i n s).1
      | _ => rd s a
    | 0x50 =>
      match bnuAddr a with
      | some (n, 0x40) => (bnuPop n s).1
      | _ => (bnuView s a).getD (rd s a)
    | 0x70 => (evcView s a).getD (rd s a)
    | 0x90 => (eccView s a).getD (rd s a)
    | _ => rd s a

/-- Clear the RC fields of a register: a field that records a maximum returns to its reset value (R13). -/
def clearRC (a : Nat) (s : State) : State :=
  match regRow a with
  | none => s
  | some r =>
    if r.fields.any (fun x => x.acc == .rc) then
      wr a (r.fields.foldl (fun w x => if x.acc == .rc then setF x.f x.reset w else w) (rd s a)) s
    else s

/-- A register read on a bus: its value and what the read does. -/
def regRead (i : Initiator) (a : Nat) (s : State) : Word × State :=
  if portInert s a then (regView i a s, s)
  else if a = TSU_NOW_LO then (capLo s, tsuCapture i s)
  else match ticAddr a with
    | some (n, 0x20) => let r := ticPop i n s; (BitVec.ofNat 64 r.1, r.2)
    | _ => match bnuAddr a with
      | some (n, 0x40) => bnuPop n s
      | _ =>
        if a = BNU_RAND then bnuRand i s
        else if EVC_CLAIM 0 ≤ a ∧ a ≤ EVC_CLAIM 33 then
          let r := evcClaim ((a - EVC_CLAIM 0) / 8) s
          (BitVec.ofNat 64 r.1, r.2)
        else if a = EVC_SYNC then (0, if s.evc.windowOpen then evcChange evcSettle s else s)
        else (regView i a s, clearRC a s)

-- Windows --------------------------------------------------------------------------------------------------------

/-- A write into a memory window (R521, R522); `role` is that of R453. DEDUCED (log entry 118): a write into table-store bytes that a live
or draining copy covers is ignored with a Cairn entry, as R110 lets only the other bytes take effect; R111 asks as much of entries
wider than 64 bits alone. -/
def winWrite (i : Initiator) (role a : Nat) (v : Word) (s : State) : State :=
  if role = 0 ∨ windowAbsent s.variant a then s
  else if role = 1 then writeIgnored a v 2 s
  else match a / 0x10000000 with
    | 1 => topoWrite i a v s
    | 2 =>
      let off := a - 0x20000000
      if storeClosed s off 8 then writeIgnored a v 1 s else lpmTouch off 8 (putMem a (leBytes 8 v.toNat) s)
    | 4 => bnuWinWrite i a v s
    | _ => writeIgnored a v 4 s

/-- A window word without side effect (R522, R494, R260). An uncorrectable word is not delivered (R465). -/
def winView (i : Initiator) (a : Nat) (s : State) : Word :=
  if windowAbsent s.variant a then 0
  else
    let ue := match eccWord a with | some (d, w) => eccUe (eccBad s d w) | none => false
    if ue then 0
    else if 0x70000000 ≤ a ∧ a < 0x70030000 then cntWord s a
    else if 0x40000000 ≤ a ∧ a < 0x40080000 then bnuWinRead i a s else ldW s a

/-- A window read (R459, R465); through a register path it has no side effect (R522). -/
def winRead (i : Initiator) (a : Nat) (s : State) : Word × State :=
  (winView i a s, match i with
    | .pcie | .hspi => s
    | _ => if windowAbsent s.variant a then s else (touchMem a 8 s).2)

-- Bus accesses ---------------------------------------------------------------------------------------------------

/-- An address of a span that names no register: reserved, and nothing is recorded (R16, R520). -/
def namesNone (a : Nat) : Bool := inSpan a && (regRow (a / 8 * 8)).isNone

/-- A 64-bit write at an address (R4, R16, R17, R453, R520 to R522). -/
def busWrite (i : Initiator) (a : Nat) (v : Word) (s : State) : State :=
  if roleOf i s = 0 then s
  else if unmapped a then absentRecord 3 i true a s
  else if namesNone a then s
  else if a % 8 ≠ 0 then absentRecord 2 i true a s
  else if inSpan a then (if absentAddr s.variant a then absentRecord 1 i true a s else regWrite i a v s)
  else winWrite i (roleOf i s) a v s

/-- A 64-bit read at an address; an unbound path reads zero (R453). -/
def busRead (i : Initiator) (a : Nat) (s : State) : State :=
  if roleOf i s = 0 then answer i 0 s
  else if unmapped a then answer i 0 (absentRecord 3 i false a s)
  else if namesNone a then answer i 0 s
  else if a % 8 ≠ 0 then answer i 0 (absentRecord 2 i false a s)
  else if inSpan a then
    (if absentAddr s.variant a then answer i 0 (absentRecord 1 i false a s)
     else let r := regRead i a s; answer i r.1 r.2)
  else let r := winRead i a s; answer i r.1 r.2

/-- An access that is refused at the bus: nothing is written, a read returns zero. -/
def busRecord (cause : Nat) (i : Initiator) (write : Bool) (a : Nat) (s : State) : State :=
  let s1 := if roleOf i s = 0 || namesNone a then s else absentRecord cause i write a s
  if write then s1 else answer i 0 s1

/-- A write with given fields set. -/
def withBits (v : Word) (fs : List (Fld × Nat)) : Word := fs.foldl (fun w x => setF x.1 x.2 w) v

-- Meanings -------------------------------------------------------------------------------------------------------

/-- ABSENT_ACCESS (R4). -/
def execAbsentAccess (i : Initiator) (write : Bool) (addr : Nat) (s : State) : Res :=
  run (fun a => if inSpan addr && absentAddr a.variant addr then busRecord 1 i write addr a else a) s

/-- NARROW_ACCESS (R17, R522). -/
def execNarrowAccess (i : Initiator) (write : Bool) (addr : Nat) (s : State) : Res :=
  run (fun a => if unmapped addr then a else busRecord 2 i write addr a) s

/-- UNMAPPED_ACCESS (R520). -/
def execUnmappedAccess (i : Initiator) (write : Bool) (addr : Nat) (s : State) : Res :=
  run (fun a => if unmapped addr then busRecord 3 i write addr a else a) s

/-- READ_ONLY_WINDOW_WRITE (R522). -/
def execReadOnlyWindowWrite (i : Initiator) (addr : Nat) (v : Word) (s : State) : Res :=
  run (fun a => match windowOf addr with
    | some (_, _, true) => busWrite i addr v a
    | _ => a) s

/-- TSU_INC_NOM_WRITE (R41). -/
def execTsuIncNomWrite (i : Initiator) (v : Word) (s : State) : Res := run (busWrite i TSU_INC_NOM v) s

/-- TSU_FREQ_ADJ_WRITE (R42). -/
def execTsuFreqAdjWrite (i : Initiator) (v : Word) (s : State) : Res := run (busWrite i TSU_FREQ_ADJ v) s

/-- TSU_SLEW_REQ_WRITE (R43). -/
def execTsuSlewReqWrite (i : Initiator) (v : Word) (s : State) : Res := run (busWrite i TSU_SLEW_REQ v) s

/-- TSU_SLEW_LIMIT_WRITE (R45). -/
def execTsuSlewLimitWrite (i : Initiator) (v : Word) (s : State) : Res := run (busWrite i TSU_SLEW_LIMIT v) s

/-- TSU_SET_ARM (R47): EDGE and PIN as in `v`. -/
def execTsuSetArm (i : Initiator) (v : Word) (s : State) : Res :=
  run (busWrite i TSU_SET_CTL (withBits v [(TSU_SET_CTL_ARM, 1)])) s

/-- TSU_NOW_LO_READ (R53). -/
def execTsuNowLoRead (i : Initiator) (s : State) : Res := run (busRead i TSU_NOW_LO) s

/-- TSU_LEAP_PENDING_WRITE (R57). -/
def execTsuLeapPendingWrite (i : Initiator) (v : Word) (s : State) : Res := run (busWrite i TSU_LEAP_PENDING v) s

/-- PORT_MODE_WRITE (R66). -/
def execPortModeWrite (i : Initiator) (port : Nat) (v : Word) (s : State) : Res := runIf (port < 8) (busWrite i (PORT_MODE port) v) s

/-- DELAY_ADJ_WRITE (R75). -/
def execDelayAdjWrite (i : Initiator) (port : Nat) (tx : Bool) (v : Word) (s : State) : Res :=
  runIf (port < 8) (busWrite i (if tx then PORT_TX_DELAY_ADJ port else PORT_RX_DELAY_ADJ port) v) s

/-- PORT_CAL_RECAL (R77). -/
def execPortCalRecal (i : Initiator) (port : Nat) (s : State) : Res :=
  runIf (port < 8) (busWrite i (PORT_CAL_CTL port) (withBits 0 [(PORT_CAL_CTL_RECAL, 1)])) s

/-- PE_CTX_SNAP_GO (R116). -/
def execPeCtxSnapGo (i : Initiator) (s : State) : Res := run (busWrite i PE_CTX_SNAP (withBits 0 [(PE_CTX_SNAP_GO, 1)])) s

/-- PE_CTX_SNAP_RESUME (R117). -/
def execPeCtxSnapResume (i : Initiator) (s : State) : Res := run (busWrite i PE_CTX_SNAP (withBits 0 [(PE_CTX_SNAP_RESUME, 1)])) s

/-- TOPO_WINDOW_WRITE (R113): byte offset within the two banks. -/
def execTopoWindowWrite (i : Initiator) (off : Nat) (v : Word) (s : State) : Res :=
  runIf (off < 0x200000) (busWrite i (0x10000000 + off) v) s

/-- TOPO_SWAP_CTL_GO (R114). -/
def execTopoSwapCtlGo (i : Initiator) (gen : Bool) (s : State) : Res :=
  run (busWrite i TOPO_SWAP_CTL (withBits 0 [(TOPO_SWAP_CTL_GO, 1), (TOPO_SWAP_CTL_WITH_GEN, if gen then 1 else 0)])) s

/-- TOPO_TBL_CFG_WRITE (R109). -/
def execTopoTblCfgWrite (i : Initiator) (table gen : Nat) (v : Word) (s : State) : Res :=
  runIf (table < 64 ∧ gen < 2) (busWrite i (TOPO_TBL_CFG table gen) v) s

/-- TOPO_TBL_GEN_WRITE (R112). -/
def execTopoTblGenWrite (i : Initiator) (v : Word) (s : State) : Res := run (busWrite i TOPO_TBL_GEN v) s

/-- TABLE_STORE_WRITE (R110, R111): byte offset within the table store. -/
def execTableStoreWrite (i : Initiator) (off : Nat) (v : Word) (s : State) : Res :=
  runIf (off < 0x1800000) (busWrite i (0x20000000 + off) v) s

/-- GATE_CONFIG_WRITE (R164): 0 LEAD, 1 WINDOW, 2 SETUP, 3 SHARE. -/
def execGateConfigWrite (i : Initiator) (k : Nat) (v : Word) (s : State) : Res :=
  runIf (k < 4) (busWrite i ([GATE_LEAD, GATE_WINDOW, GATE_SETUP, GATE_SHARE][k]?.getD GATE_LEAD) v) s

/-- SVC_KEY_CTL_ROTATE (R197). -/
def execSvcKeyCtlRotate (i : Initiator) (s : State) : Res := run (busWrite i SVC_KEY_CTL (withBits 0 [(SVC_KEY_CTL_ROTATE, 1)])) s

/-- SVC_KEY_CTL_REVOKE (R197). -/
def execSvcKeyCtlRevoke (i : Initiator) (kid : Nat) (s : State) : Res :=
  run (busWrite i SVC_KEY_CTL (withBits 0 [(SVC_KEY_CTL_REVOKE, 1), (SVC_KEY_CTL_KEY_ID, kid)])) s

/-- BNU_SLOT_WORDS_WRITE (R261). -/
def execBnuSlotWordsWrite (i : Initiator) (n : Nat) (v : Word) (s : State) : Res := runIf (n < 8) (busWrite i (BNU_SLOT_WORDS n) v) s

/-- BNU_SUBMIT_GO (R265). -/
def execBnuSubmitGo (i : Initiator) (n : Nat) (s : State) : Res :=
  runIf (n < 8) (busWrite i (BNU_SUBMIT n) (withBits 0 [(BNU_SUBMIT_GO, 1)])) s

/-- BNU_ABORT_GO (R272). -/
def execBnuAbortGo (i : Initiator) (n tag : Nat) (s : State) : Res :=
  runIf (n < 8) (busWrite i (BNU_ABORT n) (withBits 0 [(BNU_ABORT_GO, 1), (BNU_ABORT_TAG, tag)])) s

/-- BNU_CTL_ABORT_ALL (R272); OWNER keeps its value. -/
def execBnuCtlAbortAll (i : Initiator) (n : Nat) (s : State) : Res :=
  runIf (n < 8) (fun a => busWrite i (BNU_CTL n) (withBits (rd a (BNU_CTL n)) [(BNU_CTL_ABORT_ALL, 1)]) a) s

/-- BNU_CTL_SELFTEST (R277); OWNER keeps its value. -/
def execBnuCtlSelftest (i : Initiator) (n : Nat) (s : State) : Res :=
  runIf (n < 8) (fun a => busWrite i (BNU_CTL n) (withBits (rd a (BNU_CTL n)) [(BNU_CTL_SELFTEST, 1)]) a) s

/-- BNU_CTL_OWNER_WRITE (R278). -/
def execBnuCtlOwnerWrite (i : Initiator) (n : Nat) (host : Bool) (s : State) : Res :=
  runIf (n < 8) (busWrite i (BNU_CTL n) (withBits 0 [(BNU_CTL_OWNER, if host then 1 else 0)])) s

/-- BNU_CPL_READ (R274). -/
def execBnuCplRead (i : Initiator) (n : Nat) (s : State) : Res := runIf (n < 8) (busRead i (BNU_CPL n)) s

/-- BNU_ES_CTL_RESTART (R280). -/
def execBnuEsCtlRestart (i : Initiator) (s : State) : Res := run (busWrite i BNU_ES_CTL (withBits 0 [(BNU_ES_CTL_RESTART, 1)])) s

/-- BNU_RAND_READ (R282). -/
def execBnuRandRead (i : Initiator) (s : State) : Res := run (busRead i BNU_RAND) s

/-- TIC_CTL_ARM (R293). -/
def execTicCtlArm (i : Initiator) (ch : Nat) (v : Word) (s : State) : Res :=
  runIf (ch < 8) (busWrite i (TIC_CH_CTL ch) (withBits v [(TIC_CH_CTL_ARM, 1)])) s

/-- TIC_CONFIG_WRITE (R293): SRC or CTL. -/
def execTicConfigWrite (i : Initiator) (ch : Nat) (src : Bool) (v : Word) (s : State) : Res :=
  runIf (ch < 8) (busWrite i (if src then TIC_CH_SRC ch else TIC_CH_CTL ch) v) s

/-- TIC_RES0_READ (R294). -/
def execTicRes0Read (i : Initiator) (ch : Nat) (s : State) : Res := runIf (ch < 8) (busRead i (TIC_CH_RES0 ch)) s

/-- GNSS_SURVEY_RESTART (R310); the other fields keep their values. -/
def execGnssSurveyRestart (i : Initiator) (s : State) : Res :=
  run (fun a => busWrite i GNSS_SURVEY (withBits (rd a GNSS_SURVEY) [(GNSS_SURVEY_RESTART, 1)]) a) s

/-- GNSS_CTL_ACCEPT (R317); the other fields keep their values. -/
def execGnssCtlAccept (i : Initiator) (s : State) : Res :=
  run (fun a => busWrite i GNSS_CTL (withBits (rd a GNSS_CTL) [(GNSS_CTL_ACCEPT, 1)]) a) s

/-- GNSS_SNAP_CTL_ARM (R313). -/
def execGnssSnapCtlArm (i : Initiator) (v : Word) (s : State) : Res :=
  run (busWrite i GNSS_SNAP_CTL (withBits v [(GNSS_SNAP_CTL_ARM, 1)])) s

/-- GNSS_SNAP_CTL_RELEASE (R313); the other fields keep their values. -/
def execGnssSnapCtlRelease (i : Initiator) (s : State) : Res :=
  run (fun a => busWrite i GNSS_SNAP_CTL (withBits (rd a GNSS_SNAP_CTL) [(GNSS_SNAP_CTL_RELEASE, 1)]) a) s

/-- REFS_CTL_WRITE (R333). -/
def execRefsCtlWrite (i : Initiator) (v : Word) (s : State) : Res := run (busWrite i REFS_CTL v) s

/-- REF_SLOT_ENABLE_WRITE (R326). -/
def execRefSlotEnableWrite (i : Initiator) (n : Nat) (v : Word) (s : State) : Res := runIf (n < 20) (busWrite i (REFS_SLOT_CFG n) v) s

/-- REFS_CMD_ACCEPT_JUMP (R337). -/
def execRefsCmdAcceptJump (i : Initiator) (n : Nat) (s : State) : Res :=
  run (busWrite i REFS_CMD (withBits 0 [(REFS_CMD_ACCEPT_JUMP, 1), (REFS_CMD_SLOT, n)])) s

/-- REFS_CMD_LOCKOUT (R341). -/
def execRefsCmdLockout (i : Initiator) (n : Nat) (s : State) : Res :=
  run (busWrite i REFS_CMD (withBits 0 [(REFS_CMD_LOCKOUT, 1), (REFS_CMD_SLOT, n)])) s

/-- REFS_CMD_UNLOCK (R341). -/
def execRefsCmdUnlock (i : Initiator) (n : Nat) (s : State) : Res :=
  run (busWrite i REFS_CMD (withBits 0 [(REFS_CMD_UNLOCK, 1), (REFS_CMD_SLOT, n)])) s

/-- OUT_CTL_ENABLE_WRITE (R363). -/
def execOutCtlEnableWrite (i : Initiator) (n : Nat) (v : Word) (s : State) : Res := runIf (n < 8) (busWrite i (OUT_CTL n) v) s

/-- TRIG_CTL_ARM (R370). -/
def execTrigCtlArm (i : Initiator) (n : Nat) (v : Word) (s : State) : Res :=
  runIf (n < 16) (busWrite i (TRIG_CTL n) (withBits v [(TRIG_CTL_ARM, 1)])) s

/-- TRIG_CTL_DISARM (R370); the other fields keep their values. -/
def execTrigCtlDisarm (i : Initiator) (n : Nat) (s : State) : Res :=
  runIf (n < 16) (fun a => busWrite i (TRIG_CTL n) (withBits (rd a (TRIG_CTL n)) [(TRIG_CTL_DISARM, 1)]) a) s

/-- PAIR_CMD_JOIN (R395). -/
def execPairCmdJoin (i : Initiator) (s : State) : Res := run (busWrite i PAIR_CMD (withBits 0 [(PAIR_CMD_JOIN, 1)])) s

/-- PAIR_CMD_YIELD (R395). -/
def execPairCmdYield (i : Initiator) (s : State) : Res := run (busWrite i PAIR_CMD (withBits 0 [(PAIR_CMD_YIELD, 1)])) s

/-- PAIR_CMD_PART (R395). -/
def execPairCmdPart (i : Initiator) (s : State) : Res := run (busWrite i PAIR_CMD (withBits 0 [(PAIR_CMD_PART, 1)])) s

/-- SYS_BIVOUAC_CTL_RELEASE (R439). -/
def execSysBivouacCtlRelease (i : Initiator) (first : Nat) (s : State) : Res :=
  run (busWrite i SYS_BIVOUAC_CTL (withBits 0 [(SYS_BIVOUAC_CTL_RELEASE, 1), (SYS_BIVOUAC_CTL_FIRST, first)])) s

/-- ECC_INJECT_ARM (R469). -/
def execEccInjectArm (i : Initiator) (v : Word) (s : State) : Res := run (busWrite i ECC_INJECT (withBits v [(ECC_INJECT_ARM, 1)])) s

/-- ECC_LOG_CLR_GO (R460). -/
def execEccLogClrGo (i : Initiator) (domain : Nat) (s : State) : Res :=
  run (busWrite i ECC_LOG_CLR (withBits 0 [(ECC_LOG_CLR_GO, 1), (ECC_LOG_CLR_DOMAIN, domain)])) s

/-- EVC_EN_WRITE (R474). -/
def execEvcEnWrite (i : Initiator) (k : Nat) (v : Word) (s : State) : Res := runIf (k < 4) (busWrite i (EVC_EN k) v) s

/-- EVC_SYNC_READ (R479). -/
def execEvcSyncRead (i : Initiator) (s : State) : Res := run (busRead i EVC_SYNC) s

/-- EVC_CLAIM_READ (R475). -/
def execEvcClaimRead (i : Initiator) (line : Nat) (s : State) : Res := runIf (line < 34) (busRead i (EVC_CLAIM line)) s

/-- EVC_COMPLETE_WRITE (R476). -/
def execEvcCompleteWrite (i : Initiator) (line id : Nat) (s : State) : Res :=
  run (busWrite i EVC_COMPLETE (withBits 0 [(EVC_COMPLETE_LINE, line), (EVC_COMPLETE_ID, id)])) s

/-- EVC_SET_GO (R481). -/
def execEvcSetGo (i : Initiator) (id : Nat) (s : State) : Res :=
  run (busWrite i EVC_SET (withBits 0 [(EVC_SET_GO, 1), (EVC_SET_ID, id)])) s

/-- EVC_SRC_CFG_WRITE (R482). -/
def execEvcSrcCfgWrite (i : Initiator) (id : Nat) (v : Word) (s : State) : Res := runIf (id < 256) (busWrite i (EVC_SRC_CFG id) v) s

/-- CNT_CTL_SNAP (R495). -/
def execCntCtlSnap (i : Initiator) (s : State) : Res := run (busWrite i CNT_CTL (withBits 0 [(CNT_CTL_SNAP, 1)])) s

end Sys2Proof.Machine
end

