-- ==== Sys2Proof/Machine/Load.lean ====
section
/-!
DEFINITION. Machine/Load.lean: the stages of a start (R424): the clocks, the journal scan (R431), the choice of a copy (R405),
firmware patches (R414), application of the legs (R412 to R417), and the way to S9 OPEN; the die sensor and the rail
monitors (R508, R515); Topo repair (R115).
-/
namespace Sys2Proof.Machine
open Sys2Proof

/-- An attempt under way stands in stage `n`. -/
def atStage (n : Nat) (s : State) : Bool :=
  decide (stage s = n) && (decide (phase s = 0) || decide (phase s = 2)) && !s.start.retryWait

/-- The next stage is entered. -/
def toStage (n : Nat) (s : State) : State := stSet SYS_START_STATUS_STAGE n s

-- S1 XO and S2 ROOT ----------------------------------------------------------------------------------------------

/-- XO frequencies of the ROM list, Hz (R424). -/
def xoList : List Nat := [10000000, 12800000, 20000000, 25000000, 40000000, 50000000, 100000000]

/-- The list value within 3 % of a measured frequency: the values lie so far apart that at most one does. -/
def xoIdentify (hz : Nat) : Option Nat := xoList.find? (fun f => decide (97 * f ≤ 100 * hz) && decide (100 * hz ≤ 103 * f))

/-- The XO oscillates or not, and its frequency against the AON clock is known (R424). -/
def s1Xo (osc : Bool) (hz : Nat) (pcie : Bool) (ms : Nat) (s : State) : State :=
  if !atStage 1 s then s
  else
    let s1 := startSet (fun x => { x with msBase := ms }) s
    if !osc then failAttempt 1 pcie s1
    else match xoIdentify hz with
      | none => failAttempt 2 pcie s1
      | some f => toStage 2 (startSet (fun x => { x with xoHz := f }) s1)

/-- The root PLL locks or not; the TSU starts at 0, UNSET (R424, R46). -/
def s2Root (lock : Bool) (ms : Nat) (s : State) : State :=
  if !atStage 2 s then s
  else
    let s1 := startSet (fun x => { x with msBase := ms, xoBase := s.tsu.xo }) s
    if !lock then failAttempt 3 false s1 else toStage 3 s1

-- S3 MEM ---------------------------------------------------------------------------------------------------------

/-- Up to `n` records, newest first. -/
def jTop : Nat → List (Nat × List Byte) → List (List Byte)
  | 0, _ => []
  | n + 1, xs =>
    match jNewest xs with
    | none => []
    | some y => y.2 :: jTop n (xs.filter (fun x => decide (jSeqOf x.2 < jSeqOf y.2)))

/-- A record's fields in the order of `jBytes`. -/
def jFields (b : List Byte) : List Nat := [leAt b 8 1, leAt b 9 1, leAt b 10 1, leAt b 11 1, leAt b 12 1, leAt b 16 8, leAt b 24 4]

/-- The newest record of given types. -/
def jLast (tys : List Nat) (xs : List (Nat × List Byte)) : Option (List Byte) :=
  (jNewest (xs.filter (fun x => tys.contains (leAt x.2 8 1)))).map (·.2)

/-- The history registers as the journal gives them. -/
def histLoad (s : State) : State :=
  (jTop 8 ((jAll s).filter (fun x => [3, 4, 5].contains (leAt x.2 8 1)))).reverse.foldl (fun a b => histPush (jSeqOf b) (jFields b) a) s

/-- The last attempt has an ATTEMPT record and no outcome (R431): one is appended, with what its newest record says. BIVOUAC and
RELEASE end an attempt as well. -/
def jLost (s : State) : State :=
  let xs := jAll s
  match jLast [1] xs, jNewest xs with
  | some a, some n =>
    if jSeqOf a ≤ (((jLast [3, 4, 5, 7, 8] xs).map jSeqOf).getD 0) then s
    else
      let f := jFields n.2
      let g := fun (i : Nat) => (f.drop i).headD 0
      let put := fun (ty cause run : Nat) (b : State) => jAppend [ty, g 1, cause, g 3, run, g 5, g 6] b
      if s.start.latchPower then put 5 0x23 s.start.latchRun s
      else if s.start.latchReset then put 5 0x21 s.start.latchRun s
      else
        let run := s.start.latchRun + 1
        put 4 0x0F (min run 255) (startSet (fun x => { x with latchRun := run }) s)
  | _, _ => s

/-- The record that the latch holds is appended (R423, R430). -/
def jPending (s : State) : State := match s.start.latchRec with | some r => jAppend r s | none => s

/-- The journal scan (R424, R430 to R432): the count is the larger of the latch's and the newest record's. A record of the
latch whose attempt had reached the journal is the outcome that R431 looks for. -/
def journalScan (s : State) : State :=
  let run := ((jNewest (jAll s)).map (fun x => leAt x.2 12 1)).getD 0
  let s1 := startSet (fun x => { x with latchRun := if x.latchRec.isSome then x.latchRun else max x.latchRun run }) (histLoad s)
  let early := match s.start.latchRec with | some r => decide ((r.drop 1).headD 0 ≤ 2) | none => false
  let s2 := if early then jPending (jLost s1) else jLost (jPending s1)
  let s3 := jAppend (jNow 1 s.start.latchCause s2) s2
  let failed := match jLast [3, 4, 5] (jAll s3) with
    | some b => if leAt b 8 1 = 4 ∧ 5 ≤ leAt b 9 1 then some (leAt b 11 1 % 2) else none
    | none => none
  prefShow (stSet SYS_START_STATUS_FAIL_RUN (min s3.start.latchRun 3)
    (startSet (fun x => { x with latchRec := none, latchPower := false, latchReset := false, failedCopy := failed }) s3))

/-- Stage S3 MEM (R424, R435). -/
def s3Mem (ok : Bool) (s : State) : State :=
  if !atStage 3 s then s
  else if !ok then failAttempt 4 false s
  else
    let s1 := journalScan s
    let s2 := if unitBit s1.variant 16 then selftestStart 0 s1 else s1
    if s2.start.bootSel = 2 then enterBivouac 2 false s2
    else if s2.start.bootSel = 3 then
      (if s2.otp.ownerHash.isEmpty then fset SYS_PHASE SYS_PHASE_PHASE 1 s2 else enterBivouac 3 false s2)
    else if 3 ≤ s2.start.latchRun then enterBivouac 1 false s2
    else aonDeliver (toStage 4 s2)

-- S4 BOOK --------------------------------------------------------------------------------------------------------

/-- Note the first failure of a verification (SYS_BOOK_FAIL). -/
def bookFailNote (c : Nat) (e : BookFail) (s : State) : State :=
  if fget s SYS_BOOK_FAIL SYS_BOOK_FAIL_STEP ≠ 0 then s
  else wr SYS_BOOK_FAIL (setF SYS_BOOK_FAIL_OFFSET e.off (setF SYS_BOOK_FAIL_LEG_TYPE e.ty (setF SYS_BOOK_FAIL_STEP e.step
    (setF SYS_BOOK_FAIL_COPY c 0)))) s

/-- A CONFIG entry (R500) about a leg or one of its records; UNIT names the unit it aims at (R6), 0 none. -/
def configNote (sev unit : Nat) (l : Leg) (i : Nat) (s : State) : State :=
  cairn unit sev 0x06 0 (leBytes 2 l.ty ++ zeros 2 ++ leBytes 4 l.off ++ leBytes 4 i ++ zeros 4) s

/-- Stage S4 BOOK goes on with copy `c` (R404, R405, R408). -/
def bookUse (c : Nat) (fallback : Bool) (s : State) : State :=
  let unowned := s.otp.ownerHash.isEmpty
  let s1 := fset SYS_BOOK_STATUS SYS_BOOK_STATUS_COPY c (fsetB SYS_BOOK_STATUS SYS_BOOK_STATUS_FALLBACK fallback
    (fsetB SYS_BOOK_STATUS SYS_BOOK_STATUS_UNOWNED unowned s))
  let s2 := wr SYS_BOOK_ID (BitVec.ofNat 64 (leNat (flashRead s (copyBase c + 16) 8))) s1
  let s3 := if unowned then cairnFault 0 sevWarning 0x08 (zeros 16) s2 else s2
  toStage 5 (startSet (fun x => { x with firstCopy := 0 }) s3)

/-- The unit that verifies the Route Book signature (R277): the lowest that has passed its self-test; none: software does. -/
def sigUnit (s : State) : Option Nat := (List.range 8).find? (fun n => bnuFitted s n && fbit s (BNU_STATUS n) BNU_STATUS_SELFTEST_PASS)

/-- A copy has come as far as its signature (R404 step 3): an ED25519_VERIFY job, LONG by its cost, has ended DONE (R276, R284). -/
def sigJob (v : Sum BookFail (List Leg)) (s : State) : State :=
  let reached := match v with | .inl e => decide (3 ≤ e.step) | .inr _ => true
  match sigUnit s with
  | some n => if reached then bump (UC_BNU n 1) 1 s else s
  | none => s

/-- Stage S4 BOOK (R277, R404, R405, R419). -/
def s4Book (s : State) : State :=
  if !atStage 4 s then s
  else
    let o := copyOrder s
    let a := o.headD 0
    let b := 1 - a
    let s0 := fset SYS_BOOK_STATUS SYS_BOOK_STATUS_ROM_VER (Config.romVersion % 2 ^ 32) s
    let va := copyVerify s0 a
    let s1 := sigJob va s0
    match va with
    | .inr _ => bookUse a false s1
    | .inl e =>
      let vb := copyVerify s0 b
      let s2 := sigJob vb (bookFailNote a e s1)
      match vb with
      | .inr _ => bookUse b true s2
      | .inl f => failAttempt (if f.step = 6 then 6 else 5) false s2

/-- The legs of the copy in use that apply, in plaintext and image order. -/
def bookLegs (s : State) : List Leg := match copyVerify s (copyUsed s) with | .inr ls => ls | .inl _ => []

/-- Legs of the copy in use that another variant's VARIANTS skips (R412). -/
def bookSkips (s : State) : Nat := match copyOpen s (copyUsed s) with | .inr ls => ls.countP (fun l => !legApplies s.variant l) | .inl _ => 0

-- S5 FIRM --------------------------------------------------------------------------------------------------------

/-- One FIRMWARE_PATCH leg (R414); none: the attempt fails. -/
def patchLeg (l : Leg) (s : State) : Option State :=
  if leAt l.body 0 4 = Config.romVersion then
    some (startSet (fun x => { x with patches := x.patches ++ [(leAt l.body 4 1, leAt l.body 8 4, l.body.drop 16)] }) s)
  else if legRequired l then none else some (configNote sevNotice 0 l 0 s)

/-- The FIRMWARE_PATCH legs in image order (R415). -/
def patchLegs : List Leg → State → Option State
  | [], s => some s
  | l :: ls, s => (patchLeg l s).bind (patchLegs ls)

/-- Stage S5 FIRM (R424, R277). -/
def s5Firm (romOk clustersOk : Bool) (s : State) : State :=
  if !atStage 5 s then s
  else if !romOk then failAttempt 8 false s
  else if !clustersOk then failAttempt 0xA false s
  else match patchLegs ((bookLegs s).filter (fun l => l.ty = 0xD0)) s with
    | none => failAttempt 9 false s
    | some s1 =>
      let s2 := forEach ([1, 2, 3, 4, 5, 6, 7].filter (fun n => unitBit s1.variant (16 + n))) selftestStart s1
      let s3 := toStage 6 s2
      jAppend (jNow 2 0 s3) s3

-- S6 LOAD --------------------------------------------------------------------------------------------------------

/-- The legs under application: the state, the cause of a failure, service addresses and upstream entries met so far. -/
structure LoadRun where
  s : State
  bad : Option Nat
  addrs : List SvcAddr
  ups : List (List Byte)
  deriving DecidableEq, Repr

/-- Go on unless the attempt has failed. -/
def loadDo (f : State → State) (x : LoadRun) : LoadRun := if x.bad.isSome then x else { x with s := f x.s }

/-- A skip of R412: Cairn entry and count. -/
def skipNote (sev unit : Nat) (l : Leg) (i : Nat) (s : State) : State :=
  configNote sev unit l i (fset SYS_BOOK_STATUS SYS_BOOK_STATUS_SKIPPED
    (satF SYS_BOOK_STATUS_SKIPPED (fget s SYS_BOOK_STATUS SYS_BOOK_STATUS_SKIPPED + 1)) s)

/-- Does the address lie in a TIC channel that belongs to firmware (R295, R417)? -/
def firmwareTic (s : State) (a : Nat) : Bool :=
  match ticAddr a with
  | some (n, _) => decide (n < 8) && !fbit s (TIC_CH_CTL n) TIC_CH_CTL_OWNER
  | none => false

/-- One settings record (R410, R412, R416, R417); a mode of R66 is never refused. -/
def loadRec (l : Leg) (i : Nat) (r : Setting) (x : LoadRun) : LoadRun :=
  if x.bad.isSome then x
  else if absentAddr x.s.variant r.addr then { x with s := skipNote sevWarning (absentUnit r.addr) l i x.s }
  else if l.ty = 0x90 ∧ firmwareTic x.s r.addr then { x with s := configNote sevNotice 0x05 l i x.s }
  else
    let v := (stored (.core 0) r.addr x.s &&& ~~~ r.mask) ||| (r.val &&& r.mask)
    if 0x100000 ≤ r.addr ∧ r.addr < 0x180000 ∧ r.addr % 0x10000 = 0 ∧ !portInert x.s r.addr then
      { x with s := portMode ((r.addr - 0x100000) / 0x10000) v x.s }
    else match regCheck (.core 0) 4 r.addr v x.s with
      | .ok => { x with s := regApply (.core 0) r.addr v x.s }
      | .silent => x
      | .refuse _ _ _ =>
        let s1 := tsuRefused r.addr x.s
        if legRequired l then { x with s := s1, bad := some 0xB } else { x with s := configNote sevNotice (unitOf r.addr) l i s1 }

/-- Records in order (R415). -/
def loadRecs (l : Leg) : Nat → List Setting → LoadRun → LoadRun
  | _, [], x => x
  | i, r :: rs, x => loadRecs l (i + 1) rs (loadRec l i r x)

/-- A whole register written for a field of a fixed part. -/
def wholeReg (a v : Nat) : Setting := ⟨a, BitVec.allOnes 64, BitVec.ofNat 64 v⟩

/-- A channel map byte (R413): an absent channel is none, with a warning (R412). -/
def chanLoad (l : Leg) (i : Nat) (f : Nat → State → State) (b : List Byte) (x : LoadRun) : LoadRun :=
  let c := leAt b i 1
  if chanAbsent x.s.variant c then loadDo (fun a => f 255 (skipNote sevWarning 0x05 l i a)) x else loadDo (f c) x

/-- Channel of a reference slot. -/
def refTic (n c : Nat) (s : State) : State := refSlSet n { refSl s n with tic := c } s

/-- Address entries (R176, R412): one that names an absent port is skipped. -/
def addrsLoad (l : Leg) (es : List (List Byte)) (x : LoadRun) : LoadRun :=
  (List.range es.length).foldl (fun y i =>
    let e := (es[i]?).getD []
    match (List.range 8).find? (fun p => (leAt e 0 1).testBit p && !unitBit y.s.variant p) with
    | some p => loadDo (skipNote sevWarning (0x10 + p) l i) y
    | none => { y with addrs := svcAdd (addrOf (decide (l.ty = 0x50)) e) y.addrs }) x

/-- A TABLES leg (R414, R415). -/
def tablesLoad (l : Leg) (x : LoadRun) : LoadRun :=
  match tablesOf l.body with
  | none => x
  | some (ds, cs) =>
    let y := loadDo (fun s => cs.foldl (fun a c => putMem (tblBase + c.1) c.2 a) s) x
    (List.range ds.length).foldl (fun z i =>
      let d := (ds[i]?).getD []
      let n := leAt d 0 1
      let g := leAt d 1 1
      loadRecs l i [wholeReg (TOPO_TBL_BASE n g) (leAt d 16 8), wholeReg (TOPO_TBL_DEFAULT n g) (leAt d 24 8),
        wholeReg (TOPO_TBL_CFG n g) (leAt d 8 8)] z) y

/-- Fixed part and entries of a leg (R411, R413), before its settings. -/
def fixedLoad (l : Leg) (b : LegBody) (x : LoadRun) : LoadRun :=
  match l.ty with
  | 0x01 => loadDo (deviceLoad b.fixed) x
  | 0x10 =>
    if leAt b.fixed 0 4 ≠ x.s.start.xoHz then { x with bad := some 0xC }
    else loadRecs l 0 [wholeReg TSU_INC_NOM (leAt b.fixed 8 8), wholeReg TIC_AGE_RATE (leAt b.fixed 16 4),
      wholeReg TIC_AGE_EPOCH (leAt b.fixed 24 8)] x
  | 0x40 | 0x50 => addrsLoad l b.entries x
  | 0x41 => loadDo (fun s => { s with svc := { s.svc with root := b.fixed } }) x
  | 0x42 => loadDo (fun s => identsSet (serverOf b) (identsOf s b) s) x
  | 0x60 =>
    let y := (List.range 10).foldl (fun z i => chanLoad l i (refTic (if i < 8 then i else i + 10)) b.fixed z) x
    { y with ups := b.entries }
  | 0x62 =>
    let f := fun (o : Nat) => leAt b.fixed o 4
    loadRecs l 0 [wholeReg SERVO_OSC_Y (f 0 + f 4 * 2 ^ 32), wholeReg SERVO_OSC_AGE (f 8 + f 12 * 2 ^ 32),
      wholeReg SERVO_OSC_NOISE (f 16 + f 20 * 2 ^ 32),
      ⟨SERVO_CFG, maskF SERVO_CFG_FREQ_UNC, setF SERVO_CFG_FREQ_UNC (f 24) 0⟩] x
  | 0x70 => (List.range 8).foldl (fun z i => chanLoad l i (fun c s => outSet i { outOf s i with tic := c } s) b.fixed z) x
  | 0x80 =>
    loadDo (fun s => gnssSet (fun g => { g with script := b.entries })
      (forEach [0, 1, 2] (fun k a => wr (GNSS_POS k) (BitVec.ofNat 64 (leAt b.fixed (8 * k) 8)) a) s)) x
  | 0xA0 => loadDo (keysLoad b.entries) x
  | 0xB0 => chanLoad l 32 (fun c s => pairSet (fun p => { p with key := b.fixed.take 32, tic := c }) s) b.fixed x
  | _ => x

/-- One leg (R412, R415). -/
def legLoad (l : Leg) (x : LoadRun) : LoadRun :=
  if x.bad.isSome then x
  else if !legTypes.contains l.ty then { x with s := skipNote sevNotice 0 l 0 x.s }
  else if legAbsent x.s.variant l then { x with s := skipNote sevWarning (if l.ty = 0x80 then 0x06 else 0x40) l 0 x.s }
  else if l.ty = 0x30 then
    (match topoOf l.body with
     | some (bank, first, _) => { x with s := putMem (pitchAddr bank first) (l.body.drop 16) x.s }
     | none => x)
  else if l.ty = 0x31 then tablesLoad l x
  else match bodyOf l.ty l.body with
    | none => x
    | some b => loadRecs l 0 b.recs (fixedLoad l b x)

/-- Insert a leg before the legs of a higher type: legs of one type keep their order. -/
def legInsert (l : Leg) : List Leg → List Leg
  | [] => [l]
  | m :: ms => if m.ty < l.ty then m :: legInsert l ms else l :: m :: ms

/-- The legs of stage S6 LOAD in the order of R415. -/
def legSort (ls : List Leg) : List Leg := ls.foldr legInsert []

/-- The ROM pattern of the drop Topo (R414): Pitches 0 to 10 are each a DROP with reason UNSPECIFIED. -/
def dropPitch (i : Nat) : List Byte := if i < 11 then leBytes 32 (0x1B * 2 ^ 248) else zeros 32

/-- Bank 0 holds the drop Topo. -/
def dropTopo (s : State) : State := forEach (List.range 11) (fun i a => putMem (pitchAddr 0 i) (dropPitch i) a) s

/-- The banks that the TOPO legs fill with the stock Topo, one bit each (R414; DESIGN CHOICE, log entry 169: which image that is, the spec does
not say). -/
def stockBanks (ls : List Leg) : Nat :=
  [0, 1].foldl (fun m b =>
    let xs := ls.filterMap (fun l => if l.ty = 0x30 then match topoOf l.body with
      | some (bank, first, _) => if bank = b then some (first, l.body) else none
      | none => none
    else none)
    if !xs.isEmpty && Config.stockTopo xs then m + 2 ^ b else m) 0

/-- Ownership of the TIC channels (R295, R417). -/
def ticOwners (ls : List Leg) (s : State) : State :=
  let m := mapChannels ls
  forEach ((List.range 8).filter (fun c => unitBit s.variant (24 + c)))
    (fun c a => fsetB (TIC_CH_CTL c) TIC_CH_CTL_OWNER (!(m.1.contains c || m.2.contains c)) a) s

/-- Trust anchors of an upstream entry (R413): each a length of 4 bytes and its DER data. -/
def anchorList : Nat → List Byte → List (List Byte)
  | 0, _ => []
  | k + 1, b => slice b 4 (leAt b 0 4) :: anchorList k (b.drop (4 + leAt b 0 4))

/-- Bindings of REF9 to REF16 with what NTS-KE needs of the upstream entry (R321, R339): a PTP slot needs an upstream entry only under G.8275.2 (R251). -/
def slotBind (ups : List (List Byte)) (n : Nat) (s : State) : State :=
  let a := REFS_SLOT_INPUT n
  let sig := fget s a REFS_SLOT_INPUT_SIGNAL
  let e := ((ups[fget s a REFS_SLOT_INPUT_UPSTREAM]?).getD [])
  let named := sig ≠ 0 && leAt e 4 1 = sig
  let free := sig = 1 && ptpProfile s (fget s a REFS_SLOT_INPUT_INSTANCE) ≠ 4
  let v6 := decide (leAt e 5 1 = 6)
  let n16 := leAt e 7 1
  refSlSet n { refSl s n with bound := named || free } (ntsSet n { ntsOf s n with name := if named then slice e 24 n16 else [],
                                                                                  anchors := if named then anchorList (leAt e 6 1) (e.drop (24 + n16)) else [] }
    { s with refUp := mapSet (fun _ => none) n (if named then some (v6, if v6 then beAt e 8 16 else beAt e 8 4) else none) s.refUp })

/-- Firmware's own set-up once the legs are applied: history rings, GNSS position and power, secrets and the seeds of the sketch (R200). -/
def loadFinish (x : LoadRun) (s : State) : State :=
  let s1 := forEach [9, 10, 11, 12, 13, 14, 15, 16] (slotBind x.ups) (clockIdSet s)
  let s2 := fset SERVO_HIST SERVO_HIST_BASE 0xE00000 (fset GNSS_NAV_RING GNSS_NAV_RING_BASE 0xE80000 s1)
  let s3 := if fget s2 GNSS_SURVEY GNSS_SURVEY_MODE = 1 then s2 else forEach [0, 1, 2] (fun k a => wr (GNSS_POS k) 0 a) s2
  let s4 := gnssSet (fun g => { g with power := gnssFitted s3 }) s3
  let d := drawBytes 32 s4
  let q := (List.range 4).foldl (fun (a : List Nat × State) _ => let r := draw 32 a.2; (a.1 ++ [r.1], r.2)) ([], d.2)
  { q.2 with ke := { q.2.ke with secret := d.1 }, svc := { q.2.svc with seeds := q.1 } }

/-- Stage S6 LOAD (R415 to R417, R177), and calibration of the enabled ports as stage S7 LANES begins. -/
def s6Load (s : State) : State :=
  if !atStage 6 s then s
  else
    let ls := legSort ((bookLegs s).filter (fun l => l.ty ≠ 0xD0))
    let s0 := fset SYS_BOOK_STATUS SYS_BOOK_STATUS_SKIPPED (satF SYS_BOOK_STATUS_SKIPPED (bookSkips s))
      (ticOwners ls { s with pe := { s.pe with bankWritten := 0, stock := 0 } })
    let x := ls.foldl (fun y l => legLoad l y) { s := s0, bad := none, addrs := [], ups := [] }
    match x.bad with
    | some c => failAttempt c false x.s
    | none =>
      let s1 : State := if ls.any (fun l => l.ty = 0x30) then { x.s with pe := { x.s.pe with stock := stockBanks ls } } else dropTopo x.s
      match svcSetAddrs x.addrs (loadFinish x s1) with
      | none => failAttempt 0xD false s1
      | some s2 =>
        forEach ((List.range 8).filter (fun p => portLive s2 p && fbit s2 (PORT_MODE p) PORT_MODE_ENABLE && groupMode s2 p != 0)) portUp
          (localLoadAll (toStage 7 s2))

-- S7 LANES to S9 OPEN --------------------------------------------------------------------------------------------

/-- Stage S8 TIME: reference slots enabled (R424), and the survey (R310). -/
def s8Time (s : State) : State :=
  let s1 := forEach ((List.range 20).filter (fun n => fbit s (REFS_SLOT_CFG n) REFS_SLOT_CFG_ENABLE)) (fun n a => slotEnable n true a)
    (toStage 8 s)
  let s2 := if !gnssFitted s1 then s1
    else if fget s1 GNSS_SURVEY GNSS_SURVEY_MODE = 1 then gnssShow (gnssSet (fun g => { g with timeOnly := true }) s1) else surveyStart s1
  select s2

/-- Stage S9 OPEN (R15, R376, R424, R433): TBL5, TBL6 and the empty TBL9 come into being (R234). -/
def s9Open (s : State) : State :=
  let s1 := setPhase 3 (toStage 9 ((stockCommit (ptpTables s ++ [(9, [])]) s).getD s))
  let s2 := jAppend (jNow 2 0 s1) s1
  let s3 := stSet SYS_START_STATUS_S9_MS (satF SYS_START_STATUS_S9_MS (attemptMs s2)) (startSet (fun x => { x with openXo := s2.tsu.xo }) s2)
  let s4 := fsetB TOPO_BANK TOPO_BANK_REPAIRABLE0 (!s3.pe.bankWritten.testBit 0)
    (fsetB TOPO_BANK TOPO_BANK_REPAIRABLE1 (!s3.pe.bankWritten.testBit 1) s3)
  let s5 : State := forEach (relayInert s4) (fun k => cairnState 0x40 sevNotice k 0 0 0x31 0) { s4 with pe := { s4.pe with seq := 1 } }
  pairOpen (svcLevels (portsRefresh s5))

/-- Stage S7 LANES ends once every enabled port's transmit side is calibrated (R424, R79); a group left DISABLED has no port (R64, R66). -/
def s7Lanes (s : State) : State :=
  if !atStage 7 s then s
  else if (List.range 8).any (fun p => portLive s p && fbit s (PORT_MODE p) PORT_MODE_ENABLE
      && groupMode s p != 0 && !fbit s (PORT_STATUS p) PORT_STATUS_TX_CAL_VALID) then s
  else s9Open (s8Time s)

/-- A calibration side fails (R79): a transmit side in stage S7 LANES fails the attempt. -/
def calFailed (l : Nat) (tx : Bool) (s : State) : State :=
  let busy := calRuns s l tx
  let s1 := calFail l tx s
  if !busy then s
  else if tx ∧ atStage 7 s then failAttempt 0xE false s1
  else if tx ∧ s.start.rest = 3 then
    cairn 0 sevError 0x05 0x24 (leBytes 1 0xFF ++ leBytes 1 (copyUsed s) ++ zeros 6 ++ leBytes 8 (rd s SYS_BOOK_ID).toNat) s1
  else s1

/-- A measurement of a calibration step (R78, R79): accepted, repeated, or rejected for the third time. -/
def calMeasured (l : Nat) (tx : Bool) (meas : List Int) (slip tcw am : Nat) (s : State) : State :=
  let x := portOf s l
  if !calRuns s l tx then s
  else if calOk tx meas then calDone l tx (calLat s l tx meas slip) tcw am s
  else if 2 ≤ (if tx then x.txRej else x.rxRej) then calFailed l tx s
  else calReject l tx s

-- Topo repair ----------------------------------------------------------------------------------------------------

/-- A Pitch as the Route Book copy in use has it (R115, R414). -/
def bookPitch (s : State) (bank i : Nat) : List Byte :=
  let ls := (bookLegs s).filter (fun l => l.ty = 0x30)
  if ls.isEmpty then (if bank = 0 then dropPitch i else zeros 32)
  else match ls.findSome? (fun l => match topoOf l.body with
      | some (b, f, n) => if b = bank ∧ f ≤ i ∧ i < f + n then some (slice l.body (16 + 32 * (i - f)) 32) else none
      | none => none) with
    | some p => p
    | none => zeros 32

/-- A Pitch with an uncorrectable error in a REPAIRABLE bank is rewritten from the copy (R115). -/
def topoRepair (bank i : Nat) (s : State) : State :=
  let rep := fbit s TOPO_BANK (if bank = 0 then TOPO_BANK_REPAIRABLE0 else TOPO_BANK_REPAIRABLE1)
  let a := pitchAddr bank i
  let bad := (eccSpan a 32).any (fun w => match eccWord w with | some (d, k) => eccUe (eccBad s d k) | none => false)
  if !rep || !bad then s else occur EV_ECC_TOPO_REPAIR (putMem a (bookPitch s bank i) s)

-- Sensors --------------------------------------------------------------------------------------------------------

/-- A reading of the die sensor in units of 0.125 °C (R515). -/
def tempReading (t : Int) (s : State) : State :=
  let old := rd s SYS_TEMP
  let warn := if getF SYS_TEMP_WARN old = 0 then decide (800 < t) else decide (776 < t)
  let crit := if getF SYS_TEMP_CRIT old = 0 then decide (880 < t) else decide (856 < t)
  let mx := max (sgn 16 (getF SYS_TEMP_MAX old)) t
  let v := setF SYS_TEMP_TEMP (unsgn 16 t) (setF SYS_TEMP_MAX (unsgn 16 mx) (setF SYS_TEMP_WARN (if warn then 1 else 0)
    (setF SYS_TEMP_CRIT (if crit then 1 else 0) old)))
  setLevel EV_SYS_TEMP_CRIT crit (setLevel EV_SYS_TEMP_WARN warn (wr SYS_TEMP v s))

/-- A monitored rail is outside or again inside its operating range (R508, SYS_RAIL). -/
def railChange (r : Nat) (out : Bool) (s : State) : State :=
  let o := fget s SYS_RAIL SYS_RAIL_OUT
  let n := if out then o ||| 2 ^ r else (o ||| 2 ^ r) ^^^ 2 ^ r
  let s1 := fset SYS_RAIL SYS_RAIL_OUT n (fset SYS_RAIL SYS_RAIL_SEEN (fget s SYS_RAIL SYS_RAIL_SEEN ||| n) s)
  setLevel EV_SYS_RAIL_WARN (decide (n ≠ 0)) s1

-- Meanings -------------------------------------------------------------------------------------------------------

/-- S1_XO (R424): whether the XO oscillates, its frequency in Hz, whether the PCIe reference clock is present (R436), ms since the origin. -/
def execS1Xo (osc : Bool) (hz : Nat) (pcie : Bool) (ms : Nat) (s : State) : Res := run (s1Xo osc hz pcie ms) s

/-- S2_ROOT (R424). -/
def execS2Root (lock : Bool) (ms : Nat) (s : State) : Res := run (s2Root lock ms) s

/-- S3_MEM (R424). -/
def execS3Mem (ok : Bool) (s : State) : Res := run (s3Mem ok) s

/-- S4_BOOK (R404). -/
def execS4Book (s : State) : Res := run s4Book s

/-- S5_FIRM (R415). -/
def execS5Firm (romOk clustersOk : Bool) (s : State) : Res := run (s5Firm romOk clustersOk) s

/-- S6_LOAD (R415). -/
def execS6Load (s : State) : Res := run s6Load s

/-- S7_LANES (R424). -/
def execS7Lanes (s : State) : Res := run (withAnnounce s7Lanes) s

/-- CAL_SIDE_FAIL (R79). -/
def execCalSideFail (lane : Nat) (tx : Bool) (s : State) : Res := run (calFailed lane tx) s

/-- CAL_SIDE_COMPLETE (R78): the 256 results in ps, and for the receive side the bit-slip position. -/
def execCalSideComplete (lane : Nat) (tx : Bool) (lat : LaneMeasure) (tcw am : Nat) (s : State) : Res :=
  run (withAnnounce (calMeasured lane tx lat.phases lat.slip tcw am)) s

/-- TOPO_REPAIR (R115). -/
def execTopoRepair (bank index : Nat) (s : State) : Res := runIf (bank < 2 ∧ index < 32768) (topoRepair bank index) s

/-- TEMP_CROSSING (R515): the sensor works in reset as well. -/
def execTempCrossing (temp : Int) (s : State) : Res := .next (tempReading temp s)

/-- RAIL_EXCURSION (R508). -/
def execRailExcursion (rail : Nat) (s : State) : Res := .next (if rail < 8 then railChange rail true s else s)

/-- RAIL_RETURN (R508). -/
def execRailReturn (rail : Nat) (s : State) : Res := .next (if rail < 8 then railChange rail false s else s)

end Sys2Proof.Machine
end

