-- ==== Sys2Proof/Machine/Stock.lean ====
section
/-!
DEFINITION. Machine/Stock.lean: the stock Topos and DISPATCH. The stock Topos are programs that a Route Book loads (R414), and the chapters on
NTP, NTS-KE and PTP give them as behaviour, not as Pitches: what they do with a frame and which messages they build (R178 to R193, R198, R200,
R202 to R204, R206, R209, R230 to R244, R248, R253, R254). A run of a bank that holds the stock Topo is carried out by the command that
dispatches it, from its first test to its disposition; it takes no time and counts no Pitches (DESIGN CHOICE, log entry 169). A run of any
other bank goes on Pitch by Pitch.
-/
namespace Sys2Proof.Machine
open Sys2Proof

/-- What a stock Topo does with a received frame. -/
inductive StockAct where
  /-- DROP with a reason of R153. -/
  | drop (rsn : Nat)
  /-- PUNT to a ring. -/
  | punt (ring : Nat)
  /-- RELAY out of a port: with CORR or not, and what is first added to correctionField, 2^-16 ns (R253). -/
  | relay (port : Nat) (corr : Bool) (add : Int)
  /-- A Delay_Resp or Pdelay_Resp is built in the run (R242, R243). -/
  | delayResp (inst : Nat)
  | pdelayResp
  /-- A request that passes tests 1 to 9 of R178: the NTP and NTS paths go on with it. -/
  | ntp
  /-- The responders of R202 to R204. -/
  | arpReply
  | advertise
  | echoReply
  deriving DecidableEq, Repr

-- The frame ------------------------------------------------------------------------------------------------------

/-- Fields of the descriptor (R92). -/
def stockErr (x : Punt) : Nat := leAt x.desc 25 1
def stockTags (x : Punt) : Nat := leAt x.desc 26 1
def stockL3 (x : Punt) : Nat := leAt x.desc 27 1
def stockL4 (x : Punt) : Nat := leAt x.desc 28 2
def stockType (x : Punt) : Nat := leAt x.desc 30 2

/-- Bytes of the frame without FCS. -/
def stockLen (x : Punt) : Nat := leAt x.desc 20 2 - 4

/-- Bytes of the IP payload, by the IP header. -/
def ipPayload (x : Punt) : Nat :=
  if stockType x = 0x0800 then beAt x.frame (stockL3 x + 2) 2 - 20 else beAt x.frame (stockL3 x + 4) 2

/-- IP protocol or next header. -/
def ipProto (x : Punt) : Nat := if stockType x = 0x0800 then beAt x.frame (stockL3 x + 9) 1 else beAt x.frame (stockL3 x + 6) 1

/-- Where the IP payload begins. -/
def ipBody (x : Punt) : Nat := stockL3 x + if stockType x = 0x0800 then 20 else 40

/-- A lookup in the live copy of a stock table (R133): its result words, if it hits. -/
def stockLook (s : State) (n key : Nat) : Option (List Nat) :=
  let r := tblLookup s n ((rd s TOPO_TBL_GEN).toNat / 2 ^ n % 2) key
  if r.1 then some r.2 else none

/-- Key of an address in its service table, and the table (R175, R234). -/
def svcKey (x : Punt) (ptp v6 : Bool) (addr : Nat) : Nat × Nat :=
  if v6 then (if ptp then 8 else 3, addr) else (if ptp then 7 else 2, puntPort x * 2 ^ 32 + addr % 2 ^ 32)

/-- Result word 0 of a service address that the receiving port serves (R175, R176, R234). -/
def svcLook (s : State) (x : Punt) (ptp v6 : Bool) (addr : Nat) : Option Nat :=
  let k := svcKey x ptp v6 addr
  match stockLook s k.1 k.2 with
  | some (w :: m :: _) => if !v6 || m.testBit (puntPort x) then some w else none
  | some [w] => some w
  | _ => none

/-- Is a service address of NTP or of PTP served on the receiving port? -/
def svcAt (s : State) (x : Punt) (ptp v6 : Bool) (addr : Nat) : Bool := (svcLook s x ptp v6 addr).isSome

/-- Is a bit of an NTP service address's word set (R176)? -/
def svcBit (s : State) (x : Punt) (v6 : Bool) (addr i : Nat) : Bool :=
  match svcLook s x false v6 addr with
  | some w => w.testBit i
  | none => false

/-- An address for which ARP and ND are answered; PTP addresses only by the serving twin (R202, R203, R254). -/
def ownAddr (s : State) (x : Punt) (v6 : Bool) (addr : Nat) : Bool :=
  svcAt s x false v6 addr || (svcAt s x true v6 addr && ptpServes s)

-- Acceptance -----------------------------------------------------------------------------------------------------

/-- Tests 1 to 5 of R178: the drop reason of the first that fails. Of IPv6 only TCP, UDP and ICMPv6 come without an extension header. -/
def ipFails (x : Punt) : Option Nat :=
  let l3 := stockL3 x
  let et := stockType x
  if stockErr x ≠ 0 then some 0x10
  else if 2 < stockTags x ∨ (et ≠ 0x0800 ∧ et ≠ 0x86DD ∧ et ≠ 0x0806) then some 0x11
  else if et = 0x0806 then none
  else if et = 0x0800 ∧ beAt x.frame l3 1 ≠ 0x45 then some 0x12
  else if et = 0x86DD ∧ stockL4 x = 0xFFFF ∧ ipProto x ≠ 58 then some 0x17
  else if et = 0x0800 ∧ beAt x.frame (l3 + 6) 2 % 0x4000 ≠ 0 then some 0x13
  else if stockLen x < ipBody x + ipPayload x then some 0x14
  else none

/-- ARP (R202): a request for an IPv4 service address of the port. -/
def arpAct (s : State) (x : Punt) : StockAct :=
  let l3 := stockL3 x
  if beAt x.frame l3 8 = 0x0001080006040001 ∧ ownAddr s x false (beAt x.frame (l3 + 24) 4) then .arpReply else .drop 0x28

/-- Does the address answer echo requests (R176, R204)? -/
def echoOn (s : State) (x : Punt) (v6 : Bool) (addr : Nat) : Bool := svcBit s x v6 addr 13

/-- Source address of an IP frame. -/
def ipSrc (x : Punt) : Nat := match puntSrc x with | some a => a.2 | none => 0

/-- ICMP and ICMPv6 with Neighbor Discovery (R203, R204); an echo request over its rate is dropped with ECHO_RATE besides (R200). -/
def icmpAct (s : State) (x : Punt) : StockAct :=
  let o := ipBody x
  let ty := beAt x.frame o 1
  if stockType x = 0x0800 then (if ty = 8 ∧ echoOn s x false (puntDst x) then .echoReply else .drop 0x2A)
  else if 133 ≤ ty ∧ ty ≤ 137 then
    let sum := onesSum (pseudoHead false (ipSrc x) (puntDst x) (ipPayload x) 58 ++ slice x.frame o (ipPayload x)) 0
    if ty = 135 ∧ beAt x.frame (stockL3 x + 7) 1 = 255 ∧ sum = 65535 ∧ ownAddr s x true (beAt x.frame (o + 8) 16) then .advertise
    else .drop 0x29
  else if ty = 128 ∧ echoOn s x true (puntDst x) then .echoReply
  else .drop 0x2A

/-- The punt ring of a TCP connection: bit 0 of the CRC-32C of its addresses and ports chooses between 1 and 2; the GT9820 has ring 1
only (R209, R529). The order of the bytes is the model's (DESIGN CHOICE, log entry 136). -/
def keRing (s : State) (x : Punt) : Nat :=
  let w := if stockType x = 0x0800 then 4 else 16
  if !unitBit s.variant 34 then 1
  else 1 + crc32c 0xFFFFFFFF (beBytes w (ipSrc x) ++ beBytes w (puntDst x) ++ slice x.frame (stockL4 x) 4) % 2

/-- TCP (R208, R209). -/
def tcpAct (s : State) (x : Punt) : StockAct :=
  let v6 := decide (stockType x = 0x86DD)
  if !svcAt s x false v6 (puntDst x) then .drop 0x16
  else if ntsFitted s && svcBit s x v6 (puntDst x) 11 && decide (beAt x.frame (stockL4 x + 2) 2 = kePort s) then .punt (keRing s x)
  else .drop 0x17

/-- UDP that is not PTP: tests 6 to 9 of R178. -/
def ntpAct (s : State) (x : Punt) : StockAct :=
  let n := beAt x.frame (stockL4 x + 4) 2
  let b := beAt x.frame (stockL4 x + 8) 1
  if n < 56 ∨ ipPayload x < n then .drop 0x15
  else if !svcAt s x false (decide (stockType x = 0x86DD)) (puntDst x) then .drop 0x16
  else if b % 8 ≠ 3 then .drop 0x18
  else if b / 8 % 8 ≠ 3 ∧ b / 8 % 8 ≠ 4 then .drop 0x19
  else .ntp

-- PTP ------------------------------------------------------------------------------------------------------------

/-- A UDP frame to a PTP port, or PTP over Ethernet (R33, R233). -/
def isPtp (x : Punt) : Bool :=
  decide (stockType x = 0x88F7) || (decide (stockL4 x ≠ 0xFFFF) && decide (ipProto x = 17)
    && [319, 320].contains (beAt x.frame (stockL4 x + 2) 2))

/-- The multicast addresses of PTP as IP addresses (R229). -/
def ptpMulticast : List (Bool × Nat) :=
  [(false, 0xE0000181), (false, 0xE000006B), (true, 0xFF0E * 2 ^ 112 + 0x181), (true, 0xFF02 * 2 ^ 112 + 0x6B)]

/-- Was the message sent to a group? -/
def ptpGrouped (x : Punt) : Bool :=
  if stockType x = 0x88F7 then beAt x.frame 0 1 % 2 = 1
  else ptpMulticast.contains (decide (stockType x = 0x86DD), puntDst x)

/-- Has the frame a destination of PTP on its port (test 2 of R233)? On a DISABLED port, which has no groups of its own, any PTP group is one:
R231 drops its frames with PTP_ROLE. -/
def ptpAddressed (s : State) (x : Punt) : Bool :=
  let p := puntPort x
  let mac := beAt x.frame 0 6
  if ptpGrouped x then decide (ptpRole s p = 0) || (ptpGroups s p).contains mac
  else if stockType x = 0x88F7 then decide (mac = fget s (PORT_MAC_ADDR p) PORT_MAC_ADDR_ADDR)
  else svcAt s x true (decide (stockType x = 0x86DD)) (puntDst x)

/-- Bytes of the PTP payload. -/
def ptpRoom (x : Punt) : Nat :=
  if stockType x = 0x88F7 then stockLen x - stockL3 x else beAt x.frame (stockL4 x + 4) 2 - 8

/-- The bytes after the frame's headers, padding included. -/
def ptpBytes (x : Punt) : List Byte := x.frame.drop (if stockType x = 0x88F7 then stockL3 x else stockL4 x + 8)

/-- Least messageLength of a known messageType; R233 states none for Management (test 5). -/
def ptpLeast (ty : Nat) : Option Nat :=
  match ty with
  | 0x0 | 0x1 | 0x8 | 0xC => some 44
  | 0x9 | 0x2 | 0x3 | 0xA => some 54
  | 0xB => some 64
  | 0xD => some 0
  | _ => none

/-- Tests 1 to 5 of R233: the drop reason of the first that fails. -/
def ptpFails (s : State) (x : Punt) : Option Nat :=
  let m := ptpBytes x
  let l2 := decide (stockType x = 0x88F7)
  if stockErr x ≠ 0 then some 0x10
  else if l2 && !ptpAddressed s x then some 0x16
  else match (if l2 then none else ipFails x) with
    | some r => some r
    | none =>
      if !l2 && decide (ipPayload x < beAt x.frame (stockL4 x + 4) 2) then some 0x15
      else if !l2 && !ptpAddressed s x then some 0x16
      else if beAt m 1 1 % 16 ≠ 2 then some 0x24
      else if ptpRoom x < beAt m 2 2 then some 0x20
      else match ptpLeast (ptpMsgType m) with
        | none => some 0x21
        | some n => if beAt m 2 2 < n then some 0x21 else none

/-- Does a profile use the frame's transport (R229, test 6 of R233)? -/
def ptpCarries (s : State) (x : Punt) (k : Nat) : Bool :=
  let on := fbit s (PTP_PORT (puntPort x))
    (if stockType x = 0x88F7 then PTP_PORT_L2 else if stockType x = 0x0800 then PTP_PORT_IPV4 else PTP_PORT_IPV6)
  match ptpProfile s k with
  | 1 | 2 => on
  | 3 => on && decide (stockType x = 0x88F7) && ptpGrouped x
  | 4 => on && decide (stockType x ≠ 0x88F7) && !ptpGrouped x
  | _ => false

/-- The instance of an accepted message (test 6 of R233). -/
def ptpInst (s : State) (x : Punt) : Option Nat :=
  (List.range 4).find? (fun k => onPort s k (puntPort x) && ptpCarries s x k
    && fget s (PTP_DOM k) PTP_DOM_DOMAIN == beAt (ptpBytes x) 4 1)

/-- TBL_GRANT's word for the requester (R234). -/
def grantLook (s : State) (x : Punt) : Option Nat :=
  match (puntSrc x).bind (fun a => stockLook s 9 (grantAddr a)) with
  | some (w :: _) => some w
  | _ => none

/-- The requester holds a Delay_Resp grant on the port (test 8 of R233). -/
def ptpGranted (s : State) (x : Punt) : Bool :=
  match grantLook s x with
  | some w => w.testBit 10 && decide (w % 8 = puntPort x)
  | none => false

/-- May the device answer event requests of an instance on a port (R232, R254)? SLAVE_REF ports answer in every role. -/
def ptpAnswers (s : State) (x : Punt) (k : Nat) : Bool :=
  !instHeld s k && (ptpServes s || decide (ptpRole s (puntPort x) = 3))

/-- What a port does with a message of an instance (R231, R232, R235, R254). -/
def roleAct (s : State) (x : Punt) (k : Nat) : StockAct :=
  let p := puntPort x
  let role := ptpRole s p
  let p2p := decide (ptpProfile s k = 2)
  let no := StockAct.drop 0x25
  match ptpMsgType (ptpBytes x) with
  | 0xB | 0xC => .punt 3
  | 0x0 => if role = 3 then .punt 4 else no
  | 0x1 =>
    if p2p || !isMaster s p k || !ptpAnswers s x k then no
    else if ptpProfile s k = 4 ∧ !ptpGranted s x then .drop 0x22
    else .delayResp k
  | 0x2 => if p2p && (role == 3 || isMaster s p k) && ptpAnswers s x k then .pdelayResp else no
  | 0x3 => if p2p && (role == 3 || (isMaster s p k && ptpServes s)) then .punt 4 else no
  | 0x8 | 0x9 => if role = 3 then .punt 3 else no
  | 0xA => if p2p && (role == 3 || isMaster s p k) then .punt 3 else no
  | _ => no

/-- meanLinkDelay of a port as TBL_LINKDLY holds it (R234). -/
def linkLook (s : State) (p : Nat) : Int :=
  match stockLook s 6 p with
  | some (w :: _) => sgn 64 w
  | _ => 0

/-- What a port of a relay pair does with a message (R235, R253). A device that does not serve PTP drops event messages and punts Announce and
Signaling (R254). -/
def relayAct (s : State) (p q : Nat) (p2p : Bool) (ty : Nat) : StockAct :=
  if !ptpServes s ∧ ty ≤ 3 then .drop 0x25
  else if !ptpServes s ∧ (ty = 0xB ∨ ty = 0xC) then .punt 3
  else match ty with
  | 0x0 => .relay q true (if p2p then linkLook s p else 0)
  | 0x1 => if p2p then .drop 0x25 else .relay q true 0
  | 0x2 => if p2p then .pdelayResp else .relay q true 0
  | 0x3 => if p2p then .punt 4 else .relay q true 0
  | 0x9 => if p2p then .drop 0x25 else .relay q false 0
  | 0xA => if p2p then .punt 3 else .relay q false 0
  | _ => .relay q false 0

/-- The stock PTP Topo (R233, R235): PTP_CTL.ENABLE = 0 drops all but relayed frames. -/
def ptpAct (s : State) (x : Punt) : StockAct :=
  match ptpFails s x with
  | some r => .drop r
  | none =>
    match relayPair s (puntPort x) with
    | some (q, p2p) => relayAct s (puntPort x) q p2p (ptpMsgType (ptpBytes x))
    | none =>
      if !fbit s PTP_CTL PTP_CTL_ENABLE ∨ ptpRole s (puntPort x) = 0 then .drop 0x25
      else match ptpInst s x with
        | none => .drop 0x23
        | some k => if ptpRole s (puntPort x) = 4 then .drop 0x25 else roleAct s x k

/-- What the stock Topos do with a frame of a port Trailhead. -/
def stockAct (s : State) (x : Punt) : StockAct :=
  if isPtp x then ptpAct s x
  else match ipFails x with
    | some r => .drop r
    | none =>
      if stockType x = 0x0806 then arpAct s x
      else if ipProto x = 17 ∧ stockL4 x ≠ 0xFFFF then ntpAct s x
      else if ipProto x = 6 ∧ stockL4 x ≠ 0xFFFF then tcpAct s x
      else if (stockType x = 0x0800 ∧ ipProto x = 1) ∨ (stockType x = 0x86DD ∧ ipProto x = 58) then icmpAct s x
      else .drop 0x17

-- Messages -------------------------------------------------------------------------------------------------------

/-- A PTP80 timestamp (R61). -/
def ptp80 (t : Nat) : List Byte := beBytes 6 (ptpSec t) ++ beBytes 4 (gtNs t)

/-- correctionField of eight bytes, which saturates. -/
def corrBytes (c : Int) : List Byte := beBytes 8 (unsgn 64 (satI 64 c))

/-- The header every message begins with: flagField is two bytes, `p` the port it leaves by (R230). -/
def ptpHead (s : State) (ty n dom p flag0 flag1 : Nat) (corr : Int) (seq ctl log : Nat) : List Byte :=
  [BitVec.ofNat 8 ty, 0x02] ++ beBytes 2 n ++ [BitVec.ofNat 8 dom, 0, BitVec.ofNat 8 flag0, BitVec.ofNat 8 flag1] ++ corrBytes corr
    ++ zeros 4 ++ portIdentity s p ++ beBytes 2 seq ++ [BitVec.ofNat 8 ctl, BitVec.ofNat 8 log]

/-- Flags and fields of an Announce (R248): the words of TBL_PTPDS and one QUALITY reading; Z clears the traceable flags. -/
def announceBody (s : State) (k : Nat) : Nat × List Byte :=
  let w := (stockLook s 5 k).getD (ptpdsWords s k)
  let w0 := (w[0]?).getD 0
  let w1 := (w[1]?).getD 0
  let f := w1 / 2 ^ 56 % 64
  (if ptpClass s k = 248 then f % 16 else f,
    zeros 10 ++ beBytes 2 (w1 / 2 ^ 32) ++ [0] ++ beBytes 1 w1 ++ beBytes 1 (ptpClass s k) ++ beBytes 1 (ptpAccuracy s k)
      ++ beBytes 2 (ptpVariance s k) ++ beBytes 1 (w1 / 2 ^ 8) ++ beBytes 8 w0 ++ beBytes 2 (w1 / 2 ^ 16) ++ beBytes 1 (w1 / 2 ^ 48))

/-- The message a Trailhead 9 run builds from its record (R237, R240, R241, R244, R248); `t` is the plane crossing its slot grants. -/
def txMessage (s : State) (rec : List Byte) (t : Nat) : List Byte :=
  let b := fun (o : Nat) => beAt rec o 1
  let dom := fget s (PTP_DOM (b 1)) PTP_DOM_DOMAIN
  let uni := if b 3 / 2 % 2 = 1 then 4 else 0
  let two := if b 3 % 2 = 1 then 2 else 0
  let head := fun (ty n flag0 flag1 : Nat) (corr : Int) (ctl : Nat) => ptpHead s ty n dom (b 2) flag0 flag1 corr (beAt rec 4 2) ctl (b 6)
  match b 0 with
  | 0 => head 0 44 (uni + two) 0 (ptpSubNs t) 0 ++ ptp80 t
  | 1 =>
    let o := gtOf (beAt rec 8 8) (beAt rec 16 8)
    head 8 44 uni 0 (ptpSubNs o) 2 ++ ptp80 o
  | 2 => head 0xB 64 uni (announceBody s (b 1)).1 0 5 ++ (announceBody s (b 1)).2
  | 3 => head 1 44 uni 0 (ptpSubNs t) 1 ++ ptp80 t
  | _ => head 2 54 uni 0 (ptpSubNs t) 5 ++ ptp80 t ++ zeros 10

/-- logMessageInterval of a Delay_Resp (R242): DREQ_LOG for a multicast request, the granted period for a unicast one. -/
def drespLog (s : State) (x : Punt) (k : Nat) : Nat :=
  if ptpGrouped x then unsgn 8 (fint s (PTP_DOM k) PTP_DOM_DREQ_LOG)
  else match grantLook s x with
    | some w => if w.testBit 10 then w / 2 ^ 16 % 256 else 0x7F
    | none => 0x7F

/-- The Delay_Resp to a Delay_Req (R242): the request's correctionField less the part of the stamp below a nanosecond. -/
def delayRespMsg (s : State) (x : Punt) (k : Nat) : List Byte :=
  let m := ptpBytes x
  let t := descIn x.desc
  ptpHead s 9 54 (beAt m 4 1) (puntPort x) (if ptpGrouped x then 0 else 4) 0 (ptpCorr m - ptpSubNs t) (ptpSeq m) 3 (drespLog s x k)
    ++ ptp80 t ++ ptpSrc m

/-- The Pdelay_Resp to a Pdelay_Req (R243): one-step, requestReceiptTimestamp zero; the gate adds the turnaround (R172). -/
def pdelayRespMsg (s : State) (x : Punt) : List Byte :=
  let m := ptpBytes x
  ptpHead s 3 54 (beAt m 4 1) (puntPort x) (if ptpGrouped x then 0 else 4) 0 (ptpCorr m) (ptpSeq m) 5 0x7F ++ zeros 10 ++ ptpSrc m

-- PTP runs -------------------------------------------------------------------------------------------------------

/-- Where the correctionField of a frame's PTP message stands, and its UDP checksum: the references CORR takes (R147, R253). -/
def ptpCorrRefs (x : Punt) : Nat × Option Nat :=
  if stockType x = 0x88F7 then (stockL3 x + 8, none) else (stockL4 x + 16, some (stockL4 x + 6))

/-- The address a port sends PTP from: its first PTP service address of the family; 0 without one (DESIGN CHOICE, log entry 170). -/
def ptpOwn (s : State) (p : Nat) (v6 : Bool) : Nat :=
  ((s.svc.addrs.find? (fun a => a.ptp && a.v6 == v6 && a.ports.testBit p)).map (·.addr)).getD 0

/-- A frame with the answer to a PTP message (R242): to the group of a multicast request, or to the requester's address and UDP source port.
DESIGN CHOICE (log entry 170): it leaves from port 319 or 320 by its kind, and a Pdelay_Resp is addressed as a Delay_Resp is. -/
def ptpAnswer (s : State) (x : Punt) (event : Bool) (m : List Byte) : List Byte :=
  let p := puntPort x
  let v4 := decide (stockType x = 0x0800)
  let port := if event then 319 else 320
  let tags := slice x.frame 12 (stockL3 x - 14)
  if stockType x = 0x88F7 then
    (if ptpGrouped x then slice x.frame 0 6 else slice x.frame 6 6) ++ beBytes 6 (fget s (PORT_MAC_ADDR p) PORT_MAC_ADDR_ADDR) ++ tags
      ++ [0x88, 0xF7] ++ m
  else if ptpGrouped x then udpFrame s p (slice x.frame 0 6 ++ tags) v4 (ptpOwn s p (!v4)) (puntDst x) port port m
  else udpFrame s p (puntEth x) v4 (puntDst x) (ipSrc x) port (beAt x.frame (stockL4 x) 2) m

/-- A frame to a PTP group by the transport of the port: Ethernet, else IPv4, else IPv6 (R229; DESIGN CHOICE, log entry 170: a port with more
than one transport enabled sends by the first); none where the port has none. -/
def ptpMulti (s : State) (k p : Nat) (peer event : Bool) (m : List Byte) : Option (List Byte) :=
  let port := if event then 319 else 320
  let l2 := fun (mac : Nat) => some (beBytes 6 mac ++ beBytes 6 (fget s (PORT_MAC_ADDR p) PORT_MAC_ADDR_ADDR) ++ [0x88, 0xF7] ++ m)
  if ptpProfile s k = 3 ∧ !peer then l2 (if fbit s (PTP_DOM k) PTP_DOM_L2_FWD then 0x011B19000000 else 0x0180C200000E)
  else if fbit s (PTP_PORT p) PTP_PORT_L2 then l2 (if peer then 0x0180C200000E else 0x011B19000000)
  else if fbit s (PTP_PORT p) PTP_PORT_IPV4 then
    some (udpFrame s p (beBytes 6 (if peer then 0x01005E00006B else 0x01005E000181)) true (ptpOwn s p false)
      (if peer then 0xE000006B else 0xE0000181) port port m)
  else if fbit s (PTP_PORT p) PTP_PORT_IPV6 then
    some (udpFrame s p (beBytes 6 (if peer then 0x33330000006B else 0x333300000181)) false (ptpOwn s p true)
      (if peer then 0xFF02 * 2 ^ 112 + 0x6B else 0xFF0E * 2 ^ 112 + 0x181) port port m)
  else none

/-- The foreign master that a unicast slot of the port and instance follows, with its IP address (R244, R251). -/
def ptpMasterOf (s : State) (k p : Nat) : Option (Foreign × Bool × Nat) :=
  (s.ptp.foreign.find? (fun f => decide (f.port = p) && decide (f.inst = k) && f.addr.isSome
    && (ptpSlots s p k).any (fun n => (upOf s n).master == f.src))).bind (fun f => f.addr.map (fun a => (f, a)))

/-- The frame of a Trailhead 9 record with its message (R236, R237): to a grant's requester, to the upstream master, or to a group. Event
messages of a unicast stream go to UDP port 319, general ones to the port the grant holds (DESIGN CHOICE, log entry 170). -/
def txFrame (s : State) (rec : List Byte) (aux : Nat) (m : List Byte) : Option (List Byte) :=
  let kind := beAt rec 0 1
  let k := beAt rec 1 1
  let p := beAt rec 2 1
  let event := [0, 3, 4].contains kind
  if aux / 2 ^ 16 % 2 = 0 then (grantOf s (aux % 2 ^ 16)).map (fun g =>
    udpFrame s p g.eth g.v4 g.own (g.addr % (if g.v4 then 2 ^ 32 else 2 ^ 128)) (if event then 319 else 320) (if event then 319 else g.udp) m)
  else if beAt rec 3 1 / 2 % 2 = 1 then (ptpMasterOf s k p).map (fun f => udpFrame s p f.1.eth (!f.2.1) f.1.own f.2.2 319 319 m)
  else ptpMulti s k p (decide (kind = 4)) event m

/-- A slot request of a stock Topo for a frame of `len` bytes on its run's port (R140): the instant granted, if any. -/
def stockSlot (ec len : Nat) (c : Ctx) (s : State) : Option (Nat × Ctx) × State :=
  let port := leAt c.desc 22 1
  let r := slotRequest port (gateClass c.desc) ec (descIn c.desc) (fget s GATE_LEAD GATE_LEAD_LEAD) (fget s GATE_WINDOW GATE_WINDOW_WINDOW)
    len s
  match r.1 with
  | none => (none, r.2)
  | some (q, t) => (some (t, { c with slot := some (port, q), stamped := true }), ctxSet ec { c with slot := some (port, q), stamped := true } r.2)

/-- A Trailhead 9 run (R240, R241, R244, R248): SLOT first, then the message with its launch stamp and EMIT LAUNCH; Follow_Up and Announce
leave by EMIT FREE. One that has no address to go to is dropped as UNSPECIFIED (DESIGN CHOICE, log entry 170). -/
def stockTx (ec : Nat) (c : Ctx) (rec : List Byte) (s : State) : State :=
  let frame := fun (t : Nat) => txFrame s rec (leAt c.desc 40 4) (txMessage s rec t)
  let port := leAt c.desc 22 1
  match frame 0 with
  | none => topoDrop ec 0 s
  | some f0 =>
    if [0, 3, 4].contains (beAt rec 0 1) then
      match stockSlot ec f0.length c s with
      | (none, s1) => topoDrop ec 0x1D s1
      | (some (t, c1), s1) => emitRun ec port false ((frame t).getD f0) none c1 s1
    else emitRun ec port true f0 none c s

-- Responders -----------------------------------------------------------------------------------------------------

/-- COUNT of a Topo counter (R132, R206). -/
def topoCount (tc : Nat) (s : State) : State := tcEvent tc (bump (EC_TC tc) 1 s)

/-- Tags and the requester's MAC address. -/
def stockEth (x : Punt) (mac : List Byte) : List Byte := mac ++ slice x.frame 12 (stockL3 x - 14)

/-- An ARP reply from PORTn_MAC_ADDR to the requester's hardware address (R202, RFC 826). -/
def arpReply (s : State) (x : Punt) : List Byte :=
  let l3 := stockL3 x
  let own := beBytes 6 (fget s (PORT_MAC_ADDR (puntPort x)) PORT_MAC_ADDR_ADDR)
  let sha := slice x.frame (l3 + 8) 6
  sha ++ own ++ slice x.frame 12 (l3 - 14) ++ [0x08, 0x06, 0, 1, 8, 0, 6, 4, 0, 2] ++ own ++ slice x.frame (l3 + 24) 4 ++ sha
    ++ slice x.frame (l3 + 14) 4

/-- A solicited neighbour advertisement (R203): O and S to a specified source, else O alone to all nodes. -/
def ndAnswer (s : State) (x : Punt) : List Byte :=
  let a := beAt x.frame (ipBody x + 8) 16
  if ipSrc x = 0 then naFrame s (puntPort x) a (stockEth x [0x33, 0x33, 0, 0, 0, 1]) allNodes 0x20
  else naFrame s (puntPort x) a (puntEth x) (ipSrc x) 0x60

/-- An echo reply with the request's identifier, sequence number and payload (R204). -/
def echoAnswer (s : State) (x : Punt) : List Byte :=
  let v4 := decide (stockType x = 0x0800)
  let body := slice x.frame (ipBody x + 4) (ipPayload x - 4)
  ipFrame s (puntPort x) (puntEth x) v4 (puntDst x) (ipSrc x) (if v4 then 1 else 58) 64
    (if v4 then [0, 0] ++ beBytes 2 (65535 - onesSum ([0, 0, 0, 0] ++ body) 0) ++ body else icmp6 (puntDst x) (ipSrc x) 129 body)

/-- Sketch key of a source (R200). -/
def sketchKey (x : Punt) (echo : Bool) : Nat :=
  if stockType x = 0x0800 then (if echo then 0xFFFFFFFE00000000 else 0xFFFFFFFF00000000) + ipSrc x
  else if echo then (ipSrc x / 2 ^ 64) ^^^ 2 ^ 63 else ipSrc x / 2 ^ 64

/-- THRESH of a service address's word (R176). -/
def svcThresh (w : Nat) : Nat := w / 2 ^ 32 % 65536

/-- An echo request to an address with ECHO = 1 (R200, R204). -/
def echoRun (ec : Nat) (c : Ctx) (x : Punt) (s : State) : State :=
  let w := (svcLook s x false (decide (stockType x = 0x86DD)) (puntDst x)).getD 0
  let k := sketchAdd (sketchKey x true) 1 false s
  if svcThresh w < k.1 then topoDrop ec 0x2B k.2
  else emitRun ec (puntPort x) true (echoAnswer s x) none c (topoCount 12 k.2)

-- NTP and NTS ----------------------------------------------------------------------------------------------------

/-- UDP length, destination port, and the offset of the NTP header. -/
def udpLen (x : Punt) : Nat := beAt x.frame (stockL4 x + 4) 2
def udpDst (x : Punt) : Nat := beAt x.frame (stockL4 x + 2) 2
def ntpOff (x : Punt) : Nat := stockL4 x + 8
def ntpVn (x : Punt) : Nat := beAt x.frame (ntpOff x) 1 / 8 % 8

/-- An extension field of a request: type, offset in the frame, length (R180). -/
structure NtpField where
  ty : Nat
  off : Nat
  len : Nat
  deriving DecidableEq, Repr

/-- The walk of the extension fields from `o` to `e`, at most `f` of them (R180): those walked, and whether the walk ends well. -/
def efWalk (b : List Byte) (e : Nat) : Nat → Nat → List NtpField × Bool
  | 0, o => ([], decide (o = e))
  | f + 1, o =>
    let l := beAt b (o + 2) 2
    if o = e then ([], true)
    else if e < o + 4 ∨ l = 0xFFFF ∨ l < 16 ∨ l % 4 ≠ 0 ∨ e < o + l then ([], false)
    else let r := efWalk b e f (o + l); (⟨beAt b o 2, o, l⟩ :: r.1, r.2)

/-- The extension fields of a request (R180). -/
def ntpFields (x : Punt) : List NtpField × Bool :=
  if 1024 < udpLen x - 8 then ([], false) else efWalk x.frame (stockL4 x + udpLen x) 16 (stockL4 x + 56)

/-- The types of NTS (R180). -/
def ntsTypes : List Nat := [0x0104, 0x0204, 0x0304, 0x0404]

/-- Does a request take the NTS path at an address with this word (R180, R187)? -/
def ntsPath (s : State) (x : Punt) (w : Nat) : Bool :=
  ntsFitted s && w.testBit 11 && decide (udpLen x ≠ 56) && decide (ntpVn x = 4) && decide (udpDst x = 123) && (ntpFields x).2
    && (ntpFields x).1.any (fun f => ntsTypes.contains f.ty)

/-- Fields counted in TC6 (R180, R188): those of no NTS type, and on the NTS path placeholders of another length. DESIGN CHOICE (log entry
171): a field of an NTS type is not of unknown type where the request is answered as plain NTP, and the fields walked before one that fails
are counted. -/
def ntpUnknown (fs : List NtpField) (nts : Bool) : Nat :=
  fs.countP (fun f => !ntsTypes.contains f.ty || (nts && decide (f.ty = 0x0304) && decide (f.len ≠ 108)))

/-- A frame with an NTP message to the requester, from port 123 (R179, R181). -/
def ntpFrame (s : State) (x : Punt) (m : List Byte) : List Byte :=
  udpFrame s (puntPort x) (puntEth x) (decide (stockType x = 0x0800)) (puntDst x) (ipSrc x) 123 (beAt x.frame (stockL4 x) 2) m

/-- The origin timestamp of a response: the request's transmit timestamp (R181). -/
def ntpOrigin (x : Punt) : List Byte := slice x.frame (ntpOff x + 40) 8

/-- The NTP header of a response whose slot is granted at `t` (R181 to R185): the address's profile and view are those of its word. -/
def ntpHead (s : State) (x : Punt) (w t : Nat) : List Byte :=
  let k := w % 8
  let st := fun (u : Nat) => beBytes 8 (ntp64 s (w.testBit 9) u)
  [BitVec.ofNat 8 (64 * ntpLi s k + 8 * ntpVn x + 4), BitVec.ofNat 8 (ntpStratum s k)] ++ slice x.frame (ntpOff x + 2) 1 ++ [0xE2]
    ++ beBytes 4 (ntpRootDelay s) ++ beBytes 4 (ntpRootDisp s) ++ beBytes 4 (ntpRefId s k) ++ st s.servo.refTime ++ ntpOrigin x
    ++ st (descIn x.desc) ++ st t

/-- A Kiss-o'-Death (R186). The poll is compared as a signed number (RFC 5905). -/
def ntpKod (x : Punt) (ref : String) : List Byte :=
  let poll := max (sgn 8 (beAt x.frame (ntpOff x + 2) 1)) 6
  [BitVec.ofNat 8 (192 + 8 * ntpVn x + 4), 0, BitVec.ofInt 8 poll, 0xE2] ++ zeros 8 ++ beBytes 4 (refText ref) ++ zeros 8 ++ ntpOrigin x
    ++ zeros 16

/-- Tests 13 and 14 of R178 and what follows them: SLOT, QUALITY, the response and EMIT LAUNCH. SLOT is asked before QUALITY tells whether the
device is synchronised, as in the listing of the stock Topo; where both tests fail the first, NTP_UNSYNC, is the reason (log entry 171,
DEDUCED). `done` counts the response, `m` is its NTP message for the slot granted. -/
def answerRun (ec : Nat) (c : Ctx) (x : Punt) (w : Nat) (done : State → State) (m : Nat → List Byte) (s : State) : State :=
  let lost := ntpUnsync s (w % 8)
  let r := stockSlot ec (ntpFrame s x (m 0)).length c s
  if lost && !w.testBit 8 then topoDrop ec 0x1B r.2
  else match r.1 with
    | none => topoDrop ec 0x1D r.2
    | some (t, c1) => emitRun ec (puntPort x) false (ntpFrame s x (m t)) none c1 (done (if lost then topoCount 7 r.2 else r.2))

/-- The fields of an NTS request: unique identifier, cookie, authenticator (R188); none where it fails NTS_FORMAT. -/
def ntsFields (x : Punt) : Option (NtpField × NtpField × NtpField) :=
  let fs := (ntpFields x).1
  let of := fun (t : Nat) => fs.filter (fun f => decide (f.ty = t))
  match of 0x0104, of 0x0204, of 0x0404 with
  | [u], [k], [a] =>
    if 36 ≤ u.len ∧ u.len ≤ 68 ∧ fs.getLast? = some a ∧ a.len = 40 ∧ beAt x.frame (a.off + 4) 2 = 16 ∧ beAt x.frame (a.off + 6) 2 = 16 then
      some (u, k, a)
    else none
  | _, _, _ => none

/-- The slot whose KEY_ID a cookie names. -/
def cookieSlot (s : State) (b : List Byte) : Option Nat :=
  (List.range 64).find? (fun n => (keyOfSlot s n).st ≠ 0 ∧ (keyOfSlot s n).kid = beAt b 0 4)

/-- The client and server keys a cookie holds (R189, R190); none where it does not open. -/
def cookieOpen (s : State) (b : List Byte) : Option (List Byte × List Byte) :=
  match cookieSlot s b with
  | none => none
  | some n =>
    if b.length ≠ 104 ∨ !slotUsable false (keyOfSlot s n) then none
    else match sivOpen (keyOfSlot s n).key [slice b 4 16] (slice b 20 16) (slice b 36 66) with
      | none => none
      | some p => if beAt p 0 2 = 15 then some (slice p 2 32, slice p 34 32) else none

/-- The nonces of a response with `n` cookies (R193): blocks 0 to n encrypted under the CURRENT key. IN_SUB and IN_SEC stand as the descriptor
has them, least significant byte first (DEDUCED, log entry 171). -/
def ntsNonces (k : KeySlot) (d : List Byte) (n : Nat) : List (List Byte) :=
  let block := fun (j : Nat) => slice d 8 8 ++ slice d 0 5 ++ slice d 22 1 ++ [BitVec.ofNat 8 j, if descReproc d then 1 else 0]
  blocks16 (ecbRun false (k.key.take 32) ((List.range (n + 1)).flatMap block))

/-- The response to an NTS request (R191): header, the echoed unique identifier, and the authenticator with `n` new cookies. -/
def ntsMessage (k : KeySlot) (d head uid c2s s2c : List Byte) (n : Nat) : List Byte :=
  let ns := ntsNonces k d n
  let plain := (ns.drop 1).flatMap (fun v => [0x02, 0x04, 0, 108] ++ cookieSeal k v c2s s2c)
  let r := sivSeal s2c [head ++ uid, ns.headD []] plain
  head ++ uid ++ beBytes 2 0x0404 ++ beBytes 2 (40 + 108 * n) ++ beBytes 2 16 ++ beBytes 2 (16 + 108 * n) ++ ns.headD [] ++ r.1 ++ r.2

/-- Is KEYS_READY set in TBL_NTSCTL (R175, R198)? -/
def keysLook (s : State) : Bool := match stockLook s 4 0 with | some (w :: _) => w.testBit 0 | _ => false

/-- A request on the NTS path (R188 to R193, R198). NTS_FORMAT is tested before KEYS_READY (DEDUCED, log entry 171). -/
def ntsRun (ec : Nat) (c : Ctx) (x : Punt) (w : Nat) (s0 : State) : State :=
  match ntsFields x with
  | none => topoDrop ec 0x1F s0
  | some (u, k, a) =>
    let uid := slice x.frame u.off u.len
    -- the keys it uses are read (R466)
    let s := ((cookieSlot s0 (slice x.frame (k.off + 4) (k.len - 4))).toList ++ (keyIn s0 2).toList).foldl (fun b n => (keyUse n b).2) s0
    match keysLook s, keyIn s 2 with
    | true, some cur =>
      match cookieOpen s (slice x.frame (k.off + 4) (k.len - 4)) with
      | none => emitRun ec (puntPort x) true (ntpFrame s x (ntpKod x "NTSN" ++ uid)) none c (topoCount 3 s)
      | some (c2s, s2c) =>
        match sivOpen c2s [slice x.frame (ntpOff x) (a.off - ntpOff x), slice x.frame (a.off + 8) 16] (slice x.frame (a.off + 24) 16) [] with
        | none => topoDrop ec 0x1E s
        | some _ =>
          let m := (ntpFields x).1.countP (fun f => decide (f.ty = 0x0304) && decide (f.len = 108))
          let n := min (1 + m) 7
          answerRun ec c x w (fun b => bump (EC_TC 4) n (topoCount 1 b))
            (fun t => ntsMessage (keyOfSlot s cur) c.desc (ntpHead s x w t) uid c2s s2c n)
            (if 6 < m then bump (EC_TC 5) (m - 6) s else s)
    | _, _ => topoDrop ec 0x1B (topoCount 13 s)

/-- A request over its source rate (R186): NTS requests and, with RATE_KOD = 0 or above twice THRESH, plain ones are dropped. DESIGN CHOICE (log
entry 171): a request is an NTS request here where its fields would take it to the NTS path. -/
def rateRun (ec est : Nat) (c : Ctx) (x : Punt) (w : Nat) (s : State) : State :=
  if ntsPath s x w then topoDrop ec 0x1C (topoCount 15 s)
  else if w.testBit 10 ∧ est ≤ 2 * svcThresh w then
    emitRun ec (puntPort x) true (ntpFrame s x (ntpKod x "RATE")) none c (topoCount 2 s)
  else topoDrop ec 0x1C (topoCount 14 s)

/-- A request that passes tests 1 to 9: tests 10 to 14 of R178. -/
def ntpRun (ec : Nat) (c : Ctx) (x : Punt) (s : State) : State :=
  let w := (svcLook s x false (decide (stockType x = 0x86DD)) (puntDst x)).getD 0
  let k := sketchAdd (sketchKey x false) 1 false s
  if svcThresh w < k.1 then rateRun ec k.1 c x w k.2
  else if udpLen x ≠ 56 ∧ ntpVn x ≠ 4 then topoDrop ec 0x1A k.2
  else if udpLen x ≠ 56 ∧ udpDst x ≠ 123 then topoDrop ec 0x17 k.2
  else
    let ef := if udpLen x = 56 then ([], true) else ntpFields x
    let u := ntpUnknown ef.1 (ntsPath s x w)
    let s1 := if u = 0 then k.2 else bump (EC_TC 6) u k.2
    if !ef.2 then topoDrop ec 0x1A s1
    else if ntsPath s x w then ntsRun ec c x w s1
    else answerRun ec c x w (topoCount 0) (ntpHead s1 x w) s1

-- Runs -----------------------------------------------------------------------------------------------------------

/-- A received frame's disposition is carried out (R206, R235). A dropped NTP message in mode 6 or 7 is counted besides. A relayed frame keeps
its source address, and EMIT sends what it builds in full: R204 lets an echo reply be as long as MAX_FRAME (DESIGN CHOICE, log entry 170). -/
def stockApply (ec : Nat) (c : Ctx) (x : Punt) (s : State) : StockAct → State
  | .drop r =>
    let mode := beAt x.frame (ntpOff x) 1 % 8
    topoDrop ec r (if r = 0x18 ∧ 6 ≤ mode then topoCount (mode + 2) s else s)
  | .punt ring => if Config.puntCapacity ring ≤ (puntsOf s ring).length then dropRun ec rsnPuntFull true s else puntRun ec ring 0 [] c s
  | .relay port corr add =>
    let o := ptpCorrRefs x
    relayRun ec port (if add = 0 then x.frame else (corrAdd o.1 o.2 add x.frame).1) (if corr then some o else none) c s
  | .delayResp k => emitRun ec (puntPort x) true (ptpAnswer s x false (delayRespMsg s x k)) none c s
  | .pdelayResp => emitRun ec (puntPort x) true (ptpAnswer s x true (pdelayRespMsg s x)) (some (ptpCorrRefs x)) c s
  | .ntp => ntpRun ec c x s
  | .arpReply => emitRun ec (puntPort x) true (arpReply s x) none c (topoCount 10 s)
  | .advertise => emitRun ec (puntPort x) true (ndAnswer s x) none c (topoCount 11 s)
  | .echoReply => echoRun ec c x s

/-- Entries a run looks up in the stock tables: its addresses, its grant, its instance and link delay (R175, R234). -/
def stockKeys (x : Punt) : List (Nat × Nat) :=
  if stockType x = 0x88F7 then [(6, puntPort x)]
  else [svcKey x (isPtp x) (decide (stockType x = 0x86DD)) (puntDst x), (4, 0)]

/-- The memory a run meets (R115, R465): the frame, and for a received one the entries it looks up. DESIGN CHOICE (log entry 169): all of it is
met at the run's start. -/
def stockMeet (c : Ctx) (x : Punt) (s : State) : Bool × State :=
  let m := touchMem (frameBase + descAddr c) (descFrameLen c - 4) s
  if 8 ≤ leAt c.desc 23 1 % 16 then m
  else (stockKeys x).foldl (fun (a : Bool × State) k =>
    let r := lookMeet k.1 ((rd s TOPO_TBL_GEN).toNat / 2 ^ k.1 % 2) k.2 a.2
    (a.1 || r.1, r.2)) m

/-- A run of the stock Topo in context `ec`: a received frame, a record of the scheduler, or an injected frame, which leaves by EMIT FREE on its
port (R89, R202, R209, R391). -/
def stockRun (ec : Nat) (s : State) : State :=
  let c := ctxOf s ec
  let th := leAt c.desc 23 1 % 16
  let x : Punt := { desc := c.desc, frame := runFrame c s, tag := 0, w0 := 0, build := [], old := c.old }
  let m := stockMeet c x s
  if m.1 then dropRun ec rsnMemUe true m.2
  else if th < 8 then stockApply ec c x m.2 (stockAct m.2 x)
  else if !laneFitted m.2 (leAt c.desc 22 1) then badOp ec 6 m.2
  else if th = 9 then stockTx ec c x.frame m.2
  else emitRun ec (leAt c.desc 22 1) true x.frame none c m.2

/-- Dispatch the head of a queue to a context; a stock Topo's run is carried out. -/
def serveQueue (cls q ec : Nat) (s : State) : State :=
  let s1 := dispatchTo cls q ec s
  if s1.pe.stock.testBit (ctxOf s1 ec).bank && decide ((ctxOf s1 ec).st = 2) then stockRun ec s1 else s1

/-- A free context takes the next descriptor (R90, R91). -/
def dispatch (s : State) : State :=
  match dispatchPlan s with
  | none => s
  | some (cls, q, ec) => serveQueue cls q ec s

/-- The control cores and host DMA have taken the punt entries that no command of the table takes (R104, R149). -/
def puntsTaken (s : State) : State := forEach (List.range 9) puntsBack s

-- Meanings -------------------------------------------------------------------------------------------------------

/-- DISPATCH (R90). -/
def execDispatch (s : State) : Res := run (fun a => dispatch (puntsTaken a)) s

end Sys2Proof.Machine
end

