-- ==== Sys2Proof/Machine/Rest.lean ====
section
/-!
DEFINITION. Machine/Rest.lean: entry into Rest, the wake pattern and the exit (R82 to R85).
-/
namespace Sys2Proof.Machine
open Sys2Proof

/-- The ports whose ENABLE is 1, one bit each: at the exit from Rest they resume with it (R85). -/
def enableMask (s : State) : Nat :=
  (List.range 8).foldl (fun m p => if portLive s p && fbit s (PORT_MODE p) PORT_MODE_ENABLE then m ||| 2 ^ p else m) 0

/-- What firmware has injected leaves before Rest begins, where the stock Topo runs: the close_notify alerts of R83. A Topo of another kind
cannot run within a command: what it would do with them is left out (log entry 169). -/
def restInjected (s : State) : State :=
  if !s.pe.stock.testBit (fget s TOPO_BANK TOPO_BANK_ACTIVE) then s
  else
    let s1 := forEach (List.range (queueOf s 32).length) (fun _ a => match pickCtx a with
      | some ec => serveQueue 3 32 ec a
      | none => a) s
    forEach (List.range 8) (fun p a => forEach (List.range (gateOf a p).free.length) (fun _ b => freePlace p b) a) s1

/-- REST_ENTER (R82): the connections of NTS-KE are closed first (R83); from then on reception stops and the gate grants nothing; frames
waiting in the free queues are discarded (R170, R171). -/
def restEnter (s : State) : CRes :=
  if phase s ≠ 3 ∨ s.start.rest ≠ 0 then .no 7 0x12 noDetail
  else if pairRole s ≠ 0 ∧ pairRole s ≠ 4 then .no 7 9 noDetail
  else .ok [] (forEach ((List.range 8).filter (portLive s)) freeFlush
    (portsRefresh (startSet (fun x => { x with rest := 1, restEn := enableMask s }) (restInjected (keCloseAll s)))))

/-- A big-number unit stops, and the state of its DRBG instance is zeroed (R83, R282). -/
def restBnu (n : Nat) (s : State) : State :=
  if unitBit s.variant (16 + n) then backlogShow (fsetB (BNU_STATUS n) BNU_STATUS_ONLINE false (drbgDrop n (slotsClear n (bnuSet n { bnuOf (bnuAbort n (fun _ => true) s) n with test := false } (bnuAbort n (fun _ => true) s)))))
  else s

/-- Frames that wait, and the frame buffer, are lost (R83). -/
def restFrames (s : State) : State :=
  clrRange frameBase (frameBase + 0x2000000) { s with pe := { s.pe with q := [], frames := [], punts := [], inj := [] } }

/-- Entry is complete once planned frames have left and runs have finished (R82, R83). -/
def restEntered (s : State) : State :=
  if s.start.rest ≠ 1 ∨ (List.range 8).any (fun p => (gateOf s p).cal ≠ []) ∨ running s ≠ 0 then s
  else
    let s1 := forEach (List.range 8) (fun n a => restBnu n a) s
    let s2 := forEach ((List.range 8).filter (portLive s1)) (fun p a => lanesDown p (freeFlush p a)) (restFrames s1)
    let s3 := belayClose (pstSet PAIR_STATUS_LANE0_UP false (pstSet PAIR_STATUS_LANE1_UP false s2))
    portsRefresh (fsetB HOST_REST_STATUS HOST_REST_STATUS_REST true (setPhase 5 (startSet (fun x => { x with rest := 0 }) s3)))

/-- The exit starts (R85): cause 1 wake pattern, 2 Rest-exit command. The ports take the ENABLE values they had at entry. -/
def restExitStart (cause : Nat) (s : State) : State :=
  let s1 := occur EV_SYS_REST_WAKE (fset HOST_REST_STATUS HOST_REST_STATUS_LAST_CAUSE cause (startSet (fun x => { x with rest := 3 }) s))
  let s2 := forEach ((List.range 8).filter (portLive s1)) (fun p a =>
    let on := s.start.restEn.testBit p
    let b := fsetB (PORT_MODE p) PORT_MODE_ENABLE on a
    if on && groupMode b p != 0 then portUp p b else portRefresh p b) s1
  forEach ((List.range 8).filter (fun n => unitBit s2.variant (16 + n))) selftestStart s2

/-- REST_EXIT (R85). -/
def restExit (s : State) : CRes :=
  if phase s ≠ 5 ∨ s.start.rest ≠ 0 then .no 7 0x12 noDetail else .ok [] (restExitStart 2 s)

/-- The exit ends once the self-tests of the big-number units are done (R85). -/
def restExited (s : State) : State :=
  if s.start.rest ≠ 3 ∨ (List.range 8).any (fun n => (bnuOf s n).test) then s
  else portsRefresh (fsetB HOST_REST_STATUS HOST_REST_STATUS_REST false (setPhase 3 (startSet (fun x => { x with rest := 0 }) s)))

/-- MAC address of the management port: the DEVICE leg's (R413), without one the vendor's. -/
def mgmtMac (s : State) : Nat := if s.start.device.isEmpty then s.otp.mac else beAt s.start.device 32 6

/-- Does a byte string lie in another? -/
def hasPart (x : List Byte) : List Byte → Bool
  | [] => x.isEmpty
  | b :: bs => x.isPrefixOf (b :: bs) || hasPart x bs

/-- A frame at the wake-pattern detector (R84); the two counts stop at their largest value. -/
def wakeFrame (bytes : List Byte) (s : State) : State :=
  let mac := mgmtMac s
  let da := beAt bytes 0 6
  let body := bytes.take (bytes.length - 4)
  let head := (body.drop 14).take 256
  let pat := List.replicate 6 (0xFF : Byte) ++ (List.replicate 16 (beBytes 6 mac)).flatten
  let full := pat ++ beBytes 8 (rd s HOST_WAKE_CODE).toNat
  let code := fbit s HOST_WAKE_CTL HOST_WAKE_CTL_CODE_REQ
  let count := fun (f : Fld) (a : State) => fset HOST_REST_STATUS f (satF f (fget a HOST_REST_STATUS f + 1)) a
  if !fbit s HOST_WAKE_CTL HOST_WAKE_CTL_EN ∨ bytes.length < 18 ∨ fcsOf body ≠ bytes.drop (bytes.length - 4) then s
  else if da ≠ mac ∧ !(decide (da = 0xFFFFFFFFFFFF) && fbit s HOST_WAKE_CTL HOST_WAKE_CTL_BCAST_OK) then s
  else if !hasPart pat head then s
  else if code ∧ !hasPart full head then count HOST_REST_STATUS_WAKE_BADCODE s
  else if phase s ≠ 5 then count HOST_REST_STATUS_WAKE_SEEN s
  else if s.start.rest ≠ 0 then s
  else restExitStart 1 s

/-- REST_ENTRY_COMPLETE (R82). -/
def execRestEntryComplete (s : State) : Res := run restEntered s

/-- WAKE_FRAME (R84): a frame on the management port, with its FCS. -/
def execWakeFrame (bytes : List Byte) (s : State) : Res := run (wakeFrame bytes) s

/-- REST_EXIT_COMPLETE (R85). -/
def execRestExitComplete (s : State) : Res := run (withAnnounce restExited) s

end Sys2Proof.Machine
end

