-- ==== Sys2Proof/Machine/HarCmds.lean ====
section
/-!
DEFINITION. Machine/HarCmds.lean: the Harness commands (R450, R451, R528): body layout, role, Bivouac mode (R438), and what each
command checks and does. A command answers with a body, is refused with status, state code and DETAIL, or answers later.
-/
namespace Sys2Proof.Machine
open Sys2Proof

-- Layout, role and phase -----------------------------------------------------------------------------------------

/-- Codes of the command table. -/
def harCmds : List Nat :=
  [0x0101, 0x0102, 0x0103, 0x0104, 0x0105, 0x0106, 0x0107, 0x0201, 0x0202, 0x0203, 0x0204, 0x0301, 0x0302, 0x0303, 0x0304, 0x0305,
   0x0306, 0x0307, 0x0401, 0x0402, 0x0403, 0x0404, 0x0405, 0x0406, 0x0407, 0x0501, 0x0502, 0x0503, 0x0504, 0x0505, 0x0601, 0x0602,
   0x0603, 0x0604, 0x0701, 0x0702, 0x0703, 0x0704, 0x0801, 0x0802, 0x0803, 0x0804, 0x0805, 0x0806, 0x0807, 0x0808, 0x0809, 0x080A,
   0x0901, 0x0902, 0x0903, 0x0904]

/-- The least role of a command: 1 OBSERVER, 2 OPERATOR, 3 CUSTODIAN. -/
def cmdRole (cmd : Nat) : Nat :=
  if [0x0107, 0x0202, 0x0204, 0x0301, 0x0302, 0x0303, 0x0304, 0x0305, 0x0306, 0x0501, 0x0502, 0x0601, 0x0604, 0x0904].contains cmd then 2
  else if [0x0402, 0x0403, 0x0404, 0x0405, 0x0406, 0x0503, 0x0504, 0x0505, 0x0602, 0x0603, 0x0701, 0x0702, 0x0703, 0x0704, 0x0802,
    0x0803, 0x0804, 0x0805, 0x0806, 0x0807, 0x0808, 0x0809, 0x080A].contains cmd then 3
  else 1

/-- A body of `n` bytes with zero bytes from `z`, `k` of them. -/
def fixedBody (n z k : Nat) (b : List Byte) : Option Nat := if b.length ≠ n ∨ !allZero (slice b z k) then some 1 else none

/-- A head of `h` bytes, zero from `z` for `k`, and a count of items of `w` bytes each. -/
def countBody (h z k w n : Nat) (b : List Byte) : Option Nat :=
  if b.length < h ∨ !allZero (slice b z k) then some 1 else if b.length ≠ h + w * n then some 2 else none

/-- The body layout of a command (R448): the status of a failure. -/
def cmdLayout (cmd : Nat) (b : List Byte) (s : State) : Option Nat :=
  match cmd with
  | 0x0103 => fixedBody 8 4 4 b
  | 0x0105 => fixedBody 40 36 4 b
  | 0x0201 =>
    (countBody 8 4 4 8 (leAt b 0 4) b).orElse (fun _ =>
      if (List.range (leAt b 0 4)).all (fun i => allZero (slice b (12 + 8 * i) 4)) then none else some 1)
  | 0x0202 =>
    (countBody 8 4 4 24 (leAt b 0 4) b).orElse (fun _ =>
      if (List.range (leAt b 0 4)).all (fun i => allZero (slice b (12 + 24 * i) 4)) then none else some 1)
  | 0x0203 | 0x0801 | 0x0802 | 0x0903 => fixedBody 8 0 0 b
  | 0x0204 | 0x0803 => countBody 8 0 0 1 (leAt b 4 4) b
  | 0x0301 => fixedBody 32 2 6 b
  | 0x0302 => countBody 8 2 2 (16 + 8 * (tblCopy s (leAt b 0 1) (leAt b 1 1)).words) (leAt b 4 4) b
  | 0x0303 => countBody 8 2 2 16 (leAt b 4 4) b
  | 0x0304 | 0x0505 => fixedBody 16 0 0 b
  | 0x0305 =>
    (countBody 16 1 3 32 (leAt b 8 4) b).orElse (fun _ => if allZero (slice b 12 4) then none else some 1)
  | 0x0306 => fixedBody 16 1 7 b
  | 0x0307 => fixedBody 8 2 6 b
  | 0x0402 => (fixedBody 32 2 6 b).orElse (fun _ => fixedBody 32 28 4 b)
  | 0x0403 => fixedBody 8 0 0 b
  | 0x0404 => fixedBody 16 12 4 b
  | 0x0405 | 0x0502 => fixedBody 16 1 7 b
  | 0x0406 => fixedBody 8 2 6 b
  | 0x0501 => countBody 8 1 3 24 (leAt b 4 4) b
  | 0x0503 => fixedBody 8 1 3 b
  | 0x0504 => if b.length < 8 then some 1 else if leAt b 4 4 ≠ b.length - 8 then some 2 else none
  | 0x0601 => fixedBody 24 0 0 b
  | 0x0704 => if b.length < 68 ∨ 9220 < b.length ∨ !allZero (slice b 1 7) then some 1 else none
  | 0x0804 | 0x0805 | 0x0807 => fixedBody 8 1 7 b
  | 0x0808 => fixedBody 104 0 0 b
  | 0x0901 | 0x0902 => fixedBody 8 4 4 b
  | 0x0904 => fixedBody 32 0 0 b
  | _ => fixedBody 0 0 0 b

/-- The settings records of a REG_WRITE body. -/
def regRecords (b : List Byte) : List Setting := (List.range (leAt b 0 4)).map (fun i => settingOf (slice b (8 + 24 * i) 24))

/-- RW and RWL bits of a register. -/
def rwBits (a : Nat) : Word :=
  match regRow a with
  | none => 0
  | some r => r.fields.foldl (fun (m : Word) x => if x.acc == .rw || x.acc == .rwl then m ||| maskF x.f else m) 0

/-- The value a record writes (R410, R528): only bits of MASK count as written. -/
def recordValue (r : Setting) (s : State) : Word := (stored .harness r.addr s &&& rwBits r.addr &&& ~~~ r.mask) ||| (r.val &&& r.mask)

/-- Does R528 refuse a record to a role? -/
def recordDenied (role : Nat) (r : Setting) (s : State) : Bool :=
  decide (role < 3) && touches (fun x => custodianOnly r.addr x.f) (stored .harness r.addr s) (recordValue r s) r.addr

/-- The role check (R448 check 9): the DETAIL of a refusal. CLOSE of another session than the own one needs a Custodian (R450). -/
def roleDenied (cmd sid role : Nat) (b : List Byte) (s : State) : Option Nat :=
  if role < cmdRole cmd then some noDetail
  else if cmd = 0x0103 ∧ leAt b 0 4 ≠ 0 ∧ leAt b 0 4 ≠ sid ∧ role < 3 then some noDetail
  else if cmd = 0x0202 then (regRecords b).findIdx? (fun r => recordDenied role r s)
  else none

/-- What Bivouac mode accepts (R438). -/
def bivAccepts (cmd : Nat) (b : List Byte) : Bool :=
  [1, 8, 9].contains (cmd / 256) || [0x0201, 0x0203].contains cmd
    || (cmd = 0x0202 && (regRecords b).all (fun r => [0x00, 0xA0, 0x70, 0x80].contains (r.addr / 0x10000)))

/-- A verdict as a refusal. -/
def refusalOf (v : Verdict) (detail : Nat) : Option CRes :=
  match v with
  | .ok => none
  | .silent => some (.no 9 0 detail)
  | .refuse _ st code => some (.no st code detail)

/-- A command that writes one register. -/
def viaReg (a : Nat) (v : Word) (s : State) : CRes :=
  if absentAddr s.variant a then .no 8 0 noDetail
  else match refusalOf (regCheck .harness 3 a v s) noDetail with
    | some r => r
    | none => .ok [] (regApply .harness a v s)

-- Registers and memory -------------------------------------------------------------------------------------------

/-- Value of one address of REG_READ (R451). -/
def readValue (a : Nat) (s : State) : Word :=
  if a = TSU_NOW_LO then capLo s else if a = TSU_NOW_HI then capHi s else if a = TSU_CAP_STATUS then capStatus s
  else if (regRow a).isNone then 0 else regView .harness a s

/-- REG_READ (R451). -/
def regReadDo (b : List Byte) (s : State) : CRes :=
  let n := leAt b 0 4
  let as := (List.range n).map (fun i => leAt b (8 + 8 * i) 4)
  match as.findIdx? (fun a => inSpan a && absentAddr s.variant a) with
  | some i => .no 8 0 i
  | none =>
    if n = 0 ∨ 1024 < n then .no 9 0 noDetail
    else match as.findIdx? (fun a => !inSpan a || a % 8 != 0) with
      | some i => .no 9 0 i
      | none => .ok (leBytes 4 n ++ zeros 4 ++ as.flatMap (fun a => leBytes 8 (readValue a s).toNat)) s

/-- Does a record write an RWL field (R15)? Only the bits of MASK count as written (R528). -/
def maskRwl (r : Setting) : Bool :=
  match regRow r.addr with
  | none => false
  | some x => x.fields.any (fun f => lockedField r.addr f && maskF f.f &&& r.mask != 0)

/-- What the rules say of one record of a REG_WRITE (R15, R451, R527, R528): values before the present state (R448). -/
def recordCheck (role : Nat) (s : State) (r : Setting) : Verdict :=
  if !(inSpan r.addr && r.addr % 8 == 0 && (regRow r.addr).isSome) then vRange
  else if !rangesOk r.addr (recordValue r s) then vRange
  else match regCheck .harness role r.addr (recordValue r s) s with
    | .ok => if rwlLocked s && maskRwl r then .refuse 3 7 4 else .ok
    | x => x

/-- The records one after another, each checked again on the state that those before it leave (log entry 112): the first that is
refused refuses the command. -/
def recordsApply (role : Nat) : Nat → List Setting → State → CRes
  | _, [], s => .ok [] s
  | i, r :: rs, s =>
    match refusalOf (recordCheck role s r) i with
    | some x => x
    | none => recordsApply role (i + 1) rs (utcConfirm role r.addr (regApply .harness r.addr (recordValue r s) s))

/-- REG_WRITE (R451): every record is checked before any write. -/
def regWriteDo (role : Nat) (b : List Byte) (s : State) : CRes :=
  let rs := regRecords b
  let vs := rs.map (recordCheck role s)
  match rs.findIdx? (fun r => inSpan r.addr && absentAddr s.variant r.addr) with
  | some i => .no 8 0 i
  | none =>
    if rs.isEmpty ∨ 512 < rs.length then .no 9 0 noDetail
    else
      let first := fun (f : Verdict → Bool) => vs.findIdx? f
      match (first (fun v => v == .silent || match v with | .refuse _ 9 _ | .refuse _ 10 _ => true | _ => false)).orElse (fun _ => first (fun v => v != .ok)) with
      | some i => ((vs[i]?).bind (fun v => refusalOf v i)).getD (.no 9 0 i)
      | none => recordsApply role 0 rs s

/-- Does a byte range lie in one window? -/
def windowRange (a n : Nat) : Bool := match windowOf a with | some (o, k, _) => decide (a + n ≤ o + k) | none => false

/-- The first byte offset at which a read of `n` bytes from `a` meets an uncorrectable word (R465). -/
def firstUe (a n : Nat) (s : State) : Option Nat :=
  if s.ecc.bad.isEmpty then none
  else ((List.range (n / 8)).find? (fun i => match eccWord (a + 8 * i) with | some (d, w) => eccUe (eccBad s d w) | none => false)).map (8 * ·)

/-- MEM_READ (R451, R459, R465, R522). The Cairn entry of an INTERNAL answer gives the address (DESIGN CHOICE, log entry 172). -/
def memReadDo (b : List Byte) (s : State) : CRes :=
  let a := leAt b 0 4
  let n := leAt b 4 4
  if rangeAbsent s.variant a n then .no 8 0 noDetail
  else if n % 8 ≠ 0 ∨ 65528 < n ∨ a % 8 ≠ 0 ∨ !windowRange a n then .no 9 0 noDetail
  else match firstUe a n s with
    | some o => .cut 14 o (cairnFault 0x90 sevError 0x40 (leBytes 4 (a + o)) (touchMem a (o + 8) s).2)
    | none => .ok ((List.range (n / 8)).flatMap (fun i => leBytes 8 (winView .harness (a + 8 * i) s).toNat)) (touchMem a n s).2

/-- What a window's rules say of a word (R110, R113, R260, R522). -/
def winCheck (a : Nat) (s : State) : Verdict :=
  match a / 0x10000000 with
  | 1 =>
    if fbit s TOPO_BANK TOPO_BANK_SWAP_PENDING || bankClosed s ((a - 0x10000000) / 0x100000) then vState 5 else .ok
  | 2 => if storeClosed s (a - 0x20000000) 8 then vState 6 else .ok
  | 4 =>
    let n := (a - 0x40000000) / 0x10000
    if (slotOf s n (a % 0x10000 / 8 / slotWords s n)).st = 2 then vState 0xC else .ok
  | _ => vRange

/-- MEM_WRITE (R451, R522): DETAIL of a refusal is the first offending byte offset. -/
def memWriteDo (role : Nat) (b : List Byte) (s : State) : CRes :=
  let a := leAt b 0 4
  let n := leAt b 4 4
  let as := (List.range (n / 8)).map (fun i => a + 8 * i)
  if rangeAbsent s.variant a n then .no 8 0 noDetail
  else if n % 8 ≠ 0 ∨ a % 8 ≠ 0 ∨ !windowRange a n then .no 9 0 noDetail
  else match as.findSome? (fun x => refusalOf (winCheck x s) (x - a)) with
    | some r => r
    | none => .ok [] (as.foldl (fun t x => winWrite .harness role x (BitVec.ofNat 64 (leAt b (8 + (x - a)) 8)) t) s)

-- Tables and Topo ------------------------------------------------------------------------------------------------

/-- Table and generation of a body: a refusal (R110). -/
def tblNamed (b : List Byte) (s : State) : Option CRes :=
  if 63 < leAt b 0 1 ∨ 1 < leAt b 1 1 then some (.no 9 0 noDetail)
  else if tblClosed s (leAt b 0 1) (leAt b 1 1) then some (.no 7 6 noDetail) else none

/-- TBL_CFG (R109). -/
def tblCfgDo (b : List Byte) (s : State) : CRes :=
  let n := leAt b 0 1
  let g := leAt b 1 1
  let w := fun (i : Nat) => BitVec.ofNat 64 (leAt b i 8)
  match tblNamed b s with
  | some r => r
  | none =>
    if !rangesOk (TOPO_TBL_CFG n g) (w 8) ∨ !rangesOk (TOPO_TBL_BASE n g) (w 16) then .no 9 0 noDetail
    else .ok [] (regApply .harness (TOPO_TBL_CFG n g) (w 8) (regApply .harness (TOPO_TBL_DEFAULT n g) (w 24)
      (regApply .harness (TOPO_TBL_BASE n g) (w 16) s)))

/-- Entries one at a time: how many were written, and the state. -/
def putEntries (n g : Nat) : List (List Byte × List Nat) → Nat → State → Nat × Bool × State
  | [], k, s => (k, true, s)
  | (key, ws) :: es, k, s => match tblPut n g key ws s with
    | some t => putEntries n g es (k + 1) t
    | none => (k, false, s)

/-- Keys one at a time: how many were removed, and the state. -/
def delEntries (n g : Nat) : List (List Byte) → Nat → State → Nat × Bool × State
  | [], k, s => (k, true, s)
  | key :: es, k, s => match tblDel n g key s with
    | some t => delEntries n g es (k + 1) t
    | none => (k, false, s)

/-- TBL_PUT (R451). -/
def tblPutDo (b : List Byte) (s : State) : CRes :=
  let n := leAt b 0 1
  let g := leAt b 1 1
  let w := (tblCopy s n g).words
  let es := (List.range (leAt b 4 4)).map (fun i =>
    let o := 8 + (16 + 8 * w) * i
    (slice b o 16, (List.range w).map (fun k => leAt b (o + 16 + 8 * k) 8)))
  match tblNamed b s with
  | some r => r
  | none =>
    let r := putEntries n g es 0 s
    if r.2.1 then .ok (leBytes 4 r.1 ++ zeros 4) r.2.2 else .cut 9 r.1 r.2.2

/-- TBL_DEL (R451). -/
def tblDelDo (b : List Byte) (s : State) : CRes :=
  let n := leAt b 0 1
  let g := leAt b 1 1
  match tblNamed b s with
  | some r => r
  | none =>
    let r := delEntries n g ((List.range (leAt b 4 4)).map (fun i => slice b (8 + 16 * i) 16)) 0 s
    if r.2.1 then .ok (leBytes 4 r.1 ++ zeros 4) r.2.2 else .cut 10 r.1 r.2.2

/-- TBL_FLIP (R112): the generation bits that MASK names take the value of GEN. -/
def tblFlipDo (b : List Byte) (s : State) : CRes :=
  let m : Word := BitVec.ofNat 64 (leAt b 0 8)
  if flipBusy s then .no 7 6 noDetail
  else .ok [] (tblFlip ((rd s TOPO_TBL_GEN &&& ~~~ m) ||| (BitVec.ofNat 64 (leAt b 8 8) &&& m)).toNat s)

/-- TOPO_LOAD (R113): Pitches into the standby bank; the staging register it used is empty afterwards. -/
def topoLoadDo (b : List Byte) (s : State) : CRes :=
  let bank := leAt b 0 1
  let first := leAt b 4 4
  if 1 < bank ∨ 32768 < first + leAt b 8 4 ∨ bank = fget s TOPO_BANK TOPO_BANK_ACTIVE then .no 9 0 noDetail
  else if fbit s TOPO_BANK TOPO_BANK_SWAP_PENDING then .no 7 5 noDetail
  else .ok [] (notRepairable bank (putMem (pitchAddr bank first) (b.drop 16) (stageSet .harness [] s)))

/-- TOPO_SWAP (R114): answered at the dispatch boundary. -/
def topoSwapDo (b : List Byte) (s : State) : CRes :=
  let gen := decide (leAt b 0 1 = 1)
  if 1 < leAt b 0 1 then .no 9 0 noDetail
  else if swapBusy s gen then .no 7 (if fbit s TOPO_BANK TOPO_BANK_SWAP_PENDING then 5 else 6) noDetail
  else .wait (swapGo gen (if gen then wr TOPO_TBL_GEN_NEXT (BitVec.ofNat 64 (leAt b 8 8)) s else s))

/-- What CTX_SNAP returns. -/
def ctxSnapBody (s : State) : List Byte :=
  ([PE_CTX_STATE, PE_CTX_STACK, PE_CTX_FLAGS, PE_CTX_ANCH] ++ (List.range 8).map PE_CTX_DESC ++ (List.range 16).map PE_CTX_W).flatMap
    (fun a => leBytes 8 (rd s a).toNat)

/-- CTX_SNAP (R116): answered when the snapshot is taken. -/
def ctxSnapDo (b : List Byte) (s : State) : CRes :=
  if peCount s.variant ≤ leAt b 0 1 ∧ leAt b 0 1 < 64 then .no 8 0 noDetail
  else if 64 ≤ leAt b 0 1 ∨ 3 < leAt b 1 1 then .no 9 0 noDetail
  else if s.pe.snapWait.isSome then .no 11 0 noDetail
  else
    let s1 := snapGo (fset PE_CTX_SEL PE_CTX_SEL_ENGINE (leAt b 0 1) (fset PE_CTX_SEL PE_CTX_SEL_CTX (leAt b 1 1) s))
    if s1.pe.snapWait.isSome then .wait s1 else .ok (ctxSnapBody s1) s1

-- Time and references --------------------------------------------------------------------------------------------

/-- TIME_GET (R451). -/
def timeGetDo (s : State) : CRes := .ok (leBytes 8 (capHi s).toNat ++ leBytes 8 (capLo s).toNat ++ leBytes 8 (capStatus s).toNat) s

/-- TIME_SET (R47, R51): answered at the set edge or its timeout. -/
def timeSetDo (sid seq : Nat) (b : List Byte) (s : State) : CRes :=
  let s1 := wrI .harness TSU_SET_SEC (BitVec.ofNat 64 (leAt b 8 8)) (wrI .harness TSU_SET_SUB (BitVec.ofNat 64 (leAt b 16 8))
    (wrI .harness TSU_SET_BOUND (BitVec.ofNat 64 (leAt b 24 4)) s))
  if 1 < leAt b 0 1 ∨ 7 < leAt b 1 1 ∨ 999999999 < leAt b 20 4 then .no 9 0 noDetail
  else match viaReg TSU_SET_CTL (withBits 0 [(TSU_SET_CTL_EDGE, leAt b 0 1), (TSU_SET_CTL_PIN, leAt b 1 1), (TSU_SET_CTL_ARM, 1)]) s1 with
    | .ok _ s2 => .wait { s2 with tsu := { s2.tsu with setSession := sid, setSeq := seq } }
    | r => r

/-- FREQ_SET (R30, R42). -/
def freqSetDo (b : List Byte) (s : State) : CRes :=
  let x := sgn 64 (leAt b 0 8)
  if x < -freqLimit ∨ freqLimit < x then .no 9 0 noDetail else viaReg TSU_FREQ_ADJ (BitVec.ofNat 64 (unsgn 40 x)) s

/-- SLEW (R43, R44). -/
def slewDo (b : List Byte) (s : State) : CRes :=
  if 1023 < leAt b 8 4 then .no 9 0 noDetail
  else match viaReg TSU_SLEW_RATE (BitVec.ofNat 64 (leAt b 8 4)) s with
    | .ok _ s1 => viaReg TSU_SLEW_REQ (BitVec.ofNat 64 (leAt b 0 8)) s1
    | r => r

/-- LEAP_SET (R57). -/
def leapSetDo (b : List Byte) (s : State) : CRes :=
  let p := sgn 8 (leAt b 0 1)
  if p < -1 ∨ 1 < p then .no 9 0 noDetail
  else match viaReg TSU_LEAP_SEC (BitVec.ofNat 64 (leAt b 8 8)) s with
    | .ok _ s1 => viaReg TSU_LEAP_PENDING (BitVec.ofNat 64 (unsgn 2 p)) s1
    | r => r

/-- REF_CMD (R341). -/
def refCmdDo (b : List Byte) (s : State) : CRes :=
  let f := leAt b 1 1
  if f = 0 ∨ 3 < f ∨ 19 < leAt b 0 1 then .no 9 0 noDetail
  else viaReg REFS_CMD (withBits 0 [(if f = 1 then REFS_CMD_ACCEPT_JUMP else if f = 2 then REFS_CMD_LOCKOUT else REFS_CMD_UNLOCK, 1),
    (REFS_CMD_SLOT, leAt b 0 1)]) s

/-- REF_STATUS. -/
def refStatusDo (s : State) : CRes :=
  .ok ((REFS_STATUS :: (List.range 20).map REFS_SLOT_STATE).flatMap (fun a => leBytes 8 (regView .harness a s).toNat)) s

-- Services -------------------------------------------------------------------------------------------------------

/-- NTS_KEY (R197). -/
def ntsKeyDo (b : List Byte) (s : State) : CRes :=
  let f := leAt b 0 1
  if absentAddr s.variant SVC_KEY_CTL then .no 8 0 noDetail
  else if f ≠ 1 ∧ f ≠ 2 then .no 9 0 noDetail
  else viaReg SVC_KEY_CTL (withBits 0 [(if f = 1 then SVC_KEY_CTL_ROTATE else SVC_KEY_CTL_REVOKE, 1), (SVC_KEY_CTL_KEY_ID, leAt b 4 4)]) s

/-- PTP_CANCEL (R247): every grant of the address ends, with a CANCEL for each type granted. -/
def ptpCancelDo (b : List Byte) (s : State) : CRes :=
  let a := beNat b
  let gs := (s.ptp.grants.filter (fun x => match x.2 with | some g => g.addr = a && (g.ann.on || g.sync.on || g.dresp.on) | none => false)).map (·.1)
  if gs.isEmpty then .no 10 0 noDetail else .ok [] (forEach gs (fun g t => grantCancel g 7 t) s)

/-- GNSS_SNAP (R313): the registers take the values given, and the snapshot is armed. -/
def gnssSnapDo (b : List Byte) (s : State) : CRes :=
  if !gnssFitted s then .no 8 0 noDetail
  else match viaReg GNSS_SNAP_SEC (BitVec.ofNat 64 (leAt b 8 8)) s with
    | .ok _ s1 => match viaReg GNSS_SNAP_SUB (BitVec.ofNat 64 (leAt b 16 8)) s1 with
      | .ok _ s2 => viaReg GNSS_SNAP_CTL (withBits (BitVec.ofNat 64 (leAt b 0 8)) [(GNSS_SNAP_CTL_ARM, 1), (GNSS_SNAP_CTL_RELEASE, 0)]) s2
      | r => r
    | r => r

/-- A write of one bit of a register whose other fields keep their values. -/
def bitCmd (a : Nat) (f : Fld) (s : State) : CRes := viaReg a (withBits (rd s a) [(f, 1)]) s

/-- BELAY_FRAME (R385): without a session of the link there is no twin to send it to. -/
def belayFrameDo (b : List Byte) (s : State) : CRes :=
  if 7 < leAt b 0 1 then .no 9 0 noDetail
  else if !linkUp s then .no 7 9 noDetail
  else .ok [] (belaySend 0x20 (b.take 1 ++ b.drop 8) s)

-- Flash and device -----------------------------------------------------------------------------------------------

/-- Copies that a flash range overlaps. -/
def copiesMet (off n : Nat) : List Nat :=
  [0, 1].filter (fun c => decide (off < copyBase c + copyRoom) && decide (copyBase c < off + n))

/-- Does the map allow erase and write of a range (R398, R420, R438)? -/
def nvmAllowed (off n : Nat) (s : State) : Bool :=
  let whole := fun (c : Nat) => decide (copyBase c ≤ off) && decide (off + n ≤ copyBase c + copyRoom) && (phase s = 4 || copyUsed s != c)
  whole 0 || whole 1 || decide (0x4000000 ≤ off)

/-- Field of a verified mark. -/
def markOf (c : Nat) : Fld := if c = 0 then SYS_BOOK_STATUS_VERIFIED_A else SYS_BOOK_STATUS_VERIFIED_B

/-- An operation of the flash starts (R420); a write or erase clears the marks of the copies it meets. -/
def nvmStart (sid kind off n : Nat) (data : List Byte) (s : State) : State :=
  let s1 : State := { s with nvm := { s.nvm with op := some { sid := sid, kind := kind, off := off, len := n, data := data } } }
  if kind = 2 then s1 else forEach (copiesMet off n) (fun c a => fsetB SYS_BOOK_STATUS (markOf c) false a) s1

/-- NVM_READ (R420). -/
def nvmReadDo (b : List Byte) (s : State) : CRes :=
  if 65528 < leAt b 4 4 then .no 9 0 noDetail
  else if s.nvm.op.isSome then .no 11 0 noDetail
  else .ok (flashRead s (leAt b 0 4) (leAt b 4 4)) s

/-- NVM_ERASE and NVM_WRITE (R420). -/
def nvmChangeDo (sid kind : Nat) (b : List Byte) (s : State) : CRes :=
  let off := leAt b 0 4
  let n := leAt b 4 4
  let bad := if kind = 0 then decide (off % Config.flashSector ≠ 0) || decide (n % Config.flashSector ≠ 0) else decide (65528 < n)
  if bad then .no 9 0 noDetail
  else if !nvmAllowed off n s then .no 7 7 noDetail
  else if s.nvm.op.isSome then .no 11 0 noDetail
  else .wait (nvmStart sid kind off n (b.drop 8) s)

/-- NVM_VERIFY (R421). -/
def nvmVerifyDo (sid : Nat) (b : List Byte) (s : State) : CRes :=
  if 1 < leAt b 0 1 then .no 9 0 noDetail
  else if s.nvm.op.isSome then .no 11 0 noDetail
  else .wait (nvmStart sid 2 (copyBase (leAt b 0 1)) copyRoom [] s)

/-- NVM_ACTIVATE (R421): a preference record names the copy. -/
def nvmActivateDo (b : List Byte) (s : State) : CRes :=
  let c := leAt b 0 1
  if 1 < c then .no 9 0 noDetail
  else if !fbit s SYS_BOOK_STATUS (markOf c) then .no 7 8 noDetail
  else if s.nvm.op.isSome then .no 11 0 noDetail
  else .ok [] (prefShow (jAppend [6, stage s, 0, c, min s.start.latchRun 255, (rd s SYS_BOOK_ID).toNat, attemptMs s] s))

/-- RESTART: the restart follows the answer (R451). -/
def restartDo (s : State) : CRes := if s.nvm.op.isSome then .no 11 0 noDetail else .ok [] s

/-- BIV_RELEASE: the release follows the answer (R439, R451). -/
def bivReleaseDo (b : List Byte) (s : State) : CRes :=
  if 2 < leAt b 0 1 then .no 9 0 noDetail
  else if releaseState s ≠ 0 then .no 7 (releaseState s) noDetail
  else restartDo s

/-- OTP_OWNER (R408, R451): the owner fields are programmed once. -/
def otpOwnerDo (b : List Byte) (s : State) : CRes :=
  if s.otp.locked ∨ s.otp.ownerHash ≠ [] then .no 7 0x15 noDetail
  else
    let lock := decide (leAt b 96 8 ≠ 0)
    let s1 : State := { s with otp := { s.otp with owk := b.take 32, ownerHash := slice b 32 64, locked := lock } }
    .ok [] (fsetB SYS_OTP SYS_OTP_OWNED true (fsetB SYS_OTP SYS_OTP_OWK_SET true (fsetB SYS_OTP SYS_OTP_LOCKED lock s1)))

-- Counters and the log -------------------------------------------------------------------------------------------

/-- CNT_SNAP (R495). -/
def cntSnapDo (b : List Byte) (s : State) : CRes :=
  let i := leAt b 0 2
  let n := leAt b 2 2
  if n = 0 ∨ 1024 < n ∨ 1600 < i + n then .no 9 0 noDetail
  else
    let s1 := cntMeet true i n (cntSnap s)
    .ok (leBytes 8 (gtSec s1.cnt.snapAt) ++ leBytes 8 (gtSub s1.cnt.snapAt)
      ++ (List.range n).flatMap (fun k => leBytes 8 (cntAt s1.cnt.shLive (i + k)))) s1

/-- CNT_READ. -/
def cntReadDo (b : List Byte) (s : State) : CRes :=
  let i := leAt b 0 2
  let n := leAt b 2 2
  if 1600 < i + n then .no 9 0 noDetail
  else
    let s1 := cntMeet false i n s
    .ok ((List.range n).flatMap (fun k => leBytes 8 (cntAt s1.cnt.live (i + k)))) s1

/-- Entries that a read of `n` from index `f` finds below `h`. -/
def logCount (h f n : Nat) : Nat := min (f + n) h - f

/-- `n` entries from index `f`, behind HEAD (R465, R501). -/
def logLook (h f n : Nat) (s : State) : CRes :=
  let s1 := cairnMeet f n s
  .ok (leBytes 4 h ++ zeros 4 ++ cairnEntries s1 f n) s1

/-- LOG_READ (R501). -/
def logReadDo (b : List Byte) (s : State) : CRes :=
  let h := fget s CNT_CAIRN_HEAD CNT_CAIRN_HEAD_HEAD
  let f := leAt b 0 4
  let n := leAt b 4 4
  if 2047 < n then .no 9 0 noDetail
  else if f + 4096 < h then .no 9 0 (h - 4096)
  else logLook h f (logCount h f n) s

/-- DUMP_CFG (R497). -/
def dumpCfgDo (b : List Byte) (s : State) : CRes :=
  let rs := [CNT_DUMP_CFG, CNT_DUMP_RING, CNT_DUMP_HOST_ADDR, CNT_DUMP_HOST]
  let v := fun (i : Nat) => BitVec.ofNat 64 (leAt b (8 * i) 8)
  match (List.range 4).findSome? (fun i => refusalOf (regCheck .harness 2 ((rs[i]?).getD 0) (v i) s) i) with
  | some r => r
  | none => .ok [] ((List.range 4).foldl (fun a i => regApply .harness ((rs[i]?).getD 0) (v i) a) s)

-- Sessions -------------------------------------------------------------------------------------------------------

/-- CLOSE (R446): another session that is closed is told; the own one closes after its answer. -/
def closeDo (sid : Nat) (b : List Byte) (s : State) : CRes :=
  let t := leAt b 0 4
  if t = 0 ∨ t = sid then .ok [] s
  else if (sessionOf s t).isNone then .no 10 0 noDetail
  else .ok [] (sessionEnd 2 t s)

/-- SUBSCRIBE (R452). -/
def subscribeDo (sid : Nat) (b : List Byte) (s : State) : CRes :=
  match sessionOf s sid with
  | none => .no 10 0 noDetail
  | some x => .ok (leBytes 8 (x.ntfSeq + 1)) (sessionSet { x with evMask := leAt b 0 32, flags := leAt b 32 4 } s)

/-- SESSIONS. -/
def sessionsDo (s : State) : CRes :=
  .ok (leBytes 4 s.har.sessions.length ++ zeros 4 ++ s.har.sessions.flatMap (fun x =>
    leBytes 4 x.sid ++ leBytes 1 x.role ++ leBytes 1 (tidKind x.tid) ++ zeros 2 ++ leBytes 8 x.openSec)) s

/-- REGPATH_BIND (R453): the management port has no register path. -/
def regpathBindDo (sid : Nat) (tid : List Byte) (s : State) : CRes :=
  if tidKind tid = 2 then .ok [] (fset HOST_REGPATH HOST_REGPATH_PCIE_SESSION sid s)
  else if tidKind tid = 3 then .ok [] (fset HOST_REGPATH HOST_REGPATH_HSPI_SESSION sid s)
  else .no 8 0 noDetail

-- Dispatch -------------------------------------------------------------------------------------------------------

/-- Sessions, registers, memory, tables and Topo. -/
def cmdLow (cmd sid role : Nat) (tid b : List Byte) (s : State) : CRes :=
  match cmd with
  | 0x0103 => closeDo sid b s
  | 0x0104 => .ok [] s
  | 0x0105 => subscribeDo sid b s
  | 0x0106 => sessionsDo s
  | 0x0107 => regpathBindDo sid tid s
  | 0x0201 => regReadDo b s
  | 0x0202 => regWriteDo role b s
  | 0x0203 => memReadDo b s
  | 0x0204 => memWriteDo role b s
  | 0x0301 => tblCfgDo b s
  | 0x0302 => tblPutDo b s
  | 0x0303 => tblDelDo b s
  | 0x0304 => tblFlipDo b s
  | 0x0305 => topoLoadDo b s
  | 0x0306 => topoSwapDo b s
  | 0x0307 => ctxSnapDo b s
  | _ => .no 1 0 noDetail

/-- Time, references, services, GNSS and the pair. -/
def cmdMid (cmd sid seq : Nat) (b : List Byte) (s : State) : CRes :=
  match cmd with
  | 0x0401 => timeGetDo s
  | 0x0402 => timeSetDo sid seq b s
  | 0x0403 => freqSetDo b s
  | 0x0404 => slewDo b s
  | 0x0405 => leapSetDo b s
  | 0x0406 => refCmdDo b s
  | 0x0407 => refStatusDo s
  | 0x0501 => mirrored 0x0501 svcAddrDo b s
  | 0x0502 => mirrored 0x0502 ntpProfDo b s
  | 0x0503 => ntsKeyDo b s
  | 0x0504 => mirrored 0x0504 keIdentDo b s
  | 0x0505 => ptpCancelDo b s
  | 0x0601 => gnssSnapDo b s
  | 0x0602 => bitCmd GNSS_CTL GNSS_CTL_ACCEPT s
  | 0x0603 => bitCmd GNSS_SURVEY GNSS_SURVEY_RESTART s
  | 0x0604 => bitCmd GNSS_SNAP_CTL GNSS_SNAP_CTL_RELEASE s
  | 0x0701 => viaReg PAIR_CMD (withBits 0 [(PAIR_CMD_JOIN, 1)]) s
  | 0x0702 => viaReg PAIR_CMD (withBits 0 [(PAIR_CMD_YIELD, 1)]) s
  | 0x0703 => viaReg PAIR_CMD (withBits 0 [(PAIR_CMD_PART, 1)]) s
  | 0x0704 => belayFrameDo b s
  | _ => .no 1 0 noDetail

/-- Flash, restarts, Rest, counters and the log. -/
def cmdHigh (cmd sid : Nat) (b : List Byte) (s : State) : CRes :=
  match cmd with
  | 0x0801 => nvmReadDo b s
  | 0x0802 => nvmChangeDo sid 0 b s
  | 0x0803 => nvmChangeDo sid 1 b s
  | 0x0804 => nvmVerifyDo sid b s
  | 0x0805 => nvmActivateDo b s
  | 0x0806 => restartDo s
  | 0x0807 => bivReleaseDo b s
  | 0x0808 => otpOwnerDo b s
  | 0x0809 => restEnter s
  | 0x080A => restExit s
  | 0x0901 => cntSnapDo b s
  | 0x0902 => cntReadDo b s
  | 0x0903 => logReadDo b s
  | 0x0904 => dumpCfgDo b s
  | _ => .no 1 0 noDetail

/-- A command, its layout, role and phase checked. -/
def cmdDo (cmd sid seq role : Nat) (tid b : List Byte) (s : State) : CRes :=
  if cmd < 0x0400 then cmdLow cmd sid role tid b s else if cmd < 0x0800 then cmdMid cmd sid seq b s else cmdHigh cmd sid b s

end Sys2Proof.Machine
end

