-- ==== Sys2Proof/Machine/Harness.lean ====
section
/-!
DEFINITION. Machine/Harness.lean: the Harness protocol (R440 to R455): opening of sessions, the order of checks (R448), repeats
(R445), requests that answer later (R447), the PCIe rings, HSPI and the status page, and one meaning per command.
-/
namespace Sys2Proof.Machine
open Sys2Proof

-- Answers --------------------------------------------------------------------------------------------------------

/-- Count a response that is not OK (R448), with the Cairn entry of a STATE_REFUSED (R449). -/
def harRefused (cmd sid status state : Nat) (s : State) : State :=
  let s1 := if status = 0 then s else bump (UC_HARNESS 5) 1 s
  if status = 7 then cairn 0xA0 sevNotice 0x02 (state % 256) (leBytes 2 cmd ++ leBytes 2 state ++ leBytes 4 sid ++ zeros 8) s1 else s1

/-- Answer a session's request and keep the response (R445); one whose session has closed is discarded (R446). -/
def harAnswer (sid : Nat) (req : List Byte) (status state : Nat) (body : List Byte) (s : State) : State :=
  match sessionOf s sid with
  | none => s
  | some x =>
    let r := harMsg x.key 1 sid (leAt req 8 8) (leAt req 16 2) status body
    let kept := x.kept.map (fun k => if k.2.1 = req ∧ k.2.2 = none then (k.1, k.2.1, some r) else k)
    harSend x.tid false r (harRefused (leAt req 16 2) sid status state (sessionSet { x with kept := kept, busy := none } s))

/-- Body of a request. -/
def reqBody (req : List Byte) : List Byte := (req.drop 32).take (req.length - 48)

/-- Checks 5 to 14 of R448, and the command. -/
def harCheck (x : Session) (req : List Byte) (s : State) : CRes :=
  let cmd := leAt req 16 2
  let b := reqBody req
  if leAt req 2 1 ≠ 1 ∨ leAt req 18 2 ≠ 0 ∨ !allZero (slice req 24 8) then .no 1 0 noDetail
  else if 65536 < leAt req 20 4 ∨ leAt req 20 4 ≠ b.length ∨ (tidKind x.tid = 1 ∧ 65504 < req.length) then .no 2 0 noDetail
  else if !harCmds.contains cmd then .no 3 0 noDetail
  else if cmd = 0x0101 ∨ cmd = 0x0102 then .no 1 0 noDetail
  else match cmdLayout cmd b s with
    | some st => .no st 0 noDetail
    | none => match roleDenied cmd x.sid x.role b s with
      | some d => .no 6 0 d
      | none =>
        if phase s = 4 ∧ !bivAccepts cmd b then .no 7 0x13 noDetail
        else cmdDo cmd x.sid (leAt req 8 8) x.role x.tid b s

/-- What follows an answer (R446, R451): CLOSE of the own session, a restart, a release. -/
def harAfter (sid : Nat) (req : List Byte) (s : State) : State :=
  let b := reqBody req
  match leAt req 16 2 with
  | 0x0103 => if leAt b 0 4 = 0 ∨ leAt b 0 4 = sid then sessionClose sid s else s
  | 0x0806 => harnessRestart s
  | 0x0807 => bivRelease (leAt b 0 1) s
  | _ => s

/-- Execute one accepted request (R447); a response that the transport cannot carry is not made (R440). -/
def harExec (sid : Nat) (req : List Byte) (s : State) : State :=
  match sessionOf s sid with
  | none => s
  | some x =>
    match harCheck x req s with
    | .ok body s1 =>
      if tidKind x.tid = 1 ∧ 65456 < body.length then harAnswer sid req 2 0 (failBody 0 65456) s
      else harAfter sid req (harAnswer sid req 0 0 body s1)
    | .no st code d => harAnswer sid req st code (failBody code d) s
    | .cut st d s1 => harAnswer sid req st 0 (failBody 0 d) s1
    | .wait s1 => match sessionOf s1 sid with
      | some y => sessionSet { y with busy := some req } s1
      | none => s1

/-- Requests that wait, until one of them waits for its answer. -/
def harDrain (sid : Nat) : Nat → State → State
  | 0, s => s
  | n + 1, s => match sessionOf s sid with
    | none => s
    | some x =>
      if x.busy.isSome then s
      else match x.wait with
        | [] => s
        | m :: ms => harDrain sid n (harExec sid m (sessionSet { x with wait := ms } s))

/-- The answer of a request that has waited, and the requests behind it. -/
def harLate (sid : Nat) (status state : Nat) (body : List Byte) (s : State) : State :=
  match (sessionOf s sid).bind (·.busy) with
  | none => s
  | some req => harDrain sid 8 (harAnswer sid req status state body s)

/-- Sessions whose request with a code waits for its answer. -/
def harWaiting (cmd : Nat) (s : State) : List Nat :=
  (s.har.sessions.filter (fun x => match x.busy with | some r => leAt r 16 2 = cmd | none => false)).map (·.sid)

/-- Answer every request with a code that waits. -/
def harLateAll (cmd status state : Nat) (body : List Byte) (s : State) : State :=
  (harWaiting cmd s).foldl (fun a sid => harLate sid status state body a) s

/-- A TIME_SET whose set has been cancelled is answered with STATE_REFUSED, as at its timeout (R447, R51); so is one whose ARM gave way
to the servo's. -/
def harWake (s : State) : State :=
  if fbit s TSU_STATE TSU_STATE_SET_ARMED ∧ s.servo.armed then harLateAll 0x0402 7 1 (failBody 1 noDetail) s
  else if fbit s TSU_STATE TSU_STATE_SET_ARMED ∨ fbit s TSU_STATE TSU_STATE_STATE then s else harLateAll 0x0402 7 2 (failBody 2 noDetail) s

-- Messages -------------------------------------------------------------------------------------------------------

/-- Is a transport served (R440)? -/
def harServed (tid : List Byte) (s : State) : Bool :=
  let t := tidKind tid
  decide (1 ≤ t ∧ t ≤ 3) && (fget s HOST_HARNESS_CFG HOST_HARNESS_CFG_TRANSPORTS).testBit (t - 1)

/-- A message dropped (R448). -/
def harDrop (s : State) : State := bump (UC_HARNESS 2) 1 s

/-- Answer of OPEN and PROVE outside a session (R441). -/
def harPlain (tid key : List Byte) (sid seq cmd status : Nat) (body : List Byte) (s : State) : State :=
  harSend tid false (harMsg key 1 sid seq cmd status body) (harRefused cmd sid status 0 s)

/-- A handshake or session ID is in use. -/
def sidUsed (n : Nat) (s : State) : Bool := s.har.sessions.any (fun x => x.sid = n) || s.har.shakes.any (fun x => x.hid = n)

/-- A new ID from the DRBG (R443): never 0, never in use. -/
def sidDraw : Nat → State → Nat × State
  | 0, s => ((((List.range 40).map (· + 1)).find? (fun n => !sidUsed n s)).getD 1, s)
  | k + 1, s =>
    let d := draw 32 s
    if d.1 = 0 ∨ sidUsed d.1 s then sidDraw k d.2 else d

/-- Is a transport locked (R444)? -/
def harLocked (t : Nat) (s : State) : Bool := (fget s HOST_HARNESS_STATUS HOST_HARNESS_STATUS_LOCKED).testBit (t - 1)

/-- Lock or unlock a transport. -/
def lockSet (t : Nat) (b : Bool) (s : State) : State :=
  let o := fget s HOST_HARNESS_STATUS HOST_HARNESS_STATUS_LOCKED
  let n := if b then o ||| 2 ^ (t - 1) else (o ||| 2 ^ (t - 1)) ^^^ 2 ^ (t - 1)
  setLevel EV_HARNESS_LOCKOUT (decide (n ≠ 0)) (fset HOST_HARNESS_STATUS HOST_HARNESS_STATUS_LOCKED n s)

/-- An AUTH_FAIL on a transport (R444): the fifth within 60 s locks it. -/
def authFail (t : Nat) (s : State) : State :=
  let now := xoNs s
  let s1 := raiseOnce EV_HARNESS_AUTH_FAIL (bump (UC_HARNESS 1) 1 s)
  let fs := now :: (mapGet (fun _ => []) s.har.fails t).filter (fun f => decide (now < f + 60 * 10 ^ 9))
  let put := fun (l : List Nat) (a : State) => ({ a with har := { a.har with fails := mapSet (fun _ => []) t l a.har.fails } } : State)
  if fs.length < 5 then put fs s1
  else
    let s2 : State := put [] s1
    let s3 : State := { s2 with har := { s2.har with
      lockEnd := mapSet (fun _ => 0) t (now + 60 * 10 ^ 9) s2.har.lockEnd,
      shakes := s2.har.shakes.filter (fun x => tidKind x.tid ≠ t) } }
    lockSet t true (cairnFault 0xA0 sevWarning t (leBytes 4 t) (harShow (bump (UC_HARNESS 6) 1 s3)))

/-- OPEN (R443): format, lock, resources. -/
def openDo (tid req : List Byte) (s : State) : State :=
  let b := reqBody req
  let seq := leAt req 8 8
  let no := fun (st : Nat) => harPlain tid [] 0 seq 0x0101 st (failBody 0 noDetail) s
  if harLocked (tidKind tid) s then no 12
  else if leAt req 2 1 ≠ 1 ∨ leAt req 18 2 ≠ 0 ∨ !allZero (slice req 24 8) ∨ leAt req 20 4 ≠ b.length ∨ b.length ≠ 40
      ∨ !allZero (slice b 1 7) ∨ !allZero (req.drop (req.length - 16)) then no 1
  else if 16 ≤ s.har.shakes.length then no 11
  else
    let d := drawBytes 32 s
    let h := sidDraw 64 d.2
    let s1 : State := { h.2 with har := { h.2.har with
      shakes := h.2.har.shakes ++ [{ hid := h.1, slot := leAt b 0 1, cn := slice b 8 32, dn := d.1, tid := tid }] } }
    harPlain tid [] h.1 seq 0x0101 0 d.1 (harShow s1)

/-- PROVE (R443): the proof, then resources; a refused proof leaves the handshake pending. A key that the key store has lost
fails (R466). -/
def proveDo (h : Handshake) (req : List Byte) (s0 : State) : State :=
  let seq := leAt req 8 8
  let no := fun (st : Nat) (a : State) => harPlain h.tid [] h.hid seq 0x0102 st (failBody 0 noDetail) a
  let t := tidKind h.tid
  match mapGet (fun _ => none) s0.har.keys h.slot with
  | some (role, via, k) =>
    let m := keyMeet (68 + h.slot) s0
    let s := m.2
    let proof := hmac256 k (ascii "GT98 HARNESS PROVE" ++ h.cn ++ h.dn ++ h.tid)
    if m.1 then no 4 (authFail t (keyGone (68 + h.slot) s))
    else if !via.testBit (t - 1) ∨ leAt req 20 4 ≠ 32 ∨ reqBody req ≠ proof then no 4 (authFail t s)
    else if 16 ≤ s.har.sessions.length then no 11 s
    else
      let key := hkdf (h.cn ++ h.dn) k (ascii "GT98 Harness" ++ h.tid) 32
      let d := sidDraw 64 s
      let x : Session := { sid := d.1, role := role, tid := h.tid, key := key, high := 0, win := 0, kept := [], wait := [], busy := none,
                           evMask := 0, flags := 0, ntfSeq := 0, openSec := nowSec s }
      let s1 : State := { d.2 with har := { d.2.har with
        shakes := d.2.har.shakes.filter (fun y => y.hid ≠ h.hid), sessions := d.2.har.sessions ++ [x] } }
      harPlain h.tid key d.1 seq 0x0102 0 (leBytes 1 role ++ zeros 3 ++ leBytes 4 (fget s HOST_HARNESS_CFG HOST_HARNESS_CFG_IDLE_S)
        ++ leBytes 8 (rd s SYS_SERIAL).toNat) (harShow (occur EV_HARNESS_SESSION (bump (UC_HARNESS 0) 1 s1)))
  | none => no 4 (authFail t s0)

/-- Is SEQ acceptable (R445)? -/
def seqFresh (x : Session) (seq : Nat) : Bool :=
  decide (x.high < seq) || (decide (x.high < seq + 64) && decide (0 < seq) && !x.win.testBit (x.high - seq))

/-- Note an accepted SEQ. -/
def seqTake (seq : Nat) (x : Session) : Session :=
  if x.high < seq then { x with high := seq, win := (x.win * 2 ^ min (seq - x.high) 64 + 1) % 2 ^ 64 }
  else { x with win := x.win ||| 2 ^ (x.high - seq) }

/-- A request of a session whose tag holds (R445 to R447). -/
def requestDo (x : Session) (req : List Byte) (s : State) : State :=
  let seq := leAt req 8 8
  let cmd := leAt req 16 2
  let plain := fun (st : Nat) (a : State) =>
    harSend x.tid false (harMsg x.key 1 x.sid seq cmd st (failBody 0 noDetail)) (harRefused cmd x.sid st 0 a)
  match x.kept.find? (fun k => k.2.1 = req) with
  | some (_, _, some r) => harSend x.tid false r s
  | some (_, _, none) => s
  | none =>
    if !seqFresh x seq then plain 5 (bump (UC_HARNESS 4) 1 s)
    else if 8 ≤ x.wait.length + (if x.busy.isSome then 1 else 0) then plain 11 s
    else
      let y := seqTake seq { x with kept := ((seq, req, none) :: x.kept).take 8 }
      if x.busy.isSome then sessionSet { y with wait := x.wait ++ [req] } s
      else harExec x.sid req (sessionSet y s)

/-- A message on a transport, through checks 1 to 4 (R443, R448). -/
def harness (tid msg : List Byte) (s0 : State) : State :=
  if !harServed tid s0 then s0
  else if msg.length < 48 ∨ leAt msg 0 2 ≠ 0x4748 ∨ leAt msg 3 1 ≠ 0 then harDrop s0
  else
    let s := harWake s0
    let sid := leAt msg 4 4
    let cmd := leAt msg 16 2
    match sessionOf s sid with
    | some x =>
      if sid = 0 ∨ x.tid ≠ tid then harDrop s
      else if (hmac256 x.key (msg.take (msg.length - 16))).take 16 ≠ msg.drop (msg.length - 16) then
        raiseOnce EV_HARNESS_AUTH_FAIL (bump (UC_HARNESS 3) 1 s)
      else requestDo x msg s
    | none =>
      if sid = 0 ∧ cmd = 0x0101 then openDo tid msg s
      else if cmd ≠ 0x0102 ∨ sid = 0 then harDrop s
      else match s.har.shakes.find? (fun h => h.hid = sid) with
        | some h => if h.tid = tid then proveDo h msg s else harDrop s
        | none => harPlain tid [] sid (leAt msg 8 8) 0x0102 10 (failBody 0 noDetail) s

/-- A message with the code of its row. -/
def harRow (cmd : Nat) (tid msg : List Byte) (s : State) : State := if leAt msg 16 2 = cmd then harness tid msg s else s

/-- Does a message fail the framing, session or tag checks, or name no command (R448)? -/
def harBad (tid msg : List Byte) (s : State) : Bool :=
  let sid := leAt msg 4 4
  let cmd := leAt msg 16 2
  decide (msg.length < 48) || decide (leAt msg 0 2 ≠ 0x4748) || decide (leAt msg 3 1 ≠ 0) || !harCmds.contains cmd
    || (match sessionOf s sid with
      | some x => decide (x.tid ≠ tid) || decide ((hmac256 x.key (msg.take (msg.length - 16))).take 16 ≠ msg.drop (msg.length - 16))
      | none => !([0x0101, 0x0102].contains cmd))

-- Expiries -------------------------------------------------------------------------------------------------------

/-- A handshake expires (R443). -/
def shakeExpire (hid : Nat) (s : State) : State :=
  harShow { s with har := { s.har with shakes := s.har.shakes.filter (fun x => x.hid ≠ hid) } }

/-- A lock ends (R444). -/
def lockExpire (t : Nat) (s : State) : State :=
  lockSet t false { s with har := { s.har with lockEnd := mapSet (fun _ => 0) t 0 s.har.lockEnd } }

-- Flash operations -----------------------------------------------------------------------------------------------

/-- The operation that runs ends (R420, R421). After a failure `left` is what the range holds. -/
def nvmComplete (ok : Bool) (left : List Byte) (s : State) : State :=
  match s.nvm.op with
  | none => s
  | some o =>
    let s1 : State := { s with nvm := { s.nvm with op := none } }
    let fail := fun (a : State) => harLate o.sid 13 0 (failBody 0 noDetail) a
    if o.kind = 2 then
      (if !ok then fail s1
       else
        let c := if o.off = 0 then 0 else 1
        match copyVerify s1 c with
        | .inr _ => harLate o.sid 0 0 (zeros 16) (fsetB SYS_BOOK_STATUS (markOf c) true s1)
        | .inl e => harLate o.sid 0 0 (leBytes 1 e.step ++ zeros 3 ++ leBytes 4 e.off ++ leBytes 2 e.ty ++ zeros 6)
            (fsetB SYS_BOOK_STATUS (markOf c) false s1))
    else if !ok then fail (flashStore o.off (left.take o.len) s1)
    else if o.kind = 0 then harLate o.sid 0 0 [] (flashErase o.off o.len s1)
    else harLate o.sid 0 0 [] (flashProgram o.off o.data s1)

-- The PCIe page and rings, and HSPI ------------------------------------------------------------------------------

/-- STATUS_PAGE_REWRITE (R454): bytes 0x00 to 0x2F; the rest of the page is zero. -/
def pageRewrite (s : State) : State :=
  let n := s.har.pageSeq + 1
  let p := leBytes 8 (2 * n) ++ leBytes 8 (nowSec s) ++ leBytes 8 (gtSub (gtNow s)) ++ leBytes 4 (boundNs s)
    ++ leBytes 1 (fget s SERVO_STATE SERVO_STATE_STATE) ++ leBytes 1 (selected s) ++ leBytes 1 (pairRole s) ++ leBytes 1 (phase s)
    ++ leBytes 8 (regView .pcie SYS_START_STATUS s).toNat ++ leBytes 4 (fget s CNT_CAIRN_HEAD CNT_CAIRN_HEAD_HEAD)
    ++ leBytes 4 ((regView .pcie HOST_HARNESS_STATUS s).toNat % 2 ^ 32)
  { s with har := { s.har with pageSeq := n, page := p } }

/-- Transport ID of a ring (R440). -/
def ringTid (k : Nat) : List Byte := [2, BitVec.ofNat 8 k] ++ zeros 22

/-- Set-up of a ring: bases and size keep their values while it is enabled (R454). -/
def ringSetup (k : Nat) (u : RingSetup) (s : State) : State :=
  let r := ringOf s k
  let r1 := if r.enable ∨ u.size < 16 ∨ 1024 < u.size ∨ u.size ≠ 2 ^ Nat.log2 u.size then r
    else { r with reqBase := u.reqBase, rspBase := u.rspBase, size := u.size }
  ringSet k { r1 with enable := u.enable } s

/-- The host advances REQ_PROD (R454): `msgs` are the messages in its memory, in ring order. -/
def ringReq (k prod : Nat) (u : Option RingSetup) (msgs : List (List Byte)) (s : State) : State :=
  let s1 := match u with | some x => ringSetup k x s | none => s
  let r := ringOf s1 k
  if !r.enable then ringSet k { r with reqProd := prod % 2 ^ 32 } s1
  else
    let n := min ((prod + 2 ^ 32 - r.reqCons) % 2 ^ 32) r.size
    let s2 := ringSet k { r with reqProd := prod % 2 ^ 32, reqCons := prod % 2 ^ 32 } s1
    (msgs.take n).foldl (fun a m => harness (ringTid k) m a) s2

/-- The host advances RSP_CONS and posts buffers (R454): address and capacity. -/
def ringRsp (k cons : Nat) (bufs : List (Nat × Nat)) (s : State) : State :=
  let r := ringOf s k
  ringFill k (r.wait.length + 1) (ringSet k { r with rspCons := cons % 2 ^ 32, posted := r.posted ++ bufs } s)

/-- The oldest message has waited 1 s for a buffer (R454). -/
def ringTimeout (k : Nat) (s : State) : State :=
  let r := ringOf s k
  match r.wait with
  | [] => s
  | (ntf, _) :: ws =>
    if r.posted ≠ [] then s
    else
      let s1 := ringSet k { r with wait := ws } s
      if ntf then ntfLost s1 else s1

/-- No room for a request on HSPI (R455): its response could not be held. -/
def hspiFull (s : State) : Bool := decide (8 ≤ s.har.hspi.length) && s.har.hspi.all (fun x => !x.1)

def hspiTid : List Byte := 3 :: zeros 23

/-- READ_MSG (R455): the length, and the message. -/
def hspiRead (s : State) : State :=
  match s.har.hspi with
  | [] => answer .hspi 0 s
  | (_, m) :: ms =>
    let s1 : State := { s with har := { s.har with hspi := ms } }
    emitOut (.msg hspiTid m) (answer .hspi (BitVec.ofNat 64 m.length) (setLevel EV_HSPI_READY (!ms.isEmpty) s1))

/-- The status byte (R455). -/
def hspiByte (s : State) : Nat :=
  (if s.har.hspi.isEmpty then 0 else 1) + (if hspiFull s then 2 else 0) + (if harLocked 3 s then 4 else 0)

-- Meanings -------------------------------------------------------------------------------------------------------

/-- REGISTER_WRITE (R13, R527). -/
def execRegisterWrite (i : Initiator) (addr : Nat) (v : Word) (s : State) : Res := run (fun a => harWake (busWrite i addr v a)) s

/-- TSU_SET_CANCEL (R51). -/
def execTsuSetCancel (i : Initiator) (v : Word) (s : State) : Res :=
  run (fun a => harWake (busWrite i TSU_SET_CTL (withBits v [(TSU_SET_CTL_CANCEL, 1)]) a)) s

/-- DISPATCH_BOUNDARY (R114): it answers TOPO_SWAP (R447). -/
def execDispatchBoundary (s : State) : Res := run (fun a => if a.pe.swapGo then harLateAll 0x0306 0 0 [] (swapBoundary a) else a) s

/-- CTX_SNAPSHOT_TAKEN (R116): it answers CTX_SNAP. -/
def execCtxSnapshotTaken (s : State) : Res :=
  run (fun a => match a.pe.snapWait with
    | some ec => let b := snapTake ec a; harLateAll 0x0307 0 0 (ctxSnapBody b) b
    | none => a) s

/-- NVM_OPERATION_COMPLETE (R420). -/
def execNvmOperationComplete (ok : Bool) (left : List Byte) (s : State) : Res := run (nvmComplete ok left) s

/-- HANDSHAKE_EXPIRY (R443). -/
def execHandshakeExpiry (hid : Nat) (s : State) : Res := run (shakeExpire hid) s

/-- LOCKOUT_EXPIRY (R444). -/
def execLockoutExpiry (transport : Nat) (s : State) : Res := runIf (1 ≤ transport ∧ transport ≤ 3) (lockExpire transport) s

/-- SESSION_IDLE (R446). -/
def execSessionIdle (sid : Nat) (s : State) : Res := run (fun a => if (sessionOf a sid).isSome then sessionEnd 1 sid a else a) s

/-- STATUS_PAGE_REWRITE (R454). -/
def execStatusPageRewrite (s : State) : Res := run pageRewrite s

/-- RING_REQ_PROD_WRITE (R454). -/
def execRingReqProdWrite (ring prod : Nat) (setup : Option RingSetup) (msgs : List (List Byte)) (s : State) : Res :=
  runIf (ring < 4) (ringReq ring prod setup msgs) s

/-- RING_RSP_CONS_WRITE (R454). -/
def execRingRspConsWrite (ring cons : Nat) (bufs : List (Nat × Nat)) (s : State) : Res := runIf (ring < 4) (ringRsp ring cons bufs) s

/-- RESPONSE_BUFFER_TIMEOUT (R454). -/
def execResponseBufferTimeout (ring : Nat) (s : State) : Res := runIf (ring < 4) (ringTimeout ring) s

/-- HSPI_WRITE_MSG (R455). -/
def execHspiWriteMsg (msg : List Byte) (s : State) : Res := run (fun a => if hspiFull a then a else harness hspiTid msg a) s

/-- HSPI_STATUS (R455). -/
def execHspiStatus (s : State) : Res := run (fun a => answer .hspi (BitVec.ofNat 64 (hspiByte a)) a) s

/-- HSPI_READ_MSG (R455). -/
def execHspiReadMsg (s : State) : Res := run hspiRead s

/-- HSPI_REG_RD (R453, R455). -/
def execHspiRegRd (addr : Nat) (s : State) : Res := run (busRead .hspi addr) s

/-- HSPI_REG_WR (R453, R455). -/
def execHspiRegWr (addr : Nat) (v : Word) (s : State) : Res := run (fun a => harWake (busWrite .hspi addr v a)) s

/-- HARNESS_BAD_MESSAGE (R448). -/
def execHarnessBadMessage (tid msg : List Byte) (s : State) : Res := run (fun a => if harBad tid msg a then harness tid msg a else a) s

/-- OPEN (R443). -/
def execOpenSession (tid msg : List Byte) (s : State) : Res := run (harRow 0x0101 tid msg) s

/-- PROVE (R443). -/
def execProve (tid msg : List Byte) (s : State) : Res := run (harRow 0x0102 tid msg) s

/-- CLOSE (R446). -/
def execCloseSession (tid msg : List Byte) (s : State) : Res := run (harRow 0x0103 tid msg) s

/-- PING (R450). -/
def execPing (tid msg : List Byte) (s : State) : Res := run (harRow 0x0104 tid msg) s

/-- SUBSCRIBE (R452). -/
def execSubscribe (tid msg : List Byte) (s : State) : Res := run (harRow 0x0105 tid msg) s

/-- SESSIONS (R450). -/
def execSessions (tid msg : List Byte) (s : State) : Res := run (harRow 0x0106 tid msg) s

/-- REGPATH_BIND (R453). -/
def execRegpathBind (tid msg : List Byte) (s : State) : Res := run (harRow 0x0107 tid msg) s

/-- REG_READ (R451). -/
def execRegRead (tid msg : List Byte) (s : State) : Res := run (harRow 0x0201 tid msg) s

/-- REG_WRITE (R451). -/
def execRegWrite (tid msg : List Byte) (s : State) : Res := run (harRow 0x0202 tid msg) s

/-- MEM_READ (R451). -/
def execMemRead (tid msg : List Byte) (s : State) : Res := run (harRow 0x0203 tid msg) s

/-- MEM_WRITE (R451). -/
def execMemWrite (tid msg : List Byte) (s : State) : Res := run (harRow 0x0204 tid msg) s

/-- TBL_CFG (R109). -/
def execTblCfg (tid msg : List Byte) (s : State) : Res := run (harRow 0x0301 tid msg) s

/-- TBL_PUT (R451). -/
def execTblPut (tid msg : List Byte) (s : State) : Res := run (harRow 0x0302 tid msg) s

/-- TBL_DEL (R451). -/
def execTblDel (tid msg : List Byte) (s : State) : Res := run (harRow 0x0303 tid msg) s

/-- TBL_FLIP (R112). -/
def execTblFlip (tid msg : List Byte) (s : State) : Res := run (harRow 0x0304 tid msg) s

/-- TOPO_LOAD (R113). -/
def execTopoLoad (tid msg : List Byte) (s : State) : Res := run (harRow 0x0305 tid msg) s

/-- TOPO_SWAP (R114). -/
def execTopoSwap (tid msg : List Byte) (s : State) : Res := run (harRow 0x0306 tid msg) s

/-- CTX_SNAP (R116). -/
def execCtxSnap (tid msg : List Byte) (s : State) : Res := run (harRow 0x0307 tid msg) s

/-- TIME_GET (R451). -/
def execTimeGet (tid msg : List Byte) (s : State) : Res := run (harRow 0x0401 tid msg) s

/-- TIME_SET (R47). -/
def execTimeSet (tid msg : List Byte) (s : State) : Res := run (harRow 0x0402 tid msg) s

/-- FREQ_SET (R42). -/
def execFreqSet (tid msg : List Byte) (s : State) : Res := run (harRow 0x0403 tid msg) s

/-- SLEW (R43). -/
def execSlew (tid msg : List Byte) (s : State) : Res := run (harRow 0x0404 tid msg) s

/-- LEAP_SET (R57). -/
def execLeapSet (tid msg : List Byte) (s : State) : Res := run (harRow 0x0405 tid msg) s

/-- REF_CMD (R341). -/
def execRefCmd (tid msg : List Byte) (s : State) : Res := run (harRow 0x0406 tid msg) s

/-- REF_STATUS (R450). -/
def execRefStatus (tid msg : List Byte) (s : State) : Res := run (harRow 0x0407 tid msg) s

/-- SVC_ADDR (R175). -/
def execSvcAddr (tid msg : List Byte) (s : State) : Res := run (harRow 0x0501 tid msg) s

/-- NTP_PROF (R450). -/
def execNtpProf (tid msg : List Byte) (s : State) : Res := run (harRow 0x0502 tid msg) s

/-- NTS_KEY (R197). -/
def execNtsKey (tid msg : List Byte) (s : State) : Res := run (harRow 0x0503 tid msg) s

/-- KE_IDENT (R217). -/
def execKeIdent (tid msg : List Byte) (s : State) : Res := run (harRow 0x0504 tid msg) s

/-- PTP_CANCEL (R247). -/
def execPtpCancel (tid msg : List Byte) (s : State) : Res := run (harRow 0x0505 tid msg) s

/-- GNSS_SNAP (R313). -/
def execGnssSnap (tid msg : List Byte) (s : State) : Res := run (harRow 0x0601 tid msg) s

/-- GNSS_ACCEPT (R317). -/
def execGnssAccept (tid msg : List Byte) (s : State) : Res := run (harRow 0x0602 tid msg) s

/-- GNSS_SURVEY (R310). -/
def execGnssSurvey (tid msg : List Byte) (s : State) : Res := run (harRow 0x0603 tid msg) s

/-- SNAP_RELEASE (R313). -/
def execSnapRelease (tid msg : List Byte) (s : State) : Res := run (harRow 0x0604 tid msg) s

/-- PAIR_JOIN (R395). -/
def execPairJoin (tid msg : List Byte) (s : State) : Res := run (harRow 0x0701 tid msg) s

/-- PAIR_YIELD (R395). -/
def execPairYield (tid msg : List Byte) (s : State) : Res := run (harRow 0x0702 tid msg) s

/-- PAIR_PART (R395). -/
def execPairPart (tid msg : List Byte) (s : State) : Res := run (harRow 0x0703 tid msg) s

/-- BELAY_FRAME (R385). -/
def execBelayFrame (tid msg : List Byte) (s : State) : Res := run (harRow 0x0704 tid msg) s

/-- NVM_READ (R420). -/
def execNvmRead (tid msg : List Byte) (s : State) : Res := run (harRow 0x0801 tid msg) s

/-- NVM_ERASE (R420). -/
def execNvmErase (tid msg : List Byte) (s : State) : Res := run (harRow 0x0802 tid msg) s

/-- NVM_WRITE (R420). -/
def execNvmWrite (tid msg : List Byte) (s : State) : Res := run (harRow 0x0803 tid msg) s

/-- NVM_VERIFY (R421). -/
def execNvmVerify (tid msg : List Byte) (s : State) : Res := run (harRow 0x0804 tid msg) s

/-- NVM_ACTIVATE (R421). -/
def execNvmActivate (tid msg : List Byte) (s : State) : Res := run (harRow 0x0805 tid msg) s

/-- RESTART (R422). -/
def execRestart (tid msg : List Byte) (s : State) : Res := run (harRow 0x0806 tid msg) s

/-- BIV_RELEASE (R439). -/
def execBivRelease (tid msg : List Byte) (s : State) : Res := run (harRow 0x0807 tid msg) s

/-- OTP_OWNER (R408). -/
def execOtpOwner (tid msg : List Byte) (s : State) : Res := run (harRow 0x0808 tid msg) s

/-- REST_ENTER (R82). -/
def execRestEnter (tid msg : List Byte) (s : State) : Res := run (harRow 0x0809 tid msg) s

/-- REST_EXIT (R85). -/
def execRestExit (tid msg : List Byte) (s : State) : Res := run (harRow 0x080A tid msg) s

/-- CNT_SNAP (R495). -/
def execCntSnap (tid msg : List Byte) (s : State) : Res := run (harRow 0x0901 tid msg) s

/-- CNT_READ (R450). -/
def execCntRead (tid msg : List Byte) (s : State) : Res := run (harRow 0x0902 tid msg) s

/-- LOG_READ (R501). -/
def execLogRead (tid msg : List Byte) (s : State) : Res := run (harRow 0x0903 tid msg) s

/-- DUMP_CFG (R497). -/
def execDumpCfg (tid msg : List Byte) (s : State) : Res := run (harRow 0x0904 tid msg) s

end Sys2Proof.Machine
end

