-- ==== Sys2Proof/Machine/Edges.lean ====
section
/-!
DEFINITION. Machine/Edges.lean: what happens at the edges of the time scale: an increment change (R23), the end of a slew
(R44), the set edge (R48 to R50), its timeout, a leap (R55) and the 1 ms compare tick (R24, R25).
-/
namespace Sys2Proof.Machine
open Sys2Proof

-- Increment change -----------------------------------------------------------------------------------------------

/-- A waiting increment takes effect at the TSU, moves what the gate has planned (R158) and gives the outputs their PHASE_INC (R359), all on
one edge (R23). -/
def incrementChange (s : State) : State :=
  if !s.tsu.incPending then s
  else
    let t := gateCarry s.tsu.now s.tsu.now (incNow s) (incNow (incrementEdge s)) (incrementEdge s)
    outIncs (gateIncrement (gtNow s) s.tsu.eff t.tsu.eff t)

-- The set edge ---------------------------------------------------------------------------------------------------

/-- The interval from the REFIN pulse to the set edge in 2^-32 ns (R48): whole ROOT periods from the ROOT edge that latched the pulse, and
its fine time from the tap counts (R288); each period counts as half the INC_EFF in force (R289). -/
def setInterval (roots k k1 k2 : Nat) (s : State) : Nat :=
  let den := max 1 (k2 - k1)
  (divRound (((roots : Int) * den + ((k : Int) - (2 * (k1 : Int) - k2))) * (rd s TSU_INC_EFF).toNat) (den * 2 ^ 25)).toNat

/-- What the TSU loads, in 2^-32 ns, and the bound in ns (R48, R346). `interval` is the time from the REFIN pulse to the set
edge as the TIC measures it. -/
def setValue (interval : Nat) (s : State) : Nat × Nat :=
  match s.tsu.setOff with
  | some (e, y, t) =>
    let run := gtNow s - t
    (((gtNow s : Int) + e * 2 ^ 16 + divRound (y * (run : Int)) (10 ^ 15)).toNat,
      s.tsu.setBound + (run + gtSecond - 1) / gtSecond)
  | none => (s.tsu.setV + (if s.tsu.setRefin then interval else 0), s.tsu.setBound)

/-- Carry an instant onto the new scale; zero means none. -/
def carry (d : Int) (t : Nat) : Nat := if t = 0 then 0 else ((t : Int) + d).toNat

/-- Instants from which a duration is still to be measured are carried onto the new scale: `d` in 2^-32 ns, `ds` in s; what
was computed on the scale before is marked or dropped (R50); `fine` is the same step in 2^-72 ns. DESIGN CHOICE (log entry 139): the SEC at
which a pending leap was armed is not carried. -/
def rebase (fine d ds : Int) (s : State) : State :=
  let ms : Int := d / ((10 ^ 6 * 2 ^ 32 : Nat) : Int)
  let grant : GrantOf → GrantOf := fun x => { x with ends := carry ds x.ends }
  { s with
    ports := mapEach portReset (fun x => { x with txWait := x.txWait.map (fun w => (carry d w.1, w.2)), rxWait := x.rxWait.map (fun w => (carry d w.1, w.2)), rxAt := carry d x.rxAt, ueSec := carry d x.ueSec }) s.ports
    gate := mapEach gateReset (fun x => { x with origin := x.origin + fine }) s.gate
    pe := { s.pe with
      q := mapEach (fun _ => []) (fun x => x.map (fun y => (y.1, carry d y.2.1, true))) s.pe.q
      ctx := mapEach ctxReset (fun x => { x with old := true }) s.pe.ctx
      punts := mapEach (fun _ => []) (fun x => x.map (fun y => { y with old := true })) s.pe.punts }
    ecc := { s.ecc with lapStart := mapEach (fun _ => 0) (carry d) s.ecc.lapStart }
    refs := mapEach refReset (fun x => { x with
      lastAt := carry d x.lastAt, msgAt := carry d x.msgAt, qualAt := carry ds x.qualAt, watchAt := carry ds x.watchAt,
      driftSince := carry ds x.driftSince, driftPre := carry ms x.driftPre, rejFreq := carry ms x.rejFreq,
      rejPhase := carry ms x.rejPhase, ys := x.ys.map (fun y => (carry ds y.1, y.2)) }) s.refs
    servo := { s.servo with
      runAt := carry d s.servo.runAt, tLoss := carry (d / 2 ^ 32) s.servo.tLoss, tc2 := carry (2 * (d / 2 ^ 32)) s.servo.tc2,
      freqAt := carry (d / 2 ^ 32) s.servo.freqAt }
    gnss := { s.gnss with
      solAt := carry ds s.gnss.solAt, surveyAt := carry ds s.gnss.surveyAt, posSince := carry ds s.gnss.posSince,
      jumpSec := 0, solSet := false, secOf := 0, lowAt := carry d s.gnss.lowAt, bufAt := s.gnss.bufAt.map (carry d),
      chan := mapEach chanReset (fun x => { x with at_ := carry d x.at_ }) s.gnss.chan, leanAt := carry ds s.gnss.leanAt,
      pulseAt := s.gnss.pulseAt.map (carry d), snapEdge := carry d s.gnss.snapEdge, snapFix := none,
      lows := s.gnss.lows.map (fun x => (carry d x.1, carry d x.2)), nav := mapEach navReset (fun x => { x with sec := carry ds x.sec }) s.gnss.nav }
    nts := mapEach ntsReset (fun x => { x with uid := [] }) s.nts
    ptp := { s.ptp with
      grants := mapEach (fun _ => none) (Option.map (fun (y : PtpGrant) => { y with
        ann := grant y.ann, sync := grant y.sync, dresp := grant y.dresp, idle := carry ds y.idle })) s.ptp.grants
      foreign := s.ptp.foreign.map (fun f => { f with at_ := carry d f.at_, prev := carry d f.prev })
      launches := [], pdelay := []
      ups := mapEach upReset (fun x => { x with sync := none, ms := none, ends := mapEach (fun _ => 0) (carry ds) x.ends }) s.ptp.ups }
    pair := { s.pair with lastTx := 0, prevTx := 0, lastRx := 0, thetas := [] } }

/-- The TSU and every local counter load the value (R48, R49): time, bound, growth rate and state together. -/
def setLoad (v bound : Nat) (s : State) : State :=
  let s1 := fsetB TSU_STATE TSU_STATE_STATE true (setDisarm { s with tsu := { s.tsu with now := v * 2 ^ 40 % tsuModulus, slews := [(v, s.tsu.slewTick, s.tsu.inc)], setOff := none, setAt := v, setXo := s.tsu.xo / 2 ^ 16, dist := [], reload := [], armFab := false } })
  setBound (bound * 1000000) ((fget s SERVO_OSC_NOISE SERVO_OSC_NOISE_Y_FREE + 999) / 1000) s1

/-- A pending leap whose second the set edge has reached or passed is applied on it (R57). -/
def setLeap (s : State) : State :=
  if (rd s TSU_LEAP_SEC).toNat ≤ nowSec s then leapApply s else smearRefresh s

/-- The set edge (R48 to R51, R57, R216, R336, R346, R356, R367, R373, R447). -/
def setEdge (roots k k1 k2 : Nat) (s : State) : State :=
  if !fbit s TSU_STATE TSU_STATE_SET_ARMED then s
  else
    let w := setValue (setInterval roots k k1 k2 s) s
    let d : Int := (w.1 : Int) - gtNow s
    let bySlot := s.servo.armed
    let s1 := setLoad w.1 w.2 (gateSetEdge s)
    let s2 := rebase ((s1.tsu.now : Int) - s.tsu.now) d ((nowSec s1 : Int) - nowSec s) s1
    let s3 := outSetEdge (trigSetEdge (refsSetEdge bySlot d (setLeap s2)))
    let s4 := occur EV_TSU_SET_DONE (ptpRefresh (svcSync (if ntsFitted s3 then identsShow s3 else s3)))
    if bySlot then harLateAll 0x0402 7 1 (failBody 1 noDetail) s4
    else harLateAll 0x0402 0 0 (leBytes 8 (nowSec s4) ++ leBytes 8 (gtSub (gtNow s4))) s4

/-- No pulse within 2.0 s (R48). -/
def setTimeout (s : State) : State :=
  if !fbit s TSU_STATE TSU_STATE_SET_ARMED || !s.tsu.setRefin then s
  else
    harLateAll 0x0402 7 2 (failBody 2 noDetail) (occur EV_TSU_SET_TIMEOUT (setDisarm s))

-- Compare --------------------------------------------------------------------------------------------------------

/-- Stamp points of the part: ports 0 to 7, gate 8, Belay 9, TIC 16 to 23, outputs 32 to 39 (R24). -/
def stampPoints (s : State) : List Nat :=
  (List.range 8).filter (laneFitted s) ++ [8, 9] ++ ((List.range 8).filter (ticFitted s)).map (· + 16)
    ++ (List.range 8).map (· + 32)

/-- A stamp point enters or leaves HOLD (R25, R169, R367, R387). -/
def holdSet (pt : Nat) (b : Bool) (s : State) : State :=
  if inHold s pt == b then s
  else
    let s1 := fsetB TSU_DIST_STATUS ⟨pt, 1⟩ b { s with tsu := { s.tsu with zeroRun := mapSet (fun _ => 0) pt 0 s.tsu.zeroRun } }
    let held := fun p a => if b then strikePort p 2 (fun _ => true) a else a
    if pt < 8 then (if b then strikeFrom pt (held pt s1) else s1)
    else if pt = 8 then forEach (List.range 8) held s1
    else if pt = 9 then pstSet PAIR_STATUS_DIST_HOLD b s1
    else if 32 ≤ pt then outHold (pt - 32) b s1
    else s1

/-- One stamp point on a compare tick (R24, R25): a counter that is to be reloaded loads first (DEDUCED, log entry 26). -/
def comparePoint (pt : Nat) (s0 : State) : State :=
  let s := if mapGet (fun _ => 0) s0.tsu.reload pt = 0 then s0 else localLoad pt s0
  let diff := distOf s pt
  if 1 < diff.natAbs then
    let s1 := { s with tsu := { s.tsu with
      zeroRun := mapSet (fun _ => 0) pt 0 s.tsu.zeroRun, reload := mapSet (fun _ => 0) pt 1 s.tsu.reload } }
    holdSet pt true (occur EV_TSU_DIST_MISMATCH (fsetB TSU_DIST_MISMATCH ⟨pt, 1⟩ true s1))
  else if !inHold s pt then s
  else
    let n := if diff = 0 then mapGet (fun _ => 0) s.tsu.zeroRun pt + 1 else 0
    if 2 ≤ n then holdSet pt false s
    else { s with tsu := { s.tsu with zeroRun := mapSet (fun _ => 0) pt n s.tsu.zeroRun } }

/-- Local counters come to differ from the TSU by so many ticks, by their bit of TSU_DIST_STATUS: what an upset of a counter does. -/
def localUpset (diffs : List (Nat × Int)) (s : State) : State :=
  { s with tsu := { s.tsu with dist := diffs.foldl (fun m x => mapSet (fun _ => (0 : Int)) x.1 x.2 m) s.tsu.dist } }

/-- A 1 ms compare tick (R24, R25, R58, R62, R76, R316): `diffs` are the local counters that an upset has changed since the last one, with their
differences from the TSU in ticks. On the set edge itself, where every counter loads the set value, the compare is skipped and the bound just
set does not grow (R49). -/
def compareTick (diffs : List (Nat × Int)) (s : State) : State :=
  let onEdge := fbit s TSU_STATE TSU_STATE_STATE && decide (s.tsu.setAt = gtNow s)
  let s1 := boundNote (if onEdge then s else boundGrow (forEach (stampPoints s) comparePoint (localUpset diffs s)))
  ptpRefresh (svcSync (adjTick (portsRefresh (smearRefresh s1))))

-- Rows -----------------------------------------------------------------------------------------------------------

/-- INCREMENT_CHANGE (R23). -/
def execIncrementChange (s : State) : Res := run incrementChange s

/-- TSU_SLEW_DONE (R44). -/
def execTsuSlewDone (s : State) : Res := run tsuSlewDone s

/-- SET_EDGE (R49); for EDGE = REFIN the operand gives the interval from the pulse: ROOT periods and tap counts. -/
def execSetEdge (interval : EdgeInterval) (s : State) : Res :=
  run (setEdge interval.roots interval.k interval.k1 interval.k2) s

/-- TSU_SET_TIMEOUT (R48). -/
def execTsuSetTimeout (s : State) : Res := run setTimeout s

/-- TSU_LEAP_DONE (R55). -/
def execTsuLeapDone (s : State) : Res := run leapApply s

/-- COMPARE_TICK (R24). -/
def execCompareTick (diffs : List (Nat × Int)) (s : State) : Res := run (withAnnounce (compareTick diffs)) s

end Sys2Proof.Machine
end

