-- ==== Sys2Proof/Machine/Dispatch.lean ====
section
/-!
DEFINITION. Machine/Dispatch.lean: one arm per command.
-/
namespace Sys2Proof.Machine
open Sys2Proof

/-- The effect of a command on everything but the queue. -/
def exec (i : Instr) (s : State) : Host.Outcome State Fault Refusal :=
  match i with
  | .registerWrite ini addr v => Sys2Proof.Machine.execRegisterWrite ini addr v s
  | .absentAccess ini write addr => Sys2Proof.Machine.execAbsentAccess ini write addr s
  | .narrowAccess ini write addr => Sys2Proof.Machine.execNarrowAccess ini write addr s
  | .unmappedAccess ini write addr => Sys2Proof.Machine.execUnmappedAccess ini write addr s
  | .readOnlyWindowWrite ini addr v => Sys2Proof.Machine.execReadOnlyWindowWrite ini addr v s
  | .tsuIncNomWrite ini v => Sys2Proof.Machine.execTsuIncNomWrite ini v s
  | .tsuFreqAdjWrite ini v => Sys2Proof.Machine.execTsuFreqAdjWrite ini v s
  | .tsuSlewReqWrite ini v => Sys2Proof.Machine.execTsuSlewReqWrite ini v s
  | .tsuSlewLimitWrite ini v => Sys2Proof.Machine.execTsuSlewLimitWrite ini v s
  | .tsuSetArm ini v => Sys2Proof.Machine.execTsuSetArm ini v s
  | .tsuSetCancel ini v => Sys2Proof.Machine.execTsuSetCancel ini v s
  | .setEdge interval => Sys2Proof.Machine.execSetEdge interval s
  | .tsuNowLoRead ini => Sys2Proof.Machine.execTsuNowLoRead ini s
  | .tsuLeapPendingWrite ini v => Sys2Proof.Machine.execTsuLeapPendingWrite ini v s
  | .compareTick diffs => Sys2Proof.Machine.execCompareTick diffs s
  | .portModeWrite ini port v => Sys2Proof.Machine.execPortModeWrite ini port v s
  | .receptionStop port part => Sys2Proof.Machine.execReceptionStop port part s
  | .lanePowerDown port => Sys2Proof.Machine.execLanePowerDown port s
  | .frameReceive port bytes code lane tw k rate fecSym fecUe addr => Sys2Proof.Machine.execFrameReceive port bytes code lane tw k rate fecSym fecUe addr s
  | .rxRateExcursion port rate => Sys2Proof.Machine.execRxRateExcursion port rate s
  | .delayAdjWrite ini port tx v => Sys2Proof.Machine.execDelayAdjWrite ini port tx v s
  | .txPllRelock lane => Sys2Proof.Machine.execTxPllRelock lane s
  | .rxLockGain lane fault => Sys2Proof.Machine.execRxLockGain lane fault s
  | .rxLockLoss lane part => Sys2Proof.Machine.execRxLockLoss lane part s
  | .portCalRecal ini port => Sys2Proof.Machine.execPortCalRecal ini port s
  | .calSideComplete lane tx lat tcw am => Sys2Proof.Machine.execCalSideComplete lane tx lat tcw am s
  | .calSideFail lane tx => Sys2Proof.Machine.execCalSideFail lane tx s
  | .restEnter tid msg => Sys2Proof.Machine.execRestEnter tid msg s
  | .wakeFrame bytes => Sys2Proof.Machine.execWakeFrame bytes s
  | .restExit tid msg => Sys2Proof.Machine.execRestExit tid msg s
  | .injection port tag addr bytes => Sys2Proof.Machine.execInjection port tag addr bytes s
  | .nop e c => Sys2Proof.Machine.execNop e c s
  | .imm e c => Sys2Proof.Machine.execImm e c s
  | .load e c => Sys2Proof.Machine.execLoad e c s
  | .store e c => Sys2Proof.Machine.execStore e c s
  | .copy e c => Sys2Proof.Machine.execCopy e c s
  | .seta e c => Sys2Proof.Machine.execSeta e c s
  | .alu e c => Sys2Proof.Machine.execAlu e c s
  | .testb e c => Sys2Proof.Machine.execTestb e c s
  | .lookup e c => Sys2Proof.Machine.execLookup e c s
  | .sketch e c => Sys2Proof.Machine.execSketch e c s
  | .count e c => Sys2Proof.Machine.execCount e c s
  | .stamp e c => Sys2Proof.Machine.execStamp e c s
  | .slot e c => Sys2Proof.Machine.execSlot e c s
  | .quality e c => Sys2Proof.Machine.execQuality e c s
  | .seal e c => Sys2Proof.Machine.execSeal e c s
  | .csum e c => Sys2Proof.Machine.execCsum e c s
  | .emit e c => Sys2Proof.Machine.execEmit e c s
  | .relay e c => Sys2Proof.Machine.execRelay e c s
  | .punt e c => Sys2Proof.Machine.execPunt e c s
  | .drop e c => Sys2Proof.Machine.execDrop e c s
  | .call e c => Sys2Proof.Machine.execCall e c s
  | .ret e c => Sys2Proof.Machine.execRet e c s
  | .trap e c => Sys2Proof.Machine.execTrap e c s
  | .successor e c => Sys2Proof.Machine.execSuccessor e c s
  | .peCtxSnapGo ini => Sys2Proof.Machine.execPeCtxSnapGo ini s
  | .peCtxSnapResume ini => Sys2Proof.Machine.execPeCtxSnapResume ini s
  | .topoWindowWrite ini off v => Sys2Proof.Machine.execTopoWindowWrite ini off v s
  | .topoSwapCtlGo ini gen => Sys2Proof.Machine.execTopoSwapCtlGo ini gen s
  | .topoTblCfgWrite ini table gen v => Sys2Proof.Machine.execTopoTblCfgWrite ini table gen v s
  | .topoTblGenWrite ini v => Sys2Proof.Machine.execTopoTblGenWrite ini v s
  | .tableStoreWrite ini off v => Sys2Proof.Machine.execTableStoreWrite ini off v s
  | .setupDeadline port q => Sys2Proof.Machine.execSetupDeadline port q s
  | .startBlockEntry port q => Sys2Proof.Machine.execStartBlockEntry port q s
  | .freePlacement port => Sys2Proof.Machine.execFreePlacement port s
  | .freeQueueTimeout port cls => Sys2Proof.Machine.execFreeQueueTimeout port cls s
  | .launchReport port => Sys2Proof.Machine.execLaunchReport port s
  | .gateConfigWrite ini k v => Sys2Proof.Machine.execGateConfigWrite ini k v s
  | .keyExpiry n => Sys2Proof.Machine.execKeyExpiry n s
  | .svcKeyCtlRotate ini => Sys2Proof.Machine.execSvcKeyCtlRotate ini s
  | .svcKeyCtlRevoke ini kid => Sys2Proof.Machine.execSvcKeyCtlRevoke ini kid s
  | .keSyn ring => Sys2Proof.Machine.execKeSyn ring s
  | .keHandshakeAck ring => Sys2Proof.Machine.execKeHandshakeAck ring s
  | .keClientHello ring => Sys2Proof.Machine.execKeClientHello ring s
  | .keClientFinished ring ok req c2s s2c => Sys2Proof.Machine.execKeClientFinished ring ok req c2s s2c s
  | .keAlertRx ring => Sys2Proof.Machine.execKeAlertRx ring s
  | .keKeyUpdate ring => Sys2Proof.Machine.execKeKeyUpdate ring s
  | .kePeerFin ring => Sys2Proof.Machine.execKePeerFin ring s
  | .keHsTimeout conn => Sys2Proof.Machine.execKeHsTimeout conn s
  | .ptpTxInject kind inst port gidx j => Sys2Proof.Machine.execPtpTxInject kind inst port gidx j s
  | .grantExpiry gidx kind => Sys2Proof.Machine.execGrantExpiry gidx kind s
  | .grantEntryFree gidx => Sys2Proof.Machine.execGrantEntryFree gidx s
  | .ptpCancel tid msg => Sys2Proof.Machine.execPtpCancel tid msg s
  | .annTimeout n => Sys2Proof.Machine.execAnnTimeout n s
  | .upstreamSyncRx fu => Sys2Proof.Machine.execUpstreamSyncRx fu s
  | .delayAnswerRx kind => Sys2Proof.Machine.execDelayAnswerRx kind s
  | .bnuWindowWrite ini n off v => Sys2Proof.Machine.execBnuWindowWrite ini n off v s
  | .bnuSlotWordsWrite ini n v => Sys2Proof.Machine.execBnuSlotWordsWrite ini n v s
  | .bnuSubmitGo ini n => Sys2Proof.Machine.execBnuSubmitGo ini n s
  | .bnuJobStart n => Sys2Proof.Machine.execBnuJobStart n s
  | .bnuJobComplete n fault => Sys2Proof.Machine.execBnuJobComplete n fault s
  | .bnuAbortGo ini n tag => Sys2Proof.Machine.execBnuAbortGo ini n tag s
  | .bnuCtlAbortAll ini n => Sys2Proof.Machine.execBnuCtlAbortAll ini n s
  | .bnuCtlSelftest ini n => Sys2Proof.Machine.execBnuCtlSelftest ini n s
  | .bnuSelftestDone n pass => Sys2Proof.Machine.execBnuSelftestDone n pass s
  | .bnuCtlOwnerWrite ini n host => Sys2Proof.Machine.execBnuCtlOwnerWrite ini n host s
  | .bnuCplRead ini n => Sys2Proof.Machine.execBnuCplRead ini n s
  | .esBlock raw => Sys2Proof.Machine.execEsBlock raw s
  | .bnuEsCtlRestart ini => Sys2Proof.Machine.execBnuEsCtlRestart ini s
  | .bnuRandRead ini => Sys2Proof.Machine.execBnuRandRead ini s
  | .ticEdge ch stop root t k k1 k2 => Sys2Proof.Machine.execTicEdge ch stop root t k k1 k2 s
  | .ticTimeout ch => Sys2Proof.Machine.execTicTimeout ch s
  | .ticCtlArm ini ch v => Sys2Proof.Machine.execTicCtlArm ini ch v s
  | .ticConfigWrite ini ch src v => Sys2Proof.Machine.execTicConfigWrite ini ch src v s
  | .ticRes0Read ini ch => Sys2Proof.Machine.execTicRes0Read ini ch s
  | .gnssFeScript reads rose => Sys2Proof.Machine.execGnssFeScript reads rose s
  | .gnssFeRetry reads rose => Sys2Proof.Machine.execGnssFeRetry reads rose s
  | .gspValidFall back => Sys2Proof.Machine.execGspValidFall back s
  | .gnssAcqBatch cells found => Sys2Proof.Machine.execGnssAcqBatch cells found s
  | .gnssChannelLoss ch => Sys2Proof.Machine.execGnssChannelLoss ch s
  | .gnssMeasEpoch t reports => Sys2Proof.Machine.execGnssMeasEpoch t reports s
  | .gnssNavUnit t sys sig sv ch nbits check flags ok cn0 bits utc => Sys2Proof.Machine.execGnssNavUnit t sys sig sv ch nbits check flags ok cn0 bits utc s
  | .gnssSolution sec dAll d sigma raim systems posErr => Sys2Proof.Machine.execGnssSolution sec dAll d sigma raim systems posErr s
  | .gnssSurveyDone x y z sd => Sys2Proof.Machine.execGnssSurveyDone x y z sd s
  | .gnssSurveyRestart ini => Sys2Proof.Machine.execGnssSurveyRestart ini s
  | .gnssCtlAccept ini => Sys2Proof.Machine.execGnssCtlAccept ini s
  | .gnssTp sec qerr => Sys2Proof.Machine.execGnssTp sec qerr s
  | .gnssSnapCtlArm ini v => Sys2Proof.Machine.execGnssSnapCtlArm ini v s
  | .gnssSnapCtlRelease ini => Sys2Proof.Machine.execGnssSnapCtlRelease ini s
  | .gnssSnapCaptureStart t => Sys2Proof.Machine.execGnssSnapCaptureStart t s
  | .gnssSnapDone data sats => Sys2Proof.Machine.execGnssSnapDone data sats s
  | .refSample n t xo off q rtt old => Sys2Proof.Machine.execRefSample n t xo off q rtt old s
  | .refActivityLoss n => Sys2Proof.Machine.execRefActivityLoss n s
  | .refsCtlWrite ini v => Sys2Proof.Machine.execRefsCtlWrite ini v s
  | .refSlotEnableWrite ini n v => Sys2Proof.Machine.execRefSlotEnableWrite ini n v s
  | .refsCmdAcceptJump ini n => Sys2Proof.Machine.execRefsCmdAcceptJump ini n s
  | .refsCmdLockout ini n => Sys2Proof.Machine.execRefsCmdLockout ini n s
  | .refsCmdUnlock ini n => Sys2Proof.Machine.execRefsCmdUnlock ini n s
  | .ntsUpstreamPoll n => Sys2Proof.Machine.execNtsUpstreamPoll n s
  | .ntsPollTimeout n => Sys2Proof.Machine.execNtsPollTimeout n s
  | .todMessage k bytes framed tEnd pulse => Sys2Proof.Machine.execTodMessage k bytes framed tEnd pulse s
  | .outCtlEnableWrite ini n v => Sys2Proof.Machine.execOutCtlEnableWrite ini n v s
  | .outPllLock n => Sys2Proof.Machine.execOutPllLock n s
  | .outPllLockLoss n => Sys2Proof.Machine.execOutPllLockLoss n s
  | .outQerrPost n err => Sys2Proof.Machine.execOutQerrPost n err s
  | .alignMeasurement n interval => Sys2Proof.Machine.execAlignMeasurement n interval s
  | .alignLost n => Sys2Proof.Machine.execAlignLost n s
  | .todOutMessage k => Sys2Proof.Machine.execTodOutMessage k s
  | .trigCtlArm ini n v => Sys2Proof.Machine.execTrigCtlArm ini n v s
  | .trigCtlDisarm ini n => Sys2Proof.Machine.execTrigCtlDisarm ini n s
  | .trigFire n err => Sys2Proof.Machine.execTrigFire n err s
  | .custInEdge high => Sys2Proof.Machine.execCustInEdge high s
  | .belayLaneUp lane => Sys2Proof.Machine.execBelayLaneUp lane s
  | .belayLaneDown lane => Sys2Proof.Machine.execBelayLaneDown lane s
  | .helloRx bytes => Sys2Proof.Machine.execHelloRx bytes s
  | .proofRx bytes => Sys2Proof.Machine.execProofRx bytes s
  | .closeRx ctr box => Sys2Proof.Machine.execCloseRx ctr box s
  | .heartbeatRx ctr box => Sys2Proof.Machine.execHeartbeatRx ctr box s
  | .timeSend t => Sys2Proof.Machine.execTimeSend t s
  | .timeRx ctr box t => Sys2Proof.Machine.execTimeRx ctr box t s
  | .journalRx ty ctr box => Sys2Proof.Machine.execJournalRx ty ctr box s
  | .joinRx ctr box => Sys2Proof.Machine.execJoinRx ctr box s
  | .snapEndRx ctr box => Sys2Proof.Machine.execSnapEndRx ctr box s
  | .yieldRx ctr box => Sys2Proof.Machine.execYieldRx ctr box s
  | .partRx ctr box => Sys2Proof.Machine.execPartRx ctr box s
  | .belayFrameRx ctr box => Sys2Proof.Machine.execBelayFrameRx ctr box s
  | .cairnRx ctr box => Sys2Proof.Machine.execCairnRx ctr box s
  | .pairCmdJoin ini => Sys2Proof.Machine.execPairCmdJoin ini s
  | .pairCmdYield ini => Sys2Proof.Machine.execPairCmdYield ini s
  | .pairCmdPart ini => Sys2Proof.Machine.execPairCmdPart ini s
  | .pwrGoodRise boot => Sys2Proof.Machine.execPwrGoodRise boot s
  | .poresetNRelease boot => Sys2Proof.Machine.execPoresetNRelease boot s
  | .warmResetNRelease boot => Sys2Proof.Machine.execWarmResetNRelease boot s
  | .s1Xo osc hz pcie ms => Sys2Proof.Machine.execS1Xo osc hz pcie ms s
  | .s2Root lock ms => Sys2Proof.Machine.execS2Root lock ms s
  | .s3Mem ok => Sys2Proof.Machine.execS3Mem ok s
  | .s5Firm romOk clustersOk => Sys2Proof.Machine.execS5Firm romOk clustersOk s
  | .watchdog fatalUe => Sys2Proof.Machine.execWatchdog fatalUe s
  | .sysBivouacCtlRelease ini first => Sys2Proof.Machine.execSysBivouacCtlRelease ini first s
  | .nvmOperationComplete ok left => Sys2Proof.Machine.execNvmOperationComplete ok left s
  | .openSession tid msg => Sys2Proof.Machine.execOpenSession tid msg s
  | .prove tid msg => Sys2Proof.Machine.execProve tid msg s
  | .handshakeExpiry hid => Sys2Proof.Machine.execHandshakeExpiry hid s
  | .lockoutExpiry transport => Sys2Proof.Machine.execLockoutExpiry transport s
  | .sessionIdle sid => Sys2Proof.Machine.execSessionIdle sid s
  | .closeSession tid msg => Sys2Proof.Machine.execCloseSession tid msg s
  | .ping tid msg => Sys2Proof.Machine.execPing tid msg s
  | .subscribe tid msg => Sys2Proof.Machine.execSubscribe tid msg s
  | .sessions tid msg => Sys2Proof.Machine.execSessions tid msg s
  | .regpathBind tid msg => Sys2Proof.Machine.execRegpathBind tid msg s
  | .regRead tid msg => Sys2Proof.Machine.execRegRead tid msg s
  | .regWrite tid msg => Sys2Proof.Machine.execRegWrite tid msg s
  | .memRead tid msg => Sys2Proof.Machine.execMemRead tid msg s
  | .memWrite tid msg => Sys2Proof.Machine.execMemWrite tid msg s
  | .tblCfg tid msg => Sys2Proof.Machine.execTblCfg tid msg s
  | .tblPut tid msg => Sys2Proof.Machine.execTblPut tid msg s
  | .tblDel tid msg => Sys2Proof.Machine.execTblDel tid msg s
  | .tblFlip tid msg => Sys2Proof.Machine.execTblFlip tid msg s
  | .topoLoad tid msg => Sys2Proof.Machine.execTopoLoad tid msg s
  | .topoSwap tid msg => Sys2Proof.Machine.execTopoSwap tid msg s
  | .ctxSnap tid msg => Sys2Proof.Machine.execCtxSnap tid msg s
  | .timeGet tid msg => Sys2Proof.Machine.execTimeGet tid msg s
  | .timeSet tid msg => Sys2Proof.Machine.execTimeSet tid msg s
  | .freqSet tid msg => Sys2Proof.Machine.execFreqSet tid msg s
  | .slew tid msg => Sys2Proof.Machine.execSlew tid msg s
  | .leapSet tid msg => Sys2Proof.Machine.execLeapSet tid msg s
  | .refCmd tid msg => Sys2Proof.Machine.execRefCmd tid msg s
  | .refStatus tid msg => Sys2Proof.Machine.execRefStatus tid msg s
  | .svcAddr tid msg => Sys2Proof.Machine.execSvcAddr tid msg s
  | .ntpProf tid msg => Sys2Proof.Machine.execNtpProf tid msg s
  | .ntsKey tid msg => Sys2Proof.Machine.execNtsKey tid msg s
  | .keIdent tid msg => Sys2Proof.Machine.execKeIdent tid msg s
  | .gnssSnap tid msg => Sys2Proof.Machine.execGnssSnap tid msg s
  | .gnssAccept tid msg => Sys2Proof.Machine.execGnssAccept tid msg s
  | .gnssSurvey tid msg => Sys2Proof.Machine.execGnssSurvey tid msg s
  | .snapRelease tid msg => Sys2Proof.Machine.execSnapRelease tid msg s
  | .pairJoin tid msg => Sys2Proof.Machine.execPairJoin tid msg s
  | .pairYield tid msg => Sys2Proof.Machine.execPairYield tid msg s
  | .pairPart tid msg => Sys2Proof.Machine.execPairPart tid msg s
  | .belayFrame tid msg => Sys2Proof.Machine.execBelayFrame tid msg s
  | .nvmRead tid msg => Sys2Proof.Machine.execNvmRead tid msg s
  | .nvmErase tid msg => Sys2Proof.Machine.execNvmErase tid msg s
  | .nvmWrite tid msg => Sys2Proof.Machine.execNvmWrite tid msg s
  | .nvmVerify tid msg => Sys2Proof.Machine.execNvmVerify tid msg s
  | .nvmActivate tid msg => Sys2Proof.Machine.execNvmActivate tid msg s
  | .restart tid msg => Sys2Proof.Machine.execRestart tid msg s
  | .bivRelease tid msg => Sys2Proof.Machine.execBivRelease tid msg s
  | .otpOwner tid msg => Sys2Proof.Machine.execOtpOwner tid msg s
  | .cntSnap tid msg => Sys2Proof.Machine.execCntSnap tid msg s
  | .cntRead tid msg => Sys2Proof.Machine.execCntRead tid msg s
  | .logRead tid msg => Sys2Proof.Machine.execLogRead tid msg s
  | .dumpCfg tid msg => Sys2Proof.Machine.execDumpCfg tid msg s
  | .ringReqProdWrite ring prod setup msgs => Sys2Proof.Machine.execRingReqProdWrite ring prod setup msgs s
  | .hspiWriteMsg msg => Sys2Proof.Machine.execHspiWriteMsg msg s
  | .hspiRegRd addr => Sys2Proof.Machine.execHspiRegRd addr s
  | .hspiRegWr addr v => Sys2Proof.Machine.execHspiRegWr addr v s
  | .scrubRead domain word => Sys2Proof.Machine.execScrubRead domain word s
  | .eccInjectArm ini v => Sys2Proof.Machine.execEccInjectArm ini v s
  | .eccLogClrGo ini domain => Sys2Proof.Machine.execEccLogClrGo ini domain s
  | .sourcePending id => Sys2Proof.Machine.execSourcePending id s
  | .evcEnWrite ini k v => Sys2Proof.Machine.execEvcEnWrite ini k v s
  | .evcSyncRead ini => Sys2Proof.Machine.execEvcSyncRead ini s
  | .evcClaimRead ini line => Sys2Proof.Machine.execEvcClaimRead ini line s
  | .evcCompleteWrite ini line id => Sys2Proof.Machine.execEvcCompleteWrite ini line id s
  | .evcSetGo ini id => Sys2Proof.Machine.execEvcSetGo ini id s
  | .evcSrcCfgWrite ini id v => Sys2Proof.Machine.execEvcSrcCfgWrite ini id v s
  | .msixUnmask masks fn => Sys2Proof.Machine.execMsixUnmask masks fn s
  | .cntCtlSnap ini => Sys2Proof.Machine.execCntCtlSnap ini s
  | .outputEdge n rise => Sys2Proof.Machine.execOutputEdge n rise s
  | .harnessBadMessage tid msg => Sys2Proof.Machine.execHarnessBadMessage tid msg s
  | .ringRspConsWrite ring cons bufs => Sys2Proof.Machine.execRingRspConsWrite ring cons bufs s
  | .disqTimeExpiry n => Sys2Proof.Machine.execDisqTimeExpiry n s
  | .keSegment ring alert => Sys2Proof.Machine.execKeSegment ring alert s
  | .ntsKeClientResponse n chain notBefore notAfter c2s s2c recs => Sys2Proof.Machine.execNtsKeClientResponse n chain notBefore notAfter c2s s2c recs s
  | .ntsPollReply n t1 t4 old bytes => Sys2Proof.Machine.execNtsPollReply n t1 t4 old bytes s
  | .rootUnlock => Sys2Proof.Machine.execRootUnlock s
  | .incrementChange => Sys2Proof.Machine.execIncrementChange s
  | .tsuSlewDone => Sys2Proof.Machine.execTsuSlewDone s
  | .tsuSetTimeout => Sys2Proof.Machine.execTsuSetTimeout s
  | .tsuLeapDone => Sys2Proof.Machine.execTsuLeapDone s
  | .restEntryComplete => Sys2Proof.Machine.execRestEntryComplete s
  | .restExitComplete => Sys2Proof.Machine.execRestExitComplete s
  | .dispatch => Sys2Proof.Machine.execDispatch s
  | .ctxSnapshotTaken => Sys2Proof.Machine.execCtxSnapshotTaken s
  | .dispatchBoundary => Sys2Proof.Machine.execDispatchBoundary s
  | .topoSwapDone => Sys2Proof.Machine.execTopoSwapDone s
  | .topoTblFlipDone => Sys2Proof.Machine.execTopoTblFlipDone s
  | .keyNext => Sys2Proof.Machine.execKeyNext s
  | .keyRotation => Sys2Proof.Machine.execKeyRotation s
  | .keysInstall => Sys2Proof.Machine.execKeysInstall s
  | .sketchHalvingPass => Sys2Proof.Machine.execSketchHalvingPass s
  | .dropAggregation => Sys2Proof.Machine.execDropAggregation s
  | .grantRequest => Sys2Proof.Machine.execGrantRequest s
  | .grantCancelRx => Sys2Proof.Machine.execGrantCancelRx s
  | .announceRx => Sys2Proof.Machine.execAnnounceRx s
  | .ptpseqJournal => Sys2Proof.Machine.execPtpseqJournal s
  | .esRestart => Sys2Proof.Machine.execEsRestart s
  | .gspValidGap => Sys2Proof.Machine.execGspValidGap s
  | .gspValidRecover => Sys2Proof.Machine.execGspValidRecover s
  | .gnssNoSol => Sys2Proof.Machine.execGnssNoSol s
  | .gnssTimePulse => Sys2Proof.Machine.execGnssTimePulse s
  | .refMonitorUpdate => Sys2Proof.Machine.execRefMonitorUpdate s
  | .refDriftEstimate => Sys2Proof.Machine.execRefDriftEstimate s
  | .refWtrEnd => Sys2Proof.Machine.execRefWtrEnd s
  | .refSwitchEnd => Sys2Proof.Machine.execRefSwitchEnd s
  | .servoUpdate => Sys2Proof.Machine.execServoUpdate s
  | .holdoverBoundUpdate => Sys2Proof.Machine.execHoldoverBoundUpdate s
  | .holdoverTrendWrite => Sys2Proof.Machine.execHoldoverTrendWrite s
  | .servoHistoryEntry => Sys2Proof.Machine.execServoHistoryEntry s
  | .custodyGuard => Sys2Proof.Machine.execCustodyGuard s
  | .custodyWatchEnd => Sys2Proof.Machine.execCustodyWatchEnd s
  | .custodyRetry => Sys2Proof.Machine.execCustodyRetry s
  | .custFaultTimer => Sys2Proof.Machine.execCustFaultTimer s
  | .sessionRefusalRetry => Sys2Proof.Machine.execSessionRefusalRetry s
  | .heartbeatSend => Sys2Proof.Machine.execHeartbeatSend s
  | .heartbeatMiss => Sys2Proof.Machine.execHeartbeatMiss s
  | .joinRetry => Sys2Proof.Machine.execJoinRetry s
  | .pwrGoodFall => Sys2Proof.Machine.execPwrGoodFall s
  | .s4Book => Sys2Proof.Machine.execS4Book s
  | .s6Load => Sys2Proof.Machine.execS6Load s
  | .s7Lanes => Sys2Proof.Machine.execS7Lanes s
  | .stageDeadline => Sys2Proof.Machine.execStageDeadline s
  | .startRetry => Sys2Proof.Machine.execStartRetry s
  | .startSuccess => Sys2Proof.Machine.execStartSuccess s
  | .ntfEventTick => Sys2Proof.Machine.execNtfEventTick s
  | .ntfCairnBatch => Sys2Proof.Machine.execNtfCairnBatch s
  | .statusPageRewrite => Sys2Proof.Machine.execStatusPageRewrite s
  | .hspiStatus => Sys2Proof.Machine.execHspiStatus s
  | .hspiReadMsg => Sys2Proof.Machine.execHspiReadMsg s
  | .maskWindowEnd => Sys2Proof.Machine.execMaskWindowEnd s
  | .counterDump => Sys2Proof.Machine.execCounterDump s
  | .cairnSecondEnd => Sys2Proof.Machine.execCairnSecondEnd s
  | .poresetNAssert => Sys2Proof.Machine.execPoresetNAssert s
  | .warmResetNAssert => Sys2Proof.Machine.execWarmResetNAssert s
  | .vstbyLoss => Sys2Proof.Machine.execVstbyLoss s
  | .gspValidTimeout => Sys2Proof.Machine.execGspValidTimeout s
  | .upstreamGrantReply => Sys2Proof.Machine.execUpstreamGrantReply s
  | .topoRepair bank index => Sys2Proof.Machine.execTopoRepair bank index s
  | .keLingerTimeout conn => Sys2Proof.Machine.execKeLingerTimeout conn s
  | .keRto conn => Sys2Proof.Machine.execKeRto conn s
  | .identExpiry n => Sys2Proof.Machine.execIdentExpiry n s
  | .identExpiryWarning n => Sys2Proof.Machine.execIdentExpiryWarning n s
  | .upstreamGrantRenew n kind => Sys2Proof.Machine.execUpstreamGrantRenew n kind s
  | .upstreamGrantRetry n kind => Sys2Proof.Machine.execUpstreamGrantRetry n kind s
  | .bnuYield n left => Sys2Proof.Machine.execBnuYield n left s
  | .drbgReseed n => Sys2Proof.Machine.execDrbgReseed n s
  | .drbgStale n => Sys2Proof.Machine.execDrbgStale n s
  | .gnssSysExclusionEnd sys => Sys2Proof.Machine.execGnssSysExclusionEnd sys s
  | .gnssLeanCycle sec fresh reads rose => Sys2Proof.Machine.execGnssLeanCycle sec fresh reads rose s
  | .gnssEphemerisWindow on => Sys2Proof.Machine.execGnssEphemerisWindow on s
  | .gnssBandMonitor l1 l5 => Sys2Proof.Machine.execGnssBandMonitor l1 l5 s
  | .bivouacRootRetry locked pcie => Sys2Proof.Machine.execBivouacRootRetry locked pcie s
  | .responseBufferTimeout ring => Sys2Proof.Machine.execResponseBufferTimeout ring s
  | .rowRetireComplete domain entry => Sys2Proof.Machine.execRowRetireComplete domain entry s
  | .tempCrossing temp => Sys2Proof.Machine.execTempCrossing temp s
  | .railExcursion rail => Sys2Proof.Machine.execRailExcursion rail s
  | .railReturn rail => Sys2Proof.Machine.execRailReturn rail s
  | .gnssChannelTrack ch => Sys2Proof.Machine.execGnssChannelTrack ch s

end Sys2Proof.Machine
end

