-- ==== Sys2Proof/Safety.lean ====
section
/-!
DEFINITION. Safety.lean: what statements about steps are phrased in: the canonical form of the state's sparse maps, what every
command keeps, and the running device.
-/
namespace Sys2Proof.Machine
open Sys2Proof

/-- Every sparse map of the state that is keyed by an address or a unit is in its canonical form: keys rise and no entry equals
what an unlisted key reads as. Equal memories and equal register files are then equal data. -/
structure State.Canonical (s : State) : Prop where
  mem : memWf s.mem = true
  regs : mapWf (regReset s.variant) s.regs = true
  initRegs : mapWf (initReset s.variant) s.initRegs = true
  busOut : mapWf (fun _ => (0 : Word)) s.busOut = true
  flash : mapWf flashDefault s.nvm.flash = true
  gate : mapWf gateReset s.gate = true
  ports : mapWf portReset s.ports = true
  refs : mapWf refReset s.refs = true
  refUp : mapWf (fun _ => none) s.refUp = true
  tic : mapWf ticReset s.tic = true
  outs : mapWf outReset s.outs = true
  trigs : mapWf trigReset s.trigs = true
  nts : mapWf ntsReset s.nts = true
  tod : mapWf (fun _ => none) s.tod = true
  ctx : mapWf ctxReset s.pe.ctx = true
  q : mapWf (fun _ => []) s.pe.q = true
  live : mapWf (fun _ => 0) s.cnt.live = true
  keys : mapWf keyReset s.svc.keys = true
  sketch : mapWf (fun _ => 0) s.svc.sketch = true
  grants : mapWf (fun _ => none) s.ptp.grants = true
  conns : mapWf (fun _ => none) s.ke.conns = true
  units : mapWf bnuReset s.bnu.units = true
  bad : mapWf (fun _ => 0) s.ecc.bad = true
  log : mapWf (fun _ => none) s.ecc.log = true

/-- What every command keeps: the queue and the part fitted (R1); what left the device stays said; a draw is never taken twice;
owner fields that are programmed, or locked, never change (R408); canonical maps stay canonical. -/
structure Keeps (s t : State) : Prop where
  pending : t.pending = s.pending
  variant : t.variant = s.variant
  out : s.out <:+ t.out
  fresh : s.fresh ≤ t.fresh
  otp : s.otp.locked = true ∨ s.otp.ownerHash ≠ [] → t.otp = s.otp
  canonical : s.Canonical → t.Canonical

/-- The device acts on commands, and its sparse maps are in canonical form. -/
structure State.Ready (s : State) : Prop where
  runs : heldInReset s = false
  canonical : s.Canonical

/-- A register of the event controller, or of the counters and the Cairn log: where the device reports what happened. -/
def reports (a : Nat) : Bool := decide (0x700000 ≤ a) && decide (a < 0x900000)

/-- A byte of the Cairn ring (R501). -/
def cairnRing (a : Nat) : Bool := decide (0x78000000 ≤ a) && decide (a < 0x78020000)

/-- The state without its registers and window memories and without what reporting may change: the event controller's and the
counters' own fields, what left the device, and the record counter under which reports go to the peer. -/
def State.bare (s : State) : State :=
  { s with regs := [], mem := [], out := [], evc := State.reset.evc, cnt := State.reset.cnt, pair := { s.pair with ctrTx := 0 } }

/-- From `s` to `t` the device has at most reported: event sources, counters and Cairn entries (with their copies to the peer)
may have changed; every other register, every other byte of memory and every other part of the state is as it was. -/
structure OnlyReports (s t : State) : Prop where
  canonical : s.Canonical → t.Canonical
  regs : s.Canonical → ∀ a, reports a = false → rd t a = rd s a
  mem : s.Canonical → ∀ a, cairnRing a = false → ldB t a = ldB s a
  rest : t.bare = s.bare

/-- The frame of a command that writes the registers listed: outside them and what is reported, every register, every byte of
memory and every part of the state is as in `s`. -/
structure Frame (written : List Nat) (s t : State) : Prop where
  regs : ∀ a, a ∉ written → reports a = false → rd t a = rd s a
  mem : ∀ a, cairnRing a = false → ldB t a = ldB s a
  rest : t.bare = s.bare

/-- The device is not in Rest; context `c` of engine `e` is READY at the Pitch `p`, whose opcode is `op`, no reserved bit of it is set and no word of any memory
holds an error: the Pitch is about to be executed (R97, R98, R124). -/
structure Issues (s : State) (e c op p : Nat) : Prop where
  serves : phase s ≠ 5
  engine : e < peCount s.variant
  ctx : c < 4
  ready : (ctxOf s (4 * e + c)).st = 2
  due : (ctxOf s (4 * e + c)).done = false
  clean : s.ecc.bad = []
  pitch : pitchAt s (ctxOf s (4 * e + c)).bank (ctxOf s (4 * e + c)).pc = p
  code : pOp p = op
  known : opKnown s.variant op = true
  res : pRes p = 0

/-- The context that executes a Pitch, the Pitch counted (R101). -/
def stepped (s : State) (ec : Nat) : Ctx := { ctxOf s ec with steps := (ctxOf s ec).steps + 1 }

/-- Nothing but context `ec` has changed. -/
def OnlyCtx (ec : Nat) (s t : State) : Prop :=
  t = { s with pe := { s.pe with ctx := t.pe.ctx } } ∧ ∀ k, k ≠ ec → ctxOf t k = ctxOf s k

/-- An attempt has begun with the reset cause given (R422, R424): the device runs, in stage 1. -/
structure Begun (t : State) (cause ph : Nat) : Prop where
  runs : heldInReset t = false
  stage : stage t = 1
  phase : phase t = ph
  cause : fget t SYS_START_STATUS SYS_START_STATUS_RESET_CAUSE = cause % 256
  retry : t.start.retryWait = false

/-- The attempt under way in `s` has failed (R428, R429): the count grows by one; below three a retry waits, from three on the device is
in Bivouac mode for cause 1. -/
structure AttemptFailed (s t : State) (cause : Nat) : Prop where
  count : t.start.latchRun = s.start.latchRun + 1
  retry : s.start.latchRun < 2 → t.start.retryWait = true ∧ t.start.latchCause = cause
  bivouac : 2 ≤ s.start.latchRun → phase t = 4 ∧ fget t SYS_START_STATUS SYS_START_STATUS_BIV_CAUSE = 1

/-- A request message of a session (R441): TYPE 0, the session's ID, SEQ, the command, its body, and the tag under the session key. -/
def reqMsg (x : Session) (seq cmd : Nat) (b : List Byte) : List Byte := harMsg x.key 0 x.sid seq cmd 0 b

/-- The response of a session to a request (R441): TYPE 1, SEQ and command of the request, a status, a body, the tag. -/
def rspMsg (x : Session) (seq cmd status : Nat) (b : List Byte) : List Byte := harMsg x.key 1 x.sid seq cmd status b

/-- A request arrives that passes the checks before the one of its command (R440, R445 to R448): the session is open on a served
transport, the SEQ is accepted, no copy of the message is kept, the message is no longer than every transport carries, and nothing
of the session executes or waits. No TIME_SET waits in any session. -/
structure Request (s : State) (x : Session) (seq cmd : Nat) (b : List Byte) : Prop where
  served : harServed x.tid s = true
  session : sessionOf s x.sid = some x
  named : 0 < x.sid ∧ x.sid < 2 ^ 32
  keyed : x.key ≠ []
  fresh : seqFresh x seq = true ∧ seq < 2 ^ 64
  size : b.length ≤ 65456
  new : ∀ k ∈ x.kept, k.2.1 ≠ reqMsg x seq cmd b
  idle : x.wait = [] ∧ x.busy = none
  noSet : harWaiting 0x0402 s = []

/-- The session's OK response to a request is the last thing that left the device. -/
def Replied (t : State) (x : Session) (seq cmd : Nat) (body : List Byte) : Prop :=
  t.out.head? = some (.msg x.tid (rspMsg x seq cmd 0 body))

/-- The request executes and will be answered later (R447); nothing has left the device. -/
def Waits (s t : State) (x : Session) (msg : List Byte) : Prop :=
  (∃ y, sessionOf t x.sid = some y ∧ y.busy = some msg) ∧ t.out = s.out

/-- The request is answered OK, and beside what the session keeps of it nothing has changed. -/
def Looked (s t : State) (x : Session) (seq cmd : Nat) (body : List Byte) : Prop :=
  t = { s with har := { s.har with sessions := t.har.sessions }, out := .msg x.tid (rspMsg x seq cmd 0 body) :: s.out }

/-- The request is refused with a status, a state code and a DETAIL (R442), and has no effect (R448). -/
def Denied (s t : State) (x : Session) (seq cmd status state detail : Nat) : Prop :=
  t.out.head? = some (.msg x.tid (rspMsg x seq cmd status (failBody state detail)))
    ∧ Frame [] { s with har := { s.har with sessions := t.har.sessions } } t

end Sys2Proof.Machine
end

