-- ==== Sys2Proof/Certificates/Slice0/Obligations.lean ====
section
/-!
DEFINITION. Certificates/Slice0/Obligations.lean: the statements about the model. Each says what a command does on every state that
meets its hypotheses; a statement cites the rules of the spec in its docstring.
-/
open Sys2Proof Sys2Proof.Machine

/-- A step takes the command at the front of the queue and is that command's effect on the state with the rest of the queue. -/
def Obligations.StepRunsFront : Prop :=
  ∀ (c : Instr) (r : List Instr) (s : State), s.pending = c :: r → step s = exec c { s with pending := r }

/-- Whatever the state and the operands, a command answers a next state; it leaves the queue and the variant as they are, takes back
nothing that left the device, draws no random value twice, keeps owner fields of the OTP that are programmed or locked, and keeps
every sparse map in its canonical form. -/
def Obligations.EveryCommandCompletes : Prop :=
  ∀ (c : Instr) (s : State), ∃ t, exec c s = .next t ∧ Keeps s t

/-- From every state in which the register file, the window memories, the flash and the maps of units are in canonical form, a step,
with or without a waiting command, leads to such a state. -/
def Obligations.StepKeepsCanonical : Prop :=
  ∀ (s t : State), s.Canonical → step s = .next t → t.Canonical

/-- The state after reset is in canonical form, acts on commands (the model's choice, log entry 4), is at stage 0, has an empty queue and has
said nothing. -/
def Obligations.ResetCanonical : Prop :=
  State.reset.Canonical ∧ heldInReset State.reset = false ∧ stage State.reset = 0 ∧ State.reset.pending = [] ∧ State.reset.out = []

/-- While the device holds itself in reset (R422, and R436 without a clock) no command does anything, but those of the supply, of
the reset pins, of VSTBY, of the root clock's retry, of the die sensor and of the rail monitors. -/
def Obligations.HeldInResetDoesNothing : Prop :=
  ∀ (c : Instr) (s : State), heldInReset s = true →
    exec c s = .next s ∨ (∃ b, c = .pwrGoodRise b) ∨ c = .pwrGoodFall ∨ (∃ b, c = .poresetNRelease b) ∨ c = .poresetNAssert ∨
      (∃ b, c = .warmResetNRelease b) ∨ c = .warmResetNAssert ∨ c = .vstbyLoss ∨ (∃ l p, c = .bivouacRootRetry l p) ∨
      (∃ x, c = .tempCrossing x) ∨ (∃ r, c = .railExcursion r) ∨ (∃ r, c = .railReturn r)

/-- On an empty queue, from stage S3 on, a step is one TSC tick (the model's choice, log entry 1 names it): the device time grows by the
increment in force, while a slew runs by its part of a tick too, modulo the range of GT128 (R39, R40, R44). -/
def Obligations.IdleIsOneTick : Prop :=
  ∀ (s : State), s.Ready → s.pending = [] → 3 ≤ stage s →
    ∃ t, step s = .next t ∧ t.tsu.inc = s.tsu.inc ∧ t.tsu.half = !s.tsu.half ∧ (∀ a, cairnRing a = false → ldB t a = ldB s a) ∧
      (s.tsu.slewTick = 0 ∨ s.tsu.slewRemain = 0 → t.tsu.now = (s.tsu.now + s.tsu.inc) % tsuModulus) ∧
      (s.tsu.slewTick ≠ 0 → s.tsu.slewTick.natAbs < s.tsu.slewRemain.natAbs →
        t.tsu.now = (((s.tsu.now : Int) + (s.tsu.inc + s.tsu.slewTick)) % (tsuModulus : Int)).toNat ∧
        t.tsu.slewRemain = s.tsu.slewRemain - s.tsu.slewTick)

/-- TESTB answers a next state in which BIT is 1 when WA AND IMM is non-zero, and, with ALL, only when every bit of IMM is set in WA. -/
def Obligations.TestbSetsBit : Prop :=
  ∀ (e c p : Nat) (s : State), s.Ready → Issues s e c 0x09 p →
    ∃ t, exec (.testb e c) s = .next t ∧
      (pb p 64 = false → ((ctxOf t (4 * e + c)).flags.testBit fBIT = true ↔ wOf (ctxOf s (4 * e + c)) (pWa p) &&& pImm p ≠ 0)) ∧
      (pb p 64 = true → ((ctxOf t (4 * e + c)).flags.testBit fBIT = true ↔
        wOf (ctxOf s (4 * e + c)) (pWa p) &&& pImm p = pImm p)) ∧
      OnlyCtx (4 * e + c) s t

/-- NOP changes no register, anchor or memory: of the flags it clears OOB, LATE, OVER, AUTHF and BAD where bits 64 to 68 of the Pitch say
so, and no other. IMM writes IMM to WD and to no other register. -/
def Obligations.NopClearsAndImmWrites : Prop :=
  ∀ (e c p : Nat) (s : State), s.Ready →
    (Issues s e c 0x00 p → ∃ t, exec (.nop e c) s = .next t ∧ OnlyCtx (4 * e + c) s t ∧
      ctxOf t (4 * e + c) = { stepped s (4 * e + c) with done := true, flags := (ctxOf t (4 * e + c)).flags } ∧
      (∀ f k, (f, k) ∈ [(fOOB, 64), (fLATE, 65), (fOVER, 66), (fAUTHF, 67), (fBAD, 68)] →
        (ctxOf t (4 * e + c)).flags.testBit f = ((ctxOf s (4 * e + c)).flags.testBit f && !p.testBit k)) ∧
      ∀ j, j ∉ [fOOB, fLATE, fOVER, fAUTHF, fBAD] →
        (ctxOf t (4 * e + c)).flags.testBit j = (ctxOf s (4 * e + c)).flags.testBit j)
    ∧ (Issues s e c 0x01 p → ∃ t, exec (.imm e c) s = .next t ∧ OnlyCtx (4 * e + c) s t ∧
      ctxOf t (4 * e + c) = { stepped s (4 * e + c) with done := true, w := (ctxOf s (4 * e + c)).w.set (pWd p) (pImm p) })

/-- A context whose Pitch is complete and whose successor is 0xFFFF ends its run: the context is free, and the drop is counted under
reason NO_DISPOSITION. -/
def Obligations.NoDispositionDrops : Prop :=
  ∀ (e c p : Nat) (s : State), s.Ready → e < peCount s.variant → c < 4 → (ctxOf s (4 * e + c)).st = 2 →
    (ctxOf s (4 * e + c)).done = true → pitchAt s (ctxOf s (4 * e + c)).bank (ctxOf s (4 * e + c)).pc = p →
    (if condHolds (pCond p) (ctxOf s (4 * e + c)).flags then pNextT p else pNextF p) = 0xFFFF →
    mapGet (fun _ => 0) s.cnt.live (EC_DROP_RSN 1) + 1 < 2 ^ 48 →
    ∃ t, exec (.successor e c) s = .next t ∧ ctxOf t (4 * e + c) = ctxReset 0 ∧
      mapGet (fun _ => 0) t.cnt.live (EC_DROP_RSN 1) = mapGet (fun _ => 0) s.cnt.live (EC_DROP_RSN 1) + 1

/-- An accepted write of TSU_INC_NOM (inside the range of R41, before the S9 lock), TSU_FREQ_ADJ or TSU_SLEW_REQ (while no servo
steers, or by firmware: R30, R42, R43) or TSU_SLEW_LIMIT (R45): the register takes the field written (for TSU_SLEW_REQ: the amount is
added to what is still to apply, R43, and where nothing is left the slew ends, R44, R63), the new increment waits for its edge (R23), and of
the registers only the one written, TSU_SLEW_REMAIN and at the end of a slew TSU_STATE change. A write of TSU_INC_NOM outside ±1,000 ppm is
ignored and sets TSU_STATE.INC_RANGE (R41). An ARM arms the initial set of a TSU that is neither SET nor armed (R47, R51), a CANCEL and a
time-out disarm it (R48, R51), and a read of TSU_NOW_LO answers NS and FRAC of the device time (R53). -/
def Obligations.TsuRateWrites : Prop :=
  ∀ (i : Initiator) (v : Word) (s : State), s.Ready → 3 ≤ roleOf i s →
    (rwlLocked s = false → 624375 * 2 ^ 48 ≤ getF TSU_INC_NOM_INC_NOM v * 1000000 →
      getF TSU_INC_NOM_INC_NOM v * 1000000 ≤ 625625 * 2 ^ 48 →
      ∃ t, exec (.tsuIncNomWrite i v) s = .next t ∧ fget t TSU_INC_NOM TSU_INC_NOM_INC_NOM = getF TSU_INC_NOM_INC_NOM v ∧
        t.tsu = { s.tsu with incPending := true } ∧ Frame [TSU_INC_NOM] { s with tsu := t.tsu } t)
    ∧ (rwlLocked s = false →
      (getF TSU_INC_NOM_INC_NOM v * 1000000 < 624375 * 2 ^ 48 ∨ 625625 * 2 ^ 48 < getF TSU_INC_NOM_INC_NOM v * 1000000) →
      ∃ t, exec (.tsuIncNomWrite i v) s = .next t ∧ fbit t TSU_STATE TSU_STATE_INC_RANGE = true ∧
        rd t TSU_INC_NOM = rd s TSU_INC_NOM ∧ Frame [TSU_STATE] s t)
    ∧ ((isCore i = true ∨ fget s SERVO_STATE SERVO_STATE_STATE = 0) → -freqLimit ≤ sgn 40 (getF TSU_FREQ_ADJ_FREQ_ADJ v) →
      ∃ t, exec (.tsuFreqAdjWrite i v) s = .next t ∧ fint t TSU_FREQ_ADJ TSU_FREQ_ADJ_FREQ_ADJ = sgn 40 (getF TSU_FREQ_ADJ_FREQ_ADJ v) ∧
        t.tsu = { s.tsu with incPending := true } ∧ Frame [TSU_FREQ_ADJ] { s with tsu := t.tsu } t)
    ∧ ((isCore i = true ∨ fget s SERVO_STATE SERVO_STATE_STATE = 0) → fbit s TSU_STATE TSU_STATE_STATE = true →
      (s.tsu.slewRemain = 0 ∨ s.tsu.slewRemain + v.toInt * 2 ^ 56 ≠ 0) →
      ∃ t, exec (.tsuSlewReqWrite i v) s = .next t ∧
        t.tsu = { s.tsu with slewRemain := s.tsu.slewRemain + v.toInt * 2 ^ 56, incPending := true } ∧
        rd t TSU_SLEW_REMAIN = BitVec.ofInt 64 (Int.tdiv t.tsu.slewRemain (2 ^ 56)) ∧
        Frame [TSU_SLEW_REMAIN] { s with tsu := t.tsu } t)
    ∧ ((isCore i = true ∨ fget s SERVO_STATE SERVO_STATE_STATE = 0) → fbit s TSU_STATE TSU_STATE_STATE = true →
      s.tsu.slewRemain ≠ 0 → s.tsu.slewRemain + v.toInt * 2 ^ 56 = 0 →
      ∃ t, exec (.tsuSlewReqWrite i v) s = .next t ∧ t.tsu.slewRemain = 0 ∧ t.tsu.slewTick = 0 ∧ t.tsu.incPending = true ∧
        t.tsu.now = s.tsu.now ∧ rd t TSU_SLEW_REMAIN = 0 ∧ fbit t TSU_STATE TSU_STATE_SLEWING = false ∧
        Frame [TSU_SLEW_REMAIN, TSU_STATE] { s with tsu := t.tsu, gate := t.gate } t)
    ∧ (1 ≤ getF TSU_SLEW_LIMIT_LIMIT v → getF TSU_SLEW_LIMIT_LIMIT v ≤ 1000 →
      ∃ t, exec (.tsuSlewLimitWrite i v) s = .next t ∧ fget t TSU_SLEW_LIMIT TSU_SLEW_LIMIT_LIMIT = getF TSU_SLEW_LIMIT_LIMIT v ∧
        t.tsu = { s.tsu with incPending := true } ∧ Frame [TSU_SLEW_LIMIT] { s with tsu := t.tsu } t)
    ∧ (getF TSU_SET_CTL_CANCEL v = 0 → fbit s TSU_STATE TSU_STATE_SET_ARMED = false → fbit s TSU_STATE TSU_STATE_STATE = false →
      getF TSU_SET_SUB_NS (rdI s i TSU_SET_SUB) ≤ 999999999 →
      ∃ t, exec (.tsuSetArm i v) s = .next t ∧ fbit t TSU_STATE TSU_STATE_SET_ARMED = true)
    ∧ (getF TSU_SET_CTL_ARM v = 0 → fbit s TSU_STATE TSU_STATE_SET_ARMED = true →
      ∃ t, exec (.tsuSetCancel i v) s = .next (harWake t) ∧ fbit t TSU_STATE TSU_STATE_SET_ARMED = false)
    ∧ (fbit s TSU_STATE TSU_STATE_SET_ARMED = true → s.tsu.setRefin = true →
      ∃ t, exec .tsuSetTimeout s = .next (harLateAll 0x0402 7 2 (failBody 2 noDetail) t) ∧
        fbit t TSU_STATE TSU_STATE_SET_ARMED = false)
    ∧ (∃ t, exec (.tsuNowLoRead i) s = .next t ∧ mapGet (fun _ => 0) t.busOut (initIx i) = BitVec.ofNat 64 (gtSub (gtNow s)))

/-- ARM of TSU_SET_CTL while the TSU is neither SET nor armed takes the initiator's own TSU_SET_SEC, TSU_SET_SUB, whose NS is at most
999,999,999, and TSU_SET_BOUND and the edge and pin written, and the device time goes on as it was (R47, R48, R51). CANCEL of an armed set
disarms it and leaves STATE and the time scale as they were, without an armed set it changes nothing (R51), and so disarms the time-out of a
set at a pulse (R48); the Harness requests that wait for the set are answered after that (R447). A read of TSU_NOW_LO by a bound initiator
answers NS and FRAC of the device time and leaves SEC and the status of the same instant in that initiator's own TSU_NOW_HI and
TSU_CAP_STATUS (R53, R54). -/
def Obligations.TsuSetArming : Prop :=
  ∀ (i : Initiator) (v : Word) (s : State), s.Ready →
    (3 ≤ roleOf i s → getF TSU_SET_CTL_CANCEL v = 0 → fbit s TSU_STATE TSU_STATE_SET_ARMED = false →
      fbit s TSU_STATE TSU_STATE_STATE = false → getF TSU_SET_SUB_NS (rdI s i TSU_SET_SUB) ≤ 999999999 →
      ∃ t, exec (.tsuSetArm i v) s = .next t ∧ fbit t TSU_STATE TSU_STATE_SET_ARMED = true ∧
        t.tsu.setV = gtOf (rdI s i TSU_SET_SEC).toNat (rdI s i TSU_SET_SUB).toNat ∧
        t.tsu.setBound = getF TSU_SET_BOUND_BOUND (rdI s i TSU_SET_BOUND) ∧
        (t.tsu.setRefin = true ↔ getF TSU_SET_CTL_EDGE v = 1) ∧ t.tsu.setPin = getF TSU_SET_CTL_PIN v ∧ t.tsu.now = s.tsu.now ∧
        Frame [TSU_STATE] { s with tsu := t.tsu, initRegs := t.initRegs } t)
    ∧ (3 ≤ roleOf i s → getF TSU_SET_CTL_ARM v = 0 → fbit s TSU_STATE TSU_STATE_SET_ARMED = true →
      ∃ t, exec (.tsuSetCancel i v) s = .next (harWake t) ∧ fbit t TSU_STATE TSU_STATE_SET_ARMED = false ∧
        t.servo = { s.servo with armed := false } ∧ t.tsu = s.tsu ∧
        fbit t TSU_STATE TSU_STATE_STATE = fbit s TSU_STATE TSU_STATE_STATE ∧
        Frame [TSU_STATE] { s with servo := t.servo, initRegs := t.initRegs } t ∧ (harWaiting 0x0402 s = [] → harWake t = t))
    ∧ (3 ≤ roleOf i s → getF TSU_SET_CTL_ARM v = 0 → fbit s TSU_STATE TSU_STATE_SET_ARMED = false →
      exec (.tsuSetCancel i v) s = .next (harWake s))
    ∧ (fbit s TSU_STATE TSU_STATE_SET_ARMED = true → s.tsu.setRefin = true →
      ∃ t, exec .tsuSetTimeout s = .next (harLateAll 0x0402 7 2 (failBody 2 noDetail) t) ∧
        fbit t TSU_STATE TSU_STATE_SET_ARMED = false ∧ t.servo = { s.servo with armed := false } ∧ t.tsu = s.tsu ∧
        fbit t TSU_STATE TSU_STATE_STATE = fbit s TSU_STATE TSU_STATE_STATE ∧ Frame [TSU_STATE] { s with servo := t.servo } t)
    ∧ (roleOf i s ≠ 0 →
      ∃ t, exec (.tsuNowLoRead i) s = .next t ∧
        mapGet (fun _ => 0) t.busOut (initIx i) = BitVec.ofNat 64 (gtSub (gtNow s)) ∧
        rdI t i TSU_NOW_HI = BitVec.ofNat 64 (nowSec s) ∧
        getF TSU_CAP_STATUS_BOUND (rdI t i TSU_CAP_STATUS) = boundNs s ∧
        getF TSU_CAP_STATUS_UTC_OFFSET (rdI t i TSU_CAP_STATUS) = fget s TSU_UTC_OFFSET TSU_UTC_OFFSET_OFFSET ∧
        getF TSU_CAP_STATUS_LEAP (rdI t i TSU_CAP_STATUS) = fget s TSU_LEAP_PENDING TSU_LEAP_PENDING_PENDING ∧
        getF TSU_CAP_STATUS_STATE (rdI t i TSU_CAP_STATUS) = fget s TSU_STATE TSU_STATE_STATE ∧
        getF TSU_CAP_STATUS_SLEWING (rdI t i TSU_CAP_STATUS) = fget s TSU_STATE TSU_STATE_SLEWING ∧
        Frame [] { s with initRegs := t.initRegs, busOut := t.busOut } t)

/-- A write of TSU_LEAP_PENDING that its rule accepts (R57; not on a Second, R391) schedules or cancels; TSU_LEAP_DONE adds the
pending step to TSU_UTC_OFFSET and clears the pending leap (R55). The device time is not touched. -/
def Obligations.TsuLeaps : Prop :=
  ∀ (i : Initiator) (v : Word) (s : State), s.Ready →
    (3 ≤ roleOf i s → (onSecond s = true → isCore i = true) → getF TSU_LEAP_PENDING_PENDING v ≠ 2 →
      (getF TSU_LEAP_PENDING_PENDING v = 0 ∨ nowSec s + 2 ≤ (rd s TSU_LEAP_SEC).toNat) →
      ∃ t, exec (.tsuLeapPendingWrite i v) s = .next t ∧
        fget t TSU_LEAP_PENDING TSU_LEAP_PENDING_PENDING = getF TSU_LEAP_PENDING_PENDING v ∧
        t.tsu = { s.tsu with leapArm := if getF TSU_LEAP_PENDING_PENDING v = 0 then 0 else nowSec s } ∧
        Frame [TSU_LEAP_PENDING, TSU_STATE, PAIR_JSEQ] { s with tsu := t.tsu, pair := t.pair } t)
    ∧ (fint s TSU_LEAP_PENDING TSU_LEAP_PENDING_PENDING ≠ 0 →
      ∃ t, exec .tsuLeapDone s = .next t ∧ fget t TSU_LEAP_PENDING TSU_LEAP_PENDING_PENDING = 0 ∧
        fget t TSU_UTC_OFFSET TSU_UTC_OFFSET_OFFSET =
          unsgn 16 (fint s TSU_UTC_OFFSET TSU_UTC_OFFSET_OFFSET + fint s TSU_LEAP_PENDING TSU_LEAP_PENDING_PENDING) ∧
        t.tsu = { s.tsu with lastLeapSec := (rd s TSU_LEAP_SEC).toNat,
                             lastLeapStep := fint s TSU_LEAP_PENDING TSU_LEAP_PENDING_PENDING } ∧
        Frame [TSU_UTC_OFFSET, TSU_LEAP_PENDING, TSU_STATE, PAIR_JSEQ] { s with tsu := t.tsu, pair := t.pair } t)

/-- INCREMENT_CHANGE puts the waiting increment in force and shows it (R23, R40); TSU_SLEW_DONE is the tick whose slew part
reaches what is left of a slew, and ends it (R44); SET_EDGE loads the armed value, leaves the TSU SET and disarmed (R48, R49); COMPARE_TICK
grows the error bound by TSU_ERR_RATE (R62) and puts every stamp point in HOLD whose counter, not to be reloaded, differs by more than one
tick (R24, R25), but on the set edge itself it does neither (R49). -/
def Obligations.TsuEdges : Prop :=
  ∀ (s : State), s.Ready →
    (s.tsu.incPending = true →
      ∃ t, exec .incrementChange s = .next t ∧ t.tsu.incPending = false ∧
        t.tsu.inc = incOf (fget s TSU_INC_NOM TSU_INC_NOM_INC_NOM) (clampAdj (fint s TSU_FREQ_ADJ TSU_FREQ_ADJ_FREQ_ADJ)) ∧
        rd t TSU_INC_EFF = BitVec.ofNat 64 (incOf (fget s TSU_INC_NOM TSU_INC_NOM_INC_NOM)
          (clampAdj (fint s TSU_FREQ_ADJ TSU_FREQ_ADJ_FREQ_ADJ + slewTerm s)) / 2 ^ 16) ∧
        t.tsu.now = s.tsu.now)
    ∧ (fbit s TSU_STATE TSU_STATE_SLEWING = true → s.tsu.slewRemain ≠ 0 → s.tsu.slewTick ≠ 0 →
      s.tsu.slewRemain.natAbs ≤ s.tsu.slewTick.natAbs →
      ∃ t, exec .tsuSlewDone s = .next t ∧ t.tsu.slewRemain = 0 ∧ t.tsu.slewTick = 0 ∧ t.tsu.incPending = true ∧
        t.tsu.now = (((s.tsu.now : Int) + (s.tsu.inc + s.tsu.slewRemain)) % (tsuModulus : Int)).toNat ∧
        rd t TSU_SLEW_REMAIN = 0 ∧ fbit t TSU_STATE TSU_STATE_SLEWING = false ∧
        Frame [TSU_STATE, TSU_SLEW_REMAIN] { s with tsu := t.tsu, gate := t.gate } t)
    ∧ (∀ roots k k1 k2, fbit s TSU_STATE TSU_STATE_SET_ARMED = true → s.tsu.setOff = none → harWaiting 0x0402 s = [] →
      ∃ t, exec (.setEdge ⟨roots, k, k1, k2⟩) s = .next t ∧
        t.tsu.now = (s.tsu.setV + if s.tsu.setRefin then setInterval roots k k1 k2 s else 0) * 2 ^ 40 % tsuModulus ∧
        fbit t TSU_STATE TSU_STATE_STATE = true ∧ fbit t TSU_STATE TSU_STATE_SET_ARMED = false)
    ∧ (∀ diffs, fbit s TSU_STATE TSU_STATE_STATE = true → s.tsu.setAt = gtNow s →
      ∃ t, exec (.compareTick diffs) s = .next t ∧ t.tsu.errFs = s.tsu.errFs ∧ t.tsu.dist = s.tsu.dist ∧ t.tsu.now = s.tsu.now)
    ∧ (∀ diffs, (fbit s TSU_STATE TSU_STATE_STATE = false ∨ s.tsu.setAt ≠ gtNow s) →
      ∃ t, exec (.compareTick diffs) s = .next t ∧
        t.tsu.errFs = s.tsu.errFs + fget s TSU_ERR_RATE TSU_ERR_RATE_RATE ∧ t.tsu.now = s.tsu.now ∧
        ∀ pt, pt ∈ stampPoints s → mapGet (fun _ => 0) s.tsu.reload pt = 0 → 1 < (distOf (localUpset diffs s) pt).natAbs →
          fbit t TSU_DIST_STATUS ⟨pt, 1⟩ = true)

/-- REGISTER_WRITE to a register that is there, passes every check and whose chapter gives the write no effect of its own: every
RW and RWL field reads what was written, every RW1C field keeps just the bits not written 1, every other field keeps its value
(R13), and no other register or byte changes. -/
def Obligations.AcceptedRegisterWrite : Prop :=
  ∀ (i : Initiator) (addr : Nat) (v : Word) (s : State) (r : RegRow), s.Ready → roleOf i s ≠ 0 → addr % 8 = 0 → inSpan addr = true →
    regRow addr = some r → absentAddr s.variant addr = false → regCheck i (roleOf i s) addr v s = .ok →
    ownEffect i addr v s (storePlain addr v s) = none → harWaiting 0x0402 s = [] →
    ∃ t, exec (.registerWrite i addr v) s = .next t ∧ Frame [addr] s t ∧
      ∀ x ∈ r.fields, getF x.f (rd t addr) = match x.acc with
        | .rw | .rwl => getF x.f v
        | .rw1c => getF x.f (rd s addr &&& ~~~ v)
        | _ => getF x.f (rd s addr)

/-- A bound initiator's access to an absent unit's register (R4), narrower than 64 bits (R17, R522) or outside every span and window
(R520), while SYS_ABSENT_ACCESS.SET is 0: the access is recorded with its cause, direction, initiator and address (R526), a read
answers zero, and nothing else changes. A write into a read-only window changes no byte of any window and no register (R522). -/
def Obligations.AccessesRefusedAtTheBus : Prop :=
  ∀ (i : Initiator) (addr : Nat) (write : Bool) (v : Word) (s : State), s.Ready → addr < 2 ^ 32 →
    (∀ c n, (c, n) ∈ [(Instr.absentAccess i write addr, 1), (Instr.narrowAccess i write addr, 2), (Instr.unmappedAccess i write addr, 3)] →
      (n = 1 → inSpan addr = true ∧ absentAddr s.variant addr = true) → (n = 2 → unmapped addr = false) →
      (n = 3 → unmapped addr = true) → roleOf i s ≠ 0 → namesNone addr = false → fbit s SYS_ABSENT_ACCESS SYS_ABSENT_ACCESS_SET = false →
      ∃ t, exec c s = .next t ∧ fget t SYS_ABSENT_ACCESS SYS_ABSENT_ACCESS_SET = 1 ∧
        fget t SYS_ABSENT_ACCESS SYS_ABSENT_ACCESS_CAUSE = n ∧
        (fbit t SYS_ABSENT_ACCESS SYS_ABSENT_ACCESS_WRITE = write) ∧ fget t SYS_ABSENT_ACCESS SYS_ABSENT_ACCESS_ADDR = addr ∧
        (write = false → mapGet (fun _ => 0) t.busOut (initIx i) = 0) ∧ Frame [SYS_ABSENT_ACCESS] { s with busOut := t.busOut } t)
    ∧ (∀ b n, windowOf addr = some (b, n, true) → addr % 8 = 0 → roleOf i s ≠ 0 →
      ∃ t, exec (.readOnlyWindowWrite i addr v) s = .next t ∧ Frame [] s t)

/-- A write on a path that is bound to no session does nothing at all (R453), and a write on a path bound to an OBSERVER's session
changes no register, no byte and no other part of the device: at most SYS_ABSENT_ACCESS records the access, and the device reports. -/
def Obligations.UnboundAndObserverWriteNothing : Prop :=
  ∀ (i : Initiator) (addr : Nat) (v : Word) (s : State), s.Ready → harWaiting 0x0402 s = [] →
    (roleOf i s = 0 → exec (.registerWrite i addr v) s = .next s)
    ∧ (roleOf i s = 1 → ∃ t, exec (.registerWrite i addr v) s = .next t ∧ Frame [SYS_ABSENT_ACCESS] s t)

/-- After the S9 lock an accepted write of PORTn_MODE changes ENABLE alone (R66): enabling powers the port's lanes, but in a DISABLED group, in
Rest and before the lanes are calibrated (R64, R83); disabling marks each of them to stop reception at its next boundary. A delay adjustment
inside ±10,000,000 ps takes the value written and waits for its compare tick (R75, R76). RECEPTION_STOP ends the reception of a port marked so;
a frame then partly received is cut off and counts for CODE (R66, R68). LANE_POWER_DOWN takes the power from the lanes of a port that is
disabled and has nothing planned, and the port loses its link and its receive calibration (R66). -/
def Obligations.PortEnableAndAdjust : Prop :=
  ∀ (i : Initiator) (port : Nat) (v : Word) (s : State), s.Ready → port < 8 → portLive s port = true →
    (3 ≤ roleOf i s → rwlLocked s = true → rangesOk (PORT_MODE port) v = true →
      (port % 4 = 0 → getF PORT_MODE_GROUP_MODE v = fget s (PORT_MODE port) PORT_MODE_GROUP_MODE ∧
        getF PORT_MODE_FEC25 v = fget s (PORT_MODE port) PORT_MODE_FEC25) →
      ∃ t, exec (.portModeWrite i port v) s = .next t ∧
        fget t (PORT_MODE port) PORT_MODE_ENABLE = getF PORT_MODE_ENABLE v ∧
        fget t (PORT_MODE port) PORT_MODE_GROUP_MODE = fget s (PORT_MODE port) PORT_MODE_GROUP_MODE ∧
        (fbit s (PORT_MODE port) PORT_MODE_ENABLE = true → getF PORT_MODE_ENABLE v = 0 →
          ∀ l ∈ portLanes s port, (portOf t l).stopRx = true) ∧
        (fbit s (PORT_MODE port) PORT_MODE_ENABLE = false → getF PORT_MODE_ENABLE v ≠ 0 → (groupMode s port = 0 ∨ restHalt s = true ∨ stage s < 7) →
          t.ports = s.ports) ∧
        (fbit s (PORT_MODE port) PORT_MODE_ENABLE = false → getF PORT_MODE_ENABLE v ≠ 0 → groupMode s port ≠ 0 → restHalt s = false →
          7 ≤ stage s → ∀ l ∈ portLanes s port, (portOf t l).powered = true ∧ (portOf t l).stopRx = false))
    ∧ (∀ tx : Bool, 3 ≤ roleOf i s → -10000000 ≤ sgn 32 (getF PORT_TX_DELAY_ADJ_ADJ v) → sgn 32 (getF PORT_TX_DELAY_ADJ_ADJ v) ≤ 10000000 →
      ∃ t, exec (.delayAdjWrite i port tx v) s = .next t ∧
        fget t (if tx then PORT_TX_DELAY_ADJ port else PORT_RX_DELAY_ADJ port) PORT_TX_DELAY_ADJ_ADJ = getF PORT_TX_DELAY_ADJ_ADJ v ∧
        (if tx then (portOf t port).txWait else (portOf t port).rxWait) =
          (if tx then (portOf s port).txWait else (portOf s port).rxWait) ++ [(gtNow s, sgn 32 (getF PORT_TX_DELAY_ADJ_ADJ v))] ∧
        Frame [if tx then PORT_TX_DELAY_ADJ port else PORT_RX_DELAY_ADJ port] { s with ports := t.ports } t)
    ∧ (∀ part lane tw k addr, (portOf s port).stopRx = true →
      ∃ t, exec (.receptionStop port ⟨part, lane, tw, k, addr⟩) s = .next t ∧ (∀ l ∈ portLanes s port, (portOf t l).stopRx = false) ∧
        (part = [] → Frame [] { s with ports := t.ports } t) ∧
        (part ≠ [] → fbit s (PORT_STATUS port) PORT_STATUS_RX_CAL_VALID = true →
          mapGet (fun _ => 0) s.cnt.live (EC_PORT port jRX_CODE) + 1 < 2 ^ 48 →
          mapGet (fun _ => 0) t.cnt.live (EC_PORT port jRX_CODE) = mapGet (fun _ => 0) s.cnt.live (EC_PORT port jRX_CODE) + 1))
    ∧ (fbit s (PORT_MODE port) PORT_MODE_ENABLE = false → (gateOf s port).cal = [] →
      ∃ t, exec (.lanePowerDown port) s = .next t ∧
        fbit t (PORT_STATUS port) PORT_STATUS_LINK = false ∧ fbit t (PORT_STATUS port) PORT_STATUS_RX_CAL_VALID = false ∧
        ∀ l ∈ portLanes s port, (portOf t l).powered = false ∧ (portOf t l).lost = false ∧ (portOf t l).lock = false)

/-- A transmit PLL that relocks and a RECAL write start the calibration of both sides of the lane, a receive lock gained that of its
receive side (R77): the sides are no longer calibrated and the port's flags say so. A side whose measurement is accepted is calibrated again
and its latency is shown; one that is not is measured again (R78); a side rejected for the third time sets CAL_FAILED (R79). A lock lost
clears LINK and RX_CAL_VALID, and the port signals remote fault (R81); a far-end rate beyond 200 ppm clears RX_CAL_VALID (R73). The lane's own
port takes ENABLE and a delay adjustment inside ±10,000,000 ps as written (R66, R75); its reception stops where it is to stop, and a disabled one
with nothing planned loses its power (R66). -/
def Obligations.LaneCalibration : Prop :=
  ∀ (i : Initiator) (lane : Nat) (s : State), s.Ready → laneFitted s lane = true → groupMode s lane ≠ 5 → groupMode s lane ≠ 0 →
    (portOf s lane).powered = true → restHalt s = false →
    (∃ t, exec (.txPllRelock lane) s = .next t ∧ (portOf t lane).calTx = true ∧ (portOf t lane).calRx = true ∧
        (portOf t lane).txOk = false ∧ (portOf t lane).rxOk = false ∧
        fbit t (PORT_STATUS lane) PORT_STATUS_TX_CAL_VALID = false ∧ fbit t (PORT_STATUS lane) PORT_STATUS_RX_CAL_VALID = false)
    ∧ (3 ≤ roleOf i s →
      ∃ t, exec (.portCalRecal i lane) s = .next t ∧ (portOf t lane).calTx = true ∧ (portOf t lane).calRx = true ∧
        fbit t (PORT_STATUS lane) PORT_STATUS_TX_CAL_VALID = false ∧ fbit t (PORT_STATUS lane) PORT_STATUS_RX_CAL_VALID = false)
    ∧ (∀ fault, ∃ t, exec (.rxLockGain lane fault) s = .next t ∧ fbit t (PORT_STATUS lane) PORT_STATUS_LINK = true ∧
        fbit t (PORT_STATUS lane) PORT_STATUS_REMOTE_FAULT = fault ∧ (portOf t lane).calRx = true ∧ (portOf t lane).rxOk = false ∧
        (portOf t lane).lost = false ∧ (portOf t lane).rfOut = false ∧ (portOf t lane).calTx = (portOf s lane).calTx)
    ∧ (∀ part, ∃ t, exec (.rxLockLoss lane part) s = .next t ∧ fbit t (PORT_STATUS lane) PORT_STATUS_LINK = false ∧
        fbit t (PORT_STATUS lane) PORT_STATUS_RX_CAL_VALID = false ∧ (portOf t lane).rxOk = false ∧ (portOf t lane).lost = true ∧
        (portOf t lane).rfOut = true)
    ∧ (∀ meas slip tcw am lat, (portOf s lane).calTx = true → calOk true meas = true → lat = calLat s lane true meas slip → lat < 2 ^ 32 →
      ∃ t, exec (.calSideComplete lane true ⟨meas, slip⟩ tcw am) s = .next t ∧ (portOf t lane).calTx = false ∧ (portOf t lane).txOk = true ∧
        fget t (PORT_CAL_TX lane) PORT_CAL_TX_LAT_TX = lat ∧ fbit t (PORT_STATUS lane) PORT_STATUS_TX_CAL_VALID = true)
    ∧ (∀ meas slip tcw am lat, (portOf s lane).calRx = true → (portOf s lane).lock = true → (portOf s lane).rateOut = false →
      calOk false meas = true → lat = calLat s lane false meas slip → lat < 2 ^ 32 →
      ∃ t, exec (.calSideComplete lane false ⟨meas, slip⟩ tcw am) s = .next t ∧ (portOf t lane).calRx = false ∧ (portOf t lane).rxOk = true ∧
        fget t (PORT_CAL_RX lane) PORT_CAL_RX_LAT_RX = lat ∧ fbit t (PORT_STATUS lane) PORT_STATUS_RX_CAL_VALID = true)
    ∧ (∀ (tx : Bool) meas slip tcw am, calRuns s lane tx = true → calOk tx meas = false →
      (if tx then (portOf s lane).txRej else (portOf s lane).rxRej) < 2 →
      ∃ t, exec (.calSideComplete lane tx ⟨meas, slip⟩ tcw am) s = .next t ∧ calRuns t lane tx = true ∧
        (if tx then (portOf t lane).txRej else (portOf t lane).rxRej) = (if tx then (portOf s lane).txRej else (portOf s lane).rxRej) + 1 ∧
        Frame [] { s with ports := t.ports } t)
    ∧ (∀ tx : Bool, calRuns s lane tx = true → (tx = true → atStage 7 s = false) →
      ∃ t, exec (.calSideFail lane tx) s = .next t ∧ fbit t (PORT_STATUS lane) PORT_STATUS_CAL_FAILED = true ∧
        (if tx then (portOf t lane).calTx else (portOf t lane).calRx) = false)
    ∧ (∀ rate : Int, 200000 < rate.natAbs →
      ∃ t, exec (.rxRateExcursion lane rate) s = .next t ∧ fbit t (PORT_STATUS lane) PORT_STATUS_RX_CAL_VALID = false ∧
        (portOf t lane).rateOut = true ∧ (portOf t lane).rxOk = false)
    ∧ (∀ v, 3 ≤ roleOf i s → rwlLocked s = true → getF PORT_MODE_GROUP_MODE v = fget s (PORT_MODE lane) PORT_MODE_GROUP_MODE →
      getF PORT_MODE_FEC25 v = fget s (PORT_MODE lane) PORT_MODE_FEC25 →
      ∃ t, exec (.portModeWrite i lane v) s = .next t ∧ fget t (PORT_MODE lane) PORT_MODE_ENABLE = getF PORT_MODE_ENABLE v)
    ∧ (∀ (tx : Bool) v, 3 ≤ roleOf i s → -10000000 ≤ sgn 32 (getF PORT_TX_DELAY_ADJ_ADJ v) → sgn 32 (getF PORT_TX_DELAY_ADJ_ADJ v) ≤ 10000000 →
      ∃ t, exec (.delayAdjWrite i lane tx v) s = .next t ∧
        fget t (if tx then PORT_TX_DELAY_ADJ lane else PORT_RX_DELAY_ADJ lane) PORT_TX_DELAY_ADJ_ADJ = getF PORT_TX_DELAY_ADJ_ADJ v)
    ∧ (∀ part, (portOf s lane).stopRx = true →
      ∃ t, exec (.receptionStop lane part) s = .next t ∧ (portOf t lane).stopRx = false)
    ∧ (fbit s (PORT_MODE lane) PORT_MODE_ENABLE = false → (gateOf s lane).cal = [] →
      ∃ t, exec (.lanePowerDown lane) s = .next t ∧ (portOf t lane).powered = false)

/-- A whole frame without error that the port's address filter accepts, on an enabled port (or one whose reception has not stopped yet, R66) that is calibrated and stays so at the
rate met with the frame (R73), with room in the frame buffer and in
the queue of its class (R33, R67, R68, R90): its bytes lie in the frame buffer and one descriptor joins the tail of that queue, marked as older
than a set edge that its ingress stamp lies before (R50). On a port that is not calibrated nothing is delivered. -/
def Obligations.ReceivedFrameIsQueued : Prop :=
  ∀ (port lane tw k fecSym fecUe addr : Nat) (rate : Int) (bytes : List Byte) (s : State), s.Ready → portLive s port = true →
    groupMode s port ≠ 0 → (fbit s (PORT_MODE port) PORT_MODE_ENABLE = true ∨ (portOf s port).stopRx = true) → fbit s (PORT_STATUS port) PORT_STATUS_LINK = true →
    resting s = false →
    (fbit s (PORT_STATUS port) PORT_STATUS_RX_CAL_VALID = true → rate.natAbs ≤ 200000 → (portOf s port).rateOut = false → 64 ≤ bytes.length →
      bytes.length ≤ fget s (PORT_MAC_CTL port) PORT_MAC_CTL_MAX_FRAME →
      fcsOf (bytes.take (bytes.length - 4)) = bytes.drop (bytes.length - 4) → (etherOf bytes).2.2 ≠ 2 → (etherOf bytes).1 ≠ 0x8808 →
      macAccepts s port (bytes.take (bytes.length - 4)) = true → frameFits s addr bytes.length = true →
      (queueOf s (4 * port + classOf bytes (etherOf bytes).1 (etherOf bytes).2.1 (l4Of bytes (etherOf bytes).1 (etherOf bytes).2.1))).length < 256 →
      ∃ t d ts, exec (.frameReceive port bytes false lane tw k rate fecSym fecUe addr) s = .next t ∧
        queueOf t (4 * port + classOf bytes (etherOf bytes).1 (etherOf bytes).2.1 (l4Of bytes (etherOf bytes).1 (etherOf bytes).2.1)) =
          queueOf s (4 * port + classOf bytes (etherOf bytes).1 (etherOf bytes).2.1 (l4Of bytes (etherOf bytes).1 (etherOf bytes).2.1)) ++
            [(d, gtNow s, fbit s TSU_STATE TSU_STATE_STATE && decide (ts < s.tsu.setAt))] ∧
        leAt d 0 8 = gtSec ts ∧ leAt d 8 8 = gtSub ts ∧
        ldBytes t (frameBase + addr) bytes.length = bytes)
    ∧ (∀ code, fbit s (PORT_STATUS port) PORT_STATUS_RX_CAL_VALID = false →
      ∃ t, exec (.frameReceive port bytes code lane tw k rate fecSym fecUe addr) s = .next t ∧ t.pe = s.pe ∧
        Frame [PORT_STATUS port] { s with ports := t.ports } t)

/-- Rest is entered once planned frames have left and no run is left (R82, R83); a frame with the wake pattern for the management port's
address starts the exit with cause 1 (R84, R85); the exit ends, once no self-test of a big-number unit runs, in phase SERVING (R85). -/
def Obligations.RestCompletes : Prop :=
  ∀ (bytes : List Byte) (s : State), s.Ready →
    (s.start.rest = 1 → (∀ p, p < 8 → (gateOf s p).cal = []) → running s = 0 →
      ∃ t, exec .restEntryComplete s = .next t ∧ phase t = 5 ∧ t.start.rest = 0 ∧ fbit t HOST_REST_STATUS HOST_REST_STATUS_REST = true)
    ∧ (phase s = 5 → s.start.rest = 0 → fbit s HOST_WAKE_CTL HOST_WAKE_CTL_EN = true → fbit s HOST_WAKE_CTL HOST_WAKE_CTL_CODE_REQ = false →
      18 ≤ bytes.length → fcsOf (bytes.take (bytes.length - 4)) = bytes.drop (bytes.length - 4) → beAt bytes 0 6 = mgmtMac s →
      hasPart (List.replicate 6 (0xFF : Byte) ++ (List.replicate 16 (beBytes 6 (mgmtMac s))).flatten)
        (((bytes.take (bytes.length - 4)).drop 14).take 256) = true →
      ∃ t, exec (.wakeFrame bytes) s = .next t ∧ t.start.rest = 3 ∧ fget t HOST_REST_STATUS HOST_REST_STATUS_LAST_CAUSE = 1)
    ∧ (s.start.rest = 3 → (∀ n, n < 8 → (bnuOf s n).test = false) →
      ∃ t, exec .restExitComplete s = .next t ∧ phase t = 3 ∧ t.start.rest = 0 ∧ fbit t HOST_REST_STATUS HOST_REST_STATUS_REST = false)

/-- NOP, IMM, LOAD, SETA, ALU and TESTB (R126, R127, R129 to R131): the context's registers, flags and anchors take what the Pitch
says, its results are then complete (R98), and nothing but the context changes. -/
def Obligations.PitchRegisterOps : Prop :=
  ∀ (e c p : Nat) (s : State), s.Ready →
    (Issues s e c 0x00 p → ∃ t, exec (.nop e c) s = .next t ∧ OnlyCtx (4 * e + c) s t ∧
      ctxOf t (4 * e + c) = { stepped s (4 * e + c) with done := true, flags := (ctxOf t (4 * e + c)).flags } ∧
      ∀ j, (ctxOf t (4 * e + c)).flags.testBit j =
        ((ctxOf s (4 * e + c)).flags.testBit j && !(decide (8 ≤ j) && decide (j ≤ 12) && p.testBit (56 + j))))
    ∧ (Issues s e c 0x01 p → ∃ t, exec (.imm e c) s = .next t ∧ OnlyCtx (4 * e + c) s t ∧
      ctxOf t (4 * e + c) = { stepped s (4 * e + c) with done := true, w := (ctxOf s (4 * e + c)).w.set (pWd p) (pImm p) })
    ∧ (∀ r n, Issues s e c 0x02 p → refOf (ctxOf s (4 * e + c)) (pAnc1 p) (pOff1 p) = some r →
      n = fieldBytes (pf p 64 3) (pf p 67 6 + 1) →
      ∃ t, exec (.load e c) s = .next t ∧ OnlyCtx (4 * e + c) s t ∧
        (ctxOf t (4 * e + c)).w = (ctxOf s (4 * e + c)).w.set (pWd p)
          (fieldGet (r.reg = .desc) (refRead (4 * e + c) (ctxOf s (4 * e + c)) s r n) (pf p 64 3) (pf p 67 6 + 1)) ∧
        (ctxOf t (4 * e + c)).flags.testBit fOOB =
          ((ctxOf s (4 * e + c)).flags.testBit fOOB || !refFits (ctxOf s (4 * e + c)) r n) ∧
        ((ctxOf t (4 * e + c)).flags.testBit fZ = true ↔
          fieldGet (r.reg = .desc) (refRead (4 * e + c) (ctxOf s (4 * e + c)) s r n) (pf p 64 3) (pf p 67 6 + 1) = 0))
    ∧ (∀ g b, Issues s e c 0x05 p → anchorOf (ctxOf s (4 * e + c)) (pAnc1 p) = some (g, b) → g ≠ .desc → pf p 64 2 ≠ 0 →
      pb p 66 = false → 0 ≤ (b : Int) + pOff1 p → (b : Int) + pOff1 p ≤ extentOf (ctxOf s (4 * e + c)) g →
      ∃ t, exec (.seta e c) s = .next t ∧ OnlyCtx (4 * e + c) s t ∧
        ctxOf t (4 * e + c) = { stepped s (4 * e + c) with
          done := true
          anch := (ctxOf s (4 * e + c)).anch.set (pf p 64 2 - 1) (decide (g = .build), ((b : Int) + pOff1 p).toNat) })
    ∧ (∀ o, Issues s e c 0x08 p →
      aluOp (pf p 64 4) (pb p 69) (pf p 70 2) (wOf (ctxOf s (4 * e + c)) (pWa p))
        (if pb p 68 then pImm p else wOf (ctxOf s (4 * e + c)) (pWb p)) = some o →
      ∃ t, exec (.alu e c) s = .next t ∧ OnlyCtx (4 * e + c) s t ∧
        (ctxOf t (4 * e + c)).w = (match o.r with
          | some r => (ctxOf s (4 * e + c)).w.set (pWd p) (r % 2 ^ 64)
          | none => (ctxOf s (4 * e + c)).w) ∧
        (ctxOf t (4 * e + c)).flags.testBit fZ = o.z ∧ (ctxOf t (4 * e + c)).flags.testBit fC = o.c ∧
        (ctxOf t (4 * e + c)).flags.testBit fLT = o.lt ∧
        ∀ j, 3 ≤ j → (ctxOf t (4 * e + c)).flags.testBit j = (ctxOf s (4 * e + c)).flags.testBit j)
    ∧ (Issues s e c 0x09 p → ∃ t, exec (.testb e c) s = .next t ∧ OnlyCtx (4 * e + c) s t ∧
      (ctxOf t (4 * e + c)).w = (ctxOf s (4 * e + c)).w ∧
      ((ctxOf t (4 * e + c)).flags.testBit fBIT = true ↔
        if pb p 64 then wOf (ctxOf s (4 * e + c)) (pWa p) &&& pImm p = pImm p
        else wOf (ctxOf s (4 * e + c)) (pWa p) &&& pImm p ≠ 0) ∧
      ∀ j, j ≠ fBIT → (ctxOf t (4 * e + c)).flags.testBit j = (ctxOf s (4 * e + c)).flags.testBit j)

/-- ADD and SUB wrap modulo 2^64 with C the carry and the borrow, CMP writes no register, AND is bitwise, a left shift by 64 or more
gives zero, and a sub-operation above 10 is no operation (R130). -/
def Obligations.AluOperations : Prop :=
  ∀ (sg : Bool) (bw : Nat) (a b : BitVec 64),
    aluOp 0 sg bw a.toNat b.toNat = some ⟨some (a + b).toNat, decide (a + b = 0), decide (2 ^ 64 ≤ a.toNat + b.toNat),
      if sg then a.slt b else a.ult b⟩
    ∧ aluOp 1 sg bw a.toNat b.toNat = some ⟨some (a - b).toNat, decide (a = b), a.ult b, if sg then a.slt b else a.ult b⟩
    ∧ aluOp 2 sg bw a.toNat b.toNat = some ⟨some (a &&& b).toNat, decide (a &&& b = 0), false, false⟩
    ∧ (64 ≤ b.toNat % 256 → (aluOp 5 sg bw a.toNat b.toNat).bind (·.r) = some 0)
    ∧ aluOp 7 sg bw a.toNat b.toNat = some ⟨none, decide (a = b), a.ult b, if sg then a.slt b else a.ult b⟩
    ∧ ∀ sub, 10 < sub → aluOp sub sg bw a.toNat b.toNat = none

/-- STORE, COPY, CSUM and SEAL (R127, R128, R144, R146) with a destination that lies wholly in the build buffer: its bytes are the
field, the source's bytes, and the CMAC; CSUM puts the folded sum into its register. The results are then complete. -/
def Obligations.PitchMemoryOps : Prop :=
  ∀ (e c p : Nat) (s : State), s.Ready →
    (∀ r n, Issues s e c 0x03 p → refOf (ctxOf s (4 * e + c)) (pAnc1 p) (pOff1 p) = some r → r.reg = .build →
      n = fieldBytes (pf p 64 3) (pf p 67 6 + 1) → refFits (ctxOf s (4 * e + c)) r n = true →
      ∃ t, exec (.store e c) s = .next t ∧ (ctxOf t (4 * e + c)).done = true ∧
        (ctxOf t (4 * e + c)).w = (ctxOf s (4 * e + c)).w ∧
        ldBytes t (buildBase (4 * e + c) + r.ea.toNat) n =
          fieldPut (ldBytes s (buildBase (4 * e + c) + r.ea.toNat) n) (pf p 64 3) (pf p 67 6 + 1)
            (if pb p 73 then pImm p else wOf (ctxOf s (4 * e + c)) (pWa p)))
    ∧ (∀ d r n, Issues s e c 0x04 p → refOf (ctxOf s (4 * e + c)) (pAnc1 p) (pOff1 p) = some d →
      refOf (ctxOf s (4 * e + c)) (pAnc2 p) (pOff2 p) = some r → n = lenOf (ctxOf s (4 * e + c)) (pLen p) → n ≤ 1024 →
      d.reg = .build → refFits (ctxOf s (4 * e + c)) d n = true → refFits (ctxOf s (4 * e + c)) r n = true →
      ∃ t, exec (.copy e c) s = .next t ∧ (ctxOf t (4 * e + c)).done = true ∧
        (ctxOf t (4 * e + c)).flags = (ctxOf s (4 * e + c)).flags ∧
        (0 < n → ldBytes t (buildBase (4 * e + c) + d.ea.toNat) n = refRead (4 * e + c) (ctxOf s (4 * e + c)) s r n))
    ∧ (∀ r n, Issues s e c 0x15 p → pf p 64 2 = 0 → refOf (ctxOf s (4 * e + c)) (pAnc1 p) (pOff1 p) = some r →
      n = lenOf (ctxOf s (4 * e + c)) (pLen p) →
      ∃ t, exec (.csum e c) s = .next t ∧ OnlyCtx (4 * e + c) s t ∧ (ctxOf t (4 * e + c)).done = true ∧
        ∀ x, x = onesSum (refRead (4 * e + c) (ctxOf s (4 * e + c)) s r n) (wOf (ctxOf s (4 * e + c)) (pWd p) % 65536) →
          (ctxOf t (4 * e + c)).w = (ctxOf s (4 * e + c)).w.set (pWd p)
            ((x % 65536 + x / 65536) % 65536 + (x % 65536 + x / 65536) / 65536))
    ∧ (∀ r o n k, Issues s e c 0x14 p → pf p 64 2 = 2 → pb p 74 = false → pf p 66 7 ≠ 0x7E →
      refOf (ctxOf s (4 * e + c)) (pAnc1 p) (pOff1 p) = some r → refOf (ctxOf s (4 * e + c)) (pAnc2 p) (pOff2 p) = some o →
      n = lenOf (ctxOf s (4 * e + c)) (pLen p) → sealKey s (ctxOf s (4 * e + c)) (pf p 66 7) (pWb p) false = some (some k) →
      refFits (ctxOf s (4 * e + c)) r n = true → refFits (ctxOf s (4 * e + c)) o 16 = true → o.reg = .build →
      ∃ t, exec (.seal e c) s = .next t ∧ (ctxOf t (4 * e + c)).done = true ∧
        ldBytes t (buildBase (4 * e + c) + o.ea.toNat)
            (cmac (k.key.take 32) (refRead (4 * e + c) (ctxOf s (4 * e + c)) s r n)).length =
          cmac (k.key.take 32) (refRead (4 * e + c) (ctxOf s (4 * e + c)) s r n))

/-- LOOKUP, SKETCH, COUNT, STAMP, SLOT and QUALITY (R132, R133, R136 to R141): the table's result words with HIT; the least counter of
the key and its increments; the counter; the gate's local time now with Z while the TSU is not set; a slot booked for the context, or LATE;
the bound. -/
def Obligations.PitchTablesAndTime : Prop :=
  ∀ (e c p : Nat) (s : State), s.Ready →
    (∀ key, Issues s e c 0x0C p → keyOf (ctxOf s (4 * e + c)) (pb p 70) (pWa p) = some key →
      ∃ t, exec (.lookup e c) s = .next t ∧ OnlyCtx (4 * e + c) s t ∧ (ctxOf t (4 * e + c)).done = true ∧
        (ctxOf t (4 * e + c)).w = (wSetRun (pWd p)
          (tblLookup s (pf p 64 6) ((ctxOf s (4 * e + c)).gen / 2 ^ pf p 64 6 % 2) key).2 (ctxOf s (4 * e + c))).w ∧
        (ctxOf t (4 * e + c)).flags.testBit fHIT =
          (tblLookup s (pf p 64 6) ((ctxOf s (4 * e + c)).gen / 2 ^ pf p 64 6 % 2) key).1)
    ∧ (∀ key, Issues s e c 0x0D p → keyOf (ctxOf s (4 * e + c)) (pb p 64) (pWa p) = some key → pb p 65 = false →
      0 < pImm p % 65536 →
      ∃ t, exec (.sketch e c) s = .next t ∧ (ctxOf t (4 * e + c)).done = true ∧
        (∀ k ∈ sketchKeys s key, mapGet (fun _ => 0) t.svc.sketch k =
          min (mapGet (fun _ => 0) s.svc.sketch k + pImm p % 65536) 65535) ∧
        (ctxOf t (4 * e + c)).w = (ctxOf s (4 * e + c)).w.set (pWd p)
          (((sketchKeys s key).map (fun k => mapGet (fun _ => 0) s.svc.sketch k + pImm p % 65536)).foldl min 65535))
    ∧ (∀ n, Issues s e c 0x0E p → n = (if pb p 72 then wOf (ctxOf s (4 * e + c)) (pWa p) else pImm p) % 2 ^ 32 → 0 < n →
      mapGet (fun _ => 0) s.cnt.live (EC_TC (pf p 64 8)) + n < 2 ^ 48 →
      ∃ t, exec (.count e c) s = .next t ∧ ctxOf t (4 * e + c) = { stepped s (4 * e + c) with done := true } ∧
        mapGet (fun _ => 0) t.cnt.live (EC_TC (pf p 64 8)) = mapGet (fun _ => 0) s.cnt.live (EC_TC (pf p 64 8)) + n ∧
        Frame [] { s with pe := t.pe } t)
    ∧ (Issues s e c 0x10 p → pf p 64 2 = 2 → pf p 66 2 = 0 → pb p 69 = true → pWd p ≠ 15 →
      ∃ t, exec (.stamp e c) s = .next t ∧ OnlyCtx (4 * e + c) s t ∧
        (ctxOf t (4 * e + c)).w =
          ((ctxOf s (4 * e + c)).w.set (pWd p) (gtSec (localNow s 8) % 2 ^ 64)).set (pWd p + 1)
            (gtSub (localNow s 8) % 2 ^ 64) ∧
        (ctxOf t (4 * e + c)).flags.testBit fZ = !fbit s TSU_STATE TSU_STATE_STATE)
    ∧ (∀ port, Issues s e c 0x11 p → portSel s (ctxOf s (4 * e + c)) (pf p 64 4) = some port → (ctxOf s (4 * e + c)).slot = none →
      ∃ t, exec (.slot e c) s = .next t ∧ (ctxOf t (4 * e + c)).done = true ∧
        (((ctxOf t (4 * e + c)).slot = none ∧ (ctxOf t (4 * e + c)).flags.testBit fLATE = true)
          ∨ ∃ q b, (ctxOf t (4 * e + c)).slot = some (port, q) ∧ b ∈ (gateOf t port).cal ∧ b.q = q ∧ b.ctx = 4 * e + c ∧
              b.st = 0 ∧ b.cause = 0 ∧ (ctxOf t (4 * e + c)).flags = (ctxOf s (4 * e + c)).flags))
    ∧ (Issues s e c 0x12 p → pf p 64 2 = 2 →
      ∃ t, exec (.quality e c) s = .next t ∧ OnlyCtx (4 * e + c) s t ∧
        (ctxOf t (4 * e + c)).w = (ctxOf s (4 * e + c)).w.set (pWd p) (boundNs s % 2 ^ 64))

/-- EMIT, RELAY, PUNT, DROP and TRAP end the run and free its context (R99, R147 to R151): the frame is with the gate for the held slot,
waits in the port's free queue, or joins the punt ring; TRAP halts instead where PE_DEBUG says so (R117). CALL, RET and SUCCESSOR go
on where the Pitch says (R98, R100, R152). -/
def Obligations.PitchDispositions : Prop :=
  ∀ (e c p : Nat) (s : State), s.Ready →
    (∀ port q b l, Issues s e c 0x18 p → pb p 64 = false → pb p 65 = false → (ctxOf s (4 * e + c)).slot = some (port, q) →
      l = (if lenOf (ctxOf s (4 * e + c)) (pLen p) ≠ 0 then lenOf (ctxOf s (4 * e + c)) (pLen p) else (ctxOf s (4 * e + c)).blen) →
      0 < l → l ≤ b.len → l ≤ 2048 → (gateOf s port).cal.find? (heldBy (4 * e + c) q) = some b → b.st = 0 → b.cause = 0 → port < 8 →
      gtNow s ≤ b.t - ns32 b.setup → inHold s 8 = false → inHold s port = false → (ctxOf s (4 * e + c)).old = false →
      (∀ pt, descFrom (ctxOf s (4 * e + c)).desc = some pt → inHold s pt = false) →
      oversize s port (macSrc s port (pb p 71) (ldBytes s (buildBase (4 * e + c)) l)).length = false →
      ∃ t, exec (.emit e c) s = .next t ∧ ctxOf t (4 * e + c) = ctxReset 0 ∧
        ∃ b' f, b' ∈ (gateOf t port).cal ∧ b'.q = b.q ∧ b'.t = b.t ∧ b'.st = 1 ∧ b'.frame = some f ∧
          f.bytes = macSrc s port (pb p 71) (ldBytes s (buildBase (4 * e + c)) l))
    ∧ (∀ port, Issues s e c 0x19 p → pb p 65 = false → portSel s (ctxOf s (4 * e + c)) (pf p 66 4) = some port →
      (ctxOf s (4 * e + c)).slot = none → portLive s port = true → fbit s (PORT_MODE port) PORT_MODE_ENABLE = true → resting s = false →
      (ctxOf s (4 * e + c)).old = false →
      oversize s port (macSrc s port (pb p 71) (runFrame (ctxOf s (4 * e + c)) s)).length = false →
      (gateOf s port).free.countP (fun x => x.1 = gateClass (ctxOf s (4 * e + c)).desc) < 64 →
      ∃ t f, exec (.relay e c) s = .next t ∧ ctxOf t (4 * e + c) = ctxReset 0 ∧
        (gateOf t port).free = (gateOf s port).free ++ [(gateClass (ctxOf s (4 * e + c)).desc, f, gtNow s)] ∧
        f.bytes = macSrc s port (pb p 71) (runFrame (ctxOf s (4 * e + c)) s))
    ∧ (Issues s e c 0x1A p → pf p 64 4 ≤ 8 → (puntsOf s (pf p 64 4)).length < Config.puntCapacity (pf p 64 4) →
      ∃ t x, exec (.punt e c) s = .next t ∧ ctxOf t (4 * e + c) = ctxReset 0 ∧
        puntsOf t (pf p 64 4) = puntsOf s (pf p 64 4) ++ [x] ∧ x.frame = runFrame (ctxOf s (4 * e + c)) s ∧
        x.desc = (ctxOf s (4 * e + c)).desc ∧ x.tag = pImm p % 65536 ∧ x.w0 = wOf (ctxOf s (4 * e + c)) 0)
    ∧ (Issues s e c 0x1B p → ∃ t, exec (.drop e c) s = .next t ∧ ctxOf t (4 * e + c) = ctxReset 0)
    ∧ (Issues s e c 0x1C p → pCond p = 0 → (ctxOf s (4 * e + c)).stack.length < 4 → pNextT p < 0x8000 →
      (ctxOf s (4 * e + c)).steps + 1 < (ctxOf s (4 * e + c)).limit →
      ∃ t, exec (.call e c) s = .next t ∧ OnlyCtx (4 * e + c) s t ∧
        ctxOf t (4 * e + c) = { stepped s (4 * e + c) with pc := pNextT p, stack := (ctxOf s (4 * e + c)).stack ++ [pNextF p], done := false })
    ∧ (∀ r, Issues s e c 0x1D p → (ctxOf s (4 * e + c)).stack.getLast? = some r → r < 0x8000 →
      (ctxOf s (4 * e + c)).steps + 1 < (ctxOf s (4 * e + c)).limit →
      ∃ t, exec (.ret e c) s = .next t ∧ OnlyCtx (4 * e + c) s t ∧
        ctxOf t (4 * e + c) = { stepped s (4 * e + c) with pc := r, stack := (ctxOf s (4 * e + c)).stack.dropLast, done := false })
    ∧ (Issues s e c 0x1F p → ∃ t, exec (.trap e c) s = .next t ∧
        (fbit s PE_DEBUG PE_DEBUG_TRAP_HALT = true → (ctxOf t (4 * e + c)).st = 4) ∧
        (fbit s PE_DEBUG PE_DEBUG_TRAP_HALT = false → ctxOf t (4 * e + c) = ctxReset 0))
    ∧ (∀ n, (ctxOf s (4 * e + c)).st = 2 → (ctxOf s (4 * e + c)).done = true →
      pitchAt s (ctxOf s (4 * e + c)).bank (ctxOf s (4 * e + c)).pc = p →
      n = (if condHolds (pCond p) (ctxOf s (4 * e + c)).flags then pNextT p else pNextF p) → n < 0x8000 →
      (ctxOf s (4 * e + c)).steps < (ctxOf s (4 * e + c)).limit →
      ∃ t, exec (.successor e c) s = .next t ∧ OnlyCtx (4 * e + c) s t ∧
        ctxOf t (4 * e + c) = { ctxOf s (4 * e + c) with pc := n, done := false })

/-- DISPATCH gives the head of the queue that is served next to a free context of the engine with the most (R90, R91): READY at its
Trailhead, with the active bank, and no longer queued. Where the active bank holds the stock Topo the run is carried out with it (log entry
169, DESIGN CHOICE): a frame its tests refuse is dropped and counted under their reason (R103, R178); an NTP request within its rate, without
extension fields, to a synchronised device leaves by EMIT LAUNCH with the header of R181 for the slot granted, counted in TC0, and one
without a slot is dropped as SLOT_REFUSED. INJECTION queues a frame at Trailhead 8 (R90). A snapshot that was asked for by
PE_CTX_SNAP.GO is taken at once where the selected context is free, parked or halted, else at its next boundary: the context is copied
into the PE_CTX registers (R116); RESUME ends the run of a halted context (R117). -/
def Obligations.DispatchAndInjection : Prop :=
  ∀ (i : Initiator) (s : State), s.Ready →
    (∀ cls q e c d ti old rest, fget s SYS_START_STATUS SYS_START_STATUS_STAGE = 9 → phase s ≠ 5 → s.pe.inj = [] → puntsTaken s = s →
      s.pe.stock.testBit (fget s TOPO_BANK TOPO_BANK_ACTIVE) = false →
      pickQueue s = some (cls, q) → pickEngine s = some e → queueOf s q = (d, ti, old) :: rest →
      (List.range 4).find? (fun k => (ctxOf s (4 * e + k)).st = 0) = some c →
      ∃ t, exec .dispatch s = .next t ∧ queueOf t q = rest ∧ (ctxOf t (4 * e + c)).st = 2 ∧
        (ctxOf t (4 * e + c)).bank = fget s TOPO_BANK TOPO_BANK_ACTIVE ∧ (ctxOf t (4 * e + c)).gen = (rd s TOPO_TBL_GEN).toNat ∧
        (ctxOf t (4 * e + c)).w = List.replicate 16 0 ∧ (ctxOf t (4 * e + c)).stack = [] ∧
        (ctxOf t (4 * e + c)).limit = fget s PE_STEP_LIMIT PE_STEP_LIMIT_LIMIT)
    ∧ (∀ cls q ec a c x, puntsTaken s = s → s.pe.stock.testBit (fget s TOPO_BANK TOPO_BANK_ACTIVE) = true →
      dispatchPlan s = some (cls, q, ec) → queueOf s q ≠ [] → a = dispatchTo cls q ec s → c = ctxOf a ec → leAt c.desc 23 1 % 16 < 8 →
      x = Punt.mk c.desc (runFrame c a) 0 0 [] c.old → stockMeet c x a = (false, a) →
      (∀ r, stockAct a x = .drop r → r < 256 → mapGet (fun _ => 0) a.cnt.live (EC_DROP_RSN r) + 1 < 2 ^ 48 →
        ∃ t, exec .dispatch s = .next t ∧ ctxOf t ec = ctxReset 0 ∧
          mapGet (fun _ => 0) t.cnt.live (EC_DROP_RSN r) = mapGet (fun _ => 0) a.cnt.live (EC_DROP_RSN r) + 1)
      ∧ (∀ w k r, stockAct a x = .ntp → svcLook a x false (decide (stockType x = 0x86DD)) (puntDst x) = some w → udpLen x = 56 →
        k = sketchAdd (sketchKey x false) 1 false a → k.1 ≤ svcThresh w → ntpUnsync k.2 (w % 8) = false →
        r = stockSlot ec (ntpFrame k.2 x (ntpHead k.2 x w 0)).length c k.2 →
        (∀ at' c', r.1 = some (at', c') → exec .dispatch s = .next
          (emitRun ec (puntPort x) false (ntpFrame k.2 x (ntpHead k.2 x w at')) none c' (topoCount 0 r.2)))
        ∧ (r.1 = none → exec .dispatch s = .next (topoDrop ec 0x1D r.2))))
    ∧ (∀ x w u, (slice x.frame (ntpOff x + 40) 8).length = 8 → (ntpHead s x w u).length = 48 ∧
      slice (ntpHead s x w u) 24 8 = slice x.frame (ntpOff x + 40) 8 ∧ slice (ntpHead s x w u) 40 8 = beBytes 8 (ntp64 s (w.testBit 9) u))
    ∧ (∀ port tag addr bytes, injectFits s 8 addr bytes.length = true →
      ∃ t d, exec (.injection port tag addr bytes) s = .next t ∧ queueOf t 32 = queueOf s 32 ++ [(d, gtNow s, false)] ∧
        ldBytes t (frameBase + addr) bytes.length = bytes ∧ leAt d 40 8 = tag.toNat)
    ∧ (3 ≤ roleOf i s → [0, 3, 4].contains (ctxShown (ctxOf s (selCtx s))) = false →
      ∃ t, exec (.peCtxSnapGo i) s = .next t ∧ t.pe = { s.pe with snapWait := some (selCtx s) } ∧
        fbit t PE_CTX_SNAP PE_CTX_SNAP_DONE = false ∧ Frame [PE_CTX_SNAP] { s with pe := t.pe } t)
    ∧ (3 ≤ roleOf i s → [0, 3, 4].contains (ctxShown (ctxOf s (selCtx s))) = true →
      ∃ t, exec (.peCtxSnapGo i) s = .next t ∧ t.pe = { s.pe with snapWait := none } ∧ fbit t PE_CTX_SNAP PE_CTX_SNAP_DONE = true ∧
        fget t PE_CTX_STATE PE_CTX_STATE_STATE = ctxShown (ctxOf s (selCtx s)) % 8 ∧
        (∀ k, k < 16 → rd t (PE_CTX_W k) = BitVec.ofNat 64 (wOf (ctxOf s (selCtx s)) k)))
    ∧ (∀ ec, s.pe.snapWait = some ec → harWaiting 0x0307 s = [] →
      ∃ t, exec .ctxSnapshotTaken s = .next t ∧ t.pe = { s.pe with snapWait := none } ∧
        fbit t PE_CTX_SNAP PE_CTX_SNAP_DONE = true ∧
        fget t PE_CTX_STATE PE_CTX_STATE_STATE = ctxShown (ctxOf s ec) % 8 ∧
        (∀ k, k < 16 → rd t (PE_CTX_W k) = BitVec.ofNat 64 (wOf (ctxOf s ec) k)))
    ∧ (3 ≤ roleOf i s → (ctxOf s (selCtx s)).st = 4 →
      ∃ t, exec (.peCtxSnapResume i) s = .next t ∧ ctxOf t (selCtx s) = ctxReset 0)

/-- The fourth word of a Pitch, with the three before it staged by the same initiator, writes the whole Pitch into a bank that is not
closed, which is then not REPAIRABLE (R113, R115); a word of the table store that no closed copy uses takes the value written and no
other byte of a window changes (R110); a copy's CFG is stored where it is valid (R109); an uncorrectable Pitch of a REPAIRABLE bank is
rewritten from the copy (R115). -/
def Obligations.TopoMemoryWrites : Prop :=
  ∀ (i : Initiator) (v : Word) (s : State), s.Ready →
    (∀ bank idx w0 w1 w2, 2 ≤ roleOf i s → bank < 2 → idx < 32768 → bankClosed s bank = false →
      (∀ k x, (k, x) ∈ [(0, w0), (1, w1), (2, w2)] →
        ((stageOf s i).find? (fun y => y.1 = bank * 32768 + idx ∧ y.2.1 = k)).map (fun y => y.2.2) = some x) →
      ∃ t, exec (.topoWindowWrite i (bank * 0x100000 + idx * 0x20 + 0x18) v) s = .next t ∧
        ldBytes t (pitchAddr bank idx) 32 = leBytes 8 w0 ++ leBytes 8 w1 ++ leBytes 8 w2 ++ leBytes 8 v.toNat ∧
        fbit t TOPO_BANK (if bank = 0 then TOPO_BANK_REPAIRABLE0 else TOPO_BANK_REPAIRABLE1) = false)
    ∧ (∀ off, 2 ≤ roleOf i s → off < 0x1800000 → off % 8 = 0 → storeClosed s off 8 = false →
      ∃ t, exec (.tableStoreWrite i off v) s = .next t ∧ ldW t (0x20000000 + off) = v ∧
        (∀ a, (a < 0x20000000 + off ∨ 0x20000000 + off + 8 ≤ a) → ldB t a = ldB s a))
    ∧ (∀ n g, 3 ≤ roleOf i s → n < 64 → g < 2 → tblClosed s n g = false →
      ∃ t, exec (.topoTblCfgWrite i n g v) s = .next t ∧
        (tblValid (tblCopy t n g) = true ∨ fget t (TOPO_TBL_CFG n g) TOPO_TBL_CFG_TYPE = 0) ∧
        fget t (TOPO_TBL_CFG n g) TOPO_TBL_CFG_KEY_BITS = getF TOPO_TBL_CFG_KEY_BITS v ∧
        fget t (TOPO_TBL_CFG n g) TOPO_TBL_CFG_SEED = getF TOPO_TBL_CFG_SEED v ∧
        Frame [TOPO_TBL_CFG n g, TOPO_TBL_STATUS] { s with pe := t.pe } t)
    ∧ (∀ bank idx, bank < 2 → idx < 32768 →
      fbit s TOPO_BANK (if bank = 0 then TOPO_BANK_REPAIRABLE0 else TOPO_BANK_REPAIRABLE1) = true →
      (eccSpan (pitchAddr bank idx) 32).any (fun w => match eccWord w with
        | some (d, k) => eccUe (eccBad s d k) | none => false) = true → (bookPitch s bank idx).length = 32 →
      ∃ t, exec (.topoRepair bank idx) s = .next t ∧ ldBytes t (pitchAddr bank idx) 32 = bookPitch s bank idx)

/-- A swap is requested, takes place at the next dispatch boundary (the other bank is active, every run that is under way counts as one
of the old bank) and is done when the last of these has ended (R114); a flip puts the generations written in force and drains (R112). -/
def Obligations.TopoSwapsAndFlips : Prop :=
  ∀ (i : Initiator) (v : Word) (s : State), s.Ready →
    (∀ gen, 3 ≤ roleOf i s → swapBusy s gen = false →
      ∃ t, exec (.topoSwapCtlGo i gen) s = .next t ∧ t.pe = { s.pe with swapGo := true, swapGen := gen } ∧
        fbit t TOPO_BANK TOPO_BANK_SWAP_PENDING = true ∧
        fget t TOPO_BANK TOPO_BANK_ACTIVE = fget s TOPO_BANK TOPO_BANK_ACTIVE ∧ Frame [TOPO_BANK] { s with pe := t.pe } t)
    ∧ (s.pe.swapGo = true → s.pe.swapGen = false → harWaiting 0x0306 s = [] →
      ∃ t, exec .dispatchBoundary s = .next t ∧ t.pe.swapGo = false ∧
        fget t TOPO_BANK TOPO_BANK_ACTIVE = 1 - fget s TOPO_BANK TOPO_BANK_ACTIVE ∧
        fget t TOPO_BANK TOPO_BANK_DRAIN_COUNT = running s % 2 ^ TOPO_BANK_DRAIN_COUNT.width ∧
        (∀ k, (ctxOf s k).st ≠ 0 → ctxOf t k = { ctxOf s k with oldBank := true }) ∧ Frame [TOPO_BANK] { s with pe := t.pe } t)
    ∧ (fbit s TOPO_BANK TOPO_BANK_SWAP_PENDING = true → s.pe.swapGo = false → fget s TOPO_BANK TOPO_BANK_DRAIN_COUNT = 0 →
      ∃ t, exec .topoSwapDone s = .next t ∧ fbit t TOPO_BANK TOPO_BANK_SWAP_PENDING = false ∧
        t.pe = { s.pe with swapGen := false } ∧ Frame [TOPO_BANK] { s with pe := t.pe } t)
    ∧ (3 ≤ roleOf i s → flipBusy s = false →
      ∃ t, exec (.topoTblGenWrite i v) s = .next t ∧ rd t TOPO_TBL_GEN = v ∧
        fbit t TOPO_TBL_STATUS TOPO_TBL_STATUS_DRAIN = true ∧ t.pe.draining = (rd s TOPO_TBL_GEN).toNat ^^^ v.toNat ∧
        (∀ k, (ctxOf s k).st ≠ 0 → ctxOf t k = { ctxOf s k with oldGen := true }) ∧
        Frame [TOPO_TBL_GEN, TOPO_TBL_STATUS] { s with pe := t.pe } t)
    ∧ (fbit s TOPO_TBL_STATUS TOPO_TBL_STATUS_DRAIN = true → fget s TOPO_TBL_STATUS TOPO_TBL_STATUS_DRAIN_COUNT = 0 →
      ∃ t, exec .topoTblFlipDone s = .next t ∧ fbit t TOPO_TBL_STATUS TOPO_TBL_STATUS_DRAIN = false ∧
        t.pe = { s.pe with draining := 0 } ∧ Frame [TOPO_TBL_STATUS] { s with pe := t.pe } t)

/-- At the setup deadline a slot with a frame is committed and one without is given up (R165, R167); at its start block the frame
leaves as planned, at the crossing it was granted (R157), but one with an uncorrectable word is withheld and counted (R465); a waiting frame is placed at the position found (R171), withheld where a point that stamped it is
in HOLD (R25, R36), or dropped at the end of its wait; a report is delivered once (R239). A write of the gate's settings inside its range takes effect and nothing else does (R164). -/
def Obligations.GateCommitsAndReleases : Prop :=
  ∀ (i : Initiator) (port q : Nat) (v : Word) (s : State), s.Ready → port < 8 →
    (∀ b f, (gateOf s port).cal.find? (fun x => x.q = q ∧ x.cause = 0 ∧ x.st < 2) = some b → b.frame = some f →
      ∃ t, exec (.setupDeadline port q) s = .next t ∧
        ∃ b' f', b' ∈ (gateOf t port).cal ∧ b'.q = q ∧ b'.st = 2 ∧ b'.t = b.t ∧ b'.frame = some f' ∧ f'.bytes.length = f.bytes.length)
    ∧ (∀ b, (gateOf s port).cal.find? (fun x => x.q = q ∧ x.cause = 0 ∧ x.st < 2) = some b → b.frame = none →
      ∃ t, exec (.setupDeadline port q) s = .next t ∧ ∃ b', b' ∈ (gateOf t port).cal ∧ b' = { b with st := 4 })
    ∧ (∀ b f, (gateOf s port).cal.find? (fun x => x.q = q ∧ x.cause = 0 ∧ (x.st = 2 ∨ x.st = 3)) = some b → b.frame = some f →
      ∃ t, exec (.startBlockEntry port q) s = .next t ∧ (gateOf t port).cal = (gateOf s port).cal.filter (fun x => x ≠ b) ∧
        ((gateMeet f s).1 = false → Out.frame port (macBytes f.bytes) b.t ∈ t.out ∧
          (f.report = true → (gateOf t port).reports = (gateOf s port).reports ++ [(f.desc, some b.t)])) ∧
        ((gateMeet f s).1 = true → (gateOf t port).reports = (gateOf s port).reports ∧
          cntAt t.cnt.live UC_ECC_TX_UE = (cntAt s.cnt.live UC_ECC_TX_UE + 1) % 2 ^ 48))
    ∧ (∀ c f ti p x lo, portReady s port = true → freeClass (gateOf s port) = some c →
      (gateOf s port).free.find? (fun x => x.1 = c) = some (c, f, ti) → lo = gtNow s + ns32 (fget s GATE_SETUP GATE_SETUP_SETUP) →
      (f.corr.isSome && inHold s 8) = false → fromHeld s f = false →
      findPos s port lo (lo + ns32 4000000) (fun y => decide (y < calendarEnd s port) && placeOk s port y (wireBytes f.bytes.length) (decide (1 ≤ c))) horizon
        (searchFrom s port lo) = some (p, x) →
      ∃ t, exec (.freePlacement port) s = .next t ∧ (gateOf t port).free = freePop c (gateOf s port).free ∧
        ∃ b, b ∈ (gateOf t port).cal ∧ b.q = p ∧ b.t = x ∧ b.st = 3)
    ∧ (∀ c f ti, portReady s port = true → freeClass (gateOf s port) = some c →
      (gateOf s port).free.find? (fun x => x.1 = c) = some (c, f, ti) → ((f.corr.isSome && inHold s 8) = true ∨ fromHeld s f = true) →
      ∃ t, exec (.freePlacement port) s = .next t ∧ (gateOf t port).free = freePop c (gateOf s port).free ∧
        (gateOf t port).cal = (gateOf s port).cal)
    ∧ (∀ c f ti, (gateOf s port).free.find? (fun x => x.1 = c) = some (c, f, ti) →
      ∃ t, exec (.freeQueueTimeout port c) s = .next t ∧ (gateOf t port).free = freePop c (gateOf s port).free ∧
        (gateOf t port).cal = (gateOf s port).cal)
    ∧ (∀ x rest, (gateOf s port).reports = x :: rest →
      ∃ t, exec (.launchReport port) s = .next t ∧ (gateOf t port).reports = rest ∧ (gateOf t port).cal = (gateOf s port).cal)
    ∧ (∀ k reg f lo hi, 3 ≤ roleOf i s →
      (k, reg, f, lo, hi) ∈ [(0, GATE_LEAD, GATE_LEAD_LEAD, 400, 30000), (1, GATE_WINDOW, GATE_WINDOW_WINDOW, 0, 10000),
        (2, GATE_SETUP, GATE_SETUP_SETUP, 150, 1000), (3, GATE_SHARE, GATE_SHARE_CAL_PTP_SHARE, 0, 50)] →
      lo ≤ getF f v → getF f v ≤ hi →
      ∃ t, exec (.gateConfigWrite i k v) s = .next t ∧ fget t reg f = getF f v ∧ Frame [reg] s t)

/-- A rising PWR_GOOD with both resets high begins an attempt with cause 0, a released PORESET_N or WARM_RESET_N with cause 0x21 (0 where
the latch shows a supply fall), each with BOOT_SEL sampled anew (R422); a falling PWR_GOOD and a reset driven low hold the device in
reset and are latched (R431), with OTP and flash kept; the loss of VSTBY clears the start latch, the always-on latches and the spare
map, and no other register (R510). A root PLL that loses lock from stage 3 on restarts the device with cause 0x20 (R22). -/
def Obligations.ResetPins : Prop :=
  ∀ (boot : Nat) (s : State), s.Canonical →
    (s.start.poresetLow = false → s.start.warmLow = false →
      ∃ t, exec (.pwrGoodRise boot) s = .next t ∧ Begun t 0 0 ∧ t.start.bootSel = boot % 4 ∧
        fget t SYS_START_STATUS SYS_START_STATUS_BOOT_SEL = boot % 4 ∧ t.start.latchRun = s.start.latchRun ∧ t.tsu = State.reset.tsu)
    ∧ (∃ t, exec .pwrGoodFall s = .next t ∧ heldInReset t = true ∧ t.start.latchPower = true ∧ stage t = 0 ∧ t.otp = s.otp ∧
        t.nvm.flash = s.nvm.flash ∧ t.start.latchRun = s.start.latchRun)
    ∧ (∃ t, exec .poresetNAssert s = .next t ∧ heldInReset t = true ∧ t.start.latchReset = true ∧ stage t = 0 ∧ t.otp = s.otp ∧
        t.nvm.flash = s.nvm.flash)
    ∧ (∃ t, exec .warmResetNAssert s = .next t ∧ heldInReset t = true ∧ t.start.latchReset = true ∧ stage t = 0 ∧ t.otp = s.otp ∧
        t.nvm.flash = s.nvm.flash)
    ∧ (s.start.poresetLow = true → s.start.pwrGood = true → s.start.warmLow = false →
      ∃ t, exec (.poresetNRelease boot) s = .next t ∧ Begun t (if s.start.latchPower then 0 else 0x21) 0 ∧ t.start.bootSel = boot % 4)
    ∧ (s.start.warmLow = true → s.start.pwrGood = true → s.start.poresetLow = false →
      ∃ t, exec (.warmResetNRelease boot) s = .next t ∧ Begun t 0x21 0 ∧ t.start.bootSel = boot % 4)
    ∧ (∃ t, exec .vstbyLoss s = .next t ∧ 
        t.start = { s.start with latchCause := 0, latchRun := 0, latchRec := none, latchPower := true, latchReset := false, firstCopy := 0 } ∧
        t.evc.aon = 0 ∧
        (∀ d, d < 12 → rd t (ECC_ED_SPARE d) = regReset s.variant (ECC_ED_SPARE d)) ∧
        Frame ((List.range 12).map ECC_ED_SPARE) { s with start := t.start } t)
    ∧ (heldInReset s = false → 3 ≤ stage s →
      ∃ t, exec .rootUnlock s = .next t ∧ Begun t 0x20 (if phase s = 3 ∨ phase s = 5 then 2 else 0) ∧
        fbit t SYS_START_STATUS SYS_START_STATUS_RECOVERY = (decide (phase s = 3) || decide (phase s = 5)))

/-- A stage's deadline, a watchdog or a fatal error before success fails the attempt with its code (R424, R425, R428); after success a
watchdog restarts the device; a waiting retry begins a new attempt (R429); STABLE_TIME in SERVICE makes the attempt a success and
clears the count (R428). A Custodian's release begins an attempt with cause 0x22 and a count of 0 (R439); a root clock found in dark
Bivouac mode ends the darkness (R436). A transmit calibration that fails in stage S7 fails the attempt with code 0xE (R79). -/
def Obligations.AttemptsFailAndRetry : Prop :=
  ∀ (i : Initiator) (s : State), s.Canonical →
    (heldInReset s = false → 1 ≤ stage s → stage s < 8 → phase s ≠ 4 → s.start.retryWait = false →
      ∃ t, exec .stageDeadline s = .next t ∧ AttemptFailed s t 7)
    ∧ (∀ fatal, heldInReset s = false → (5 ≤ stage s ∨ fatal = true) → phase s ≠ 4 → s.start.retryWait = false →
      fbit s SYS_START_STATUS SYS_START_STATUS_STABLE = false →
      ∃ t, exec (.watchdog fatal) s = .next t ∧ AttemptFailed s t (if fatal then 0x10 else 0x0F))
    ∧ (∀ fatal, heldInReset s = false → (5 ≤ stage s ∨ fatal = true) → phase s ≠ 4 → s.start.retryWait = false →
      fbit s SYS_START_STATUS SYS_START_STATUS_STABLE = true →
      ∃ t, exec (.watchdog fatal) s = .next t ∧
        Begun t (if fatal then 0x10 else 0x0F) (if phase s = 3 ∨ phase s = 5 then 2 else 0))
    ∧ (heldInReset s = false → s.start.retryWait = true →
      ∃ t, exec .startRetry s = .next t ∧ Begun t s.start.latchCause (if unexpected s s.start.latchCause then 2 else 0) ∧ t.start.latchRun = s.start.latchRun)
    ∧ (heldInReset s = false → (phase s = 3 ∨ phase s = 5) → fbit s SYS_START_STATUS SYS_START_STATUS_STABLE = false →
      ∃ t, exec .startSuccess s = .next t ∧ fbit t SYS_START_STATUS SYS_START_STATUS_STABLE = true ∧ t.start.latchRun = 0 ∧
        fget t SYS_START_STATUS SYS_START_STATUS_FAIL_RUN = 0 ∧ phase t = phase s)
    ∧ (∀ first, heldInReset s = false → 3 ≤ roleOf i s → first ≤ 2 → phase s = 4 → s.start.bootSel < 2 →
      ∃ t, exec (.sysBivouacCtlRelease i first) s = .next t ∧ Begun t 0x22 0 ∧ t.start.latchRun = 0 ∧ t.start.firstCopy = first)
    ∧ (∀ pcie, s.start.dark = true →
      ∃ t, exec (.bivouacRootRetry true pcie) s = .next t ∧ t.start = { s.start with dark := false } ∧
        fbit t SYS_START_STATUS SYS_START_STATUS_DARK_XO = pcie ∧ Frame [SYS_START_STATUS] { s with start := t.start } t)
    ∧ (∀ lane, heldInReset s = false → atStage 7 s = true → calRuns s lane true = true → laneFitted s lane = true →
      ∃ t, exec (.calSideFail lane true) s = .next t ∧ AttemptFailed s t 0xE)

/-- Each stage that ends well leads to the next, and one that ends badly fails the attempt with the code of R426 (R424): S1 finds the XO,
S2 the root clock, S3 scans the journal (with BOOT_SEL 3 an unowned device enters PROVISIONING, R435), S4 chooses the first copy that
verifies (R405, R419), S5 applies the patches, S6 the legs, S7 ends when every enabled port's transmit side is calibrated, with phase
SERVICE and the S9 lock. -/
def Obligations.StagesOfAStart : Prop :=
  ∀ (ms : Nat) (s : State), s.Ready →
    (∀ hz pcie f, atStage 1 s = true → xoIdentify hz = some f →
      ∃ t, exec (.s1Xo true hz pcie ms) s = .next t ∧ stage t = 2 ∧ t.start = { s.start with msBase := ms, xoHz := f } ∧
        Frame [SYS_START_STATUS] { s with start := t.start } t)
    ∧ (∀ hz osc pcie, atStage 1 s = true → (osc = false ∨ xoIdentify hz = none) →
      ∃ t, exec (.s1Xo osc hz pcie ms) s = .next t ∧ AttemptFailed s t (if osc then 2 else 1))
    ∧ (atStage 2 s = true →
      ∃ t, exec (.s2Root true ms) s = .next t ∧ stage t = 3 ∧ t.start = { s.start with msBase := ms, xoBase := s.tsu.xo } ∧ t.tsu = s.tsu)
    ∧ (atStage 2 s = true → ∃ t, exec (.s2Root false ms) s = .next t ∧ AttemptFailed s t 3)
    ∧ (atStage 3 s = true → s.start.bootSel < 2 → (journalScan s).start.latchRun < 3 →
      ∃ t, exec (.s3Mem true) s = .next t ∧ stage t = 4 ∧ t.start = (journalScan s).start)
    ∧ (atStage 3 s = true → s.start.bootSel = 3 → s.otp.ownerHash = [] → ∃ t, exec (.s3Mem true) s = .next t ∧ phase t = 1)
    ∧ (atStage 3 s = true → ∃ t, exec (.s3Mem false) s = .next t ∧ AttemptFailed s t 4)
    ∧ (∀ a ls u, atStage 4 s = true → (copyOrder s).head? = some a →
      u = fset SYS_BOOK_STATUS SYS_BOOK_STATUS_ROM_VER (Config.romVersion % 2 ^ 32) s →
      (copyVerify u a = .inr ls →
        ∃ t, exec .s4Book s = .next t ∧ stage t = 5 ∧ copyUsed t = a ∧ fbit t SYS_BOOK_STATUS SYS_BOOK_STATUS_FALLBACK = false ∧
          fbit t SYS_BOOK_STATUS SYS_BOOK_STATUS_UNOWNED = s.otp.ownerHash.isEmpty)
      ∧ (∀ e, copyVerify u a = .inl e → copyVerify u (1 - a) = .inr ls →
        ∃ t, exec .s4Book s = .next t ∧ stage t = 5 ∧ copyUsed t = 1 - a ∧ fbit t SYS_BOOK_STATUS SYS_BOOK_STATUS_FALLBACK = true)
      ∧ (∀ e f, copyVerify u a = .inl e → copyVerify u (1 - a) = .inl f →
        ∃ t, exec .s4Book s = .next t ∧ AttemptFailed s t (if f.step = 6 then 6 else 5)))
    ∧ (∀ u, atStage 5 s = true → patchLegs ((bookLegs s).filter (fun l => l.ty = 0xD0)) s = some u →
      ∃ t, exec (.s5Firm true true) s = .next t ∧ stage t = 6 ∧ t.start.patches = u.start.patches)
    ∧ (∀ rom, atStage 5 s = true → ∃ t, exec (.s5Firm rom false) s = .next t ∧ AttemptFailed s t (if rom then 0xA else 8))
    ∧ (∀ ls x u v, atStage 6 s = true → ls = legSort ((bookLegs s).filter (fun l => l.ty ≠ 0xD0)) →
      x = ls.foldl (fun y l => legLoad l y)
        ⟨fset SYS_BOOK_STATUS SYS_BOOK_STATUS_SKIPPED (satF SYS_BOOK_STATUS_SKIPPED (bookSkips s))
          (ticOwners ls { s with pe := { s.pe with bankWritten := 0, stock := 0 } }), none, [], []⟩ →
      x.bad = none → u = (if ls.any (fun l => l.ty = 0x30) then { x.s with pe := { x.s.pe with stock := stockBanks ls } } else dropTopo x.s) →
      svcSetAddrs x.addrs (loadFinish x u) = some v →
      ∃ t, exec .s6Load s = .next t ∧ stage t = 7 ∧ ls.Pairwise (fun l m => l.ty ≤ m.ty))
    ∧ (atStage 7 s = true → (∀ p, p < 8 → portLive s p = true → fbit s (PORT_MODE p) PORT_MODE_ENABLE = true →
        fbit s (PORT_STATUS p) PORT_STATUS_TX_CAL_VALID = true) →
      ∃ t, exec .s7Lanes s = .next t ∧ stage t = 9 ∧ phase t = 3 ∧ rwlLocked t = true)

/-- A reading of the die sensor is shown, the maximum grows with it, and WARN and CRIT follow their thresholds with hysteresis (R515);
a rail that leaves its range sets its bit of OUT and SEEN, one that returns clears its bit of OUT and no other (R508). -/
def Obligations.SensorsReport : Prop :=
  ∀ (s : State), s.Canonical →
    (∀ temp : Int, -32768 ≤ temp → temp < 32768 →
      ∃ t, exec (.tempCrossing temp) s = .next t ∧ fint t SYS_TEMP SYS_TEMP_TEMP = temp ∧
        fint t SYS_TEMP SYS_TEMP_MAX = max (fint s SYS_TEMP SYS_TEMP_MAX) temp ∧
        (fbit t SYS_TEMP SYS_TEMP_WARN = true ↔ (if fbit s SYS_TEMP SYS_TEMP_WARN then 776 else 800) < temp) ∧
        (fbit t SYS_TEMP SYS_TEMP_CRIT = true ↔ (if fbit s SYS_TEMP SYS_TEMP_CRIT then 856 else 880) < temp) ∧ Frame [SYS_TEMP] s t)
    ∧ (∀ rail, rail < 8 →
      ∃ t, exec (.railExcursion rail) s = .next t ∧
        fget t SYS_RAIL SYS_RAIL_OUT = fget s SYS_RAIL SYS_RAIL_OUT ||| 2 ^ rail ∧
        (fget t SYS_RAIL SYS_RAIL_SEEN).testBit rail = true ∧ Frame [SYS_RAIL] s t)
    ∧ (∀ rail, rail < 8 →
      ∃ t, exec (.railReturn rail) s = .next t ∧ (∀ j, (fget t SYS_RAIL SYS_RAIL_OUT).testBit j =
        ((fget s SYS_RAIL SYS_RAIL_OUT).testBit j && decide (j ≠ rail))) ∧ Frame [SYS_RAIL] s t)

/-- A window write fills a slot unless a job holds it (R260); a new slot length empties every slot (R261). GO queues a job that passes the
checks of R265 and posts the status of the first check that fails; the next job starts with its operands validated (R266, R269); a LONG
job yields to SHORT ones (R269); completion posts status, tag and cycles (R270, R275), a signature that fails its verification twice takes
the unit offline (R271); an abort ends jobs with ABORTED (R272); a read of BNU_CPL takes the oldest word (R274). -/
def Obligations.BignumJobs : Prop :=
  ∀ (i : Initiator) (n : Nat) (v : Word) (u : BnuUnit) (s : State), s.Ready → bnuFitted s n = true → u = bnuOf s n →
    (∀ off a k, off < 0x10000 → a = 0x40000000 + n * 0x10000 + off / 8 * 8 → k = a % 0x10000 / 8 / slotWords s n → k < slotCount s n →
      ((slotOf s n k).st ≠ 2 → eccQuiet s = true →
        ∃ t, exec (.bnuWindowWrite i n off v) s = .next t ∧ ldW t a = v ∧ slotOf t n k = ⟨1, 0, bnuSide i⟩ ∧
          (∀ b, (b < a ∨ a + 8 ≤ b) → ldB t b = ldB s b) ∧ (bnuOf t n).shortQ = u.shortQ ∧ (bnuOf t n).run = u.run)
      ∧ ((slotOf s n k).st = 2 →
        ∃ t, exec (.bnuWindowWrite i n off v) s = .next t ∧ fbit t (BNU_STATUS n) BNU_STATUS_WR_BUSY = true ∧ Frame [BNU_STATUS n] s t))
    ∧ (regCheck i (roleOf i s) (BNU_SLOT_WORDS n) v s = .ok →
      ∃ t, exec (.bnuSlotWordsWrite i n v) s = .next t ∧ fget t (BNU_SLOT_WORDS n) BNU_SLOT_WORDS_WORDS = getF BNU_SLOT_WORDS_WORDS v ∧
        fget t (BNU_SLOT_WORDS n) BNU_SLOT_WORDS_SLOTS = 8192 / max (getF BNU_SLOT_WORDS_WORDS v) 4 ∧ (bnuOf t n).slots = [] ∧
        (∀ b, 0x40000000 + n * 0x10000 ≤ b → b < 0x40010000 + n * 0x10000 → ldB t b = 0) ∧
        (∀ b, (b < 0x40000000 + n * 0x10000 ∨ 0x40010000 + n * 0x10000 ≤ b) → ldB t b = ldB s b))
    ∧ (∀ j0 j, j0 = staged i n s → j = { j0 with short := jobShort s j0, cost := jobCost s j0, left := jobCost s j0 } →
      regCheck i (roleOf i s) (BNU_SUBMIT n) (withBits 0 [(BNU_SUBMIT_GO, 1)]) s = .ok →
      (bnuOnline s n = false → ∃ t, exec (.bnuSubmitGo i n) s = .next t ∧
        bnuOf t n = { u with cpl := u.cpl ++ [cplWord 8 (jTag j) 0 fOFFLINE] })
      ∧ (bnuOnline s n = true → queueRoom u j.short = false → ∃ t, exec (.bnuSubmitGo i n) s = .next t ∧
        bnuOf t n = { u with cpl := u.cpl ++ [cplWord 8 (jTag j) 0 fQFULL] } ∧ fbit t (BNU_STATUS n) BNU_STATUS_Q_FULL = true)
      ∧ (bnuOnline s n = true → queueRoom u j.short = true → bnuOpKnown (jOp j) = true → j.w0 / 2 ^ 8 % 4 ≠ 3 → curveOk j = true →
        descReserved j = false → (jOp j = 0x30 → j.side ≠ 3) →
        (lenOk s n j = false → ∃ t, exec (.bnuSubmitGo i n) s = .next t ∧ bnuOf t n = { u with cpl := u.cpl ++ [cplWord 7 (jTag j) 0 0] })
        ∧ (lenOk s n j = true → sourcesOk s n j = false →
          ∃ t, exec (.bnuSubmitGo i n) s = .next t ∧ bnuOf t n = { u with cpl := u.cpl ++ [cplWord 0xB (jTag j) 0 0] })
        ∧ (lenOk s n j = true → sourcesOk s n j = true → slotsFree s n j = false →
          ∃ t, exec (.bnuSubmitGo i n) s = .next t ∧ bnuOf t n = { u with cpl := u.cpl ++ [cplWord 0xA (jTag j) 0 0] })
        ∧ (lenOk s n j = true → sourcesOk s n j = true → slotsFree s n j = true →
          ∃ t, exec (.bnuSubmitGo i n) s = .next t ∧ (bnuOf t n).cpl = u.cpl ∧
            (bnuOf t n).shortQ = (if j.short then u.shortQ ++ [j] else u.shortQ) ∧
            (bnuOf t n).longQ = (if j.short then u.longQ else u.longQ ++ [j]))))
    ∧ (bnuOnline s n = true → u.test = false → u.run = none → u.cpl.length < 64 →
      (∀ j r, u.shortQ = j :: r → u.saved = none → s.ecc.bad = [] → (opRandom (jOp j) = true → drbgReady s n = true) → j.bad = 0 →
        j.ke = none →
        ∃ t, exec (.bnuJobStart n) s = .next t ∧ (bnuOf t n).run = some { j with bad := validate s n j } ∧ (bnuOf t n).shortQ = r ∧
          (bnuOf t n).cpl = u.cpl)
      ∧ (∀ x, u.shortQ = [] → u.saved = some x →
        ∃ t, exec (.bnuJobStart n) s = .next t ∧ bnuOf t n = { u with saved := none, run := some x, since := 0, begun := s.tsu.xo }))
    ∧ (∀ j left, u.run = some j → j.short = false → u.shortQ ≠ [] → u.saved = none → j.bad = 0 →
      ∃ t, exec (.bnuYield n left) s = .next t ∧
        bnuOf t n = { u with run := none, saved := some { j with yielded := true, left := min left j.left }, since := 0 })
    ∧ (∀ j fault, u.run = some j → j.bad = 0 → j.ke = none →
      (opSign (jOp j) = false ∨ fault = 0 ∧ (jobSig n j (bnuSet n { u with run := none } s)).2.1 = true) →
      ∃ t res, exec (.bnuJobComplete n fault) s = .next t ∧ (bnuOf t n).run = none ∧
        (bnuOf t n).cpl = u.cpl ++ [cplWord 0 (jTag j) j.cost ((if j.yielded then fYIELDED else 0) + if res then fRESULT else 0)] ∧
        (jOp j = 0x1B → res = ecdsaVerify (nistOf (jCurve j))
          (slotNum s n (jSrc j 2) 0 (jWords j), slotNum s n (jSrc j 2) (jWords j) (jWords j)) (slotNum s n (jSrc j 0) 0 (jWords j))
          (slotNum s n (jSrc j 1) 0 (jWords j)) (slotNum s n (jSrc j 1) (jWords j) (jWords j))))
    ∧ (∀ j fault, u.run = some j → 1 ≤ j.bad → j.bad ≤ 6 → j.ke = none →
      ∃ t, exec (.bnuJobComplete n fault) s = .next t ∧ (bnuOf t n).run = none ∧
        (bnuOf t n).cpl = u.cpl ++ [cplWord j.bad (jTag j) (valCycles j) (if j.yielded then fYIELDED else 0)])
    ∧ (∀ j, u.run = some j → j.bad = 0 → j.ke = none → opSign (jOp j) = true →
      ∃ t, exec (.bnuJobComplete n 2) s = .next t ∧ bnuOnline t n = false ∧ fbit t (BNU_STATUS n) BNU_STATUS_FAULT = true ∧
        bnuJobs (bnuOf t n) = [])
    ∧ (∀ tag, regCheck i (roleOf i s) (BNU_ABORT n) (withBits 0 [(BNU_ABORT_GO, 1), (BNU_ABORT_TAG, tag)]) s = .ok → tag < 65536 →
      ∃ t, exec (.bnuAbortGo i n tag) s = .next t ∧ (∀ j ∈ bnuJobs (bnuOf t n), jTag j = tag → j.ke ≠ none) ∧
        (∀ j, bnuJobs u = [j] → jTag j = tag → j.ke = none →
          (bnuOf t n).cpl = u.cpl ++ [cplWord 8 tag (j.cost - j.left + if u.run = some j then min j.left (bnuRan s u) else 0)
            (if j.yielded then fYIELDED else 0)]))
    ∧ (regCheck i (roleOf i s) (BNU_CTL n) (withBits (rd s (BNU_CTL n)) [(BNU_CTL_ABORT_ALL, 1)]) s = .ok →
      ∃ t, exec (.bnuCtlAbortAll i n) s = .next t ∧ (∀ j ∈ bnuJobs (bnuOf t n), j.ke ≠ none) ∧
        bnuHost t n = bnuHost s n)
    ∧ (∀ c r, roleOf i s ≠ 0 → u.cpl = c :: r →
      ∃ t, exec (.bnuCplRead i n) s = .next t ∧ mapGet (fun _ => 0) t.busOut (initIx i) = BitVec.ofNat 64 c ∧
        bnuOf t n = { u with cpl := r })

/-- SELFTEST starts a test of an idle unit, whose end takes the unit online or offline (R277); OWNER hands it over (R278). A block that passes
its health tests makes the source RUNNING and completes the two that the first instance waiting for a seed takes; one that fails counts, and the third in a row makes it FAILED until a
Custodian restarts it (R279, R280). An instance reseeds while the source delivers and stops when it cannot (R281, R282); BNU_RAND gives
a core the next word of its cluster's instance, and others zero (R282). -/
def Obligations.BignumUnitsAndEntropy : Prop :=
  ∀ (i : Initiator) (n : Nat) (s : State), s.Ready →
    (bnuFitted s n = true →
      (regCheck i (roleOf i s) (BNU_CTL n) (withBits (rd s (BNU_CTL n)) [(BNU_CTL_SELFTEST, 1)]) s = .ok → bnuStopped s = false →
        ∃ t, exec (.bnuCtlSelftest i n) s = .next t ∧ (bnuOf t n).test = true ∧ bnuHost t n = bnuHost s n)
      ∧ (∀ pass, (bnuOf s n).test = true → ∃ t, exec (.bnuSelftestDone n pass) s = .next t ∧ (bnuOf t n).test = false ∧
        bnuOnline t n = pass ∧ fbit t (BNU_STATUS n) BNU_STATUS_SELFTEST_PASS = pass ∧
        (pass = true → fbit t (BNU_STATUS n) BNU_STATUS_FAULT = false) ∧ (pass = false → drbgReady t n = false))
      ∧ (∀ host, regCheck i (roleOf i s) (BNU_CTL n) (withBits 0 [(BNU_CTL_OWNER, if host then 1 else 0)]) s = .ok →
        ∃ t, exec (.bnuCtlOwnerWrite i n host) s = .next t ∧ bnuHost t n = host))
    ∧ (fget s BNU_ES_STATUS BNU_ES_STATUS_STATE < 2 →
      (∀ raw, (esTests raw s).fail = 0 →
        ∃ t, exec (.esBlock raw) s = .next t ∧ fget t BNU_ES_STATUS BNU_ES_STATUS_STATE = 1 ∧
          fget t BNU_ES_STATUS BNU_ES_STATUS_FAIL_RUN = 0 ∧ t.bnu.rawRun = (esTests raw s).run ∧
          ∀ k b, k < 11 → drbgWaits s k = true → (∀ m, m < k → drbgWaits s m = false) → s.bnu.pool = [b] →
            drbgReady t k = true ∧ t.bnu.stopped.testBit k = false)
      ∧ ∀ raw f run, f = (esTests raw s).fail → f ≠ 0 → run = fget s BNU_ES_STATUS BNU_ES_STATUS_FAIL_RUN + 1 →
        ∃ t, exec (.esBlock raw) s = .next t ∧ t.bnu = { s.bnu with rawRun := 0 } ∧ fget t BNU_ES_STATUS BNU_ES_STATUS_STATE = (if 3 ≤ run then 3 else 2) ∧
          fget t BNU_ES_STATUS BNU_ES_STATUS_FAIL_RUN = min run 3 ∧
          fbit t BNU_ES_STATUS (if f = 1 then BNU_ES_STATUS_RCT_FAIL else BNU_ES_STATUS_APT_FAIL) = true ∧
          Frame [BNU_ES_STATUS] { s with bnu := t.bnu } t)
    ∧ (fget s BNU_ES_STATUS BNU_ES_STATUS_STATE = 2 →
      ∃ t, exec .esRestart s = .next t ∧ fget t BNU_ES_STATUS BNU_ES_STATUS_STATE = 0 ∧ Frame [BNU_ES_STATUS] s t)
    ∧ (3 ≤ roleOf i s → fget s BNU_ES_STATUS BNU_ES_STATUS_STATE = 3 →
      ∃ t, exec (.bnuEsCtlRestart i) s = .next t ∧ fget t BNU_ES_STATUS BNU_ES_STATUS_STATE = 0 ∧
        fget t BNU_ES_STATUS BNU_ES_STATUS_FAIL_RUN = 0 ∧ Frame [BNU_ES_STATUS] s t)
    ∧ (∀ c : Fin 24, drbgReady s (8 + c.val / 8) = true →
      ∃ t, exec (.bnuRandRead (.core c)) s = .next t ∧
        mapGet (fun _ => 0) t.busOut (initIx (.core c)) = BitVec.ofNat 64 (leNat (drbgGen (8 + c.val / 8) 8 s).1) ∧
        t.bnu.units = s.bnu.units ∧ Frame [BNU_DRBG_STATUS] { s with busOut := t.busOut, fresh := t.fresh, bnu := t.bnu } t)
    ∧ (∀ c : Fin 24, drbgReady s (8 + c.val / 8) = false →
      ∃ t, exec (.bnuRandRead (.core c)) s = .next t ∧ mapGet (fun _ => 0) t.busOut (initIx (.core c)) = 0 ∧
        (fget t BNU_DRBG_STATUS BNU_DRBG_STATUS_STALE).testBit (8 + c.val / 8) = true ∧
        Frame [BNU_DRBG_STATUS] { s with busOut := t.busOut } t)
    ∧ (isCore i = false → ∃ t, exec (.bnuRandRead i) s = .next t ∧ t = answer i 0 s)
    ∧ (∀ a b r, n < 11 → drbgFitted s n = true → fget s BNU_ES_STATUS BNU_ES_STATUS_STATE = 1 → (8 ≤ n ∨ bnuOnline s n = true) →
      s.bnu.pool = a :: b :: r →
      ∃ t, exec (.drbgReseed n) s = .next t ∧ drbgReady t n = true ∧ t.bnu.stopped.testBit n = false ∧
        t.bnu.calls = mapSet (fun _ => 0) n 0 s.bnu.calls ∧ t.bnu.units = s.bnu.units ∧ t.bnu.pool = r ∧
        (∀ d, drbgOf s n = some d → drbgOf t n = some (drbgUpdate d ((a ++ b).take 48))) ∧
        Frame [BNU_DRBG_STATUS] { s with bnu := t.bnu, fresh := t.fresh } t)
    ∧ (n < 11 → drbgFitted s n = true → drbgReady s n = true → fget s BNU_ES_STATUS BNU_ES_STATUS_STATE ≠ 1 →
      ∃ t, exec (.drbgStale n) s = .next t ∧ drbgReady t n = false ∧ t.bnu.stopped.testBit n = true ∧
        (∀ k, k ≠ n → drbgReady t k = drbgReady s k) ∧ Frame [BNU_DRBG_STATUS] { s with bnu := t.bnu } t)

/-- The scrubber rewrites a correctable word, which then has no error, and goes on behind it (R461, R462); an
uncorrectable word stays as it is (R465) but one of the key store whose other copy is good (R466); a row copied to its spare is
RETIRED and counts as used (R463); an injection is armed with the domain, address and bits written (R469); clearing a log frees its
entries but those PERSISTENT or RETIRED (R460). -/
def Obligations.MemoryErrorsAndRepair : Prop :=
  ∀ (i : Initiator) (d : Nat) (s : State), s.Ready → d < 12 →
    (∀ w, w < 2 ^ 32 → fbit s ECC_CTL ECC_CTL_SCRUB_EN = true → eccBad s d w ≠ 0 → eccUe (eccBad s d w) = false →
      fbit s ECC_INJECT ECC_INJECT_ARMED = false →
      ∃ t, exec (.scrubRead d w) s = .next t ∧ eccBad t d w = 0 ∧ mapGet (fun _ => 0) t.ecc.scrubAt d = w + 1 ∧
        (∀ e x, e < 12 → x < 2 ^ 32 → (e ≠ d ∨ x ≠ w) → eccBad t e x = eccBad s e x))
    ∧ (∀ w, d = 9 → w < 2 ^ 32 → fbit s ECC_CTL ECC_CTL_SCRUB_EN = true → eccUe (eccBad s 9 w) = true →
      eccUe (eccBad s 9 (keyTwin w)) = false → fbit s ECC_INJECT ECC_INJECT_ARMED = false →
      ∃ t, exec (.scrubRead 9 w) s = .next t ∧ eccBad t 9 w = 0 ∧
        (∀ e x, e < 12 → x < 2 ^ 32 → (e ≠ 9 ∨ x ≠ w) → eccBad t e x = eccBad s e x))
    ∧ (∀ w, fbit s ECC_CTL ECC_CTL_SCRUB_EN = true → eccUe (eccBad s d w) = true → d ≠ 9 →
      ∃ t, exec (.scrubRead d w) s = .next t ∧ t.ecc.bad = s.ecc.bad)
    ∧ (∀ w, fbit s ECC_CTL ECC_CTL_SCRUB_EN = true → eccBad s d w = 0 →
      ∃ t, exec (.scrubRead d w) s = .next t ∧ mapGet (fun _ => 0) t.ecc.scrubAt d = w + 1 ∧ t.ecc.bad = s.ecc.bad ∧
        t.ecc.log = s.ecc.log ∧ Frame [ECC_ED_LAP d] { s with ecc := t.ecc } t)
    ∧ (∀ k e, k < 16 → eccEntry s d k = some e → e.copying = true → fget s (ECC_ED_SPARE d) ECC_ED_SPARE_USED < 255 →
      ∃ t, exec (.rowRetireComplete d k) s = .next t ∧ eccEntry t d k = some { e with copying := false, retired := true } ∧
        eccBad t d e.addr = 0 ∧ fget t (ECC_ED_SPARE d) ECC_ED_SPARE_USED = fget s (ECC_ED_SPARE d) ECC_ED_SPARE_USED + 1 ∧
        Frame [ECC_ED_SPARE d] { s with ecc := t.ecc } t)
    ∧ (∀ v, 3 ≤ roleOf i s → fbit s ECC_INJECT ECC_INJECT_ARMED = false → getF ECC_INJECT_DOMAIN v < 12 →
      ∃ t, exec (.eccInjectArm i v) s = .next t ∧ fbit t ECC_INJECT ECC_INJECT_ARMED = true ∧
        fget t ECC_INJECT ECC_INJECT_DOMAIN = getF ECC_INJECT_DOMAIN v ∧ fget t ECC_INJECT ECC_INJECT_ADDR = getF ECC_INJECT_ADDR v ∧
        fget t ECC_INJECT ECC_INJECT_BIT_A = getF ECC_INJECT_BIT_A v ∧ fget t ECC_INJECT ECC_INJECT_BIT_B = getF ECC_INJECT_BIT_B v ∧
        Frame [ECC_INJECT] s t)
    ∧ (2 ≤ roleOf i s →
      ∃ t, exec (.eccLogClrGo i d) s = .next t ∧ Frame [] { s with ecc := t.ecc } t ∧ t.ecc.bad = s.ecc.bad ∧
        ∀ k, k < 16 → eccEntry t d k = (eccEntry s d k).filter (fun e => e.pers || e.retired))

/-- An occurrence that reaches the controller makes an enabled edge source PENDING (R473); a claim answers the best deliverable source of
the line, which becomes ACTIVE and is no longer PENDING, or 0x1FF (R475); its completion on its own line ends ACTIVE, and a level that
still holds is PENDING again (R476, R477); a completion that names another sets BAD_COMPLETE (R478); a software occurrence latches and,
where enabled, is PENDING, one of an absent source sets SET_ABSENT (R481), and one of a port that a
400GBASE-R group leaves inert changes nothing in the controller (R65). Nothing outside the controller changes. -/
def Obligations.EventServiceCycle : Prop :=
  ∀ (i : Initiator) (id line : Nat) (s : State), s.Ready → id < 256 → line < 34 →
    (s.evc.inflight.getLsbD id = true → s.evc.enEff.getLsbD id = true → srcLevel id = false →
      ∃ t, exec (.sourcePending id) s = .next t ∧ bankBit t EVC_PEND id = true ∧ t.evc.inflight.getLsbD id = false ∧ Frame [] s t)
    ∧ (roleOf i s ≠ 0 → claimBest s line = some id →
      ∃ t, exec (.evcClaimRead i line) s = .next t ∧ mapGet (fun _ => 0) t.busOut (initIx i) = BitVec.ofNat 64 id ∧
        bankBit t EVC_PEND id = false ∧ bankBit t EVC_ACT id = true ∧
        (∀ j, j < 256 → j ≠ id → bankBit t EVC_PEND j = bankBit s EVC_PEND j ∧ bankBit t EVC_ACT j = bankBit s EVC_ACT j) ∧
        Frame [] { s with busOut := t.busOut } t)
    ∧ (roleOf i s ≠ 0 → claimBest s line = none →
      ∃ t, exec (.evcClaimRead i line) s = .next t ∧ t = { s with busOut := t.busOut } ∧
        mapGet (fun _ => 0) t.busOut (initIx i) = 0x1FF)
    ∧ (2 ≤ roleOf i s → bankBit s EVC_ACT id = true → srcLine s id = line →
      ∃ t, exec (.evcCompleteWrite i line id) s = .next t ∧ bankBit t EVC_ACT id = false ∧
        (srcLevel id = true → s.evc.lvEff.getLsbD id = true → s.evc.enEff.getLsbD id = true → s.evc.inflight.getLsbD id = false →
          bankBit t EVC_PEND id = true) ∧ Frame [] s t)
    ∧ (2 ≤ roleOf i s → (bankBit s EVC_ACT id = false ∨ srcLine s id ≠ line) →
      ∃ t, exec (.evcCompleteWrite i line id) s = .next t ∧ fbit t EVC_STATUS EVC_STATUS_BAD_COMPLETE = true ∧
        (∀ j, j < 256 → bankBit t EVC_ACT j = bankBit s EVC_ACT j) ∧ Frame [] s t)
    ∧ (2 ≤ roleOf i s → srcPresent s.variant id = true → srcInert s id = false → s.evc.enEff.getLsbD id = true →
      ∃ t, exec (.evcSetGo i id) s = .next t ∧ bankBit t EVC_RAW id = true ∧ bankBit t EVC_PEND id = true ∧ Frame [] s t)
    ∧ (2 ≤ roleOf i s → srcPresent s.variant id = false →
      ∃ t, exec (.evcSetGo i id) s = .next t ∧ fbit t EVC_STATUS EVC_STATUS_SET_ABSENT = true ∧ t.evc = s.evc ∧ Frame [] s t)
    ∧ (2 ≤ roleOf i s → srcPresent s.variant id = true → srcInert s id = true →
      ∃ t, exec (.evcSetGo i id) s = .next t ∧ t.evc = s.evc ∧ Frame [] s t)

/-- A write of an enable word sets the bits of present sources (R474): at once in the direct configuration (R480), else the mask window
opens, and its end, or a read of EVC_SYNC, puts enables and levels as written into effect (R479). PRIORITY and LINE of a source that
is not in service take the value written (R482). The host's message masks take effect, and a vector unmasked with its pending bit set
sends its message where its set is still not empty (R483). -/
def Obligations.EventEnablesAndMasks : Prop :=
  ∀ (i : Initiator) (v : Word) (s : State), s.Ready →
    (∀ k, 2 ≤ roleOf i s → k < 4 →
      ∃ t, exec (.evcEnWrite i k v) s = .next t ∧
        (∀ j, j < 64 → (rd t (EVC_EN k)).getLsbD j = (v.getLsbD j && srcPresent s.variant (64 * k + j))) ∧
        (if unitBit s.variant 39 then t.evc.windowOpen = false ∧
            ∀ j, j < 64 → t.evc.enEff.getLsbD (64 * k + j) = (v.getLsbD j && srcPresent s.variant (64 * k + j))
          else t.evc.windowOpen = true) ∧ Frame [] s t)
    ∧ (s.evc.windowOpen = true →
      ∃ t, exec .maskWindowEnd s = .next t ∧ t.evc.windowOpen = false ∧
        (∀ id, id < 256 → t.evc.enEff.getLsbD id = bankBit s EVC_EN id ∧ t.evc.lvEff.getLsbD id = bankBit s EVC_SRC_LEVEL id) ∧
        Frame [] s t)
    ∧ (roleOf i s ≠ 0 → s.evc.windowOpen = true →
      ∃ t, exec (.evcSyncRead i) s = .next t ∧ t.evc.windowOpen = false ∧ mapGet (fun _ => 0) t.busOut (initIx i) = 0 ∧
        (∀ id, id < 256 → t.evc.enEff.getLsbD id = bankBit s EVC_EN id ∧ t.evc.lvEff.getLsbD id = bankBit s EVC_SRC_LEVEL id) ∧
        Frame [] { s with busOut := t.busOut } t)
    ∧ (∀ id, 2 ≤ roleOf i s → id < 256 → getF EVC_SRC_CFG_LINE v ≤ 33 → bankBit s EVC_ACT id = false →
      ∃ t, exec (.evcSrcCfgWrite i id v) s = .next t ∧ srcPrio t id = getF EVC_SRC_CFG_PRIORITY v ∧
        srcLine t id = getF EVC_SRC_CFG_LINE v ∧
        fget t (EVC_SRC_CFG id) EVC_SRC_CFG_PRESENT = fget s (EVC_SRC_CFG id) EVC_SRC_CFG_PRESENT ∧ Frame [] s t)
    ∧ (∀ masks fn, ∃ t, exec (.msixUnmask masks fn) s = .next t ∧ t.evc.msixMask = masks ∧ t.evc.msixFnMask = fn ∧
        (∀ n, n < 32 → s.evc.msixPend.getLsbD n = true → fn = false → masks.getLsbD n = false →
          t.evc.msixPend.getLsbD n = false ∧ ((claimBest s n).isSome = true → Out.msix n ∈ t.out)) ∧ Frame [] s t)

/-- A snapshot copies every counter of the live bank with one stamp and counts in SNAP_SEQ (R495); a dump takes a snapshot, counts, and
goes to the control SRAM ring and to host memory where CNT_DUMP_CFG.DEST says so and the host ring has room, while no injection waits (R497, R498); the end of a
second closes what was aggregated and suppressed in it (R502). -/
def Obligations.CounterSnapshotsAndCairn : Prop :=
  ∀ (i : Initiator) (s : State), s.Ready →
    (2 ≤ roleOf i s →
      ∃ t, exec (.cntCtlSnap i) s = .next t ∧ t.cnt.shLive = s.cnt.live ∧ t.cnt.shExt = s.cnt.ext ∧ t.cnt.snapAt = gtNow s ∧
        t.cnt.snapSeq = s.cnt.snapSeq + 1 ∧ fget t CNT_CTL CNT_CTL_SNAP_SEQ = (s.cnt.snapSeq + 1) % 2 ^ 32 ∧
        (eccQuiet s = true → Frame [] s t))
    ∧ (fget s CNT_DUMP_CFG CNT_DUMP_CFG_PERIOD ≠ 0 →
      ∃ t, exec .counterDump s = .next t ∧ t.cnt.dumps = s.cnt.dumps + 1 ∧ t.cnt.snapSeq = s.cnt.snapSeq + 1 ∧
        t.cnt.shLive = s.cnt.live ∧
        ((fget s CNT_DUMP_CFG CNT_DUMP_CFG_DEST).testBit 0 = true →
          t.cnt.sramAt = (s.cnt.sramAt % max 1 (fget s CNT_DUMP_RING CNT_DUMP_RING_SLOTS) + 1) %
            max 1 (fget s CNT_DUMP_RING CNT_DUMP_RING_SLOTS)) ∧
        (eccQuiet s = true → (fget s CNT_DUMP_CFG CNT_DUMP_CFG_DEST).testBit 1 = true → 2 ≤ fget s CNT_DUMP_HOST CNT_DUMP_HOST_SLOTS →
          (fget s CNT_DUMP_HOST CNT_DUMP_HOST_PROD + 1) % fget s CNT_DUMP_HOST CNT_DUMP_HOST_SLOTS ≠
            fget s CNT_DUMP_HOST CNT_DUMP_HOST_CONS →
          (∃ d, Out.dma ((rd s CNT_DUMP_HOST_ADDR).toNat + 32768 * fget s CNT_DUMP_HOST CNT_DUMP_HOST_PROD) d ∈ t.out) ∧
          fget t CNT_DUMP_HOST CNT_DUMP_HOST_PROD =
            (fget s CNT_DUMP_HOST CNT_DUMP_HOST_PROD + 1) % fget s CNT_DUMP_HOST CNT_DUMP_HOST_SLOTS))
    ∧ (∃ t, exec .cairnSecondEnd s = .next t ∧ t.cnt.agg = [] ∧ t.cnt.suppressed = 0 ∧ Frame [] s t)

/-- The script leaves VALID set where every transaction passes its compare and VALID rises, and else a fault (R301); GSP_VALID that falls,
stays low for 10 ms (every channel is lost and asks for reacquisition), returns, or does not rise (R301); what a search of signals that are on,
a channel's progress, its 200 ms of confirmation and its loss do (R303, R305); a measurement instant of MEAS_RATE reports every channel in
TRACK or beyond, less the delay of its band (R300, R305); a decoded unit of a signal that is on is written to the navigation ring under its
tag, and HEAD advances (R300, R306, R307); a lean cycle that is due wakes the front end and arms a snapshot of 20 ms, and without its
conditions lean operation ends (R314); the band monitor learns its baseline and then shows both rises (R318; how the baseline is a mean is
log entry 160). -/
def Obligations.GnssFrontEndAndChannels : Prop :=
  ∀ (s : State), s.Ready → gnssFitted s = true →
    (∀ reads ok, s.gnss.power = true → (ok = true ↔ ∀ i, i < s.gnss.script.length →
        scriptPass ((s.gnss.script.drop i).headD []) ((reads.drop i).headD []) = true) →
      (ok = true → ∃ t, exec (.gnssFeScript reads true) s = .next t ∧
        t.gnss = { s.gnss with bad := false, gap := false, valid := true,
                               lows := if snapState s = 2 ∧ s.gnss.valid = false then (s.gnss.lowAt, gtNow s) :: s.gnss.lows else s.gnss.lows } ∧
        fbit t GNSS_STATUS GNSS_STATUS_FE_FAULT = false ∧
        t.out = s.gnss.script.foldl (fun o e => .gspi (beNat (slice e 8 (leAt e 0 1))) :: o) s.out)
      ∧ (ok = true → ∃ t, exec (.gnssFeScript reads false) s = .next t ∧ t = { s with out := t.out })
      ∧ (∀ rose, ok = false → ∃ t, exec (.gnssFeScript reads rose) s = .next t ∧
        t.gnss = { s.gnss with bad := true, baseBad := true } ∧ fbit t GNSS_STATUS GNSS_STATUS_FE_FAULT = true)
      ∧ (∀ rose, fbit s GNSS_STATUS GNSS_STATUS_FE_FAULT = true →
        ∃ t, exec (.gnssFeRetry reads rose) s = .next t ∧ exec (.gnssFeScript reads rose) s = .next t))
    ∧ (∀ back : Option Nat, s.gnss.valid = true → ∃ t, exec (.gspValidFall back) s = .next t ∧ t.gnss.valid = back.isSome ∧
        t.gnss.broken = true ∧ t.gnss.lowAt = gtNow s ∧ t.gnss.snapBad = (s.gnss.snapBad || decide (snapState s = 2)) ∧
        (∀ d, back = some d → t.gnss.lows = if snapState s = 2 then (gtNow s, gtNow s + ps32 d) :: s.gnss.lows else s.gnss.lows) ∧
        t.gnss.chan = s.gnss.chan ∧ Frame [] { s with gnss := t.gnss } t)
    ∧ (s.gnss.valid = false → s.gnss.power = true →
      (∃ t, exec .gspValidGap s = .next t ∧
        t.gnss = { s.gnss with gap := true, chan := [], baseBad := true,
                               reacq := s.gnss.reacq ++ (s.gnss.chan.filter (fun c => c.2.st ≠ 0)).map (fun c => (c.2.sys, c.2.sig, c.2.sv)) } ∧
        fbit t GNSS_STATUS GNSS_STATUS_FE_FAULT = true ∧ fget t GNSS_STATUS GNSS_STATUS_TRACKED = 0 ∧
        Frame [GNSS_STATUS] { s with gnss := t.gnss } t)
      ∧ ∃ t, exec .gspValidTimeout s = .next t ∧ t.gnss = { s.gnss with bad := true, baseBad := true } ∧
        fbit t GNSS_STATUS GNSS_STATUS_FE_FAULT = true ∧ Frame [GNSS_STATUS] { s with gnss := t.gnss } t)
    ∧ (s.gnss.gap = true → ∃ t, exec .gspValidRecover s = .next t ∧ t.gnss.gap = false ∧ t.gnss.valid = true ∧
        t.gnss.chan = s.gnss.chan ∧ fbit t GNSS_STATUS GNSS_STATUS_FE_FAULT = s.gnss.bad ∧
        Frame [GNSS_STATUS] { s with gnss := t.gnss } t)
    ∧ (∀ cells c sys sig sv, c < 96 → (chanOf s c).st = 0 → sigOn s sys sig = true →
      (reacqFirst s = [] ∨ (sys, sig, sv) ∈ reacqFirst s) →
      ∃ t, exec (.gnssAcqBatch cells [(c, sys, sig, sv)]) s = .next t ∧ chanOf t c = ⟨1, sys, sig, sv, gtNow s⟩ ∧
        (sys, sig, sv) ∉ t.gnss.reacq ∧ (∀ k, k ≠ c → chanOf t k = chanOf s k) ∧
        (s.ecc.bad = [] → Frame [GNSS_STATUS] { s with gnss := t.gnss } t))
    ∧ (∀ c, 1 ≤ (chanOf s c).st → (chanOf s c).st < 4 →
      ((chanOf s c).st ≠ 1 ∨ gtNow s ≤ (chanOf s c).at_ + 200000000 * 2 ^ 32) →
      ∃ t, exec (.gnssChannelTrack c) s = .next t ∧ chanOf t c = { chanOf s c with st := (chanOf s c).st + 1 } ∧
        (∀ k, k ≠ c → chanOf t k = chanOf s k) ∧ Frame [GNSS_STATUS] { s with gnss := t.gnss } t)
    ∧ (∀ c, (chanOf s c).st = 1 → (chanOf s c).at_ + 200000000 * 2 ^ 32 < gtNow s →
      ∃ t, exec (.gnssChannelTrack c) s = .next t ∧
        t.gnss = { s.gnss with chan := mapSet chanReset c (chanReset c) s.gnss.chan } ∧
        Frame [GNSS_STATUS] { s with gnss := t.gnss } t)
    ∧ (∀ c, (chanOf s c).st ≠ 0 →
      ∃ t, exec (.gnssChannelLoss c) s = .next t ∧ t.gnss.chan = mapSet chanReset c (chanReset c) s.gnss.chan ∧
        t.gnss.reacq = s.gnss.reacq ++ [((chanOf s c).sys, (chanOf s c).sig, (chanOf s c).sv)] ∧
        Frame [GNSS_STATUS] { s with gnss := t.gnss } t)
    ∧ (∀ x reports, gnssOn s = true → x % (gtSecond / measRate s) = 0 →
      ∃ t, exec (.gnssMeasEpoch x reports) s = .next t ∧ t = { s with gnss := t.gnss, fresh := t.fresh } ∧ t.gnss.epoch = x ∧
        t.gnss.broken = false ∧ (∀ m ∈ t.gnss.meas, 2 ≤ (chanOf s m.ch).st) ∧
        (∀ c, 2 ≤ (chanOf s c).st → ∃ m ∈ t.gnss.meas, m.ch = c) ∧
        (∀ c k p d n l lag, reports.find? (fun r => r.1 = c) = some (c, k, p, d, n, l) → 2 ≤ (chanOf s c).st →
          lag = divRound (bandDelay s (sigBand (chanOf s c).sys (chanOf s c).sig) x * 65536) 1000 →
          ⟨c, (chanOf s c).sys, (chanOf s c).sig, (chanOf s c).sv, k - lag, p - lag, d, n, l⟩ ∈ t.gnss.meas) ∧
        (x % gtSecond = 0 → t.gnss.secOf = gtSec x ∧ t.gnss.secMeas = t.gnss.meas))
    ∧ (∀ x reports, gnssOn s = false ∨ x % (gtSecond / measRate s) ≠ 0 → exec (.gnssMeasEpoch x reports) s = .next s)
    ∧ (∀ x sys sig sv ch nbits check flags good cn0 bits h, h = fget s GNSS_NAV_RING GNSS_NAV_RING_HEAD → sigOn s sys sig = true →
      (h + 1) % 2048 ≠ fget s GNSS_NAV_RING GNSS_NAV_RING_TAIL → eccQuiet s = true →
      ∃ t, exec (.gnssNavUnit x sys sig sv ch nbits check flags good cn0 bits none) s = .next t ∧
        fget t GNSS_NAV_RING GNSS_NAV_RING_HEAD = (h + 1) % 2048 ∧
        ldBytes t (0x30000000 + fget s GNSS_NAV_RING GNSS_NAV_RING_BASE + 128 * h) 128 =
          navRecord (sampleTag s (sigBand sys sig) x) sys sig sv ch nbits check flags good cn0 bits ∧
        t.gnss = (if check = 0 then (navHold sys sig sv nbits good bits s).gnss else s.gnss) ∧
        (∀ r, r ≠ GNSS_NAV_RING → reports r = false → rd t r = rd s r))
    ∧ (∀ x sys sig sv ch nbits check flags good cn0 bits, sigOn s sys sig = true →
      (fget s GNSS_NAV_RING GNSS_NAV_RING_HEAD + 1) % 2048 = fget s GNSS_NAV_RING GNSS_NAV_RING_TAIL →
      ∃ t, exec (.gnssNavUnit x sys sig sv ch nbits check flags good cn0 bits none) s = .next t ∧
        t.gnss = (if check = 0 then (navHold sys sig sv nbits good bits s).gnss else s.gnss) ∧ Frame [] { s with gnss := t.gnss } t)
    ∧ (∀ x sys sig sv ch nbits check flags good cn0 bits utc, sigOn s sys sig = false →
      exec (.gnssNavUnit x sys sig sv ch nbits check flags good cn0 bits utc) s = .next s)
    ∧ (∀ l1 l5, gnssOn s = true → 600 ≤ s.gnss.baseN → ∃ t, exec (.gnssBandMonitor l1 l5) s = .next t ∧
        fget t GNSS_STATUS GNSS_STATUS_JAM_L1 = bandRise (bandOn s 0) l1 s.gnss.baseL1 ∧
        fget t GNSS_STATUS GNSS_STATUS_JAM_L5 = bandRise (bandOn s 1) l5 s.gnss.baseL5 ∧
        Frame [GNSS_STATUS] s t)
    ∧ (∀ l1 l5, gnssOn s = true → s.gnss.baseN < 600 →
      (s.gnss.baseBad = true → exec (.gnssBandMonitor l1 l5) s = .next { s with gnss := { s.gnss with baseBad := false } })
      ∧ (s.gnss.baseBad = false → exec (.gnssBandMonitor l1 l5) s = .next { s with gnss := { s.gnss with
          baseN := s.gnss.baseN + 1, baseL1 := s.gnss.baseL1 + l1, baseL5 := s.gnss.baseL5 + l5 } }))
    ∧ (∀ sec reads rose, leanReady s = true → leanDue sec s = true →
      ∃ t, exec (.gnssLeanCycle sec () reads rose) s = .next t ∧ t.gnss.lean = true ∧ t.gnss.power = true ∧ t.gnss.leanAt = sec ∧
        t.gnss.chan = (if s.gnss.lean = true ∧ s.gnss.ephem = true then s.gnss.chan else []) ∧
        (snapState s = 0 → snapState t = 1 ∧ t.gnss.snapAt = some (sec * gtSecond) ∧ t.gnss.snapLen = 20))
    ∧ (∀ sec reads rose, leanReady s = true → leanDue sec s = false → exec (.gnssLeanCycle sec () reads rose) s = .next s)
    ∧ (∀ sec reads rose, leanReady s = false → s.gnss.lean = true →
      ∃ t, exec (.gnssLeanCycle sec () reads rose) s = .next t ∧
        t.gnss = { s.gnss with lean := false, power := true, ephem := false } ∧ Frame [GNSS_STATUS] { s with gnss := t.gnss } t)
    ∧ (s.gnss.lean = true →
      (∃ t, exec (.gnssEphemerisWindow true) s = .next t ∧ t = { s with gnss := { s.gnss with ephem := true, power := true } })
      ∧ ∃ t, exec (.gnssEphemerisWindow false) s = .next t ∧
        t.gnss = { s.gnss with ephem := false, power := false, valid := false, chan := [],
                               lowAt := if s.gnss.valid = true then gtNow s else s.gnss.lowAt } ∧
        Frame [GNSS_STATUS] { s with gnss := t.gnss } t)

/-- A solution of enough satellites, of those measured on its second or found by its snapshot and within 5σ, posts its offset and its bound
(R308, R313) and gives REF8 a sample; one that leaves the acceptance window raises JUMP and keeps the prediction (R316, R317), and a
Custodian's ACCEPT ends the jump (R317); without a solution for 2 s REF8 loses its activity (R315). The end of a survey that may end posts the
position, and any other does nothing (R310); the pulse rises once for each second on the sample edge nearest it (R312), and its message
carries second, quantisation error, bound and offset (R312); a snapshot is armed, refused when late or busy, captured, exported and released
(R313). -/
def Obligations.GnssTimeAndSnapshots : Prop :=
  ∀ (i : Initiator) (s : State), s.Ready → gnssFitted s = true →
    (∀ sec dAll d0 sigma residuals systems err d nsv used, gnssOn s = true → s.tsu.setAt ≤ sec * gtSecond →
      (∀ x ∈ systems, (x.2 - dAll).natAbs ≤ fget s GNSS_SOL_CFG GNSS_SOL_CFG_SYS_TOL * 65536) →
      used = (solSats s sec residuals).filter (raimKeeps sigma) →
      nsv = (used.filter (fun x => !(fget s GNSS_STATUS GNSS_STATUS_SYS_EXCL).testBit x.1)).length →
      d = d0 + scaleLag s * (1000000000 * 65536) →
      (fget s GNSS_SOL_CFG GNSS_SOL_CFG_MIN_SV ≤ nsv →
        ∃ t, exec (.gnssSolution sec dAll d0 sigma residuals systems err) s = .next t ∧ solValid t = true ∧ t.gnss.solAt = sec ∧
          t.gnss.nsv = nsv ∧ t.gnss.solD = d ∧ t.gnss.solB = solBound s sigma ∧ fint t GNSS_SOL GNSS_SOL_OFFSET = satI 48 d ∧
          fget t GNSS_SOL GNSS_SOL_BOUND = min (solBound s sigma) 65535 ∧ t.tsu.now = s.tsu.now ∧
          (2 ≤ slotSt s 8 → (tsuUnset s = true ∨ s.gnss.solSet = false ∨
              sampleFits s 8 (sec * gtSecond) (sampleOffset s 8 d) (solBound s sigma) = true) →
            (refSl t 8).p.map (·.e) = some (sampleOffset s 8 d) ∧ fbit t GNSS_STATUS GNSS_STATUS_JUMP = false) ∧
          (2 ≤ slotSt s 8 → tsuUnset s = false → s.gnss.solSet = true → fbit s GNSS_STATUS GNSS_STATUS_JUMP = false →
            sampleFits s 8 (sec * gtSecond) (sampleOffset s 8 d) (solBound s sigma) = false →
            fbit t GNSS_STATUS GNSS_STATUS_JUMP = true ∧ (refSl t 8).p = (refSl s 8).p ∧ slotSt t 8 = slotSt s 8))
      ∧ (nsv < fget s GNSS_SOL_CFG GNSS_SOL_CFG_MIN_SV → fbit s GNSS_STATUS GNSS_STATUS_JUMP = false →
        ∃ t, exec (.gnssSolution sec dAll d0 sigma residuals systems err) s = .next t ∧
          t.gnss = { s.gnss with snapFix := if fromSnap s sec = true then none else s.gnss.snapFix } ∧
          Frame [] { s with gnss := t.gnss } t))
    ∧ (solValid s = true →
      ∃ t, exec .gnssNoSol s = .next t ∧ solValid t = false ∧ (2 ≤ slotSt s 8 → (refSl t 8).act = false) ∧
        slotSt t 8 = (if slotSt s 8 = 3 ∨ slotSt s 8 = 4 then 5 else slotSt s 8))
    ∧ (∀ sys x, x = fget s GNSS_STATUS GNSS_STATUS_SYS_EXCL → x.testBit sys = true →
      ∃ t, exec (.gnssSysExclusionEnd sys) s = .next t ∧
        (∀ k, (fget t GNSS_STATUS GNSS_STATUS_SYS_EXCL).testBit k = (x.testBit k && decide (k ≠ sys))) ∧ Frame [GNSS_STATUS] s t)
    ∧ (∀ x y z : Int, ∀ sd, surveyMayEnd s sd = false → exec (.gnssSurveyDone x y z sd) s = .next s)
    ∧ (∀ x y z : Int, ∀ sd, surveyMayEnd s sd = true →
      ∃ t, exec (.gnssSurveyDone x y z sd) s = .next t ∧ rd t (GNSS_POS 0) = BitVec.ofInt 64 x ∧ rd t (GNSS_POS 1) = BitVec.ofInt 64 y ∧
        rd t (GNSS_POS 2) = BitVec.ofInt 64 z ∧ t.gnss = { s.gnss with surveying := false, timeOnly := true } ∧
        fbit t GNSS_STATUS GNSS_STATUS_ACC_NOT_MET = decide (fget s GNSS_SURVEY GNSS_SURVEY_SURVEY_ACC < sd) ∧
        Frame [GNSS_STATUS, GNSS_POS 0, GNSS_POS 1, GNSS_POS 2] { s with gnss := t.gnss } t)
    ∧ (regCheck i (roleOf i s) GNSS_SURVEY (withBits (rd s GNSS_SURVEY) [(GNSS_SURVEY_RESTART, 1)]) s = .ok →
      ∃ t, exec (.gnssSurveyRestart i) s = .next t ∧
        t.gnss = { s.gnss with surveying := true, surveyAt := 0, timeOnly := false, posSince := 0 } ∧
        fbit t GNSS_STATUS GNSS_STATUS_POS_SUSPECT = false ∧ fbit t GNSS_STATUS GNSS_STATUS_ACC_NOT_MET = false)
    ∧ (∀ r rs, regCheck i (roleOf i s) GNSS_CTL (withBits (rd s GNSS_CTL) [(GNSS_CTL_ACCEPT, 1)]) s = .ok →
      (refSl s 8).refused = r :: rs →
      ∃ t, exec (.gnssCtlAccept i) s = .next t ∧ fbit t GNSS_STATUS GNSS_STATUS_JUMP = false ∧ (refSl t 8).p = some r ∧
        (refSl t 8).accepted = r :: rs ∧ (refSl t 8).refused = [] ∧ t.tsu.now = s.tsu.now)
    ∧ (∀ sec (q : Int), ∃ t, exec (.gnssTp sec q) s = .next t ∧ t.gnss = { s.gnss with tpSeq := s.gnss.tpSeq + 1 } ∧
        rd t (GNSS_TP_MSG 0) = BitVec.ofNat 64 sec ∧
        rd t (GNSS_TP_MSG 1) = BitVec.ofNat 64 (unsgn 32 q + 2 ^ 32 * min s.gnss.solB 0xFFFFFFFF) ∧
        rd t (GNSS_TP_MSG 2) = BitVec.ofInt 64 s.gnss.solD ∧
        Frame [GNSS_TP_MSG 0, GNSS_TP_MSG 1, GNSS_TP_MSG 2, GNSS_TP_MSG 3] { s with gnss := t.gnss } t)
    ∧ (pulseOn s = true → pulseHere s = true → (∀ a, s.gnss.pulseAt = some a → a + gtSecond / 2 ≤ gtNow s) →
      exec .gnssTimePulse s = .next { s with gnss := { s.gnss with pulses := s.gnss.pulses + 1, pulseAt := some (gtNow s) } })
    ∧ (pulseOn s = false ∨ pulseHere s = false → exec .gnssTimePulse s = .next s)
    ∧ (∀ v w start, w = withBits v [(GNSS_SNAP_CTL_ARM, 1)] → regCheck i (roleOf i s) GNSS_SNAP_CTL w s = .ok →
      getF GNSS_SNAP_CTL_RELEASE v = 0 → start = gtOf (rd s GNSS_SNAP_SEC).toNat (rd s GNSS_SNAP_SUB).toNat →
      ∃ t, exec (.gnssSnapCtlArm i v) s = .next t ∧
        (snapState s = 0 → getF GNSS_SNAP_CTL_SRC v = 0 → s.gnss.lean = false → gtNow s + 10 ^ 6 * 2 ^ 32 ≤ start →
          snapState t = 1 ∧ t.gnss = { s.gnss with snapAt := some start, snapTrig := none, snapDest := getF GNSS_SNAP_CTL_DEST v,
                                                   snapBands := getF GNSS_SNAP_CTL_BANDS v,
                                                   snapLen := getF GNSS_SNAP_CTL_LEN_MS v, snapBad := false, snapFix := none }) ∧
        (snapState s = 0 → getF GNSS_SNAP_CTL_SRC v = 1 → snapState t = 1 ∧ t.gnss.snapAt = none ∧
          t.gnss.snapTrig = some (getF GNSS_SNAP_CTL_TRIG_SEL v)) ∧
        (snapState s = 0 → getF GNSS_SNAP_CTL_SRC v = 0 → start < gtNow s + 10 ^ 6 * 2 ^ 32 →
          snapState t = 0 ∧ fget t GNSS_SNAP_STATUS GNSS_SNAP_STATUS_RESULT = 1 ∧ t.gnss = s.gnss) ∧
        (snapState s ≠ 0 → snapState t = snapState s ∧ fget t GNSS_SNAP_STATUS GNSS_SNAP_STATUS_RESULT = 2 ∧ t.gnss = s.gnss))
    ∧ (regCheck i (roleOf i s) GNSS_SNAP_CTL (withBits (rd s GNSS_SNAP_CTL) [(GNSS_SNAP_CTL_RELEASE, 1)]) s = .ok →
      getF GNSS_SNAP_CTL_ARM (rd s GNSS_SNAP_CTL) = 0 → snapState s = 3 →
      ∃ t, exec (.gnssSnapCtlRelease i) s = .next t ∧ snapState t = 0 ∧ t.gnss = s.gnss ∧
        Frame [GNSS_SNAP_CTL, GNSS_SNAP_STATUS] s t)
    ∧ (∀ a edge x, s.gnss.snapAt = some a → snapState s = 1 → x = sampleTag s (if snapBand s 0 then 0 else 1) edge → a ≤ x →
      ∃ t, exec (.gnssSnapCaptureStart edge) s = .next t ∧ snapState t = 2 ∧
        fget t GNSS_SNAP_STATUS GNSS_SNAP_STATUS_FIRST_OFS = min ((x - a) * 1000 / 2 ^ 32) 65535 ∧
        t.gnss = { s.gnss with snapBad := !s.gnss.valid, snapEdge := edge, lows := [], baseBad := true } ∧ Frame [GNSS_SNAP_STATUS] { s with gnss := t.gnss } t)
    ∧ (∀ data sats, snapState s = 2 → eccQuiet s = true →
      ∃ t, exec (.gnssSnapDone data sats) s = .next t ∧ snapState t = (if s.gnss.snapDest = 1 then 3 else 0) ∧
        fget t GNSS_SNAP_STATUS GNSS_SNAP_STATUS_RESULT = (if s.gnss.snapBad then 3 else 0) ∧ t.gnss.snapAt = none ∧
        (∀ k b, (snapBytes s (data.take 0x400000))[k]? = some b → ldB t (0x60000000 + k) = b) ∧
        (s.gnss.snapDest ≠ 1 → fget s GNSS_SOL_CFG GNSS_SOL_CFG_MIN_SV ≤ sats →
          t.gnss.snapFix = s.gnss.snapAt.map (fun a => (gtSec a, sats))) ∧
        (s.gnss.snapDest ≠ 1 → fget t GNSS_SNAP_STATUS GNSS_SNAP_STATUS_SATS = min sats 255) ∧
        ∀ a, (a < 0x60000000 ∨ 0x60000000 + min data.length 0x400000 ≤ a) → ldB t a = ldB s a)

/-- OPEN answers a nonce and a handshake ID, PROVE with the proof of R443 opens a session under the derived key, a wrong proof is
AUTH_FAIL (R443, R444); expiries, CLOSE and idleness end handshakes, locks and sessions (R443, R444, R446); SUBSCRIBE, REGPATH_BIND and
notifications (R452, R453); rings and HSPI carry the same messages (R454, R455); a message that fails a check before the command is
dropped and counted (R448). -/
def Obligations.SessionsAndTransports : Prop :=
  ∀ (s : State), s.Ready → harWaiting 0x0402 s = [] →
    (∀ tid seq slot cn, tidKind tid = 1 → harServed tid s = true → harLocked 1 s = false → sessionOf s 0 = none → seq < 2 ^ 64 →
      slot < 256 → cn.length = 32 → s.har.shakes.length < 16 → s.har.sessions.length ≤ 16 →
      ∃ t n dn, exec (.openSession tid (harMsg [] 0 0 seq 0x0101 0 (leBytes 1 slot ++ zeros 7 ++ cn))) s = .next t ∧
        dn.length = 32 ∧ n ≠ 0 ∧ sidUsed n s = false ∧ s.fresh < t.fresh ∧ t.har.sessions = s.har.sessions ∧
        t.har.shakes = s.har.shakes ++ [{ hid := n, slot := slot, cn := cn, dn := dn, tid := tid }] ∧
        t.out = .msg tid (harMsg [] 1 n seq 0x0101 0 dn) :: s.out)
    ∧ (∀ tid seq b, tidKind tid = 1 → harServed tid s = true → harLocked 1 s = true → sessionOf s 0 = none → seq < 2 ^ 64 →
      ∃ t, exec (.openSession tid (harMsg [] 0 0 seq 0x0101 0 b)) s = .next t ∧ t.har = s.har ∧
        t.out = .msg tid (harMsg [] 1 0 seq 0x0101 12 (failBody 0 noDetail)) :: s.out ∧ Frame [] s t)
    ∧ (∀ h seq role via k b, s.har.shakes.find? (fun y => y.hid = h.hid) = some h → 0 < h.hid → h.hid < 2 ^ 32 →
      sessionOf s h.hid = none → tidKind h.tid = 1 → harServed h.tid s = true → seq < 2 ^ 64 → b.length ≤ 65456 →
      mapGet (fun _ => none) s.har.keys h.slot = some (role, via, k) →
      (s.ecc.bad = [] → b = hmac256 k (ascii "GT98 HARNESS PROVE" ++ h.cn ++ h.dn ++ h.tid) → via.testBit 0 = true → s.har.sessions.length < 16 →
        s.har.shakes.length ≤ 16 →
        ∃ t n key, exec (.prove h.tid (harMsg [] 0 h.hid seq 0x0102 0 b)) s = .next t ∧ n ≠ 0 ∧ sidUsed n s = false ∧
          key = hkdf (h.cn ++ h.dn) k (ascii "GT98 Harness" ++ h.tid) 32 ∧
          t.har.sessions = s.har.sessions ++ [{ sid := n, role := role, tid := h.tid, key := key,
                                                 high := 0, win := 0, kept := [], wait := [], busy := none,
                                                 evMask := 0, flags := 0, ntfSeq := 0, openSec := nowSec s }] ∧
          t.har.shakes = s.har.shakes.filter (fun y => y.hid ≠ h.hid) ∧
          t.out = .msg h.tid (harMsg key 1 n seq 0x0102 0 (leBytes 1 role ++ zeros 3 ++
            leBytes 4 (fget s HOST_HARNESS_CFG HOST_HARNESS_CFG_IDLE_S) ++ leBytes 8 (rd s SYS_SERIAL).toNat)) :: s.out)
      ∧ ((b ≠ hmac256 k (ascii "GT98 HARNESS PROVE" ++ h.cn ++ h.dn ++ h.tid) ∨ (keyMeet (68 + h.slot) s).1 = true) →
        ∃ t, exec (.prove h.tid (harMsg [] 0 h.hid seq 0x0102 0 b)) s = .next t ∧ t.har.sessions = s.har.sessions ∧
          t.out.head? = some (.msg h.tid (harMsg [] 1 h.hid seq 0x0102 4 (failBody 0 noDetail))) ∧
          (mapGet (fun _ => []) s.har.fails 1 = [] → t.har.shakes = s.har.shakes)))
    ∧ (∀ hid, ∃ t, exec (.handshakeExpiry hid) s = .next t ∧ t.har.shakes = s.har.shakes.filter (fun x => x.hid ≠ hid) ∧
        t.har.sessions = s.har.sessions ∧ Frame [HOST_HARNESS_STATUS] { s with har := t.har } t)
    ∧ (∀ n, 1 ≤ n → n ≤ 3 → ∃ t, exec (.lockoutExpiry n) s = .next t ∧
        (∀ k, 1 ≤ k → k ≤ 3 → harLocked k t = (harLocked k s && decide (k ≠ n))) ∧
        Frame [HOST_HARNESS_STATUS] { s with har := { s.har with lockEnd := t.har.lockEnd } } t)
    ∧ (∀ x, sessionOf s x.sid = some x → tidKind x.tid = 1 →
      ∃ t, exec (.sessionIdle x.sid) s = .next t ∧ t.har.sessions = s.har.sessions.filter (fun y => y.sid ≠ x.sid) ∧
        t.out = .msg x.tid (harMsg x.key 2 x.sid (x.ntfSeq + 1) 0x01F0 0 (leBytes 4 1 ++ zeros 4)) :: s.out ∧
        (∀ f, f ∈ [HOST_REGPATH_PCIE_SESSION, HOST_REGPATH_HSPI_SESSION] →
          fget t HOST_REGPATH f = if fget s HOST_REGPATH f = x.sid then 0 else fget s HOST_REGPATH f) ∧
        Frame [HOST_HARNESS_STATUS, HOST_REGPATH] { s with har := { s.har with sessions := t.har.sessions } } t)
    ∧ (∀ x seq n, tidKind x.tid = 1 → 1 ≤ x.role → phase s ≠ 4 → Request s x seq 0x0103 (leBytes 4 n ++ zeros 4) → n < 2 ^ 32 →
      (n = 0 ∨ n = x.sid →
        ∃ t, exec (.closeSession x.tid (reqMsg x seq 0x0103 (leBytes 4 n ++ zeros 4))) s = .next t ∧ Replied t x seq 0x0103 [] ∧
          t.har.sessions = s.har.sessions.filter (fun y => y.sid ≠ x.sid))
      ∧ (∀ y, 3 ≤ x.role → n ≠ 0 → n ≠ x.sid → sessionOf s n = some y → tidKind y.tid = 1 →
        ∃ t, exec (.closeSession x.tid (reqMsg x seq 0x0103 (leBytes 4 n ++ zeros 4))) s = .next t ∧ Replied t x seq 0x0103 [] ∧
          sessionOf t n = none ∧ (sessionOf t x.sid).isSome = true ∧
          Out.msg y.tid (harMsg y.key 2 n (y.ntfSeq + 1) 0x01F0 0 (leBytes 4 2 ++ zeros 4)) ∈ t.out))
    ∧ (∀ x seq m, m.length = 32 → ∀ fl, fl < 2 ^ 32 → tidKind x.tid = 1 → 1 ≤ x.role → phase s ≠ 4 →
      Request s x seq 0x0105 (m ++ leBytes 4 fl ++ zeros 4) →
      ∃ t y, exec (.subscribe x.tid (reqMsg x seq 0x0105 (m ++ leBytes 4 fl ++ zeros 4))) s = .next t ∧ sessionOf t x.sid = some y ∧
        y.evMask = leNat m ∧ y.flags = fl ∧ Looked s t x seq 0x0105 (leBytes 8 (x.ntfSeq + 1)))
    ∧ (∀ x seq k f, (k, f) ∈ [(2, HOST_REGPATH_PCIE_SESSION), (3, HOST_REGPATH_HSPI_SESSION)] → tidKind x.tid = k → 2 ≤ x.role →
      phase s ≠ 4 → s.har.hspi.length < 8 → Request s x seq 0x0107 [] →
      ∃ t, exec (.regpathBind x.tid (reqMsg x seq 0x0107 [])) s = .next t ∧ fget t HOST_REGPATH f = x.sid)
    ∧ (∀ x seq, x.tid = hspiTid → 1 ≤ x.role → phase s ≠ 4 → s.har.hspi.length < 8 → Request s x seq 0x0104 [] →
      ∃ t, exec (.ping x.tid (reqMsg x seq 0x0104 [])) s = .next t ∧ t.har.hspi = s.har.hspi ++ [(false, rspMsg x seq 0x0104 0 [])] ∧
        t.out = s.out ∧ exec (.hspiWriteMsg (reqMsg x seq 0x0104 [])) s = .next t)
    ∧ (∀ x seq k r a cap ps, k < 4 → x.tid = ringTid k → 1 ≤ x.role → phase s ≠ 4 → r = ringOf s k → r.wait = [] → 1 ≤ r.size →
      r.posted = (a, cap) :: ps → 48 ≤ cap → Request s x seq 0x0104 [] →
      ∃ t, exec (.ping x.tid (reqMsg x seq 0x0104 [])) s = .next t ∧
        ringOf t k = { r with posted := ps, rspProd := (r.rspProd + 1) % 2 ^ 32 } ∧
        t.out = .dma (r.rspBase + 16 * (r.rspProd % r.size) + 8) (leBytes 4 48) :: .dma a (rspMsg x seq 0x0104 0 []) :: s.out)
    ∧ (∀ k prod m r, k < 4 → r = ringOf s k → leAt m 16 2 = 0x0104 → prod < 2 ^ 32 →
      (r.enable = true → 1 ≤ r.size → r.reqCons < 2 ^ 32 → prod = (r.reqCons + 1) % 2 ^ 32 →
        ∃ t, exec (.ringReqProdWrite k prod none [m]) s = .next t ∧
          exec (.ping (ringTid k) m) (ringSet k { r with reqProd := prod, reqCons := prod } s) = .next t)
      ∧ (∀ u, r.enable = false → u.enable = true → u.size ∈ [16, 32, 64, 128, 256, 512, 1024] → r.reqCons = prod →
        ∃ t, exec (.ringReqProdWrite k prod (some u) []) s = .next t ∧ t.out = s.out ∧
          ringOf t k = { r with reqBase := u.reqBase, rspBase := u.rspBase, size := u.size, enable := true, reqProd := prod }))
    ∧ (∀ k cons bufs r, k < 4 → r = ringOf s k → r.wait = [] → 1 ≤ r.size → cons < 2 ^ 32 →
      ∃ t, exec (.ringRspConsWrite k cons bufs) s = .next t ∧ ringOf t k = { r with rspCons := cons, posted := r.posted ++ bufs } ∧
        t.out = s.out)
    ∧ (∀ k r ntf m ws, k < 4 → r = ringOf s k → r.wait = (ntf, m) :: ws → r.posted = [] → 1 ≤ r.size →
      ∃ t, exec (.responseBufferTimeout k) s = .next t ∧ ringOf t k = { r with wait := ws } ∧ t.out = s.out ∧
        Frame [] { s with har := { s.har with rings := t.har.rings } } t)
    ∧ (hspiFull s = true → ∀ m, exec (.hspiWriteMsg m) s = .next s)
    ∧ (∃ t, exec .hspiStatus s = .next t ∧ t = { s with busOut := t.busOut } ∧
        mapGet (fun _ => 0) t.busOut (initIx .hspi) = BitVec.ofNat 64 ((if s.har.hspi = [] then 0 else 1) +
          (if hspiFull s then 2 else 0) + (if harLocked 3 s then 4 else 0)))
    ∧ (∀ ntf m ms, s.har.hspi = (ntf, m) :: ms →
      ∃ t, exec .hspiReadMsg s = .next t ∧ t.har.hspi = ms ∧ t.out = .msg hspiTid m :: s.out ∧
        mapGet (fun _ => 0) t.busOut (initIx .hspi) = BitVec.ofNat 64 m.length)
    ∧ (∀ a v, (∃ t, exec (.hspiRegWr a v) s = .next t ∧ exec (.registerWrite .hspi a v) s = .next t) ∧
      (roleOf .hspi s = 0 → ∃ t, exec (.hspiRegRd a) s = .next t ∧ mapGet (fun _ => 0) t.busOut (initIx .hspi) = 0) ∧
      (a = SYS_ID → roleOf .hspi s ≠ 0 →
        ∃ t, exec (.hspiRegRd a) s = .next t ∧ mapGet (fun _ => 0) t.busOut (initIx .hspi) = rd s SYS_ID))
    ∧ (∀ tid m, harServed tid s = true → (m.length < 48 ∨ leAt m 0 2 ≠ 0x4748 ∨ leAt m 3 1 ≠ 0) →
      mapGet (fun _ => 0) s.cnt.live (UC_HARNESS 2) + 1 < 2 ^ 48 →
      ∃ t, exec (.harnessBadMessage tid m) s = .next t ∧ t.out = s.out ∧ Frame [] s t ∧
        mapGet (fun _ => 0) t.cnt.live (UC_HARNESS 2) = mapGet (fun _ => 0) s.cnt.live (UC_HARNESS 2) + 1)
    ∧ ((s.har.sessions.map (·.sid)).Nodup →
      (s.evc.ntf = 0 → exec .ntfEventTick s = .next s)
      ∧ (∃ t, exec .ntfEventTick s = .next t ∧ ∀ x ∈ s.har.sessions, tidKind x.tid = 1 → x.evMask &&& s.evc.ntf.toNat ≠ 0 →
        Out.msg x.tid (harMsg x.key 2 x.sid (x.ntfSeq + 1) 0x09F0 0 (leBytes 8 (nowSec s) ++ leBytes 8 (gtSub (gtNow s)) ++
          leBytes 32 (x.evMask &&& s.evc.ntf.toNat))) ∈ t.out)
      ∧ (∀ h i, s.ecc.bad = [] → h = fget s CNT_CAIRN_HEAD CNT_CAIRN_HEAD_HEAD → i = s.har.cairnAt → i < h → h ≤ i + 64 →
        ∃ t, exec .ntfCairnBatch s = .next t ∧ t.har.cairnAt = h ∧ ∀ x ∈ s.har.sessions, tidKind x.tid = 1 → x.flags % 2 = 1 →
          Out.msg x.tid (harMsg x.key 2 x.sid (x.ntfSeq + 1) 0x09F1 0 (cairnEntries s i (h - i))) ∈ t.out))
    ∧ (∃ t, exec .statusPageRewrite s = .next t ∧ t = { s with har := { s.har with pageSeq := s.har.pageSeq + 1, page := t.har.page } } ∧
        slice t.har.page 0 8 = leBytes 8 (2 * (s.har.pageSeq + 1)) ∧ slice t.har.page 8 8 = leBytes 8 (nowSec s) ∧
        slice t.har.page 16 8 = leBytes 8 (gtSub (gtNow s)) ∧ slice t.har.page 24 4 = leBytes 4 (boundNs s) ∧
        slice t.har.page 28 4 = leBytes 1 (fget s SERVO_STATE SERVO_STATE_STATE) ++ leBytes 1 (selected s) ++
          leBytes 1 (pairRole s) ++ leBytes 1 (phase s) ∧
        slice t.har.page 40 4 = leBytes 4 (fget s CNT_CAIRN_HEAD CNT_CAIRN_HEAD_HEAD))

/-- PING, SESSIONS, TIME_GET, REF_STATUS and the reads of registers, windows, flash, counters and log answer what R450 and R451 say and
change nothing; a read whose response the transport cannot carry is BAD_LENGTH (R440); a session below the least role of R450 gets
ROLE_DENIED and nothing changes; a kept request is answered again without being executed, a refused SEQ is REPLAY (R445). -/
def Obligations.LooksRolesAndRepeats : Prop :=
  ∀ (x : Session) (seq : Nat) (b : List Byte) (s : State), s.Ready → tidKind x.tid = 1 →
    (∀ cmd c body, (cmd, c, body) ∈ [(0x0104, Instr.ping, []),
        (0x0106, .sessions, leBytes 4 s.har.sessions.length ++ zeros 4 ++ s.har.sessions.flatMap (fun y =>
          leBytes 4 y.sid ++ leBytes 1 y.role ++ leBytes 1 (tidKind y.tid) ++ zeros 2 ++ leBytes 8 y.openSec)),
        (0x0401, .timeGet, leBytes 8 (nowSec s) ++ leBytes 8 (gtSub (gtNow s)) ++ leBytes 8 (capStatus s).toNat),
        (0x0407, .refStatus, (REFS_STATUS :: (List.range 20).map REFS_SLOT_STATE).flatMap (fun a =>
          leBytes 8 (regView .harness a s).toNat))] →
      1 ≤ x.role → phase s ≠ 4 → Request s x seq cmd [] →
      ∃ t, exec (c x.tid (reqMsg x seq cmd [])) s = .next t ∧ Looked s t x seq cmd body)
    ∧ (1 ≤ x.role → phase s ≠ 4 →
      (∀ as : List Nat, 1 ≤ as.length → as.length ≤ 1024 →
        (∀ a ∈ as, inSpan a = true ∧ a % 8 = 0 ∧ absentAddr s.variant a = false) →
        b = leBytes 4 as.length ++ zeros 4 ++ as.flatMap (fun a => leBytes 4 a ++ zeros 4) → Request s x seq 0x0201 b →
        ∃ t, exec (.regRead x.tid (reqMsg x seq 0x0201 b)) s = .next t ∧ Looked s t x seq 0x0201 (leBytes 4 as.length ++ zeros 4 ++
          as.flatMap (fun a => leBytes 8 (if a = TSU_NOW_LO then capLo s else if a = TSU_NOW_HI then capHi s
            else if a = TSU_CAP_STATUS then capStatus s else if (regRow a).isNone then 0 else regView .harness a s).toNat)))
      ∧ (∀ a n o k ro, windowOf a = some (o, k, ro) → a + n ≤ o + k → a % 8 = 0 → n % 8 = 0 → n ≤ 65528 →
        rangeAbsent s.variant a n = false → b = leBytes 4 a ++ leBytes 4 n → Request s x seq 0x0203 b →
        ∃ t, exec (.memRead x.tid (reqMsg x seq 0x0203 b)) s = .next t ∧
          (s.ecc.bad = [] → n ≤ 65456 →
            Looked s t x seq 0x0203 ((List.range (n / 8)).flatMap (fun i => leBytes 8 (winView .harness (a + 8 * i) s).toNat))) ∧
          (s.ecc.bad = [] → 65456 < n → Denied s t x seq 0x0203 2 0 65456) ∧
          (∀ o, firstUe a n s = some o → n ≤ 65456 →
            t.out.head? = some (.msg x.tid (rspMsg x seq 0x0203 14 (failBody 0 o)))))
      ∧ (∀ off n, off < 2 ^ 32 → n ≤ 65528 → s.nvm.op = none → b = leBytes 4 off ++ leBytes 4 n → Request s x seq 0x0801 b →
        ∃ t, exec (.nvmRead x.tid (reqMsg x seq 0x0801 b)) s = .next t ∧
          (n ≤ 65456 → Looked s t x seq 0x0801 (flashRead s off n)) ∧ (65456 < n → Denied s t x seq 0x0801 2 0 65456))
      ∧ (∀ i n, s.ecc.bad = [] → i + n ≤ 1600 → b = leBytes 2 i ++ leBytes 2 n ++ zeros 4 → Request s x seq 0x0902 b →
        ∃ t, exec (.cntRead x.tid (reqMsg x seq 0x0902 b)) s = .next t ∧ Looked s t x seq 0x0902 ((List.range n).flatMap (fun k =>
          leBytes 8 (mapGet (fun _ => 0) s.cnt.live (i + k)))))
      ∧ (∀ f n h, s.ecc.bad = [] → h = fget s CNT_CAIRN_HEAD CNT_CAIRN_HEAD_HEAD → h ≤ f + 4096 → f < 2 ^ 32 → n ≤ 2045 →
        b = leBytes 4 f ++ leBytes 4 n → Request s x seq 0x0903 b →
        ∃ t, exec (.logRead x.tid (reqMsg x seq 0x0903 b)) s = .next t ∧ Looked s t x seq 0x0903 (leBytes 4 h ++ zeros 4 ++
          (List.range (min (f + n) h - f)).flatMap (fun k => ldBytes s (0x78000000 + 32 * ((f + k) % 4096)) 32))))
    ∧ (∀ cmd c role, (cmd, c, role) ∈ [(0x0107, Instr.regpathBind, 2), (0x0202, .regWrite, 2), (0x0204, .memWrite, 2), (0x0301, .tblCfg, 2),
        (0x0302, .tblPut, 2), (0x0303, .tblDel, 2), (0x0304, .tblFlip, 2), (0x0305, .topoLoad, 2), (0x0306, .topoSwap, 2),
        (0x0402, .timeSet, 3), (0x0403, .freqSet, 3), (0x0404, .slew, 3), (0x0405, .leapSet, 3), (0x0406, .refCmd, 3),
        (0x0501, .svcAddr, 2), (0x0502, .ntpProf, 2), (0x0503, .ntsKey, 3), (0x0504, .keIdent, 3), (0x0505, .ptpCancel, 3),
        (0x0601, .gnssSnap, 2), (0x0602, .gnssAccept, 3), (0x0603, .gnssSurvey, 3), (0x0604, .snapRelease, 2), (0x0701, .pairJoin, 3),
        (0x0702, .pairYield, 3), (0x0703, .pairPart, 3), (0x0704, .belayFrame, 3), (0x0802, .nvmErase, 3), (0x0803, .nvmWrite, 3),
        (0x0804, .nvmVerify, 3), (0x0805, .nvmActivate, 3), (0x0806, .restart, 3), (0x0807, .bivRelease, 3), (0x0808, .otpOwner, 3),
        (0x0809, .restEnter, 3), (0x080A, .restExit, 3), (0x0904, .dumpCfg, 2)] →
      x.role < role → cmdLayout cmd b s = none → Request s x seq cmd b →
      ∃ t, exec (c x.tid (reqMsg x seq cmd b)) s = .next t ∧ Denied s t x seq cmd 6 0 noDetail)
    ∧ (∀ cmd c, (cmd, c) ∈ [(0x0104, Instr.ping), (0x0202, .regWrite), (0x0402, .timeSet), (0x0803, .nvmWrite)] →
      harServed x.tid s = true → sessionOf s x.sid = some x → 0 < x.sid → x.sid < 2 ^ 32 → x.key ≠ [] → seq < 2 ^ 64 → b.length ≤ 65456 →
      harWaiting 0x0402 s = [] →
      (∀ r, x.kept.find? (fun k => k.2.1 = reqMsg x seq cmd b) = some (seq, reqMsg x seq cmd b, some r) →
        exec (c x.tid (reqMsg x seq cmd b)) s = .next { s with out := .msg x.tid r :: s.out })
      ∧ (x.kept.find? (fun k => k.2.1 = reqMsg x seq cmd b) = some (seq, reqMsg x seq cmd b, none) →
        exec (c x.tid (reqMsg x seq cmd b)) s = .next s)
      ∧ (x.kept.find? (fun k => k.2.1 = reqMsg x seq cmd b) = none → seqFresh x seq = false →
        ∃ t, exec (c x.tid (reqMsg x seq cmd b)) s = .next t ∧ t.har = s.har ∧ Denied s t x seq cmd 5 0 noDetail))

/-- In a session of sufficient role, outside Bivouac mode, each command of R450 that changes the device does what its own rule says: register and
memory writes (R451), tables and banks (R109 to R116), time (R42 to R57), references (R341), services (R175 to R247), GNSS (R310 to
R317), the pair (R385, R395), flash and owner fields (R408, R420, R421), restarts (R422, R439), Rest (R82, R85), counters (R495, R497); its
OK answer follows at once, or for what R447 names at the end. -/
def Obligations.HarnessCommandsAct : Prop :=
  ∀ (x : Session) (seq : Nat) (b : List Byte) (s : State), s.Ready → tidKind x.tid = 1 → phase s ≠ 4 →
    (2 ≤ x.role →
      (∀ a mask val v row, b = leBytes 4 1 ++ zeros 4 ++ leBytes 4 a ++ zeros 4 ++ leBytes 8 (BitVec.toNat mask) ++
          leBytes 8 (BitVec.toNat val) → regRow a = some row → inSpan a = true → a % 8 = 0 → absentAddr s.variant a = false →
        ownCopy a = false → v = (rd s a &&& rwBits a &&& ~~~ mask) ||| (val &&& mask) → regCheck .harness x.role a v s = .ok →
        (rwlLocked s = true → maskRwl ⟨a, mask, val⟩ = false) →
        ownEffect .harness a v s (storePlain a v s) = none → Request s x seq 0x0202 b →
        ∃ t, exec (.regWrite x.tid (reqMsg x seq 0x0202 b)) s = .next t ∧ Replied t x seq 0x0202 [] ∧
          Frame [a] { s with har := { s.har with sessions := t.har.sessions } } t ∧
          ∀ y ∈ row.fields, getF y.f (rd t a) = match y.acc with
            | .rw | .rwl => getF y.f v
            | .rw1c => getF y.f (rd s a &&& ~~~ v)
            | _ => getF y.f (rd s a))
      ∧ (∀ rs : List Setting, 3 ≤ x.role → 1 ≤ rs.length → rs.length ≤ 512 → b = leBytes 4 rs.length ++ zeros 4 ++ rs.flatMap (fun r =>
          leBytes 4 r.addr ++ zeros 4 ++ leBytes 8 r.mask.toNat ++ leBytes 8 r.val.toNat) →
        (∀ r ∈ rs, inSpan r.addr = true ∧ r.addr % 8 = 0 ∧ absentAddr s.variant r.addr = false) →
        (∃ r ∈ rs, regRow r.addr = none ∨ regCheck .harness x.role r.addr (recordValue r s) s ≠ .ok ∨
          rwlLocked s = true ∧ maskRwl r = true) → Request s x seq 0x0202 b →
        ∃ t st code i, exec (.regWrite x.tid (reqMsg x seq 0x0202 b)) s = .next t ∧ i < rs.length ∧ Denied s t x seq 0x0202 st code i)
      ∧ (∀ off (v : Word), off % 8 = 0 → off < 0x1800000 → storeClosed s off 8 = false →
        b = leBytes 4 (0x20000000 + off) ++ leBytes 4 8 ++ leBytes 8 v.toNat → Request s x seq 0x0204 b →
        ∃ t, exec (.memWrite x.tid (reqMsg x seq 0x0204 b)) s = .next t ∧ Replied t x seq 0x0204 [] ∧ ldW t (0x20000000 + off) = v ∧
          (∀ a, (a < 0x20000000 + off ∨ 0x20000000 + off + 8 ≤ a) → ldB t a = ldB s a))
      ∧ (∀ n g, n < 64 → g < 2 → tblClosed s n g = false →
        (∀ cfg base dflt : Word, rangesOk (TOPO_TBL_CFG n g) cfg = true → rangesOk (TOPO_TBL_BASE n g) base = true →
          b = leBytes 1 n ++ leBytes 1 g ++ zeros 6 ++ leBytes 8 cfg.toNat ++ leBytes 8 base.toNat ++ leBytes 8 dflt.toNat →
          Request s x seq 0x0301 b →
          ∃ t, exec (.tblCfg x.tid (reqMsg x seq 0x0301 b)) s = .next t ∧ Replied t x seq 0x0301 [] ∧
            rd t (TOPO_TBL_DEFAULT n g) = dflt ∧ fget t (TOPO_TBL_BASE n g) TOPO_TBL_BASE_BASE = getF TOPO_TBL_BASE_BASE base ∧
            fget t (TOPO_TBL_BASE n g) TOPO_TBL_BASE_ENTRIES = getF TOPO_TBL_BASE_ENTRIES base ∧
            fget t (TOPO_TBL_CFG n g) TOPO_TBL_CFG_KEY_BITS = getF TOPO_TBL_CFG_KEY_BITS cfg ∧
            (tblValid (tblCopy t n g) = true ∨ fget t (TOPO_TBL_CFG n g) TOPO_TBL_CFG_TYPE = 0))
        ∧ (∀ k ws c, c = tblCopy s n g → (c.ty = 1 ∨ c.ty = 2) → k < 2 ^ c.keyBits → c.keyBits ≤ 128 → ws.length = c.words →
          (∀ w ∈ ws, w < 2 ^ 64) → (tblPut n g (beBytes 16 k) ws s).isSome = true →
          b = leBytes 1 n ++ leBytes 1 g ++ zeros 2 ++ leBytes 4 1 ++ beBytes 16 k ++ ws.flatMap (leBytes 8) →
          Request s x seq 0x0302 b →
          ∃ t, exec (.tblPut x.tid (reqMsg x seq 0x0302 b)) s = .next t ∧ Replied t x seq 0x0302 (leBytes 4 1 ++ zeros 4) ∧
            tblLookup t n g k = (true, ws))
        ∧ (∀ k c, c = tblCopy s n g → c.ty ≠ 3 → k < 2 ^ 128 →
          b = leBytes 1 n ++ leBytes 1 g ++ zeros 2 ++ leBytes 4 1 ++ beBytes 16 k → Request s x seq 0x0303 b →
          (∀ i, tblFind s n g c (k % 2 ^ c.keyBits) = some i →
            ∃ t, exec (.tblDel x.tid (reqMsg x seq 0x0303 b)) s = .next t ∧ Replied t x seq 0x0303 (leBytes 4 1 ++ zeros 4) ∧
              tsBytes t (entryAt c i) (entryBytes c) = zeros (entryBytes c))
          ∧ (tblFind s n g c (k % 2 ^ c.keyBits) = none →
            ∃ t, exec (.tblDel x.tid (reqMsg x seq 0x0303 b)) s = .next t ∧ Denied s t x seq 0x0303 10 0 0)))
      ∧ (∀ m g : Word, flipBusy s = false → b = leBytes 8 m.toNat ++ leBytes 8 g.toNat → Request s x seq 0x0304 b →
        ∃ t, exec (.tblFlip x.tid (reqMsg x seq 0x0304 b)) s = .next t ∧ Replied t x seq 0x0304 [] ∧
          rd t TOPO_TBL_GEN = (rd s TOPO_TBL_GEN &&& ~~~ m) ||| (g &&& m) ∧ fbit t TOPO_TBL_STATUS TOPO_TBL_STATUS_DRAIN = true ∧
          Frame [TOPO_TBL_GEN, TOPO_TBL_STATUS] { s with pe := t.pe, har := { s.har with sessions := t.har.sessions } } t)
      ∧ (∀ bank first n data, bank < 2 → bank ≠ fget s TOPO_BANK TOPO_BANK_ACTIVE → fbit s TOPO_BANK TOPO_BANK_SWAP_PENDING = false →
        first + n ≤ 32768 → data.length = 32 * n →
        b = leBytes 1 bank ++ zeros 3 ++ leBytes 4 first ++ leBytes 4 n ++ zeros 4 ++ data → Request s x seq 0x0305 b →
        ∃ t, exec (.topoLoad x.tid (reqMsg x seq 0x0305 b)) s = .next t ∧ Replied t x seq 0x0305 [] ∧
          ldBytes t (pitchAddr bank first) (32 * n) = data ∧
          fbit t TOPO_BANK (if bank = 0 then TOPO_BANK_REPAIRABLE0 else TOPO_BANK_REPAIRABLE1) = false)
      ∧ (∀ (gen : Bool) (nx : Word), swapBusy s gen = false → b = leBytes 1 (if gen then 1 else 0) ++ zeros 7 ++ leBytes 8 nx.toNat →
        Request s x seq 0x0306 b →
        ∃ t, exec (.topoSwap x.tid (reqMsg x seq 0x0306 b)) s = .next t ∧ Waits s t x (reqMsg x seq 0x0306 b) ∧
          t.pe = { s.pe with swapGo := true, swapGen := gen } ∧ fbit t TOPO_BANK TOPO_BANK_SWAP_PENDING = true ∧
          (gen = true → rd t TOPO_TBL_GEN_NEXT = nx))
      ∧ (∀ op (es : List (List Byte)) want, (op = 1 ∨ op = 2) → (∀ e ∈ es, e.length = 24 ∧ (leAt e 1 1 = 4 ∨ leAt e 1 1 = 6) ∧ leAt e 2 1 ≤ 7 ∧
          (∀ p, p < 8 → (leAt e 0 1).testBit p = true → unitBit s.variant p = true) ∧
          (∀ a ∈ s.svc.addrs, a.v6 = (addrOf false e).v6 → a.addr = (addrOf false e).addr → a.ptp = false) ∧
          (op = 2 → ∃ a ∈ s.svc.addrs, a.ptp = false ∧ a.v6 = (addrOf false e).v6 ∧ a.addr = (addrOf false e).addr)) →
        want = es.foldl (fun l e => if op = 1 then svcAdd (addrOf false e) l else svcDel (addrOf false e) l) s.svc.addrs →
        flipBusy s = false → onSecond s = false → (svcSetAddrs want s).isSome = true →
        b = leBytes 1 op ++ zeros 3 ++ leBytes 4 es.length ++ es.flatten → Request s x seq 0x0501 b →
        ∃ t, exec (.svcAddr x.tid (reqMsg x seq 0x0501 b)) s = .next t ∧ Replied t x seq 0x0501 [] ∧ t.svc.addrs = want)
      ∧ (∀ k row (v : Word), k < 8 → regRow (SVC_NTP_PROF k) = some row → rangesOk (SVC_NTP_PROF k) v = true → onSecond s = false →
        b = leBytes 1 k ++ zeros 7 ++ leBytes 8 v.toNat → Request s x seq 0x0502 b →
        ∃ t, exec (.ntpProf x.tid (reqMsg x seq 0x0502 b)) s = .next t ∧ Replied t x seq 0x0502 [] ∧
          ∀ y ∈ row.fields, y.acc = .rw → getF y.f (rd t (SVC_NTP_PROF k)) = getF y.f v)
      ∧ (∀ (v w : Word) sec sub, gnssFitted s = true → w = withBits v [(GNSS_SNAP_CTL_ARM, 1), (GNSS_SNAP_CTL_RELEASE, 0)] →
        regCheck .harness 3 GNSS_SNAP_CTL w s = .ok → getF GNSS_SNAP_CTL_SRC v = 0 → s.gnss.lean = false → snapState s = 0 →
        sec < 2 ^ 64 → sub < 2 ^ 64 → gtNow s + 10 ^ 6 * 2 ^ 32 ≤ gtOf sec sub →
        b = leBytes 8 v.toNat ++ leBytes 8 sec ++ leBytes 8 sub → Request s x seq 0x0601 b →
        ∃ t, exec (.gnssSnap x.tid (reqMsg x seq 0x0601 b)) s = .next t ∧ Replied t x seq 0x0601 [] ∧ snapState t = 1 ∧
          t.gnss.snapAt = some (gtOf sec sub) ∧ t.gnss.snapLen = getF GNSS_SNAP_CTL_LEN_MS v)
      ∧ (gnssFitted s = true → regCheck .harness 3 GNSS_SNAP_CTL (withBits (rd s GNSS_SNAP_CTL) [(GNSS_SNAP_CTL_RELEASE, 1)]) s = .ok →
        getF GNSS_SNAP_CTL_ARM (rd s GNSS_SNAP_CTL) = 0 → snapState s = 3 → Request s x seq 0x0604 [] →
        ∃ t, exec (.snapRelease x.tid (reqMsg x seq 0x0604 [])) s = .next t ∧ Replied t x seq 0x0604 [] ∧ snapState t = 0)
      ∧ (∀ (v : Nat → Word), b = leBytes 8 (v 0).toNat ++ leBytes 8 (v 1).toNat ++ leBytes 8 (v 2).toNat ++ leBytes 8 (v 3).toNat →
        (∀ k a, (k, a) ∈ [(0, CNT_DUMP_CFG), (1, CNT_DUMP_RING), (2, CNT_DUMP_HOST_ADDR), (3, CNT_DUMP_HOST)] →
          regCheck .harness 2 a (v k) s = .ok) → Request s x seq 0x0904 b →
        ∃ t, exec (.dumpCfg x.tid (reqMsg x seq 0x0904 b)) s = .next t ∧ Replied t x seq 0x0904 [] ∧
          ∀ k a row, (k, a) ∈ [(0, CNT_DUMP_CFG), (1, CNT_DUMP_RING), (2, CNT_DUMP_HOST_ADDR), (3, CNT_DUMP_HOST)] →
            regRow a = some row → ∀ y ∈ row.fields, y.acc = .rw → getF y.f (rd t a) = getF y.f (v k)))
    ∧ (1 ≤ x.role →
      (∀ e c, e < peCount s.variant → c < 4 → s.pe.snapWait = none → b = leBytes 1 e ++ leBytes 1 c ++ zeros 6 → Request s x seq 0x0307 b →
        ([0, 3, 4].contains (ctxShown (ctxOf s (4 * e + c))) = false →
          ∃ t, exec (.ctxSnap x.tid (reqMsg x seq 0x0307 b)) s = .next t ∧ Waits s t x (reqMsg x seq 0x0307 b) ∧
            t.pe = { s.pe with snapWait := some (4 * e + c) } ∧ fget t PE_CTX_SEL PE_CTX_SEL_ENGINE = e ∧
            fget t PE_CTX_SEL PE_CTX_SEL_CTX = c)
        ∧ ([0, 3, 4].contains (ctxShown (ctxOf s (4 * e + c))) = true →
          ∃ t, exec (.ctxSnap x.tid (reqMsg x seq 0x0307 b)) s = .next t ∧ Replied t x seq 0x0307 (ctxSnapBody t) ∧
            t.pe = { s.pe with snapWait := none } ∧
            fget t PE_CTX_STATE PE_CTX_STATE_STATE = ctxShown (ctxOf s (4 * e + c)) % 8))
      ∧ (∀ i n, eccQuiet s = true → 1 ≤ n → n ≤ 1024 → i + n ≤ 1600 → b = leBytes 2 i ++ leBytes 2 n ++ zeros 4 → Request s x seq 0x0901 b →
        ∃ t, exec (.cntSnap x.tid (reqMsg x seq 0x0901 b)) s = .next t ∧ t.cnt.shLive = s.cnt.live ∧ t.cnt.snapAt = gtNow s ∧
          Replied t x seq 0x0901 (leBytes 8 (gtSec (gtNow s)) ++ leBytes 8 (gtSub (gtNow s)) ++
            (List.range n).flatMap (fun k => leBytes 8 (mapGet (fun _ => 0) s.cnt.live (i + k))))))
    ∧ (3 ≤ x.role →
      (∀ e p sec sub bound, e ≤ 1 → p ≤ 7 → sec < 2 ^ 64 → sub < 2 ^ 64 → sub / 2 ^ 32 ≤ 999999999 → bound < 2 ^ 32 →
        fbit s TSU_STATE TSU_STATE_STATE = false → fbit s TSU_STATE TSU_STATE_SET_ARMED = false →
        b = leBytes 1 e ++ leBytes 1 p ++ zeros 6 ++ leBytes 8 sec ++ leBytes 8 sub ++ leBytes 4 bound ++ zeros 4 →
        Request s x seq 0x0402 b →
        ∃ t, exec (.timeSet x.tid (reqMsg x seq 0x0402 b)) s = .next t ∧ Waits s t x (reqMsg x seq 0x0402 b) ∧
          fbit t TSU_STATE TSU_STATE_SET_ARMED = true ∧ t.tsu.setV = gtOf sec sub ∧ t.tsu.setBound = bound ∧
          (t.tsu.setRefin = true ↔ e = 1) ∧ t.tsu.setPin = p ∧ t.tsu.now = s.tsu.now)
      ∧ (∀ adj : Int, -freqLimit ≤ adj → adj ≤ freqLimit → fget s SERVO_STATE SERVO_STATE_STATE = 0 → b = leBytes 8 (unsgn 64 adj) →
        Request s x seq 0x0403 b →
        ∃ t, exec (.freqSet x.tid (reqMsg x seq 0x0403 b)) s = .next t ∧ Replied t x seq 0x0403 [] ∧
          fint t TSU_FREQ_ADJ TSU_FREQ_ADJ_FREQ_ADJ = adj ∧ t.tsu = { s.tsu with incPending := true } ∧
          Frame [TSU_FREQ_ADJ] { s with tsu := t.tsu, har := { s.har with sessions := t.har.sessions } } t)
      ∧ (∀ (amt : Int) rate, -(2 ^ 63 : Int) ≤ amt → amt < 2 ^ 63 → rate ≤ 1023 → fget s SERVO_STATE SERVO_STATE_STATE = 0 →
        fbit s TSU_STATE TSU_STATE_STATE = true → b = leBytes 8 (unsgn 64 amt) ++ leBytes 4 rate ++ zeros 4 → Request s x seq 0x0404 b →
        ∃ t, exec (.slew x.tid (reqMsg x seq 0x0404 b)) s = .next t ∧ Replied t x seq 0x0404 [] ∧
          (s.tsu.slewRemain = 0 ∨ s.tsu.slewRemain + amt * 2 ^ 56 ≠ 0 →
            t.tsu = { s.tsu with slewRemain := s.tsu.slewRemain + amt * 2 ^ 56, incPending := true }) ∧
          (s.tsu.slewRemain + amt * 2 ^ 56 = 0 → t.tsu.slewRemain = 0 ∧ t.tsu.now = s.tsu.now ∧
            (s.tsu.slewRemain ≠ 0 → fbit t TSU_STATE TSU_STATE_SLEWING = false)) ∧
          fget t TSU_SLEW_RATE TSU_SLEW_RATE_RATE = rate)
      ∧ (∀ (p : Int) sec, -1 ≤ p → p ≤ 1 → sec < 2 ^ 64 → onSecond s = false → (p = 0 ∨ nowSec s + 2 ≤ sec) →
        b = leBytes 1 (unsgn 8 p) ++ zeros 7 ++ leBytes 8 sec → Request s x seq 0x0405 b →
        ∃ t, exec (.leapSet x.tid (reqMsg x seq 0x0405 b)) s = .next t ∧ Replied t x seq 0x0405 [] ∧
          fint t TSU_LEAP_PENDING TSU_LEAP_PENDING_PENDING = p ∧ rd t TSU_LEAP_SEC = BitVec.ofNat 64 sec ∧ t.tsu.now = s.tsu.now)
      ∧ (∀ n act, n < 20 → (n = 8 → unitBit s.variant 35 = true) → b = leBytes 1 n ++ leBytes 1 act ++ zeros 6 → Request s x seq 0x0406 b →
        (∀ r rs, act = 1 → n ≠ 8 → fbit s (REFS_SLOT_STATE n) REFS_SLOT_STATE_JUMP = true → (refSl s n).refused = r :: rs →
          ∃ t, exec (.refCmd x.tid (reqMsg x seq 0x0406 b)) s = .next t ∧ Replied t x seq 0x0406 [] ∧ (refSl t n).p = some r ∧
            fbit t (REFS_SLOT_STATE n) REFS_SLOT_STATE_JUMP = false ∧ (refSl t n).refused = [])
        ∧ (act = 2 → 1 < slotSt s n →
          ∃ t, exec (.refCmd x.tid (reqMsg x seq 0x0406 b)) s = .next t ∧ Replied t x seq 0x0406 [] ∧ slotSt t n = 6)
        ∧ (act = 3 → slotSt s n = 6 →
          ∃ t, exec (.refCmd x.tid (reqMsg x seq 0x0406 b)) s = .next t ∧ Replied t x seq 0x0406 [] ∧ slotSt t n = 2))
      ∧ (ntsFitted s = true → pairRole s ≠ 2 →
        (∀ kid n, kid < 2 ^ 32 → keyHolder s kid = some n → (keyOfSlot s n).st ≠ 2 → b = leBytes 1 2 ++ zeros 3 ++ leBytes 4 kid →
          Request s x seq 0x0503 b →
          ∃ t, exec (.ntsKey x.tid (reqMsg x seq 0x0503 b)) s = .next t ∧ Replied t x seq 0x0503 [] ∧ keyOfSlot t n = keyReset n ∧
            (∀ m, m ≠ n → keyOfSlot t m = keyOfSlot s m))
        ∧ (∀ n c, keyRandom s = true → keyIn s 1 = some n → keyIn s 2 = some c → b = leBytes 1 1 ++ zeros 7 → Request s x seq 0x0503 b →
          ∃ t, exec (.ntsKey x.tid (reqMsg x seq 0x0503 b)) s = .next t ∧ Replied t x seq 0x0503 [] ∧ (keyIn t 1).isSome = true))
      ∧ (∀ fl lb l m y, ntsFitted s = true → onSecond s = false → l = Leg.mk 0 0x42 fl lb → legSealed l = true → fl < 2 ^ 16 →
        (unsealLeg s l).bind (fun z => some z.body) = some m → bodyOf 0x42 m = some y → ((identsOf s y).take 4).any (·.valid) = true →
        b = leBytes 2 0x42 ++ leBytes 2 fl ++ leBytes 4 lb.length ++ lb → Request s x seq 0x0504 b →
        ∃ t, exec (.keIdent x.tid (reqMsg x seq 0x0504 b)) s = .next t ∧ t.ke.idents = (identsOf s y).take 4 ∧ t.ke.server = serverOf y ∧
          Replied t x seq 0x0504 (leBytes 1 (fget t SVC_KE_STATUS SVC_KE_STATUS_IDENT_VALID) ++ zeros 7))
      ∧ (∀ g y, b.length = 16 → grantOf s g = some y → y.addr = beNat b → (y.ann.on || y.sync.on || y.dresp.on) = true →
        Request s x seq 0x0505 b →
        ∃ t, exec (.ptpCancel x.tid (reqMsg x seq 0x0505 b)) s = .next t ∧ Replied t x seq 0x0505 [] ∧
          ∀ z, grantOf t g = some z → z.ann.on = false ∧ z.sync.on = false ∧ z.dresp.on = false)
      ∧ (∀ r rs, gnssFitted s = true → regCheck .harness 3 GNSS_CTL (withBits (rd s GNSS_CTL) [(GNSS_CTL_ACCEPT, 1)]) s = .ok →
        (refSl s 8).refused = r :: rs → Request s x seq 0x0602 [] →
        ∃ t, exec (.gnssAccept x.tid (reqMsg x seq 0x0602 [])) s = .next t ∧ Replied t x seq 0x0602 [] ∧
          fbit t GNSS_STATUS GNSS_STATUS_JUMP = false ∧ (refSl t 8).p = some r)
      ∧ (gnssFitted s = true → regCheck .harness 3 GNSS_SURVEY (withBits (rd s GNSS_SURVEY) [(GNSS_SURVEY_RESTART, 1)]) s = .ok →
        Request s x seq 0x0603 [] →
        ∃ t, exec (.gnssSurvey x.tid (reqMsg x seq 0x0603 [])) s = .next t ∧ Replied t x seq 0x0603 [] ∧
          t.gnss = { s.gnss with surveying := true, surveyAt := 0, timeOnly := false, posSince := 0 })
      ∧ (pairRole s = 4 → Request s x seq 0x0701 [] →
        ∃ t, exec (.pairJoin x.tid (reqMsg x seq 0x0701 [])) s = .next t ∧ Replied t x seq 0x0701 [] ∧ pairRole t = 1)
      ∧ (pairAllowed 1 s = true → Request s x seq 0x0702 [] →
        ∃ t, exec (.pairYield x.tid (reqMsg x seq 0x0702 [])) s = .next t ∧ Replied t x seq 0x0702 [] ∧ pairRole t = 2 ∧
          pst t PAIR_STATUS_CUST_OUT = false)
      ∧ (pairRole s = 1 → Request s x seq 0x0703 [] →
        ∃ t, exec (.pairPart x.tid (reqMsg x seq 0x0703 [])) s = .next t ∧ Replied t x seq 0x0703 [] ∧ pairRole t = 4)
      ∧ (∀ p f, p ≤ 7 → 60 ≤ f.length → f.length ≤ 9212 → linkUp s = true → b = leBytes 1 p ++ zeros 7 ++ f → Request s x seq 0x0704 b →
        ∃ t, exec (.belayFrame x.tid (reqMsg x seq 0x0704 b)) s = .next t ∧ t.out = .msg x.tid (rspMsg x seq 0x0704 0 []) ::
          .belay 0x20 s.pair.ctrTx (gcmSeal s.pair.keyTx (belayNonce s.pair.ctrTx) [0x20] (leBytes 1 p ++ f)) :: s.out)
      ∧ (∀ k cmd c off n data, (k, cmd, c) ∈ [(0, 0x0802, Instr.nvmErase), (1, 0x0803, .nvmWrite)] → off < 2 ^ 32 → n < 2 ^ 32 →
        (k = 0 → off % Config.flashSector = 0 ∧ n % Config.flashSector = 0 ∧ data = []) → (k = 1 → data.length = n) →
        nvmAllowed off n s = true → s.nvm.op = none → b = leBytes 4 off ++ leBytes 4 n ++ data → Request s x seq cmd b →
        ∃ t, exec (c x.tid (reqMsg x seq cmd b)) s = .next t ∧ Waits s t x (reqMsg x seq cmd b) ∧
          t.nvm = { s.nvm with op := some { sid := x.sid, kind := k, off := off, len := n, data := data } })
      ∧ (∀ c, c < 2 → s.nvm.op = none → b = leBytes 1 c ++ zeros 7 → Request s x seq 0x0804 b →
        ∃ t, exec (.nvmVerify x.tid (reqMsg x seq 0x0804 b)) s = .next t ∧ Waits s t x (reqMsg x seq 0x0804 b) ∧
          t.nvm = { s.nvm with op := some { sid := x.sid, kind := 2, off := copyBase c, len := copyRoom, data := [] } })
      ∧ (∀ c, c < 2 → s.nvm.op = none → fbit s SYS_BOOK_STATUS (markOf c) = true → b = leBytes 1 c ++ zeros 7 → Request s x seq 0x0805 b →
        ∃ t, exec (.nvmActivate x.tid (reqMsg x seq 0x0805 b)) s = .next t ∧ Replied t x seq 0x0805 [] ∧
          t.nvm = (jAppend [6, stage s, 0, c, min s.start.latchRun 255, (rd s SYS_BOOK_ID).toNat, attemptMs s] s).nvm)
      ∧ (s.nvm.op = none → Request s x seq 0x0806 [] →
        ∃ t, exec (.restart x.tid (reqMsg x seq 0x0806 [])) s = .next t ∧ Out.msg x.tid (rspMsg x seq 0x0806 0 []) ∈ t.out ∧
          Begun t 0x22 0 ∧ t.har.sessions = [])
      ∧ (∀ owk hash lock, owk.length = 32 → hash.length = 64 → lock < 2 ^ 64 → b = owk ++ hash ++ leBytes 8 lock →
        Request s x seq 0x0808 b →
        (s.otp.locked = false → s.otp.ownerHash = [] →
          ∃ t, exec (.otpOwner x.tid (reqMsg x seq 0x0808 b)) s = .next t ∧ Replied t x seq 0x0808 [] ∧
            t.otp = { s.otp with owk := owk, ownerHash := hash, locked := decide (lock ≠ 0) } ∧ fbit t SYS_OTP SYS_OTP_OWNED = true)
        ∧ (s.otp.locked = true ∨ s.otp.ownerHash ≠ [] →
          ∃ t, exec (.otpOwner x.tid (reqMsg x seq 0x0808 b)) s = .next t ∧ Denied s t x seq 0x0808 7 0x15 noDetail))
      ∧ (phase s = 3 → s.start.rest = 0 → (pairRole s = 0 ∨ pairRole s = 4) → Request s x seq 0x0809 [] →
        ∃ t, exec (.restEnter x.tid (reqMsg x seq 0x0809 [])) s = .next t ∧ Replied t x seq 0x0809 [] ∧ t.start.rest = 1 ∧ phase t = 3)
      ∧ (phase s = 5 → s.start.rest = 0 → Request s x seq 0x080A [] →
        ∃ t, exec (.restExit x.tid (reqMsg x seq 0x080A [])) s = .next t ∧ Replied t x seq 0x080A [] ∧ t.start.rest = 3 ∧
          fget t HOST_REST_STATUS HOST_REST_STATUS_LAST_CAUSE = 2))
    ∧ (∀ u first, u.Ready → phase u = 4 → u.start.bootSel < 2 → u.nvm.op = none → first ≤ 2 → 3 ≤ x.role →
      Request u x seq 0x0807 (leBytes 1 first ++ zeros 7) →
      ∃ t, exec (.bivRelease x.tid (reqMsg x seq 0x0807 (leBytes 1 first ++ zeros 7))) u = .next t ∧
        Out.msg x.tid (rspMsg x seq 0x0807 0 []) ∈ t.out ∧ Begun t 0x22 0 ∧ t.start.latchRun = 0 ∧ t.start.firstCopy = first)
    ∧ (∀ req, sessionOf s x.sid = some x → x.busy = some req → x.wait = [] →
      (s.pe.swapGo = true → harWaiting 0x0306 s = [x.sid] →
        ∃ t, exec .dispatchBoundary s = .next t ∧ t.pe.swapGo = false ∧
          t.out = .msg x.tid (harMsg x.key 1 x.sid (leAt req 8 8) (leAt req 16 2) 0 []) :: s.out)
      ∧ (∀ o left, s.nvm.op = some o → o.sid = x.sid →
        (o.kind = 0 → ∃ t, exec (.nvmOperationComplete true left) s = .next t ∧ t.nvm.op = none ∧
          t.nvm.flash = (flashErase o.off o.len s).nvm.flash ∧
          t.out = .msg x.tid (harMsg x.key 1 x.sid (leAt req 8 8) (leAt req 16 2) 0 []) :: s.out)
        ∧ (o.kind = 1 → ∃ t, exec (.nvmOperationComplete true left) s = .next t ∧ t.nvm.op = none ∧
          t.nvm.flash = (flashProgram o.off o.data s).nvm.flash ∧
          t.out = .msg x.tid (harMsg x.key 1 x.sid (leAt req 8 8) (leAt req 16 2) 0 []) :: s.out)
        ∧ (∃ t, exec (.nvmOperationComplete false left) s = .next t ∧ t.nvm.op = none ∧
          t.out = .msg x.tid (harMsg x.key 1 x.sid (leAt req 8 8) (leAt req 16 2) 13 (failBody 0 noDetail)) :: s.out)))

/-- A SYN at a service address with NTS is answered with a SYN cookie and leaves no state (R210); the ACK that returns the cookie opens a
connection unless it is refused (R211). A segment in order is acknowledged; its whole records are read (R213): a ClientHello is negotiated,
asked again or answered with an alert (R213, R214, R223); the client's Finished opens the keys of the request, which is answered with
close_notify and FIN once it is whole (R218); a KeyUpdate takes the next keys; an alert, a reset, a FIN in linger and the timers free the
connection (R210, R212, R223), one that lingers too, whose alerts still count (R227); of unanswered data the oldest segment is sent again (R210). A command that names another kind of segment than
the one at the head of its ring does nothing (log entry 138). An identity past its notAfter shows EXPIRED and one near it warns once a day
(R216). -/
def Obligations.NtsKeConnections : Prop :=
  ∀ (r : Nat) (x : Punt) (s s1 : State), s.Ready → ntsFitted s = true → keTake r s = some (x, s1) →
    (∀ a m n fr sp, puntSrc x = some a → tcpFlags x / 2 % 2 = 1 → tcpFlags x / 16 % 2 = 0 → keServed s x = true → s.pe.inj = [] →
      n = 4 * (beAt x.frame (tcpOff x + 12) 1 / 16) - 20 →
      m = mssIndex a.1 (mssOpt (n + 1) (slice x.frame (tcpOff x + 20) n)) →
      fr = tcpFrame s (puntPort x) (puntEth x) a.1 (puntDst x) a.2 (kePort s) (tcpPort x)
        (synCookie s a.1 a.2 (puntDst x) (tcpPort x) (tcpSeq x) m) ((tcpSeq x + 1) % 2 ^ 32) 0x12
        ([2, 4] ++ beBytes 2 (if a.1 then 1440 else 1460)) →
      frameSpot s1 (fr.length + 4) = some sp → injectFits s1 8 sp fr.length = true →
      ∃ t, exec (.keSyn r) s = .next t ∧ t.ke = s.ke ∧ t.pe.punts = s1.pe.punts ∧
        queueOf t 32 = queueOf s 32 ++ [(injected 8 (puntPort x) 0 sp fr s, gtNow s, false)])
    ∧ (∀ a ck ok, puntSrc x = some a → connFind s x = none → tcpFlags x / 16 % 2 = 1 → tcpFlags x / 2 % 4 = 0 → keServed s x = true →
      ck = (tcpAck x + 2 ^ 32 - 1) % 2 ^ 32 →
      ok = decide (synCookie s a.1 a.2 (puntDst x) (tcpPort x) ((tcpSeq x + 2 ^ 32 - 1) % 2 ^ 32) (ck % 4) = ck) →
      (keRefusal s a ok = 0 → ∃ t c, exec (.keHandshakeAck r) s = .next t ∧ connOf t (connFreeIx s) = some c ∧ c.st = 0 ∧ c.v6 = a.1 ∧
        c.peer = a.2 ∧ c.peerPort = tcpPort x ∧ c.own = puntDst x ∧ c.rcv = tcpSeq x ∧ c.snd = tcpAck x ∧ c.mss = mssValue (ck % 4) ∧
        c.rx = [] ∧ c.unacked = [] ∧ c.wait = [] ∧
        t.pe.punts = (if (tcpData x).isEmpty then s1.pe.punts else s.pe.punts))
      ∧ (keRefusal s a ok ≠ 0 → ∃ t, exec (.keHandshakeAck r) s = .next t ∧ t.ke = s.ke ∧ t.pe.punts = s1.pe.punts))
    ∧ ((segKind s x ≠ 0 → exec (.keClientHello r) s = .next s) ∧ (segKind s x ≠ 1 → exec (.keClientFinished r () () () ()) s = .next s)
      ∧ (segKind s x ≠ 2 → exec (.keAlertRx r) s = .next s) ∧ (segKind s x ≠ 3 → exec (.keKeyUpdate r) s = .next s)
      ∧ (segKind s x ≠ 4 → exec (.kePeerFin r) s = .next s) ∧ (segKind s x ≠ 5 → exec (.keSegment r ()) s = .next s))
    ∧ (connFind s x = none → ∃ t, exec (.keSegment r ()) s = .next t ∧ t = s1)
    ∧ (∀ k c, connFind s x = some (k, c) → tcpFlags x / 4 % 2 = 1 →
      ∃ t, exec (.keSegment r ()) s = .next t ∧ connOf t k = none ∧ ∀ h, h ≠ k → connOf t h = connOf s h)
    ∧ (∀ k c, connFind s x = some (k, c) → tcpFlags x / 4 % 2 = 0 → tcpSeq x ≠ c.rcv → c.wait = [] →
      ∃ t, exec (.keSegment r ()) s = .next t ∧ connOf t k = some (connAcked x c))
    ∧ (∀ k c d es e, connFind s x = some (k, c) → tcpFlags x / 4 % 2 = 0 → tcpSeq x = c.rcv → c.wait = [] → d = segTake x c →
      recScan (d.rx.length + 1) d = (es, e) →
      (∀ m h su g id share sid, es = [.hello m] → e.rx.length < 5 → helloOf (m.drop 4) = some h →
        negotiate s (decide (c.st = 1)) h = .ok su g id share sid → (c.st = 1 → su = c.suite) →
        ∃ t f, exec (.keClientHello r) s = .next t ∧ connOf t k = some f ∧ f.st = 2 ∧ f.suite = su ∧ f.group = g ∧ f.ident = some id ∧
          f.share = share ∧ f.sid = sid ∧ f.job = 1 ∧ f.trans = c.trans ++ m ∧
          f.rcv = (c.rcv + ((tcpData x).length + tcpFlags x % 2)) % 2 ^ 32)
      ∧ (∀ m h su g sid hrr, es = [.hello m] → e.rx.length < 5 → helloOf (m.drop 4) = some h → negotiate s (decide (c.st = 1)) h = .retry su g sid →
        hrr = serverHello hrrRandom sid su (beBytes 2 g) →
        ∃ t f, exec (.keClientHello r) s = .next t ∧ connOf t k = some f ∧ f.st = 1 ∧ f.suite = su ∧ f.group = g ∧
          f.trans = helloHash su m ++ hrr ∧ f.unacked ++ f.wait = d.unacked ++ segsOf c.mss (tlsSeal su c.wr c.wrSeq 22 hrr ++ ccsFor sid) false)
      ∧ (∀ m h al, es = [.hello m] → recTake { e with st := 4 } = none → helloOf (m.drop 4) = some h → negotiate s (decide (c.st = 1)) h = .alert al → d.pfin = false →
        ∃ t f, exec (.keClientHello r) s = .next t ∧ connOf t k = some f ∧ f.st = 4 ∧ f.fin = true ∧ f.ident = none ∧
          f.unacked ++ f.wait = d.unacked ++ segsOf c.mss (tlsSeal c.suite c.wr c.wrSeq 21 [2, BitVec.ofNat 8 al]) true)
      ∧ (∀ al, es = [.bad al] → recTake { e with st := 4 } = none → d.pfin = false →
        ∃ t f, exec (.keSegment r ()) s = .next t ∧ connOf t k = some f ∧ f.st = 4 ∧ f.fin = true ∧ f.ident = none ∧
          f.unacked ++ f.wait = d.unacked ++ segsOf c.mss (tlsSeal c.suite c.wr c.wrSeq 21 [2, BitVec.ofNat 8 al]) true)
      ∧ (es = [.finished true] → d.pfin = false →
        ∃ t f, exec (.keClientFinished r () () () ()) s = .next t ∧ connOf t k = some f ∧ f.st = 5 ∧ f.rd = c.app ∧ f.ident = none ∧ f.unacked = d.unacked)
      ∧ (es = [.finished false] → recTake { e with st := 4 } = none → d.pfin = false →
        ∃ t f, exec (.keClientFinished r () () () ()) s = .next t ∧ connOf t k = some f ∧ f.st = 4 ∧ f.fin = true ∧
          f.unacked ++ f.wait = d.unacked ++ segsOf c.mss (tlsSeal c.suite c.wr c.wrSeq 21 [2, 51]) true)
      ∧ (∀ b, es = [.data b] → reqEnds 1024 0 (c.req ++ b) = false → d.pfin = false →
        ∃ t f, exec (.keClientFinished r () () () ()) s = .next t ∧ connOf t k = some f ∧ f.st = 5 ∧ f.req = c.req ++ b)
      ∧ (∀ b, es = [.data b] → reqEnds 1024 0 (c.req ++ b) = true → d.pfin = false → keyIn s 2 ≠ none →
        ∃ t f resp, exec (.keClientFinished r () () () ()) s = .next t ∧ connOf t k = some f ∧ f.st = 4 ∧ f.fin = true ∧
          f.unacked ++ f.wait = d.unacked ++ segsOf c.mss (tlsSeal c.suite c.wr c.wrSeq 23 resp ++
            tlsSeal c.suite c.wr (if c.wr.isEmpty then 0 else c.wrSeq + 1) 21 [1, 0]) true ∧
          (∀ q, ntsAsk (c.req ++ b) = .inl q → resp = ntsRec 2 (beBytes 2 q) ++ ntsRec 0 []) ∧
          (∀ p, ntsAsk (c.req ++ b) = .inr (true, true, p) → keysReady s = true → ∃ cks,
            resp = ntsRec 1 [0, 0] ++ ntsRec 4 [0, 15] ++ ((if s.ke.server.isEmpty then [] else ntsRec 6 s.ke.server)
              ++ (if p then ntsRec 7 [0, 123] else [])) ++ cks ++ ntsRec 0 []))
      ∧ (es = [.alert] → ∃ t, exec (.keAlertRx r) s = .next t ∧ connOf t k = none ∧
        mapGet (fun _ => 0) t.cnt.live (EC_KE 17) = (mapGet (fun _ => 0) s1.cnt.live (EC_KE 17) + 1) % 2 ^ 48)
      ∧ (es = [.keyUpdate] → d.pfin = false →
        ∃ t f, exec (.keKeyUpdate r) s = .next t ∧ connOf t k = some f ∧ f.upd = c.upd + 1 ∧ f.rd = tlsNext c.suite c.rd ∧ f.st = c.st)
      ∧ (es = [] → tcpFlags x % 2 = 1 → c.st = 4 → ∃ t, exec (.kePeerFin r) s = .next t ∧ connOf t k = none)
      ∧ (es = [] → tcpFlags x % 2 = 1 → c.st < 4 → ∃ t f, exec (.kePeerFin r) s = .next t ∧ connOf t k = some f ∧ f.pfin = true ∧
          f.st = c.st)
      ∧ (es = [] → tcpFlags x % 2 = 0 → c.pfin = false → ∃ t, exec (.keSegment r ()) s = .next t ∧ connOf t k = some e))
    ∧ (∀ k c, connOf s k = some c →
      (c.st ≠ 4 → (∃ t, exec (.keHsTimeout k) s = .next t ∧ connOf t k = none) ∧ exec (.keLingerTimeout k) s = .next s)
      ∧ (c.st = 4 → (∃ t, exec (.keLingerTimeout k) s = .next t ∧ connOf t k = none) ∧ exec (.keHsTimeout k) s = .next s)
      ∧ (c.unacked ≠ [] → c.resent < 3 → ∃ t, exec (.keRto k) s = .next t ∧
          connOf t k = some { c with resent := c.resent + 1, rto := 2 * c.rto })
      ∧ (c.unacked ≠ [] → 3 ≤ c.resent → ∃ t, exec (.keRto k) s = .next t ∧ connOf t k = none))
    ∧ (∀ n, n < 4 → identPast s n = true →
      ∃ t, exec (.identExpiry n) s = .next t ∧ fbit t (SVC_KE_IDENT n) SVC_KE_IDENT_EXPIRED = true ∧
        (fget t SVC_KE_STATUS SVC_KE_STATUS_IDENT_EXPIRED).testBit n = true ∧ t.ke = s.ke)
    ∧ (∀ n i, s.ke.idents[n]? = some i → tsuUnset s = false → i.notAfter ≤ nowSec s + 30 * 86400 →
      mapGet (fun _ => 0) s.ke.warned n ≠ nowSec s / 86400 + 1 →
      ∃ t, exec (.identExpiryWarning n) s = .next t ∧ mapGet (fun _ => 0) t.ke.warned n = nowSec s / 86400 + 1 ∧
        Frame [] { s with ke := t.ke } t)

/-- ENABLE starts a waveform at a new ORIGIN with the accumulator, its PHASE_INC and its next edge as R359 and R361 give them, and its
clearing ends it without a further edge (R363), where the limits of R362 hold; a rising edge that the accumulator made due raises the level
of an output that is not squelched and needs no lock, delayed by the fine delay (R359, R361), a falling edge lowers it once the high time is
over, into the squelch that has been waiting for it where there is one (R362, R366), and no other edge is possible; the clean-up PLL's lock
and its loss, which squelches the output (R360); the first input edge of an ALIGN output aligns its accumulator, a later one leaves its error to
be removed, and the loss of the input is shown (R364, R365); QERR of the next edge is posted (R368); a time-of-day message labels the coming
second (R369). -/
def Obligations.OutputWaveforms : Prop :=
  ∀ (i : Initiator) (n : Nat) (v : Word) (s : State), s.Ready → n < 8 →
    (∀ u, 2 ≤ roleOf i s → u = outStored (OUT_CTL n) v s → rangesOk (OUT_CTL n) v = true → outOn s n = false → getF OUT_CTL_ENABLE v = 1 →
      outLimits u n = true → outMode u n ≠ 3 →
      ∃ t, exec (.outCtlEnableWrite i n v) s = .next t ∧ outOn t n = true ∧ outMode t n = getF OUT_CTL_MODE v ∧
        (outOf t n).origin = originOf u n ∧ (outOf t n).acc = outAcc u n (originOf u n) (outLocal u n) ∧
        (outOf t n).k = ((outOf t n).acc / 2 ^ 48 + 1).toNat ∧ (outOf t n).inc = phaseInc (outFreq u n) s.tsu.eff ∧
        (outOf t n).edge = none ∧ (outOf t n).captured = false ∧
        Frame [OUT_CTL n, OUT_STATUS n] { s with outs := t.outs } t)
    ∧ (2 ≤ roleOf i s → rangesOk (OUT_CTL n) v = true → outOn s n = true → getF OUT_CTL_ENABLE v = 0 →
      getF OUT_CTL_MODE v = outMode s n → getF OUT_CTL_ALIGN_SRC v = fget s (OUT_CTL n) OUT_CTL_ALIGN_SRC →
      outLimits (outStored (OUT_CTL n) v s) n = true →
      ∃ t, exec (.outCtlEnableWrite i n v) s = .next t ∧ outOn t n = false ∧ fbit t (OUT_STATUS n) OUT_STATUS_DRIVING = false ∧
        outOf t n = { outOf s n with edge := none } ∧ Frame [OUT_CTL n, OUT_STATUS n] { s with outs := t.outs } t)
    ∧ (∀ fine, (outOf s n).edge = some fine → outMode s n ≠ 3 → outQuiet s n = false →
      fbit s (OUT_STATUS n) OUT_STATUS_SQUELCHED = false → fbit s (OUT_STATUS n) OUT_STATUS_PATH = false →
      ∃ t, exec (.outputEdge n true) s = .next t ∧
        outOf t n = { outOf s n with edge := none, level := true, fine := fine, left := outHigh s n } ∧
        Frame [] { s with outs := t.outs } t)
    ∧ ((outOf s n).edge = none → exec (.outputEdge n true) s = .next s)
    ∧ ((outOf s n).level = true → (outOf s n).left = 0 →
      ∃ t, exec (.outputEdge n false) s = .next t ∧ outOf t n = { outOf s n with level := false } ∧
        fbit t (OUT_STATUS n) OUT_STATUS_SQUELCHED =
          (fbit s (OUT_STATUS n) OUT_STATUS_SQUELCHED || (outOn s n && outQuiet s n)) ∧
        Frame [OUT_STATUS n] { s with outs := t.outs } t)
    ∧ ((outOf s n).level = false ∨ (outOf s n).left ≠ 0 → exec (.outputEdge n false) s = .next s)
    ∧ (outOn s n = true → fbit s (OUT_STATUS n) OUT_STATUS_PATH = true →
      ∃ t, exec (.outPllLock n) s = .next t ∧ fbit t (OUT_STATUS n) OUT_STATUS_PLL_LOCK = true ∧
        outOf t n = { outOf s n with pllLost := false } ∧ Frame [OUT_STATUS n] { s with outs := t.outs } t)
    ∧ (outOn s n = true → fbit s (OUT_STATUS n) OUT_STATUS_PLL_LOCK = true →
      ∃ t, exec (.outPllLockLoss n) s = .next t ∧ fbit t (OUT_STATUS n) OUT_STATUS_PLL_LOCK = false ∧
        fbit t (OUT_STATUS n) OUT_STATUS_SQUELCHED = true ∧ outOf t n = { outOf s n with pllLost := true } ∧
        Frame [OUT_STATUS n] { s with outs := t.outs } t)
    ∧ (∀ err, outOn s n = true → (outMode s n = 1 ∨ outMode s n = 2) → fbit s (OUT_STATUS n) OUT_STATUS_SQUELCHED = false →
      ∃ t, exec (.outQerrPost n err) s = .next t ∧ fget t (OUT_QERR n) OUT_QERR_QERR = unsgn OUT_QERR_QERR.width err ∧
        fget t (OUT_QERR n) OUT_QERR_SEC = (outInstant s n (outOf s n).k / 10 ^ 12).toNat % 2 ^ 32 ∧
        fbit t (OUT_STATUS n) OUT_STATUS_QERR_VALID = true ∧ Frame [OUT_STATUS n, OUT_QERR n] s t)
    ∧ (∀ x : Int, outOn s n = true → outMode s n = 3 → (outOf s n).captured = false →
      ∃ t, exec (.alignMeasurement n x) s = .next t ∧ (outOf t n).captured = true ∧
        (outOf t n).acc = -((outFreq s n : Int) * fint s (OUT_PHASE n) OUT_PHASE_PHASE * 2 ^ 48 / 10 ^ 18) ∧
        (outOf t n).k = ((outOf t n).acc / 2 ^ 48 + 1).toNat ∧
        fbit t (OUT_STATUS n) OUT_STATUS_ALIGN_LOST = false ∧ Frame [OUT_STATUS n] { s with outs := t.outs } t)
    ∧ (∀ x e : Int, e = alignError s n x → outOn s n = true → outMode s n = 3 → (outOf s n).captured = true →
      ∃ t, exec (.alignMeasurement n x) s = .next t ∧ outOf t n = { outOf s n with corr := -(e * 2 ^ 72 / 1000) } ∧
        (fbit t (OUT_STATUS n) OUT_STATUS_ALIGNED = true ↔ e.natAbs ≤ 1000) ∧
        fbit t (OUT_STATUS n) OUT_STATUS_ALIGN_LOST = false ∧
        Frame [OUT_STATUS n, OUT_QERR n] { s with outs := t.outs } t)
    ∧ (outOn s n = true → outMode s n = 3 → fbit s (OUT_STATUS n) OUT_STATUS_ALIGN_LOST = false →
      ∃ t, exec (.alignLost n) s = .next t ∧ fbit t (OUT_STATUS n) OUT_STATUS_ALIGNED = false ∧
        fbit t (OUT_STATUS n) OUT_STATUS_ALIGN_LOST = true ∧ Frame [OUT_STATUS n] s t)
    ∧ (∀ k m sec, k < 2 → fbit s (OUT_TOD k) OUT_TOD_ENABLE = true → m = fget s (OUT_TOD k) OUT_TOD_SRC → outMode s m = 2 →
      outOn s m = true → sec = (outOf s m).origin + (outOf s m).k →
      exec (.todOutMessage k) s = .next (emitOut (.tod k (if fbit s (OUT_TOD k) OUT_TOD_FORMAT then zda s sec
        else todBinary s sec (!ntpUnsync s 0 && !fbit s (OUT_STATUS m) OUT_STATUS_SQUELCHED))) s))

/-- ARM takes the schedule of the registers where its first firing lies at least 100 ns ahead, or leaves RESULT LATE (R370); DISARM ends
it; a firing happens on its tick alone, counts, shows how far from its instant it was placed, gives its pulse where PIN_EN is set, and leads to the next firing or the end of the schedule (R371, R372). -/
def Obligations.TriggersFireOnTime : Prop :=
  ∀ (i : Initiator) (n : Nat) (v w : Word) (s : State), s.Ready → n < 16 → w = withBits v [(TRIG_CTL_ARM, 1)] →
    (∀ k, 2 ≤ roleOf i s → rangesOk (TRIG_CTL n) w = true → getF TRIG_CTL_DISARM v = 0 →
      ((rd s (TRIG_PERIOD n)).toNat = 0 ∨ getF TRIG_CTL_WIDTH v * 65536 < (rd s (TRIG_PERIOD n)).toNat) →
      trigFrom s n w = some k → trigOf s n = trigReset n →
      ∃ t, exec (.trigCtlArm i n v) s = .next t ∧ trigOf t n = { cur := some { trigPlan s n w with k := k }, nxt := none } ∧
        fbit t (TRIG_STATUS n) TRIG_STATUS_ARMED = true ∧ fget t (TRIG_STATUS n) TRIG_STATUS_RESULT = 0 ∧
        fget t (TRIG_STATUS n) TRIG_STATUS_FIRED = 0 ∧ fbit t (TRIG_CTL n) TRIG_CTL_PIN_EN = decide (getF TRIG_CTL_PIN_EN v ≠ 0) ∧
        Frame [TRIG_CTL n, TRIG_STATUS n] { s with trigs := t.trigs } t)
    ∧ (2 ≤ roleOf i s → rangesOk (TRIG_CTL n) w = true →
      ((rd s (TRIG_PERIOD n)).toNat = 0 ∨ getF TRIG_CTL_WIDTH v * 65536 < (rd s (TRIG_PERIOD n)).toNat) →
      trigFrom s n w = none →
      ∃ t, exec (.trigCtlArm i n v) s = .next t ∧ fget t (TRIG_STATUS n) TRIG_STATUS_RESULT = 2 ∧ t.trigs = s.trigs ∧
        Frame [TRIG_STATUS n] s t)
    ∧ (2 ≤ roleOf i s → rangesOk (TRIG_CTL n) (rd s (TRIG_CTL n)) = true → fget s (TRIG_CTL n) TRIG_CTL_ARM = 0 →
      (trigOf s n).cur.isSome = true →
      ∃ t, exec (.trigCtlDisarm i n) s = .next t ∧ trigOf t n = trigReset n ∧ fget t (TRIG_STATUS n) TRIG_STATUS_RESULT = 4 ∧
        fbit t (TRIG_STATUS n) TRIG_STATUS_ARMED = false ∧ Frame [TRIG_CTL n, TRIG_STATUS n] { s with trigs := t.trigs } t)
    ∧ (∀ p err, trigOf s n = { cur := some p, nxt := none } →
      (trigDue n s p = true →
        ∃ t, exec (.trigFire n err) s = .next t ∧
          (trigOf t n).cur = (if p.last = some p.k then none else some { p with k := p.k + 1 }) ∧
          fget t (TRIG_STATUS n) TRIG_STATUS_RESULT = 1 ∧
          fget t (TRIG_STATUS n) TRIG_STATUS_FIRED =
            (fget s (TRIG_STATUS n) TRIG_STATUS_FIRED + 1) % 2 ^ TRIG_STATUS_FIRED.width ∧
          (4 ≤ n → incNow s ≤ 2 ^ 72 → fint t (TRIG_STATUS n) TRIG_STATUS_LAST_ERR = divRound (-(trigAway s p) * 1000) (2 ^ 72)) ∧
          (fbit s (TRIG_CTL n) TRIG_CTL_PIN_EN = true → Out.trig n (fget s (TRIG_CTL n) TRIG_CTL_WIDTH) ∈ t.out))
      ∧ (trigDue n s p = false → exec (.trigFire n err) s = .next s))

/-- A device that wants custody drives CUST_OUT after the guard and, with CUST_IN low to the end of the watch, becomes LEADER; a rise in the
watch is a clash that ends the attempt with a delay by INDEX (R378). A lasting disagreement is a custody fault (R381). The first lane that
comes up sends HELLO, the last that goes down closes the session (R382, R384); a HELLO is answered with the proof of both nonces, a twin
that does not fit is refused with its cause, and a valid PROOF opens the session with the keys of R383; CLOSE ends it (R384). -/
def Obligations.TwinCustodyAndSession : Prop :=
  ∀ (s : State), s.Ready →
    (∀ high, (high = false ∨ pst s PAIR_STATUS_ELECT = false) →
      ∃ t, exec (.custInEdge high) s = .next t ∧ custIn t = high ∧ Frame [PAIR_STATUS] s t)
    ∧ (pst s PAIR_STATUS_ELECT = true →
      ∃ t, exec (.custInEdge true) s = .next t ∧ custIn t = true ∧ pst t PAIR_STATUS_ELECT = false ∧ pst t PAIR_STATUS_CUST_OUT = false ∧
        t.pair.retryWait = true ∧ (pairIndex s = 0 → 20000 ≤ t.pair.retryNs ∧ t.pair.retryNs ≤ 100000) ∧
        (pairIndex s = 1 → 120000 ≤ t.pair.retryNs ∧ t.pair.retryNs ≤ 200000) ∧ pairRole t = pairRole s)
    ∧ (custodyWanted s = true →
      ∃ t, exec .custodyGuard s = .next t ∧ pst t PAIR_STATUS_ELECT = true ∧ pst t PAIR_STATUS_CUST_OUT = true ∧ pairRole t = pairRole s)
    ∧ (custodyWanted s = false → exec .custodyGuard s = .next s)
    ∧ (pst s PAIR_STATUS_ELECT = true → custIn s = false →
      ∃ t, exec .custodyWatchEnd s = .next t ∧ pairRole t = 1 ∧ pst t PAIR_STATUS_ELECT = false ∧ pst t PAIR_STATUS_SYNCING = false ∧
        t.pair.yieldSeen = false ∧ t.pair.held = [])
    ∧ (pst s PAIR_STATUS_ELECT = true → custIn s = true → exec .custodyWatchEnd s = .next s)
    ∧ (∃ t, exec .custodyRetry s = .next t ∧ t = { s with pair := { s.pair with retryWait := false } })
    ∧ (s.pair.sessionOpen = true → s.pair.twinHeard = true →
      ∃ t, exec .custFaultTimer s = .next t ∧ pst t PAIR_STATUS_CUST_FAULT = (custIn s != s.pair.twinCustody) ∧ Frame [PAIR_STATUS] s t)
    ∧ (∀ l, l < 2 → pairOn s = true →
      ∃ t, exec (.belayLaneUp l) s = .next t ∧ pst t (if l = 0 then PAIR_STATUS_LANE0_UP else PAIR_STATUS_LANE1_UP) = true ∧
        (lane0 s = false → lane1 s = false → s.pair.sessionOpen = false → s.pair.refused = false →
          t.out = .belay 3 0 (helloBody s t.pair.ownNonce) :: s.out ∧ (s.pair.ownNonce ≠ [] → t.pair.ownNonce = s.pair.ownNonce) ∧
          (s.pair.ownNonce = [] → t.pair.ownNonce.length = 32)))
    ∧ (∀ l, l < 2 →
      ∃ t, exec (.belayLaneDown l) s = .next t ∧ pst t (if l = 0 then PAIR_STATUS_LANE0_UP else PAIR_STATUS_LANE1_UP) = false ∧
        (pst s (if l = 0 then PAIR_STATUS_LANE1_UP else PAIR_STATUS_LANE0_UP) = false → s.pair.sessionOpen = true →
          t.pair.sessionOpen = false ∧ t.pair.keyTx = [] ∧ t.pair.keyRx = [] ∧ pst t PAIR_STATUS_TWIN_UP = false))
    ∧ (∀ b nonce, pairOn s = true → s.pair.refused = false → b.length = 54 → leAt b 0 1 = 1 → nonce = slice b 22 32 →
      nonce ≠ s.pair.twinNonce →
      (leAt b 2 1 = s.variant.code → leAt b 3 2 = Config.fwMajor % 65536 → leAt b 1 1 ≠ pairIndex s →
        ∃ t n0 n1, exec (.helloRx b) s = .next t ∧ t.pair.twinNonce = nonce ∧ t.pair.sessionOpen = false ∧
          (n0, n1) = (if pairIndex s = 0 then (t.pair.ownNonce, nonce) else (nonce, t.pair.ownNonce)) ∧
          t.out.head? = some (.belay 3 0 ([2] ++ pairProof s.pair.key n0 n1 (pairIndex s))) ∧
          fget t PAIR_TWIN PAIR_TWIN_VARIANT = leAt b 2 1 % 4)
      ∧ (leAt b 2 1 ≠ s.variant.code →
        ∃ t, exec (.helloRx b) s = .next t ∧ t.pair.refused = true ∧ fget t PAIR_STATUS PAIR_STATUS_CAUSE = 1)
      ∧ (leAt b 2 1 = s.variant.code → leAt b 3 2 ≠ Config.fwMajor % 65536 →
        ∃ t, exec (.helloRx b) s = .next t ∧ t.pair.refused = true ∧ fget t PAIR_STATUS PAIR_STATUS_CAUSE = 2)
      ∧ (leAt b 2 1 = s.variant.code → leAt b 3 2 = Config.fwMajor % 65536 → leAt b 1 1 = pairIndex s →
        ∃ t, exec (.helloRx b) s = .next t ∧ t.pair.refused = true ∧ fget t PAIR_STATUS PAIR_STATUS_CAUSE = 3))
    ∧ (∀ b n0 n1 ix, pairOn s = true → s.pair.sessionOpen = false → s.pair.refused = false → s.pair.ownNonce ≠ [] → s.pair.twinNonce ≠ [] →
      (n0, n1) = nonces s → ix = pairIndex s →
      (b = 2 :: pairProof s.pair.key n0 n1 (1 - ix) →
        ∃ t, exec (.proofRx b) s = .next t ∧ t.pair.sessionOpen = true ∧ t.pair.ctrRx = 0 ∧ fget t PAIR_STATUS PAIR_STATUS_CAUSE = 0 ∧
          t.pair.keyTx = hkdf (n0 ++ n1) s.pair.key (ascii "GT98 Belay" ++ [BitVec.ofNat 8 ix]) 32 ∧
          t.pair.keyRx = hkdf (n0 ++ n1) s.pair.key (ascii "GT98 Belay" ++ [BitVec.ofNat 8 (1 - ix)]) 32 ∧
          (pairRole s = 3 → t.pair.resync = true))
      ∧ (b.drop 1 ≠ pairProof s.pair.key n0 n1 (1 - ix) →
        ∃ t, exec (.proofRx b) s = .next t ∧ t.pair.sessionOpen = false ∧ t.pair.refused = true ∧
          fget t PAIR_STATUS PAIR_STATUS_CAUSE = 4))
    ∧ (∃ t, exec .sessionRefusalRetry s = .next t ∧ t.pair.refused = false ∧ t.pair.sessionOpen = s.pair.sessionOpen)
    ∧ (∀ ctr box b, linkUp s = true → s.pair.ctrRx ≤ ctr → gcmOpen s.pair.keyRx (belayNonce ctr) [4] box = some b →
      ∃ t, exec (.closeRx ctr box) s = .next t ∧ t.pair.sessionOpen = false ∧ t.pair.keyTx = [] ∧ t.pair.keyRx = [] ∧
        t.pair.twinNonce = [] ∧ pst t PAIR_STATUS_TWIN_UP = false)

/-- Every sealed record is opened once: a second copy is dropped and one that fails is counted (R382, R384). Heartbeats carry the state of
the twin and their absence takes the link down (R386); TIME records give theta (R387, R388); journal records apply in sequence and a gap
asks for a snapshot (R391, R392), which a Leader sends and whose end makes a JOINING device SECOND (R392, R394); YIELD, PART, FRAME and
log entries (R379, R395, R385, R503); PAIR_CMD moves the role where R395 allows it. -/
def Obligations.BelayRecordsAndJournal : Prop :=
  ∀ (i : Initiator) (ctr : Nat) (box b : List Byte) (s : State), s.Ready →
    (∀ ty c x jt, (ty, c) ∈ [(4, Instr.closeRx ctr box), (1, .heartbeatRx ctr box), (2, .timeRx ctr box x), (jt, .journalRx jt ctr box),
        (5, .joinRx ctr box), (0x41, .snapEndRx ctr box), (0x30, .yieldRx ctr box), (0x31, .partRx ctr box), (0x20, .belayFrameRx ctr box),
        (0x15, .cairnRx ctr box)] → linkUp s = true →
      (ctr < s.pair.ctrRx → exec c s = .next s)
      ∧ (s.pair.ctrRx ≤ ctr → gcmOpen s.pair.keyRx (belayNonce ctr) [BitVec.ofNat 8 ty] box = none → s.pair.authRun < 4 →
        ∃ t, exec c s = .next t ∧ t.pair = { s.pair with authRun := s.pair.authRun + 1 } ∧ Frame [] { s with pair := t.pair } t))
    ∧ (linkUp s = true → pairOn s = true →
      ∃ t, exec .heartbeatSend s = .next t ∧ t = { s with pair := { s.pair with ctrTx := s.pair.ctrTx + 1 }, out := t.out } ∧
        t.out = .belay 1 s.pair.ctrTx (gcmSeal s.pair.keyTx (belayNonce s.pair.ctrTx) [1] (heartbeat s)) :: s.out)
    ∧ (pairOn s = true →
      ∃ t, exec .heartbeatMiss s = .next t ∧ t.pair = { s.pair with misses := s.pair.misses + 1 } ∧
        (s.pair.misses < 4 → Frame [] { s with pair := t.pair } t) ∧
        (4 ≤ s.pair.misses → pst t PAIR_STATUS_BELAY_DOWN = true ∧ pst t PAIR_STATUS_TWIN_UP = false ∧
          Frame [PAIR_STATUS] { s with pair := t.pair } t))
    ∧ (∀ x, linkUp s = true → pst s PAIR_STATUS_DIST_HOLD = false → (if ttLane s = 0 then lane0 s else lane1 s) = true →
      ∃ t, exec (.timeSend x) s = .next t ∧ t.pair = { s.pair with prevTx := s.pair.lastTx, lastTx := x, ctrTx := s.pair.ctrTx + 1 } ∧
        t.out = .belay 2 s.pair.ctrTx (gcmSeal s.pair.keyTx (belayNonce s.pair.ctrTx) [2]
          (leBytes 16 s.pair.lastTx ++ leBytes 16 s.pair.lastRx)) :: s.out)
    ∧ (pairRole s = 3 → linkUp s = true →
      ∃ t, exec .joinRetry s = .next t ∧ t.pair.resync = true ∧ t.pair.held = [] ∧ t.pair.jAny = true ∧
        t.out = .belay 5 s.pair.ctrTx (gcmSeal s.pair.keyTx (belayNonce s.pair.ctrTx) [5] []) :: s.out)
    ∧ (linkUp s = true → s.pair.ctrRx ≤ ctr →
      (gcmOpen s.pair.keyRx (belayNonce ctr) [1] box = some b →
        ∃ t, exec (.heartbeatRx ctr box) s = .next t ∧ t.pair.misses = 0 ∧ t.pair.twinHeard = true ∧
          t.pair.twinCustody = decide (leAt b 1 1 = 1) ∧ t.pair.twinStratum = leAt b 3 1 ∧ t.pair.twinDelay = leAt b 12 4 ∧
          fget t PAIR_TWIN PAIR_TWIN_BOUND = leAt b 8 4 ∧ (refSl t 17).q = leAt b 8 4 ∧ pst t PAIR_STATUS_BELAY_DOWN = false ∧
          t.pair.ctrRx = ctr + 1)
      ∧ (∀ (x t1 t2 t3 t4 r : Nat) (asym : Int), gcmOpen s.pair.keyRx (belayNonce ctr) [2] box = some b → pst s PAIR_STATUS_DIST_HOLD = false →
        t1 = s.pair.lastTx → t2 = leAt b 16 16 → t3 = leAt b 0 16 → t4 = s.pair.lastRx → t1 ≠ 0 → t2 ≠ 0 → t3 ≠ 0 → t4 ≠ 0 →
        (r : Int) = ((t4 : Int) - t1) - ((t3 : Int) - t2) → r < 500000 * 2 ^ 32 → s.pair.rtts = [] →
        asym = (if ttLane s = 0 then fint s PAIR_BELAY_ASYM PAIR_BELAY_ASYM_ASYM0 else fint s PAIR_BELAY_ASYM PAIR_BELAY_ASYM_ASYM1) →
        ∃ t, exec (.timeRx ctr box x) s = .next t ∧ t.pair.lastRx = x ∧ t.pair.rtts = [r] ∧
          fint t PAIR_TT PAIR_TT_THETA = satI 48 (theta t1 t2 t3 t4 asym) ∧ t.tsu.now = s.tsu.now)
      ∧ (∀ n, gcmOpen s.pair.keyRx (belayNonce ctr) [0x10] box = some b → n = leAt b 0 8 → pairRole s = 2 → s.pair.resync = false →
        (n = s.pair.jRx + 1 → ∃ t, exec (.journalRx 0x10 ctr box) s = .next t ∧ t.pair.jRx = n ∧
          fget t TSU_UTC_OFFSET TSU_UTC_OFFSET_OFFSET = leAt (b.drop 8) 0 2 ∧ rd t TSU_LEAP_SEC = BitVec.ofNat 64 (leAt (b.drop 8) 3 8) ∧
          fget t PAIR_JSEQ PAIR_JSEQ_RX = n % 2 ^ 32 ∧ t.tsu.now = s.tsu.now)
        ∧ (n ≠ s.pair.jRx + 1 → ∃ t, exec (.journalRx 0x10 ctr box) s = .next t ∧ t.pair.jRx = s.pair.jRx ∧ t.pair.resync = true ∧
          t.pair.held = [] ∧ rd t TSU_UTC_OFFSET = rd s TSU_UTC_OFFSET))
      ∧ (gcmOpen s.pair.keyRx (belayNonce ctr) [5] box = some b → pairRole s = 1 →
        ∃ t, exec (.joinRx ctr box) s = .next t ∧ t.pair.jTx = s.pair.jTx + (snapParts s).length + 1 ∧ pst t PAIR_STATUS_TWIN_UP = true)
      ∧ (∀ n, gcmOpen s.pair.keyRx (belayNonce ctr) [0x41] box = some b → n = leAt b 0 8 → pairRole s = 3 → s.pair.resync = true →
        (s.pair.jAny = true ∨ n = s.pair.jRx + 1) →
        ∃ t, exec (.snapEndRx ctr box) s = .next t ∧ pairRole t = 2 ∧ t.pair.resync = false ∧ t.pair.held = [] ∧ t.pair.jRx = n ∧
          pst t PAIR_STATUS_SYNCING = false)
      ∧ (gcmOpen s.pair.keyRx (belayNonce ctr) [0x30] box = some b → pairRole s = 2 → s.pair.resync = false →
        leAt b 0 8 = s.pair.jRx + 1 → ∃ t, exec (.yieldRx ctr box) s = .next t ∧ t.pair.yieldSeen = true ∧ t.pair.jRx = leAt b 0 8)
      ∧ (gcmOpen s.pair.keyRx (belayNonce ctr) [0x31] box = some b → pairRole s = 2 → s.pair.resync = false →
        leAt b 0 8 = s.pair.jRx + 1 → ∃ t, exec (.partRx ctr box) s = .next t ∧ pairRole t = 3 ∧ t.pair.resync = true)
      ∧ (∀ sp, gcmOpen s.pair.keyRx (belayNonce ctr) [0x20] box = some b → s.pe.inj = [] →
        frameSpot s ((b.drop 1).length + 4) = some sp → injectFits s 10 sp (b.drop 1).length = true →
        ∃ t, exec (.belayFrameRx ctr box) s = .next t ∧
          queueOf t 34 = queueOf s 34 ++ [(injected 10 (leAt b 0 1 % 8) 0x20 sp (b.drop 1) s, gtNow s, false)])
      ∧ (∀ h, gcmOpen s.pair.keyRx (belayNonce ctr) [0x15] box = some b → b.length = 32 → fabRuns s = true →
        h = fget s CNT_CAIRN_HEAD CNT_CAIRN_HEAD_HEAD →
        ∃ t, exec (.cairnRx ctr box) s = .next t ∧ fget t CNT_CAIRN_HEAD CNT_CAIRN_HEAD_HEAD = (h + 1) % 2 ^ 32 ∧
          ldBytes t (0x78000000 + 32 * (h % 4096)) 32 = b.take 10 ++ [0xFE, BitVec.ofNat 8 (leAt b 10 1)] ++ b.drop 12))
    ∧ (3 ≤ roleOf i s →
      (pairRole s = 4 → ∃ t, exec (.pairCmdJoin i) s = .next t ∧ pairRole t = 1)
      ∧ (pairRole s = 3 → linkUp s = true → ∃ t, exec (.pairCmdJoin i) s = .next t ∧ pairRole t = 3 ∧ t.pair.resync = true ∧
        fget t PAIR_STATUS PAIR_STATUS_CAUSE = 0)
      ∧ (pairAllowed 1 s = true → ∃ t, exec (.pairCmdYield i) s = .next t ∧ pairRole t = 2 ∧ pst t PAIR_STATUS_CUST_OUT = false)
      ∧ (pairRole s = 1 → ∃ t, exec (.pairCmdPart i) s = .next t ∧ pairRole t = 4)
      ∧ (pairRole s = 2 → ∃ t, exec (.pairCmdPart i) s = .next t ∧ Frame [] s t))

/-- Earlier than GATE_LEAD before a nominal instant the scheduler does nothing for a stream, multicast or of a grant; from then on it offers the
stream's record at Trailhead 9 where there is room, and counts its sequenceId on, which it does for one it is late for too (R236 to R238). A
unicast request that R245 and R246 grant opens or renews the requester's grant for the duration allowed, a denied one changes none; a
requester's cancellation and a grant's expiry end one granted type, an entry with nothing left is freed, and an upstream's cancellation ends what it
granted, with the wait before the retry (R247, R252). An Announce is kept as a foreign master (R231, R251); silence over ANN_TIMEOUT of its
intervals drops the chosen master and ends the slot's activity (R252); Sync and Follow_Up from after the set edge give t2 - t1 (R50, R251), and
the answers to delay requests the path delay (R244); a grant of an upstream is kept, a denial doubles the wait, and requests are sent
for renewal while the grant holds and for the retry when it does not (R251, R252); a Leader journals its sequenceIds (R255). -/
def Obligations.PtpStreamsAndMasters : Prop :=
  ∀ (s : State), s.Ready →
    (∀ kind inst port j key at_ rec, streamOn s kind inst port = true → key = mSeqKey kind inst port →
      at_ = nominalInstant (streamLog s kind inst port) port none j →
      rec = txRecord kind inst port (txFlags s kind inst (decide (ptpProfile s inst = 4))) (seqOf s key) (streamLog s kind inst port) 0 →
      (gtNow s + ns32 (fget s GATE_LEAD GATE_LEAD_LEAD) < at_ → exec (.ptpTxInject kind inst port none j) s = .next s)
      ∧ (at_ ≤ gtNow s → ∃ t, exec (.ptpTxInject kind inst port none j) s = .next t ∧
        t.ptp = { s.ptp with seqs := mapSet (seqRest s) key ((seqOf s key + 1) % 65536) s.ptp.seqs } ∧ Frame [] { s with ptp := t.ptp } t)
      ∧ (∀ a, gtNow s < at_ → at_ ≤ gtNow s + ns32 (fget s GATE_LEAD GATE_LEAD_LEAD) → frameSpot s (rec.length + 4) = some a →
        injectFits s 9 a rec.length = true →
        ∃ t, exec (.ptpTxInject kind inst port none j) s = .next t ∧
          t.ptp = { s.ptp with seqs := mapSet (seqRest s) key ((seqOf s key + 1) % 65536) s.ptp.seqs } ∧
          queueOf t 33 = queueOf s 33 ++ [(injected 9 port 0x10000 a rec s, gtNow s, false)]))
    ∧ (∀ kind inst port j g x gr key at_ rec, grantOf s g = some x → ((kind = 0 ∧ gr = x.sync) ∨ (kind = 2 ∧ gr = x.ann)) →
      grantLive s gr = true → ptpServes s = true → fbit s PTP_CTL PTP_CTL_ENABLE = true → isMaster s x.port x.inst = true →
      instHeld s x.inst = false → key = uSeqKey kind g → at_ = nominalInstant gr.log x.port (some g) j →
      rec = txRecord kind x.inst x.port (txFlags s kind x.inst true) (seqOf s key) gr.log 0 →
      (gtNow s + ns32 (fget s GATE_LEAD GATE_LEAD_LEAD) < at_ → exec (.ptpTxInject kind inst port (some g) j) s = .next s)
      ∧ (at_ ≤ gtNow s → ∃ t, exec (.ptpTxInject kind inst port (some g) j) s = .next t ∧
        t.ptp = { s.ptp with seqs := mapSet (seqRest s) key ((seqOf s key + 1) % 65536) s.ptp.seqs } ∧ Frame [] { s with ptp := t.ptp } t)
      ∧ (∀ a, gtNow s < at_ → at_ ≤ gtNow s + ns32 (fget s GATE_LEAD GATE_LEAD_LEAD) → frameSpot s (rec.length + 4) = some a →
        injectFits s 9 a rec.length = true →
        ∃ t, exec (.ptpTxInject kind inst port (some g) j) s = .next t ∧
          t.ptp = { s.ptp with seqs := mapSet (seqRest s) key ((seqOf s key + 1) % 65536) s.ptp.seqs } ∧
          queueOf t 33 = queueOf s 33 ++ [(injected 9 x.port (g % 65536) a rec s, gtNow s, false)]))
    ∧ (∀ x rest k a mt lb dur q held base g, puntsOf s 3 = x :: rest → isSignal 4 (puntMsg x) = true → puntInst s x = some k → puntSrc x = some a →
      ptpProfile s k = 4 → (∃ b, signalTlvs (puntMsg x) = [(4, b)] ∧ mt = beAt b 0 1 / 16 ∧ lb = beAt b 1 1 ∧ dur = beAt b 2 4) →
      q = requester x k a → held = grantHeld s (grantAddr a) →
      (held = none → g = grantFree s ∧ base = q) →
      (∀ g0 y0, held = some (g0, y0) → g = g0 ∧ base = { y0 with udp := q.udp, pid := q.pid, eth := q.eth, own := q.own, inst := q.inst }) →
      (grantCause s held q mt (sgn 8 lb) dur = 0 → ∀ y, y = grantPut base mt ⟨true, sgn 8 lb,
          nowSec s + min dur (fget s PTP_GRANT_CFG PTP_GRANT_CFG_MAX_DUR)⟩ → (grantTable g y s).isSome = true →
        ∃ t, exec .grantRequest s = .next t ∧ grantOf t g = some y ∧
          t.pe.punts = mapSet (fun _ => []) 3 rest s.pe.punts)
      ∧ (grantCause s held q mt (sgn 8 lb) dur ≠ 0 →
        ∃ t, exec .grantRequest s = .next t ∧ t.ptp.grants = s.ptp.grants ∧ t.pe.punts = mapSet (fun _ => []) 3 rest s.pe.punts))
    ∧ (∀ x rest k a mt g y z, puntsOf s 3 = x :: rest → isSignal 6 (puntMsg x) = true → puntInst s x = some k → puntSrc x = some a →
      upSlot s x = none → ptpServes s = true → ptpProfile s k = 4 → grantHeld s (grantAddr a) = some (g, y) → grantOf s g = some y →
      (∃ b, signalTlvs (puntMsg x) = [(6, b)] ∧ mt = beAt b 0 1 / 16) → grantType y mt = some z →
      ∃ t w, exec .grantCancelRx s = .next t ∧ grantOf t g = some w ∧ (z.on = true → grantType w mt = some noGrant) ∧
        (∀ m, m ≠ mt → (m = 0xB ∨ m = 0 ∨ m = 9) → grantType w m = grantType y m))
    ∧ (∀ x rest n j, puntsOf s 3 = x :: rest → isSignal 6 (puntMsg x) = true → upSlot s x = some n →
      (∃ b, signalTlvs (puntMsg x) = [(6, b)] ∧ upType (beAt b 0 1 / 16) = some j) →
      ∃ t msg, exec .grantCancelRx s = .next t ∧ t.out = .upstream n msg :: s.out ∧
        (upOf t n).ends = mapSet (fun _ => 0) j 0 (upOf s n).ends ∧
        mapGet (fun _ => 0) (upOf t n).wait j =
          (if mapGet (fun _ => 0) (upOf s n).wait j = 0 then 1 else min 64 (2 * mapGet (fun _ => 0) (upOf s n).wait j)))
    ∧ (∀ g j y z, j < 3 → grantOf s g = some y → grantType y (upMsgType j) = some z → z.on = true →
      ∃ t w, exec (.grantExpiry g j) s = .next t ∧ grantOf t g = some w ∧ grantType w (upMsgType j) = some noGrant ∧
        (w.ann.on = false → w.sync.on = false → w.dresp.on = false → w.idle = nowSec s) ∧
        (∀ h, h ≠ g → grantOf t h = grantOf s h))
    ∧ (∀ g y, grantOf s g = some y → y.ann.on = false → y.sync.on = false → y.dresp.on = false →
      ∃ t, exec (.grantEntryFree g) s = .next t ∧ grantOf t g = none ∧ (∀ h, h ≠ g → grantOf t h = grantOf s h))
    ∧ (∀ x rest k p m, puntsOf s 3 = x :: rest → m = puntMsg x → p = puntPort x → ptpMsgType m = 0xB → puntInst s x = some k →
      ptpRole s p ≠ 0 → ptpRole s p ≠ 4 → slice m 20 8 ≠ beBytes 8 (rd s PTP_CLOCK_ID).toNat → beAt m 61 2 < 255 →
      ∃ t f, exec .announceRx s = .next t ∧ f ∈ t.ptp.foreign ∧ f.port = p ∧ f.inst = k ∧ f.src = ptpSrc m ∧ f.ann = m ∧
        f.at_ = gtNow s ∧ f.addr = puntSrc x ∧
        (∀ h ∈ t.ptp.foreign, h.port = p → h.inst = k → h.src = ptpSrc m → h = f) ∧ t.tsu.now = s.tsu.now)
    ∧ (∀ n, annSilent s n = false → exec (.annTimeout n) s = .next s)
    ∧ (∀ n, 9 ≤ n → n ≤ 16 → (upOf s n).master ≠ [] → annSilent s n = true →
      ∃ t, exec (.annTimeout n) s = .next t ∧ (upOf t n).prior = (upOf s n).master ++ (upOf s n).gm ∧
        (∀ f ∈ t.ptp.foreign, ¬ (f.port = upPort s n ∧ f.inst = upInst s n ∧ f.src = (upOf s n).master)) ∧
        (2 ≤ slotSt s n → (refSl t n).act = false) ∧
        slotSt t n = (if slotSt s n = 3 ∨ slotSt s n = 4 then 5 else slotSt s n))
    ∧ (∀ x rest k m n, puntsOf s 4 = x :: rest → m = puntMsg x → ptpMsgType m = 0 → puntInst s x = some k →
      n ∈ ptpSlots s (puntPort x) k → (upOf s n).master = ptpSrc m →
      ((BitVec.ofNat 8 (beAt m 6 1)).getLsbD 1 = true →
        ∃ t, exec (.upstreamSyncRx false) s = .next t ∧
          (x.old = false → (upOf t n).sync = some (ptpSeq m, descIn x.desc, ptpCorr m) ∧ (upOf t n).ms = (upOf s n).ms))
      ∧ ((BitVec.ofNat 8 (beAt m 6 1)).getLsbD 1 = false →
        ∃ t, exec (.upstreamSyncRx false) s = .next t ∧ (upOf t n).sync = none ∧
          (upOf t n).ms = some (toPtp (descIn x.desc) - ptpStamp m - ptpCorr m)))
    ∧ (∀ x rest k m n t2 c, puntsOf s 3 = x :: rest → m = puntMsg x → ptpMsgType m = 8 → puntInst s x = some k →
      n ∈ ptpSlots s (puntPort x) k → (upOf s n).master = ptpSrc m → (upOf s n).sync = some (ptpSeq m, t2, c) →
      ∃ t, exec (.upstreamSyncRx true) s = .next t ∧ (upOf t n).sync = none ∧
        (upOf t n).ms = some (toPtp t2 - ptpStamp m - c - ptpCorr m))
    ∧ (∀ x rest k m n t3 ms, puntsOf s 3 = x :: rest → m = puntMsg x → ptpMsgType m = 9 → puntInst s x = some k →
      slice m 44 10 = portIdentity s (puntPort x) → launchOf s (puntPort x) k (ptpSeq m) = some t3 → x.old = false →
      n ∈ ptpSlots s (puntPort x) k → (upOf s n).master = ptpSrc m → (upOf s n).ms = some ms →
      ∃ t, exec (.delayAnswerRx 0) s = .next t ∧
        (upOf t n).delay = some (divRound (ms + (ptpStamp m - ptpCorr m - launchPtp t3)) 2) ∧ (upOf t n).ms = some ms)
    ∧ (∀ x rest k m p t1, puntsOf s 4 = x :: rest → m = puntMsg x → p = puntPort x → ptpMsgType m = 3 → x.old = false →
      slice m 44 10 = portIdentity s p → pdelayInst s p (ptpSeq m) = some k → launchOf s p k (ptpSeq m) = some t1 →
      ((BitVec.ofNat 8 (beAt m 6 1)).getLsbD 1 = true →
        ∃ t, exec (.delayAnswerRx 1) s = .next t ∧ t.ptp = { s.ptp with
          pdelay := mapSet (fun _ => none) p (some (ptpSeq m, descIn x.desc, (ptpStamp m).toNat, ptpCorr m)) s.ptp.pdelay })
      ∧ ((BitVec.ofNat 8 (beAt m 6 1)).getLsbD 1 = false →
        ∃ t, exec (.delayAnswerRx 1) s = .next t ∧ t.ptp.link =
          mapSet (fun _ => 0) p (divRound (toPtp (descIn x.desc) - launchPtp t1 - ptpCorr m) 2) s.ptp.link))
    ∧ (∀ x rest k m p t1 t4 t2 c, puntsOf s 3 = x :: rest → m = puntMsg x → p = puntPort x → ptpMsgType m = 0xA → x.old = false →
      slice m 44 10 = portIdentity s p → pdelayInst s p (ptpSeq m) = some k → launchOf s p k (ptpSeq m) = some t1 →
      mapGet (fun _ => none) s.ptp.pdelay p = some (ptpSeq m, t4, t2, c) →
      ∃ t, exec (.delayAnswerRx 2) s = .next t ∧ t.ptp.link =
        mapSet (fun _ => 0) p (divRound (toPtp t4 - launchPtp t1 - (ptpStamp m - (t2 : Int)) - c - ptpCorr m) 2) s.ptp.link)
    ∧ (∀ x rest m n j dur, puntsOf s 3 = x :: rest → m = puntMsg x → isSignal 5 m = true → upSlot s x = some n →
      (∃ b, signalTlvs m = [(5, b)] ∧ upType (beAt b 0 1 / 16) = some j ∧ dur = beAt b 2 4) →
      ∃ t, exec .upstreamGrantReply s = .next t ∧
        (dur ≠ 0 → (upOf t n).ends = mapSet (fun _ => 0) j (nowSec s + dur) (upOf s n).ends ∧
          (upOf t n).wait = mapSet (fun _ => 0) j 0 (upOf s n).wait) ∧
        (dur = 0 → mapGet (fun _ => 0) (upOf t n).wait j =
          (if mapGet (fun _ => 0) (upOf s n).wait j = 0 then 1 else min 64 (2 * mapGet (fun _ => 0) (upOf s n).wait j))))
    ∧ (∀ n j held, 9 ≤ n → n ≤ 16 → ptpProfile s (upInst s n) = 4 → n ∈ ptpSlots s (upPort s n) (upInst s n) →
      held = decide (nowSec s < mapGet (fun _ => 0) (upOf s n).ends j) →
      (held = true → (∃ t msg, exec (.upstreamGrantRenew n j) s = .next t ∧ t.out = .upstream n msg :: s.out ∧
          t = { s with out := t.out, ptp := { s.ptp with seqs := t.ptp.seqs } }) ∧ exec (.upstreamGrantRetry n j) s = .next s)
      ∧ (held = false → (∃ t msg, exec (.upstreamGrantRetry n j) s = .next t ∧ t.out = .upstream n msg :: s.out ∧
          t = { s with out := t.out, ptp := { s.ptp with seqs := t.ptp.seqs } }) ∧ exec (.upstreamGrantRenew n j) s = .next s))
    ∧ (pairRole s = 1 → linkUp s = true →
      ∃ t, exec .ptpseqJournal s = .next t ∧ t.pair = { s.pair with jTx := s.pair.jTx + 1, ctrTx := s.pair.ctrTx + 1 } ∧
        t.out = .belay 0x13 s.pair.ctrTx (gcmSeal s.pair.keyTx (belayNonce s.pair.ctrTx) [0x13]
          (leBytes 8 (s.pair.jTx + 1) ++ seqBody s)) :: s.out ∧ Frame [PAIR_JSEQ] { s with pair := t.pair } t)
    ∧ (pairRole s ≠ 1 → exec .ptpseqJournal s = .next s)

/-- From stage S8 on: ENABLE brings a DISABLED slot to QUALIFYING where its source is there and else to ABSENT, without anything of an
earlier source; clearing it ends in DISABLED (R326). A write of REFS_CTL takes effect at once, or waits for the end of a switch
(R333). A Custodian's ACCEPT_JUMP makes the refused samples the slot's accepted ones, clears JUMP and marks the next switch to pull in (R337); LOCKOUT and UNLOCK move
the slot to LOCKED_OUT and back to QUALIFYING (R326, R341). -/
def Obligations.ReferenceCommands : Prop :=
  ∀ (i : Initiator) (n : Nat) (v : Word) (s : State), s.Ready → n < 20 → (n = 8 → unitBit s.variant 35 = true) →
    (regCheck i (roleOf i s) (REFS_SLOT_CFG n) v s = .ok → 8 ≤ stage s → slotSt s n = 0 → getF REFS_SLOT_CFG_ENABLE v = 1 →
      ∃ t, exec (.refSlotEnableWrite i n v) s = .next t ∧ slotSt t n = (if refPresent s n then 2 else 1) ∧
        fbit t (REFS_SLOT_CFG n) REFS_SLOT_CFG_ENABLE = true ∧ (refSl t n).accepted = [] ∧ (refSl t n).fit = [] ∧
        (refSl t n).p = none ∧ (refSl t n).refused = [] ∧ (refSl t n).tic = (refSl s n).tic)
    ∧ (regCheck i (roleOf i s) (REFS_SLOT_CFG n) v s = .ok → 8 ≤ stage s → slotSt s n ≠ 0 → getF REFS_SLOT_CFG_ENABLE v = 0 →
      ∃ t, exec (.refSlotEnableWrite i n v) s = .next t ∧ slotSt t n = 0 ∧ fbit t (REFS_SLOT_CFG n) REFS_SLOT_CFG_ENABLE = false)
    ∧ (regCheck i (roleOf i s) REFS_CTL v s = .ok → 8 ≤ stage s → switching s = true →
      exec (.refsCtlWrite i v) s = .next { s with servo := { s.servo with ctlWait := some v } })
    ∧ (regCheck i (roleOf i s) REFS_CTL v s = .ok → 8 ≤ stage s → switching s = false →
      ∃ t, exec (.refsCtlWrite i v) s = .next t ∧ fget t REFS_CTL REFS_CTL_MODE = getF REFS_CTL_MODE v ∧
        fget t REFS_CTL REFS_CTL_FORCE_SLOT = getF REFS_CTL_FORCE_SLOT v ∧ fget t REFS_CTL REFS_CTL_WTR = getF REFS_CTL_WTR v)
    ∧ (∀ r rs, 3 ≤ roleOf i s → n ≠ 8 → fbit s (REFS_SLOT_STATE n) REFS_SLOT_STATE_JUMP = true → (refSl s n).refused = r :: rs →
      ∃ t, exec (.refsCmdAcceptJump i n) s = .next t ∧ fbit t (REFS_SLOT_STATE n) REFS_SLOT_STATE_JUMP = false ∧
        fget t (REFS_SLOT_STATE n) REFS_SLOT_STATE_JUMP_RUN = 0 ∧ (refSl t n).accepted = r :: rs ∧ (refSl t n).p = some r ∧
        (refSl t n).refused = [] ∧ t.tsu.now = s.tsu.now ∧ (refSl t n).mustSlew = true)
    ∧ (3 ≤ roleOf i s → 1 < slotSt s n →
      ∃ t, exec (.refsCmdLockout i n) s = .next t ∧ slotSt t n = 6 ∧
        (slotSt s n ≠ 6 → fget t (REFS_SLOT_STATE n) REFS_SLOT_STATE_CAUSE = 7) ∧
        (selected s = n → switching s = false → selected t = 31 ∨ switching t = true))
    ∧ (3 ≤ roleOf i s → slotSt s n = 6 →
      ∃ t, exec (.refsCmdUnlock i n) s = .next t ∧ slotSt t n = 2 ∧ (refSl t n).p = none ∧ (refSl t n).fit = [])

/-- A sample of a slot that is DISABLED or ABSENT does nothing, and one from before a set edge is activity alone (R322). One that the jump test passes becomes the slot's prediction and joins its
accepted samples, and the run of refused samples ends (R322, R336); one that it refuses joins the run, leaves the prediction as it was
and, with the JUMP_CONFIRMth in a row, disqualifies a qualified slot with cause JUMP (R337). A sample of a FREQ slot is its frequency
(R321). The loss of activity, where the rule of the slot's kind finds it, disqualifies with cause 1 and restarts the fit (R321, R323, R326). -/
def Obligations.ReferenceSamples : Prop :=
  ∀ (n at' xo q rtt : Nat) (off : Int) (s : State), s.Ready → n < 20 → n ≠ 8 →
    (∀ old, slotSt s n < 2 → exec (.refSample n at' xo off q rtt old) s = .next s)
    ∧ (2 ≤ slotSt s n →
      ∃ t, exec (.refSample n at' xo off q rtt true) s = .next t ∧ t = { s with refs := t.refs } ∧
        refSl t n = { refSl s n with act := true, misses := 0, lastAt := gtNow s })
    ∧ (∀ r, r = RefSample.mk xo (sampleOffset s n off + ((at' : Int) - xo) / 2 ^ 16) (sampleOffset s n off) at' →
      2 ≤ slotSt s n → slotKind s n ≠ 2 →
      (sampleFits s n at' r.e q = true →
        ∃ t, exec (.refSample n at' xo off q rtt false) s = .next t ∧ (refSl t n).p = some r ∧
          (refSl t n).accepted = within (freqWin n) xo (r :: (refSl s n).accepted) ∧ (refSl t n).refused = [] ∧
          (refSl t n).fit = (if (refSl s n).refused = [] then within (freqWin n) xo (r :: (refSl s n).fit) else [r]) ∧
          (refSl t n).act = true ∧ (refSl t n).misses = 0 ∧ (refSl t n).q = q ∧ (refSl t n).rtt = rtt ∧
          fbit t (REFS_SLOT_STATE n) REFS_SLOT_STATE_JUMP = false ∧ slotSt t n = slotSt s n)
      ∧ (sampleFits s n at' r.e q = false →
        ∃ t, exec (.refSample n at' xo off q rtt false) s = .next t ∧ (refSl t n).p = (refSl s n).p ∧
          (refSl t n).refused = r :: (refSl s n).refused ∧ (refSl t n).accepted = (refSl s n).accepted ∧ (refSl t n).act = true ∧
          fbit t (REFS_SLOT_STATE n) REFS_SLOT_STATE_JUMP = true ∧
          fget t (REFS_SLOT_STATE n) REFS_SLOT_STATE_JUMP_RUN = min ((refSl s n).refused.length + 1) 255 ∧
          slotSt t n = (if fget s (REFS_SLOT_JUMP n) REFS_SLOT_JUMP_CONFIRM ≤ (refSl s n).refused.length + 1 ∧
            (slotSt s n = 3 ∨ slotSt s n = 4) then 5 else slotSt s n)))
    ∧ (2 ≤ slotSt s n → slotKind s n = 2 → selected s ≠ n → (switching s = true → s.servo.target ≠ some n) →
      ∃ t, exec (.refSample n at' xo off q rtt false) s = .next t ∧ (refSl t n).fit = [⟨xo, off, 0, at'⟩] ∧
        (refSl t n).act = true ∧ Frame [] { s with refs := t.refs } t)
    ∧ (2 ≤ slotSt s n → slotKind s n = 2 → selected s = n → switching s = false →
      ∃ t, exec (.refSample n at' xo off q rtt false) s = .next t ∧ (refSl t n).fresh = ⟨xo, off, 0, at'⟩ :: (refSl s n).fresh ∧
        Frame [] { s with refs := t.refs } t)
    ∧ (refSilent s n = false → exec (.refActivityLoss n) s = .next s)
    ∧ (2 ≤ slotSt s n → refSilent s n = true →
      ∃ t, exec (.refActivityLoss n) s = .next t ∧ (refSl t n).act = false ∧ (refSl t n).fit = [] ∧ (refSl t n).good = 0 ∧
        (n ≠ s.servo.lastSel → (refSl t n).p = none) ∧
        slotSt t n = (if slotSt s n = 3 ∨ slotSt s n = 4 then 5 else slotSt s n) ∧
        (slotSt t n ≠ slotSt s n → fget t (REFS_SLOT_STATE n) REFS_SLOT_STATE_CAUSE = 1))

/-- On a TSU second a slot whose source is gone becomes ABSENT, and a QUALIFYING slot within its limits whose QUAL_TIME has passed
becomes QUALIFIED (R323, R326); DRIFTING rises where the slope has kept its limit for HOLD, and falls below half of it (R328, R329); a
condition that lasts DISQ_TIME disqualifies with its cause (R326). HOLDOVER_FORCED selects no slot, FORCED its slot (R331, R333). At
the end of a switch the slot is SELECTED with its absorbed offset in ABSORB, and the time scale has not moved (R334). -/
def Obligations.ReferenceMonitoring : Prop :=
  ∀ (n : Nat) (s : State), s.Ready → n < 20 → (n = 8 → unitBit s.variant 35 = true) →
    (∃ t, exec .refMonitorUpdate s = .next t ∧ t.tsu.now = s.tsu.now ∧ (slotSt s n = 0 → slotSt t n = 0) ∧
      (slotSt s n ≠ 0 → refPresent s n = false → slotSt t n = 1) ∧
      (slotSt s n = 6 → refPresent s n = true → slotSt t n = 6) ∧
      (∀ xs, xs = within (freqWin n) (s.tsu.xo / 2 ^ 16) (refSl s n).fit → slotSt s n = 2 → refPresent s n = true →
        slotKind s n ≠ 2 → (refSl s n).act = true → fbit s (REFS_SLOT_STATE n) REFS_SLOT_STATE_JUMP = false →
        fget s (REFS_SLOT_CFG n) REFS_SLOT_CFG_QUAL_TIME ≤ (refSl s n).good + 1 →
        (xs.length < 3 ∨ (monitor s n (fitOf xs).1 (fitOf xs).2.1).accept = true) → slotSt t n = 3))
    ∧ (∀ now ys sl, now = nowSec s → sl = lsSlope (ys.map (fun p => ((p.1 : Int) - now, p.2))) →
      ys = (refSl s n).ys.filter (fun p => decide (now < p.1 + fget s (REFS_SLOT_DRIFT n) REFS_SLOT_DRIFT_WIN)) →
      2 ≤ slotSt s n → 3 ≤ ys.length → 0 < sl.2 →
      ∃ t, exec .refDriftEstimate s = .next t ∧ slotSt t n = slotSt s n ∧
        (fbit s (REFS_SLOT_STATE n) REFS_SLOT_STATE_DRIFTING = false → sl.1 ≠ 0 → (refSl s n).driftSince ≠ 0 →
          fget s (REFS_SLOT_DRIFT n) REFS_SLOT_DRIFT_RATE * sl.2.toNat ≤ sl.1.natAbs →
          fget s (REFS_SLOT_DRIFT n) REFS_SLOT_DRIFT_HOLD ≤ now - (refSl s n).driftSince →
          fbit t (REFS_SLOT_STATE n) REFS_SLOT_STATE_DRIFTING = true ∧ (refSl t n).driftR = divRound (sl.1 * 1000) sl.2.toNat) ∧
        (fbit s (REFS_SLOT_STATE n) REFS_SLOT_STATE_DRIFTING = true →
          fbit t (REFS_SLOT_STATE n) REFS_SLOT_STATE_DRIFTING =
            decide (fget s (REFS_SLOT_DRIFT n) REFS_SLOT_DRIFT_RATE * sl.2.toNat ≤ 2 * sl.1.natAbs)))
    ∧ (∀ late : Nat → Prop, (∀ a, late a ↔ a ≠ 0 ∧ a + fget s (REFS_SLOT_FLIM n) REFS_SLOT_FLIM_DISQ_TIME ≤ nowMs s) →
      (slotSt s n = 3 ∨ slotSt s n = 4) →
      (late (refSl s n).rejFreq → ∃ t, exec (.disqTimeExpiry n) s = .next t ∧ slotSt t n = 5 ∧
        fget t (REFS_SLOT_STATE n) REFS_SLOT_STATE_CAUSE = 2)
      ∧ (¬ late (refSl s n).rejFreq → late (refSl s n).rejPhase → ∃ t, exec (.disqTimeExpiry n) s = .next t ∧ slotSt t n = 5 ∧
        fget t (REFS_SLOT_STATE n) REFS_SLOT_STATE_CAUSE = 3)
      ∧ (¬ late (refSl s n).rejFreq → ¬ late (refSl s n).rejPhase → late (refSl s n).driftPre →
        ∃ t, exec (.disqTimeExpiry n) s = .next t ∧ slotSt t n = 5 ∧ fget t (REFS_SLOT_STATE n) REFS_SLOT_STATE_CAUSE = 4)
      ∧ (¬ late (refSl s n).rejFreq → ¬ late (refSl s n).rejPhase → ¬ late (refSl s n).driftPre →
        exec (.disqTimeExpiry n) s = .next s))
    ∧ (switching s = false → fbit s PAIR_CFG PAIR_CFG_FOLLOW = false → fget s REFS_CTL REFS_CTL_MODE = 3 → selected s = n →
      slotSt s n = 4 → ∃ t, exec .refWtrEnd s = .next t ∧ selected t = 31 ∧ slotSt t n = 3 ∧ switching t = false ∧
        t.tsu.now = s.tsu.now)
    ∧ (switching s = false → fbit s PAIR_CFG PAIR_CFG_FOLLOW = false → fget s REFS_CTL REFS_CTL_MODE = 2 →
      fget s REFS_CTL REFS_CTL_FORCE_SLOT = n → slotSt s n = 3 → n ≠ 17 →
      ∃ t, exec .refWtrEnd s = .next t ∧ switching t = true ∧ t.servo.target = some n ∧ t.tsu.slewRemain = 0 ∧
        selected t = selected s)
    ∧ (s.servo.target = some n → switching s = true → s.servo.ctlWait = none → slotSt s n = 3 → n ≠ 17 →
      fbit s PAIR_CFG PAIR_CFG_FOLLOW = false → fget s REFS_CTL REFS_CTL_MODE = 1 →
      (selected s = 31 ∨ selected s < 20) → (s.servo.lastSel = 31 ∨ s.servo.lastSel < 20) →
      ∃ t, exec .refSwitchEnd s = .next t ∧ selected t = n ∧ slotSt t n = 4 ∧ switching t = false ∧ t.servo.target = none ∧
        t.servo.lastSel = n ∧ rd t (REFS_SLOT_ABSORB n) = BitVec.ofInt 64 (absorbedOffset s n) ∧ t.tsu.now = s.tsu.now ∧
        fget t REFS_STATUS REFS_STATUS_SWITCHES = (fget s REFS_STATUS REFS_STATUS_SWITCHES + 1) % 2 ^ 16)

/-- With a sample and SET, an update measures φ as the mean of its samples less the slew since and the absorbed offset, moves the integrator,
writes the steering value of R347 and shows φ; without one it steers nothing (R346, R347); the lock run that lasts LOCK_TIME leads to
LOCKED (R345). In holdover the bound grows as R354 says and EXCEEDED follows; a trended holdover writes its frequency (R352); every 10 s
an entry joins the history ring (R349). -/
def Obligations.ServoSteersAndHoldsOver : Prop :=
  ∀ (s : State), s.Ready →
    (∀ n k x phi i, n = selected s → k = loopType s n → x = refSl s n → n < 20 → switching s = false →
      (servoSt s = 1 ∨ servoSt s = 2) →
      phi = meanInt (x.fresh.map (fun r => r.e - slewSince s r.t)) - absorbOf s n →
      i = s.servo.integ + divRound (4 * piNum * piNum * (fget s (SERVO_BW k) SERVO_BW_BW : Int) * (fget s (SERVO_BW k) SERVO_BW_BW : Int)
        * phi * (updatePeriod s n : Int) * 2 ^ 24) (piDen * piDen * 10 ^ 9) →
      (x.fresh = [] →
        ∃ t, exec .servoUpdate s = .next t ∧ t.servo.integ = s.servo.integ ∧ rd t TSU_FREQ_ADJ = rd s TSU_FREQ_ADJ ∧
          t.tsu.now = s.tsu.now ∧ servoSt t = servoSt s)
      ∧ (x.fresh ≠ [] → tsuUnset s = false → k ≠ 2 →
        ∃ t, exec .servoUpdate s = .next t ∧ t.servo.integ = i ∧ (refSl t n).fresh = [] ∧
          fint t TSU_FREQ_ADJ TSU_FREQ_ADJ_FREQ_ADJ = clampAdj (divRound (s.servo.integ * piDen * 2 ^ 22 +
            phi * (fget s SERVO_CFG SERVO_CFG_DAMP : Int) * (fget s (SERVO_BW k) SERVO_BW_BW : Int) * piNum * 2 ^ 40) (piDen * 2 ^ 62)) ∧
          fint t SERVO_PHASE SERVO_PHASE_PHI = satI 48 phi ∧ t.tsu.incPending = true ∧ t.tsu.now = s.tsu.now ∧
          t.tsu.errFs = t.servo.lastB ∧
          (servoSt s = 1 → s.tsu.slewRemain = 0 → s.servo.runAt ≠ 0 →
            phi.natAbs ≤ fget s (SERVO_BW k) SERVO_BW_LOCK_PHASE * 65536 →
            fget s (SERVO_BW k) SERVO_BW_LOCK_TIME * gtSecond ≤ gtNow s + 1 - s.servo.runAt → servoSt t = 2)))
    ∧ (servoSt s ≠ 3 → servoSt s ≠ 4 → exec .holdoverBoundUpdate s = .next s)
    ∧ (servoSt s = 3 ∨ servoSt s = 4 → ∀ b, b = (holdoverBound s (nowNs s - s.servo.tLoss)).1 →
      ∃ t, exec .holdoverBoundUpdate s = .next t ∧
        t.tsu = (if tsuUnset s then s.tsu else { s.tsu with errFs := max b (jumpErr s), freeFs := b }) ∧
        servoSt t = (if servoSt s = 3 ∧ s.servo.limitNs < boundNs t then 4 else servoSt s))
    ∧ (servoSt s ≠ 3 → servoSt s ≠ 4 → exec .holdoverTrendWrite s = .next s)
    ∧ ((servoSt s = 3 ∨ servoSt s = 4) → fbit s SERVO_STATE SERVO_STATE_TREND_ACTIVE = true →
      ∃ t, exec .holdoverTrendWrite s = .next t ∧ fint t TSU_FREQ_ADJ TSU_FREQ_ADJ_FREQ_ADJ = clampAdj (divRound
          (s.servo.ySum * (s.servo.trD * (2 * 10 ^ 9) : Nat) + s.servo.trN * (2 * (nowNs s : Int) - s.servo.tc2) * s.servo.yCnt)
          (s.servo.yCnt * s.servo.trD * (2 * 10 ^ 9))) ∧
        t.tsu = { s.tsu with incPending := true } ∧ Frame [TSU_FREQ_ADJ] { s with tsu := t.tsu } t)
    ∧ (∀ h, h = fget s SERVO_HIST SERVO_HIST_HEAD10 → h < 720 → s.servo.minN < 5 → eccQuiet s = true →
      ∃ t, exec .servoHistoryEntry s = .next t ∧ fget t SERVO_HIST SERVO_HIST_HEAD10 = (h + 1) % 720 ∧
        ldBytes t (histAddr s 0 h) 16 = histEntry s (if s.servo.accN = 0 then integY s else divRound s.servo.accSum s.servo.accN)
          (s.servo.accClean && cleanNow s) ∧
        t.servo.minN = s.servo.minN + 1 ∧ t.servo.accN = 0 ∧
        (∀ a, (a < histAddr s 0 h ∨ histAddr s 0 h + 16 ≤ a) → ldB t a = ldB s a) ∧
        (∀ r, r ≠ SERVO_HIST → rd t r = rd s r) ∧ t.bare = { s with servo := t.servo }.bare)

/-- A derived or drawn key becomes NEXT half a period before its start (R195, R196); at a period boundary NEXT becomes CURRENT and
CURRENT becomes LIVE (R196); a LIVE key whose lifetime ends leaves its slot EMPTY; the first installation makes the key of the present
period CURRENT (R198). The root secret is not touched. -/
def Obligations.MasterKeyLifetimes : Prop :=
  ∀ (s : State), s.Ready → tsuUnset s = false → ntsFitted s = true →
    (∀ kid, keyIn s 1 = none → keyIn s 2 ≠ none → keyRandom s = false → kid = keyIndex s + 1 →
      ∃ t, exec .keyNext s = .next t ∧
        keyOfSlot t (kid % 64) = { key := deriveKey s.svc.root kid, kid := kid % 2 ^ 32, st := 1, random := false,
                                   ends := keyEpoch s + (kid + keyKeep s) * keyPeriod s } ∧
        (∀ n, n ≠ kid % 64 → keyOfSlot t n = keyOfSlot s n) ∧
        (eccQuiet s = true → Frame [SVC_KEY_SLOT (kid % 64), SVC_STATUS] { s with svc := t.svc } t))
    ∧ (keyIn s 1 = none → keyIn s 2 ≠ none → keyRandom s = true → keyMaker s = true →
      ∃ t, exec .keyNext s = .next t ∧ (keyOfSlot t (s.svc.nextId % 64)).st = 1 ∧
        (keyOfSlot t (s.svc.nextId % 64)).kid = s.svc.nextId % 2 ^ 32 ∧ (keyOfSlot t (s.svc.nextId % 64)).random = true ∧
        t.svc.nextId = (s.svc.nextId + 1) % 2 ^ 32 ∧ s.fresh < t.fresh)
    ∧ (∀ n c, keyIn s 1 = some n → keyIn s 2 = some c → (keyRandom s = false ∨ keyMaker s = true) →
      ∃ t, exec .keyRotation s = .next t ∧ keyOfSlot t n = { keyOfSlot s n with st := 2 } ∧
        keyOfSlot t c = { keyOfSlot s c with st := 3 } ∧ (∀ m, m ≠ n → m ≠ c → keyOfSlot t m = keyOfSlot s m))
    ∧ (∀ n, n < 64 → (keyOfSlot s n).st = 3 →
      ∃ t, exec (.keyExpiry n) s = .next t ∧ keyOfSlot t n = keyReset n ∧ (∀ m, m ≠ n → keyOfSlot t m = keyOfSlot s m) ∧
        fget t (SVC_KEY_SLOT n) SVC_KEY_SLOT_STATE = 0 ∧
        (eccQuiet s = true → Frame [SVC_KEY_SLOT n, SVC_STATUS] { s with svc := t.svc } t))
    ∧ (∀ k, keyEpoch s ≤ nowSec s → keyIn s 1 = none → keyIn s 2 = none → keyRandom s = false → k = keyIndex s →
      ∃ t, exec .keysInstall s = .next t ∧
        keyOfSlot t (k % 64) = { key := deriveKey s.svc.root k, kid := k % 2 ^ 32, st := 2, random := false,
                                 ends := keyEpoch s + (k + keyKeep s) * keyPeriod s } ∧ t.svc.root = s.svc.root)

/-- A Custodian's ROTATE turns the keys at once and makes a new NEXT, where the keys are RANDOM; REVOKE empties the slot that holds
the KEY_ID (R197). -/
def Obligations.CustodianKeyControl : Prop :=
  ∀ (i : Initiator) (s : State), s.Ready → 3 ≤ roleOf i s → ntsFitted s = true → pairRole s ≠ 2 →
    (∀ n c, keyRandom s = true → keyIn s 1 = some n → keyIn s 2 = some c → (∀ m, m < 64 → (keyOfSlot s m).st = 1 → m = n) →
      s.svc.nextId % 64 ≠ n → s.svc.nextId % 64 ≠ c →
      ∃ t, exec (.svcKeyCtlRotate i) s = .next t ∧ keyOfSlot t n = { keyOfSlot s n with st := 2 } ∧
        keyOfSlot t c = { keyOfSlot s c with st := 3 } ∧ (keyOfSlot t (s.svc.nextId % 64)).st = 1 ∧
        (keyOfSlot t (s.svc.nextId % 64)).kid = s.svc.nextId % 2 ^ 32)
    ∧ (∀ kid n, kid < 2 ^ 32 → keyHolder s kid = some n → (keyOfSlot s n).st ≠ 2 →
      ∃ t, exec (.svcKeyCtlRevoke i kid) s = .next t ∧ keyOfSlot t n = keyReset n ∧
        (∀ m, m ≠ n → keyOfSlot t m = keyOfSlot s m))

/-- A halving pass halves every counter of the sketch (R201); the aggregation of drops notes what the stock drop reasons have counted
(R205): the next one reports only what comes after it. In the GATE_LEAD before its nominal instant a multicast stream's record joins the
injection queue of Trailhead 9 (R236, R237); a request that R245 and R246 grant opens a grant, a cancellation and an expiry end one granted
type, and an entry with nothing left is freed (R247); a Leader sends its sequenceIds as a journal record (R255). -/
def Obligations.SketchAndDropReports : Prop :=
  ∀ (s : State), s.Ready →
    (∃ t, exec .sketchHalvingPass s = .next t ∧
      (∀ k, mapGet (fun _ => 0) t.svc.sketch k = mapGet (fun _ => 0) s.svc.sketch k / 2) ∧ Frame [] { s with svc := t.svc } t)
    ∧ (∃ t, exec .dropAggregation s = .next t ∧
      (∀ r, 0x10 ≤ r → r < 0x80 → mapGet (fun _ => 0) s.cnt.live (EC_DROP_RSN r) ≠ 0 →
        mapGet (fun _ => 0) t.svc.dropPrev r = mapGet (fun _ => 0) s.cnt.live (EC_DROP_RSN r)) ∧
      t.svc.sketch = s.svc.sketch ∧ Frame [] { s with svc := t.svc } t)
    ∧ (∀ kind inst port j at_ rec a, streamOn s kind inst port = true → at_ = nominalInstant (streamLog s kind inst port) port none j →
      rec = txRecord kind inst port (txFlags s kind inst (decide (ptpProfile s inst = 4))) (seqOf s (mSeqKey kind inst port))
        (streamLog s kind inst port) 0 →
      gtNow s < at_ → at_ ≤ gtNow s + ns32 (fget s GATE_LEAD GATE_LEAD_LEAD) → frameSpot s (rec.length + 4) = some a →
      injectFits s 9 a rec.length = true →
      ∃ t, exec (.ptpTxInject kind inst port none j) s = .next t ∧ (queueOf t 33).length = (queueOf s 33).length + 1)
    ∧ (∀ x rest k a mt lb dur q y, puntsOf s 3 = x :: rest → isSignal 4 (puntMsg x) = true → puntInst s x = some k → puntSrc x = some a →
      ptpProfile s k = 4 → (∃ b, signalTlvs (puntMsg x) = [(4, b)] ∧ mt = beAt b 0 1 / 16 ∧ lb = beAt b 1 1 ∧ dur = beAt b 2 4) →
      q = requester x k a → grantHeld s (grantAddr a) = none → grantCause s none q mt (sgn 8 lb) dur = 0 →
      y = grantPut q mt ⟨true, sgn 8 lb, nowSec s + min dur (fget s PTP_GRANT_CFG PTP_GRANT_CFG_MAX_DUR)⟩ →
      (grantTable (grantFree s) y s).isSome = true →
      ∃ t, exec .grantRequest s = .next t ∧ grantOf t (grantFree s) = some y)
    ∧ (∀ x rest k a mt g y z, puntsOf s 3 = x :: rest → isSignal 6 (puntMsg x) = true → puntInst s x = some k → puntSrc x = some a →
      upSlot s x = none → ptpServes s = true → ptpProfile s k = 4 → grantHeld s (grantAddr a) = some (g, y) → grantOf s g = some y →
      (∃ b, signalTlvs (puntMsg x) = [(6, b)] ∧ mt = beAt b 0 1 / 16) → grantType y mt = some z → z.on = true →
      ∃ t w, exec .grantCancelRx s = .next t ∧ grantOf t g = some w ∧ grantType w mt = some noGrant)
    ∧ (∀ g j y z, j < 3 → grantOf s g = some y → grantType y (upMsgType j) = some z → z.on = true →
      ∃ t w, exec (.grantExpiry g j) s = .next t ∧ grantOf t g = some w ∧ grantType w (upMsgType j) = some noGrant)
    ∧ (∀ g y, grantOf s g = some y → y.ann.on = false → y.sync.on = false → y.dresp.on = false →
      ∃ t, exec (.grantEntryFree g) s = .next t ∧ grantOf t g = none)
    ∧ (pairRole s = 1 → linkUp s = true → ∃ t, exec .ptpseqJournal s = .next t ∧ t.pair.jTx = s.pair.jTx + 1)

/-- An armed channel whose edge keeps the dead time and a tap count of 35 to 80 (R286 to R288): in TIMESTAMP mode it posts the device time
of the edge (R291); in INTERVAL mode a start edge opens a measurement and the stop edge posts the interval between the two in the time
base selected (R289, R290), but the start's own edge stops nothing; a measurement without a stop edge ends with status 4, or 3 where the
start was in HOLD (R290, R294). The GNSS time pulse is an edge source only where it has its edges (R285, R312). A channel that is not CONTINUOUS is
then no longer armed (R293). -/
def Obligations.IntervalMeasurements : Prop :=
  ∀ (n root tt k k1 k2 : Nat) (num : Int) (s : State), s.Ready → ticFitted s n = true → num = (k : Int) - (2 * (k1 : Int) - k2) →
    (35 ≤ (k2 : Int) - k1 → (k2 : Int) - k1 ≤ 80 → (ticOf s n).armed = true → (ticOf s n).lastS = none →
      ticSource s.variant (fget s (TIC_CH_SRC n) TIC_CH_SRC_START) = true →
      (fget s (TIC_CH_SRC n) TIC_CH_SRC_START = 24 → ticPulse s (fbit s (TIC_CH_SRC n) TIC_CH_SRC_START_EDGE) = true) → fget s (TIC_CH_CTL n) TIC_CH_CTL_MODE = 1 → (ticOf s n).fifo.length < 64 →
      ∃ t, exec (.ticEdge n false root tt k k1 k2) s = .next t ∧
        (ticOf t n).armed = decide (fget s (TIC_CH_CTL n) TIC_CH_CTL_ARM_SRC = 0) ∧
        ∀ x, x = ((ticTime s n tt : Int) - divRound (num * ((rd s TSU_INC_EFF).toNat : Int)) ((k2 - k1) * 2 ^ 25)).toNat →
          ∃ w2, (ticOf t n).fifo = (ticOf s n).fifo ++ [(gtSec x, gtSub x, w2)] ∧ w2 / 2 ^ 40 % 4 = 1)
    ∧ (35 ≤ (k2 : Int) - k1 → (k2 : Int) - k1 ≤ 80 → (ticOf s n).armed = true → (ticOf s n).lastS = none →
      ticSource s.variant (fget s (TIC_CH_SRC n) TIC_CH_SRC_START) = true →
      (fget s (TIC_CH_SRC n) TIC_CH_SRC_START = 24 → ticPulse s (fbit s (TIC_CH_SRC n) TIC_CH_SRC_START_EDGE) = true) → fget s (TIC_CH_CTL n) TIC_CH_CTL_MODE = 0 → (ticOf s n).first = none →
      ∃ t e, exec (.ticEdge n false root tt k k1 k2) s = .next t ∧ (ticOf t n).first = some e ∧ e.root = root ∧ e.num = num ∧
        e.den = k2 - k1 ∧ e.t = ticTime s n tt ∧ e.n = ((ticOf s n).cntS + 1) * 2 ^ fget s (TIC_CH_SRC n) TIC_CH_SRC_START_PRE ∧
        (ticOf t n).fifo = (ticOf s n).fifo)
    ∧ (∀ a e, 35 ≤ (k2 : Int) - k1 → (k2 : Int) - k1 ≤ 80 → (ticOf s n).armed = true → (ticOf s n).lastP = none →
      ticSource s.variant (fget s (TIC_CH_SRC n) TIC_CH_SRC_STOP) = true →
      (fget s (TIC_CH_SRC n) TIC_CH_SRC_STOP = 24 → ticPulse s (fbit s (TIC_CH_SRC n) TIC_CH_SRC_STOP_EDGE) = true) → fget s (TIC_CH_CTL n) TIC_CH_CTL_MODE = 0 → (ticOf s n).first = some a →
      (ticOf s n).fifo.length < 64 →
      e = TicEdge.mk root num (k2 - k1) (ticTime s n tt) (rd s TSU_INC_EFF).toNat
        (((ticOf s n).cntP + 1) * 2 ^ fget s (TIC_CH_SRC n) TIC_CH_SRC_STOP_PRE) (!fbit s TSU_STATE TSU_STATE_STATE) (inHold s (16 + n)) →
      ((ticSame s n = true → a.n < e.n) →
        ∃ t w2, exec (.ticEdge n true root tt k k1 k2) s = .next t ∧ (ticOf t n).first = none ∧
          (ticOf t n).fifo = (ticOf s n).fifo ++ [(if ticStatus 0 a e = 2 then 0 else
            unsgn 64 (ticInterval s (fbit s (TIC_CH_CTL n) TIC_CH_CTL_TBASE) a e), a.n % 2 ^ 32, w2)] ∧
          w2 / 2 ^ 32 % 256 = ticStatus 0 a e)
      ∧ (ticSame s n = true → e.n ≤ a.n →
        ∃ t, exec (.ticEdge n true root tt k k1 k2) s = .next t ∧ (ticOf t n).first = some a ∧ (ticOf t n).fifo = (ticOf s n).fifo))
    ∧ (fget s (TIC_CH_SRC n) TIC_CH_SRC_START = 24 → ticPulse s (fbit s (TIC_CH_SRC n) TIC_CH_SRC_START_EDGE) = false →
      exec (.ticEdge n false root tt k k1 k2) s = .next s)
    ∧ (∀ a, fget s (TIC_CH_CTL n) TIC_CH_CTL_MODE = 0 → fget s (TIC_CH_GATE n) TIC_CH_GATE_TIMEOUT_US ≠ 0 →
      (ticOf s n).first = some a → (ticOf s n).fifo.length < 64 →
      ∃ t w2, exec (.ticTimeout n) s = .next t ∧ (ticOf t n).first = none ∧
        (ticOf t n).fifo = (ticOf s n).fifo ++ [(0, a.n % 2 ^ 32, w2)] ∧
        w2 / 2 ^ 32 % 256 = (if a.hold then 3 else 4))

/-- ARM starts the prescalers and edge counters again (R286, R293); a change of the sources is stored and aborts the measurement
(R293), for an initiator the channel belongs to (R295); a read of RES0 takes the oldest result off the FIFO and leaves its other words
with the reader (R294). -/
def Obligations.IntervalChannelControl : Prop :=
  ∀ (i : Initiator) (n : Nat) (v : Word) (s : State), s.Ready → ticFitted s n = true →
    (isCore i = true ∨ fbit s (TIC_CH_CTL n) TIC_CH_CTL_OWNER = true) →
    (2 ≤ roleOf i s → rangesOk (TIC_CH_CTL n) (withBits v [(TIC_CH_CTL_ARM, 1)]) = true →
      ∃ t, exec (.ticCtlArm i n v) s = .next t ∧
        ticOf t n = { ticOf s n with armed := true, cntS := 0, cntP := 0, first := none } ∧
        fget t (TIC_CH_CTL n) TIC_CH_CTL_MODE = getF TIC_CH_CTL_MODE v ∧ fbit t (TIC_CH_STATUS n) TIC_CH_STATUS_ARMED = true ∧
        Frame [TIC_CH_CTL n, TIC_CH_STATUS n] { s with tic := t.tic } t)
    ∧ (2 ≤ roleOf i s → rangesOk (TIC_CH_SRC n) v = true →
      ∃ t, exec (.ticConfigWrite i n true v) s = .next t ∧ fget t (TIC_CH_SRC n) TIC_CH_SRC_START = getF TIC_CH_SRC_START v ∧
        fget t (TIC_CH_SRC n) TIC_CH_SRC_STOP = getF TIC_CH_SRC_STOP v ∧
        ((ticOf s n).armed = true → (ticOf t n).first = none ∧ (ticOf t n).armed = true ∧ (ticOf t n).cntS = 0) ∧
        (ticOf t n).fifo = (ticOf s n).fifo ∧ Frame [TIC_CH_SRC n, TIC_CH_STATUS n] { s with tic := t.tic } t)
    ∧ (∀ w0 w1 w2 r, roleOf i s ≠ 0 → (ticOf s n).fifo = (w0, w1, w2) :: r →
      ∃ t, exec (.ticRes0Read i n) s = .next t ∧ mapGet (fun _ => 0) t.busOut (initIx i) = BitVec.ofNat 64 w0 ∧
        rdI t i (TIC_CH_RES1 n) = BitVec.ofNat 64 w1 ∧ rdI t i (TIC_CH_RES2 n) = BitVec.ofNat 64 w2 ∧
        ticOf t n = { ticOf s n with fifo := r } ∧
        Frame [TIC_CH_STATUS n] { s with tic := t.tic, busOut := t.busOut, initRegs := t.initRegs } t)

/-- A poll spends one cookie on a request, or begins NTS-KE where none is left; a poll without an answer counts a miss, and the fourth in a
row ends the slot's activity (R321, R339); a reply that carries the request's identifier and timestamp and that opens under S2C refills
the cookies and gives a sample; an NTS-KE response from a chain that leads to a trust anchor held leaves its keys and at most eight cookies
(R339). A time-of-day message that labels its pulse as the last label and the pulses since ask gives a sample of REF18 or REF19; another one
is only counted (R340). Of a PTP upstream, an Announce is kept, its silence ends the slot's activity, Sync and Follow_Up give t2 - t1, a
Delay_Resp gives the path delay, and a grant is kept, renewed and asked for again (R244, R251, R252). -/
def Obligations.NtsClientAndTimeOfDay : Prop :=
  ∀ (n : Nat) (s : State), s.Ready →
    (ntsSlot s n = true → (ntsOf s n).cookies = [] → (ntsOf s n).ke = false →
      ∃ t, exec (.ntsUpstreamPoll n) s = .next t ∧ t.out = .upstream n keAsk :: s.out ∧
        ntsOf t n = { ntsOf s n with ke := true, c2s := [], s2c := [], cookies := [] } ∧
        t = { s with out := t.out, nts := t.nts })
    ∧ (∀ ck rest, ntsSlot s n = true → (ntsOf s n).cookies = ck :: rest →
      ∃ t msg, exec (.ntsUpstreamPoll n) s = .next t ∧ t.out = .upstream n msg :: s.out ∧ (ntsOf t n).cookies = rest ∧
        (ntsOf t n).uid.length = 32 ∧ extField 0x0104 (ntsOf t n).uid ++ extField 0x0204 ck <:+: msg ∧
        slice msg 40 8 = beBytes 8 (ntsOf t n).xmt ∧ (ntsOf t n).c2s = (ntsOf s n).c2s ∧
        t = { s with out := t.out, nts := t.nts, fresh := t.fresh })
    ∧ (ntsSlot s n = true → (ntsOf s n).uid ≠ [] →
      ∃ t, exec (.ntsPollTimeout n) s = .next t ∧ ntsOf t n = { ntsOf s n with uid := [] } ∧
        (refSl t n).misses = (refSl s n).misses + 1 ∧ ((refSl s n).misses < 3 → (refSl t n).act = (refSl s n).act ∧
          slotSt t n = slotSt s n) ∧
        (3 ≤ (refSl s n).misses → (refSl t n).act = false ∧ slotSt t n = (if slotSt s n = 3 ∨ slotSt s n = 4 then 5 else slotSt s n)))
    ∧ (∀ t1 t4 old m inner, ntsSlot s n = true → (ntsOf s n).uid ≠ [] → 48 ≤ m.length → beAt m 0 1 % 8 = 4 → beAt m 0 1 < 0xC0 →
      beAt m 24 8 = (ntsOf s n).xmt → (0x0104, (ntsOf s n).uid) ∈ (ntpExts 32 48 (m.drop 48)).map (·.2) →
      0 < beAt m 1 1 → beAt m 1 1 < 16 → ntsOpen (ntsOf s n).s2c m = some inner →
      ∃ t, exec (.ntsPollReply n t1 t4 old m) s = .next t ∧ (ntsOf t n).uid = [] ∧
        (ntsOf t n).cookies = ((ntsOf s n).cookies ++
          ((ntpExts 32 0 inner).filter (fun y => y.2.1 = 0x0204)).map (·.2.2)).take 8 ∧
        (refSl t n).upStratum = beAt m 1 1 ∧ (refSl t n).upRefId = beAt m 12 4 ∧ (refSl t n).upDelay = shortNs (beAt m 4 4) ∧
        (refSl t n).act = true ∧ (refSl t n).misses = 0 ∧ t.tsu.now = s.tsu.now)
    ∧ (∀ t1 t4 old m, (ntsOf s n).uid = [] ∨ beAt m 24 8 ≠ (ntsOf s n).xmt → exec (.ntsPollReply n t1 t4 old m) s = .next s)
    ∧ (∀ nb na c2s s2c recs l, (ntsOf s n).ke = true → (ntsOf s n).anchors ≠ [] → tsuUnset s = false → l = keRecords 64 recs → nb ≤ nowSec s → nowSec s ≤ na →
      (1, [0, 0]) ∈ l → (4, [0, 15]) ∈ l → (∀ r ∈ l, r.1 ≠ 2) → (∃ b, (0, b) ∈ l) → (∃ b, (5, b) ∈ l) →
      ∃ t, exec (.ntsKeClientResponse n true nb na c2s s2c recs) s = .next t ∧ t = { s with nts := t.nts } ∧
        ntsOf t n = { ntsOf s n with ke := false, c2s := c2s, s2c := s2c,
                                     cookies := ((l.filter (fun r => r.1 = 5)).map (·.2)).take 8 })
    ∧ (∀ chain nb na c2s s2c recs, (ntsOf s n).ke = true → (chain = false ∨ (ntsOf s n).anchors = []) →
      ∃ t, exec (.ntsKeClientResponse n chain nb na c2s s2c recs) s = .next t ∧ t = { s with nts := t.nts } ∧
        ntsOf t n = { ntsOf s n with ke := false })
    ∧ (∀ k b e x xo l q d, k < 2 → 2 ≤ slotSt s (18 + k) → todLabel s k b = some (l, q) →
      d = (if fbit s (REFS_SLOT_INPUT (18 + k)) REFS_SLOT_INPUT_LABEL then x - e else e - x) →
      ns32 10000000 ≤ d → d ≤ ns32 990000000 →
      (∀ l0 x0, mapGet (fun _ => none) s.tod k = some (l0, x0) → (l : Int) = l0 + pulsesBetween x0 xo) →
      ∃ t, exec (.todMessage k b true e (some (x, xo))) s = .next t ∧ mapGet (fun _ => none) t.tod k = some (l, xo) ∧
        exec (.refSample (18 + k) x xo ((l : Int) * 1000000000 * 65536 - divRound x 65536) q 0 (decide (xo < s.tsu.setXo)))
          { refSlSet (18 + k) { refSl s (18 + k) with lastAt := x } s with tod := t.tod } = .next t)
    ∧ (∀ k b e x xo l q l0 x0, k < 2 → 2 ≤ slotSt s (18 + k) → todLabel s k b = some (l, q) →
      mapGet (fun _ => none) s.tod k = some (l0, x0) → (l : Int) ≠ l0 + pulsesBetween x0 xo →
      ∃ t, exec (.todMessage k b true e (some (x, xo))) s = .next t ∧ mapGet (fun _ => none) t.tod k = some (l, xo) ∧
        refSl t (18 + k) = { refSl s (18 + k) with lastAt := x } ∧ Frame [] { s with refs := t.refs, tod := t.tod } t)
    ∧ (∀ k b framed e pulse, k < 2 → 2 ≤ slotSt s (18 + k) → (framed = false ∨ todLabel s k b = none) →
      ∃ t, exec (.todMessage k b framed e pulse) s = .next t ∧ (refSl t (18 + k)).accepted = (refSl s (18 + k)).accepted ∧
        (refSl t (18 + k)).act = (refSl s (18 + k)).act ∧ Frame [] { s with refs := t.refs } t)
    ∧ (∀ x rest k p m, puntsOf s 3 = x :: rest → m = puntMsg x → p = puntPort x → ptpMsgType m = 0xB → puntInst s x = some k →
      ptpRole s p ≠ 0 → ptpRole s p ≠ 4 → slice m 20 8 ≠ beBytes 8 (rd s PTP_CLOCK_ID).toNat → beAt m 61 2 < 255 →
      ∃ t f, exec .announceRx s = .next t ∧ f ∈ t.ptp.foreign ∧ f.src = ptpSrc m ∧ f.ann = m)
    ∧ (9 ≤ n → n ≤ 16 → (upOf s n).master ≠ [] → annSilent s n = true → 2 ≤ slotSt s n →
      ∃ t, exec (.annTimeout n) s = .next t ∧ (refSl t n).act = false)
    ∧ (∀ x rest k m, puntsOf s 4 = x :: rest → m = puntMsg x → ptpMsgType m = 0 → puntInst s x = some k →
      n ∈ ptpSlots s (puntPort x) k → (upOf s n).master = ptpSrc m → (BitVec.ofNat 8 (beAt m 6 1)).getLsbD 1 = false →
      ∃ t, exec (.upstreamSyncRx false) s = .next t ∧ (upOf t n).ms = some (toPtp (descIn x.desc) - ptpStamp m - ptpCorr m))
    ∧ (∀ x rest k m t2 c, puntsOf s 3 = x :: rest → m = puntMsg x → ptpMsgType m = 8 → puntInst s x = some k →
      n ∈ ptpSlots s (puntPort x) k → (upOf s n).master = ptpSrc m → (upOf s n).sync = some (ptpSeq m, t2, c) →
      ∃ t, exec (.upstreamSyncRx true) s = .next t ∧ (upOf t n).ms = some (toPtp t2 - ptpStamp m - c - ptpCorr m))
    ∧ (∀ x rest k m t3 ms, puntsOf s 3 = x :: rest → m = puntMsg x → ptpMsgType m = 9 → puntInst s x = some k →
      slice m 44 10 = portIdentity s (puntPort x) → launchOf s (puntPort x) k (ptpSeq m) = some t3 → x.old = false →
      n ∈ ptpSlots s (puntPort x) k → (upOf s n).master = ptpSrc m → (upOf s n).ms = some ms →
      ∃ t, exec (.delayAnswerRx 0) s = .next t ∧ (upOf t n).delay = some (divRound (ms + (ptpStamp m - ptpCorr m - launchPtp t3)) 2))
    ∧ (∀ x rest m j dur, puntsOf s 3 = x :: rest → m = puntMsg x → isSignal 5 m = true → upSlot s x = some n →
      (∃ b, signalTlvs m = [(5, b)] ∧ upType (beAt b 0 1 / 16) = some j ∧ dur = beAt b 2 4) → dur ≠ 0 →
      ∃ t, exec .upstreamGrantReply s = .next t ∧ (upOf t n).ends = mapSet (fun _ => 0) j (nowSec s + dur) (upOf s n).ends)
    ∧ (∀ j, 9 ≤ n → n ≤ 16 → ptpProfile s (upInst s n) = 4 → n ∈ ptpSlots s (upPort s n) (upInst s n) →
      nowSec s < mapGet (fun _ => 0) (upOf s n).ends j →
      ∃ t msg, exec (.upstreamGrantRenew n j) s = .next t ∧ t.out = .upstream n msg :: s.out)
    ∧ (∀ j, 9 ≤ n → n ≤ 16 → ptpProfile s (upInst s n) = 4 → n ∈ ptpSlots s (upPort s n) (upInst s n) →
      mapGet (fun _ => 0) (upOf s n).ends j ≤ nowSec s →
      ∃ t msg, exec (.upstreamGrantRetry n j) s = .next t ∧ t.out = .upstream n msg :: s.out)
end

