-- ==== Sys2Proof/Laws/Map.lean ====
section
/-!
SUPPORT. Laws/Map.lean: reading after writing a sparse map, and that every write keeps the canonical form.
-/
namespace Sys2Proof.Laws
open Sys2Proof.Machine

variable {α : Type}

theorem mapRises_mono {b c : Nat} (h : c ≤ b) : ∀ {m : List (Nat × α)}, mapRises b m = true → mapRises c m = true
  | [], _ => rfl
  | (j, w) :: m, hm => by
    simp only [mapRises, Bool.and_eq_true, decide_eq_true_eq] at hm ⊢
    exact ⟨by omega, hm.2⟩

/-- A key at or below the bound of a rising map reads the default. -/
theorem mapGet_of_rises (d : Nat → α) {b k : Nat} (h : k ≤ b) :
    ∀ {m : List (Nat × α)}, mapRises b m = true → mapGet d m k = d k
  | [], _ => rfl
  | (j, w) :: m, hm => by
    simp only [mapRises, Bool.and_eq_true, decide_eq_true_eq] at hm
    simp only [mapGet]
    rw [if_neg (by omega), if_pos (by omega)]

theorem mapWf_rises [DecidableEq α] {d : Nat → α} {j : Nat} {w : α} {m : List (Nat × α)}
    (h : mapWf d ((j, w) :: m) = true) : w ≠ d j ∧ mapRises j m = true ∧ mapWf d m = true := by
  simp only [mapWf, Bool.and_eq_true, decide_eq_true_eq] at h
  exact ⟨h.1.1, h.1.2, h.2⟩

/-- Reading the key just written gives the value written. -/
theorem mapGet_mapSet_same [DecidableEq α] (d : Nat → α) (k : Nat) (v : α) :
    ∀ {m : List (Nat × α)}, mapWf d m = true → mapGet d (mapSet d k v m) k = v
  | [], _ => by
    simp only [mapSet]; split <;> simp_all [mapGet]
  | (j, w) :: m, hm => by
    obtain ⟨_, hr, hw⟩ := mapWf_rises hm
    simp only [mapSet]
    split
    · split
      · simp only [mapGet]; rw [if_neg (by omega), if_pos (by assumption)]; simp_all
      · simp [mapGet]
    · split
      · split
        · subst k; rw [mapGet_of_rises d (Nat.le_refl _) hr]; simp_all
        · simp [mapGet]
      · simp only [mapGet]; rw [if_neg (by omega), if_neg (by omega)]
        exact mapGet_mapSet_same d k v hw

/-- Reading another key is unchanged by a write (of any list, canonical or not, whose keys rise). -/
theorem mapGet_mapSet_other [DecidableEq α] (d : Nat → α) {k i : Nat} (v : α) (h : i ≠ k) :
    ∀ {m : List (Nat × α)}, mapWf d m = true → mapGet d (mapSet d k v m) i = mapGet d m i
  | [], _ => by
    simp only [mapSet]; split
    · rfl
    · simp only [mapGet]; rw [if_neg h]; split <;> rfl
  | (j, w) :: m, hm => by
    obtain ⟨_, hr, hw⟩ := mapWf_rises hm
    simp only [mapSet]
    split
    · split
      · rfl
      · simp only [mapGet]; rw [if_neg h]
        by_cases hik : i < k
        · rw [if_pos hik, if_neg (by omega), if_pos (by omega)]
        · rw [if_neg hik]
    · split
      · split
        · subst k; simp only [mapGet]; rw [if_neg h]
          by_cases hij : i < j
          · rw [if_pos hij, mapGet_of_rises d (by omega) hr]
          · rw [if_neg hij]
        · subst k; simp only [mapGet]; rw [if_neg h, if_neg h]
      · simp only [mapGet]
        by_cases hij : i = j
        · rw [if_pos hij, if_pos hij]
        · rw [if_neg hij, if_neg hij, mapGet_mapSet_other d v h hw]

theorem mapSet_rises [DecidableEq α] (d : Nat → α) {b k : Nat} (v : α) (h : b < k) :
    ∀ {m : List (Nat × α)}, mapRises b m = true → mapRises b (mapSet d k v m) = true
  | [], _ => by simp only [mapSet]; split <;> simp [mapRises, h]
  | (j, w) :: m, hm => by
    simp only [mapRises, Bool.and_eq_true, decide_eq_true_eq] at hm
    simp only [mapSet]
    split
    · split
      · simpa [mapRises] using hm
      · simp [mapRises, h, hm.2]; omega
    · split
      · split
        · exact mapRises_mono (Nat.le_of_lt hm.1) hm.2
        · subst k; simpa [mapRises, h] using hm.2
      · simp only [mapRises, Bool.and_eq_true, decide_eq_true_eq]
        exact ⟨hm.1, mapSet_rises d v (by omega) hm.2⟩

/-- A write keeps the canonical form. -/
theorem mapWf_mapSet [DecidableEq α] (d : Nat → α) (k : Nat) (v : α) :
    ∀ {m : List (Nat × α)}, mapWf d m = true → mapWf d (mapSet d k v m) = true
  | [], _ => by simp only [mapSet]; split <;> simp_all [mapWf, mapRises]
  | (j, w) :: m, hm => by
    obtain ⟨hne, hr, hw⟩ := mapWf_rises hm
    simp only [mapSet]
    split
    · split
      · exact hm
      · simp only [mapWf, mapRises, Bool.and_eq_true, decide_eq_true_eq]
        exact ⟨⟨by assumption, by assumption, hr⟩, ⟨hne, hr⟩, hw⟩
    · split
      · split
        · exact hw
        · subst k; simp only [mapWf, Bool.and_eq_true, decide_eq_true_eq]; exact ⟨⟨by assumption, hr⟩, hw⟩
      · simp only [mapWf, Bool.and_eq_true, decide_eq_true_eq]
        exact ⟨⟨hne, mapSet_rises d v (by omega) hr⟩, mapWf_mapSet d k v hw⟩

/-- Writing bytes keeps the canonical form. -/
theorem mapWf_mapPut (d : Nat → BitVec 8) : ∀ (bs : List (BitVec 8)) {m : List Host.Cell} (a : Nat),
    mapWf d m = true → mapWf d (mapPut d m a bs) = true
  | [], _, _, h => h
  | b :: bs, _, a, h => mapWf_mapPut d bs (a + 1) (mapWf_mapSet d a b h)

/-- A byte outside the bytes written reads as before. -/
theorem mapGet_mapPut_other (d : Nat → BitVec 8) : ∀ (bs : List (BitVec 8)) {m : List Host.Cell} (a i : Nat),
    mapWf d m = true → (i < a ∨ a + bs.length ≤ i) → mapGet d (mapPut d m a bs) i = mapGet d m i
  | [], _, _, _, _, _ => rfl
  | b :: bs, m, a, i, h, hi => by
    simp only [mapPut]
    rw [mapGet_mapPut_other d bs (a + 1) i (mapWf_mapSet d a b h) (by simp at hi; omega),
      mapGet_mapSet_other d b (by simp at hi; omega) h]

end Sys2Proof.Laws
end

