-- ==== Sys2Proof/Laws/Keeps.lean ====
section
/-!
SUPPORT. Laws/Keeps.lean: the relation Keeps of Safety.lean: it composes, and the operations of Machine/Ops.lean have it.
-/
namespace Sys2Proof.Laws
open Sys2Proof Sys2Proof.Machine

/-- A result in which a state may be missing keeps. -/
def OKeeps (a : State) (o : Option State) : Prop := ∀ t, o = some t → Keeps a t

/-- The same with something beside the state. -/
def OPKeeps {α : Type} (a : State) (o : Option (α × State)) : Prop := ∀ p, o = some p → Keeps a p.2

/-- A Harness command's result keeps. -/
def CKeeps (a : State) : CRes → Prop
  | .ok _ s => Keeps a s
  | .no _ _ _ => True
  | .cut _ _ s => Keeps a s
  | .wait s => Keeps a s

/-- The same where the result may be missing. -/
def OCKeeps (a : State) (o : Option CRes) : Prop := ∀ r, o = some r → CKeeps a r

/-- A Pitch instruction's result keeps. -/
def PKeeps (a : State) : POut → Prop
  | .ok _ s => Keeps a s
  | .bad _ => True
  | .ue s => Keeps a s
  | .all s => Keeps a s

/-- A command's outcome keeps. -/
def RKeeps (a : State) (r : Res) : Prop := ∃ t, r = .next t ∧ Keeps a t

variable {α : Type}

theorem mapWf_filter_rises {b : Nat} (p : Nat × α → Bool) : ∀ {m : List (Nat × α)},
    mapRises b m = true → mapRises b (m.filter p) = true
  | [], _ => rfl
  | (j, w) :: m, h => by
    simp only [mapRises, Bool.and_eq_true, decide_eq_true_eq] at h
    have ih := mapWf_filter_rises p h.2
    rw [List.filter_cons]
    split
    · simp only [mapRises, Bool.and_eq_true, decide_eq_true_eq]; exact ⟨h.1, ih⟩
    · exact mapRises_mono (Nat.le_of_lt h.1) ih

/-- Leaving entries out keeps the canonical form. -/
theorem mapWf_filter [DecidableEq α] {d : Nat → α} (p : Nat × α → Bool) : ∀ {m : List (Nat × α)},
    mapWf d m = true → mapWf d (m.filter p) = true
  | [], _ => rfl
  | (j, w) :: m, h => by
    obtain ⟨hne, hr, hw⟩ := mapWf_rises h
    have ih := mapWf_filter p hw
    rw [List.filter_cons]
    split
    · simp only [mapWf, Bool.and_eq_true, decide_eq_true_eq]; exact ⟨⟨hne, mapWf_filter_rises p hr⟩, ih⟩
    · exact ih

theorem mapEach_rises [DecidableEq α] {d : Nat → α} (f : α → α) {b : Nat} : ∀ {m : List (Nat × α)},
    mapRises b m = true → mapRises b (mapEach d f m) = true
  | [], _ => rfl
  | (j, w) :: m, h => by
    simp only [mapRises, Bool.and_eq_true, decide_eq_true_eq] at h
    have ih : mapRises j (mapEach d f m) = true := mapEach_rises f h.2
    show mapRises b (if f w = d j then mapEach d f m else (j, f w) :: mapEach d f m) = true
    split
    · exact mapRises_mono (Nat.le_of_lt h.1) ih
    · simp only [mapRises, Bool.and_eq_true, decide_eq_true_eq]; exact ⟨h.1, ih⟩

/-- Changing every listed value keeps the canonical form. -/
theorem mapWf_mapEach [DecidableEq α] {d : Nat → α} (f : α → α) : ∀ {m : List (Nat × α)},
    mapWf d m = true → mapWf d (mapEach d f m) = true
  | [], _ => rfl
  | (j, w) :: m, h => by
    obtain ⟨_, hr, hw⟩ := mapWf_rises h
    have ih := mapWf_mapEach f hw
    show mapWf d (if f w = d j then mapEach d f m else (j, f w) :: mapEach d f m) = true
    split
    · exact ih
    · simp only [mapWf, Bool.and_eq_true, decide_eq_true_eq]; exact ⟨⟨by assumption, mapEach_rises f hr⟩, ih⟩

variable {a s : State}

theorem Keeps_refl (s : State) : Keeps s s :=
  ⟨rfl, rfl, List.suffix_refl _, Nat.le_refl _, fun _ => rfl, id⟩

theorem Keeps_trans {b : State} (h : Keeps a b) (k : Keeps b s) : Keeps a s where
  pending := k.pending.trans h.pending
  variant := k.variant.trans h.variant
  out := h.out.trans k.out
  fresh := Nat.le_trans h.fresh k.fresh
  otp := fun x => by
    have e := h.otp x
    rw [k.otp (by rw [e]; exact x), e]
  canonical := fun c => k.canonical (h.canonical c)

/-- A change of anything but the tracked fields keeps. -/
theorem keeps_upd {tsu evc cnt_ext cnt_shLive cnt_shExt cnt_shOvf cnt_snapAt cnt_snapSeq cnt_dumps cnt_sramAt cnt_burstSec cnt_burst
    cnt_suppressed cnt_agg pair start op rr frames seq stage swapGo swapGen draining lpmDirty bankWritten pe_stock snapWait punts inj ecc_scrubAt ecc_lapStart
    svc_root svc_nextId svc_addrs svc_seeds svc_dropPrev svc_stock svc_mcast servo har gnss ptp_seqs ptp_seqBase ptp_foreign
    ptp_ups ptp_launches ptp_pdelay ptp_link ptp_utcOk ptp_cls ke_idents ke_server ke_warned ke_secret bnu_keys
    bnu_stopped bnu_calls bnu_drbg bnu_gone bnu_pool bnu_rawBit bnu_rawRun} (h : Keeps a s) :
    Keeps a ⟨s.pending, s.variant, s.regs, s.initRegs, s.mem, s.busOut, s.out, s.fresh, tsu, evc, ⟨s.cnt.live, cnt_ext, cnt_shLive, cnt_shExt, cnt_shOvf, cnt_snapAt, cnt_snapSeq, cnt_dumps, cnt_sramAt, cnt_burstSec, cnt_burst, cnt_suppressed, cnt_agg⟩,
    pair, start, s.otp,
      ⟨s.nvm.flash, op⟩, s.gate, s.ports, ⟨s.pe.ctx, s.pe.q, rr, frames, seq, stage, swapGo,
      swapGen, draining, lpmDirty, bankWritten, pe_stock, snapWait, punts, inj⟩, ⟨s.ecc.bad, s.ecc.log, ecc_scrubAt, ecc_lapStart⟩, ⟨s.svc.keys, svc_root, svc_nextId, svc_addrs, svc_seeds, s.svc.sketch, svc_dropPrev, svc_stock, svc_mcast⟩,
    s.refs, s.refUp, servo, har, s.tic, s.outs, s.trigs, gnss, s.nts, s.tod,
    ⟨ptp_seqs, ptp_seqBase, s.ptp.grants, ptp_foreign, ptp_ups, ptp_launches, ptp_pdelay, ptp_link, ptp_utcOk, ptp_cls⟩,
    ⟨s.ke.conns, ke_idents, ke_server, ke_warned, ke_secret⟩,
    ⟨s.bnu.units, bnu_keys, bnu_stopped, bnu_calls, bnu_drbg, bnu_gone, bnu_pool, bnu_rawBit, bnu_rawRun⟩⟩ :=
  Keeps_trans h ⟨rfl, rfl, List.suffix_refl _, Nat.le_refl _, fun _ => rfl,
    fun c => ⟨c.mem, c.regs, c.initRegs, c.busOut, c.flash, c.gate, c.ports, c.refs, c.refUp, c.tic, c.outs, c.trigs, c.nts, c.tod, c.ctx, c.q, c.live, c.keys, c.sketch, c.grants, c.conns, c.units, c.bad, c.log⟩⟩

theorem keeps_upd' {tsu evc cnt_ext cnt_shLive cnt_shExt cnt_shOvf cnt_snapAt cnt_snapSeq cnt_dumps cnt_sramAt cnt_burstSec cnt_burst
    cnt_suppressed cnt_agg pair start rr frames seq stage swapGo swapGen draining lpmDirty bankWritten pe_stock snapWait punts inj ecc_scrubAt ecc_lapStart
    svc_root svc_nextId svc_addrs svc_seeds svc_dropPrev svc_stock svc_mcast servo har gnss ptp_seqs ptp_seqBase ptp_foreign
    ptp_ups ptp_launches ptp_pdelay ptp_link ptp_utcOk ptp_cls ke_idents ke_server ke_warned ke_secret bnu_keys
    bnu_stopped bnu_calls bnu_drbg bnu_gone bnu_pool bnu_rawBit bnu_rawRun} (h : Keeps a s) :
    Keeps a ⟨s.pending, s.variant, s.regs, s.initRegs, s.mem, s.busOut, s.out, s.fresh, tsu, evc, ⟨s.cnt.live, cnt_ext, cnt_shLive, cnt_shExt, cnt_shOvf, cnt_snapAt, cnt_snapSeq, cnt_dumps, cnt_sramAt, cnt_burstSec, cnt_burst, cnt_suppressed, cnt_agg⟩,
    pair, start, s.otp,
      s.nvm, s.gate, s.ports, ⟨s.pe.ctx, s.pe.q, rr, frames, seq, stage, swapGo,
      swapGen, draining, lpmDirty, bankWritten, pe_stock, snapWait, punts, inj⟩, ⟨s.ecc.bad, s.ecc.log, ecc_scrubAt, ecc_lapStart⟩, ⟨s.svc.keys, svc_root, svc_nextId, svc_addrs, svc_seeds, s.svc.sketch, svc_dropPrev, svc_stock, svc_mcast⟩,
    s.refs, s.refUp, servo, har, s.tic, s.outs, s.trigs, gnss, s.nts, s.tod,
    ⟨ptp_seqs, ptp_seqBase, s.ptp.grants, ptp_foreign, ptp_ups, ptp_launches, ptp_pdelay, ptp_link, ptp_utcOk, ptp_cls⟩,
    ⟨s.ke.conns, ke_idents, ke_server, ke_warned, ke_secret⟩,
    ⟨s.bnu.units, bnu_keys, bnu_stopped, bnu_calls, bnu_drbg, bnu_gone, bnu_pool, bnu_rawBit, bnu_rawRun⟩⟩ :=
  Keeps_trans h ⟨rfl, rfl, List.suffix_refl _, Nat.le_refl _, fun _ => rfl,
    fun c => ⟨c.mem, c.regs, c.initRegs, c.busOut, c.flash, c.gate, c.ports, c.refs, c.refUp, c.tic, c.outs, c.trigs, c.nts, c.tod, c.ctx, c.q, c.live, c.keys, c.sketch, c.grants, c.conns, c.units, c.bad, c.log⟩⟩

theorem keeps_foldl {β : Type} (f : State → β → State) (hf : ∀ b x, Keeps a b → Keeps a (f b x)) :
    ∀ (l : List β) {s : State}, Keeps a s → Keeps a (l.foldl f s)
  | [], _, h => h
  | x :: l, s, h => keeps_foldl f hf l (hf s x h)

theorem keeps_foldl_pair {β γ : Type} (f : γ × State → β → γ × State) (hf : ∀ b x, Keeps a b.2 → Keeps a (f b x).2) :
    ∀ (l : List β) {s : γ × State}, Keeps a s.2 → Keeps a (l.foldl f s).2
  | [], _, h => h
  | x :: l, s, h => keeps_foldl_pair f hf l (hf s x h)

theorem keeps_foldl_fst {β γ : Type} (f : State × γ → β → State × γ) (hf : ∀ b x, Keeps a b.1 → Keeps a (f b x).1) :
    ∀ (l : List β) {s : State × γ}, Keeps a s.1 → Keeps a (l.foldl f s).1
  | [], _, h => h
  | x :: l, s, h => keeps_foldl_fst f hf l (hf s x h)

theorem keeps_getD {o : Option State} {d : State} (h : OKeeps a o) (k : Keeps a d) : Keeps a (o.getD d) := by
  cases o with
  | none => exact k
  | some t => exact h t rfl

theorem okeeps_some (h : Keeps a s) : OKeeps a (some s) := fun _ e => Option.some.inj e ▸ h

theorem okeeps_none : OKeeps a none := fun _ e => by cases e

theorem okeeps_map {o : Option State} {f : State → State} (h : OKeeps a o) (hf : ∀ b, Keeps a b → Keeps a (f b)) :
    OKeeps a (o.map f) := by
  cases o with
  | none => exact okeeps_none
  | some t => exact okeeps_some (hf t (h t rfl))

theorem okeeps_bind {o : Option State} {f : State → Option State} (h : OKeeps a o) (hf : ∀ b, Keeps a b → OKeeps a (f b)) :
    OKeeps a (o.bind f) := by
  cases o with
  | none => exact okeeps_none
  | some t => exact hf t (h t rfl)

theorem okeeps_orElse {o : Option State} {f : Unit → Option State} (h : OKeeps a o) (k : OKeeps a (f ())) :
    OKeeps a (o.orElse f) := by
  cases o with
  | none => exact k
  | some t => exact h

theorem okeeps_findSome {β : Type} {f : β → Option State} (hf : ∀ x, OKeeps a (f x)) (l : List β) :
    OKeeps a (l.findSome? f) := by
  intro t e
  obtain ⟨x, -, h⟩ := List.exists_of_findSome?_eq_some e
  exact hf x t h

theorem opkeeps_some {x : α} (h : Keeps a s) : OPKeeps a (some (x, s)) := fun _ e => Option.some.inj e ▸ h

theorem opkeeps_none : OPKeeps (α := α) a none := fun _ e => by cases e

theorem opkeeps_map {β : Type} {o : Option (α × State)} {f : α × State → β × State} (h : OPKeeps a o)
    (hf : ∀ p, Keeps a p.2 → Keeps a (f p).2) : OPKeeps a (o.map f) := by
  cases o with
  | none => exact opkeeps_none
  | some p => exact fun _ e => Option.some.inj e ▸ hf p (h p rfl)

theorem ockeeps_some {r : CRes} (h : CKeeps a r) : OCKeeps a (some r) := fun _ e => Option.some.inj e ▸ h

theorem ockeeps_none : OCKeeps a none := fun _ e => by cases e

theorem rkeeps_next {t : State} (h : Keeps s t) : RKeeps s (.next t) := ⟨t, rfl, h⟩

theorem rkeeps_run {f : State → State} (hf : Keeps s (f s)) : RKeeps s (run f s) := by
  unfold run; split
  · exact ⟨_, rfl, Keeps_refl s⟩
  · exact ⟨_, rfl, hf⟩

theorem rkeeps_runIf {b : Bool} {f : State → State} (hf : Keeps s (f s)) : RKeeps s (runIf b f s) := by
  refine rkeeps_run ?_; cases b
  · exact Keeps_refl s
  · exact hf

theorem keeps_ite {c : Prop} {_ : Decidable c} {x y : State} (h : Keeps a x) (k : Keeps a y) : Keeps a (if c then x else y) := by
  split <;> assumption

theorem keeps_ite_snd {c : Prop} {_ : Decidable c} {x y : α × State} (h : Keeps a x.2) (k : Keeps a y.2) :
    Keeps a (if c then x else y).2 := by
  split <;> assumption

theorem keeps_ite_fst {c : Prop} {_ : Decidable c} {x y : State × α} (h : Keeps a x.1) (k : Keeps a y.1) :
    Keeps a (if c then x else y).1 := by
  split <;> assumption

theorem keeps_ite_fun {c : Prop} {_ : Decidable c} {f g : State → State} (h : Keeps a (f s)) (k : Keeps a (g s)) :
    Keeps a ((if c then f else g) s) := by
  split <;> assumption

theorem keeps_ite_run {c : Prop} {_ : Decidable c} {x y : LoadRun} (h : Keeps a x.s) (k : Keeps a y.s) :
    Keeps a (if c then x else y).s := by
  split <;> assumption

theorem keeps_foldl_run {β : Type} (f : LoadRun → β → LoadRun) (hf : ∀ b x, Keeps a b.s → Keeps a (f b x).s) :
    ∀ (l : List β) {s : LoadRun}, Keeps a s.s → Keeps a (l.foldl f s).s
  | [], _, h => h
  | x :: l, s, h => keeps_foldl_run f hf l (hf s x h)

theorem keeps_id (h : Keeps a s) : Keeps a (id s) := h

theorem okeeps_ite {c : Prop} {_ : Decidable c} {x y : Option State} (h : OKeeps a x) (k : OKeeps a y) :
    OKeeps a (if c then x else y) := by
  split <;> assumption

theorem opkeeps_ite {c : Prop} {_ : Decidable c} {x y : Option (α × State)} (h : OPKeeps a x) (k : OPKeeps a y) :
    OPKeeps a (if c then x else y) := by
  split <;> assumption

theorem ckeeps_ite {c : Prop} {_ : Decidable c} {x y : CRes} (h : CKeeps a x) (k : CKeeps a y) : CKeeps a (if c then x else y) := by
  split <;> assumption

theorem ockeeps_ite {c : Prop} {_ : Decidable c} {x y : Option CRes} (h : OCKeeps a x) (k : OCKeeps a y) :
    OCKeeps a (if c then x else y) := by
  split <;> assumption

theorem ockeeps_bind {β : Type} {o : Option β} {f : β → Option CRes} (h : ∀ x, OCKeeps a (f x)) : OCKeeps a (o.bind f) := by
  cases o with
  | none => exact ockeeps_none
  | some x => exact h x

theorem ockeeps_findSome {β : Type} {f : β → Option CRes} (h : ∀ x, OCKeeps a (f x)) (l : List β) : OCKeeps a (l.findSome? f) := by
  intro t e
  obtain ⟨x, -, k⟩ := List.exists_of_findSome?_eq_some e
  exact h x t k

theorem ckeeps_getD {o : Option CRes} {d : CRes} (h : OCKeeps a o) (k : CKeeps a d) : CKeeps a (o.getD d) := by
  cases o with
  | none => exact k
  | some r => exact h r rfl

theorem ckeeps_of_some {o : Option CRes} {r : CRes} (h : OCKeeps a o) (e : o = some r) : CKeeps a r := h r e

theorem ckeeps_no {n m d : Nat} : CKeeps a (.no n m d) := trivial

theorem ckeeps_ok {b : List Byte} (h : Keeps a s) : CKeeps a (.ok b s) := h

theorem ckeeps_cut {n d : Nat} (h : Keeps a s) : CKeeps a (.cut n d s) := h

theorem ckeeps_wait (h : Keeps a s) : CKeeps a (.wait s) := h

theorem pkeeps_ite {c : Prop} {_ : Decidable c} {x y : POut} (h : PKeeps a x) (k : PKeeps a y) : PKeeps a (if c then x else y) := by
  split <;> assumption

theorem pkeeps_bad {n : Nat} : PKeeps a (.bad n) := trivial

theorem pkeeps_ok {c : Ctx} (h : Keeps a s) : PKeeps a (.ok c s) := h

theorem pkeeps_ue (h : Keeps a s) : PKeeps a (.ue s) := h

theorem keeps_of_pok {o : POut} {c : Ctx} (h : PKeeps a o) (e : o = .ok c s) : Keeps a s := by subst e; exact h

theorem keeps_of_pue {o : POut} (h : PKeeps a o) (e : o = .ue s) : Keeps a s := by subst e; exact h

theorem keeps_of_pall {o : POut} (h : PKeeps a o) (e : o = .all s) : Keeps a s := by subst e; exact h

theorem keeps_of_cok {o : CRes} {b : List Byte} (h : CKeeps a o) (e : o = .ok b s) : Keeps a s := by subst e; exact h

theorem keeps_of_ccut {o : CRes} {n d : Nat} (h : CKeeps a o) (e : o = .cut n d s) : Keeps a s := by subst e; exact h

theorem keeps_of_cwait {o : CRes} (h : CKeeps a o) (e : o = .wait s) : Keeps a s := by subst e; exact h

theorem keeps_of_pair {o : α × State} {x : α} (h : Keeps a o.2) (e : o = (x, s)) : Keeps a s := by subst e; exact h

theorem keeps_of_some {o : Option State} (h : OKeeps a o) (e : o = some s) : Keeps a s := h s e

theorem keeps_of_osome {o : Option (α × State)} {x : α} (h : OPKeeps a o) (e : o = some (x, s)) : Keeps a s := h (x, s) e

theorem pkeeps_all (h : Keeps a s) : PKeeps a (.all s) := h

theorem keeps_upd_gate {tsu evc cnt_ext cnt_shLive cnt_shExt cnt_shOvf cnt_snapAt cnt_snapSeq cnt_dumps cnt_sramAt cnt_burstSec cnt_burst
    cnt_suppressed cnt_agg pair start rr frames seq stage swapGo swapGen draining lpmDirty bankWritten pe_stock snapWait punts inj ecc_scrubAt ecc_lapStart
    svc_root svc_nextId svc_addrs svc_seeds svc_dropPrev svc_stock svc_mcast servo har gnss ptp_seqs ptp_seqBase ptp_foreign
    ptp_ups ptp_launches ptp_pdelay ptp_link ptp_utcOk ptp_cls ke_idents ke_server ke_warned ke_secret bnu_keys
    bnu_stopped bnu_calls bnu_drbg bnu_gone bnu_pool bnu_rawBit bnu_rawRun k v} (h : Keeps a s) : Keeps a ⟨s.pending,
    s.variant, s.regs, s.initRegs, s.mem, s.busOut, s.out, s.fresh, tsu, evc, ⟨s.cnt.live, cnt_ext, cnt_shLive, cnt_shExt, cnt_shOvf, cnt_snapAt, cnt_snapSeq, cnt_dumps, cnt_sramAt, cnt_burstSec, cnt_burst, cnt_suppressed, cnt_agg⟩,
    pair, start, s.otp, s.nvm, mapSet gateReset
    k v s.gate, s.ports, ⟨s.pe.ctx, s.pe.q, rr, frames, seq, stage, swapGo,
      swapGen, draining, lpmDirty, bankWritten, pe_stock, snapWait, punts, inj⟩, ⟨s.ecc.bad, s.ecc.log, ecc_scrubAt, ecc_lapStart⟩, ⟨s.svc.keys, svc_root, svc_nextId, svc_addrs, svc_seeds, s.svc.sketch, svc_dropPrev, svc_stock, svc_mcast⟩,
    s.refs, s.refUp, servo, har, s.tic, s.outs, s.trigs, gnss, s.nts, s.tod,
    ⟨ptp_seqs, ptp_seqBase, s.ptp.grants, ptp_foreign, ptp_ups, ptp_launches, ptp_pdelay, ptp_link, ptp_utcOk, ptp_cls⟩,
    ⟨s.ke.conns, ke_idents, ke_server, ke_warned, ke_secret⟩,
    ⟨s.bnu.units, bnu_keys, bnu_stopped, bnu_calls, bnu_drbg, bnu_gone, bnu_pool, bnu_rawBit, bnu_rawRun⟩⟩
    := Keeps_trans h ⟨rfl, rfl, List.suffix_refl _, Nat.le_refl _, fun _ => rfl, fun c => ⟨c.mem, c.regs, c.initRegs,
    c.busOut, c.flash, mapWf_mapSet _ _ _ c.gate, c.ports, c.refs, c.refUp, c.tic, c.outs, c.trigs, c.nts, c.tod, c.ctx, c.q, c.live, c.keys, c.sketch, c.grants, c.conns, c.units, c.bad, c.log⟩⟩

theorem keeps_upd_gateNil {tsu evc cnt_ext cnt_shLive cnt_shExt cnt_shOvf cnt_snapAt cnt_snapSeq cnt_dumps cnt_sramAt cnt_burstSec cnt_burst
    cnt_suppressed cnt_agg pair start rr frames seq stage swapGo swapGen draining lpmDirty bankWritten pe_stock snapWait punts inj ecc_scrubAt ecc_lapStart
    svc_root svc_nextId svc_addrs svc_seeds svc_dropPrev svc_stock svc_mcast servo har gnss ptp_seqs ptp_seqBase ptp_foreign
    ptp_ups ptp_launches ptp_pdelay ptp_link ptp_utcOk ptp_cls ke_idents ke_server ke_warned ke_secret bnu_keys
    bnu_stopped bnu_calls bnu_drbg bnu_gone bnu_pool bnu_rawBit bnu_rawRun} (h : Keeps a s) : Keeps a ⟨s.pending,
    s.variant, s.regs, s.initRegs, s.mem, s.busOut, s.out, s.fresh, tsu, evc, ⟨s.cnt.live, cnt_ext, cnt_shLive, cnt_shExt, cnt_shOvf, cnt_snapAt, cnt_snapSeq, cnt_dumps, cnt_sramAt, cnt_burstSec, cnt_burst, cnt_suppressed, cnt_agg⟩,
    pair, start, s.otp, s.nvm, [], s.ports, ⟨s.pe.ctx, s.pe.q, rr, frames, seq, stage, swapGo,
      swapGen, draining, lpmDirty, bankWritten, pe_stock, snapWait, punts, inj⟩, ⟨s.ecc.bad, s.ecc.log, ecc_scrubAt, ecc_lapStart⟩, ⟨s.svc.keys, svc_root, svc_nextId, svc_addrs, svc_seeds, s.svc.sketch, svc_dropPrev, svc_stock, svc_mcast⟩,
    s.refs, s.refUp, servo, har, s.tic, s.outs, s.trigs, gnss, s.nts, s.tod,
    ⟨ptp_seqs, ptp_seqBase, s.ptp.grants, ptp_foreign, ptp_ups, ptp_launches, ptp_pdelay, ptp_link, ptp_utcOk, ptp_cls⟩,
    ⟨s.ke.conns, ke_idents, ke_server, ke_warned, ke_secret⟩,
    ⟨s.bnu.units, bnu_keys, bnu_stopped, bnu_calls, bnu_drbg, bnu_gone, bnu_pool, bnu_rawBit, bnu_rawRun⟩⟩
    := Keeps_trans h ⟨rfl, rfl, List.suffix_refl _, Nat.le_refl _, fun _ => rfl, fun c => ⟨c.mem, c.regs, c.initRegs,
    c.busOut, c.flash, rfl, c.ports, c.refs, c.refUp, c.tic, c.outs, c.trigs, c.nts, c.tod, c.ctx, c.q, c.live, c.keys, c.sketch, c.grants, c.conns, c.units, c.bad, c.log⟩⟩

theorem keeps_upd_ports {tsu evc cnt_ext cnt_shLive cnt_shExt cnt_shOvf cnt_snapAt cnt_snapSeq cnt_dumps cnt_sramAt cnt_burstSec cnt_burst
    cnt_suppressed cnt_agg pair start rr frames seq stage swapGo swapGen draining lpmDirty bankWritten pe_stock snapWait punts inj ecc_scrubAt ecc_lapStart
    svc_root svc_nextId svc_addrs svc_seeds svc_dropPrev svc_stock svc_mcast servo har gnss ptp_seqs ptp_seqBase ptp_foreign
    ptp_ups ptp_launches ptp_pdelay ptp_link ptp_utcOk ptp_cls ke_idents ke_server ke_warned ke_secret bnu_keys
    bnu_stopped bnu_calls bnu_drbg bnu_gone bnu_pool bnu_rawBit bnu_rawRun k v} (h : Keeps a s) : Keeps a
    ⟨s.pending, s.variant, s.regs, s.initRegs, s.mem, s.busOut, s.out, s.fresh, tsu, evc, ⟨s.cnt.live, cnt_ext, cnt_shLive, cnt_shExt, cnt_shOvf, cnt_snapAt, cnt_snapSeq, cnt_dumps, cnt_sramAt, cnt_burstSec, cnt_burst, cnt_suppressed, cnt_agg⟩,
    pair, start, s.otp, s.nvm,
    s.gate, mapSet portReset k v s.ports, ⟨s.pe.ctx, s.pe.q, rr, frames, seq, stage, swapGo,
      swapGen, draining, lpmDirty, bankWritten, pe_stock, snapWait, punts, inj⟩, ⟨s.ecc.bad, s.ecc.log, ecc_scrubAt, ecc_lapStart⟩, ⟨s.svc.keys, svc_root, svc_nextId, svc_addrs, svc_seeds, s.svc.sketch, svc_dropPrev, svc_stock, svc_mcast⟩,
    s.refs, s.refUp, servo, har, s.tic, s.outs, s.trigs, gnss, s.nts,
    s.tod,
    ⟨ptp_seqs, ptp_seqBase, s.ptp.grants, ptp_foreign, ptp_ups, ptp_launches, ptp_pdelay, ptp_link, ptp_utcOk, ptp_cls⟩,
    ⟨s.ke.conns, ke_idents, ke_server, ke_warned, ke_secret⟩,
    ⟨s.bnu.units, bnu_keys, bnu_stopped, bnu_calls, bnu_drbg, bnu_gone, bnu_pool, bnu_rawBit, bnu_rawRun⟩⟩ := Keeps_trans h ⟨rfl, rfl, List.suffix_refl _, Nat.le_refl _, fun _ => rfl, fun c => ⟨c.mem, c.regs,
    c.initRegs, c.busOut, c.flash, c.gate, mapWf_mapSet _ _ _ c.ports, c.refs, c.refUp, c.tic, c.outs, c.trigs, c.nts, c.tod, c.ctx, c.q, c.live, c.keys, c.sketch, c.grants, c.conns, c.units, c.bad, c.log⟩⟩

theorem keeps_upd_refs {tsu evc cnt_ext cnt_shLive cnt_shExt cnt_shOvf cnt_snapAt cnt_snapSeq cnt_dumps cnt_sramAt cnt_burstSec cnt_burst
    cnt_suppressed cnt_agg pair start rr frames seq stage swapGo swapGen draining lpmDirty bankWritten pe_stock snapWait punts inj ecc_scrubAt ecc_lapStart
    svc_root svc_nextId svc_addrs svc_seeds svc_dropPrev svc_stock svc_mcast servo har gnss ptp_seqs ptp_seqBase ptp_foreign
    ptp_ups ptp_launches ptp_pdelay ptp_link ptp_utcOk ptp_cls ke_idents ke_server ke_warned ke_secret bnu_keys
    bnu_stopped bnu_calls bnu_drbg bnu_gone bnu_pool bnu_rawBit bnu_rawRun k v} (h : Keeps a s) : Keeps a ⟨s.pending,
    s.variant, s.regs, s.initRegs, s.mem, s.busOut, s.out, s.fresh, tsu, evc, ⟨s.cnt.live, cnt_ext, cnt_shLive, cnt_shExt, cnt_shOvf, cnt_snapAt, cnt_snapSeq, cnt_dumps, cnt_sramAt, cnt_burstSec, cnt_burst, cnt_suppressed, cnt_agg⟩,
    pair, start, s.otp, s.nvm, s.gate, s.ports,
    ⟨s.pe.ctx, s.pe.q, rr, frames, seq, stage, swapGo,
      swapGen, draining, lpmDirty, bankWritten, pe_stock, snapWait, punts, inj⟩, ⟨s.ecc.bad, s.ecc.log, ecc_scrubAt, ecc_lapStart⟩, ⟨s.svc.keys, svc_root, svc_nextId, svc_addrs, svc_seeds, s.svc.sketch, svc_dropPrev, svc_stock, svc_mcast⟩,
    mapSet refReset k v s.refs, s.refUp, servo, har, s.tic, s.outs, s.trigs, gnss, s.nts, s.tod,
    ⟨ptp_seqs, ptp_seqBase, s.ptp.grants, ptp_foreign, ptp_ups, ptp_launches, ptp_pdelay, ptp_link, ptp_utcOk, ptp_cls⟩,
    ⟨s.ke.conns, ke_idents, ke_server, ke_warned, ke_secret⟩,
    ⟨s.bnu.units, bnu_keys, bnu_stopped, bnu_calls, bnu_drbg, bnu_gone, bnu_pool, bnu_rawBit, bnu_rawRun⟩⟩
    := Keeps_trans h ⟨rfl, rfl, List.suffix_refl _, Nat.le_refl _, fun _ => rfl, fun c => ⟨c.mem, c.regs, c.initRegs,
    c.busOut, c.flash, c.gate, c.ports, mapWf_mapSet _ _ _ c.refs, c.refUp, c.tic, c.outs, c.trigs, c.nts, c.tod, c.ctx, c.q, c.live, c.keys, c.sketch, c.grants, c.conns, c.units, c.bad, c.log⟩⟩

theorem keeps_upd_tic {tsu evc cnt_ext cnt_shLive cnt_shExt cnt_shOvf cnt_snapAt cnt_snapSeq cnt_dumps cnt_sramAt cnt_burstSec cnt_burst
    cnt_suppressed cnt_agg pair start rr frames seq stage swapGo swapGen draining lpmDirty bankWritten pe_stock snapWait punts inj ecc_scrubAt ecc_lapStart
    svc_root svc_nextId svc_addrs svc_seeds svc_dropPrev svc_stock svc_mcast servo har gnss ptp_seqs ptp_seqBase ptp_foreign
    ptp_ups ptp_launches ptp_pdelay ptp_link ptp_utcOk ptp_cls ke_idents ke_server ke_warned ke_secret bnu_keys
    bnu_stopped bnu_calls bnu_drbg bnu_gone bnu_pool bnu_rawBit bnu_rawRun k v} (h : Keeps a s) : Keeps a ⟨s.pending,
    s.variant, s.regs, s.initRegs, s.mem, s.busOut, s.out, s.fresh, tsu, evc, ⟨s.cnt.live, cnt_ext, cnt_shLive, cnt_shExt, cnt_shOvf, cnt_snapAt, cnt_snapSeq, cnt_dumps, cnt_sramAt, cnt_burstSec, cnt_burst, cnt_suppressed, cnt_agg⟩,
    pair, start, s.otp, s.nvm, s.gate, s.ports,
    ⟨s.pe.ctx, s.pe.q, rr, frames, seq, stage, swapGo,
      swapGen, draining, lpmDirty, bankWritten, pe_stock, snapWait, punts, inj⟩, ⟨s.ecc.bad, s.ecc.log, ecc_scrubAt, ecc_lapStart⟩, ⟨s.svc.keys, svc_root, svc_nextId, svc_addrs, svc_seeds, s.svc.sketch, svc_dropPrev, svc_stock, svc_mcast⟩,
    s.refs, s.refUp, servo, har, mapSet ticReset k v s.tic, s.outs, s.trigs, gnss, s.nts, s.tod,
    ⟨ptp_seqs, ptp_seqBase, s.ptp.grants, ptp_foreign, ptp_ups, ptp_launches, ptp_pdelay, ptp_link, ptp_utcOk, ptp_cls⟩,
    ⟨s.ke.conns, ke_idents, ke_server, ke_warned, ke_secret⟩,
    ⟨s.bnu.units, bnu_keys, bnu_stopped, bnu_calls, bnu_drbg, bnu_gone, bnu_pool, bnu_rawBit, bnu_rawRun⟩⟩
    := Keeps_trans h ⟨rfl, rfl, List.suffix_refl _, Nat.le_refl _, fun _ => rfl, fun c => ⟨c.mem, c.regs, c.initRegs,
    c.busOut, c.flash, c.gate, c.ports, c.refs, c.refUp, mapWf_mapSet _ _ _ c.tic, c.outs, c.trigs, c.nts, c.tod, c.ctx, c.q, c.live, c.keys, c.sketch, c.grants, c.conns, c.units, c.bad, c.log⟩⟩

theorem keeps_upd_outs {tsu evc cnt_ext cnt_shLive cnt_shExt cnt_shOvf cnt_snapAt cnt_snapSeq cnt_dumps cnt_sramAt cnt_burstSec cnt_burst
    cnt_suppressed cnt_agg pair start rr frames seq stage swapGo swapGen draining lpmDirty bankWritten pe_stock snapWait punts inj ecc_scrubAt ecc_lapStart
    svc_root svc_nextId svc_addrs svc_seeds svc_dropPrev svc_stock svc_mcast servo har gnss ptp_seqs ptp_seqBase ptp_foreign
    ptp_ups ptp_launches ptp_pdelay ptp_link ptp_utcOk ptp_cls ke_idents ke_server ke_warned ke_secret bnu_keys
    bnu_stopped bnu_calls bnu_drbg bnu_gone bnu_pool bnu_rawBit bnu_rawRun k v} (h : Keeps a s) : Keeps a ⟨s.pending,
    s.variant, s.regs, s.initRegs, s.mem, s.busOut, s.out, s.fresh, tsu, evc, ⟨s.cnt.live, cnt_ext, cnt_shLive, cnt_shExt, cnt_shOvf, cnt_snapAt, cnt_snapSeq, cnt_dumps, cnt_sramAt, cnt_burstSec, cnt_burst, cnt_suppressed, cnt_agg⟩,
    pair, start, s.otp, s.nvm, s.gate, s.ports,
    ⟨s.pe.ctx, s.pe.q, rr, frames, seq, stage, swapGo,
      swapGen, draining, lpmDirty, bankWritten, pe_stock, snapWait, punts, inj⟩, ⟨s.ecc.bad, s.ecc.log, ecc_scrubAt, ecc_lapStart⟩, ⟨s.svc.keys, svc_root, svc_nextId, svc_addrs, svc_seeds, s.svc.sketch, svc_dropPrev, svc_stock, svc_mcast⟩,
    s.refs, s.refUp, servo, har, s.tic, mapSet outReset k v s.outs, s.trigs, gnss, s.nts, s.tod,
    ⟨ptp_seqs, ptp_seqBase, s.ptp.grants, ptp_foreign, ptp_ups, ptp_launches, ptp_pdelay, ptp_link, ptp_utcOk, ptp_cls⟩,
    ⟨s.ke.conns, ke_idents, ke_server, ke_warned, ke_secret⟩,
    ⟨s.bnu.units, bnu_keys, bnu_stopped, bnu_calls, bnu_drbg, bnu_gone, bnu_pool, bnu_rawBit, bnu_rawRun⟩⟩
    := Keeps_trans h ⟨rfl, rfl, List.suffix_refl _, Nat.le_refl _, fun _ => rfl, fun c => ⟨c.mem, c.regs, c.initRegs,
    c.busOut, c.flash, c.gate, c.ports, c.refs, c.refUp, c.tic, mapWf_mapSet _ _ _ c.outs, c.trigs, c.nts, c.tod, c.ctx, c.q, c.live, c.keys, c.sketch, c.grants, c.conns, c.units, c.bad, c.log⟩⟩

theorem keeps_upd_trigs {tsu evc cnt_ext cnt_shLive cnt_shExt cnt_shOvf cnt_snapAt cnt_snapSeq cnt_dumps cnt_sramAt cnt_burstSec cnt_burst
    cnt_suppressed cnt_agg pair start rr frames seq stage swapGo swapGen draining lpmDirty bankWritten pe_stock snapWait punts inj ecc_scrubAt ecc_lapStart
    svc_root svc_nextId svc_addrs svc_seeds svc_dropPrev svc_stock svc_mcast servo har gnss ptp_seqs ptp_seqBase ptp_foreign
    ptp_ups ptp_launches ptp_pdelay ptp_link ptp_utcOk ptp_cls ke_idents ke_server ke_warned ke_secret bnu_keys
    bnu_stopped bnu_calls bnu_drbg bnu_gone bnu_pool bnu_rawBit bnu_rawRun k v} (h : Keeps a s) : Keeps a
    ⟨s.pending, s.variant, s.regs, s.initRegs, s.mem, s.busOut, s.out, s.fresh, tsu, evc, ⟨s.cnt.live, cnt_ext, cnt_shLive, cnt_shExt, cnt_shOvf, cnt_snapAt, cnt_snapSeq, cnt_dumps, cnt_sramAt, cnt_burstSec, cnt_burst, cnt_suppressed, cnt_agg⟩,
    pair, start, s.otp, s.nvm,
    s.gate, s.ports, ⟨s.pe.ctx, s.pe.q, rr, frames, seq, stage, swapGo,
      swapGen, draining, lpmDirty, bankWritten, pe_stock, snapWait, punts, inj⟩, ⟨s.ecc.bad, s.ecc.log, ecc_scrubAt, ecc_lapStart⟩, ⟨s.svc.keys, svc_root, svc_nextId, svc_addrs, svc_seeds, s.svc.sketch, svc_dropPrev, svc_stock, svc_mcast⟩,
    s.refs, s.refUp, servo, har, s.tic, s.outs, mapSet trigReset k v s.trigs, gnss, s.nts,
    s.tod,
    ⟨ptp_seqs, ptp_seqBase, s.ptp.grants, ptp_foreign, ptp_ups, ptp_launches, ptp_pdelay, ptp_link, ptp_utcOk, ptp_cls⟩,
    ⟨s.ke.conns, ke_idents, ke_server, ke_warned, ke_secret⟩,
    ⟨s.bnu.units, bnu_keys, bnu_stopped, bnu_calls, bnu_drbg, bnu_gone, bnu_pool, bnu_rawBit, bnu_rawRun⟩⟩ := Keeps_trans h ⟨rfl, rfl, List.suffix_refl _, Nat.le_refl _, fun _ => rfl, fun c => ⟨c.mem, c.regs,
    c.initRegs, c.busOut, c.flash, c.gate, c.ports, c.refs, c.refUp, c.tic, c.outs, mapWf_mapSet _ _ _ c.trigs, c.nts, c.tod, c.ctx, c.q, c.live, c.keys, c.sketch, c.grants, c.conns, c.units, c.bad, c.log⟩⟩

theorem keeps_upd_nts {tsu evc cnt_ext cnt_shLive cnt_shExt cnt_shOvf cnt_snapAt cnt_snapSeq cnt_dumps cnt_sramAt cnt_burstSec cnt_burst
    cnt_suppressed cnt_agg pair start rr frames seq stage swapGo swapGen draining lpmDirty bankWritten pe_stock snapWait punts inj ecc_scrubAt ecc_lapStart
    svc_root svc_nextId svc_addrs svc_seeds svc_dropPrev svc_stock svc_mcast servo har gnss ptp_seqs ptp_seqBase ptp_foreign
    ptp_ups ptp_launches ptp_pdelay ptp_link ptp_utcOk ptp_cls ke_idents ke_server ke_warned ke_secret bnu_keys
    bnu_stopped bnu_calls bnu_drbg bnu_gone bnu_pool bnu_rawBit bnu_rawRun k v} (h : Keeps a s) : Keeps a ⟨s.pending,
    s.variant, s.regs, s.initRegs, s.mem, s.busOut, s.out, s.fresh, tsu, evc, ⟨s.cnt.live, cnt_ext, cnt_shLive, cnt_shExt, cnt_shOvf, cnt_snapAt, cnt_snapSeq, cnt_dumps, cnt_sramAt, cnt_burstSec, cnt_burst, cnt_suppressed, cnt_agg⟩,
    pair, start, s.otp, s.nvm, s.gate, s.ports,
    ⟨s.pe.ctx, s.pe.q, rr, frames, seq, stage, swapGo,
      swapGen, draining, lpmDirty, bankWritten, pe_stock, snapWait, punts, inj⟩, ⟨s.ecc.bad, s.ecc.log, ecc_scrubAt, ecc_lapStart⟩, ⟨s.svc.keys, svc_root, svc_nextId, svc_addrs, svc_seeds, s.svc.sketch, svc_dropPrev, svc_stock, svc_mcast⟩,
    s.refs, s.refUp, servo, har, s.tic, s.outs, s.trigs, gnss, mapSet ntsReset k v s.nts, s.tod,
    ⟨ptp_seqs, ptp_seqBase, s.ptp.grants, ptp_foreign, ptp_ups, ptp_launches, ptp_pdelay, ptp_link, ptp_utcOk, ptp_cls⟩,
    ⟨s.ke.conns, ke_idents, ke_server, ke_warned, ke_secret⟩,
    ⟨s.bnu.units, bnu_keys, bnu_stopped, bnu_calls, bnu_drbg, bnu_gone, bnu_pool, bnu_rawBit, bnu_rawRun⟩⟩
    := Keeps_trans h ⟨rfl, rfl, List.suffix_refl _, Nat.le_refl _, fun _ => rfl, fun c => ⟨c.mem, c.regs, c.initRegs,
    c.busOut, c.flash, c.gate, c.ports, c.refs, c.refUp, c.tic, c.outs, c.trigs, mapWf_mapSet _ _ _ c.nts, c.tod, c.ctx, c.q, c.live, c.keys, c.sketch, c.grants, c.conns, c.units, c.bad, c.log⟩⟩

theorem keeps_upd_refUp {tsu evc cnt_ext cnt_shLive cnt_shExt cnt_shOvf cnt_snapAt cnt_snapSeq cnt_dumps cnt_sramAt cnt_burstSec cnt_burst
    cnt_suppressed cnt_agg pair start rr frames seq stage swapGo swapGen draining lpmDirty bankWritten pe_stock snapWait punts inj ecc_scrubAt ecc_lapStart
    svc_root svc_nextId svc_addrs svc_seeds svc_dropPrev svc_stock svc_mcast servo har gnss ptp_seqs ptp_seqBase ptp_foreign
    ptp_ups ptp_launches ptp_pdelay ptp_link ptp_utcOk ptp_cls ke_idents ke_server ke_warned ke_secret bnu_keys
    bnu_stopped bnu_calls bnu_drbg bnu_gone bnu_pool bnu_rawBit bnu_rawRun k v} (h : Keeps a s) : Keeps a
    ⟨s.pending, s.variant, s.regs, s.initRegs, s.mem, s.busOut, s.out, s.fresh, tsu, evc, ⟨s.cnt.live, cnt_ext, cnt_shLive, cnt_shExt, cnt_shOvf, cnt_snapAt, cnt_snapSeq, cnt_dumps, cnt_sramAt, cnt_burstSec, cnt_burst, cnt_suppressed, cnt_agg⟩,
    pair, start, s.otp, s.nvm,
    s.gate, s.ports, ⟨s.pe.ctx, s.pe.q, rr, frames, seq, stage, swapGo,
      swapGen, draining, lpmDirty, bankWritten, pe_stock, snapWait, punts, inj⟩, ⟨s.ecc.bad, s.ecc.log, ecc_scrubAt, ecc_lapStart⟩, ⟨s.svc.keys, svc_root, svc_nextId, svc_addrs, svc_seeds, s.svc.sketch, svc_dropPrev, svc_stock, svc_mcast⟩,
    s.refs, mapSet (fun _ => none) k v s.refUp, servo, har, s.tic, s.outs, s.trigs, gnss,
    s.nts, s.tod,
    ⟨ptp_seqs, ptp_seqBase, s.ptp.grants, ptp_foreign, ptp_ups, ptp_launches, ptp_pdelay, ptp_link, ptp_utcOk, ptp_cls⟩,
    ⟨s.ke.conns, ke_idents, ke_server, ke_warned, ke_secret⟩,
    ⟨s.bnu.units, bnu_keys, bnu_stopped, bnu_calls, bnu_drbg, bnu_gone, bnu_pool, bnu_rawBit, bnu_rawRun⟩⟩ := Keeps_trans h ⟨rfl, rfl, List.suffix_refl _, Nat.le_refl _, fun _ => rfl, fun c => ⟨c.mem,
    c.regs, c.initRegs, c.busOut, c.flash, c.gate, c.ports, c.refs, mapWf_mapSet _ _ _ c.refUp, c.tic, c.outs, c.trigs, c.nts,
    c.tod, c.ctx, c.q, c.live, c.keys, c.sketch, c.grants, c.conns, c.units, c.bad, c.log⟩⟩

theorem keeps_upd_tod {tsu evc cnt_ext cnt_shLive cnt_shExt cnt_shOvf cnt_snapAt cnt_snapSeq cnt_dumps cnt_sramAt cnt_burstSec cnt_burst
    cnt_suppressed cnt_agg pair start rr frames seq stage swapGo swapGen draining lpmDirty bankWritten pe_stock snapWait punts inj ecc_scrubAt ecc_lapStart
    svc_root svc_nextId svc_addrs svc_seeds svc_dropPrev svc_stock svc_mcast servo har gnss ptp_seqs ptp_seqBase ptp_foreign
    ptp_ups ptp_launches ptp_pdelay ptp_link ptp_utcOk ptp_cls ke_idents ke_server ke_warned ke_secret bnu_keys
    bnu_stopped bnu_calls bnu_drbg bnu_gone bnu_pool bnu_rawBit bnu_rawRun k v} (h : Keeps a s) : Keeps a ⟨s.pending,
    s.variant, s.regs, s.initRegs, s.mem, s.busOut, s.out, s.fresh, tsu, evc, ⟨s.cnt.live, cnt_ext, cnt_shLive, cnt_shExt, cnt_shOvf, cnt_snapAt, cnt_snapSeq, cnt_dumps, cnt_sramAt, cnt_burstSec, cnt_burst, cnt_suppressed, cnt_agg⟩,
    pair, start, s.otp, s.nvm, s.gate, s.ports,
    ⟨s.pe.ctx, s.pe.q, rr, frames, seq, stage, swapGo,
      swapGen, draining, lpmDirty, bankWritten, pe_stock, snapWait, punts, inj⟩, ⟨s.ecc.bad, s.ecc.log, ecc_scrubAt, ecc_lapStart⟩, ⟨s.svc.keys, svc_root, svc_nextId, svc_addrs, svc_seeds, s.svc.sketch, svc_dropPrev, svc_stock, svc_mcast⟩,
    s.refs, s.refUp, servo, har, s.tic, s.outs, s.trigs, gnss, s.nts, mapSet (fun _ => none) k v s.tod,
    ⟨ptp_seqs, ptp_seqBase, s.ptp.grants, ptp_foreign, ptp_ups, ptp_launches, ptp_pdelay, ptp_link, ptp_utcOk, ptp_cls⟩,
    ⟨s.ke.conns, ke_idents, ke_server, ke_warned, ke_secret⟩,
    ⟨s.bnu.units, bnu_keys, bnu_stopped, bnu_calls, bnu_drbg, bnu_gone, bnu_pool, bnu_rawBit, bnu_rawRun⟩⟩ := Keeps_trans h ⟨rfl, rfl, List.suffix_refl _, Nat.le_refl _, fun _ => rfl, fun c => ⟨c.mem, c.regs, c.initRegs,
    c.busOut, c.flash, c.gate, c.ports, c.refs, c.refUp, c.tic, c.outs, c.trigs, c.nts, mapWf_mapSet _ _ _ c.tod, c.ctx, c.q, c.live, c.keys, c.sketch, c.grants, c.conns, c.units, c.bad, c.log⟩⟩

theorem keeps_upd_ctx {tsu evc cnt_ext cnt_shLive cnt_shExt cnt_shOvf cnt_snapAt cnt_snapSeq cnt_dumps cnt_sramAt cnt_burstSec cnt_burst
    cnt_suppressed cnt_agg pair start rr frames seq stage swapGo swapGen draining lpmDirty bankWritten pe_stock snapWait punts inj ecc_scrubAt ecc_lapStart
    svc_root svc_nextId svc_addrs svc_seeds svc_dropPrev svc_stock svc_mcast servo har gnss ptp_seqs ptp_seqBase ptp_foreign
    ptp_ups ptp_launches ptp_pdelay ptp_link ptp_utcOk ptp_cls ke_idents ke_server ke_warned ke_secret bnu_keys
    bnu_stopped bnu_calls bnu_drbg bnu_gone bnu_pool bnu_rawBit bnu_rawRun k v} (h : Keeps a s) : Keeps a
    ⟨s.pending, s.variant, s.regs, s.initRegs, s.mem, s.busOut, s.out, s.fresh, tsu, evc, ⟨s.cnt.live, cnt_ext, cnt_shLive, cnt_shExt, cnt_shOvf, cnt_snapAt, cnt_snapSeq, cnt_dumps, cnt_sramAt, cnt_burstSec, cnt_burst, cnt_suppressed, cnt_agg⟩,
    pair, start, s.otp, s.nvm,
    s.gate, s.ports, ⟨mapSet ctxReset k v s.pe.ctx, s.pe.q, rr, frames, seq, stage, swapGo, swapGen, draining, lpmDirty, bankWritten, pe_stock, snapWait, punts, inj⟩, ⟨s.ecc.bad, s.ecc.log, ecc_scrubAt, ecc_lapStart⟩, ⟨s.svc.keys, svc_root, svc_nextId, svc_addrs, svc_seeds, s.svc.sketch, svc_dropPrev, svc_stock, svc_mcast⟩,
    s.refs, s.refUp, servo, har, s.tic,
    s.outs, s.trigs, gnss, s.nts, s.tod,
    ⟨ptp_seqs, ptp_seqBase, s.ptp.grants, ptp_foreign, ptp_ups, ptp_launches, ptp_pdelay, ptp_link, ptp_utcOk, ptp_cls⟩,
    ⟨s.ke.conns, ke_idents, ke_server, ke_warned, ke_secret⟩,
    ⟨s.bnu.units, bnu_keys, bnu_stopped, bnu_calls, bnu_drbg, bnu_gone, bnu_pool, bnu_rawBit, bnu_rawRun⟩⟩ := Keeps_trans h ⟨rfl, rfl, List.suffix_refl _, Nat.le_refl _, fun _ => rfl,
    fun c => ⟨c.mem, c.regs, c.initRegs, c.busOut, c.flash, c.gate, c.ports, c.refs, c.refUp, c.tic, c.outs, c.trigs, c.nts,
    c.tod, mapWf_mapSet _ _ _ c.ctx, c.q, c.live, c.keys, c.sketch, c.grants, c.conns, c.units, c.bad, c.log⟩⟩

theorem keeps_upd_q {tsu evc cnt_ext cnt_shLive cnt_shExt cnt_shOvf cnt_snapAt cnt_snapSeq cnt_dumps cnt_sramAt cnt_burstSec cnt_burst
    cnt_suppressed cnt_agg pair start rr frames seq stage swapGo swapGen draining lpmDirty bankWritten pe_stock snapWait punts inj ecc_scrubAt ecc_lapStart
    svc_root svc_nextId svc_addrs svc_seeds svc_dropPrev svc_stock svc_mcast servo har gnss ptp_seqs ptp_seqBase ptp_foreign
    ptp_ups ptp_launches ptp_pdelay ptp_link ptp_utcOk ptp_cls ke_idents ke_server ke_warned ke_secret bnu_keys
    bnu_stopped bnu_calls bnu_drbg bnu_gone bnu_pool bnu_rawBit bnu_rawRun k v} (h : Keeps a s) : Keeps a
    ⟨s.pending, s.variant, s.regs, s.initRegs, s.mem, s.busOut, s.out, s.fresh, tsu, evc, ⟨s.cnt.live, cnt_ext, cnt_shLive, cnt_shExt, cnt_shOvf, cnt_snapAt, cnt_snapSeq, cnt_dumps, cnt_sramAt, cnt_burstSec, cnt_burst, cnt_suppressed, cnt_agg⟩,
    pair, start, s.otp, s.nvm,
    s.gate, s.ports, ⟨s.pe.ctx, mapSet (fun _ => []) k v s.pe.q, rr, frames, seq, stage, swapGo, swapGen, draining, lpmDirty, bankWritten, pe_stock, snapWait, punts, inj⟩, ⟨s.ecc.bad, s.ecc.log, ecc_scrubAt, ecc_lapStart⟩, ⟨s.svc.keys, svc_root, svc_nextId, svc_addrs, svc_seeds, s.svc.sketch, svc_dropPrev, svc_stock, svc_mcast⟩,
    s.refs, s.refUp, servo, har, s.tic,
    s.outs, s.trigs, gnss, s.nts, s.tod,
    ⟨ptp_seqs, ptp_seqBase, s.ptp.grants, ptp_foreign, ptp_ups, ptp_launches, ptp_pdelay, ptp_link, ptp_utcOk, ptp_cls⟩,
    ⟨s.ke.conns, ke_idents, ke_server, ke_warned, ke_secret⟩,
    ⟨s.bnu.units, bnu_keys, bnu_stopped, bnu_calls, bnu_drbg, bnu_gone, bnu_pool, bnu_rawBit, bnu_rawRun⟩⟩ := Keeps_trans h ⟨rfl, rfl, List.suffix_refl _, Nat.le_refl _, fun _ => rfl,
    fun c => ⟨c.mem, c.regs, c.initRegs, c.busOut, c.flash, c.gate, c.ports, c.refs, c.refUp, c.tic, c.outs, c.trigs, c.nts,
    c.tod, c.ctx, mapWf_mapSet _ _ _ c.q, c.live, c.keys, c.sketch, c.grants, c.conns, c.units, c.bad, c.log⟩⟩

theorem keeps_upd_qNil {tsu evc cnt_ext cnt_shLive cnt_shExt cnt_shOvf cnt_snapAt cnt_snapSeq cnt_dumps cnt_sramAt cnt_burstSec cnt_burst
    cnt_suppressed cnt_agg pair start rr frames seq stage swapGo swapGen draining lpmDirty bankWritten pe_stock snapWait punts inj ecc_scrubAt ecc_lapStart
    svc_root svc_nextId svc_addrs svc_seeds svc_dropPrev svc_stock svc_mcast servo har gnss ptp_seqs ptp_seqBase ptp_foreign
    ptp_ups ptp_launches ptp_pdelay ptp_link ptp_utcOk ptp_cls ke_idents ke_server ke_warned ke_secret bnu_keys
    bnu_stopped bnu_calls bnu_drbg bnu_gone bnu_pool bnu_rawBit bnu_rawRun} (h : Keeps a s) : Keeps a
    ⟨s.pending, s.variant, s.regs, s.initRegs, s.mem, s.busOut, s.out, s.fresh, tsu, evc, ⟨s.cnt.live, cnt_ext, cnt_shLive, cnt_shExt, cnt_shOvf, cnt_snapAt, cnt_snapSeq, cnt_dumps, cnt_sramAt, cnt_burstSec, cnt_burst, cnt_suppressed, cnt_agg⟩,
    pair, start, s.otp, s.nvm,
    s.gate, s.ports, ⟨s.pe.ctx, [], rr, frames, seq, stage, swapGo, swapGen, draining, lpmDirty, bankWritten, pe_stock, snapWait, punts, inj⟩, ⟨s.ecc.bad, s.ecc.log, ecc_scrubAt, ecc_lapStart⟩, ⟨s.svc.keys, svc_root, svc_nextId, svc_addrs, svc_seeds, s.svc.sketch, svc_dropPrev, svc_stock, svc_mcast⟩,
    s.refs, s.refUp, servo, har, s.tic,
    s.outs, s.trigs, gnss, s.nts, s.tod,
    ⟨ptp_seqs, ptp_seqBase, s.ptp.grants, ptp_foreign, ptp_ups, ptp_launches, ptp_pdelay, ptp_link, ptp_utcOk, ptp_cls⟩,
    ⟨s.ke.conns, ke_idents, ke_server, ke_warned, ke_secret⟩,
    ⟨s.bnu.units, bnu_keys, bnu_stopped, bnu_calls, bnu_drbg, bnu_gone, bnu_pool, bnu_rawBit, bnu_rawRun⟩⟩ := Keeps_trans h ⟨rfl, rfl, List.suffix_refl _, Nat.le_refl _, fun _ => rfl,
    fun c => ⟨c.mem, c.regs, c.initRegs, c.busOut, c.flash, c.gate, c.ports, c.refs, c.refUp, c.tic, c.outs, c.trigs, c.nts,
    c.tod, c.ctx, rfl, c.live, c.keys, c.sketch, c.grants, c.conns, c.units, c.bad, c.log⟩⟩

theorem keeps_upd_mapEach {tsu evc cnt_ext cnt_shLive cnt_shExt cnt_shOvf cnt_snapAt cnt_snapSeq cnt_dumps cnt_sramAt cnt_burstSec cnt_burst
    cnt_suppressed cnt_agg pair start rr frames seq stage swapGo swapGen draining lpmDirty bankWritten pe_stock snapWait punts inj ecc_scrubAt ecc_lapStart
    svc_root svc_nextId svc_addrs svc_seeds svc_dropPrev svc_stock svc_mcast servo har gnss ptp_seqs ptp_seqBase ptp_foreign
    ptp_ups ptp_launches ptp_pdelay ptp_link ptp_utcOk ptp_cls ke_idents ke_server ke_warned ke_secret bnu_keys
    bnu_stopped bnu_calls bnu_drbg bnu_gone bnu_pool bnu_rawBit bnu_rawRun f} (h : Keeps a s) : Keeps a
    ⟨s.pending, s.variant, s.regs, s.initRegs, s.mem, s.busOut, s.out, s.fresh, tsu, evc, ⟨s.cnt.live, cnt_ext, cnt_shLive, cnt_shExt, cnt_shOvf, cnt_snapAt, cnt_snapSeq, cnt_dumps, cnt_sramAt, cnt_burstSec, cnt_burst, cnt_suppressed, cnt_agg⟩,
    pair, start, s.otp, s.nvm,
    s.gate, s.ports, ⟨mapEach ctxReset f s.pe.ctx, s.pe.q, rr, frames, seq, stage, swapGo, swapGen, draining, lpmDirty, bankWritten, pe_stock, snapWait, punts, inj⟩, ⟨s.ecc.bad, s.ecc.log, ecc_scrubAt, ecc_lapStart⟩, ⟨s.svc.keys, svc_root, svc_nextId, svc_addrs, svc_seeds, s.svc.sketch, svc_dropPrev, svc_stock, svc_mcast⟩,
    s.refs, s.refUp, servo, har, s.tic,
    s.outs, s.trigs, gnss, s.nts, s.tod,
    ⟨ptp_seqs, ptp_seqBase, s.ptp.grants, ptp_foreign, ptp_ups, ptp_launches, ptp_pdelay, ptp_link, ptp_utcOk, ptp_cls⟩,
    ⟨s.ke.conns, ke_idents, ke_server, ke_warned, ke_secret⟩,
    ⟨s.bnu.units, bnu_keys, bnu_stopped, bnu_calls, bnu_drbg, bnu_gone, bnu_pool, bnu_rawBit, bnu_rawRun⟩⟩ := Keeps_trans h ⟨rfl, rfl, List.suffix_refl _, Nat.le_refl _, fun _ => rfl,
    fun c => ⟨c.mem, c.regs, c.initRegs, c.busOut, c.flash, c.gate, c.ports, c.refs, c.refUp, c.tic, c.outs, c.trigs, c.nts,
    c.tod, mapWf_mapEach _ c.ctx, c.q, c.live, c.keys, c.sketch, c.grants, c.conns, c.units, c.bad, c.log⟩⟩

theorem keeps_upd_live {tsu evc cnt_ext cnt_shLive cnt_shExt cnt_shOvf cnt_snapAt cnt_snapSeq cnt_dumps cnt_sramAt cnt_burstSec cnt_burst
    cnt_suppressed cnt_agg pair start rr frames seq stage swapGo swapGen draining lpmDirty bankWritten pe_stock snapWait punts inj ecc_scrubAt ecc_lapStart
    svc_root svc_nextId svc_addrs svc_seeds svc_dropPrev svc_stock svc_mcast servo har gnss ptp_seqs ptp_seqBase ptp_foreign
    ptp_ups ptp_launches ptp_pdelay ptp_link ptp_utcOk ptp_cls ke_idents ke_server ke_warned ke_secret bnu_keys
    bnu_stopped bnu_calls bnu_drbg bnu_gone bnu_pool bnu_rawBit bnu_rawRun k v}
    (h : Keeps a s) : Keeps a ⟨s.pending, s.variant, s.regs, s.initRegs, s.mem, s.busOut, s.out, s.fresh, tsu, evc,
    ⟨mapSet (fun _ => 0) k v s.cnt.live, cnt_ext, cnt_shLive, cnt_shExt, cnt_shOvf, cnt_snapAt, cnt_snapSeq, cnt_dumps, cnt_sramAt, cnt_burstSec, cnt_burst, cnt_suppressed, cnt_agg⟩,
    pair, start, s.otp, s.nvm, s.gate, s.ports, ⟨s.pe.ctx, s.pe.q, rr, frames, seq, stage, swapGo, swapGen, draining, lpmDirty,
    bankWritten, pe_stock, snapWait, punts, inj⟩, ⟨s.ecc.bad, s.ecc.log, ecc_scrubAt, ecc_lapStart⟩,
    ⟨s.svc.keys, svc_root, svc_nextId, svc_addrs, svc_seeds, s.svc.sketch, svc_dropPrev, svc_stock, svc_mcast⟩, s.refs, s.refUp, servo, har, s.tic, s.outs, s.trigs, gnss, s.nts, s.tod,
    ⟨ptp_seqs, ptp_seqBase, s.ptp.grants, ptp_foreign, ptp_ups, ptp_launches, ptp_pdelay, ptp_link, ptp_utcOk, ptp_cls⟩,
    ⟨s.ke.conns, ke_idents, ke_server, ke_warned, ke_secret⟩,
    ⟨s.bnu.units, bnu_keys, bnu_stopped, bnu_calls, bnu_drbg, bnu_gone, bnu_pool, bnu_rawBit, bnu_rawRun⟩⟩ :=
  Keeps_trans h ⟨rfl, rfl, List.suffix_refl _, Nat.le_refl _, fun _ => rfl, fun c => ⟨c.mem, c.regs, c.initRegs, c.busOut, c.flash, c.gate, c.ports, c.refs, c.refUp, c.tic, c.outs, c.trigs, c.nts, c.tod, c.ctx, c.q, mapWf_mapSet _ _ _ c.live, c.keys, c.sketch, c.grants, c.conns, c.units, c.bad, c.log⟩⟩

theorem keeps_upd_keys {tsu evc cnt_ext cnt_shLive cnt_shExt cnt_shOvf cnt_snapAt cnt_snapSeq cnt_dumps cnt_sramAt cnt_burstSec cnt_burst
    cnt_suppressed cnt_agg pair start rr frames seq stage swapGo swapGen draining lpmDirty bankWritten pe_stock snapWait punts inj ecc_scrubAt ecc_lapStart
    svc_root svc_nextId svc_addrs svc_seeds svc_dropPrev svc_stock svc_mcast servo har gnss ptp_seqs ptp_seqBase ptp_foreign
    ptp_ups ptp_launches ptp_pdelay ptp_link ptp_utcOk ptp_cls ke_idents ke_server ke_warned ke_secret bnu_keys
    bnu_stopped bnu_calls bnu_drbg bnu_gone bnu_pool bnu_rawBit bnu_rawRun k v}
    (h : Keeps a s) : Keeps a ⟨s.pending, s.variant, s.regs, s.initRegs, s.mem, s.busOut, s.out, s.fresh, tsu, evc,
    ⟨s.cnt.live, cnt_ext, cnt_shLive, cnt_shExt, cnt_shOvf, cnt_snapAt, cnt_snapSeq, cnt_dumps, cnt_sramAt, cnt_burstSec, cnt_burst, cnt_suppressed, cnt_agg⟩,
    pair, start, s.otp, s.nvm, s.gate, s.ports, ⟨s.pe.ctx, s.pe.q, rr, frames, seq, stage, swapGo, swapGen, draining, lpmDirty,
    bankWritten, pe_stock, snapWait, punts, inj⟩, ⟨s.ecc.bad, s.ecc.log, ecc_scrubAt, ecc_lapStart⟩,
    ⟨mapSet keyReset k v s.svc.keys, svc_root, svc_nextId, svc_addrs, svc_seeds, s.svc.sketch, svc_dropPrev, svc_stock, svc_mcast⟩, s.refs, s.refUp, servo, har, s.tic, s.outs, s.trigs, gnss, s.nts, s.tod,
    ⟨ptp_seqs, ptp_seqBase, s.ptp.grants, ptp_foreign, ptp_ups, ptp_launches, ptp_pdelay, ptp_link, ptp_utcOk, ptp_cls⟩,
    ⟨s.ke.conns, ke_idents, ke_server, ke_warned, ke_secret⟩,
    ⟨s.bnu.units, bnu_keys, bnu_stopped, bnu_calls, bnu_drbg, bnu_gone, bnu_pool, bnu_rawBit, bnu_rawRun⟩⟩ :=
  Keeps_trans h ⟨rfl, rfl, List.suffix_refl _, Nat.le_refl _, fun _ => rfl, fun c => ⟨c.mem, c.regs, c.initRegs, c.busOut, c.flash, c.gate, c.ports, c.refs, c.refUp, c.tic, c.outs, c.trigs, c.nts, c.tod, c.ctx, c.q, c.live, mapWf_mapSet _ _ _ c.keys, c.sketch, c.grants, c.conns, c.units, c.bad, c.log⟩⟩

theorem keeps_upd_sketch {tsu evc cnt_ext cnt_shLive cnt_shExt cnt_shOvf cnt_snapAt cnt_snapSeq cnt_dumps cnt_sramAt cnt_burstSec cnt_burst
    cnt_suppressed cnt_agg pair start rr frames seq stage swapGo swapGen draining lpmDirty bankWritten pe_stock snapWait punts inj ecc_scrubAt ecc_lapStart
    svc_root svc_nextId svc_addrs svc_seeds svc_dropPrev svc_stock svc_mcast servo har gnss ptp_seqs ptp_seqBase ptp_foreign
    ptp_ups ptp_launches ptp_pdelay ptp_link ptp_utcOk ptp_cls ke_idents ke_server ke_warned ke_secret bnu_keys
    bnu_stopped bnu_calls bnu_drbg bnu_gone bnu_pool bnu_rawBit bnu_rawRun k v}
    (h : Keeps a s) : Keeps a ⟨s.pending, s.variant, s.regs, s.initRegs, s.mem, s.busOut, s.out, s.fresh, tsu, evc,
    ⟨s.cnt.live, cnt_ext, cnt_shLive, cnt_shExt, cnt_shOvf, cnt_snapAt, cnt_snapSeq, cnt_dumps, cnt_sramAt, cnt_burstSec, cnt_burst, cnt_suppressed, cnt_agg⟩,
    pair, start, s.otp, s.nvm, s.gate, s.ports, ⟨s.pe.ctx, s.pe.q, rr, frames, seq, stage, swapGo, swapGen, draining, lpmDirty,
    bankWritten, pe_stock, snapWait, punts, inj⟩, ⟨s.ecc.bad, s.ecc.log, ecc_scrubAt, ecc_lapStart⟩,
    ⟨s.svc.keys, svc_root, svc_nextId, svc_addrs, svc_seeds, mapSet (fun _ => 0) k v s.svc.sketch, svc_dropPrev, svc_stock, svc_mcast⟩, s.refs, s.refUp, servo, har, s.tic, s.outs, s.trigs, gnss, s.nts, s.tod,
    ⟨ptp_seqs, ptp_seqBase, s.ptp.grants, ptp_foreign, ptp_ups, ptp_launches, ptp_pdelay, ptp_link, ptp_utcOk, ptp_cls⟩,
    ⟨s.ke.conns, ke_idents, ke_server, ke_warned, ke_secret⟩,
    ⟨s.bnu.units, bnu_keys, bnu_stopped, bnu_calls, bnu_drbg, bnu_gone, bnu_pool, bnu_rawBit, bnu_rawRun⟩⟩ :=
  Keeps_trans h ⟨rfl, rfl, List.suffix_refl _, Nat.le_refl _, fun _ => rfl, fun c => ⟨c.mem, c.regs, c.initRegs, c.busOut, c.flash, c.gate, c.ports, c.refs, c.refUp, c.tic, c.outs, c.trigs, c.nts, c.tod, c.ctx, c.q, c.live, c.keys, mapWf_mapSet _ _ _ c.sketch, c.grants, c.conns, c.units, c.bad, c.log⟩⟩

theorem keeps_upd_sketchEach {tsu evc cnt_ext cnt_shLive cnt_shExt cnt_shOvf cnt_snapAt cnt_snapSeq cnt_dumps cnt_sramAt cnt_burstSec cnt_burst
    cnt_suppressed cnt_agg pair start rr frames seq stage swapGo swapGen draining lpmDirty bankWritten pe_stock snapWait punts inj ecc_scrubAt ecc_lapStart
    svc_root svc_nextId svc_addrs svc_seeds svc_dropPrev svc_stock svc_mcast servo har gnss ptp_seqs ptp_seqBase ptp_foreign
    ptp_ups ptp_launches ptp_pdelay ptp_link ptp_utcOk ptp_cls ke_idents ke_server ke_warned ke_secret bnu_keys
    bnu_stopped bnu_calls bnu_drbg bnu_gone bnu_pool bnu_rawBit bnu_rawRun f}
    (h : Keeps a s) : Keeps a ⟨s.pending, s.variant, s.regs, s.initRegs, s.mem, s.busOut, s.out, s.fresh, tsu, evc,
    ⟨s.cnt.live, cnt_ext, cnt_shLive, cnt_shExt, cnt_shOvf, cnt_snapAt, cnt_snapSeq, cnt_dumps, cnt_sramAt, cnt_burstSec, cnt_burst, cnt_suppressed, cnt_agg⟩,
    pair, start, s.otp, s.nvm, s.gate, s.ports, ⟨s.pe.ctx, s.pe.q, rr, frames, seq, stage, swapGo, swapGen, draining, lpmDirty,
    bankWritten, pe_stock, snapWait, punts, inj⟩, ⟨s.ecc.bad, s.ecc.log, ecc_scrubAt, ecc_lapStart⟩,
    ⟨s.svc.keys, svc_root, svc_nextId, svc_addrs, svc_seeds, mapEach (fun _ => 0) f s.svc.sketch, svc_dropPrev, svc_stock, svc_mcast⟩, s.refs, s.refUp, servo, har, s.tic, s.outs, s.trigs, gnss, s.nts, s.tod,
    ⟨ptp_seqs, ptp_seqBase, s.ptp.grants, ptp_foreign, ptp_ups, ptp_launches, ptp_pdelay, ptp_link, ptp_utcOk, ptp_cls⟩,
    ⟨s.ke.conns, ke_idents, ke_server, ke_warned, ke_secret⟩,
    ⟨s.bnu.units, bnu_keys, bnu_stopped, bnu_calls, bnu_drbg, bnu_gone, bnu_pool, bnu_rawBit, bnu_rawRun⟩⟩ :=
  Keeps_trans h ⟨rfl, rfl, List.suffix_refl _, Nat.le_refl _, fun _ => rfl, fun c => ⟨c.mem, c.regs, c.initRegs, c.busOut, c.flash, c.gate, c.ports, c.refs, c.refUp, c.tic, c.outs, c.trigs, c.nts, c.tod, c.ctx, c.q, c.live, c.keys, mapWf_mapEach _ c.sketch, c.grants, c.conns, c.units, c.bad, c.log⟩⟩

theorem keeps_upd_grants {tsu evc cnt_ext cnt_shLive cnt_shExt cnt_shOvf cnt_snapAt cnt_snapSeq cnt_dumps cnt_sramAt cnt_burstSec cnt_burst
    cnt_suppressed cnt_agg pair start rr frames seq stage swapGo swapGen draining lpmDirty bankWritten pe_stock snapWait punts inj ecc_scrubAt ecc_lapStart
    svc_root svc_nextId svc_addrs svc_seeds svc_dropPrev svc_stock svc_mcast servo har gnss ptp_seqs ptp_seqBase ptp_foreign
    ptp_ups ptp_launches ptp_pdelay ptp_link ptp_utcOk ptp_cls ke_idents ke_server ke_warned ke_secret bnu_keys
    bnu_stopped bnu_calls bnu_drbg bnu_gone bnu_pool bnu_rawBit bnu_rawRun k v}
    (h : Keeps a s) : Keeps a ⟨s.pending, s.variant, s.regs, s.initRegs, s.mem, s.busOut, s.out, s.fresh, tsu, evc,
    ⟨s.cnt.live, cnt_ext, cnt_shLive, cnt_shExt, cnt_shOvf, cnt_snapAt, cnt_snapSeq, cnt_dumps, cnt_sramAt, cnt_burstSec, cnt_burst, cnt_suppressed, cnt_agg⟩,
    pair, start, s.otp, s.nvm, s.gate, s.ports, ⟨s.pe.ctx, s.pe.q, rr, frames, seq, stage, swapGo, swapGen, draining, lpmDirty,
    bankWritten, pe_stock, snapWait, punts, inj⟩, ⟨s.ecc.bad, s.ecc.log, ecc_scrubAt, ecc_lapStart⟩,
    ⟨s.svc.keys, svc_root, svc_nextId, svc_addrs, svc_seeds, s.svc.sketch, svc_dropPrev, svc_stock, svc_mcast⟩, s.refs, s.refUp, servo, har, s.tic, s.outs, s.trigs, gnss, s.nts, s.tod,
    ⟨ptp_seqs, ptp_seqBase, mapSet (fun _ => none) k v s.ptp.grants, ptp_foreign, ptp_ups, ptp_launches, ptp_pdelay, ptp_link, ptp_utcOk, ptp_cls⟩,
    ⟨s.ke.conns, ke_idents, ke_server, ke_warned, ke_secret⟩,
    ⟨s.bnu.units, bnu_keys, bnu_stopped, bnu_calls, bnu_drbg, bnu_gone, bnu_pool, bnu_rawBit, bnu_rawRun⟩⟩ :=
  Keeps_trans h ⟨rfl, rfl, List.suffix_refl _, Nat.le_refl _, fun _ => rfl, fun c => ⟨c.mem, c.regs, c.initRegs, c.busOut, c.flash, c.gate, c.ports, c.refs, c.refUp, c.tic, c.outs, c.trigs, c.nts, c.tod, c.ctx, c.q, c.live, c.keys, c.sketch, mapWf_mapSet _ _ _ c.grants, c.conns, c.units, c.bad, c.log⟩⟩

theorem keeps_upd_conns {tsu evc cnt_ext cnt_shLive cnt_shExt cnt_shOvf cnt_snapAt cnt_snapSeq cnt_dumps cnt_sramAt cnt_burstSec cnt_burst
    cnt_suppressed cnt_agg pair start rr frames seq stage swapGo swapGen draining lpmDirty bankWritten pe_stock snapWait punts inj ecc_scrubAt ecc_lapStart
    svc_root svc_nextId svc_addrs svc_seeds svc_dropPrev svc_stock svc_mcast servo har gnss ptp_seqs ptp_seqBase ptp_foreign
    ptp_ups ptp_launches ptp_pdelay ptp_link ptp_utcOk ptp_cls ke_idents ke_server ke_warned ke_secret bnu_keys
    bnu_stopped bnu_calls bnu_drbg bnu_gone bnu_pool bnu_rawBit bnu_rawRun k v}
    (h : Keeps a s) : Keeps a ⟨s.pending, s.variant, s.regs, s.initRegs, s.mem, s.busOut, s.out, s.fresh, tsu, evc,
    ⟨s.cnt.live, cnt_ext, cnt_shLive, cnt_shExt, cnt_shOvf, cnt_snapAt, cnt_snapSeq, cnt_dumps, cnt_sramAt, cnt_burstSec, cnt_burst, cnt_suppressed, cnt_agg⟩,
    pair, start, s.otp, s.nvm, s.gate, s.ports, ⟨s.pe.ctx, s.pe.q, rr, frames, seq, stage, swapGo, swapGen, draining, lpmDirty,
    bankWritten, pe_stock, snapWait, punts, inj⟩, ⟨s.ecc.bad, s.ecc.log, ecc_scrubAt, ecc_lapStart⟩,
    ⟨s.svc.keys, svc_root, svc_nextId, svc_addrs, svc_seeds, s.svc.sketch, svc_dropPrev, svc_stock, svc_mcast⟩, s.refs, s.refUp, servo, har, s.tic, s.outs, s.trigs, gnss, s.nts, s.tod,
    ⟨ptp_seqs, ptp_seqBase, s.ptp.grants, ptp_foreign, ptp_ups, ptp_launches, ptp_pdelay, ptp_link, ptp_utcOk, ptp_cls⟩,
    ⟨mapSet (fun _ => none) k v s.ke.conns, ke_idents, ke_server, ke_warned, ke_secret⟩,
    ⟨s.bnu.units, bnu_keys, bnu_stopped, bnu_calls, bnu_drbg, bnu_gone, bnu_pool, bnu_rawBit, bnu_rawRun⟩⟩ :=
  Keeps_trans h ⟨rfl, rfl, List.suffix_refl _, Nat.le_refl _, fun _ => rfl, fun c => ⟨c.mem, c.regs, c.initRegs, c.busOut, c.flash, c.gate, c.ports, c.refs, c.refUp, c.tic, c.outs, c.trigs, c.nts, c.tod, c.ctx, c.q, c.live, c.keys, c.sketch, c.grants, mapWf_mapSet _ _ _ c.conns, c.units, c.bad, c.log⟩⟩

theorem keeps_upd_units {tsu evc cnt_ext cnt_shLive cnt_shExt cnt_shOvf cnt_snapAt cnt_snapSeq cnt_dumps cnt_sramAt cnt_burstSec cnt_burst
    cnt_suppressed cnt_agg pair start rr frames seq stage swapGo swapGen draining lpmDirty bankWritten pe_stock snapWait punts inj ecc_scrubAt ecc_lapStart
    svc_root svc_nextId svc_addrs svc_seeds svc_dropPrev svc_stock svc_mcast servo har gnss ptp_seqs ptp_seqBase ptp_foreign
    ptp_ups ptp_launches ptp_pdelay ptp_link ptp_utcOk ptp_cls ke_idents ke_server ke_warned ke_secret bnu_keys
    bnu_stopped bnu_calls bnu_drbg bnu_gone bnu_pool bnu_rawBit bnu_rawRun k v}
    (h : Keeps a s) : Keeps a ⟨s.pending, s.variant, s.regs, s.initRegs, s.mem, s.busOut, s.out, s.fresh, tsu, evc,
    ⟨s.cnt.live, cnt_ext, cnt_shLive, cnt_shExt, cnt_shOvf, cnt_snapAt, cnt_snapSeq, cnt_dumps, cnt_sramAt, cnt_burstSec, cnt_burst, cnt_suppressed, cnt_agg⟩,
    pair, start, s.otp, s.nvm, s.gate, s.ports, ⟨s.pe.ctx, s.pe.q, rr, frames, seq, stage, swapGo, swapGen, draining, lpmDirty,
    bankWritten, pe_stock, snapWait, punts, inj⟩, ⟨s.ecc.bad, s.ecc.log, ecc_scrubAt, ecc_lapStart⟩,
    ⟨s.svc.keys, svc_root, svc_nextId, svc_addrs, svc_seeds, s.svc.sketch, svc_dropPrev, svc_stock, svc_mcast⟩, s.refs, s.refUp, servo, har, s.tic, s.outs, s.trigs, gnss, s.nts, s.tod,
    ⟨ptp_seqs, ptp_seqBase, s.ptp.grants, ptp_foreign, ptp_ups, ptp_launches, ptp_pdelay, ptp_link, ptp_utcOk, ptp_cls⟩,
    ⟨s.ke.conns, ke_idents, ke_server, ke_warned, ke_secret⟩,
    ⟨mapSet bnuReset k v s.bnu.units, bnu_keys, bnu_stopped, bnu_calls, bnu_drbg, bnu_gone, bnu_pool, bnu_rawBit, bnu_rawRun⟩⟩ :=
  Keeps_trans h ⟨rfl, rfl, List.suffix_refl _, Nat.le_refl _, fun _ => rfl, fun c => ⟨c.mem, c.regs, c.initRegs, c.busOut, c.flash, c.gate, c.ports, c.refs, c.refUp, c.tic, c.outs, c.trigs, c.nts, c.tod, c.ctx, c.q, c.live, c.keys, c.sketch, c.grants, c.conns, mapWf_mapSet _ _ _ c.units, c.bad, c.log⟩⟩

-- The flash.
theorem keeps_upd_bad {tsu evc cnt_ext cnt_shLive cnt_shExt cnt_shOvf cnt_snapAt cnt_snapSeq cnt_dumps cnt_sramAt cnt_burstSec cnt_burst
    cnt_suppressed cnt_agg pair start rr frames seq stage swapGo swapGen draining lpmDirty bankWritten pe_stock snapWait punts inj ecc_scrubAt ecc_lapStart
    svc_root svc_nextId svc_addrs svc_seeds svc_dropPrev svc_stock svc_mcast servo har gnss ptp_seqs ptp_seqBase ptp_foreign
    ptp_ups ptp_launches ptp_pdelay ptp_link ptp_utcOk ptp_cls ke_idents ke_server ke_warned ke_secret bnu_keys
    bnu_stopped bnu_calls bnu_drbg bnu_gone bnu_pool bnu_rawBit bnu_rawRun k v}
    (h : Keeps a s) : Keeps a ⟨s.pending, s.variant, s.regs, s.initRegs, s.mem, s.busOut, s.out, s.fresh, tsu, evc,
    ⟨s.cnt.live, cnt_ext, cnt_shLive, cnt_shExt, cnt_shOvf, cnt_snapAt, cnt_snapSeq, cnt_dumps, cnt_sramAt, cnt_burstSec, cnt_burst, cnt_suppressed, cnt_agg⟩,
    pair, start, s.otp, s.nvm, s.gate, s.ports, ⟨s.pe.ctx, s.pe.q, rr, frames, seq, stage, swapGo, swapGen, draining, lpmDirty,
    bankWritten, pe_stock, snapWait, punts, inj⟩, ⟨mapSet (fun _ => 0) k v s.ecc.bad, s.ecc.log, ecc_scrubAt, ecc_lapStart⟩,
    ⟨s.svc.keys, svc_root, svc_nextId, svc_addrs, svc_seeds, s.svc.sketch, svc_dropPrev, svc_stock, svc_mcast⟩, s.refs, s.refUp, servo, har, s.tic, s.outs, s.trigs, gnss, s.nts, s.tod,
    ⟨ptp_seqs, ptp_seqBase, s.ptp.grants, ptp_foreign, ptp_ups, ptp_launches, ptp_pdelay, ptp_link, ptp_utcOk, ptp_cls⟩,
    ⟨s.ke.conns, ke_idents, ke_server, ke_warned, ke_secret⟩,
    ⟨s.bnu.units, bnu_keys, bnu_stopped, bnu_calls, bnu_drbg, bnu_gone, bnu_pool, bnu_rawBit, bnu_rawRun⟩⟩ :=
  Keeps_trans h ⟨rfl, rfl, List.suffix_refl _, Nat.le_refl _, fun _ => rfl, fun c => ⟨c.mem, c.regs, c.initRegs, c.busOut, c.flash, c.gate, c.ports, c.refs, c.refUp, c.tic, c.outs, c.trigs, c.nts, c.tod, c.ctx, c.q, c.live, c.keys, c.sketch, c.grants, c.conns, c.units, mapWf_mapSet _ _ _ c.bad, c.log⟩⟩

-- The flash.
theorem keeps_upd_log {tsu evc cnt_ext cnt_shLive cnt_shExt cnt_shOvf cnt_snapAt cnt_snapSeq cnt_dumps cnt_sramAt cnt_burstSec cnt_burst
    cnt_suppressed cnt_agg pair start rr frames seq stage swapGo swapGen draining lpmDirty bankWritten pe_stock snapWait punts inj ecc_scrubAt ecc_lapStart
    svc_root svc_nextId svc_addrs svc_seeds svc_dropPrev svc_stock svc_mcast servo har gnss ptp_seqs ptp_seqBase ptp_foreign
    ptp_ups ptp_launches ptp_pdelay ptp_link ptp_utcOk ptp_cls ke_idents ke_server ke_warned ke_secret bnu_keys
    bnu_stopped bnu_calls bnu_drbg bnu_gone bnu_pool bnu_rawBit bnu_rawRun k v}
    (h : Keeps a s) : Keeps a ⟨s.pending, s.variant, s.regs, s.initRegs, s.mem, s.busOut, s.out, s.fresh, tsu, evc,
    ⟨s.cnt.live, cnt_ext, cnt_shLive, cnt_shExt, cnt_shOvf, cnt_snapAt, cnt_snapSeq, cnt_dumps, cnt_sramAt, cnt_burstSec, cnt_burst, cnt_suppressed, cnt_agg⟩,
    pair, start, s.otp, s.nvm, s.gate, s.ports, ⟨s.pe.ctx, s.pe.q, rr, frames, seq, stage, swapGo, swapGen, draining, lpmDirty,
    bankWritten, pe_stock, snapWait, punts, inj⟩, ⟨s.ecc.bad, mapSet (fun _ => none) k v s.ecc.log, ecc_scrubAt, ecc_lapStart⟩,
    ⟨s.svc.keys, svc_root, svc_nextId, svc_addrs, svc_seeds, s.svc.sketch, svc_dropPrev, svc_stock, svc_mcast⟩, s.refs, s.refUp, servo, har, s.tic, s.outs, s.trigs, gnss, s.nts, s.tod,
    ⟨ptp_seqs, ptp_seqBase, s.ptp.grants, ptp_foreign, ptp_ups, ptp_launches, ptp_pdelay, ptp_link, ptp_utcOk, ptp_cls⟩,
    ⟨s.ke.conns, ke_idents, ke_server, ke_warned, ke_secret⟩,
    ⟨s.bnu.units, bnu_keys, bnu_stopped, bnu_calls, bnu_drbg, bnu_gone, bnu_pool, bnu_rawBit, bnu_rawRun⟩⟩ :=
  Keeps_trans h ⟨rfl, rfl, List.suffix_refl _, Nat.le_refl _, fun _ => rfl, fun c => ⟨c.mem, c.regs, c.initRegs, c.busOut, c.flash, c.gate, c.ports, c.refs, c.refUp, c.tic, c.outs, c.trigs, c.nts, c.tod, c.ctx, c.q, c.live, c.keys, c.sketch, c.grants, c.conns, c.units, c.bad, mapWf_mapSet _ _ _ c.log⟩⟩

-- The flash.
theorem keeps_upd_flashPut {tsu evc cnt_ext cnt_shLive cnt_shExt cnt_shOvf cnt_snapAt cnt_snapSeq cnt_dumps cnt_sramAt cnt_burstSec cnt_burst
    cnt_suppressed cnt_agg pair start rr frames seq stage swapGo swapGen draining lpmDirty bankWritten pe_stock snapWait punts inj ecc_scrubAt ecc_lapStart
    svc_root svc_nextId svc_addrs svc_seeds svc_dropPrev svc_stock svc_mcast servo har gnss ptp_seqs ptp_seqBase ptp_foreign
    ptp_ups ptp_launches ptp_pdelay ptp_link ptp_utcOk ptp_cls ke_idents ke_server ke_warned ke_secret bnu_keys
    bnu_stopped bnu_calls bnu_drbg bnu_gone bnu_pool bnu_rawBit bnu_rawRun k v op} (h : Keeps a s) : Keeps a
    ⟨s.pending, s.variant, s.regs, s.initRegs, s.mem, s.busOut, s.out, s.fresh, tsu, evc, ⟨s.cnt.live, cnt_ext, cnt_shLive, cnt_shExt, cnt_shOvf, cnt_snapAt, cnt_snapSeq, cnt_dumps, cnt_sramAt, cnt_burstSec, cnt_burst, cnt_suppressed, cnt_agg⟩,
    pair, start, s.otp, ⟨mapPut
    flashDefault s.nvm.flash k v, op⟩, s.gate, s.ports, ⟨s.pe.ctx, s.pe.q, rr, frames, seq, stage, swapGo,
      swapGen, draining, lpmDirty, bankWritten, pe_stock, snapWait, punts, inj⟩, ⟨s.ecc.bad, s.ecc.log, ecc_scrubAt, ecc_lapStart⟩, ⟨s.svc.keys, svc_root, svc_nextId, svc_addrs, svc_seeds, s.svc.sketch, svc_dropPrev, svc_stock, svc_mcast⟩,
    s.refs, s.refUp, servo, har, s.tic, s.outs, s.trigs,
    gnss, s.nts, s.tod,
    ⟨ptp_seqs, ptp_seqBase, s.ptp.grants, ptp_foreign, ptp_ups, ptp_launches, ptp_pdelay, ptp_link, ptp_utcOk, ptp_cls⟩,
    ⟨s.ke.conns, ke_idents, ke_server, ke_warned, ke_secret⟩,
    ⟨s.bnu.units, bnu_keys, bnu_stopped, bnu_calls, bnu_drbg, bnu_gone, bnu_pool, bnu_rawBit, bnu_rawRun⟩⟩ := Keeps_trans h ⟨rfl, rfl, List.suffix_refl _, Nat.le_refl _, fun _ => rfl, fun c =>
    ⟨c.mem, c.regs, c.initRegs, c.busOut, mapWf_mapPut _ _ _ c.flash, c.gate, c.ports, c.refs, c.refUp, c.tic, c.outs,
    c.trigs, c.nts, c.tod, c.ctx, c.q, c.live, c.keys, c.sketch, c.grants, c.conns, c.units, c.bad, c.log⟩⟩

theorem keeps_upd_flashFilter {tsu evc cnt_ext cnt_shLive cnt_shExt cnt_shOvf cnt_snapAt cnt_snapSeq cnt_dumps cnt_sramAt cnt_burstSec cnt_burst
    cnt_suppressed cnt_agg pair start rr frames seq stage swapGo swapGen draining lpmDirty bankWritten pe_stock snapWait punts inj ecc_scrubAt ecc_lapStart
    svc_root svc_nextId svc_addrs svc_seeds svc_dropPrev svc_stock svc_mcast servo har gnss ptp_seqs ptp_seqBase ptp_foreign
    ptp_ups ptp_launches ptp_pdelay ptp_link ptp_utcOk ptp_cls ke_idents ke_server ke_warned ke_secret bnu_keys
    bnu_stopped bnu_calls bnu_drbg bnu_gone bnu_pool bnu_rawBit bnu_rawRun p op} (h : Keeps a s) : Keeps a
    ⟨s.pending, s.variant, s.regs, s.initRegs, s.mem, s.busOut, s.out, s.fresh, tsu, evc, ⟨s.cnt.live, cnt_ext, cnt_shLive, cnt_shExt, cnt_shOvf, cnt_snapAt, cnt_snapSeq, cnt_dumps, cnt_sramAt, cnt_burstSec, cnt_burst, cnt_suppressed, cnt_agg⟩,
    pair, start, s.otp,
    ⟨s.nvm.flash.filter p, op⟩, s.gate, s.ports, ⟨s.pe.ctx, s.pe.q, rr, frames, seq, stage, swapGo,
      swapGen, draining, lpmDirty, bankWritten, pe_stock, snapWait, punts, inj⟩, ⟨s.ecc.bad, s.ecc.log, ecc_scrubAt, ecc_lapStart⟩, ⟨s.svc.keys, svc_root, svc_nextId, svc_addrs, svc_seeds, s.svc.sketch, svc_dropPrev, svc_stock, svc_mcast⟩,
    s.refs, s.refUp, servo, har, s.tic, s.outs, s.trigs, gnss,
    s.nts, s.tod,
    ⟨ptp_seqs, ptp_seqBase, s.ptp.grants, ptp_foreign, ptp_ups, ptp_launches, ptp_pdelay, ptp_link, ptp_utcOk, ptp_cls⟩,
    ⟨s.ke.conns, ke_idents, ke_server, ke_warned, ke_secret⟩,
    ⟨s.bnu.units, bnu_keys, bnu_stopped, bnu_calls, bnu_drbg, bnu_gone, bnu_pool, bnu_rawBit, bnu_rawRun⟩⟩ := Keeps_trans h ⟨rfl, rfl, List.suffix_refl _, Nat.le_refl _, fun _ => rfl, fun c => ⟨c.mem,
    c.regs, c.initRegs, c.busOut, mapWf_filter _ c.flash, c.gate, c.ports, c.refs, c.refUp, c.tic, c.outs, c.trigs, c.nts,
    c.tod, c.ctx, c.q, c.live, c.keys, c.sketch, c.grants, c.conns, c.units, c.bad, c.log⟩⟩

-- Operations that change a tracked field -------------------------------------------------------------------------

theorem keeps_wr {r : Nat} {v : Word} (h : Keeps a s) : Keeps a (wr r v s) :=
  Keeps_trans h ⟨rfl, rfl, List.suffix_refl _, Nat.le_refl _, fun _ => rfl,
    fun c => ⟨c.mem, mapWf_mapSet _ _ _ c.regs, c.initRegs, c.busOut, c.flash, c.gate, c.ports, c.refs, c.refUp, c.tic, c.outs,
      c.trigs, c.nts, c.tod, c.ctx, c.q, c.live, c.keys, c.sketch, c.grants, c.conns, c.units, c.bad, c.log⟩⟩

theorem keeps_wrI {i : Initiator} {r : Nat} {v : Word} (h : Keeps a s) : Keeps a (wrI i r v s) :=
  Keeps_trans h ⟨rfl, rfl, List.suffix_refl _, Nat.le_refl _, fun _ => rfl,
    fun c => ⟨c.mem, c.regs, mapWf_mapSet _ _ _ c.initRegs, c.busOut, c.flash, c.gate, c.ports, c.refs, c.refUp, c.tic, c.outs,
      c.trigs, c.nts, c.tod, c.ctx, c.q, c.live, c.keys, c.sketch, c.grants, c.conns, c.units, c.bad, c.log⟩⟩

theorem keeps_answer {i : Initiator} {v : Word} (h : Keeps a s) : Keeps a (answer i v s) :=
  Keeps_trans h ⟨rfl, rfl, List.suffix_refl _, Nat.le_refl _, fun _ => rfl,
    fun c => ⟨c.mem, c.regs, c.initRegs, mapWf_mapSet _ _ _ c.busOut, c.flash, c.gate, c.ports, c.refs, c.refUp, c.tic, c.outs,
      c.trigs, c.nts, c.tod, c.ctx, c.q, c.live, c.keys, c.sketch, c.grants, c.conns, c.units, c.bad, c.log⟩⟩

theorem keeps_stBytes {r : Nat} {bs : List Byte} (h : Keeps a s) : Keeps a (stBytes r bs s) :=
  Keeps_trans h ⟨rfl, rfl, List.suffix_refl _, Nat.le_refl _, fun _ => rfl,
    fun c => ⟨mapWf_mapPut _ _ _ c.mem, c.regs, c.initRegs, c.busOut, c.flash, c.gate, c.ports, c.refs, c.refUp, c.tic, c.outs,
      c.trigs, c.nts, c.tod, c.ctx, c.q, c.live, c.keys, c.sketch, c.grants, c.conns, c.units, c.bad, c.log⟩⟩

theorem keeps_clrRange {lo hi : Nat} (h : Keeps a s) : Keeps a (clrRange lo hi s) :=
  Keeps_trans h ⟨rfl, rfl, List.suffix_refl _, Nat.le_refl _, fun _ => rfl,
    fun c => ⟨mapWf_filter _ c.mem, c.regs, c.initRegs, c.busOut, c.flash, c.gate, c.ports, c.refs, c.refUp, c.tic, c.outs,
      c.trigs, c.nts, c.tod, c.ctx, c.q, c.live, c.keys, c.sketch, c.grants, c.conns, c.units, c.bad, c.log⟩⟩

theorem keeps_emitOut {o : Out} (h : Keeps a s) : Keeps a (emitOut o s) :=
  Keeps_trans h ⟨rfl, rfl, List.suffix_cons _ _, Nat.le_refl _, fun _ => rfl,
    fun c => ⟨c.mem, c.regs, c.initRegs, c.busOut, c.flash, c.gate, c.ports, c.refs, c.refUp, c.tic, c.outs,
      c.trigs, c.nts, c.tod, c.ctx, c.q, c.live, c.keys, c.sketch, c.grants, c.conns, c.units, c.bad, c.log⟩⟩

theorem keeps_draw {n : Nat} (h : Keeps a s) : Keeps a (draw n s).2 :=
  Keeps_trans h ⟨rfl, rfl, List.suffix_refl _, Nat.le_succ _, fun _ => rfl,
    fun c => ⟨c.mem, c.regs, c.initRegs, c.busOut, c.flash, c.gate, c.ports, c.refs, c.refUp, c.tic, c.outs,
      c.trigs, c.nts, c.tod, c.ctx, c.q, c.live, c.keys, c.sketch, c.grants, c.conns, c.units, c.bad, c.log⟩⟩

theorem keeps_belaySend {ty : Nat} {b : List Byte} (h : Keeps a s) : Keeps a (belaySend ty b s) := by
  unfold belaySend; split
  · exact Keeps_trans h ⟨rfl, rfl, List.suffix_cons _ _, Nat.le_refl _, fun _ => rfl,
      fun c => ⟨c.mem, c.regs, c.initRegs, c.busOut, c.flash, c.gate, c.ports, c.refs, c.refUp, c.tic, c.outs,
        c.trigs, c.nts, c.tod, c.ctx, c.q, c.live, c.keys, c.sketch, c.grants, c.conns, c.units, c.bad, c.log⟩⟩
  · exact h

end Sys2Proof.Laws
end

