-- ==== Sys2Proof/Laws/KeepsOps.lean ====
section
/-!
SUPPORT. Laws/KeepsOps.lean: the functions of Machine/Ops.lean keep what every command keeps (Keeps of Safety.lean).
-/
namespace Sys2Proof.Laws
open Sys2Proof Sys2Proof.Machine

set_option linter.unusedTactic false
set_option linter.unreachableTactic false
set_option linter.unusedVariables false

theorem keeps_fset {a : State} {a0 : Nat} {f : Fld} {v : Nat} {s : State} (hs : Keeps a s) :
    Keeps a (fset a0 f v s) := by
  unfold fset
  try dsimp only
  repeat' (first
    | with_reducible assumption
    | with_reducible apply keeps_wr)

theorem keeps_fsetB {a : State} {a0 : Nat} {f : Fld} {b : Bool} {s : State} (hs : Keeps a s) :
    Keeps a (fsetB a0 f b s) := by
  unfold fsetB
  try dsimp only
  repeat' (first
    | with_reducible assumption
    | with_reducible apply keeps_fset
    | with_reducible refine keeps_ite ?_ ?_)

theorem keeps_fsetI {a : State} {a0 : Nat} {f : Fld} {v : Int} {s : State} (hs : Keeps a s) :
    Keeps a (fsetI a0 f v s) := by
  unfold fsetI
  try dsimp only
  repeat' (first
    | with_reducible assumption
    | with_reducible apply keeps_fset)

theorem keeps_fmax {a : State} {a0 : Nat} {f : Fld} {v : Nat} {s : State} (hs : Keeps a s) :
    Keeps a (fmax a0 f v s) := by
  unfold fmax
  try dsimp only
  repeat' (first
    | with_reducible assumption
    | with_reducible apply keeps_fset
    | with_reducible refine keeps_ite ?_ ?_)

theorem keeps_setBank {a : State} {reg : Nat → Nat} {i : Nat} {b : Bool} {s : State} (hs : Keeps a s) :
    Keeps a (setBank reg i b s) := by
  unfold setBank
  try dsimp only
  repeat' (first
    | with_reducible assumption
    | with_reducible apply keeps_wr
    | with_reducible refine keeps_ite ?_ ?_
    | with_reducible refine keeps_ite_fun ?_ ?_
    | with_reducible apply keeps_id)

theorem keeps_stW {a : State} {a0 : Nat} {w : Word} {s : State} (hs : Keeps a s) :
    Keeps a (stW a0 w s) := by
  unfold stW
  try dsimp only
  repeat' (first
    | with_reducible assumption
    | with_reducible apply keeps_stBytes)

theorem keeps_setPhase {a : State} {p : Nat} {s : State} (hs : Keeps a s) :
    Keeps a (setPhase p s) := by
  unfold setPhase
  try dsimp only
  repeat' (first
    | with_reducible assumption
    | with_reducible apply keeps_fset)

theorem keeps_setOvf {a : State} {i : Nat} {s : State} (hs : Keeps a s) :
    Keeps a (setOvf i s) := by
  unfold setOvf
  try dsimp only
  repeat' (first
    | with_reducible assumption
    | with_reducible apply keeps_setBank)

theorem keeps_bumpCore {a : State} {i : Nat} {n : Nat} {s : State} (hs : Keeps a s) :
    Keeps a (bumpCore i n s).1 := by
  unfold bumpCore
  try dsimp only
  repeat' (first
    | with_reducible assumption
    | with_reducible apply keeps_setOvf
    | with_reducible refine keeps_ite ?_ ?_
    | with_reducible refine keeps_ite_fst ?_ ?_
    | with_reducible apply keeps_upd_live
    | with_reducible apply keeps_upd')

theorem keeps_occurCore {a : State} {id : Nat} {s : State} (hs : Keeps a s) :
    Keeps a (occurCore id s).1 := by
  unfold occurCore
  try dsimp only
  repeat' (first
    | with_reducible assumption
    | with_reducible apply keeps_setBank
    | with_reducible apply keeps_bumpCore
    | with_reducible refine keeps_ite ?_ ?_
    | with_reducible refine keeps_ite_fst ?_ ?_
    | with_reducible apply keeps_upd')

theorem keeps_ovfRise {a : State} {s : State} (hs : Keeps a s) :
    Keeps a (ovfRise s) := by
  unfold ovfRise
  try dsimp only
  repeat' (first
    | with_reducible assumption
    | with_reducible apply keeps_setBank
    | with_reducible apply keeps_occurCore
    | with_reducible refine keeps_ite ?_ ?_
    | with_reducible apply keeps_upd')

theorem keeps_bump {a : State} {i : Nat} {n : Nat} {s : State} (hs : Keeps a s) :
    Keeps a (bump i n s) := by
  unfold bump
  try dsimp only
  repeat' (first
    | with_reducible assumption
    | with_reducible apply keeps_bumpCore
    | with_reducible apply keeps_ovfRise
    | with_reducible refine keeps_ite ?_ ?_)

theorem keeps_occur {a : State} {id : Nat} {s : State} (hs : Keeps a s) :
    Keeps a (occur id s) := by
  unfold occur
  try dsimp only
  repeat' (first
    | with_reducible assumption
    | with_reducible apply keeps_occurCore
    | with_reducible apply keeps_ovfRise
    | with_reducible refine keeps_ite ?_ ?_)

theorem keeps_setLevel {a : State} {id : Nat} {b : Bool} {s : State} (hs : Keeps a s) :
    Keeps a (setLevel id b s) := by
  unfold setLevel
  try dsimp only
  repeat' (first
    | with_reducible assumption
    | with_reducible apply keeps_setBank
    | with_reducible apply keeps_occur
    | with_reducible refine keeps_ite ?_ ?_
    | with_reducible apply keeps_upd')

theorem keeps_raiseOnce {a : State} {id : Nat} {s : State} (hs : Keeps a s) :
    Keeps a (raiseOnce id s) := by
  unfold raiseOnce
  try dsimp only
  repeat' (first
    | with_reducible assumption
    | with_reducible apply keeps_occur
    | with_reducible refine keeps_ite ?_ ?_
    | with_reducible apply keeps_upd')

theorem keeps_cairnStore {a : State} {sev : Nat} {e : List Byte} {s : State} (hs : Keeps a s) :
    Keeps a (cairnStore sev e s) := by
  unfold cairnStore
  try dsimp only
  repeat' (first
    | with_reducible assumption
    | with_reducible apply keeps_fset
    | with_reducible apply keeps_stBytes
    | with_reducible apply keeps_occur
    | with_reducible refine keeps_ite ?_ ?_)

theorem keeps_cairnForce {a : State} {unit : Nat} {sev : Nat} {cls : Nat} {detail : Nat} {args : List Byte} {s : State} (hs : Keeps a s) :
    Keeps a (cairnForce unit sev cls detail args s) := by
  unfold cairnForce
  try dsimp only
  repeat' (first
    | with_reducible assumption
    | with_reducible apply keeps_cairnStore
    | with_reducible apply keeps_belaySend
    | with_reducible refine keeps_ite ?_ ?_)

theorem keeps_cairn {a : State} {unit : Nat} {sev : Nat} {cls : Nat} {detail : Nat} {args : List Byte} {s : State} (hs : Keeps a s) :
    Keeps a (cairn unit sev cls detail args s) := by
  unfold cairn
  try dsimp only
  repeat' (first
    | with_reducible assumption
    | with_reducible apply keeps_fset
    | with_reducible apply keeps_cairnForce
    | with_reducible refine keeps_ite ?_ ?_
    | with_reducible apply keeps_upd')

theorem keeps_writeIgnored {a : State} {addr : Nat} {v : Word} {detail : Nat} {s : State} (hs : Keeps a s) :
    Keeps a (writeIgnored addr v detail s) := by
  unfold writeIgnored
  try dsimp only
  repeat' (first
    | with_reducible assumption
    | with_reducible apply keeps_cairn)

theorem keeps_cairnState {a : State} {unit : Nat} {sev : Nat} {inst : Nat} {old : Nat} {new : Nat} {cause : Nat} {value : Nat} {s : State} (hs : Keeps a s) :
    Keeps a (cairnState unit sev inst old new cause value s) := by
  unfold cairnState
  try dsimp only
  repeat' (first
    | with_reducible assumption
    | with_reducible apply keeps_cairn)

theorem keeps_cairnFault {a : State} {unit : Nat} {sev : Nat} {detail : Nat} {args : List Byte} {s : State} (hs : Keeps a s) :
    Keeps a (cairnFault unit sev detail args s) := by
  unfold cairnFault
  try dsimp only
  repeat' (first
    | with_reducible assumption
    | with_reducible apply keeps_cairn)

theorem keeps_cairnAgg {a : State} {key : List Nat} {s : State} (hs : Keeps a s) :
    Keeps a (cairnAgg key s) := by
  unfold cairnAgg
  try dsimp only
  repeat' (first
    | with_reducible assumption
    | with_reducible apply keeps_upd')

theorem keeps_forEach {a : State} {xs : List Nat} {f : Nat → State → State} {s : State} (hf : ∀ x b, Keeps a b → Keeps a (f x b))
    (h : Keeps a s) : Keeps a (forEach xs f s) := keeps_foldl _ (fun b x => hf x b) xs h

end Sys2Proof.Laws
end

