-- ==== Sys2Proof/Laws/KeepsEcc.lean ====
section
/-!
SUPPORT. Laws/KeepsEcc.lean: the functions of Machine/Ecc.lean keep what every command keeps (Keeps of Safety.lean).
-/
namespace Sys2Proof.Laws
open Sys2Proof Sys2Proof.Machine

set_option linter.unusedTactic false
set_option linter.unreachableTactic false
set_option linter.unusedVariables false

theorem keeps_eccMark {a : State} {d : Nat} {w : Nat} {bad : Nat} {s : State} (hs : Keeps a s) :
    Keeps a (eccMark d w bad s) := by
  unfold eccMark
  try dsimp only
  repeat' (first
    | with_reducible assumption
    | with_reducible apply keeps_upd_bad)

theorem keeps_eccEntrySet {a : State} {d : Nat} {i : Nat} {e : Option EccEntry} {s : State} (hs : Keeps a s) :
    Keeps a (eccEntrySet d i e s) := by
  unfold eccEntrySet
  try dsimp only
  repeat' (first
    | with_reducible assumption
    | with_reducible apply keeps_upd_log)

theorem keeps_spareOut {a : State} {d : Nat} {s : State} (hs : Keeps a s) :
    Keeps a (spareOut d s) := by
  unfold spareOut
  try dsimp only
  repeat' (first
    | with_reducible assumption
    | with_reducible apply keeps_setLevel
    | with_reducible apply keeps_fset)

theorem keeps_eccPersist {a : State} {d : Nat} {i : Nat} {e : EccEntry} {s : State} (hs : Keeps a s) :
    Keeps a (eccPersist d i e s) := by
  unfold eccPersist
  try dsimp only
  repeat' (first
    | with_reducible assumption
    | with_reducible apply keeps_eccEntrySet
    | with_reducible apply keeps_cairnFault
    | with_reducible apply keeps_raiseOnce
    | with_reducible apply keeps_spareOut
    | with_reducible refine keeps_ite ?_ ?_
    | with_reducible apply keeps_upd')

theorem keeps_eccLog {a : State} {d : Nat} {w : Nat} {bad : Nat} {s : State} (hs : Keeps a s) :
    Keeps a (eccLog d w bad s) := by
  unfold eccLog
  try dsimp only
  repeat' (first
    | with_reducible assumption
    | with_reducible apply keeps_eccPersist
    | with_reducible apply keeps_eccEntrySet
    | with_reducible apply keeps_setLevel
    | with_reducible apply keeps_fset
    | with_reducible refine keeps_ite ?_ ?_
    | split
    | with_reducible apply keeps_upd')

theorem keeps_eccRead {a : State} {d : Nat} {w : Nat} {s : State} (hs : Keeps a s) :
    Keeps a (eccRead d w s).2 := by
  unfold eccRead
  try dsimp only
  repeat' (first
    | with_reducible assumption
    | with_reducible apply keeps_eccLog
    | with_reducible apply keeps_raiseOnce
    | with_reducible apply keeps_bump
    | with_reducible apply keeps_fset
    | with_reducible refine keeps_ite ?_ ?_
    | with_reducible refine keeps_ite_snd ?_ ?_)

theorem keeps_eccWrite {a : State} {d : Nat} {w : Nat} {s : State} (hs : Keeps a s) :
    Keeps a (eccWrite d w s) := by
  unfold eccWrite
  try dsimp only
  repeat' (first
    | with_reducible assumption
    | with_reducible apply keeps_eccMark
    | with_reducible apply keeps_eccEntrySet
    | with_reducible apply keeps_wr
    | with_reducible refine keeps_ite ?_ ?_
    | split
    | with_reducible apply keeps_upd')

theorem keeps_putMem {a : State} {a0 : Nat} {bs : List Byte} {s : State} (hs : Keeps a s) :
    Keeps a (putMem a0 bs s) := by
  unfold putMem
  try dsimp only
  repeat' (first
    | with_reducible assumption
    | with_reducible apply keeps_stBytes
    | (with_reducible refine keeps_forEach (fun _ _ _ => ?_) ?_)
    | with_reducible apply keeps_eccWrite
    | with_reducible refine keeps_ite ?_ ?_
    | split
    | with_reducible apply keeps_upd')

theorem keeps_touchMem {a : State} {a0 : Nat} {n : Nat} {s : State} (hs : Keeps a s) :
    Keeps a (touchMem a0 n s).2 := by
  unfold touchMem
  try dsimp only
  repeat' (first
    | with_reducible assumption
    | with_reducible apply keeps_eccRead
    | with_reducible refine keeps_foldl _ (fun _ _ _ => ?_) _ ?_
    | with_reducible refine keeps_foldl_pair _ (fun _ _ _ => ?_) _ ?_
    | with_reducible refine keeps_ite ?_ ?_
    | with_reducible refine keeps_ite_snd ?_ ?_
    | split
    | with_reducible refine keeps_of_pair ?_ ‹_ = (_, _)›
    | with_reducible apply keeps_upd')

theorem keeps_keyPut {a : State} {k : Nat} {s : State} (hs : Keeps a s) :
    Keeps a (keyPut k s) := by
  unfold keyPut
  try dsimp only
  repeat' (first
    | with_reducible assumption
    | (with_reducible refine keeps_forEach (fun _ _ _ => ?_) ?_)
    | with_reducible apply keeps_eccWrite
    | with_reducible refine keeps_ite ?_ ?_)

theorem keeps_keyWordMeet {a : State} {w : Nat} {s : State} (hs : Keeps a s) :
    Keeps a (keyWordMeet w s).2 := by
  unfold keyWordMeet
  try dsimp only
  repeat' (first
    | with_reducible assumption
    | with_reducible apply keeps_eccRead
    | with_reducible apply keeps_eccWrite
    | with_reducible apply keeps_eccLog
    | with_reducible apply keeps_raiseOnce
    | with_reducible apply keeps_bump
    | with_reducible refine keeps_ite ?_ ?_
    | with_reducible refine keeps_ite_snd ?_ ?_)

theorem keeps_keyMeet {a : State} {k : Nat} {s : State} (hs : Keeps a s) :
    Keeps a (keyMeet k s).2 := by
  unfold keyMeet
  try dsimp only
  repeat' (first
    | with_reducible assumption
    | with_reducible apply keeps_keyWordMeet
    | with_reducible refine keeps_foldl _ (fun _ _ _ => ?_) _ ?_
    | with_reducible refine keeps_foldl_pair _ (fun _ _ _ => ?_) _ ?_
    | with_reducible refine keeps_ite ?_ ?_
    | with_reducible refine keeps_ite_snd ?_ ?_)

theorem keeps_keyGone {a : State} {k : Nat} {s : State} (hs : Keeps a s) :
    Keeps a (keyGone k s) := by
  unfold keyGone
  try dsimp only
  repeat' (first
    | with_reducible assumption
    | with_reducible apply keeps_cairnFault)

theorem keeps_eccArm {a : State} {v : Word} {s : State} (hs : Keeps a s) :
    Keeps a (eccArm v s) := by
  unfold eccArm
  try dsimp only
  repeat' (first
    | with_reducible assumption
    | with_reducible apply keeps_wr)

theorem keeps_eccClear {a : State} {d : Nat} {s : State} (hs : Keeps a s) :
    Keeps a (eccClear d s) := by
  unfold eccClear
  try dsimp only
  repeat' (first
    | with_reducible assumption
    | (with_reducible refine keeps_forEach (fun _ _ _ => ?_) ?_)
    | with_reducible apply keeps_eccEntrySet
    | with_reducible refine keeps_ite ?_ ?_
    | with_reducible refine keeps_ite_fun ?_ ?_
    | with_reducible apply keeps_id
    | split
    | with_reducible apply keeps_upd')

theorem keeps_eccApply {a : State} {a0 : Nat} {v : Word} {s : State} (hs : Keeps a s) :
    OKeeps a (eccApply a0 v s) := by
  unfold eccApply
  try dsimp only
  repeat' (first
    | with_reducible assumption
    | with_reducible apply keeps_eccArm
    | with_reducible apply keeps_eccClear
    | with_reducible apply keeps_wr
    | with_reducible apply keeps_setLevel
    | with_reducible refine keeps_ite ?_ ?_
    | with_reducible refine okeeps_ite ?_ ?_
    | with_reducible apply okeeps_some
    | with_reducible exact okeeps_none
    | with_reducible refine okeeps_map ?_ (fun _ _ => ?_)
    | with_reducible apply okeeps_orElse)

theorem keeps_scrub {a : State} {d : Nat} {w : Nat} {s : State} (hs : Keeps a s) :
    Keeps a (scrub d w s) := by
  unfold scrub
  try dsimp only
  repeat' (first
    | with_reducible assumption
    | with_reducible apply keeps_fset
    | with_reducible apply keeps_raiseOnce
    | with_reducible apply keeps_keyWordMeet
    | with_reducible apply keeps_eccRead
    | with_reducible apply keeps_eccWrite
    | with_reducible refine keeps_ite ?_ ?_
    | with_reducible apply keeps_upd')

theorem keeps_retireDone {a : State} {d : Nat} {i : Nat} {s : State} (hs : Keeps a s) :
    Keeps a (retireDone d i s) := by
  unfold retireDone
  try dsimp only
  repeat' (first
    | with_reducible assumption
    | with_reducible apply keeps_eccEntrySet
    | with_reducible apply keeps_fset
    | with_reducible apply keeps_raiseOnce
    | with_reducible apply keeps_bump
    | with_reducible apply keeps_eccMark
    | with_reducible refine keeps_ite ?_ ?_
    | split
    | with_reducible apply keeps_upd')

theorem keeps_execScrubRead {domain : Nat} {word : Nat} {s : State}  :
    RKeeps s (execScrubRead domain word s) := by
  unfold execScrubRead
  first
    | with_reducible refine rkeeps_run ?_
    | with_reducible refine rkeeps_runIf ?_
    | with_reducible refine rkeeps_next ?_
    | (unfold keRun; with_reducible refine rkeeps_runIf ?_)
  try dsimp only
  repeat' (first
    | with_reducible assumption
    | with_reducible exact Keeps_refl _
    | with_reducible apply keeps_scrub)

theorem keeps_execRowRetireComplete {domain : Nat} {entry : Nat} {s : State}  :
    RKeeps s (execRowRetireComplete domain entry s) := by
  unfold execRowRetireComplete
  first
    | with_reducible refine rkeeps_run ?_
    | with_reducible refine rkeeps_runIf ?_
    | with_reducible refine rkeeps_next ?_
    | (unfold keRun; with_reducible refine rkeeps_runIf ?_)
  try dsimp only
  repeat' (first
    | with_reducible assumption
    | with_reducible exact Keeps_refl _
    | with_reducible apply keeps_retireDone)

end Sys2Proof.Laws
end

