-- ==== Sys2Proof/Laws/KeepsGate.lean ====
section
/-!
SUPPORT. Laws/KeepsGate.lean: the functions of Machine/Gate.lean keep what every command keeps (Keeps of Safety.lean).
-/
namespace Sys2Proof.Laws
open Sys2Proof Sys2Proof.Machine

set_option linter.unusedTactic false
set_option linter.unreachableTactic false
set_option linter.unusedVariables false

theorem keeps_portSet {a : State} {p : Nat} {x : PortState} {s : State} (hs : Keeps a s) :
    Keeps a (portSet p x s) := by
  unfold portSet
  try dsimp only
  repeat' (first
    | with_reducible assumption
    | with_reducible apply keeps_upd_ports)

theorem keeps_gateSet {a : State} {p : Nat} {g : GatePort} {s : State} (hs : Keeps a s) :
    Keeps a (gateSet p g s) := by
  unfold gateSet
  try dsimp only
  repeat' (first
    | with_reducible assumption
    | with_reducible apply keeps_fset
    | with_reducible apply keeps_fmax
    | with_reducible apply keeps_upd_gate)

theorem keeps_slotRefused {a : State} {p : Nat} {cls : Nat} {j : Nat} {s : State} (hs : Keeps a s) :
    Keeps a (slotRefused p cls j s) := by
  unfold slotRefused
  try dsimp only
  repeat' (first
    | with_reducible assumption
    | with_reducible apply keeps_bump
    | with_reducible apply keeps_raiseOnce
    | with_reducible refine keeps_ite ?_ ?_)

theorem keeps_slotBook {a : State} {p : Nat} {cls : Nat} {ec : Nat} {len : Nat} {s : State} {x0 : Option (Nat × Nat)} (hs : Keeps a s) :
    Keeps a (slotBook p cls ec len s x0).2 := by
  unfold slotBook
  try dsimp only
  repeat' (first
    | with_reducible assumption
    | with_reducible apply keeps_slotRefused
    | with_reducible apply keeps_bump
    | with_reducible apply keeps_gateSet
    | split
    | with_reducible apply keeps_upd')

theorem keeps_slotRequest {a : State} {p : Nat} {cls : Nat} {ec : Nat} {inT : Nat} {lead : Nat} {win : Nat} {len : Nat} {s : State} (hs : Keeps a s) :
    Keeps a (slotRequest p cls ec inT lead win len s).2 := by
  unfold slotRequest
  try dsimp only
  repeat' (first
    | with_reducible assumption
    | with_reducible apply keeps_slotRefused
    | with_reducible apply keeps_slotBook
    | with_reducible refine keeps_ite ?_ ?_
    | with_reducible refine keeps_ite_snd ?_ ?_)

theorem keeps_slotRelease {a : State} {p : Nat} {q : Nat} {ec : Nat} {s : State} (hs : Keeps a s) :
    Keeps a (slotRelease p q ec s) := by
  unfold slotRelease
  try dsimp only
  repeat' (first
    | with_reducible assumption
    | with_reducible apply keeps_gateSet
    | with_reducible apply keeps_upd')

theorem keeps_frameFree {a : State} {d : List Byte} {s : State} (hs : Keeps a s) :
    Keeps a (frameFree d s) := by
  unfold frameFree
  try dsimp only
  repeat' (first
    | with_reducible assumption
    | with_reducible apply keeps_upd')

theorem keeps_redispatch {a : State} {d : List Byte} {old : Bool} {s : State} (hs : Keeps a s) :
    Keeps a (redispatch d old s) := by
  unfold redispatch
  try dsimp only
  repeat' (first
    | with_reducible assumption
    | with_reducible apply keeps_upd_q)

theorem keeps_frameDone {a : State} {f : GFrame} {s : State} (hs : Keeps a s) :
    Keeps a (frameDone f s) := by
  unfold frameDone
  try dsimp only
  repeat' (first
    | with_reducible assumption
    | with_reducible apply keeps_frameFree
    | with_reducible refine keeps_ite ?_ ?_)

theorem keeps_withhold {a : State} {p : Nat} {cause : Nat} {launch : Bool} {f : GFrame} {s : State} (hs : Keeps a s) :
    Keeps a (withhold p cause launch f s) := by
  unfold withhold
  try dsimp only
  repeat' (first
    | with_reducible assumption
    | with_reducible apply keeps_gateSet
    | with_reducible apply keeps_frameDone
    | with_reducible apply keeps_raiseOnce
    | with_reducible apply keeps_bump
    | with_reducible apply keeps_redispatch
    | with_reducible refine keeps_ite ?_ ?_
    | split
    | with_reducible apply keeps_upd')

theorem keeps_strike {a : State} {p : Nat} {cause : Nat} {b : Booking} {s : State} (hs : Keeps a s) :
    Keeps a (strike p cause b s).2 := by
  unfold strike
  try dsimp only
  repeat' (first
    | with_reducible assumption
    | with_reducible apply keeps_raiseOnce
    | with_reducible apply keeps_withhold
    | with_reducible refine keeps_ite ?_ ?_
    | with_reducible refine keeps_ite_snd ?_ ?_
    | split
    | with_reducible apply keeps_upd')

theorem keeps_strikePort {a : State} {p : Nat} {cause : Nat} {sel : Booking → Bool} {s : State} (hs : Keeps a s) :
    Keeps a (strikePort p cause sel s) := by
  unfold strikePort
  try dsimp only
  repeat' (first
    | with_reducible assumption
    | with_reducible apply keeps_strike
    | with_reducible apply keeps_gateSet
    | with_reducible refine keeps_foldl _ (fun _ _ _ => ?_) _ ?_
    | with_reducible refine keeps_foldl_pair _ (fun _ _ _ => ?_) _ ?_
    | with_reducible refine keeps_ite ?_ ?_
    | split
    | with_reducible refine keeps_of_pair ?_ ‹_ = (_, _)›
    | with_reducible apply keeps_upd')

theorem keeps_strikeFrom {a : State} {pt : Nat} {s : State} (hs : Keeps a s) :
    Keeps a (strikeFrom pt s) := by
  unfold strikeFrom
  try dsimp only
  repeat' (first
    | with_reducible assumption
    | (with_reducible refine keeps_forEach (fun _ _ _ => ?_) ?_)
    | with_reducible apply keeps_strikePort)

theorem keeps_gateIncrement {a : State} {te : Nat} {old : Nat} {new : Nat} {s : State} (hs : Keeps a s) :
    Keeps a (gateIncrement te old new s) := by
  unfold gateIncrement
  try dsimp only
  repeat' (first
    | with_reducible assumption
    | (with_reducible refine keeps_forEach (fun _ _ _ => ?_) ?_)
    | with_reducible apply keeps_strikePort
    | split
    | with_reducible apply keeps_upd')

theorem keeps_gateReplan {a : State} {p : Nat} {s : State} (hs : Keeps a s) :
    Keeps a (gateReplan p s) := by
  unfold gateReplan
  try dsimp only
  repeat' (first
    | with_reducible assumption
    | with_reducible apply keeps_fset
    | with_reducible apply keeps_strikePort)

theorem keeps_gatePlan {a : State} {p : Nat} {tcw : Nat} {am : Nat} {s : State} (hs : Keeps a s) :
    Keeps a (gatePlan p tcw am s) := by
  unfold gatePlan
  try dsimp only
  repeat' (first
    | with_reducible assumption
    | with_reducible apply keeps_gateSet
    | with_reducible apply keeps_wr
    | with_reducible apply keeps_fset
    | with_reducible apply keeps_upd')

theorem keeps_correctCount {a : State} {p : Nat} {t : Nat} {f : GFrame} {s : State} (hs : Keeps a s) :
    Keeps a (correctCount p t f s).2 := by
  unfold correctCount
  try dsimp only
  repeat' (first
    | with_reducible assumption
    | with_reducible apply keeps_raiseOnce
    | with_reducible apply keeps_bump
    | with_reducible refine keeps_ite ?_ ?_
    | with_reducible refine keeps_ite_snd ?_ ?_)

theorem keeps_noteMiss {a : State} {p : Nat} {ec : Nat} {revoked : Bool} {reproc : Bool} {late : Nat} {s : State} (hs : Keeps a s) :
    Keeps a (noteMiss p ec revoked reproc late s) := by
  unfold noteMiss
  try dsimp only
  repeat' (first
    | with_reducible assumption
    | with_reducible apply keeps_fset
    | with_reducible apply keeps_fsetB)

theorem keeps_gateEmit {a : State} {p : Nat} {q : Nat} {ec : Nat} {f : GFrame} {s : State} (hs : Keeps a s) :
    Keeps a (gateEmit p q ec f s) := by
  unfold gateEmit
  try dsimp only
  repeat' (first
    | with_reducible assumption
    | with_reducible apply keeps_frameDone
    | with_reducible apply keeps_gateSet
    | with_reducible apply keeps_noteMiss
    | with_reducible apply keeps_withhold
    | with_reducible apply keeps_bump
    | with_reducible refine keeps_ite ?_ ?_
    | split
    | with_reducible apply keeps_upd')

theorem keeps_freeDrop {a : State} {p : Nat} {f : GFrame} {s : State} (hs : Keeps a s) :
    Keeps a (freeDrop p f s) := by
  unfold freeDrop
  try dsimp only
  repeat' (first
    | with_reducible assumption
    | with_reducible apply keeps_gateSet
    | with_reducible apply keeps_frameDone
    | with_reducible apply keeps_raiseOnce
    | with_reducible apply keeps_bump
    | with_reducible refine keeps_ite ?_ ?_
    | with_reducible apply keeps_upd')

theorem keeps_gateFree {a : State} {p : Nat} {cls : Nat} {f : GFrame} {s : State} (hs : Keeps a s) :
    Keeps a (gateFree p cls f s) := by
  unfold gateFree
  try dsimp only
  repeat' (first
    | with_reducible assumption
    | with_reducible apply keeps_frameDone
    | with_reducible apply keeps_bump
    | with_reducible apply keeps_freeDrop
    | with_reducible apply keeps_withhold
    | with_reducible apply keeps_gateSet
    | with_reducible refine keeps_ite ?_ ?_
    | with_reducible apply keeps_upd')

theorem keeps_freeFlush {a : State} {p : Nat} {s : State} (hs : Keeps a s) :
    Keeps a (freeFlush p s) := by
  unfold freeFlush
  try dsimp only
  repeat' (first
    | with_reducible assumption
    | with_reducible apply keeps_freeDrop
    | with_reducible apply keeps_gateSet
    | with_reducible refine keeps_foldl _ (fun _ _ _ => ?_) _ ?_
    | with_reducible refine keeps_foldl_pair _ (fun _ _ _ => ?_) _ ?_
    | with_reducible apply keeps_upd')

theorem keeps_freeBook {a : State} {p : Nat} {c : Nat} {n : Nat} {f : GFrame} {s : State} {x0 : Option (Nat × Nat)} (hs : Keeps a s) :
    Keeps a (freeBook p c n f s x0) := by
  unfold freeBook
  try dsimp only
  repeat' (first
    | with_reducible assumption
    | with_reducible apply keeps_correctCount
    | with_reducible apply keeps_bump
    | with_reducible apply keeps_gateSet
    | split
    | with_reducible apply keeps_upd')

theorem keeps_freePlace {a : State} {p : Nat} {s : State} (hs : Keeps a s) :
    Keeps a (freePlace p s) := by
  unfold freePlace
  try dsimp only
  repeat' (first
    | with_reducible assumption
    | with_reducible apply keeps_withhold
    | with_reducible apply keeps_gateSet
    | with_reducible apply keeps_freeBook
    | with_reducible refine keeps_ite ?_ ?_
    | split
    | with_reducible apply keeps_upd')

theorem keeps_freeTimeout {a : State} {p : Nat} {c : Nat} {s : State} (hs : Keeps a s) :
    Keeps a (freeTimeout p c s) := by
  unfold freeTimeout
  try dsimp only
  repeat' (first
    | with_reducible assumption
    | with_reducible apply keeps_freeDrop
    | with_reducible apply keeps_gateSet
    | split
    | with_reducible apply keeps_upd')

theorem keeps_gateDeadline {a : State} {p : Nat} {q : Nat} {s : State} (hs : Keeps a s) :
    Keeps a (gateDeadline p q s) := by
  unfold gateDeadline
  try dsimp only
  repeat' (first
    | with_reducible assumption
    | with_reducible apply keeps_gateSet
    | with_reducible apply keeps_correctCount
    | split
    | with_reducible refine keeps_of_pair ?_ ‹_ = (_, _)›
    | with_reducible apply keeps_upd')

theorem keeps_gateMeet {a : State} {f : GFrame} {s : State} (hs : Keeps a s) :
    Keeps a (gateMeet f s).2 := by
  unfold gateMeet
  try dsimp only
  repeat' (first
    | with_reducible assumption
    | with_reducible apply keeps_touchMem
    | split
    | with_reducible refine keeps_of_pair ?_ ‹_ = (_, _)›
    | with_reducible apply keeps_upd')

theorem keeps_gateUe {a : State} {p : Nat} {b : Booking} {f : GFrame} {s : State} (hs : Keeps a s) :
    Keeps a (gateUe p b f s) := by
  unfold gateUe
  try dsimp only
  repeat' (first
    | with_reducible assumption
    | with_reducible apply keeps_frameDone
    | with_reducible apply keeps_bump
    | with_reducible apply keeps_gateSet
    | with_reducible apply keeps_upd')

theorem keeps_gateSend {a : State} {p : Nat} {q : Nat} {b : Booking} {f : GFrame} {s : State} (hs : Keeps a s) :
    Keeps a (gateSend p q b f s) := by
  unfold gateSend
  try dsimp only
  repeat' (first
    | with_reducible assumption
    | with_reducible apply keeps_bump
    | with_reducible apply keeps_emitOut
    | with_reducible apply keeps_gateSet
    | with_reducible apply keeps_frameDone
    | with_reducible refine keeps_ite ?_ ?_
    | split
    | with_reducible apply keeps_upd')

theorem keeps_gateRelease {a : State} {p : Nat} {q : Nat} {s : State} (hs : Keeps a s) :
    Keeps a (gateRelease p q s) := by
  unfold gateRelease
  try dsimp only
  repeat' (first
    | with_reducible assumption
    | with_reducible apply keeps_gateMeet
    | with_reducible apply keeps_gateUe
    | with_reducible apply keeps_gateSend
    | with_reducible refine keeps_ite ?_ ?_
    | split
    | with_reducible refine keeps_of_pair ?_ ‹_ = (_, _)›
    | with_reducible apply keeps_upd')

theorem keeps_gateSetEdge {a : State} {s : State} (hs : Keeps a s) :
    Keeps a (gateSetEdge s) := by
  unfold gateSetEdge
  try dsimp only
  repeat' (first
    | with_reducible assumption
    | (with_reducible refine keeps_forEach (fun _ _ _ => ?_) ?_)
    | with_reducible apply keeps_strikePort
    | with_reducible apply keeps_gateSet
    | with_reducible apply keeps_withhold
    | with_reducible refine keeps_foldl _ (fun _ _ _ => ?_) _ ?_
    | with_reducible refine keeps_foldl_pair _ (fun _ _ _ => ?_) _ ?_
    | with_reducible refine keeps_ite ?_ ?_
    | with_reducible apply keeps_upd')

theorem keeps_gateClear {a : State} {s : State} (hs : Keeps a s) :
    Keeps a (gateClear s) := by
  exact keeps_upd_gateNil hs

theorem keeps_execSetupDeadline {port : Nat} {q : Nat} {s : State}  :
    RKeeps s (execSetupDeadline port q s) := by
  unfold execSetupDeadline
  first
    | with_reducible refine rkeeps_run ?_
    | with_reducible refine rkeeps_runIf ?_
    | with_reducible refine rkeeps_next ?_
    | (unfold keRun; with_reducible refine rkeeps_runIf ?_)
  try dsimp only
  repeat' (first
    | with_reducible assumption
    | with_reducible exact Keeps_refl _
    | with_reducible apply keeps_gateDeadline)

theorem keeps_execStartBlockEntry {port : Nat} {q : Nat} {s : State}  :
    RKeeps s (execStartBlockEntry port q s) := by
  unfold execStartBlockEntry
  first
    | with_reducible refine rkeeps_run ?_
    | with_reducible refine rkeeps_runIf ?_
    | with_reducible refine rkeeps_next ?_
    | (unfold keRun; with_reducible refine rkeeps_runIf ?_)
  try dsimp only
  repeat' (first
    | with_reducible assumption
    | with_reducible exact Keeps_refl _
    | with_reducible apply keeps_gateRelease)

theorem keeps_execFreePlacement {port : Nat} {s : State}  :
    RKeeps s (execFreePlacement port s) := by
  unfold execFreePlacement
  first
    | with_reducible refine rkeeps_run ?_
    | with_reducible refine rkeeps_runIf ?_
    | with_reducible refine rkeeps_next ?_
    | (unfold keRun; with_reducible refine rkeeps_runIf ?_)
  try dsimp only
  repeat' (first
    | with_reducible assumption
    | with_reducible exact Keeps_refl _
    | with_reducible apply keeps_freePlace)

theorem keeps_execFreeQueueTimeout {port : Nat} {cls : Nat} {s : State}  :
    RKeeps s (execFreeQueueTimeout port cls s) := by
  unfold execFreeQueueTimeout
  first
    | with_reducible refine rkeeps_run ?_
    | with_reducible refine rkeeps_runIf ?_
    | with_reducible refine rkeeps_next ?_
    | (unfold keRun; with_reducible refine rkeeps_runIf ?_)
  try dsimp only
  repeat' (first
    | with_reducible assumption
    | with_reducible exact Keeps_refl _
    | with_reducible apply keeps_freeTimeout)

end Sys2Proof.Laws
end

