-- ==== Sys2Proof/Laws/KeepsOperands.lean ====
section
/-!
SUPPORT. Laws/KeepsOperands.lean: the functions of Machine/Operands.lean keep what every command keeps (Keeps of Safety.lean).
-/
namespace Sys2Proof.Laws
open Sys2Proof Sys2Proof.Machine

set_option linter.unusedTactic false
set_option linter.unreachableTactic false
set_option linter.unusedVariables false

theorem keeps_ctxSet {a : State} {ec : Nat} {c : Ctx} {s : State} (hs : Keeps a s) :
    Keeps a (ctxSet ec c s) := by
  unfold ctxSet
  try dsimp only
  repeat' (first
    | with_reducible assumption
    | with_reducible apply keeps_upd_ctx)

theorem keeps_refMeet {a : State} {ec : Nat} {c : Ctx} {r : Ref} {n : Nat} {s : State} (hs : Keeps a s) :
    Keeps a (refMeet ec c r n s).2 := by
  unfold refMeet
  try dsimp only
  repeat' (first
    | with_reducible assumption
    | with_reducible apply keeps_touchMem
    | with_reducible refine keeps_ite ?_ ?_
    | with_reducible refine keeps_ite_snd ?_ ?_
    | split
    | with_reducible refine keeps_of_pair ?_ ‹_ = (_, _)›
    | with_reducible apply keeps_upd')

theorem keeps_refPut {a : State} {ec : Nat} {g : Region} {i : Int} {b : Byte} {x : Ctx × State} (hx : Keeps a x.2) :
    Keeps a (refPut ec g i b x).2 := by
  unfold refPut
  try dsimp only
  repeat' (first
    | with_reducible assumption
    | with_reducible apply keeps_putMem
    | with_reducible refine keeps_ite ?_ ?_
    | with_reducible refine keeps_ite_snd ?_ ?_
    | split
    | with_reducible apply keeps_upd')

theorem keeps_refWrite {a : State} {ec : Nat} {r : Ref} {bs : List Byte} {x : Ctx × State} (hx : Keeps a x.2) :
    Keeps a (refWrite ec r bs x).2 := by
  unfold refWrite
  try dsimp only
  repeat' (first
    | with_reducible assumption
    | with_reducible apply keeps_refPut
    | with_reducible refine keeps_foldl _ (fun _ _ _ => ?_) _ ?_
    | with_reducible refine keeps_foldl_pair _ (fun _ _ _ => ?_) _ ?_)

end Sys2Proof.Laws
end

