-- ==== Sys2Proof/Laws/KeepsTsu.lean ====
section
/-!
SUPPORT. Laws/KeepsTsu.lean: the functions of Machine/Tsu.lean keep what every command keeps (Keeps of Safety.lean).
-/
namespace Sys2Proof.Laws
open Sys2Proof Sys2Proof.Machine

set_option linter.unusedTactic false
set_option linter.unreachableTactic false
set_option linter.unusedVariables false

theorem keeps_slewNote {a : State} {part : Int} {s : State} (hs : Keeps a s) :
    Keeps a (slewNote part s) := by
  unfold slewNote
  try dsimp only
  repeat' (first
    | with_reducible assumption
    | with_reducible refine keeps_ite ?_ ?_
    | split
    | with_reducible apply keeps_upd')

theorem keeps_gateCarry {a : State} {was : Int} {is : Int} {old : Nat} {new : Nat} {s : State} (hs : Keeps a s) :
    Keeps a (gateCarry was is old new s) := by
  unfold gateCarry
  try dsimp only
  repeat' (first
    | with_reducible assumption
    | (with_reducible refine keeps_forEach (fun _ _ _ => ?_) ?_)
    | with_reducible apply keeps_upd_gate)

theorem keeps_incrementEdge {a : State} {s : State} (hs : Keeps a s) :
    Keeps a (incrementEdge s) := by
  unfold incrementEdge
  try dsimp only
  repeat' (first
    | with_reducible assumption
    | with_reducible apply keeps_wr
    | with_reducible apply keeps_slewNote
    | with_reducible apply keeps_fsetB
    | with_reducible apply keeps_setLevel
    | with_reducible apply keeps_upd')

theorem keeps_incWaits {a : State} {s : State} (hs : Keeps a s) :
    Keeps a (incWaits s) := by
  unfold incWaits
  try dsimp only
  repeat' (first
    | with_reducible assumption
    | with_reducible apply keeps_upd')

theorem keeps_setFreqAdj {a : State} {v : Int} {s : State} (hs : Keeps a s) :
    Keeps a (setFreqAdj v s) := by
  unfold setFreqAdj
  try dsimp only
  repeat' (first
    | with_reducible assumption
    | with_reducible apply keeps_incWaits
    | with_reducible apply keeps_fsetI)

theorem keeps_showRemain {a : State} {s : State} (hs : Keeps a s) :
    Keeps a (showRemain s) := by
  unfold showRemain
  try dsimp only
  repeat' (first
    | with_reducible assumption
    | with_reducible apply keeps_wr)

theorem keeps_slewEnd {a : State} {was : Int} {s : State} (hs : Keeps a s) :
    Keeps a (slewEnd was s) := by
  unfold slewEnd
  try dsimp only
  repeat' (first
    | with_reducible assumption
    | with_reducible apply keeps_gateCarry
    | with_reducible apply keeps_slewNote
    | with_reducible apply keeps_occur
    | with_reducible apply keeps_incWaits
    | with_reducible apply keeps_fsetB
    | with_reducible apply keeps_showRemain
    | with_reducible apply keeps_upd')

theorem keeps_slewAdd {a : State} {amount : Int} {s : State} (hs : Keeps a s) :
    Keeps a (slewAdd amount s) := by
  unfold slewAdd
  try dsimp only
  repeat' (first
    | with_reducible assumption
    | with_reducible apply keeps_slewEnd
    | with_reducible apply keeps_incWaits
    | with_reducible apply keeps_showRemain
    | with_reducible refine keeps_ite ?_ ?_
    | with_reducible apply keeps_upd')

theorem keeps_slewCancel {a : State} {s : State} (hs : Keeps a s) :
    Keeps a (slewCancel s) := by
  unfold slewCancel
  try dsimp only
  repeat' (first
    | with_reducible assumption
    | with_reducible apply keeps_slewEnd
    | with_reducible refine keeps_ite ?_ ?_)

theorem keeps_tsuAdvance {a : State} {d : Int} {s : State} (hs : Keeps a s) :
    Keeps a (tsuAdvance d s) := by
  unfold tsuAdvance
  try dsimp only
  repeat' (first
    | with_reducible assumption
    | with_reducible apply keeps_upd')

theorem keeps_tsuTick {a : State} {s0 : State} (hs0 : Keeps a s0) :
    Keeps a (tsuTick s0) := by
  unfold tsuTick
  try dsimp only
  repeat' (first
    | with_reducible assumption
    | with_reducible apply keeps_tsuAdvance
    | with_reducible apply keeps_showRemain
    | with_reducible apply keeps_slewEnd
    | with_reducible refine keeps_ite ?_ ?_
    | with_reducible apply keeps_upd')

theorem keeps_tsuSlewDone {a : State} {s : State} (hs : Keeps a s) :
    Keeps a (tsuSlewDone s) := by
  unfold tsuSlewDone
  try dsimp only
  repeat' (first
    | with_reducible assumption
    | with_reducible apply keeps_tsuTick
    | with_reducible refine keeps_ite ?_ ?_)

theorem keeps_localLoad {a : State} {pt : Nat} {s : State} (hs : Keeps a s) :
    Keeps a (localLoad pt s) := by
  unfold localLoad
  try dsimp only
  repeat' (first
    | with_reducible assumption
    | with_reducible apply keeps_upd')

theorem keeps_localLoadAll {a : State} {s : State} (hs : Keeps a s) :
    Keeps a (localLoadAll s) := by
  unfold localLoadAll
  try dsimp only
  repeat' (first
    | with_reducible assumption
    | with_reducible apply keeps_upd')

theorem keeps_setBounds {a : State} {fs : Nat} {free : Nat} {rate : Nat} {s : State} (hs : Keeps a s) :
    Keeps a (setBounds fs free rate s) := by
  unfold setBounds
  try dsimp only
  repeat' (first
    | with_reducible assumption
    | with_reducible apply keeps_fset
    | with_reducible apply keeps_upd')

theorem keeps_setBound {a : State} {fs : Nat} {rate : Nat} {s : State} (hs : Keeps a s) :
    Keeps a (setBound fs rate s) := by
  unfold setBound
  try dsimp only
  repeat' (first
    | with_reducible assumption
    | with_reducible apply keeps_setBounds)

theorem keeps_boundGrow {a : State} {s : State} (hs : Keeps a s) :
    Keeps a (boundGrow s) := by
  unfold boundGrow
  try dsimp only
  repeat' (first
    | with_reducible assumption
    | with_reducible apply keeps_setBounds)

theorem keeps_boundNote {a : State} {s : State} (hs : Keeps a s) :
    Keeps a (boundNote s) := by
  unfold boundNote
  try dsimp only
  repeat' (first
    | with_reducible assumption
    | with_reducible refine keeps_ite ?_ ?_
    | with_reducible apply keeps_upd')

theorem keeps_tsuRefused {a : State} {a0 : Nat} {s : State} (hs : Keeps a s) :
    Keeps a (tsuRefused a0 s) := by
  unfold tsuRefused
  try dsimp only
  repeat' (first
    | with_reducible assumption
    | with_reducible apply keeps_occur
    | with_reducible apply keeps_fsetB
    | with_reducible refine keeps_ite ?_ ?_)

theorem keeps_setArm {a : State} {v : Nat} {bound : Nat} {refin : Bool} {pin : Nat} {s : State} (hs : Keeps a s) :
    Keeps a (setArm v bound refin pin s) := by
  unfold setArm
  try dsimp only
  repeat' (first
    | with_reducible assumption
    | with_reducible apply keeps_fsetB
    | with_reducible apply keeps_setBound
    | with_reducible apply keeps_upd')

theorem keeps_setDisarm {a : State} {s : State} (hs : Keeps a s) :
    Keeps a (setDisarm s) := by
  unfold setDisarm
  try dsimp only
  repeat' (first
    | with_reducible assumption
    | with_reducible apply keeps_fsetB
    | with_reducible apply keeps_upd')

theorem keeps_smearRefresh {a : State} {s : State} (hs : Keeps a s) :
    Keeps a (smearRefresh s) := by
  unfold smearRefresh
  try dsimp only
  repeat' (first
    | with_reducible assumption
    | with_reducible apply keeps_fsetB)

theorem keeps_journalState {a : State} {s : State} (hs : Keeps a s) :
    Keeps a (journalState s) := by
  unfold journalState
  try dsimp only
  repeat' (first
    | with_reducible assumption
    | with_reducible apply keeps_fset
    | with_reducible apply keeps_bump
    | with_reducible apply keeps_belaySend
    | with_reducible refine keeps_ite ?_ ?_
    | with_reducible apply keeps_upd')

theorem keeps_leapPendingSet {a : State} {p : Nat} {s : State} (hs : Keeps a s) :
    Keeps a (leapPendingSet p s) := by
  unfold leapPendingSet
  try dsimp only
  repeat' (first
    | with_reducible assumption
    | with_reducible apply keeps_fset
    | with_reducible apply keeps_journalState
    | with_reducible apply keeps_smearRefresh
    | with_reducible refine keeps_ite ?_ ?_
    | with_reducible apply keeps_upd')

theorem keeps_leapApply {a : State} {s : State} (hs : Keeps a s) :
    Keeps a (leapApply s) := by
  unfold leapApply
  try dsimp only
  repeat' (first
    | with_reducible assumption
    | with_reducible apply keeps_fsetI
    | with_reducible apply keeps_occur
    | with_reducible apply keeps_journalState
    | with_reducible apply keeps_smearRefresh
    | with_reducible apply keeps_fset
    | with_reducible refine keeps_ite ?_ ?_
    | with_reducible apply keeps_upd')

theorem keeps_tsuApply {a : State} {i : Initiator} {a0 : Nat} {v : Word} {s : State} (hs : Keeps a s) :
    OKeeps a (tsuApply i a0 v s) := by
  unfold tsuApply
  try dsimp only
  repeat' (first
    | with_reducible assumption
    | with_reducible apply keeps_incWaits
    | with_reducible apply keeps_fset
    | with_reducible apply keeps_slewAdd
    | with_reducible apply keeps_wrI
    | with_reducible apply keeps_setArm
    | with_reducible apply keeps_setDisarm
    | with_reducible apply keeps_leapPendingSet
    | with_reducible apply keeps_journalState
    | with_reducible apply keeps_smearRefresh
    | with_reducible apply keeps_wr
    | with_reducible refine keeps_ite ?_ ?_
    | with_reducible refine okeeps_ite ?_ ?_
    | with_reducible apply okeeps_some
    | with_reducible exact okeeps_none
    | with_reducible refine okeeps_map ?_ (fun _ _ => ?_)
    | with_reducible apply okeeps_orElse)

theorem keeps_tsuCapture {a : State} {i : Initiator} {s : State} (hs : Keeps a s) :
    Keeps a (tsuCapture i s) := by
  unfold tsuCapture
  try dsimp only
  repeat' (first
    | with_reducible assumption
    | with_reducible apply keeps_wrI)

end Sys2Proof.Laws
end

