-- ==== Sys2Proof/Laws/KeepsPorts.lean ====
section
/-!
SUPPORT. Laws/KeepsPorts.lean: the functions of Machine/Ports.lean keep what every command keeps (Keeps of Safety.lean).
-/
namespace Sys2Proof.Laws
open Sys2Proof Sys2Proof.Machine

set_option linter.unusedTactic false
set_option linter.unreachableTactic false
set_option linter.unusedVariables false

theorem keeps_portRefresh {a : State} {p : Nat} {s : State} (hs : Keeps a s) :
    Keeps a (portRefresh p s) := by
  unfold portRefresh
  try dsimp only
  repeat' (first
    | with_reducible assumption
    | with_reducible apply keeps_setLevel
    | with_reducible apply keeps_fsetB
    | with_reducible refine keeps_ite ?_ ?_)

theorem keeps_portsRefresh {a : State} {s : State} (hs : Keeps a s) :
    Keeps a (portsRefresh s) := by
  unfold portsRefresh
  try dsimp only
  repeat' (first
    | with_reducible assumption
    | (with_reducible refine keeps_forEach (fun _ _ _ => ?_) ?_)
    | with_reducible apply keeps_portRefresh)

theorem keeps_calStart {a : State} {tx : Bool} {rx : Bool} {l : Nat} {s : State} (hs : Keeps a s) :
    Keeps a (calStart tx rx l s) := by
  unfold calStart
  try dsimp only
  repeat' (first
    | with_reducible assumption
    | with_reducible apply keeps_portSet
    | with_reducible apply keeps_fsetB
    | with_reducible apply keeps_gateReplan
    | with_reducible apply keeps_portRefresh
    | with_reducible refine keeps_ite ?_ ?_
    | with_reducible apply keeps_upd')

theorem keeps_calPort {a : State} {p : Nat} {s : State} (hs : Keeps a s) :
    Keeps a (calPort p s) := by
  unfold calPort
  try dsimp only
  repeat' (first
    | with_reducible assumption
    | (with_reducible refine keeps_forEach (fun _ _ _ => ?_) ?_)
    | with_reducible apply keeps_calStart)

theorem keeps_portUp {a : State} {p : Nat} {s : State} (hs : Keeps a s) :
    Keeps a (portUp p s) := by
  unfold portUp
  try dsimp only
  repeat' (first
    | with_reducible assumption
    | with_reducible apply keeps_calPort
    | with_reducible apply keeps_localLoad
    | (with_reducible refine keeps_forEach (fun _ _ _ => ?_) ?_)
    | with_reducible apply keeps_portSet
    | with_reducible apply keeps_upd')

theorem keeps_calReject {a : State} {l : Nat} {tx : Bool} {s : State} (hs : Keeps a s) :
    Keeps a (calReject l tx s) := by
  unfold calReject
  try dsimp only
  repeat' (first
    | with_reducible assumption
    | with_reducible apply keeps_portSet
    | with_reducible refine keeps_ite ?_ ?_
    | with_reducible apply keeps_upd')

theorem keeps_calDone {a : State} {l : Nat} {tx : Bool} {lat : Nat} {tcw : Nat} {am : Nat} {s : State} (hs : Keeps a s) :
    Keeps a (calDone l tx lat tcw am s) := by
  unfold calDone
  try dsimp only
  repeat' (first
    | with_reducible assumption
    | with_reducible apply keeps_portSet
    | with_reducible apply keeps_fset
    | with_reducible apply keeps_gatePlan
    | with_reducible apply keeps_fsetB
    | with_reducible apply keeps_portRefresh
    | with_reducible apply keeps_occur
    | with_reducible refine keeps_ite ?_ ?_
    | with_reducible apply keeps_upd')

theorem keeps_calFail {a : State} {l : Nat} {tx : Bool} {s : State} (hs : Keeps a s) :
    Keeps a (calFail l tx s) := by
  unfold calFail
  try dsimp only
  repeat' (first
    | with_reducible assumption
    | with_reducible apply keeps_portSet
    | with_reducible apply keeps_occur
    | with_reducible apply keeps_fsetB
    | with_reducible apply keeps_portRefresh
    | with_reducible apply keeps_cairnFault
    | with_reducible refine keeps_ite ?_ ?_
    | with_reducible apply keeps_upd')

theorem keeps_portEnable {a : State} {p : Nat} {on : Bool} {s : State} (hs : Keeps a s) :
    Keeps a (portEnable p on s) := by
  unfold portEnable
  try dsimp only
  repeat' (first
    | with_reducible assumption
    | with_reducible apply keeps_portRefresh
    | with_reducible apply keeps_portUp
    | with_reducible apply keeps_freeFlush
    | (with_reducible refine keeps_forEach (fun _ _ _ => ?_) ?_)
    | with_reducible apply keeps_portSet
    | with_reducible refine keeps_ite ?_ ?_
    | with_reducible apply keeps_upd')

theorem keeps_lockLoss {a : State} {l : Nat} {s : State} (hs : Keeps a s) :
    Keeps a (lockLoss l s) := by
  unfold lockLoss
  try dsimp only
  repeat' (first
    | with_reducible assumption
    | with_reducible apply keeps_portSet
    | with_reducible apply keeps_fsetB
    | with_reducible apply keeps_portRefresh
    | with_reducible apply keeps_strikePort
    | with_reducible refine keeps_ite ?_ ?_
    | with_reducible apply keeps_upd')

theorem keeps_lanesDown {a : State} {p : Nat} {s : State} (hs : Keeps a s) :
    Keeps a (lanesDown p s) := by
  unfold lanesDown
  try dsimp only
  repeat' (first
    | with_reducible assumption
    | (with_reducible refine keeps_forEach (fun _ _ _ => ?_) ?_)
    | with_reducible apply keeps_lockLoss
    | with_reducible apply keeps_portSet
    | with_reducible apply keeps_portRefresh
    | with_reducible apply keeps_upd')

theorem keeps_inertLevels {a : State} {p : Nat} {s : State} (hs : Keeps a s) :
    Keeps a (inertLevels p s) := by
  unfold inertLevels
  try dsimp only
  repeat' (first
    | with_reducible assumption
    | (with_reducible refine keeps_forEach (fun _ _ _ => ?_) ?_)
    | with_reducible apply keeps_setLevel)

theorem keeps_groupDown {a : State} {p : Nat} {m : Nat} {s : State} (hs : Keeps a s) :
    Keeps a (groupDown p m s) := by
  unfold groupDown
  try dsimp only
  repeat' (first
    | with_reducible assumption
    | (with_reducible refine keeps_forEach (fun _ _ _ => ?_) ?_)
    | with_reducible apply keeps_lanesDown
    | with_reducible refine keeps_ite ?_ ?_
    | with_reducible refine keeps_ite_fun ?_ ?_
    | with_reducible apply keeps_id)

theorem keeps_portMode {a : State} {p : Nat} {v : Word} {s : State} (hs : Keeps a s) :
    Keeps a (portMode p v s) := by
  unfold portMode
  try dsimp only
  repeat' (first
    | with_reducible assumption
    | with_reducible apply keeps_fset
    | with_reducible apply keeps_inertLevels
    | with_reducible apply keeps_groupDown
    | with_reducible apply keeps_writeIgnored
    | with_reducible apply keeps_fsetB
    | with_reducible apply keeps_portEnable
    | with_reducible refine keeps_ite ?_ ?_)

theorem keeps_fecAlarm {a : State} {p : Nat} {s : State} (hs : Keeps a s) :
    Keeps a (fecAlarm p s) := by
  unfold fecAlarm
  try dsimp only
  repeat' (first
    | with_reducible assumption
    | with_reducible apply keeps_occur
    | with_reducible apply keeps_portSet
    | with_reducible refine keeps_ite ?_ ?_
    | with_reducible apply keeps_upd')

theorem keeps_portApply {a : State} {a0 : Nat} {v : Word} {s : State} (hs : Keeps a s) :
    OKeeps a (portApply a0 v s) := by
  unfold portApply
  try dsimp only
  repeat' (first
    | with_reducible assumption
    | with_reducible apply keeps_portMode
    | with_reducible apply keeps_portSet
    | with_reducible apply keeps_fset
    | with_reducible apply keeps_calStart
    | with_reducible apply keeps_fecAlarm
    | with_reducible refine keeps_ite ?_ ?_
    | with_reducible refine okeeps_ite ?_ ?_
    | with_reducible apply okeeps_some
    | with_reducible exact okeeps_none
    | with_reducible refine okeeps_map ?_ (fun _ _ => ?_)
    | with_reducible apply okeeps_orElse
    | with_reducible apply keeps_upd')

theorem keeps_adjTick {a : State} {s : State} (hs : Keeps a s) :
    Keeps a (adjTick s) := by
  unfold adjTick
  try dsimp only
  repeat' (first
    | with_reducible assumption
    | (with_reducible refine keeps_forEach (fun _ _ _ => ?_) ?_)
    | with_reducible apply keeps_portSet
    | split
    | with_reducible apply keeps_upd')

theorem keeps_rateExcursion {a : State} {p : Nat} {rate : Int} {s : State} (hs : Keeps a s) :
    Keeps a (rateExcursion p rate s) := by
  unfold rateExcursion
  try dsimp only
  repeat' (first
    | with_reducible assumption
    | with_reducible apply keeps_fsetI
    | with_reducible apply keeps_portRefresh
    | with_reducible apply keeps_fsetB
    | (with_reducible refine keeps_forEach (fun _ _ _ => ?_) ?_)
    | with_reducible apply keeps_portSet
    | with_reducible apply keeps_calStart
    | with_reducible refine keeps_ite ?_ ?_
    | with_reducible apply keeps_upd')

theorem keeps_frameStore {a : State} {a0 : Nat} {bs : List Byte} {s : State} (hs : Keeps a s) :
    Keeps a (frameStore a0 bs s) := by
  unfold frameStore
  try dsimp only
  repeat' (first
    | with_reducible assumption
    | with_reducible apply keeps_stBytes
    | with_reducible apply keeps_upd')

theorem keeps_queueSet {a : State} {k : Nat} {x : List (List Byte × Nat × Bool)} {s : State} (hs : Keeps a s) :
    Keeps a (queueSet k x s) := by
  unfold queueSet
  try dsimp only
  repeat' (first
    | with_reducible assumption
    | with_reducible apply keeps_upd_q)

theorem keeps_queueAdd {a : State} {k : Nat} {d : List Byte} {old : Bool} {s : State} (hs : Keeps a s) :
    Keeps a (queueAdd k d old s) := by
  unfold queueAdd
  try dsimp only
  repeat' (first
    | with_reducible assumption
    | with_reducible apply keeps_queueSet)

theorem keeps_queuePush {a : State} {k : Nat} {d : List Byte} {s : State} (hs : Keeps a s) :
    Keeps a (queuePush k d s) := by
  unfold queuePush
  try dsimp only
  repeat' (first
    | with_reducible assumption
    | with_reducible apply keeps_queueAdd)

theorem keeps_dispDrop {a : State} {p : Nat} {cls : Nat} {s : State} (hs : Keeps a s) :
    Keeps a (dispDrop p cls s) := by
  unfold dispDrop
  try dsimp only
  repeat' (first
    | with_reducible assumption
    | with_reducible apply keeps_raiseOnce
    | with_reducible apply keeps_bump)

theorem keeps_deliver {a : State} {p : Nat} {rxErr : Nat} {x : RxFrame} {bs : List Byte} {s : State} (hs : Keeps a s) :
    Keeps a (deliver p rxErr x bs s) := by
  unfold deliver
  try dsimp only
  repeat' (first
    | with_reducible assumption
    | with_reducible apply keeps_dispDrop
    | with_reducible apply keeps_queueAdd
    | with_reducible apply keeps_frameStore
    | with_reducible refine keeps_ite ?_ ?_
    | split
    | with_reducible apply keeps_upd')

theorem keeps_fecNote {a : State} {p : Nat} {sym : Nat} {ue : Nat} {s : State} (hs : Keeps a s) :
    Keeps a (fecNote p sym ue s) := by
  unfold fecNote
  try dsimp only
  repeat' (first
    | with_reducible assumption
    | with_reducible apply keeps_portSet
    | with_reducible apply keeps_fecAlarm
    | with_reducible apply keeps_bump
    | with_reducible apply keeps_occur
    | with_reducible refine keeps_ite ?_ ?_
    | with_reducible apply keeps_upd')

theorem keeps_judge {a : State} {p : Nat} {x : RxFrame} {s : State} (hs : Keeps a s) :
    Keeps a (judge p x s) := by
  unfold judge
  try dsimp only
  repeat' (first
    | with_reducible assumption
    | with_reducible apply keeps_raiseOnce
    | with_reducible apply keeps_bump
    | with_reducible apply keeps_deliver
    | with_reducible refine keeps_ite ?_ ?_
    | split
    | with_reducible apply keeps_upd')

theorem keeps_receive {a : State} {p : Nat} {x : RxFrame} {s : State} (hs : Keeps a s) :
    Keeps a (receive p x s) := by
  unfold receive
  try dsimp only
  repeat' (first
    | with_reducible assumption
    | with_reducible apply keeps_judge
    | with_reducible apply keeps_rateExcursion
    | with_reducible apply keeps_fecNote
    | with_reducible refine keeps_ite ?_ ?_)

theorem keeps_partialDrop {a : State} {p : Nat} {part : List Byte} {lane : Nat} {tw : Nat} {k : Nat} {addr : Nat} {s : State} (hs : Keeps a s) :
    Keeps a (partialDrop p part lane tw k addr s) := by
  unfold partialDrop
  try dsimp only
  repeat' (first
    | with_reducible assumption
    | with_reducible apply keeps_judge
    | with_reducible refine keeps_ite ?_ ?_)

theorem keeps_lockGain {a : State} {l : Nat} {fault : Bool} {s : State} (hs : Keeps a s) :
    Keeps a (lockGain l fault s) := by
  unfold lockGain
  try dsimp only
  repeat' (first
    | with_reducible assumption
    | with_reducible apply keeps_bump
    | with_reducible apply keeps_portSet
    | with_reducible apply keeps_fsetB
    | with_reducible apply keeps_calStart
    | with_reducible refine keeps_ite ?_ ?_
    | with_reducible apply keeps_upd')

theorem keeps_execFrameReceive {port : Nat} {bytes : List Byte} {code : Bool} {lane : Nat} {tw : Nat} {k : Nat} {rate : Int} {fecSym : Nat} {fecUe : Nat} {addr : Nat} {s : State}  :
    RKeeps s (execFrameReceive port bytes code lane tw k rate fecSym fecUe addr s) := by
  unfold execFrameReceive
  first
    | with_reducible refine rkeeps_run ?_
    | with_reducible refine rkeeps_runIf ?_
    | with_reducible refine rkeeps_next ?_
    | (unfold keRun; with_reducible refine rkeeps_runIf ?_)
  try dsimp only
  repeat' (first
    | with_reducible assumption
    | with_reducible exact Keeps_refl _
    | with_reducible apply keeps_receive)

theorem keeps_receptionStop {a : State} {port : Nat} {part : List Byte} {lane : Nat} {tw : Nat} {k : Nat} {addr : Nat} {s : State} (hs : Keeps a s) :
    Keeps a (receptionStop port part lane tw k addr s) := by
  unfold receptionStop
  try dsimp only
  repeat' (first
    | with_reducible assumption
    | with_reducible apply keeps_partialDrop
    | (with_reducible refine keeps_forEach (fun _ _ _ => ?_) ?_)
    | with_reducible apply keeps_portSet
    | with_reducible refine keeps_ite ?_ ?_
    | with_reducible apply keeps_upd')

theorem keeps_execReceptionStop {port : Nat} {part : PartFrame} {s : State}  :
    RKeeps s (execReceptionStop port part s) := by
  unfold execReceptionStop
  first
    | with_reducible refine rkeeps_run ?_
    | with_reducible refine rkeeps_runIf ?_
    | with_reducible refine rkeeps_next ?_
    | (unfold keRun; with_reducible refine rkeeps_runIf ?_)
  try dsimp only
  repeat' (first
    | with_reducible assumption
    | with_reducible exact Keeps_refl _
    | with_reducible apply keeps_receptionStop)

theorem keeps_execLanePowerDown {port : Nat} {s : State}  :
    RKeeps s (execLanePowerDown port s) := by
  unfold execLanePowerDown
  first
    | with_reducible refine rkeeps_run ?_
    | with_reducible refine rkeeps_runIf ?_
    | with_reducible refine rkeeps_next ?_
    | (unfold keRun; with_reducible refine rkeeps_runIf ?_)
  try dsimp only
  repeat' (first
    | with_reducible assumption
    | with_reducible exact Keeps_refl _
    | with_reducible apply keeps_lanesDown
    | with_reducible refine keeps_ite ?_ ?_)

theorem keeps_execRxRateExcursion {port : Nat} {rate : Int} {s : State}  :
    RKeeps s (execRxRateExcursion port rate s) := by
  unfold execRxRateExcursion
  first
    | with_reducible refine rkeeps_run ?_
    | with_reducible refine rkeeps_runIf ?_
    | with_reducible refine rkeeps_next ?_
    | (unfold keRun; with_reducible refine rkeeps_runIf ?_)
  try dsimp only
  repeat' (first
    | with_reducible assumption
    | with_reducible exact Keeps_refl _
    | with_reducible apply keeps_rateExcursion)

theorem keeps_execTxPllRelock {lane : Nat} {s : State}  :
    RKeeps s (execTxPllRelock lane s) := by
  unfold execTxPllRelock
  first
    | with_reducible refine rkeeps_run ?_
    | with_reducible refine rkeeps_runIf ?_
    | with_reducible refine rkeeps_next ?_
    | (unfold keRun; with_reducible refine rkeeps_runIf ?_)
  try dsimp only
  repeat' (first
    | with_reducible assumption
    | with_reducible exact Keeps_refl _
    | with_reducible apply keeps_calStart)

theorem keeps_execRxLockGain {lane : Nat} {fault : Bool} {s : State}  :
    RKeeps s (execRxLockGain lane fault s) := by
  unfold execRxLockGain
  first
    | with_reducible refine rkeeps_run ?_
    | with_reducible refine rkeeps_runIf ?_
    | with_reducible refine rkeeps_next ?_
    | (unfold keRun; with_reducible refine rkeeps_runIf ?_)
  try dsimp only
  repeat' (first
    | with_reducible assumption
    | with_reducible exact Keeps_refl _
    | with_reducible apply keeps_lockGain)

theorem keeps_execRxLockLoss {lane : Nat} {part : PartFrame} {s : State}  :
    RKeeps s (execRxLockLoss lane part s) := by
  unfold execRxLockLoss
  first
    | with_reducible refine rkeeps_run ?_
    | with_reducible refine rkeeps_runIf ?_
    | with_reducible refine rkeeps_next ?_
    | (unfold keRun; with_reducible refine rkeeps_runIf ?_)
  try dsimp only
  repeat' (first
    | with_reducible assumption
    | with_reducible exact Keeps_refl _
    | with_reducible apply keeps_lockLoss
    | with_reducible apply keeps_partialDrop
    | with_reducible refine keeps_ite ?_ ?_)

end Sys2Proof.Laws
end

