-- ==== Sys2Proof/Laws/KeepsPitch.lean ====
section
/-!
SUPPORT. Laws/KeepsPitch.lean: the functions of Machine/Pitch.lean keep what every command keeps (Keeps of Safety.lean).
-/
namespace Sys2Proof.Laws
open Sys2Proof Sys2Proof.Machine

set_option linter.unusedTactic false
set_option linter.unreachableTactic false
set_option linter.unusedVariables false

theorem keeps_waitHwm {a : State} {cls : Nat} {ns : Nat} {s : State} (hs : Keeps a s) :
    Keeps a (waitHwm cls ns s) := by
  unfold waitHwm
  try dsimp only
  repeat' (first
    | with_reducible assumption
    | with_reducible apply keeps_fmax)

theorem keeps_inject {a : State} {th : Nat} {port : Nat} {aux : Nat} {addr : Nat} {bs : List Byte} {s : State} (hs : Keeps a s) :
    Keeps a (inject th port aux addr bs s) := by
  unfold inject
  try dsimp only
  repeat' (first
    | with_reducible assumption
    | with_reducible apply keeps_queuePush
    | with_reducible apply keeps_frameStore
    | with_reducible refine keeps_ite ?_ ?_)

theorem keeps_injectFlush {a : State} {x0 : List (Nat × Nat × Nat × List Byte)} {x1 : State} (hx1 : Keeps a x1) :
    Keeps a (injectFlush x0 x1) := by
  induction x0 generalizing x1 with
  | nil =>
    unfold injectFlush
    try dsimp only
    repeat' (first
      | with_reducible assumption
      | fail
      | with_reducible apply keeps_inject
      | with_reducible refine keeps_ite ?_ ?_
      | split
      | with_reducible apply keeps_upd')
  | cons y ys ih =>
    unfold injectFlush
    try dsimp only
    repeat' (first
      | with_reducible assumption
      | with_reducible apply ih
      | with_reducible apply keeps_inject
      | with_reducible refine keeps_ite ?_ ?_
      | split
      | with_reducible apply keeps_upd')

theorem keeps_injectWaiting {a : State} {s : State} (hs : Keeps a s) :
    Keeps a (injectWaiting s) := by
  unfold injectWaiting
  try dsimp only
  repeat' (first
    | with_reducible assumption
    | with_reducible apply keeps_injectFlush
    | with_reducible refine keeps_ite ?_ ?_
    | with_reducible apply keeps_upd')

theorem keeps_fwInject {a : State} {th : Nat} {port : Nat} {aux : Nat} {bs : List Byte} {s : State} (hs : Keeps a s) :
    Keeps a (fwInject th port aux bs s) := by
  unfold fwInject
  try dsimp only
  repeat' (first
    | with_reducible assumption
    | with_reducible apply keeps_injectWaiting
    | with_reducible refine keeps_ite ?_ ?_
    | with_reducible apply keeps_upd')

theorem keeps_dispatchTo {a : State} {cls : Nat} {q : Nat} {ec : Nat} {s : State} (hs : Keeps a s) :
    Keeps a (dispatchTo cls q ec s) := by
  unfold dispatchTo
  try dsimp only
  repeat' (first
    | with_reducible assumption
    | with_reducible apply keeps_queueSet
    | with_reducible apply keeps_clrRange
    | with_reducible apply keeps_ctxSet
    | with_reducible apply keeps_waitHwm
    | with_reducible apply keeps_bump
    | with_reducible apply keeps_injectWaiting
    | with_reducible refine keeps_ite ?_ ?_
    | split
    | with_reducible apply keeps_upd')

theorem keeps_drainDown {a : State} {a0 : Nat} {f : Fld} {s : State} (hs : Keeps a s) :
    Keeps a (drainDown a0 f s) := by
  unfold drainDown
  try dsimp only
  repeat' (first
    | with_reducible assumption
    | with_reducible apply keeps_fset)

theorem keeps_endRun {a : State} {ec : Nat} {s : State} (hs : Keeps a s) :
    Keeps a (endRun ec s) := by
  unfold endRun
  try dsimp only
  repeat' (first
    | with_reducible assumption
    | with_reducible apply keeps_slotRelease
    | with_reducible apply keeps_fset
    | with_reducible apply keeps_drainDown
    | with_reducible apply keeps_ctxSet
    | with_reducible apply keeps_setLevel
    | with_reducible refine keeps_ite ?_ ?_
    | split
    | with_reducible apply keeps_upd')

theorem keeps_dropRun {a : State} {ec : Nat} {rsn : Nat} {hw : Bool} {s : State} (hs : Keeps a s) :
    Keeps a (dropRun ec rsn hw s) := by
  unfold dropRun
  try dsimp only
  repeat' (first
    | with_reducible assumption
    | with_reducible apply keeps_bump
    | with_reducible apply keeps_raiseOnce
    | with_reducible apply keeps_endRun
    | with_reducible apply keeps_frameFree
    | with_reducible refine keeps_ite ?_ ?_
    | split
    | with_reducible apply keeps_upd')

theorem keeps_badOp {a : State} {ec : Nat} {cause : Nat} {s : State} (hs : Keeps a s) :
    Keeps a (badOp ec cause s) := by
  unfold badOp
  try dsimp only
  repeat' (first
    | with_reducible assumption
    | with_reducible apply keeps_fset
    | with_reducible apply keeps_dropRun
    | with_reducible refine keeps_ite ?_ ?_)

theorem keeps_goTo {a : State} {ec : Nat} {nxt : Nat} {s : State} (hs : Keeps a s) :
    Keeps a (goTo ec nxt s) := by
  unfold goTo
  try dsimp only
  repeat' (first
    | with_reducible assumption
    | with_reducible apply keeps_dropRun
    | with_reducible apply keeps_ctxSet
    | with_reducible refine keeps_ite ?_ ?_
    | with_reducible apply keeps_upd')

theorem keeps_writeThrough {a : State} {c : Ctx} {s : State} (hs : Keeps a s) :
    Keeps a (writeThrough c s) := by
  unfold writeThrough
  try dsimp only
  repeat' (first
    | with_reducible assumption
    | with_reducible apply keeps_putMem
    | with_reducible refine keeps_foldl _ (fun _ _ _ => ?_) _ ?_
    | with_reducible refine keeps_foldl_pair _ (fun _ _ _ => ?_) _ ?_
    | with_reducible refine keeps_ite ?_ ?_
    | with_reducible refine keeps_ite_fun ?_ ?_
    | with_reducible apply keeps_id)

theorem keeps_issue {a : State} {op : Nat} {e : Nat} {c : Nat} {body : Nat → Nat → Ctx → State → POut} {s : State} (hbody : ∀ y0 y1 y2 b, Keeps a b → PKeeps a (body y0 y1 y2 b)) (hs : Keeps a s) :
    Keeps a (issue op e c body s) := by
  unfold issue
  try dsimp only
  repeat' (first
    | with_reducible assumption
    | with_reducible apply keeps_eccRead
    | with_reducible apply keeps_ctxSet
    | with_reducible apply keeps_dropRun
    | with_reducible apply keeps_badOp
    | with_reducible refine keeps_ite ?_ ?_
    | with_reducible apply hbody
    | split
    | with_reducible refine keeps_of_pok ?_ ‹_ = POut.ok _ _›
    | with_reducible refine keeps_of_pue ?_ ‹_ = POut.ue _›
    | with_reducible refine keeps_of_pall ?_ ‹_ = POut.all _›
    | with_reducible refine keeps_of_pair ?_ ‹_ = (_, _)›
    | with_reducible apply keeps_upd')

theorem keeps_successor {a : State} {e : Nat} {c : Nat} {s : State} (hs : Keeps a s) :
    Keeps a (successor e c s) := by
  unfold successor
  try dsimp only
  repeat' (first
    | with_reducible assumption
    | with_reducible apply keeps_goTo
    | with_reducible refine keeps_ite ?_ ?_)

theorem keeps_pNop {a : State} {u0 : Nat} {p : Nat} {c : Ctx} {s : State} (hs : Keeps a s) :
    PKeeps a (pNop u0 p c s) := by
  unfold pNop
  try dsimp only
  repeat' (first
    | with_reducible assumption
    | with_reducible refine keeps_foldl _ (fun _ _ _ => ?_) _ ?_
    | with_reducible refine keeps_foldl_pair _ (fun _ _ _ => ?_) _ ?_
    | with_reducible refine keeps_ite ?_ ?_
    | with_reducible refine pkeeps_ite ?_ ?_
    | with_reducible exact pkeeps_bad
    | with_reducible apply pkeeps_ok
    | with_reducible apply pkeeps_ue
    | with_reducible apply pkeeps_all
    | with_reducible apply keeps_upd')

theorem keeps_pImmOp {a : State} {u0 : Nat} {p : Nat} {c : Ctx} {s : State} (hs : Keeps a s) :
    PKeeps a (pImmOp u0 p c s) := by
  unfold pImmOp
  try dsimp only
  repeat' (first
    | with_reducible assumption
    | with_reducible exact pkeeps_bad
    | with_reducible apply pkeeps_ok
    | with_reducible apply pkeeps_ue
    | with_reducible apply pkeeps_all)

theorem keeps_pLoad {a : State} {ec : Nat} {p : Nat} {c : Ctx} {s : State} (hs : Keeps a s) :
    PKeeps a (pLoad ec p c s) := by
  unfold pLoad
  try dsimp only
  repeat' (first
    | with_reducible assumption
    | with_reducible apply keeps_refMeet
    | with_reducible refine keeps_ite ?_ ?_
    | with_reducible refine pkeeps_ite ?_ ?_
    | with_reducible exact pkeeps_bad
    | with_reducible apply pkeeps_ok
    | with_reducible apply pkeeps_ue
    | with_reducible apply pkeeps_all
    | split
    | with_reducible refine keeps_of_pair ?_ ‹_ = (_, _)›
    | with_reducible apply keeps_upd')

theorem keeps_pStore {a : State} {ec : Nat} {p : Nat} {c : Ctx} {s : State} (hs : Keeps a s) :
    PKeeps a (pStore ec p c s) := by
  unfold pStore
  try dsimp only
  repeat' (first
    | with_reducible assumption
    | with_reducible apply keeps_refMeet
    | with_reducible apply keeps_refWrite
    | with_reducible refine keeps_ite ?_ ?_
    | with_reducible refine pkeeps_ite ?_ ?_
    | with_reducible exact pkeeps_bad
    | with_reducible apply pkeeps_ok
    | with_reducible apply pkeeps_ue
    | with_reducible apply pkeeps_all
    | split
    | with_reducible refine keeps_of_pair ?_ ‹_ = (_, _)›
    | with_reducible apply keeps_upd')

theorem keeps_pCopy {a : State} {ec : Nat} {p : Nat} {c : Ctx} {s : State} (hs : Keeps a s) :
    PKeeps a (pCopy ec p c s) := by
  unfold pCopy
  try dsimp only
  repeat' (first
    | with_reducible assumption
    | with_reducible apply keeps_refMeet
    | with_reducible apply keeps_refWrite
    | with_reducible refine keeps_ite ?_ ?_
    | with_reducible refine pkeeps_ite ?_ ?_
    | with_reducible exact pkeeps_bad
    | with_reducible apply pkeeps_ok
    | with_reducible apply pkeeps_ue
    | with_reducible apply pkeeps_all
    | split
    | with_reducible refine keeps_of_pair ?_ ‹_ = (_, _)›
    | with_reducible apply keeps_upd')

theorem keeps_pSeta {a : State} {u0 : Nat} {p : Nat} {c : Ctx} {s : State} (hs : Keeps a s) :
    PKeeps a (pSeta u0 p c s) := by
  unfold pSeta
  try dsimp only
  repeat' (first
    | with_reducible assumption
    | with_reducible refine keeps_ite ?_ ?_
    | with_reducible refine pkeeps_ite ?_ ?_
    | with_reducible exact pkeeps_bad
    | with_reducible apply pkeeps_ok
    | with_reducible apply pkeeps_ue
    | with_reducible apply pkeeps_all
    | split
    | with_reducible apply keeps_upd')

theorem keeps_pAlu {a : State} {u0 : Nat} {p : Nat} {c : Ctx} {s : State} (hs : Keeps a s) :
    PKeeps a (pAlu u0 p c s) := by
  unfold pAlu
  try dsimp only
  repeat' (first
    | with_reducible assumption
    | with_reducible refine keeps_ite ?_ ?_
    | with_reducible refine pkeeps_ite ?_ ?_
    | with_reducible exact pkeeps_bad
    | with_reducible apply pkeeps_ok
    | with_reducible apply pkeeps_ue
    | with_reducible apply pkeeps_all
    | split
    | with_reducible apply keeps_upd')

theorem keeps_pTestb {a : State} {u0 : Nat} {p : Nat} {c : Ctx} {s : State} (hs : Keeps a s) :
    PKeeps a (pTestb u0 p c s) := by
  unfold pTestb
  try dsimp only
  repeat' (first
    | with_reducible assumption
    | with_reducible exact pkeeps_bad
    | with_reducible apply pkeeps_ok
    | with_reducible apply pkeeps_ue
    | with_reducible apply pkeeps_all)

theorem keeps_lookMeet {a : State} {n : Nat} {g : Nat} {key : Nat} {s : State} (hs : Keeps a s) :
    Keeps a (lookMeet n g key s).2 := by
  unfold lookMeet
  try dsimp only
  repeat' (first
    | with_reducible assumption
    | with_reducible apply keeps_touchMem
    | with_reducible apply keeps_putMem
    | with_reducible refine keeps_ite ?_ ?_
    | with_reducible refine keeps_ite_snd ?_ ?_
    | split
    | with_reducible refine keeps_of_pair ?_ ‹_ = (_, _)›
    | with_reducible apply keeps_upd')

theorem keeps_pLookup {a : State} {u0 : Nat} {p : Nat} {c : Ctx} {s : State} (hs : Keeps a s) :
    PKeeps a (pLookup u0 p c s) := by
  unfold pLookup
  try dsimp only
  repeat' (first
    | with_reducible assumption
    | with_reducible apply keeps_lookMeet
    | with_reducible refine keeps_ite ?_ ?_
    | with_reducible refine pkeeps_ite ?_ ?_
    | with_reducible exact pkeeps_bad
    | with_reducible apply pkeeps_ok
    | with_reducible apply pkeeps_ue
    | with_reducible apply pkeeps_all
    | split
    | with_reducible refine keeps_of_pair ?_ ‹_ = (_, _)›
    | with_reducible apply keeps_upd')

theorem keeps_sketchGet {a : State} {k : Nat} {s : State} (hs : Keeps a s) :
    Keeps a (sketchGet k s).2 := by
  unfold sketchGet
  try dsimp only
  repeat' (first
    | with_reducible assumption
    | with_reducible apply keeps_eccRead
    | with_reducible refine keeps_ite ?_ ?_
    | with_reducible refine keeps_ite_snd ?_ ?_)

theorem keeps_sketchSet {a : State} {k : Nat} {v : Nat} {s : State} (hs : Keeps a s) :
    Keeps a (sketchSet k v s) := by
  unfold sketchSet
  try dsimp only
  repeat' (first
    | with_reducible assumption
    | with_reducible apply keeps_eccWrite
    | with_reducible refine keeps_ite ?_ ?_
    | with_reducible apply keeps_upd_sketch
    | with_reducible apply keeps_upd')

theorem keeps_sketchAdd {a : State} {key : Nat} {add : Nat} {peek : Bool} {s : State} (hs : Keeps a s) :
    Keeps a (sketchAdd key add peek s).2 := by
  unfold sketchAdd
  try dsimp only
  repeat' (first
    | with_reducible assumption
    | with_reducible apply keeps_sketchGet
    | with_reducible apply keeps_sketchSet
    | with_reducible refine keeps_foldl _ (fun _ _ _ => ?_) _ ?_
    | with_reducible refine keeps_foldl_pair _ (fun _ _ _ => ?_) _ ?_
    | with_reducible refine keeps_ite ?_ ?_
    | with_reducible refine keeps_ite_snd ?_ ?_)

theorem keeps_pSketch {a : State} {u0 : Nat} {p : Nat} {c : Ctx} {s : State} (hs : Keeps a s) :
    PKeeps a (pSketch u0 p c s) := by
  unfold pSketch
  try dsimp only
  repeat' (first
    | with_reducible assumption
    | with_reducible apply keeps_sketchAdd
    | with_reducible refine keeps_ite ?_ ?_
    | with_reducible refine pkeeps_ite ?_ ?_
    | with_reducible exact pkeeps_bad
    | with_reducible apply pkeeps_ok
    | with_reducible apply pkeeps_ue
    | with_reducible apply pkeeps_all
    | split
    | with_reducible refine keeps_of_pair ?_ ‹_ = (_, _)›
    | with_reducible apply keeps_upd')

theorem keeps_tcEvent {a : State} {tc : Nat} {s : State} (hs : Keeps a s) :
    Keeps a (tcEvent tc s) := by
  unfold tcEvent
  try dsimp only
  repeat' (first
    | with_reducible assumption
    | with_reducible apply keeps_raiseOnce
    | with_reducible refine keeps_ite ?_ ?_)

theorem keeps_pCount {a : State} {u0 : Nat} {p : Nat} {c : Ctx} {s : State} (hs : Keeps a s) :
    PKeeps a (pCount u0 p c s) := by
  unfold pCount
  try dsimp only
  repeat' (first
    | with_reducible assumption
    | with_reducible apply keeps_bump
    | with_reducible apply keeps_tcEvent
    | with_reducible refine keeps_ite ?_ ?_
    | with_reducible refine pkeeps_ite ?_ ?_
    | with_reducible exact pkeeps_bad
    | with_reducible apply pkeeps_ok
    | with_reducible apply pkeeps_ue
    | with_reducible apply pkeeps_all)

theorem keeps_pStamp {a : State} {ec : Nat} {p : Nat} {c : Ctx} {s : State} (hs : Keeps a s) :
    PKeeps a (pStamp ec p c s) := by
  unfold pStamp
  try dsimp only
  repeat' (first
    | with_reducible assumption
    | with_reducible apply keeps_refMeet
    | with_reducible apply keeps_refWrite
    | with_reducible refine keeps_ite ?_ ?_
    | with_reducible refine pkeeps_ite ?_ ?_
    | with_reducible exact pkeeps_bad
    | with_reducible apply pkeeps_ok
    | with_reducible apply pkeeps_ue
    | with_reducible apply pkeeps_all
    | with_reducible apply keeps_getD
    | split
    | with_reducible refine keeps_of_pair ?_ ‹_ = (_, _)›
    | with_reducible apply keeps_upd')

theorem keeps_dropSlot {a : State} {ec : Nat} {x : Ctx × State} (hx : Keeps a x.2) :
    Keeps a (dropSlot ec x).2 := by
  unfold dropSlot
  try dsimp only
  repeat' (first
    | with_reducible assumption
    | with_reducible apply keeps_slotRelease
    | split
    | with_reducible apply keeps_upd')

theorem keeps_pSlot {a : State} {ec : Nat} {p : Nat} {c : Ctx} {s : State} (hs : Keeps a s) :
    PKeeps a (pSlot ec p c s) := by
  unfold pSlot
  try dsimp only
  repeat' (first
    | with_reducible assumption
    | with_reducible apply keeps_dropSlot
    | with_reducible apply keeps_slotRequest
    | with_reducible refine keeps_ite ?_ ?_
    | with_reducible refine pkeeps_ite ?_ ?_
    | with_reducible exact pkeeps_bad
    | with_reducible apply pkeeps_ok
    | with_reducible apply pkeeps_ue
    | with_reducible apply pkeeps_all
    | split
    | with_reducible refine keeps_of_pair ?_ ‹_ = (_, _)›
    | with_reducible apply keeps_upd')

theorem keeps_pQuality {a : State} {ec : Nat} {p : Nat} {c : Ctx} {s : State} (hs : Keeps a s) :
    PKeeps a (pQuality ec p c s) := by
  unfold pQuality
  try dsimp only
  repeat' (first
    | with_reducible assumption
    | with_reducible apply keeps_refMeet
    | with_reducible apply keeps_refWrite
    | with_reducible refine keeps_ite ?_ ?_
    | with_reducible refine pkeeps_ite ?_ ?_
    | with_reducible exact pkeeps_bad
    | with_reducible apply pkeeps_ok
    | with_reducible apply pkeeps_ue
    | with_reducible apply pkeeps_all
    | split
    | with_reducible refine keeps_of_pair ?_ ‹_ = (_, _)›
    | with_reducible apply keeps_upd')

theorem keeps_keysShow {a : State} {s : State} (hs : Keeps a s) :
    Keeps a (keysShow s) := by
  unfold keysShow
  try dsimp only
  repeat' (first
    | with_reducible assumption
    | with_reducible apply keeps_wr
    | with_reducible refine keeps_ite ?_ ?_
    | split
    | with_reducible apply keeps_upd')

theorem keeps_keySet {a : State} {n : Nat} {k : KeySlot} {s : State} (hs : Keeps a s) :
    Keeps a (keySet n k s) := by
  unfold keySet
  try dsimp only
  repeat' (first
    | with_reducible assumption
    | with_reducible apply keeps_keysShow
    | with_reducible apply keeps_wr
    | with_reducible apply keeps_keyPut
    | with_reducible refine keeps_ite ?_ ?_
    | with_reducible apply keeps_upd_keys
    | with_reducible apply keeps_upd')

theorem keeps_keyUse {a : State} {n : Nat} {s : State} (hs : Keeps a s) :
    Keeps a (keyUse n s).2 := by
  unfold keyUse
  try dsimp only
  repeat' (first
    | with_reducible assumption
    | with_reducible apply keeps_keyMeet
    | with_reducible apply keeps_keySet
    | with_reducible apply keeps_keyGone
    | with_reducible refine keeps_ite ?_ ?_
    | with_reducible refine keeps_ite_snd ?_ ?_)

theorem keeps_pSeal {a : State} {ec : Nat} {p : Nat} {c : Ctx} {s : State} (hs : Keeps a s) :
    PKeeps a (pSeal ec p c s) := by
  unfold pSeal
  try dsimp only
  repeat' (first
    | with_reducible assumption
    | with_reducible apply keeps_keyUse
    | with_reducible apply keeps_refMeet
    | with_reducible apply keeps_refWrite
    | with_reducible refine keeps_ite ?_ ?_
    | with_reducible refine pkeeps_ite ?_ ?_
    | with_reducible refine keeps_ite_fun ?_ ?_
    | with_reducible apply keeps_id
    | with_reducible exact pkeeps_bad
    | with_reducible apply pkeeps_ok
    | with_reducible apply pkeeps_ue
    | with_reducible apply pkeeps_all
    | with_reducible apply keeps_getD
    | split
    | with_reducible refine keeps_of_pair ?_ ‹_ = (_, _)›
    | with_reducible apply keeps_upd')

theorem keeps_pCsum {a : State} {ec : Nat} {p : Nat} {c : Ctx} {s : State} (hs : Keeps a s) :
    PKeeps a (pCsum ec p c s) := by
  unfold pCsum
  try dsimp only
  repeat' (first
    | with_reducible assumption
    | with_reducible apply keeps_refMeet
    | with_reducible apply keeps_refWrite
    | with_reducible refine keeps_ite ?_ ?_
    | with_reducible refine pkeeps_ite ?_ ?_
    | with_reducible exact pkeeps_bad
    | with_reducible apply pkeeps_ok
    | with_reducible apply pkeeps_ue
    | with_reducible apply pkeeps_all
    | split
    | with_reducible refine keeps_of_pair ?_ ‹_ = (_, _)›
    | with_reducible apply keeps_upd')

theorem keeps_ptpCount {a : State} {c : Ctx} {s : State} (hs : Keeps a s) :
    Keeps a (ptpCount c s) := by
  unfold ptpCount
  try dsimp only
  repeat' (first
    | with_reducible assumption
    | with_reducible apply keeps_bump
    | with_reducible refine keeps_ite ?_ ?_)

theorem keeps_emitRun {a : State} {ec : Nat} {port : Nat} {free : Bool} {bytes : List Byte} {corr : Option (Nat × Option Nat)} {c : Ctx} {s : State} (hs : Keeps a s) :
    Keeps a (emitRun ec port free bytes corr c s) := by
  unfold emitRun
  try dsimp only
  repeat' (first
    | with_reducible assumption
    | with_reducible apply keeps_ptpCount
    | with_reducible apply keeps_frameFree
    | with_reducible apply keeps_dropSlot
    | with_reducible apply keeps_endRun
    | with_reducible apply keeps_gateFree
    | with_reducible apply keeps_ctxSet
    | with_reducible apply keeps_gateEmit
    | with_reducible refine keeps_ite ?_ ?_
    | split
    | with_reducible refine keeps_of_pair ?_ ‹_ = (_, _)›
    | with_reducible apply keeps_upd')

theorem keeps_relayRun {a : State} {ec : Nat} {port : Nat} {bytes : List Byte} {corr : Option (Nat × Option Nat)} {c : Ctx} {s : State} (hs : Keeps a s) :
    Keeps a (relayRun ec port bytes corr c s) := by
  unfold relayRun
  try dsimp only
  repeat' (first
    | with_reducible assumption
    | with_reducible apply keeps_dropSlot
    | with_reducible apply keeps_writeThrough
    | with_reducible apply keeps_endRun
    | with_reducible apply keeps_gateFree
    | with_reducible apply keeps_ctxSet)

theorem keeps_pEmit {a : State} {ec : Nat} {p : Nat} {c : Ctx} {s : State} (hs : Keeps a s) :
    PKeeps a (pEmit ec p c s) := by
  unfold pEmit
  try dsimp only
  repeat' (first
    | with_reducible assumption
    | with_reducible apply keeps_touchMem
    | with_reducible apply keeps_emitRun
    | with_reducible refine keeps_ite ?_ ?_
    | with_reducible refine pkeeps_ite ?_ ?_
    | with_reducible exact pkeeps_bad
    | with_reducible apply pkeeps_ok
    | with_reducible apply pkeeps_ue
    | with_reducible apply pkeeps_all
    | split
    | with_reducible refine keeps_of_pair ?_ ‹_ = (_, _)›
    | with_reducible apply keeps_upd')

theorem keeps_pRelay {a : State} {ec : Nat} {p : Nat} {c : Ctx} {s : State} (hs : Keeps a s) :
    PKeeps a (pRelay ec p c s) := by
  unfold pRelay
  try dsimp only
  repeat' (first
    | with_reducible assumption
    | with_reducible apply keeps_touchMem
    | with_reducible apply keeps_relayRun
    | with_reducible refine keeps_ite ?_ ?_
    | with_reducible refine pkeeps_ite ?_ ?_
    | with_reducible exact pkeeps_bad
    | with_reducible apply pkeeps_ok
    | with_reducible apply pkeeps_ue
    | with_reducible apply pkeeps_all
    | split
    | with_reducible refine keeps_of_pair ?_ ‹_ = (_, _)›
    | with_reducible apply keeps_upd')

theorem keeps_puntsSet {a : State} {r : Nat} {x : List Punt} {s : State} (hs : Keeps a s) :
    Keeps a (puntsSet r x s) := by
  unfold puntsSet
  try dsimp only
  repeat' (first
    | with_reducible assumption
    | with_reducible apply keeps_upd')

theorem keeps_puntRun {a : State} {ec : Nat} {ring : Nat} {tag : Nat} {build : List Byte} {c : Ctx} {s : State} (hs : Keeps a s) :
    Keeps a (puntRun ec ring tag build c s) := by
  unfold puntRun
  try dsimp only
  repeat' (first
    | with_reducible assumption
    | with_reducible apply keeps_puntsSet
    | with_reducible apply keeps_writeThrough
    | with_reducible apply keeps_endRun
    | with_reducible apply keeps_bump
    | with_reducible refine keeps_ite ?_ ?_)

theorem keeps_pPunt {a : State} {ec : Nat} {p : Nat} {c : Ctx} {s : State} (hs : Keeps a s) :
    PKeeps a (pPunt ec p c s) := by
  unfold pPunt
  try dsimp only
  repeat' (first
    | with_reducible assumption
    | with_reducible apply keeps_dropRun
    | with_reducible apply keeps_touchMem
    | with_reducible apply keeps_puntRun
    | with_reducible refine keeps_ite ?_ ?_
    | with_reducible refine pkeeps_ite ?_ ?_
    | with_reducible exact pkeeps_bad
    | with_reducible apply pkeeps_ok
    | with_reducible apply pkeeps_ue
    | with_reducible apply pkeeps_all)

theorem keeps_topoDrop {a : State} {ec : Nat} {rsn : Nat} {s : State} (hs : Keeps a s) :
    Keeps a (topoDrop ec rsn s) := by
  unfold topoDrop
  try dsimp only
  repeat' (first
    | with_reducible assumption
    | with_reducible apply keeps_dropRun
    | with_reducible apply keeps_raiseOnce
    | with_reducible refine keeps_ite ?_ ?_)

theorem keeps_pDrop {a : State} {ec : Nat} {p : Nat} {u0 : Ctx} {s : State} (hs : Keeps a s) :
    PKeeps a (pDrop ec p u0 s) := by
  unfold pDrop
  try dsimp only
  repeat' (first
    | with_reducible assumption
    | with_reducible apply keeps_topoDrop
    | with_reducible exact pkeeps_bad
    | with_reducible apply pkeeps_ok
    | with_reducible apply pkeeps_ue
    | with_reducible apply pkeeps_all)

theorem keeps_pCall {a : State} {ec : Nat} {p : Nat} {c : Ctx} {s : State} (hs : Keeps a s) :
    PKeeps a (pCall ec p c s) := by
  unfold pCall
  try dsimp only
  repeat' (first
    | with_reducible assumption
    | with_reducible apply keeps_dropRun
    | with_reducible apply keeps_goTo
    | with_reducible apply keeps_ctxSet
    | with_reducible refine keeps_ite ?_ ?_
    | with_reducible refine pkeeps_ite ?_ ?_
    | with_reducible exact pkeeps_bad
    | with_reducible apply pkeeps_ok
    | with_reducible apply pkeeps_ue
    | with_reducible apply pkeeps_all
    | with_reducible apply keeps_upd')

theorem keeps_pRet {a : State} {ec : Nat} {u0 : Nat} {c : Ctx} {s : State} (hs : Keeps a s) :
    PKeeps a (pRet ec u0 c s) := by
  unfold pRet
  try dsimp only
  repeat' (first
    | with_reducible assumption
    | with_reducible apply keeps_dropRun
    | with_reducible apply keeps_goTo
    | with_reducible apply keeps_ctxSet
    | with_reducible exact pkeeps_bad
    | with_reducible apply pkeeps_ok
    | with_reducible apply pkeeps_ue
    | with_reducible apply pkeeps_all
    | split
    | with_reducible apply keeps_upd')

theorem keeps_pTrap {a : State} {ec : Nat} {p : Nat} {c : Ctx} {s : State} (hs : Keeps a s) :
    PKeeps a (pTrap ec p c s) := by
  unfold pTrap
  try dsimp only
  repeat' (first
    | with_reducible assumption
    | with_reducible apply keeps_cairnAgg
    | with_reducible apply keeps_raiseOnce
    | with_reducible apply keeps_setLevel
    | with_reducible apply keeps_ctxSet
    | with_reducible apply keeps_dropRun
    | with_reducible refine keeps_ite ?_ ?_
    | with_reducible refine pkeeps_ite ?_ ?_
    | with_reducible exact pkeeps_bad
    | with_reducible apply pkeeps_ok
    | with_reducible apply pkeeps_ue
    | with_reducible apply pkeeps_all
    | with_reducible apply keeps_upd')

theorem keeps_snapResume {a : State} {s : State} (hs : Keeps a s) :
    Keeps a (snapResume s) := by
  unfold snapResume
  try dsimp only
  repeat' (first
    | with_reducible assumption
    | with_reducible apply keeps_dropRun
    | with_reducible refine keeps_ite ?_ ?_)

theorem keeps_snapTake {a : State} {ec : Nat} {s : State} (hs : Keeps a s) :
    Keeps a (snapTake ec s) := by
  unfold snapTake
  try dsimp only
  repeat' (first
    | with_reducible assumption
    | with_reducible apply keeps_wr
    | (with_reducible refine keeps_forEach (fun _ _ _ => ?_) ?_)
    | with_reducible apply keeps_fsetB
    | with_reducible refine keeps_ite ?_ ?_
    | with_reducible apply keeps_upd')

theorem keeps_snapGo {a : State} {s : State} (hs : Keeps a s) :
    Keeps a (snapGo s) := by
  unfold snapGo
  try dsimp only
  repeat' (first
    | with_reducible assumption
    | with_reducible apply keeps_fsetB
    | with_reducible apply keeps_snapTake
    | with_reducible refine keeps_ite ?_ ?_
    | with_reducible apply keeps_upd')

theorem keeps_peApply {a : State} {a0 : Nat} {v : Word} {s : State} (hs : Keeps a s) :
    OKeeps a (peApply a0 v s) := by
  unfold peApply
  try dsimp only
  repeat' (first
    | with_reducible assumption
    | with_reducible apply keeps_snapGo
    | with_reducible apply keeps_snapResume
    | with_reducible apply keeps_wr
    | with_reducible refine keeps_ite ?_ ?_
    | with_reducible refine okeeps_ite ?_ ?_
    | with_reducible apply okeeps_some
    | with_reducible exact okeeps_none
    | with_reducible refine okeeps_map ?_ (fun _ _ => ?_)
    | with_reducible apply okeeps_orElse)

theorem keeps_execInjection {port : Nat} {tag : Word} {addr : Nat} {bytes : List Byte} {s : State}  :
    RKeeps s (execInjection port tag addr bytes s) := by
  unfold execInjection
  first
    | with_reducible refine rkeeps_run ?_
    | with_reducible refine rkeeps_runIf ?_
    | with_reducible refine rkeeps_next ?_
    | (unfold keRun; with_reducible refine rkeeps_runIf ?_)
  try dsimp only
  repeat' (first
    | with_reducible assumption
    | with_reducible exact Keeps_refl _
    | with_reducible apply keeps_inject)

theorem keeps_execNop {e : Nat} {c : Nat} {s : State}  :
    RKeeps s (execNop e c s) := by
  unfold execNop
  first
    | with_reducible refine rkeeps_run ?_
    | with_reducible refine rkeeps_runIf ?_
    | with_reducible refine rkeeps_next ?_
    | (unfold keRun; with_reducible refine rkeeps_runIf ?_)
  try dsimp only
  repeat' (first
    | with_reducible assumption
    | with_reducible exact Keeps_refl _
    | with_reducible apply keeps_issue
    | with_reducible apply keeps_pNop
    | intro _)

theorem keeps_execImm {e : Nat} {c : Nat} {s : State}  :
    RKeeps s (execImm e c s) := by
  unfold execImm
  first
    | with_reducible refine rkeeps_run ?_
    | with_reducible refine rkeeps_runIf ?_
    | with_reducible refine rkeeps_next ?_
    | (unfold keRun; with_reducible refine rkeeps_runIf ?_)
  try dsimp only
  repeat' (first
    | with_reducible assumption
    | with_reducible exact Keeps_refl _
    | with_reducible apply keeps_issue
    | with_reducible apply keeps_pImmOp
    | intro _)

theorem keeps_execLoad {e : Nat} {c : Nat} {s : State}  :
    RKeeps s (execLoad e c s) := by
  unfold execLoad
  first
    | with_reducible refine rkeeps_run ?_
    | with_reducible refine rkeeps_runIf ?_
    | with_reducible refine rkeeps_next ?_
    | (unfold keRun; with_reducible refine rkeeps_runIf ?_)
  try dsimp only
  repeat' (first
    | with_reducible assumption
    | with_reducible exact Keeps_refl _
    | with_reducible apply keeps_issue
    | with_reducible apply keeps_pLoad
    | intro _)

theorem keeps_execStore {e : Nat} {c : Nat} {s : State}  :
    RKeeps s (execStore e c s) := by
  unfold execStore
  first
    | with_reducible refine rkeeps_run ?_
    | with_reducible refine rkeeps_runIf ?_
    | with_reducible refine rkeeps_next ?_
    | (unfold keRun; with_reducible refine rkeeps_runIf ?_)
  try dsimp only
  repeat' (first
    | with_reducible assumption
    | with_reducible exact Keeps_refl _
    | with_reducible apply keeps_issue
    | with_reducible apply keeps_pStore
    | intro _)

theorem keeps_execCopy {e : Nat} {c : Nat} {s : State}  :
    RKeeps s (execCopy e c s) := by
  unfold execCopy
  first
    | with_reducible refine rkeeps_run ?_
    | with_reducible refine rkeeps_runIf ?_
    | with_reducible refine rkeeps_next ?_
    | (unfold keRun; with_reducible refine rkeeps_runIf ?_)
  try dsimp only
  repeat' (first
    | with_reducible assumption
    | with_reducible exact Keeps_refl _
    | with_reducible apply keeps_issue
    | with_reducible apply keeps_pCopy
    | intro _)

theorem keeps_execSeta {e : Nat} {c : Nat} {s : State}  :
    RKeeps s (execSeta e c s) := by
  unfold execSeta
  first
    | with_reducible refine rkeeps_run ?_
    | with_reducible refine rkeeps_runIf ?_
    | with_reducible refine rkeeps_next ?_
    | (unfold keRun; with_reducible refine rkeeps_runIf ?_)
  try dsimp only
  repeat' (first
    | with_reducible assumption
    | with_reducible exact Keeps_refl _
    | with_reducible apply keeps_issue
    | with_reducible apply keeps_pSeta
    | intro _)

theorem keeps_execAlu {e : Nat} {c : Nat} {s : State}  :
    RKeeps s (execAlu e c s) := by
  unfold execAlu
  first
    | with_reducible refine rkeeps_run ?_
    | with_reducible refine rkeeps_runIf ?_
    | with_reducible refine rkeeps_next ?_
    | (unfold keRun; with_reducible refine rkeeps_runIf ?_)
  try dsimp only
  repeat' (first
    | with_reducible assumption
    | with_reducible exact Keeps_refl _
    | with_reducible apply keeps_issue
    | with_reducible apply keeps_pAlu
    | intro _)

theorem keeps_execTestb {e : Nat} {c : Nat} {s : State}  :
    RKeeps s (execTestb e c s) := by
  unfold execTestb
  first
    | with_reducible refine rkeeps_run ?_
    | with_reducible refine rkeeps_runIf ?_
    | with_reducible refine rkeeps_next ?_
    | (unfold keRun; with_reducible refine rkeeps_runIf ?_)
  try dsimp only
  repeat' (first
    | with_reducible assumption
    | with_reducible exact Keeps_refl _
    | with_reducible apply keeps_issue
    | with_reducible apply keeps_pTestb
    | intro _)

theorem keeps_execLookup {e : Nat} {c : Nat} {s : State}  :
    RKeeps s (execLookup e c s) := by
  unfold execLookup
  first
    | with_reducible refine rkeeps_run ?_
    | with_reducible refine rkeeps_runIf ?_
    | with_reducible refine rkeeps_next ?_
    | (unfold keRun; with_reducible refine rkeeps_runIf ?_)
  try dsimp only
  repeat' (first
    | with_reducible assumption
    | with_reducible exact Keeps_refl _
    | with_reducible apply keeps_issue
    | with_reducible apply keeps_pLookup
    | intro _)

theorem keeps_execSketch {e : Nat} {c : Nat} {s : State}  :
    RKeeps s (execSketch e c s) := by
  unfold execSketch
  first
    | with_reducible refine rkeeps_run ?_
    | with_reducible refine rkeeps_runIf ?_
    | with_reducible refine rkeeps_next ?_
    | (unfold keRun; with_reducible refine rkeeps_runIf ?_)
  try dsimp only
  repeat' (first
    | with_reducible assumption
    | with_reducible exact Keeps_refl _
    | with_reducible apply keeps_issue
    | with_reducible apply keeps_pSketch
    | intro _)

theorem keeps_execCount {e : Nat} {c : Nat} {s : State}  :
    RKeeps s (execCount e c s) := by
  unfold execCount
  first
    | with_reducible refine rkeeps_run ?_
    | with_reducible refine rkeeps_runIf ?_
    | with_reducible refine rkeeps_next ?_
    | (unfold keRun; with_reducible refine rkeeps_runIf ?_)
  try dsimp only
  repeat' (first
    | with_reducible assumption
    | with_reducible exact Keeps_refl _
    | with_reducible apply keeps_issue
    | with_reducible apply keeps_pCount
    | intro _)

theorem keeps_execStamp {e : Nat} {c : Nat} {s : State}  :
    RKeeps s (execStamp e c s) := by
  unfold execStamp
  first
    | with_reducible refine rkeeps_run ?_
    | with_reducible refine rkeeps_runIf ?_
    | with_reducible refine rkeeps_next ?_
    | (unfold keRun; with_reducible refine rkeeps_runIf ?_)
  try dsimp only
  repeat' (first
    | with_reducible assumption
    | with_reducible exact Keeps_refl _
    | with_reducible apply keeps_issue
    | with_reducible apply keeps_pStamp
    | intro _)

theorem keeps_execSlot {e : Nat} {c : Nat} {s : State}  :
    RKeeps s (execSlot e c s) := by
  unfold execSlot
  first
    | with_reducible refine rkeeps_run ?_
    | with_reducible refine rkeeps_runIf ?_
    | with_reducible refine rkeeps_next ?_
    | (unfold keRun; with_reducible refine rkeeps_runIf ?_)
  try dsimp only
  repeat' (first
    | with_reducible assumption
    | with_reducible exact Keeps_refl _
    | with_reducible apply keeps_issue
    | with_reducible apply keeps_pSlot
    | intro _)

theorem keeps_execQuality {e : Nat} {c : Nat} {s : State}  :
    RKeeps s (execQuality e c s) := by
  unfold execQuality
  first
    | with_reducible refine rkeeps_run ?_
    | with_reducible refine rkeeps_runIf ?_
    | with_reducible refine rkeeps_next ?_
    | (unfold keRun; with_reducible refine rkeeps_runIf ?_)
  try dsimp only
  repeat' (first
    | with_reducible assumption
    | with_reducible exact Keeps_refl _
    | with_reducible apply keeps_issue
    | with_reducible apply keeps_pQuality
    | intro _)

theorem keeps_execSeal {e : Nat} {c : Nat} {s : State}  :
    RKeeps s (execSeal e c s) := by
  unfold execSeal
  first
    | with_reducible refine rkeeps_run ?_
    | with_reducible refine rkeeps_runIf ?_
    | with_reducible refine rkeeps_next ?_
    | (unfold keRun; with_reducible refine rkeeps_runIf ?_)
  try dsimp only
  repeat' (first
    | with_reducible assumption
    | with_reducible exact Keeps_refl _
    | with_reducible apply keeps_issue
    | with_reducible apply keeps_pSeal
    | intro _)

theorem keeps_execCsum {e : Nat} {c : Nat} {s : State}  :
    RKeeps s (execCsum e c s) := by
  unfold execCsum
  first
    | with_reducible refine rkeeps_run ?_
    | with_reducible refine rkeeps_runIf ?_
    | with_reducible refine rkeeps_next ?_
    | (unfold keRun; with_reducible refine rkeeps_runIf ?_)
  try dsimp only
  repeat' (first
    | with_reducible assumption
    | with_reducible exact Keeps_refl _
    | with_reducible apply keeps_issue
    | with_reducible apply keeps_pCsum
    | intro _)

theorem keeps_execEmit {e : Nat} {c : Nat} {s : State}  :
    RKeeps s (execEmit e c s) := by
  unfold execEmit
  first
    | with_reducible refine rkeeps_run ?_
    | with_reducible refine rkeeps_runIf ?_
    | with_reducible refine rkeeps_next ?_
    | (unfold keRun; with_reducible refine rkeeps_runIf ?_)
  try dsimp only
  repeat' (first
    | with_reducible assumption
    | with_reducible exact Keeps_refl _
    | with_reducible apply keeps_issue
    | with_reducible apply keeps_pEmit
    | intro _)

theorem keeps_execRelay {e : Nat} {c : Nat} {s : State}  :
    RKeeps s (execRelay e c s) := by
  unfold execRelay
  first
    | with_reducible refine rkeeps_run ?_
    | with_reducible refine rkeeps_runIf ?_
    | with_reducible refine rkeeps_next ?_
    | (unfold keRun; with_reducible refine rkeeps_runIf ?_)
  try dsimp only
  repeat' (first
    | with_reducible assumption
    | with_reducible exact Keeps_refl _
    | with_reducible apply keeps_issue
    | with_reducible apply keeps_pRelay
    | intro _)

theorem keeps_execPunt {e : Nat} {c : Nat} {s : State}  :
    RKeeps s (execPunt e c s) := by
  unfold execPunt
  first
    | with_reducible refine rkeeps_run ?_
    | with_reducible refine rkeeps_runIf ?_
    | with_reducible refine rkeeps_next ?_
    | (unfold keRun; with_reducible refine rkeeps_runIf ?_)
  try dsimp only
  repeat' (first
    | with_reducible assumption
    | with_reducible exact Keeps_refl _
    | with_reducible apply keeps_issue
    | with_reducible apply keeps_pPunt
    | intro _)

theorem keeps_execDrop {e : Nat} {c : Nat} {s : State}  :
    RKeeps s (execDrop e c s) := by
  unfold execDrop
  first
    | with_reducible refine rkeeps_run ?_
    | with_reducible refine rkeeps_runIf ?_
    | with_reducible refine rkeeps_next ?_
    | (unfold keRun; with_reducible refine rkeeps_runIf ?_)
  try dsimp only
  repeat' (first
    | with_reducible assumption
    | with_reducible exact Keeps_refl _
    | with_reducible apply keeps_issue
    | with_reducible apply keeps_pDrop
    | intro _)

theorem keeps_execCall {e : Nat} {c : Nat} {s : State}  :
    RKeeps s (execCall e c s) := by
  unfold execCall
  first
    | with_reducible refine rkeeps_run ?_
    | with_reducible refine rkeeps_runIf ?_
    | with_reducible refine rkeeps_next ?_
    | (unfold keRun; with_reducible refine rkeeps_runIf ?_)
  try dsimp only
  repeat' (first
    | with_reducible assumption
    | with_reducible exact Keeps_refl _
    | with_reducible apply keeps_issue
    | with_reducible apply keeps_pCall
    | intro _)

theorem keeps_execRet {e : Nat} {c : Nat} {s : State}  :
    RKeeps s (execRet e c s) := by
  unfold execRet
  first
    | with_reducible refine rkeeps_run ?_
    | with_reducible refine rkeeps_runIf ?_
    | with_reducible refine rkeeps_next ?_
    | (unfold keRun; with_reducible refine rkeeps_runIf ?_)
  try dsimp only
  repeat' (first
    | with_reducible assumption
    | with_reducible exact Keeps_refl _
    | with_reducible apply keeps_issue
    | with_reducible apply keeps_pRet
    | intro _)

theorem keeps_execTrap {e : Nat} {c : Nat} {s : State}  :
    RKeeps s (execTrap e c s) := by
  unfold execTrap
  first
    | with_reducible refine rkeeps_run ?_
    | with_reducible refine rkeeps_runIf ?_
    | with_reducible refine rkeeps_next ?_
    | (unfold keRun; with_reducible refine rkeeps_runIf ?_)
  try dsimp only
  repeat' (first
    | with_reducible assumption
    | with_reducible exact Keeps_refl _
    | with_reducible apply keeps_issue
    | with_reducible apply keeps_pTrap
    | intro _)

theorem keeps_execSuccessor {e : Nat} {c : Nat} {s : State}  :
    RKeeps s (execSuccessor e c s) := by
  unfold execSuccessor
  first
    | with_reducible refine rkeeps_run ?_
    | with_reducible refine rkeeps_runIf ?_
    | with_reducible refine rkeeps_next ?_
    | (unfold keRun; with_reducible refine rkeeps_runIf ?_)
  try dsimp only
  repeat' (first
    | with_reducible assumption
    | with_reducible exact Keeps_refl _
    | with_reducible apply keeps_successor)

end Sys2Proof.Laws
end

