-- ==== Sys2Proof/Laws/KeepsTables.lean ====
section
/-!
SUPPORT. Laws/KeepsTables.lean: the functions of Machine/Tables.lean keep what every command keeps (Keeps of Safety.lean).
-/
namespace Sys2Proof.Laws
open Sys2Proof Sys2Proof.Machine

set_option linter.unusedTactic false
set_option linter.unreachableTactic false
set_option linter.unusedVariables false

theorem keeps_tblCfgWrite {a : State} {n : Nat} {g : Nat} {v : Word} {s : State} (hs : Keeps a s) :
    Keeps a (tblCfgWrite n g v s) := by
  unfold tblCfgWrite
  try dsimp only
  repeat' (first
    | with_reducible assumption
    | with_reducible apply keeps_wr
    | with_reducible apply keeps_fset
    | with_reducible apply keeps_fsetB
    | with_reducible apply keeps_occur
    | with_reducible refine keeps_ite ?_ ?_)

theorem keeps_lpmTouch {a : State} {off : Nat} {n : Nat} {s : State} (hs : Keeps a s) :
    Keeps a (lpmTouch off n s) := by
  unfold lpmTouch
  try dsimp only
  repeat' (first
    | with_reducible assumption
    | (with_reducible refine keeps_forEach (fun _ _ _ => ?_) ?_)
    | with_reducible apply keeps_upd')

theorem keeps_tblPut {a : State} {n : Nat} {g : Nat} {key : List Byte} {ws : List Nat} {s : State} (hs : Keeps a s) :
    OKeeps a (tblPut n g key ws s) := by
  unfold tblPut
  try dsimp only
  repeat' (first
    | with_reducible assumption
    | with_reducible apply keeps_putMem
    | with_reducible refine keeps_ite ?_ ?_
    | with_reducible refine okeeps_ite ?_ ?_
    | with_reducible apply okeeps_some
    | with_reducible exact okeeps_none
    | with_reducible refine okeeps_map ?_ (fun _ _ => ?_)
    | with_reducible apply okeeps_orElse
    | split
    | with_reducible apply keeps_upd')

theorem keeps_tblDel {a : State} {n : Nat} {g : Nat} {key : List Byte} {s : State} (hs : Keeps a s) :
    OKeeps a (tblDel n g key s) := by
  unfold tblDel
  try dsimp only
  repeat' (first
    | with_reducible assumption
    | with_reducible apply keeps_putMem
    | with_reducible refine keeps_ite ?_ ?_
    | with_reducible refine okeeps_ite ?_ ?_
    | with_reducible apply okeeps_some
    | with_reducible exact okeeps_none
    | with_reducible refine okeeps_map ?_ (fun _ _ => ?_)
    | with_reducible apply okeeps_orElse
    | split
    | with_reducible apply keeps_upd')

theorem keeps_markRuns {a : State} {f : Ctx → Ctx} {s : State} (hs : Keeps a s) :
    Keeps a (markRuns f s) := by
  unfold markRuns
  try dsimp only
  repeat' (first
    | with_reducible assumption
    | with_reducible refine keeps_ite ?_ ?_
    | with_reducible refine keeps_ite_fun ?_ ?_
    | with_reducible apply keeps_id
    | with_reducible apply keeps_upd_mapEach)

theorem keeps_tblFlip {a : State} {gen : Nat} {s : State} (hs : Keeps a s) :
    Keeps a (tblFlip gen s) := by
  unfold tblFlip
  try dsimp only
  repeat' (first
    | with_reducible assumption
    | with_reducible apply keeps_wr
    | with_reducible apply keeps_markRuns
    | with_reducible apply keeps_fset
    | with_reducible apply keeps_fsetB
    | with_reducible apply keeps_upd')

theorem keeps_flipDone {a : State} {s : State} (hs : Keeps a s) :
    Keeps a (flipDone s) := by
  unfold flipDone
  try dsimp only
  repeat' (first
    | with_reducible assumption
    | with_reducible apply keeps_fsetB
    | with_reducible apply keeps_occur
    | with_reducible apply keeps_bump
    | with_reducible refine keeps_ite ?_ ?_
    | with_reducible apply keeps_upd')

theorem keeps_notRepairable {a : State} {bank : Nat} {s : State} (hs : Keeps a s) :
    Keeps a (notRepairable bank s) := by
  unfold notRepairable
  try dsimp only
  repeat' (first
    | with_reducible assumption
    | with_reducible apply keeps_fsetB
    | with_reducible refine keeps_ite ?_ ?_
    | with_reducible apply keeps_upd')

theorem keeps_stageSet {a : State} {i : Initiator} {x : List (Nat × Nat × Nat)} {s : State} (hs : Keeps a s) :
    Keeps a (stageSet i x s) := by
  unfold stageSet
  try dsimp only
  repeat' (first
    | with_reducible assumption
    | with_reducible apply keeps_upd')

theorem keeps_topoWrite {a : State} {i : Initiator} {a0 : Nat} {v : Word} {s : State} (hs : Keeps a s) :
    Keeps a (topoWrite i a0 v s) := by
  unfold topoWrite
  try dsimp only
  repeat' (first
    | with_reducible assumption
    | with_reducible apply keeps_writeIgnored
    | with_reducible apply keeps_notRepairable
    | with_reducible apply keeps_stageSet
    | with_reducible apply keeps_putMem
    | with_reducible refine keeps_ite ?_ ?_
    | split
    | with_reducible apply keeps_upd')

theorem keeps_swapGo {a : State} {withGen : Bool} {s : State} (hs : Keeps a s) :
    Keeps a (swapGo withGen s) := by
  unfold swapGo
  try dsimp only
  repeat' (first
    | with_reducible assumption
    | with_reducible apply keeps_fsetB
    | with_reducible apply keeps_upd')

theorem keeps_swapBoundary {a : State} {s : State} (hs : Keeps a s) :
    Keeps a (swapBoundary s) := by
  unfold swapBoundary
  try dsimp only
  repeat' (first
    | with_reducible assumption
    | with_reducible apply keeps_swapGo
    | with_reducible apply keeps_markRuns
    | with_reducible apply keeps_fset
    | with_reducible apply keeps_tblFlip
    | with_reducible refine keeps_ite ?_ ?_
    | with_reducible apply keeps_upd')

theorem keeps_swapDone {a : State} {s : State} (hs : Keeps a s) :
    Keeps a (swapDone s) := by
  unfold swapDone
  try dsimp only
  repeat' (first
    | with_reducible assumption
    | with_reducible apply keeps_swapGo
    | with_reducible apply keeps_occur
    | with_reducible apply keeps_bump
    | with_reducible apply keeps_fsetB
    | with_reducible refine keeps_ite ?_ ?_
    | with_reducible apply keeps_upd')

theorem keeps_topoApply {a : State} {a0 : Nat} {v : Word} {s : State} (hs : Keeps a s) :
    OKeeps a (topoApply a0 v s) := by
  unfold topoApply
  try dsimp only
  repeat' (first
    | with_reducible assumption
    | with_reducible apply keeps_tblFlip
    | with_reducible apply keeps_swapGo
    | with_reducible apply keeps_tblCfgWrite
    | with_reducible refine keeps_ite ?_ ?_
    | with_reducible refine okeeps_ite ?_ ?_
    | with_reducible apply okeeps_some
    | with_reducible exact okeeps_none
    | with_reducible refine okeeps_map ?_ (fun _ _ => ?_)
    | with_reducible apply okeeps_orElse)

theorem keeps_execTopoSwapDone {s : State}  :
    RKeeps s (execTopoSwapDone s) := by
  unfold execTopoSwapDone
  first
    | with_reducible refine rkeeps_run ?_
    | with_reducible refine rkeeps_runIf ?_
    | with_reducible refine rkeeps_next ?_
    | (unfold keRun; with_reducible refine rkeeps_runIf ?_)
  try dsimp only
  repeat' (first
    | with_reducible assumption
    | with_reducible exact Keeps_refl _
    | with_reducible apply keeps_swapDone)

theorem keeps_execTopoTblFlipDone {s : State}  :
    RKeeps s (execTopoTblFlipDone s) := by
  unfold execTopoTblFlipDone
  first
    | with_reducible refine rkeeps_run ?_
    | with_reducible refine rkeeps_runIf ?_
    | with_reducible refine rkeeps_next ?_
    | (unfold keRun; with_reducible refine rkeeps_runIf ?_)
  try dsimp only
  repeat' (first
    | with_reducible assumption
    | with_reducible exact Keeps_refl _
    | with_reducible apply keeps_flipDone)

end Sys2Proof.Laws
end

