-- ==== Sys2Proof/Laws/KeepsSvc.lean ====
section
/-!
SUPPORT. Laws/KeepsSvc.lean: the functions of Machine/Svc.lean keep what every command keeps (Keeps of Safety.lean).
-/
namespace Sys2Proof.Laws
open Sys2Proof Sys2Proof.Machine

set_option linter.unusedTactic false
set_option linter.unreachableTactic false
set_option linter.unusedVariables false

theorem keeps_journal {a : State} {ty : Nat} {body : List Byte} {s : State} (hs : Keeps a s) :
    Keeps a (journal ty body s) := by
  unfold journal
  try dsimp only
  repeat' (first
    | with_reducible assumption
    | with_reducible apply keeps_belaySend
    | with_reducible apply keeps_fset
    | with_reducible apply keeps_bump
    | with_reducible refine keeps_ite ?_ ?_
    | with_reducible apply keeps_upd')

theorem keeps_stockDesc {a : State} {n : Nat} {g : Nat} {seed : Nat} {s : State} (hs : Keeps a s) :
    Keeps a (stockDesc n g seed s) := by
  unfold stockDesc
  try dsimp only
  repeat' (first
    | with_reducible assumption
    | with_reducible apply keeps_wr
    | with_reducible apply keeps_tblCfgWrite)

theorem keeps_stockPuts {a : State} {n : Nat} {g : Nat} {x0 : List (Nat × List Nat)} {x1 : State} (hx1 : Keeps a x1) :
    OKeeps a (stockPuts n g x0 x1) := by
  induction x0 generalizing x1 with
  | nil =>
    unfold stockPuts
    try dsimp only
    repeat' (first
      | with_reducible assumption
      | fail
      | with_reducible apply keeps_tblPut
      | with_reducible apply okeeps_some
      | with_reducible exact okeeps_none
      | with_reducible refine okeeps_map ?_ (fun _ _ => ?_)
      | with_reducible apply okeeps_orElse
      | split
      | with_reducible refine keeps_of_some ?_ ‹_ = some _›
      | with_reducible apply keeps_upd')
  | cons y ys ih =>
    unfold stockPuts
    try dsimp only
    repeat' (first
      | with_reducible assumption
      | with_reducible apply ih
      | with_reducible apply keeps_tblPut
      | with_reducible apply okeeps_some
      | with_reducible exact okeeps_none
      | with_reducible refine okeeps_map ?_ (fun _ _ => ?_)
      | with_reducible apply okeeps_orElse
      | split
      | with_reducible refine keeps_of_some ?_ ‹_ = some _›
      | with_reducible apply keeps_upd')

theorem keeps_stockCopy {a : State} {n : Nat} {g : Nat} {ents : List (Nat × List Nat)} {s : State} (hs : Keeps a s) :
    OKeeps a (stockCopy n g ents s) := by
  unfold stockCopy
  try dsimp only
  repeat' (first
    | with_reducible assumption
    | with_reducible apply keeps_stockDesc
    | with_reducible apply keeps_stockPuts
    | with_reducible apply keeps_clrRange
    | with_reducible apply okeeps_some
    | with_reducible exact okeeps_none
    | with_reducible refine okeeps_map ?_ (fun _ _ => ?_)
    | with_reducible apply okeeps_orElse
    | with_reducible refine okeeps_findSome (fun _ => ?_) _)

theorem keeps_stockWrites {a : State} {x0 : List (Nat × List (Nat × List Nat))} {x1 : State} (hx1 : Keeps a x1) :
    OPKeeps a (stockWrites x0 x1) := by
  induction x0 generalizing x1 with
  | nil => exact opkeeps_some hx1
  | cons y r ih =>
    obtain ⟨n, ents⟩ := y
    unfold stockWrites
    dsimp only
    split
    · exact opkeeps_none
    · split
      · exact opkeeps_none
      · exact opkeeps_some (keeps_of_osome (ih (keeps_upd' (keeps_of_some (keeps_stockCopy hx1) ‹_›))) ‹_›)

theorem keeps_stockCommit {a : State} {want : List (Nat × List (Nat × List Nat))} {s : State} (hs : Keeps a s) :
    OKeeps a (stockCommit want s) := by
  unfold stockCommit
  try dsimp only
  repeat' (first
    | with_reducible assumption
    | with_reducible apply keeps_stockWrites
    | with_reducible apply keeps_tblFlip
    | with_reducible refine keeps_ite ?_ ?_
    | with_reducible refine okeeps_ite ?_ ?_
    | with_reducible apply okeeps_some
    | with_reducible exact okeeps_none
    | with_reducible refine okeeps_map ?_ (fun _ _ => ?_)
    | with_reducible apply okeeps_orElse
    | split
    | with_reducible refine keeps_of_osome ?_ ‹_ = some (_, _)›
    | with_reducible apply keeps_upd')

theorem keeps_mcastWrite {a : State} {p : Nat} {s : State} (hs : Keeps a s) :
    Keeps a (mcastWrite p s) := by
  unfold mcastWrite
  try dsimp only
  repeat' (first
    | with_reducible assumption
    | (with_reducible refine keeps_forEach (fun _ _ _ => ?_) ?_)
    | with_reducible apply keeps_wr
    | with_reducible apply keeps_cairnState
    | with_reducible apply keeps_occur
    | with_reducible apply keeps_fsetB
    | with_reducible refine keeps_ite ?_ ?_
    | split
    | with_reducible apply keeps_upd')

theorem keeps_svcLevels {a : State} {s : State} (hs : Keeps a s) :
    Keeps a (svcLevels s) := by
  unfold svcLevels
  try dsimp only
  repeat' (first
    | with_reducible assumption
    | with_reducible apply keeps_setLevel)

theorem keeps_svcSync {a : State} {s : State} (hs : Keeps a s) :
    Keeps a (svcSync s) := by
  unfold svcSync
  try dsimp only
  repeat' (first
    | with_reducible assumption
    | with_reducible apply keeps_svcLevels
    | with_reducible apply keeps_stockCommit
    | with_reducible apply keeps_getD)

theorem keeps_announceAddr {a : State} {p : Nat} {s : State} {x : SvcAddr} (hs : Keeps a s) :
    Keeps a (announceAddr p s x) := by
  unfold announceAddr
  try dsimp only
  repeat' (first
    | with_reducible assumption
    | with_reducible apply keeps_fwInject
    | with_reducible refine keeps_ite ?_ ?_
    | with_reducible refine keeps_ite_fun ?_ ?_
    | with_reducible apply keeps_id)

theorem keeps_announceRisen {a : State} {old : State} {s : State} (hold : Keeps a old) (hs : Keeps a s) :
    Keeps a (announceRisen old s) := by
  unfold announceRisen
  try dsimp only
  repeat' (first
    | with_reducible assumption
    | (with_reducible refine keeps_forEach (fun _ _ _ => ?_) ?_)
    | with_reducible apply keeps_announceAddr
    | with_reducible refine keeps_foldl _ (fun _ _ _ => ?_) _ ?_
    | with_reducible refine keeps_foldl_pair _ (fun _ _ _ => ?_) _ ?_)

theorem keeps_withAnnounce {a : State} {f : State → State} {s : State} (hf : ∀ b, Keeps a b → Keeps a (f b)) (hs : Keeps a s) :
    Keeps a (withAnnounce f s) := by
  unfold withAnnounce
  try dsimp only
  repeat' (first
    | with_reducible assumption
    | with_reducible apply keeps_announceRisen
    | with_reducible apply hf)

theorem keeps_svcSetAddrs {a : State} {as : List SvcAddr} {s : State} (hs : Keeps a s) :
    OKeeps a (svcSetAddrs as s) := by
  unfold svcSetAddrs
  try dsimp only
  repeat' (first
    | with_reducible assumption
    | with_reducible apply keeps_stockCommit
    | with_reducible apply keeps_svcLevels
    | (with_reducible refine keeps_forEach (fun _ _ _ => ?_) ?_)
    | with_reducible apply keeps_mcastWrite
    | with_reducible refine keeps_ite ?_ ?_
    | with_reducible refine okeeps_ite ?_ ?_
    | with_reducible apply okeeps_some
    | with_reducible exact okeeps_none
    | with_reducible refine okeeps_map ?_ (fun _ _ => ?_)
    | with_reducible apply okeeps_orElse
    | split
    | with_reducible refine keeps_of_some ?_ ‹_ = some _›
    | with_reducible apply keeps_upd')

theorem keeps_drawBytes {a : State} {n : Nat} {s : State} (hs : Keeps a s) :
    Keeps a (drawBytes n s).2 := by
  unfold drawBytes
  try dsimp only
  repeat' (first
    | with_reducible assumption
    | with_reducible apply keeps_draw
    | with_reducible refine keeps_foldl _ (fun _ _ _ => ?_) _ ?_
    | with_reducible refine keeps_foldl_pair _ (fun _ _ _ => ?_) _ ?_)

theorem keeps_keyMakeNext {a : State} {kid : Nat} {start : Nat} {s : State} (hs : Keeps a s) :
    Keeps a (keyMakeNext kid start s) := by
  unfold keyMakeNext
  try dsimp only
  repeat' (first
    | with_reducible assumption
    | with_reducible apply keeps_drawBytes
    | with_reducible apply keeps_keySet
    | with_reducible apply keeps_journal
    | with_reducible refine keeps_ite ?_ ?_
    | with_reducible apply keeps_upd')

theorem keeps_keyTurn {a : State} {s : State} (hs : Keeps a s) :
    Keeps a (keyTurn s) := by
  unfold keyTurn
  try dsimp only
  repeat' (first
    | with_reducible assumption
    | with_reducible apply keeps_keySet
    | with_reducible apply keeps_journal
    | with_reducible apply keeps_svcSync
    | with_reducible apply keeps_occur
    | with_reducible refine keeps_ite ?_ ?_
    | split
    | with_reducible apply keeps_upd')

theorem keeps_keyNext {a : State} {s : State} (hs : Keeps a s) :
    Keeps a (keyNext s) := by
  unfold keyNext
  try dsimp only
  repeat' (first
    | with_reducible assumption
    | with_reducible apply keeps_keyMakeNext
    | with_reducible refine keeps_ite ?_ ?_)

theorem keeps_keyRotation {a : State} {s : State} (hs : Keeps a s) :
    Keeps a (keyRotation s) := by
  unfold keyRotation
  try dsimp only
  repeat' (first
    | with_reducible assumption
    | with_reducible apply keeps_keyTurn
    | with_reducible refine keeps_ite ?_ ?_)

theorem keeps_keyExpiry {a : State} {n : Nat} {s : State} (hs : Keeps a s) :
    Keeps a (keyExpiry n s) := by
  unfold keyExpiry
  try dsimp only
  repeat' (first
    | with_reducible assumption
    | with_reducible apply keeps_keySet
    | with_reducible refine keeps_ite ?_ ?_)

theorem keeps_keysInstall {a : State} {s : State} (hs : Keeps a s) :
    Keeps a (keysInstall s) := by
  unfold keysInstall
  try dsimp only
  repeat' (first
    | with_reducible assumption
    | with_reducible apply keeps_keyMakeNext
    | with_reducible apply keeps_keyTurn
    | (with_reducible refine keeps_forEach (fun _ _ _ => ?_) ?_)
    | with_reducible apply keeps_keySet
    | with_reducible refine keeps_ite ?_ ?_)

theorem keeps_keyEnsureNext {a : State} {s : State} (hs : Keeps a s) :
    Keeps a (keyEnsureNext s) := by
  unfold keyEnsureNext
  try dsimp only
  repeat' (first
    | with_reducible assumption
    | with_reducible apply keeps_keyMakeNext
    | with_reducible refine keeps_ite ?_ ?_)

theorem keeps_keyRotate {a : State} {s : State} (hs : Keeps a s) :
    Keeps a (keyRotate s) := by
  unfold keyRotate
  try dsimp only
  repeat' (first
    | with_reducible assumption
    | with_reducible apply keeps_keyEnsureNext
    | with_reducible apply keeps_keyTurn)

theorem keeps_keyRevoke {a : State} {kid : Nat} {s : State} (hs : Keeps a s) :
    Keeps a (keyRevoke kid s) := by
  unfold keyRevoke
  try dsimp only
  repeat' (first
    | with_reducible assumption
    | with_reducible apply keeps_keyRotate
    | with_reducible apply keeps_keySet
    | with_reducible apply keeps_svcSync
    | with_reducible apply keeps_occur
    | with_reducible apply keeps_journal
    | with_reducible refine keeps_ite ?_ ?_
    | split
    | with_reducible apply keeps_upd')

theorem keeps_keyApply {a : State} {body : List Byte} {s : State} (hs : Keeps a s) :
    Keeps a (keyApply body s) := by
  unfold keyApply
  try dsimp only
  repeat' (first
    | with_reducible assumption
    | with_reducible apply keeps_keySet
    | with_reducible apply keeps_keyTurn
    | with_reducible apply keeps_svcSync
    | with_reducible apply keeps_occur
    | with_reducible refine keeps_ite ?_ ?_
    | split
    | with_reducible apply keeps_upd')

theorem keeps_keyCtl {a : State} {v : Word} {s : State} (hs : Keeps a s) :
    Keeps a (keyCtl v s) := by
  unfold keyCtl
  try dsimp only
  repeat' (first
    | with_reducible assumption
    | with_reducible apply keeps_keyRotate
    | with_reducible apply keeps_keyRevoke
    | with_reducible refine keeps_ite ?_ ?_)

theorem keeps_halvingPass {a : State} {s : State} (hs : Keeps a s) :
    Keeps a (halvingPass s) := by
  unfold halvingPass
  try dsimp only
  repeat' (first
    | with_reducible assumption
    | with_reducible apply keeps_upd_sketchEach)

theorem keeps_dropAggregate {a : State} {s : State} (hs : Keeps a s) :
    Keeps a (dropAggregate s) := by
  unfold dropAggregate
  try dsimp only
  repeat' (first
    | with_reducible assumption
    | (with_reducible refine keeps_forEach (fun _ _ _ => ?_) ?_)
    | with_reducible apply keeps_cairnForce
    | with_reducible refine keeps_ite ?_ ?_
    | with_reducible apply keeps_upd')

theorem keeps_svcApply {a : State} {a0 : Nat} {v : Word} {stored : State} (hstored : Keeps a stored) :
    OKeeps a (svcApply a0 v stored) := by
  unfold svcApply
  try dsimp only
  repeat' (first
    | with_reducible assumption
    | with_reducible apply keeps_keyCtl
    | with_reducible apply keeps_svcSync
    | with_reducible refine keeps_ite ?_ ?_
    | with_reducible refine okeeps_ite ?_ ?_
    | with_reducible apply okeeps_some
    | with_reducible exact okeeps_none
    | with_reducible refine okeeps_map ?_ (fun _ _ => ?_)
    | with_reducible apply okeeps_orElse)

theorem keeps_execKeyNext {s : State}  :
    RKeeps s (execKeyNext s) := by
  unfold execKeyNext
  first
    | with_reducible refine rkeeps_run ?_
    | with_reducible refine rkeeps_runIf ?_
    | with_reducible refine rkeeps_next ?_
    | (unfold keRun; with_reducible refine rkeeps_runIf ?_)
  try dsimp only
  repeat' (first
    | with_reducible assumption
    | with_reducible exact Keeps_refl _
    | with_reducible apply keeps_keyNext)

theorem keeps_execKeyRotation {s : State}  :
    RKeeps s (execKeyRotation s) := by
  unfold execKeyRotation
  first
    | with_reducible refine rkeeps_run ?_
    | with_reducible refine rkeeps_runIf ?_
    | with_reducible refine rkeeps_next ?_
    | (unfold keRun; with_reducible refine rkeeps_runIf ?_)
  try dsimp only
  repeat' (first
    | with_reducible assumption
    | with_reducible exact Keeps_refl _
    | with_reducible apply keeps_keyRotation)

theorem keeps_execKeyExpiry {slot : Nat} {s : State}  :
    RKeeps s (execKeyExpiry slot s) := by
  unfold execKeyExpiry
  first
    | with_reducible refine rkeeps_run ?_
    | with_reducible refine rkeeps_runIf ?_
    | with_reducible refine rkeeps_next ?_
    | (unfold keRun; with_reducible refine rkeeps_runIf ?_)
  try dsimp only
  repeat' (first
    | with_reducible assumption
    | with_reducible exact Keeps_refl _
    | with_reducible apply keeps_keyExpiry)

theorem keeps_execKeysInstall {s : State}  :
    RKeeps s (execKeysInstall s) := by
  unfold execKeysInstall
  first
    | with_reducible refine rkeeps_run ?_
    | with_reducible refine rkeeps_runIf ?_
    | with_reducible refine rkeeps_next ?_
    | (unfold keRun; with_reducible refine rkeeps_runIf ?_)
  try dsimp only
  repeat' (first
    | with_reducible assumption
    | with_reducible exact Keeps_refl _
    | with_reducible apply keeps_svcSync
    | with_reducible apply keeps_keysInstall)

theorem keeps_execSketchHalvingPass {s : State}  :
    RKeeps s (execSketchHalvingPass s) := by
  unfold execSketchHalvingPass
  first
    | with_reducible refine rkeeps_run ?_
    | with_reducible refine rkeeps_runIf ?_
    | with_reducible refine rkeeps_next ?_
    | (unfold keRun; with_reducible refine rkeeps_runIf ?_)
  try dsimp only
  repeat' (first
    | with_reducible assumption
    | with_reducible exact Keeps_refl _
    | with_reducible apply keeps_halvingPass)

theorem keeps_execDropAggregation {s : State}  :
    RKeeps s (execDropAggregation s) := by
  unfold execDropAggregation
  first
    | with_reducible refine rkeeps_run ?_
    | with_reducible refine rkeeps_runIf ?_
    | with_reducible refine rkeeps_next ?_
    | (unfold keRun; with_reducible refine rkeeps_runIf ?_)
  try dsimp only
  repeat' (first
    | with_reducible assumption
    | with_reducible exact Keeps_refl _
    | with_reducible apply keeps_dropAggregate)

end Sys2Proof.Laws
end

