-- ==== Sys2Proof/Laws/KeepsBnu.lean ====
section
/-!
SUPPORT. Laws/KeepsBnu.lean: the functions of Machine/Bnu.lean keep what every command keeps (Keeps of Safety.lean).
-/
namespace Sys2Proof.Laws
open Sys2Proof Sys2Proof.Machine

set_option linter.unusedTactic false
set_option linter.unreachableTactic false
set_option linter.unusedVariables false

theorem keeps_backlogShow {a : State} {s : State} (hs : Keeps a s) :
    Keeps a (backlogShow s) := by
  unfold backlogShow
  try dsimp only
  repeat' (first
    | with_reducible assumption
    | with_reducible apply keeps_fset)

theorem keeps_bnuSet {a : State} {n : Nat} {u : BnuUnit} {s : State} (hs : Keeps a s) :
    Keeps a (bnuSet n u s) := by
  unfold bnuSet
  try dsimp only
  repeat' (first
    | with_reducible assumption
    | with_reducible apply keeps_fset
    | with_reducible apply keeps_fsetB
    | with_reducible apply keeps_setLevel
    | with_reducible apply keeps_backlogShow
    | with_reducible apply keeps_wr
    | with_reducible apply keeps_upd_units
    | with_reducible apply keeps_upd')

theorem keeps_slotSet {a : State} {n : Nat} {k : Nat} {x : BnuSlot} {s : State} (hs : Keeps a s) :
    Keeps a (slotSet n k x s) := by
  unfold slotSet
  try dsimp only
  repeat' (first
    | with_reducible assumption
    | with_reducible apply keeps_bnuSet
    | with_reducible refine keeps_ite ?_ ?_
    | with_reducible apply keeps_upd')

theorem keeps_wordsZero {a : State} {lo : Nat} {hi : Nat} {s : State} (hs : Keeps a s) :
    Keeps a (wordsZero lo hi s) := by
  refine keeps_clrRange (Keeps_trans hs ?_)
  exact ⟨rfl, rfl, List.suffix_refl _, Nat.le_refl _, fun _ => rfl,
    fun c => ⟨c.mem, c.regs, c.initRegs, c.busOut, c.flash, c.gate, c.ports, c.refs, c.refUp, c.tic, c.outs, c.trigs, c.nts, c.tod,
      c.ctx, c.q, c.live, c.keys, c.sketch, c.grants, c.conns, c.units, mapWf_filter _ c.bad, c.log⟩⟩

theorem keeps_slotZero {a : State} {n : Nat} {k : Nat} {s : State} (hs : Keeps a s) :
    Keeps a (slotZero n k s) := by
  unfold slotZero
  try dsimp only
  repeat' (first
    | with_reducible assumption
    | with_reducible apply keeps_wordsZero
    | with_reducible refine keeps_ite ?_ ?_)

theorem keeps_slotClear {a : State} {n : Nat} {k : Nat} {s : State} (hs : Keeps a s) :
    Keeps a (slotClear n k s) := by
  unfold slotClear
  try dsimp only
  repeat' (first
    | with_reducible assumption
    | with_reducible apply keeps_slotSet
    | with_reducible apply keeps_slotZero)

theorem keeps_slotsClear {a : State} {n : Nat} {s : State} (hs : Keeps a s) :
    Keeps a (slotsClear n s) := by
  unfold slotsClear
  try dsimp only
  repeat' (first
    | with_reducible assumption
    | with_reducible apply keeps_bnuSet
    | with_reducible apply keeps_wordsZero
    | with_reducible apply keeps_upd')

theorem keeps_slotPut {a : State} {n : Nat} {k : Nat} {read : Nat} {side : Nat} {bs : List Byte} {s : State} (hs : Keeps a s) :
    Keeps a (slotPut n k read side bs s) := by
  unfold slotPut
  try dsimp only
  repeat' (first
    | with_reducible assumption
    | with_reducible apply keeps_clrRange
    | with_reducible apply keeps_slotSet
    | with_reducible apply keeps_putMem
    | with_reducible refine keeps_ite ?_ ?_)

theorem keeps_bnuWinWrite {a : State} {i : Initiator} {a0 : Nat} {v : Word} {s : State} (hs : Keeps a s) :
    Keeps a (bnuWinWrite i a0 v s) := by
  unfold bnuWinWrite
  try dsimp only
  repeat' (first
    | with_reducible assumption
    | with_reducible apply keeps_writeIgnored
    | with_reducible apply keeps_fsetB
    | with_reducible apply keeps_slotSet
    | with_reducible apply keeps_putMem
    | with_reducible refine keeps_ite ?_ ?_)

theorem keeps_cplCount {a : State} {n : Nat} {status : Nat} {short : Bool} {s : State} (hs : Keeps a s) :
    Keeps a (cplCount n status short s) := by
  unfold cplCount
  try dsimp only
  repeat' (first
    | with_reducible assumption
    | with_reducible apply keeps_bump
    | with_reducible apply keeps_raiseOnce
    | with_reducible refine keeps_ite ?_ ?_)

theorem keeps_cplPost {a : State} {n : Nat} {j : BnuJob} {status : Nat} {cycles : Nat} {flags : Nat} {s : State} (hs : Keeps a s) :
    Keeps a (cplPost n j status cycles flags s) := by
  unfold cplPost
  try dsimp only
  repeat' (first
    | with_reducible assumption
    | with_reducible apply keeps_cplCount
    | with_reducible apply keeps_bnuSet
    | with_reducible refine keeps_ite ?_ ?_
    | with_reducible apply keeps_upd')

theorem keeps_slotsRelease {a : State} {n : Nat} {j : BnuJob} {s : State} (hs : Keeps a s) :
    Keeps a (slotsRelease n j s) := by
  unfold slotsRelease
  try dsimp only
  repeat' (first
    | with_reducible assumption
    | (with_reducible refine keeps_forEach (fun _ _ _ => ?_) ?_)
    | with_reducible apply keeps_slotSet
    | with_reducible refine keeps_ite ?_ ?_
    | with_reducible apply keeps_upd')

theorem keeps_outsClear {a : State} {n : Nat} {j : BnuJob} {s : State} (hs : Keeps a s) :
    Keeps a (outsClear n j s) := by
  unfold outsClear
  try dsimp only
  repeat' (first
    | with_reducible assumption
    | (with_reducible refine keeps_forEach (fun _ _ _ => ?_) ?_)
    | with_reducible apply keeps_slotClear)

theorem keeps_jobFail {a : State} {n : Nat} {j : BnuJob} {status : Nat} {cycles : Nat} {flags : Nat} {s : State} (hs : Keeps a s) :
    Keeps a (jobFail n j status cycles flags s) := by
  unfold jobFail
  try dsimp only
  repeat' (first
    | with_reducible assumption
    | with_reducible apply keeps_cplPost
    | with_reducible apply keeps_slotsRelease
    | with_reducible apply keeps_outsClear
    | with_reducible refine keeps_ite ?_ ?_)

theorem keeps_jobAccept {a : State} {n : Nat} {j : BnuJob} {s : State} (hs : Keeps a s) :
    Keeps a (jobAccept n j s) := by
  unfold jobAccept
  try dsimp only
  repeat' (first
    | with_reducible assumption
    | (with_reducible refine keeps_forEach (fun _ _ _ => ?_) ?_)
    | with_reducible apply keeps_slotSet
    | with_reducible apply keeps_bnuSet
    | with_reducible refine keeps_ite ?_ ?_
    | with_reducible apply keeps_upd')

theorem keeps_bnuSubmit {a : State} {i : Initiator} {n : Nat} {s : State} (hs : Keeps a s) :
    Keeps a (bnuSubmit i n s) := by
  unfold bnuSubmit
  try dsimp only
  repeat' (first
    | with_reducible assumption
    | with_reducible apply keeps_cplPost
    | with_reducible apply keeps_bump
    | with_reducible apply keeps_fsetB
    | with_reducible apply keeps_jobAccept
    | with_reducible refine keeps_ite ?_ ?_
    | with_reducible apply keeps_upd')

theorem keeps_sourceUe {a : State} {n : Nat} {j : BnuJob} {s : State} (hs : Keeps a s) :
    Keeps a (sourceUe n j s).2 := by
  unfold sourceUe
  try dsimp only
  repeat' (first
    | with_reducible assumption
    | with_reducible apply keeps_touchMem
    | with_reducible refine keeps_foldl _ (fun _ _ _ => ?_) _ ?_
    | with_reducible refine keeps_foldl_pair _ (fun _ _ _ => ?_) _ ?_)

theorem keeps_staleLevel {a : State} {s : State} (hs : Keeps a s) :
    Keeps a (staleLevel s) := by
  unfold staleLevel
  try dsimp only
  repeat' (first
    | with_reducible assumption
    | with_reducible apply keeps_setLevel)

theorem keeps_drbgSet {a : State} {i : Nat} {d : Option Drbg} {s : State} (hs : Keeps a s) :
    Keeps a (drbgSet i d s) := by
  unfold drbgSet
  try dsimp only
  repeat' (first
    | with_reducible assumption
    | with_reducible apply keeps_upd')

theorem keeps_seedTake {a : State} {s : State} (hs : Keeps a s) :
    OPKeeps a (seedTake s) := by
  unfold seedTake
  try dsimp only
  repeat' (first
    | with_reducible assumption
    | with_reducible apply opkeeps_some
    | with_reducible exact opkeeps_none
    | split
    | with_reducible apply keeps_upd')

theorem keeps_drbgOn {a : State} {i : Nat} {d : Drbg} {s : State} (hs : Keeps a s) :
    Keeps a (drbgOn i d s) := by
  unfold drbgOn
  try dsimp only
  repeat' (first
    | with_reducible assumption
    | with_reducible apply keeps_drbgSet
    | with_reducible apply keeps_staleLevel
    | with_reducible apply keeps_fset
    | with_reducible apply keeps_upd')

theorem keeps_drbgStart {a : State} {i : Nat} {s : State} (hs : Keeps a s) :
    Keeps a (drbgStart i s) := by
  unfold drbgStart
  try dsimp only
  repeat' (first
    | with_reducible assumption
    | with_reducible apply keeps_seedTake
    | with_reducible apply keeps_drbgOn
    | split
    | with_reducible refine keeps_of_osome ?_ ‹_ = some (_, _)›
    | with_reducible apply keeps_upd')

theorem keeps_drbgAgain {a : State} {i : Nat} {s : State} (hs : Keeps a s) :
    Keeps a (drbgAgain i s) := by
  unfold drbgAgain
  try dsimp only
  repeat' (first
    | with_reducible assumption
    | with_reducible apply keeps_drbgStart
    | with_reducible apply keeps_seedTake
    | with_reducible apply keeps_bump
    | with_reducible apply keeps_drbgOn
    | split
    | with_reducible refine keeps_of_osome ?_ ‹_ = some (_, _)›
    | with_reducible apply keeps_upd')

theorem keeps_drbgHalt {a : State} {i : Nat} {s : State} (hs : Keeps a s) :
    Keeps a (drbgHalt i s) := by
  unfold drbgHalt
  try dsimp only
  repeat' (first
    | with_reducible assumption
    | with_reducible apply keeps_staleLevel
    | with_reducible apply keeps_fset
    | with_reducible apply keeps_upd')

theorem keeps_drbgDrop {a : State} {i : Nat} {s : State} (hs : Keeps a s) :
    Keeps a (drbgDrop i s) := by
  unfold drbgDrop
  try dsimp only
  repeat' (first
    | with_reducible assumption
    | with_reducible apply keeps_fset
    | with_reducible apply keeps_drbgSet
    | with_reducible apply keeps_upd')

theorem keeps_drbgGen {a : State} {i : Nat} {n : Nat} {s : State} (hs : Keeps a s) :
    Keeps a (drbgGen i n s).2 := by
  unfold drbgGen
  try dsimp only
  repeat' (first
    | with_reducible assumption
    | with_reducible apply keeps_drawBytes
    | with_reducible apply keeps_drbgSet
    | with_reducible apply keeps_drbgAgain
    | with_reducible apply keeps_drbgHalt
    | with_reducible refine keeps_ite ?_ ?_
    | with_reducible refine keeps_ite_snd ?_ ?_
    | split
    | with_reducible refine keeps_of_pair ?_ ‹_ = (_, _)›
    | with_reducible apply keeps_upd')

theorem keeps_drbgServe {a : State} {s : State} (hs : Keeps a s) :
    Keeps a (drbgServe s) := by
  unfold drbgServe
  try dsimp only
  repeat' (first
    | with_reducible assumption
    | (with_reducible refine keeps_forEach (fun _ _ _ => ?_) ?_)
    | with_reducible apply keeps_drbgAgain
    | with_reducible refine keeps_ite ?_ ?_
    | with_reducible refine keeps_ite_fun ?_ ?_
    | with_reducible apply keeps_id)

theorem keeps_bnuStart {a : State} {n : Nat} {s : State} (hs : Keeps a s) :
    Keeps a (bnuStart n s) := by
  unfold bnuStart
  try dsimp only
  repeat' (first
    | with_reducible assumption
    | with_reducible apply keeps_bnuSet
    | with_reducible apply keeps_sourceUe
    | (with_reducible refine keeps_forEach (fun _ _ _ => ?_) ?_)
    | with_reducible apply keeps_slotZero
    | with_reducible apply keeps_outsClear
    | with_reducible refine keeps_ite ?_ ?_
    | split
    | with_reducible refine keeps_of_pair ?_ ‹_ = (_, _)›
    | with_reducible apply keeps_upd')

theorem keeps_bnuYield {a : State} {n : Nat} {left : Nat} {s : State} (hs : Keeps a s) :
    Keeps a (bnuYield n left s) := by
  unfold bnuYield
  try dsimp only
  repeat' (first
    | with_reducible assumption
    | with_reducible apply keeps_bump
    | with_reducible apply keeps_bnuSet
    | with_reducible refine keeps_ite ?_ ?_
    | split
    | with_reducible apply keeps_upd')

theorem keeps_drbgBelow {a : State} {i : Nat} {m : Nat} {bits : Nat} {x0 : Nat} {x1 : State} (hx1 : Keeps a x1) :
    Keeps a (drbgBelow i m bits x0 x1).2 := by
  induction x0 generalizing x1 with
  | zero =>
    unfold drbgBelow
    try dsimp only
    repeat' (first
      | with_reducible assumption
      | fail
      | with_reducible apply keeps_drawBytes
      | with_reducible apply keeps_drbgGen
      | with_reducible refine keeps_ite ?_ ?_
      | with_reducible refine keeps_ite_snd ?_ ?_
      | split)
  | succ n ih =>
    unfold drbgBelow
    try dsimp only
    repeat' (first
      | with_reducible assumption
      | with_reducible apply ih
      | with_reducible apply keeps_drawBytes
      | with_reducible apply keeps_drbgGen
      | with_reducible refine keeps_ite ?_ ?_
      | with_reducible refine keeps_ite_snd ?_ ?_
      | split)

theorem keeps_drbgScalar {a : State} {i : Nat} {m : Nat} {s : State} (hs : Keeps a s) :
    Keeps a (drbgScalar i m s).2 := by
  unfold drbgScalar
  try dsimp only
  repeat' (first
    | with_reducible assumption
    | with_reducible apply keeps_drbgBelow)

theorem keeps_jobSig {a : State} {n : Nat} {j : BnuJob} {s : State} (hs : Keeps a s) :
    Keeps a (jobSig n j s).2.2 := by
  unfold jobSig
  try dsimp only
  repeat' (first
    | with_reducible assumption
    | with_reducible apply keeps_drbgScalar
    | with_reducible refine keeps_ite ?_ ?_
    | with_reducible refine keeps_ite_snd ?_ ?_
    | split
    | with_reducible refine keeps_of_pair ?_ ‹_ = (_, _)›
    | with_reducible apply keeps_upd')

theorem keeps_jobResult {a : State} {n : Nat} {j : BnuJob} {s : State} (hs : Keeps a s) :
    Keeps a (jobResult n j s).2 := by
  unfold jobResult
  try dsimp only
  repeat' (first
    | with_reducible assumption
    | with_reducible apply keeps_slotPut
    | with_reducible apply keeps_slotClear
    | with_reducible apply keeps_drbgGen
    | with_reducible apply keeps_drbgScalar
    | with_reducible apply keeps_jobSig
    | with_reducible refine keeps_ite ?_ ?_
    | with_reducible refine keeps_ite_snd ?_ ?_
    | with_reducible apply keeps_getD
    | split
    | with_reducible refine keeps_of_pair ?_ ‹_ = (_, _)›
    | with_reducible apply keeps_upd')

theorem keeps_scratchLeft {a : State} {n : Nat} {j : BnuJob} {s : State} (hs : Keeps a s) :
    Keeps a (scratchLeft n j s) := by
  unfold scratchLeft
  try dsimp only
  repeat' (first
    | with_reducible assumption
    | (with_reducible refine keeps_forEach (fun _ _ _ => ?_) ?_)
    | with_reducible apply keeps_drawBytes
    | with_reducible apply keeps_slotPut
    | with_reducible refine keeps_ite ?_ ?_)

theorem keeps_bnuOffline {a : State} {n : Nat} {detail : Nat} {s : State} (hs : Keeps a s) :
    Keeps a (bnuOffline n detail s) := by
  unfold bnuOffline
  try dsimp only
  repeat' (first
    | with_reducible assumption
    | with_reducible apply keeps_drbgDrop
    | with_reducible apply keeps_fsetB
    | with_reducible apply keeps_backlogShow
    | with_reducible apply keeps_cairnFault
    | with_reducible apply keeps_raiseOnce)

theorem keeps_jobsAbort {a : State} {n : Nat} {flags : Nat} {sel : BnuJob → Bool} {s : State} (hs : Keeps a s) :
    Keeps a (jobsAbort n flags sel s).2 := by
  unfold jobsAbort
  try dsimp only
  repeat' (first
    | with_reducible assumption
    | with_reducible apply keeps_bnuSet
    | with_reducible apply keeps_jobFail
    | with_reducible refine keeps_foldl _ (fun _ _ _ => ?_) _ ?_
    | with_reducible refine keeps_foldl_pair _ (fun _ _ _ => ?_) _ ?_
    | with_reducible refine keeps_ite ?_ ?_
    | with_reducible refine keeps_ite_snd ?_ ?_
    | with_reducible apply keeps_upd')

theorem keeps_selftestStart {a : State} {n : Nat} {s : State} (hs : Keeps a s) :
    Keeps a (selftestStart n s) := by
  unfold selftestStart
  try dsimp only
  repeat' (first
    | with_reducible assumption
    | with_reducible apply keeps_bnuSet
    | with_reducible refine keeps_ite ?_ ?_
    | with_reducible apply keeps_upd')

theorem keeps_selftestEnd {a : State} {n : Nat} {pass : Bool} {s : State} (hs : Keeps a s) :
    Keeps a (selftestEnd n pass s) := by
  unfold selftestEnd
  try dsimp only
  repeat' (first
    | with_reducible assumption
    | with_reducible apply keeps_bnuSet
    | with_reducible apply keeps_fsetB
    | with_reducible apply keeps_backlogShow
    | with_reducible apply keeps_drbgServe
    | with_reducible apply keeps_bnuOffline
    | with_reducible refine keeps_ite ?_ ?_
    | with_reducible apply keeps_upd')

theorem keeps_esBlock {a : State} {raw : List Byte} {s : State} (hs : Keeps a s) :
    Keeps a (esBlock raw s) := by
  unfold esBlock
  try dsimp only
  repeat' (first
    | with_reducible assumption
    | with_reducible apply keeps_fset
    | with_reducible apply keeps_drbgServe
    | with_reducible apply keeps_fsetB
    | with_reducible apply keeps_cairnFault
    | with_reducible apply keeps_raiseOnce
    | with_reducible apply keeps_bump
    | with_reducible apply keeps_setLevel
    | with_reducible refine keeps_ite ?_ ?_
    | with_reducible apply keeps_upd')

theorem keeps_esRestart {a : State} {s : State} (hs : Keeps a s) :
    Keeps a (esRestart s) := by
  unfold esRestart
  try dsimp only
  repeat' (first
    | with_reducible assumption
    | with_reducible apply keeps_fset
    | with_reducible refine keeps_ite ?_ ?_)

theorem keeps_esRevive {a : State} {s : State} (hs : Keeps a s) :
    Keeps a (esRevive s) := by
  unfold esRevive
  try dsimp only
  repeat' (first
    | with_reducible assumption
    | with_reducible apply keeps_setLevel
    | with_reducible apply keeps_fset
    | with_reducible refine keeps_ite ?_ ?_)

theorem keeps_drbgReseed {a : State} {i : Nat} {s : State} (hs : Keeps a s) :
    Keeps a (drbgReseed i s) := by
  unfold drbgReseed
  try dsimp only
  repeat' (first
    | with_reducible assumption
    | with_reducible apply keeps_drbgAgain
    | with_reducible refine keeps_ite ?_ ?_)

theorem keeps_drbgStop {a : State} {i : Nat} {s : State} (hs : Keeps a s) :
    Keeps a (drbgStop i s) := by
  unfold drbgStop
  try dsimp only
  repeat' (first
    | with_reducible assumption
    | with_reducible apply keeps_drbgHalt
    | with_reducible refine keeps_ite ?_ ?_)

theorem keeps_bnuRand {a : State} {i : Initiator} {s : State} (hs : Keeps a s) :
    Keeps a (bnuRand i s).2 := by
  unfold bnuRand
  try dsimp only
  repeat' (first
    | with_reducible assumption
    | with_reducible apply keeps_drbgGen
    | with_reducible apply keeps_bump
    | with_reducible apply keeps_fset
    | with_reducible refine keeps_ite ?_ ?_
    | with_reducible refine keeps_ite_snd ?_ ?_
    | split
    | with_reducible refine keeps_of_pair ?_ ‹_ = (_, _)›
    | with_reducible apply keeps_upd')

theorem keeps_bnuPop {a : State} {n : Nat} {s : State} (hs : Keeps a s) :
    Keeps a (bnuPop n s).2 := by
  unfold bnuPop
  try dsimp only
  repeat' (first
    | with_reducible assumption
    | with_reducible apply keeps_bnuSet
    | split
    | with_reducible apply keeps_upd')

theorem keeps_slotLength {a : State} {n : Nat} {w : Nat} {s : State} (hs : Keeps a s) :
    Keeps a (slotLength n w s) := by
  unfold slotLength
  try dsimp only
  repeat' (first
    | with_reducible assumption
    | with_reducible apply keeps_slotsClear
    | with_reducible apply keeps_wr)

theorem keeps_execBnuWindowWrite {i : Initiator} {unit : Nat} {off : Nat} {v : Word} {s : State}  :
    RKeeps s (execBnuWindowWrite i unit off v s) := by
  unfold execBnuWindowWrite
  first
    | with_reducible refine rkeeps_run ?_
    | with_reducible refine rkeeps_runIf ?_
    | with_reducible refine rkeeps_next ?_
    | (unfold keRun; with_reducible refine rkeeps_runIf ?_)
  try dsimp only
  repeat' (first
    | with_reducible assumption
    | with_reducible exact Keeps_refl _
    | with_reducible apply keeps_bnuWinWrite)

theorem keeps_execBnuJobStart {n : Nat} {s : State}  :
    RKeeps s (execBnuJobStart n s) := by
  unfold execBnuJobStart
  first
    | with_reducible refine rkeeps_run ?_
    | with_reducible refine rkeeps_runIf ?_
    | with_reducible refine rkeeps_next ?_
    | (unfold keRun; with_reducible refine rkeeps_runIf ?_)
  try dsimp only
  repeat' (first
    | with_reducible assumption
    | with_reducible exact Keeps_refl _
    | with_reducible apply keeps_bnuStart)

theorem keeps_execBnuYield {n : Nat} {left : Nat} {s : State}  :
    RKeeps s (execBnuYield n left s) := by
  unfold execBnuYield
  first
    | with_reducible refine rkeeps_run ?_
    | with_reducible refine rkeeps_runIf ?_
    | with_reducible refine rkeeps_next ?_
    | (unfold keRun; with_reducible refine rkeeps_runIf ?_)
  try dsimp only
  repeat' (first
    | with_reducible assumption
    | with_reducible exact Keeps_refl _
    | with_reducible apply keeps_bnuYield)

theorem keeps_execBnuSelftestDone {n : Nat} {pass : Bool} {s : State}  :
    RKeeps s (execBnuSelftestDone n pass s) := by
  unfold execBnuSelftestDone
  first
    | with_reducible refine rkeeps_run ?_
    | with_reducible refine rkeeps_runIf ?_
    | with_reducible refine rkeeps_next ?_
    | (unfold keRun; with_reducible refine rkeeps_runIf ?_)
  try dsimp only
  repeat' (first
    | with_reducible assumption
    | with_reducible exact Keeps_refl _
    | with_reducible apply keeps_selftestEnd
    | with_reducible refine keeps_ite ?_ ?_)

theorem keeps_execEsBlock {raw : List Byte} {s : State}  :
    RKeeps s (execEsBlock raw s) := by
  unfold execEsBlock
  first
    | with_reducible refine rkeeps_run ?_
    | with_reducible refine rkeeps_runIf ?_
    | with_reducible refine rkeeps_next ?_
    | (unfold keRun; with_reducible refine rkeeps_runIf ?_)
  try dsimp only
  repeat' (first
    | with_reducible assumption
    | with_reducible exact Keeps_refl _
    | with_reducible apply keeps_esBlock)

theorem keeps_execEsRestart {s : State}  :
    RKeeps s (execEsRestart s) := by
  unfold execEsRestart
  first
    | with_reducible refine rkeeps_run ?_
    | with_reducible refine rkeeps_runIf ?_
    | with_reducible refine rkeeps_next ?_
    | (unfold keRun; with_reducible refine rkeeps_runIf ?_)
  try dsimp only
  repeat' (first
    | with_reducible assumption
    | with_reducible exact Keeps_refl _
    | with_reducible apply keeps_esRestart)

theorem keeps_execDrbgReseed {n : Nat} {s : State}  :
    RKeeps s (execDrbgReseed n s) := by
  unfold execDrbgReseed
  first
    | with_reducible refine rkeeps_run ?_
    | with_reducible refine rkeeps_runIf ?_
    | with_reducible refine rkeeps_next ?_
    | (unfold keRun; with_reducible refine rkeeps_runIf ?_)
  try dsimp only
  repeat' (first
    | with_reducible assumption
    | with_reducible exact Keeps_refl _
    | with_reducible apply keeps_drbgReseed)

theorem keeps_execDrbgStale {n : Nat} {s : State}  :
    RKeeps s (execDrbgStale n s) := by
  unfold execDrbgStale
  first
    | with_reducible refine rkeeps_run ?_
    | with_reducible refine rkeeps_runIf ?_
    | with_reducible refine rkeeps_next ?_
    | (unfold keRun; with_reducible refine rkeeps_runIf ?_)
  try dsimp only
  repeat' (first
    | with_reducible assumption
    | with_reducible exact Keeps_refl _
    | with_reducible apply keeps_drbgStop)

end Sys2Proof.Laws
end

