-- ==== Sys2Proof/Laws/KeepsTls.lean ====
section
/-!
SUPPORT. Laws/KeepsTls.lean: the functions of Machine/Tls.lean keep what every command keeps (Keeps of Safety.lean).
-/
namespace Sys2Proof.Laws
open Sys2Proof Sys2Proof.Machine

set_option linter.unusedTactic false
set_option linter.unreachableTactic false
set_option linter.unusedVariables false

theorem keeps_keySign {a : State} {n : Nat} {i : KeIdent} {salt : List Byte} {m : List Byte} {s : State} (hs : Keeps a s) :
    Keeps a (keySign n i salt m s).2.2 := by
  unfold keySign
  try dsimp only
  repeat' (first
    | with_reducible assumption
    | with_reducible apply keeps_drbgScalar
    | with_reducible refine keeps_ite ?_ ?_
    | with_reducible refine keeps_ite_snd ?_ ?_
    | split
    | with_reducible refine keeps_of_pair ?_ ‹_ = (_, _)›
    | with_reducible apply keeps_upd')

end Sys2Proof.Laws
end

