-- ==== Sys2Proof/Laws/KeepsKe.lean ====
section
/-!
SUPPORT. Laws/KeepsKe.lean: the functions of Machine/Ke.lean keep what every command keeps (Keeps of Safety.lean).
-/
namespace Sys2Proof.Laws
open Sys2Proof Sys2Proof.Machine

set_option linter.unusedTactic false
set_option linter.unreachableTactic false
set_option linter.unusedVariables false

theorem keeps_tcpReply {a : State} {x : Punt} {seq : Nat} {ack : Nat} {flags : Nat} {opts : List Byte} {s : State} (hs : Keeps a s) :
    Keeps a (tcpReply x seq ack flags opts s) := by
  unfold tcpReply
  try dsimp only
  repeat' (first
    | with_reducible assumption
    | with_reducible apply keeps_fwInject
    | split
    | with_reducible apply keeps_upd')

theorem keeps_connShow {a : State} {s : State} (hs : Keeps a s) :
    Keeps a (connShow s) := by
  unfold connShow
  try dsimp only
  repeat' (first
    | with_reducible assumption
    | with_reducible apply keeps_fmax
    | with_reducible apply keeps_fset)

theorem keeps_connSet {a : State} {c : Nat} {x : Option KeConn} {s : State} (hs : Keeps a s) :
    Keeps a (connSet c x s) := by
  unfold connSet
  try dsimp only
  repeat' (first
    | with_reducible assumption
    | with_reducible apply keeps_connShow
    | with_reducible apply keeps_upd_conns
    | with_reducible apply keeps_upd')

theorem keeps_keCount {a : State} {j : Nat} {agg : Bool} {s : State} (hs : Keeps a s) :
    Keeps a (keCount j agg s) := by
  unfold keCount
  try dsimp only
  repeat' (first
    | with_reducible assumption
    | with_reducible apply keeps_bump
    | with_reducible apply keeps_cairnAgg
    | with_reducible refine keeps_ite ?_ ?_)

theorem keeps_keTake {a : State} {r : Nat} {s : State} (hs : Keeps a s) :
    OPKeeps a (keTake r s) := by
  unfold keTake
  try dsimp only
  repeat' (first
    | with_reducible assumption
    | with_reducible apply keeps_frameFree
    | with_reducible apply keeps_puntsSet
    | with_reducible refine keeps_ite ?_ ?_
    | with_reducible refine keeps_ite_snd ?_ ?_
    | with_reducible refine opkeeps_ite ?_ ?_
    | with_reducible apply opkeeps_some
    | with_reducible exact opkeeps_none
    | split
    | with_reducible apply keeps_upd')

theorem keeps_connSend {a : State} {c : KeConn} {flags : Nat} {s : State} (hs : Keeps a s) :
    Keeps a (connSend c flags s) := by
  unfold connSend
  try dsimp only
  repeat' (first
    | with_reducible assumption
    | with_reducible apply keeps_fwInject)

theorem keeps_segSend {a : State} {c : KeConn} {seq : Nat} {x : List Byte × Bool} {s : State} (hs : Keeps a s) :
    Keeps a (segSend c seq x s) := by
  unfold segSend
  try dsimp only
  repeat' (first
    | with_reducible assumption
    | with_reducible apply keeps_fwInject
    | with_reducible refine keeps_ite ?_ ?_)

theorem keeps_connPush {a : State} {x0 : Nat} {x1 : Nat} {x2 : State} (hx2 : Keeps a x2) :
    Keeps a (connPush x0 x1 x2) := by
  induction x0 generalizing x1 x2 with
  | zero =>
    unfold connPush
    try dsimp only
    repeat' (first
      | with_reducible assumption
      | fail
      | with_reducible apply keeps_connSet
      | with_reducible apply keeps_segSend
      | with_reducible refine keeps_ite ?_ ?_
      | split
      | with_reducible apply keeps_upd')
  | succ n ih =>
    unfold connPush
    try dsimp only
    repeat' (first
      | with_reducible assumption
      | with_reducible apply ih
      | with_reducible apply keeps_connSet
      | with_reducible apply keeps_segSend
      | with_reducible refine keeps_ite ?_ ?_
      | split
      | with_reducible apply keeps_upd')

theorem keeps_connBytes {a : State} {k : Nat} {c : KeConn} {fin : Bool} {bs : List Byte} {s : State} (hs : Keeps a s) :
    Keeps a (connBytes k c fin bs s) := by
  unfold connBytes
  try dsimp only
  repeat' (first
    | with_reducible assumption
    | with_reducible apply keeps_connPush
    | with_reducible apply keeps_connSet
    | with_reducible apply keeps_upd')

theorem keeps_connData {a : State} {k : Nat} {c : KeConn} {fin : Bool} {rs : List (Nat × List Byte)} {s : State} (hs : Keeps a s) :
    Keeps a (connData k c fin rs s) := by
  unfold connData
  try dsimp only
  repeat' (first
    | with_reducible assumption
    | with_reducible apply keeps_connBytes
    | with_reducible refine keeps_foldl _ (fun _ _ _ => ?_) _ ?_
    | with_reducible refine keeps_foldl_pair _ (fun _ _ _ => ?_) _ ?_)

theorem keeps_connAbort {a : State} {k : Nat} {s : State} (hs : Keeps a s) :
    Keeps a (connAbort k s) := by
  unfold connAbort
  try dsimp only
  repeat' (first
    | with_reducible assumption
    | (with_reducible refine keeps_forEach (fun _ _ _ => ?_) ?_)
    | with_reducible apply keeps_jobsAbort
    | with_reducible refine keeps_ite ?_ ?_)

theorem keeps_connFree {a : State} {k : Nat} {s : State} (hs : Keeps a s) :
    Keeps a (connFree k s) := by
  unfold connFree
  try dsimp only
  repeat' (first
    | with_reducible assumption
    | with_reducible apply keeps_connSet
    | with_reducible apply keeps_connAbort)

theorem keeps_connReset {a : State} {k : Nat} {s : State} (hs : Keeps a s) :
    Keeps a (connReset k s) := by
  unfold connReset
  try dsimp only
  repeat' (first
    | with_reducible assumption
    | with_reducible apply keeps_connFree
    | with_reducible apply keeps_connSend
    | split
    | with_reducible apply keeps_upd')

theorem keeps_connDone {a : State} {k : Nat} {s : State} (hs : Keeps a s) :
    Keeps a (connDone k s) := by
  unfold connDone
  try dsimp only
  repeat' (first
    | with_reducible assumption
    | with_reducible apply keeps_connFree
    | with_reducible refine keeps_ite ?_ ?_
    | split
    | with_reducible apply keeps_upd')

theorem keeps_keAlert {a : State} {k : Nat} {a0 : Nat} {s : State} (hs : Keeps a s) :
    Keeps a (keAlert k a0 s) := by
  unfold keAlert
  try dsimp only
  repeat' (first
    | with_reducible assumption
    | with_reducible apply keeps_connDone
    | with_reducible apply keeps_connData
    | with_reducible apply keeps_connAbort
    | with_reducible apply keeps_keCount
    | split
    | with_reducible apply keeps_upd')

theorem keeps_keSubmit {a : State} {k : Nat} {s : State} (hs : Keeps a s) :
    Keeps a (keSubmit k s) := by
  unfold keSubmit
  try dsimp only
  repeat' (first
    | with_reducible assumption
    | with_reducible apply keeps_jobAccept
    | with_reducible apply keeps_connSet
    | with_reducible refine keeps_ite ?_ ?_
    | split
    | with_reducible apply keeps_upd')

theorem keeps_keFeed {a : State} {s : State} (hs : Keeps a s) :
    Keeps a (keFeed s) := by
  unfold keFeed
  try dsimp only
  repeat' (first
    | with_reducible assumption
    | (with_reducible refine keeps_forEach (fun _ _ _ => ?_) ?_)
    | with_reducible apply keeps_keSubmit)

theorem keeps_keSyn {a : State} {r : Nat} {s : State} (hs : Keeps a s) :
    Keeps a (keSyn r s) := by
  unfold keSyn
  try dsimp only
  repeat' (first
    | with_reducible assumption
    | with_reducible apply keeps_keTake
    | with_reducible apply keeps_tcpReply
    | with_reducible apply keeps_keCount
    | with_reducible refine keeps_ite ?_ ?_
    | split
    | with_reducible refine keeps_of_osome ?_ ‹_ = some (_, _)›
    | with_reducible apply keeps_upd')

theorem keeps_keAck {a : State} {r : Nat} {s : State} (hs : Keeps a s) :
    Keeps a (keAck r s) := by
  unfold keAck
  try dsimp only
  repeat' (first
    | with_reducible assumption
    | with_reducible apply keeps_keTake
    | with_reducible apply keeps_tcpReply
    | with_reducible apply keeps_keCount
    | with_reducible apply keeps_wr
    | with_reducible apply keeps_connSet
    | with_reducible refine keeps_ite ?_ ?_
    | split
    | with_reducible refine keeps_of_osome ?_ ‹_ = some (_, _)›
    | with_reducible apply keeps_upd')

theorem keeps_keHello {a : State} {k : Nat} {m : List Byte} {s : State} (hs : Keeps a s) :
    Keeps a (keHello k m s) := by
  unfold keHello
  try dsimp only
  repeat' (first
    | with_reducible assumption
    | with_reducible apply keeps_keAlert
    | with_reducible apply keeps_connBytes
    | with_reducible apply keeps_keSubmit
    | with_reducible apply keeps_connSet
    | with_reducible refine keeps_ite ?_ ?_
    | split
    | with_reducible apply keeps_upd')

theorem keeps_cookieMake {a : State} {c2s : List Byte} {s2c : List Byte} {s : State} (hs : Keeps a s) :
    OPKeeps a (cookieMake c2s s2c s) := by
  unfold cookieMake
  split
  · exact opkeeps_none
  · exact opkeeps_ite opkeeps_none (opkeeps_some (keeps_keCount (keeps_drawBytes (keeps_keyMeet hs))))

theorem keeps_cookieRecs {a : State} {c2s : List Byte} {s2c : List Byte} {x0 : Nat} {x1 : State} (hx1 : Keeps a x1) :
    OPKeeps a (cookieRecs c2s s2c x0 x1) := by
  induction x0 generalizing x1 with
  | zero => exact opkeeps_some hx1
  | succ n ih =>
    unfold cookieRecs
    split
    · exact opkeeps_none
    · exact opkeeps_map (ih (keeps_cookieMake hx1 _ ‹_›)) (fun _ h => h)

theorem keeps_ntsAnswer {a : State} {req : List Byte} {c2s : List Byte} {s2c : List Byte} {s : State} (hs : Keeps a s) :
    OPKeeps a (ntsAnswer req c2s s2c s) := by
  unfold ntsAnswer
  extract_lets err
  split
  · exact opkeeps_some (keeps_keCount hs)
  · extract_lets side
    split
    · exact opkeeps_some (keeps_keCount hs)
    · split
      · exact opkeeps_some (keeps_keCount hs)
      · split
        · exact opkeeps_some (keeps_keCount hs)
        · exact opkeeps_map (keeps_cookieRecs hs) (fun _ h => by dsimp only; exact keeps_keCount h)

theorem keeps_keReply {a : State} {k : Nat} {s : State} (hs : Keeps a s) :
    Keeps a (keReply k s) := by
  unfold keReply
  split
  · exact hs
  · split
    · refine keeps_keAlert ?_
      split
      · exact keeps_keyUse hs
      · exact hs
    · exact keeps_connDone (keeps_connData (keeps_ntsAnswer hs _ ‹_›))

theorem keeps_keAct {a : State} {k : Nat} {s : State} {e : TlsEv} (hs : Keeps a s) :
    Keeps a (keAct k s e) := by
  unfold keAct
  try dsimp only
  repeat' (first
    | with_reducible assumption
    | with_reducible apply keeps_connFree
    | with_reducible apply keeps_keCount
    | with_reducible apply keeps_keHello
    | with_reducible apply keeps_connSet
    | with_reducible apply keeps_keAlert
    | with_reducible apply keeps_keReply
    | with_reducible refine keeps_ite ?_ ?_
    | split
    | with_reducible apply keeps_upd')

theorem keeps_keScanOnce {a : State} {k : Nat} {s : State} (hs : Keeps a s) :
    Keeps a (keScanOnce k s) := by
  unfold keScanOnce
  try dsimp only
  repeat' (first
    | with_reducible assumption
    | with_reducible apply keeps_keAct
    | with_reducible apply keeps_connSet
    | with_reducible refine keeps_foldl _ (fun _ _ _ => ?_) _ ?_
    | with_reducible refine keeps_foldl_pair _ (fun _ _ _ => ?_) _ ?_
    | split
    | with_reducible apply keeps_upd')

theorem keeps_keScan {a : State} {k : Nat} {s : State} (hs : Keeps a s) :
    Keeps a (keScan k s) := by
  unfold keScan
  try dsimp only
  repeat' (first
    | with_reducible assumption
    | with_reducible apply keeps_keScanOnce)

theorem keeps_kePeerFin {a : State} {k : Nat} {s : State} (hs : Keeps a s) :
    Keeps a (kePeerFin k s) := by
  unfold kePeerFin
  try dsimp only
  repeat' (first
    | with_reducible assumption
    | with_reducible apply keeps_connDone
    | with_reducible apply keeps_keReply
    | with_reducible refine keeps_ite ?_ ?_
    | split
    | with_reducible apply keeps_upd')

theorem keeps_keInput {a : State} {r : Nat} {s : State} (hs : Keeps a s) :
    Keeps a (keInput r s) := by
  unfold keInput
  try dsimp only
  repeat' (first
    | with_reducible assumption
    | with_reducible apply keeps_keTake
    | with_reducible apply keeps_connFree
    | with_reducible apply keeps_connPush
    | with_reducible apply keeps_connSend
    | with_reducible apply keeps_connSet
    | with_reducible apply keeps_kePeerFin
    | with_reducible apply keeps_keScan
    | with_reducible refine keeps_ite ?_ ?_
    | split
    | with_reducible refine keeps_of_osome ?_ ‹_ = some (_, _)›
    | with_reducible apply keeps_upd')

theorem keeps_keOn {a : State} {kind : Nat} {r : Nat} {s : State} (hs : Keeps a s) :
    Keeps a (keOn kind r s) := by
  unfold keOn
  try dsimp only
  repeat' (first
    | with_reducible assumption
    | with_reducible apply keeps_keTake
    | with_reducible apply keeps_keInput
    | with_reducible refine keeps_ite ?_ ?_
    | split
    | with_reducible refine keeps_of_osome ?_ ‹_ = some (_, _)›
    | with_reducible apply keeps_upd')

theorem keeps_connSig {a : State} {n : Nat} {k : Nat} {s : State} (hs : Keeps a s) :
    Keeps a (connSig n k s).2.2 := by
  unfold connSig
  try dsimp only
  repeat' (first
    | with_reducible assumption
    | with_reducible apply keeps_keySign
    | split
    | with_reducible refine keeps_of_pair ?_ ‹_ = (_, _)›
    | with_reducible apply keeps_upd')

theorem keeps_keFlight {a : State} {n : Nat} {k : Nat} {s : State} (hs : Keeps a s) :
    Keeps a (keFlight n k s) := by
  unfold keFlight
  try dsimp only
  repeat' (first
    | with_reducible assumption
    | with_reducible apply keeps_connSig
    | with_reducible apply keeps_wr
    | with_reducible apply keeps_kePeerFin
    | with_reducible apply keeps_keScan
    | with_reducible apply keeps_connBytes
    | with_reducible refine keeps_foldl _ (fun _ _ _ => ?_) _ ?_
    | with_reducible refine keeps_foldl_pair _ (fun _ _ _ => ?_) _ ?_
    | with_reducible refine keeps_ite ?_ ?_
    | split
    | with_reducible refine keeps_of_pair ?_ ‹_ = (_, _)›
    | with_reducible apply keeps_upd')

theorem keeps_keListen {a : State} {s : State} (hs : Keeps a s) :
    Keeps a (keListen s) := by
  unfold keListen
  try dsimp only
  repeat' (first
    | with_reducible assumption
    | with_reducible apply keeps_cairnState
    | with_reducible apply keeps_fsetB
    | with_reducible refine keeps_ite ?_ ?_)

theorem keeps_identsShow {a : State} {s : State} (hs : Keeps a s) :
    Keeps a (identsShow s) := by
  unfold identsShow
  try dsimp only
  repeat' (first
    | with_reducible assumption
    | (with_reducible refine keeps_forEach (fun _ _ _ => ?_) ?_)
    | with_reducible apply keeps_wr
    | with_reducible apply keeps_keListen
    | with_reducible apply keeps_fset
    | with_reducible refine keeps_ite ?_ ?_
    | split
    | with_reducible apply keeps_upd')

theorem keeps_identUse {a : State} {k : Nat} {s : State} (hs : Keeps a s) :
    Keeps a (identUse k s).2 := by
  unfold identUse
  try dsimp only
  repeat' (first
    | with_reducible assumption
    | with_reducible apply keeps_keyMeet
    | with_reducible apply keeps_identsShow
    | with_reducible apply keeps_keyGone
    | with_reducible refine keeps_ite ?_ ?_
    | with_reducible refine keeps_ite_snd ?_ ?_
    | with_reducible apply keeps_upd')

theorem keeps_keJobDone {a : State} {n : Nat} {j : BnuJob} {status : Nat} {s : State} (hs : Keeps a s) :
    Keeps a (keJobDone n j status s) := by
  unfold keJobDone
  try dsimp only
  repeat' (first
    | with_reducible assumption
    | with_reducible apply keeps_drbgGen
    | with_reducible apply keeps_drbgScalar
    | with_reducible apply keeps_keSubmit
    | with_reducible apply keeps_connSet
    | with_reducible apply keeps_drawBytes
    | with_reducible apply keeps_keAlert
    | with_reducible apply keeps_identUse
    | with_reducible apply keeps_keFlight
    | with_reducible refine keeps_ite ?_ ?_
    | split
    | with_reducible refine keeps_of_pair ?_ ‹_ = (_, _)›
    | with_reducible apply keeps_upd')

theorem keeps_keJobsLost {a : State} {js : List BnuJob} {s : State} (hs : Keeps a s) :
    Keeps a (keJobsLost js s) := by
  unfold keJobsLost
  try dsimp only
  repeat' (first
    | with_reducible assumption
    | with_reducible apply keeps_keJobDone
    | with_reducible refine keeps_foldl _ (fun _ _ _ => ?_) _ ?_
    | with_reducible refine keeps_foldl_pair _ (fun _ _ _ => ?_) _ ?_)

theorem keeps_anySig {a : State} {n : Nat} {j : BnuJob} {s : State} (hs : Keeps a s) :
    Keeps a (anySig n j s).2.2 := by
  unfold anySig
  try dsimp only
  repeat' (first
    | with_reducible assumption
    | with_reducible apply keeps_jobSig
    | with_reducible apply keeps_connSig
    | split
    | with_reducible refine keeps_of_pair ?_ ‹_ = (_, _)›
    | with_reducible apply keeps_upd')

theorem keeps_bnuComplete {a : State} {n : Nat} {fault : Nat} {s : State} (hs : Keeps a s) :
    Keeps a (bnuComplete n fault s).2 := by
  unfold bnuComplete
  try dsimp only
  repeat' (first
    | with_reducible assumption
    | with_reducible apply keeps_bnuSet
    | with_reducible apply keeps_jobFail
    | with_reducible apply keeps_anySig
    | with_reducible apply keeps_raiseOnce
    | with_reducible apply keeps_bump
    | with_reducible apply keeps_fsetB
    | with_reducible apply keeps_jobsAbort
    | with_reducible apply keeps_bnuOffline
    | with_reducible apply keeps_jobResult
    | with_reducible apply keeps_slotsRelease
    | with_reducible apply keeps_scratchLeft
    | with_reducible apply keeps_cplPost
    | with_reducible refine keeps_ite ?_ ?_
    | with_reducible refine keeps_ite_snd ?_ ?_
    | split
    | with_reducible refine keeps_of_pair ?_ ‹_ = (_, _)›
    | with_reducible apply keeps_upd')

theorem keeps_keTimeout {a : State} {k : Nat} {s : State} (hs : Keeps a s) :
    Keeps a (keTimeout k s) := by
  unfold keTimeout
  try dsimp only
  repeat' (first
    | with_reducible assumption
    | with_reducible apply keeps_connReset
    | with_reducible apply keeps_keCount
    | with_reducible refine keeps_ite ?_ ?_
    | split
    | with_reducible apply keeps_upd')

theorem keeps_keLinger {a : State} {k : Nat} {s : State} (hs : Keeps a s) :
    Keeps a (keLinger k s) := by
  unfold keLinger
  try dsimp only
  repeat' (first
    | with_reducible assumption
    | with_reducible apply keeps_connFree
    | with_reducible apply keeps_connReset
    | with_reducible apply keeps_keCount
    | with_reducible refine keeps_ite ?_ ?_
    | split
    | with_reducible apply keeps_upd')

theorem keeps_keRetrans {a : State} {k : Nat} {s : State} (hs : Keeps a s) :
    Keeps a (keRetrans k s) := by
  unfold keRetrans
  try dsimp only
  repeat' (first
    | with_reducible assumption
    | with_reducible apply keeps_connReset
    | with_reducible apply keeps_segSend
    | with_reducible apply keeps_connSet
    | with_reducible refine keeps_ite ?_ ?_
    | split
    | with_reducible apply keeps_upd')

theorem keeps_identWarn {a : State} {k : Nat} {s : State} (hs : Keeps a s) :
    Keeps a (identWarn k s) := by
  unfold identWarn
  try dsimp only
  repeat' (first
    | with_reducible assumption
    | with_reducible apply keeps_cairnFault
    | with_reducible refine keeps_ite ?_ ?_
    | split
    | with_reducible apply keeps_upd')

theorem keeps_keApply {a : State} {a0 : Nat} {stored : State} (hstored : Keeps a stored) :
    OKeeps a (keApply a0 stored) := by
  unfold keApply
  try dsimp only
  repeat' (first
    | with_reducible assumption
    | with_reducible apply keeps_keListen
    | with_reducible refine keeps_ite ?_ ?_
    | with_reducible refine okeeps_ite ?_ ?_
    | with_reducible apply okeeps_some
    | with_reducible exact okeeps_none
    | with_reducible refine okeeps_map ?_ (fun _ _ => ?_)
    | with_reducible apply okeeps_orElse)

theorem keeps_keCloseAll {a : State} {s : State} (hs : Keeps a s) :
    Keeps a (keCloseAll s) := by
  unfold keCloseAll
  try dsimp only
  repeat' (first
    | with_reducible assumption
    | (with_reducible refine keeps_forEach (fun _ _ _ => ?_) ?_)
    | with_reducible apply keeps_connFree
    | with_reducible apply keeps_connData
    | split
    | with_reducible apply keeps_upd')

theorem keeps_execKeSyn {ring : Nat} {s : State}  :
    RKeeps s (execKeSyn ring s) := by
  unfold execKeSyn
  first
    | with_reducible refine rkeeps_run ?_
    | with_reducible refine rkeeps_runIf ?_
    | with_reducible refine rkeeps_next ?_
    | (unfold keRun; with_reducible refine rkeeps_runIf ?_)
  try dsimp only
  repeat' (first
    | with_reducible assumption
    | with_reducible exact Keeps_refl _
    | with_reducible apply keeps_keSyn)

theorem keeps_execKeHandshakeAck {ring : Nat} {s : State}  :
    RKeeps s (execKeHandshakeAck ring s) := by
  unfold execKeHandshakeAck
  first
    | with_reducible refine rkeeps_run ?_
    | with_reducible refine rkeeps_runIf ?_
    | with_reducible refine rkeeps_next ?_
    | (unfold keRun; with_reducible refine rkeeps_runIf ?_)
  try dsimp only
  repeat' (first
    | with_reducible assumption
    | with_reducible exact Keeps_refl _
    | with_reducible apply keeps_keAck)

theorem keeps_execKeClientHello {ring : Nat} {s : State}  :
    RKeeps s (execKeClientHello ring s) := by
  unfold execKeClientHello
  first
    | with_reducible refine rkeeps_run ?_
    | with_reducible refine rkeeps_runIf ?_
    | with_reducible refine rkeeps_next ?_
    | (unfold keRun; with_reducible refine rkeeps_runIf ?_)
  try dsimp only
  repeat' (first
    | with_reducible assumption
    | with_reducible exact Keeps_refl _
    | with_reducible apply keeps_keOn)

theorem keeps_execKeClientFinished {ring : Nat} {_ok : Unit} {_req : Unit} {_c2s : Unit} {_s2c : Unit} {s : State}  :
    RKeeps s (execKeClientFinished ring _ok _req _c2s _s2c s) := by
  unfold execKeClientFinished
  first
    | with_reducible refine rkeeps_run ?_
    | with_reducible refine rkeeps_runIf ?_
    | with_reducible refine rkeeps_next ?_
    | (unfold keRun; with_reducible refine rkeeps_runIf ?_)
  try dsimp only
  repeat' (first
    | with_reducible assumption
    | with_reducible exact Keeps_refl _
    | with_reducible apply keeps_keOn)

theorem keeps_execKeAlertRx {ring : Nat} {s : State}  :
    RKeeps s (execKeAlertRx ring s) := by
  unfold execKeAlertRx
  first
    | with_reducible refine rkeeps_run ?_
    | with_reducible refine rkeeps_runIf ?_
    | with_reducible refine rkeeps_next ?_
    | (unfold keRun; with_reducible refine rkeeps_runIf ?_)
  try dsimp only
  repeat' (first
    | with_reducible assumption
    | with_reducible exact Keeps_refl _
    | with_reducible apply keeps_keOn)

theorem keeps_execKeKeyUpdate {ring : Nat} {s : State}  :
    RKeeps s (execKeKeyUpdate ring s) := by
  unfold execKeKeyUpdate
  first
    | with_reducible refine rkeeps_run ?_
    | with_reducible refine rkeeps_runIf ?_
    | with_reducible refine rkeeps_next ?_
    | (unfold keRun; with_reducible refine rkeeps_runIf ?_)
  try dsimp only
  repeat' (first
    | with_reducible assumption
    | with_reducible exact Keeps_refl _
    | with_reducible apply keeps_keOn)

theorem keeps_execKePeerFin {ring : Nat} {s : State}  :
    RKeeps s (execKePeerFin ring s) := by
  unfold execKePeerFin
  first
    | with_reducible refine rkeeps_run ?_
    | with_reducible refine rkeeps_runIf ?_
    | with_reducible refine rkeeps_next ?_
    | (unfold keRun; with_reducible refine rkeeps_runIf ?_)
  try dsimp only
  repeat' (first
    | with_reducible assumption
    | with_reducible exact Keeps_refl _
    | with_reducible apply keeps_keOn)

theorem keeps_execKeSegment {ring : Nat} {_alert : Unit} {s : State}  :
    RKeeps s (execKeSegment ring _alert s) := by
  unfold execKeSegment
  first
    | with_reducible refine rkeeps_run ?_
    | with_reducible refine rkeeps_runIf ?_
    | with_reducible refine rkeeps_next ?_
    | (unfold keRun; with_reducible refine rkeeps_runIf ?_)
  try dsimp only
  repeat' (first
    | with_reducible assumption
    | with_reducible exact Keeps_refl _
    | with_reducible apply keeps_keOn)

theorem keeps_execKeHsTimeout {conn : Nat} {s : State}  :
    RKeeps s (execKeHsTimeout conn s) := by
  unfold execKeHsTimeout
  first
    | with_reducible refine rkeeps_run ?_
    | with_reducible refine rkeeps_runIf ?_
    | with_reducible refine rkeeps_next ?_
    | (unfold keRun; with_reducible refine rkeeps_runIf ?_)
  try dsimp only
  repeat' (first
    | with_reducible assumption
    | with_reducible exact Keeps_refl _
    | with_reducible apply keeps_keTimeout)

theorem keeps_execKeLingerTimeout {conn : Nat} {s : State}  :
    RKeeps s (execKeLingerTimeout conn s) := by
  unfold execKeLingerTimeout
  first
    | with_reducible refine rkeeps_run ?_
    | with_reducible refine rkeeps_runIf ?_
    | with_reducible refine rkeeps_next ?_
    | (unfold keRun; with_reducible refine rkeeps_runIf ?_)
  try dsimp only
  repeat' (first
    | with_reducible assumption
    | with_reducible exact Keeps_refl _
    | with_reducible apply keeps_keLinger)

theorem keeps_execKeRto {conn : Nat} {s : State}  :
    RKeeps s (execKeRto conn s) := by
  unfold execKeRto
  first
    | with_reducible refine rkeeps_run ?_
    | with_reducible refine rkeeps_runIf ?_
    | with_reducible refine rkeeps_next ?_
    | (unfold keRun; with_reducible refine rkeeps_runIf ?_)
  try dsimp only
  repeat' (first
    | with_reducible assumption
    | with_reducible exact Keeps_refl _
    | with_reducible apply keeps_keRetrans)

theorem keeps_execIdentExpiry {n : Nat} {s : State}  :
    RKeeps s (execIdentExpiry n s) := by
  unfold execIdentExpiry
  first
    | with_reducible refine rkeeps_run ?_
    | with_reducible refine rkeeps_runIf ?_
    | with_reducible refine rkeeps_next ?_
    | (unfold keRun; with_reducible refine rkeeps_runIf ?_)
  try dsimp only
  repeat' (first
    | with_reducible assumption
    | with_reducible exact Keeps_refl _
    | with_reducible apply keeps_identsShow
    | with_reducible refine keeps_ite ?_ ?_
    | with_reducible refine keeps_ite_fun ?_ ?_
    | with_reducible apply keeps_id)

theorem keeps_execIdentExpiryWarning {n : Nat} {s : State}  :
    RKeeps s (execIdentExpiryWarning n s) := by
  unfold execIdentExpiryWarning
  first
    | with_reducible refine rkeeps_run ?_
    | with_reducible refine rkeeps_runIf ?_
    | with_reducible refine rkeeps_next ?_
    | (unfold keRun; with_reducible refine rkeeps_runIf ?_)
  try dsimp only
  repeat' (first
    | with_reducible assumption
    | with_reducible exact Keeps_refl _
    | with_reducible apply keeps_identWarn)

theorem keeps_execBnuJobComplete {n : Nat} {fault : Nat} {s : State}  :
    RKeeps s (execBnuJobComplete n fault s) := by
  unfold execBnuJobComplete
  first
    | with_reducible refine rkeeps_run ?_
    | with_reducible refine rkeeps_runIf ?_
    | with_reducible refine rkeeps_next ?_
    | (unfold keRun; with_reducible refine rkeeps_runIf ?_)
  try dsimp only
  repeat' (first
    | with_reducible assumption
    | with_reducible exact Keeps_refl _
    | with_reducible apply keeps_bnuComplete
    | with_reducible apply keeps_keFeed
    | with_reducible apply keeps_keJobsLost
    | with_reducible apply keeps_keJobDone
    | split
    | with_reducible refine keeps_of_pair ?_ ‹_ = (_, _)›
    | with_reducible apply keeps_upd')

end Sys2Proof.Laws
end

