-- ==== Sys2Proof/Laws/KeepsAccess.lean ====
section
/-!
SUPPORT. Laws/KeepsAccess.lean: the functions of Machine/Access.lean keep what every command keeps (Keeps of Safety.lean).
-/
namespace Sys2Proof.Laws
open Sys2Proof Sys2Proof.Machine

set_option linter.unusedTactic false
set_option linter.unreachableTactic false
set_option linter.unusedVariables false

theorem keeps_storePlain {a : State} {a0 : Nat} {v : Word} {s : State} (hs : Keeps a s) :
    Keeps a (storePlain a0 v s) := by
  unfold storePlain
  try dsimp only
  repeat' (first
    | with_reducible assumption
    | with_reducible apply keeps_wr
    | with_reducible refine keeps_foldl _ (fun _ _ _ => ?_) _ ?_
    | with_reducible refine keeps_foldl_pair _ (fun _ _ _ => ?_) _ ?_
    | split
    | with_reducible apply keeps_upd')

theorem keeps_journalCmd {a : State} {cmd : Nat} {body : List Byte} {s : State} (hs : Keeps a s) :
    Keeps a (journalCmd cmd body s) := by
  unfold journalCmd
  try dsimp only
  repeat' (first
    | with_reducible assumption
    | with_reducible apply keeps_journal)

theorem keeps_svcAddrDo {a : State} {b : List Byte} {s : State} (hs : Keeps a s) :
    CKeeps a (svcAddrDo b s) := by
  unfold svcAddrDo
  try dsimp only
  repeat' (first
    | with_reducible assumption
    | with_reducible apply keeps_svcSetAddrs
    | with_reducible refine keeps_foldl _ (fun _ _ _ => ?_) _ ?_
    | with_reducible refine keeps_foldl_pair _ (fun _ _ _ => ?_) _ ?_
    | with_reducible refine keeps_ite ?_ ?_
    | with_reducible refine ckeeps_ite ?_ ?_
    | with_reducible exact ckeeps_no
    | with_reducible apply ckeeps_ok
    | with_reducible apply ckeeps_cut
    | with_reducible apply ckeeps_wait
    | split
    | with_reducible refine keeps_of_some ?_ ‹_ = some _›
    | with_reducible apply keeps_upd')

theorem keeps_ntpProfDo {a : State} {b : List Byte} {s : State} (hs : Keeps a s) :
    CKeeps a (ntpProfDo b s) := by
  unfold ntpProfDo
  try dsimp only
  repeat' (first
    | with_reducible assumption
    | with_reducible apply keeps_svcSync
    | with_reducible apply keeps_storePlain
    | with_reducible refine keeps_ite ?_ ?_
    | with_reducible refine ckeeps_ite ?_ ?_
    | with_reducible exact ckeeps_no
    | with_reducible apply ckeeps_ok
    | with_reducible apply ckeeps_cut
    | with_reducible apply ckeeps_wait)

theorem keeps_identKeys {a : State} {s : State} (hs : Keeps a s) :
    Keeps a (identKeys s) := by
  unfold identKeys
  try dsimp only
  repeat' (first
    | with_reducible assumption
    | (with_reducible refine keeps_forEach (fun _ _ _ => ?_) ?_)
    | with_reducible apply keeps_keyPut
    | with_reducible refine keeps_foldl _ (fun _ _ _ => ?_) _ ?_
    | with_reducible refine keeps_foldl_pair _ (fun _ _ _ => ?_) _ ?_
    | with_reducible refine keeps_ite ?_ ?_
    | with_reducible apply keeps_upd')

theorem keeps_identsSet {a : State} {server : List Byte} {ids : List KeIdent} {s : State} (hs : Keeps a s) :
    Keeps a (identsSet server ids s) := by
  unfold identsSet
  try dsimp only
  repeat' (first
    | with_reducible assumption
    | with_reducible apply keeps_identsShow
    | with_reducible apply keeps_identKeys
    | (with_reducible refine keeps_forEach (fun _ _ _ => ?_) ?_)
    | with_reducible apply keeps_cairnFault
    | with_reducible refine keeps_ite ?_ ?_
    | split
    | with_reducible apply keeps_upd')

theorem keeps_keIdentDo {a : State} {b : List Byte} {s : State} (hs : Keeps a s) :
    CKeeps a (keIdentDo b s) := by
  unfold keIdentDo
  try dsimp only
  repeat' (first
    | with_reducible assumption
    | with_reducible apply keeps_identsSet
    | with_reducible refine keeps_ite ?_ ?_
    | with_reducible refine ckeeps_ite ?_ ?_
    | with_reducible exact ckeeps_no
    | with_reducible apply ckeeps_ok
    | with_reducible apply ckeeps_cut
    | with_reducible apply ckeeps_wait
    | split
    | with_reducible apply keeps_upd')

theorem keeps_mirrored {a : State} {cmd : Nat} {f : List Byte → State → CRes} {b : List Byte} {s : State} (hf : ∀ y0 b, Keeps a b → CKeeps a (f y0 b)) (hs : Keeps a s) :
    CKeeps a (mirrored cmd f b s) := by
  unfold mirrored
  try dsimp only
  repeat' (first
    | with_reducible assumption
    | with_reducible apply keeps_journalCmd
    | with_reducible refine keeps_ite ?_ ?_
    | with_reducible refine ckeeps_ite ?_ ?_
    | with_reducible exact ckeeps_no
    | with_reducible apply ckeeps_ok
    | with_reducible apply ckeeps_cut
    | with_reducible apply ckeeps_wait
    | with_reducible apply hf
    | split
    | with_reducible refine keeps_of_cok ?_ ‹_ = CRes.ok _ _›
    | with_reducible refine keeps_of_ccut ?_ ‹_ = CRes.cut _ _ _›
    | with_reducible refine keeps_of_cwait ?_ ‹_ = CRes.wait _›
    | with_reducible apply keeps_upd')

theorem keeps_configApply {a : State} {b : List Byte} {s : State} (hs : Keeps a s) :
    Keeps a (configApply b s) := by
  unfold configApply
  try dsimp only
  repeat' (first
    | with_reducible assumption
    | with_reducible apply keeps_svcAddrDo
    | with_reducible apply keeps_ntpProfDo
    | with_reducible apply keeps_keIdentDo
    | split
    | with_reducible exact ckeeps_no
    | with_reducible apply ckeeps_ok
    | with_reducible apply ckeeps_cut
    | with_reducible apply ckeeps_wait
    | with_reducible refine keeps_of_cok ?_ ‹_ = CRes.ok _ _›
    | with_reducible refine keeps_of_ccut ?_ ‹_ = CRes.cut _ _ _›
    | with_reducible refine keeps_of_cwait ?_ ‹_ = CRes.wait _›
    | with_reducible apply keeps_upd')

end Sys2Proof.Laws
end

