-- ==== Sys2Proof/Laws/KeepsOuts.lean ====
section
/-!
SUPPORT. Laws/KeepsOuts.lean: the functions of Machine/Outs.lean keep what every command keeps (Keeps of Safety.lean).
-/
namespace Sys2Proof.Laws
open Sys2Proof Sys2Proof.Machine

set_option linter.unusedTactic false
set_option linter.unreachableTactic false
set_option linter.unusedVariables false

theorem keeps_outSet {a : State} {n : Nat} {x : OutCh} {s : State} (hs : Keeps a s) :
    Keeps a (outSet n x s) := by
  unfold outSet
  try dsimp only
  repeat' (first
    | with_reducible assumption
    | with_reducible apply keeps_upd_outs)

theorem keeps_outShow {a : State} {n : Nat} {s : State} (hs : Keeps a s) :
    Keeps a (outShow n s) := by
  unfold outShow
  try dsimp only
  repeat' (first
    | with_reducible assumption
    | with_reducible apply keeps_fsetB
    | with_reducible refine keeps_ite ?_ ?_)

theorem keeps_outSquelch {a : State} {n : Nat} {b : Bool} {s : State} (hs : Keeps a s) :
    Keeps a (outSquelch n b s) := by
  unfold outSquelch
  try dsimp only
  repeat' (first
    | with_reducible assumption
    | with_reducible apply keeps_fsetB
    | with_reducible apply keeps_outShow
    | with_reducible apply keeps_bump
    | with_reducible refine keeps_ite ?_ ?_)

theorem keeps_outQuell {a : State} {n : Nat} {s : State} (hs : Keeps a s) :
    Keeps a (outQuell n s) := by
  unfold outQuell
  try dsimp only
  repeat' (first
    | with_reducible assumption
    | with_reducible apply keeps_outSquelch
    | with_reducible refine keeps_ite ?_ ?_)

theorem keeps_outQuells {a : State} {s : State} (hs : Keeps a s) :
    Keeps a (outQuells s) := by
  unfold outQuells
  try dsimp only
  repeat' (first
    | with_reducible assumption
    | (with_reducible refine keeps_forEach (fun _ _ _ => ?_) ?_)
    | with_reducible apply keeps_outQuell)

theorem keeps_outOrigin {a : State} {n : Nat} {s : State} (hs : Keeps a s) :
    Keeps a (outOrigin n s) := by
  unfold outOrigin
  try dsimp only
  repeat' (first
    | with_reducible assumption
    | with_reducible apply keeps_fset
    | with_reducible apply keeps_outSet
    | with_reducible apply keeps_upd')

theorem keeps_outIncs {a : State} {s : State} (hs : Keeps a s) :
    Keeps a (outIncs s) := by
  unfold outIncs
  try dsimp only
  repeat' (first
    | with_reducible assumption
    | (with_reducible refine keeps_forEach (fun _ _ _ => ?_) ?_)
    | with_reducible apply keeps_outSet
    | with_reducible refine keeps_ite ?_ ?_
    | with_reducible apply keeps_upd')

theorem keeps_outTick {a : State} {n : Nat} {s : State} (hs : Keeps a s) :
    Keeps a (outTick n s) := by
  unfold outTick
  try dsimp only
  repeat' (first
    | with_reducible assumption
    | with_reducible apply keeps_outSet
    | with_reducible refine keeps_ite ?_ ?_
    | with_reducible apply keeps_upd')

theorem keeps_outTicks {a : State} {s : State} (hs : Keeps a s) :
    Keeps a (outTicks s) := by
  unfold outTicks
  try dsimp only
  repeat' (first
    | with_reducible assumption
    | (with_reducible refine keeps_forEach (fun _ _ _ => ?_) ?_)
    | with_reducible apply keeps_outTick)

theorem keeps_outPath {a : State} {n : Nat} {s : State} (hs : Keeps a s) :
    Keeps a (outPath n s) := by
  unfold outPath
  try dsimp only
  repeat' (first
    | with_reducible assumption
    | with_reducible apply keeps_fsetB)

theorem keeps_outEnable {a : State} {n : Nat} {s : State} (hs : Keeps a s) :
    Keeps a (outEnable n s) := by
  unfold outEnable
  try dsimp only
  repeat' (first
    | with_reducible assumption
    | with_reducible apply keeps_outSet
    | with_reducible apply keeps_outOrigin
    | with_reducible apply keeps_fset
    | with_reducible apply keeps_fsetB
    | with_reducible apply keeps_outPath
    | with_reducible apply keeps_outShow
    | with_reducible apply keeps_outSquelch
    | with_reducible refine keeps_ite ?_ ?_
    | with_reducible apply keeps_upd')

theorem keeps_outDisable {a : State} {n : Nat} {s : State} (hs : Keeps a s) :
    Keeps a (outDisable n s) := by
  unfold outDisable
  try dsimp only
  repeat' (first
    | with_reducible assumption
    | with_reducible apply keeps_outShow
    | with_reducible apply keeps_fsetB
    | with_reducible apply keeps_outSet
    | with_reducible apply keeps_upd')

theorem keeps_outEdge {a : State} {n : Nat} {rise : Bool} {s : State} (hs : Keeps a s) :
    Keeps a (outEdge n rise s) := by
  unfold outEdge
  try dsimp only
  repeat' (first
    | with_reducible assumption
    | with_reducible apply keeps_outQuell
    | with_reducible apply keeps_outSet
    | with_reducible refine keeps_ite ?_ ?_
    | split
    | with_reducible apply keeps_upd')

theorem keeps_outLock {a : State} {n : Nat} {s : State} (hs : Keeps a s) :
    Keeps a (outLock n s) := by
  unfold outLock
  try dsimp only
  repeat' (first
    | with_reducible assumption
    | with_reducible apply keeps_outQuell
    | with_reducible apply keeps_fsetB
    | with_reducible apply keeps_outSet
    | with_reducible refine keeps_ite ?_ ?_
    | with_reducible apply keeps_upd')

theorem keeps_outLockLoss {a : State} {n : Nat} {s : State} (hs : Keeps a s) :
    Keeps a (outLockLoss n s) := by
  unfold outLockLoss
  try dsimp only
  repeat' (first
    | with_reducible assumption
    | with_reducible apply keeps_fsetB
    | with_reducible apply keeps_outSet
    | with_reducible apply keeps_outShow
    | with_reducible apply keeps_bump
    | with_reducible apply keeps_cairnFault
    | with_reducible refine keeps_ite ?_ ?_
    | with_reducible apply keeps_upd')

theorem keeps_outQerr {a : State} {n : Nat} {err : Int} {s : State} (hs : Keeps a s) :
    Keeps a (outQerr n err s) := by
  unfold outQerr
  try dsimp only
  repeat' (first
    | with_reducible assumption
    | with_reducible apply keeps_fsetB
    | with_reducible apply keeps_fset
    | with_reducible apply keeps_fsetI
    | with_reducible refine keeps_ite ?_ ?_)

theorem keeps_alignMeasure {a : State} {n : Nat} {interval : Int} {s : State} (hs : Keeps a s) :
    Keeps a (alignMeasure n interval s) := by
  unfold alignMeasure
  try dsimp only
  repeat' (first
    | with_reducible assumption
    | with_reducible apply keeps_fsetB
    | with_reducible apply keeps_outSet
    | with_reducible apply keeps_fset
    | with_reducible apply keeps_fsetI
    | with_reducible refine keeps_ite ?_ ?_
    | with_reducible apply keeps_upd')

theorem keeps_alignLost {a : State} {n : Nat} {s : State} (hs : Keeps a s) :
    Keeps a (alignLost n s) := by
  unfold alignLost
  try dsimp only
  repeat' (first
    | with_reducible assumption
    | with_reducible apply keeps_fsetB
    | with_reducible apply keeps_cairnFault
    | with_reducible apply keeps_bump
    | with_reducible refine keeps_ite ?_ ?_)

theorem keeps_outSetEdge {a : State} {s : State} (hs : Keeps a s) :
    Keeps a (outSetEdge s) := by
  unfold outSetEdge
  try dsimp only
  repeat' (first
    | with_reducible assumption
    | with_reducible apply keeps_outQuells
    | (with_reducible refine keeps_forEach (fun _ _ _ => ?_) ?_)
    | with_reducible apply keeps_outOrigin
    | with_reducible apply keeps_outSet
    | with_reducible refine keeps_ite ?_ ?_
    | with_reducible apply keeps_upd')

theorem keeps_outHold {a : State} {n : Nat} {b : Bool} {s : State} (hs : Keeps a s) :
    Keeps a (outHold n b s) := by
  unfold outHold
  try dsimp only
  repeat' (first
    | with_reducible assumption
    | with_reducible apply keeps_fsetB
    | with_reducible apply keeps_bump
    | with_reducible refine keeps_ite ?_ ?_)

theorem keeps_todSend {a : State} {k : Nat} {s : State} (hs : Keeps a s) :
    Keeps a (todSend k s) := by
  unfold todSend
  try dsimp only
  repeat' (first
    | with_reducible assumption
    | with_reducible apply keeps_cairnFault
    | with_reducible apply keeps_emitOut
    | with_reducible refine keeps_ite ?_ ?_)

theorem keeps_outStored {a : State} {a0 : Nat} {v : Word} {s : State} (hs : Keeps a s) :
    Keeps a (outStored a0 v s) := by
  unfold outStored
  try dsimp only
  repeat' (first
    | with_reducible assumption
    | with_reducible apply keeps_wr
    | with_reducible apply keeps_fset
    | split
    | with_reducible apply keeps_upd')

theorem keeps_outApply {a : State} {a0 : Nat} {v : Word} {s : State} (hs : Keeps a s) :
    OKeeps a (outApply a0 v s) := by
  unfold outApply
  try dsimp only
  repeat' (first
    | with_reducible assumption
    | with_reducible apply keeps_outPath
    | with_reducible apply keeps_outStored
    | with_reducible apply keeps_outQuell
    | with_reducible apply keeps_outEnable
    | with_reducible apply keeps_outDisable
    | with_reducible refine keeps_ite ?_ ?_
    | with_reducible refine okeeps_ite ?_ ?_
    | with_reducible apply okeeps_some
    | with_reducible exact okeeps_none
    | with_reducible refine okeeps_map ?_ (fun _ _ => ?_)
    | with_reducible apply okeeps_orElse
    | split
    | with_reducible apply keeps_upd')

theorem keeps_execOutPllLock {n : Nat} {s : State}  :
    RKeeps s (execOutPllLock n s) := by
  unfold execOutPllLock
  first
    | with_reducible refine rkeeps_run ?_
    | with_reducible refine rkeeps_runIf ?_
    | with_reducible refine rkeeps_next ?_
    | (unfold keRun; with_reducible refine rkeeps_runIf ?_)
  try dsimp only
  repeat' (first
    | with_reducible assumption
    | with_reducible exact Keeps_refl _
    | with_reducible apply keeps_outLock)

theorem keeps_execOutPllLockLoss {n : Nat} {s : State}  :
    RKeeps s (execOutPllLockLoss n s) := by
  unfold execOutPllLockLoss
  first
    | with_reducible refine rkeeps_run ?_
    | with_reducible refine rkeeps_runIf ?_
    | with_reducible refine rkeeps_next ?_
    | (unfold keRun; with_reducible refine rkeeps_runIf ?_)
  try dsimp only
  repeat' (first
    | with_reducible assumption
    | with_reducible exact Keeps_refl _
    | with_reducible apply keeps_outLockLoss)

theorem keeps_execOutQerrPost {n : Nat} {err : Int} {s : State}  :
    RKeeps s (execOutQerrPost n err s) := by
  unfold execOutQerrPost
  first
    | with_reducible refine rkeeps_run ?_
    | with_reducible refine rkeeps_runIf ?_
    | with_reducible refine rkeeps_next ?_
    | (unfold keRun; with_reducible refine rkeeps_runIf ?_)
  try dsimp only
  repeat' (first
    | with_reducible assumption
    | with_reducible exact Keeps_refl _
    | with_reducible apply keeps_outQerr)

theorem keeps_execAlignMeasurement {n : Nat} {interval : Int} {s : State}  :
    RKeeps s (execAlignMeasurement n interval s) := by
  unfold execAlignMeasurement
  first
    | with_reducible refine rkeeps_run ?_
    | with_reducible refine rkeeps_runIf ?_
    | with_reducible refine rkeeps_next ?_
    | (unfold keRun; with_reducible refine rkeeps_runIf ?_)
  try dsimp only
  repeat' (first
    | with_reducible assumption
    | with_reducible exact Keeps_refl _
    | with_reducible apply keeps_alignMeasure)

theorem keeps_execAlignLost {n : Nat} {s : State}  :
    RKeeps s (execAlignLost n s) := by
  unfold execAlignLost
  first
    | with_reducible refine rkeeps_run ?_
    | with_reducible refine rkeeps_runIf ?_
    | with_reducible refine rkeeps_next ?_
    | (unfold keRun; with_reducible refine rkeeps_runIf ?_)
  try dsimp only
  repeat' (first
    | with_reducible assumption
    | with_reducible exact Keeps_refl _
    | with_reducible apply keeps_alignLost)

theorem keeps_execTodOutMessage {k : Nat} {s : State}  :
    RKeeps s (execTodOutMessage k s) := by
  unfold execTodOutMessage
  first
    | with_reducible refine rkeeps_run ?_
    | with_reducible refine rkeeps_runIf ?_
    | with_reducible refine rkeeps_next ?_
    | (unfold keRun; with_reducible refine rkeeps_runIf ?_)
  try dsimp only
  repeat' (first
    | with_reducible assumption
    | with_reducible exact Keeps_refl _
    | with_reducible apply keeps_todSend)

theorem keeps_execOutputEdge {n : Nat} {rise : Bool} {s : State}  :
    RKeeps s (execOutputEdge n rise s) := by
  unfold execOutputEdge
  first
    | with_reducible refine rkeeps_run ?_
    | with_reducible refine rkeeps_runIf ?_
    | with_reducible refine rkeeps_next ?_
    | (unfold keRun; with_reducible refine rkeeps_runIf ?_)
  try dsimp only
  repeat' (first
    | with_reducible assumption
    | with_reducible exact Keeps_refl _
    | with_reducible apply keeps_outEdge)

end Sys2Proof.Laws
end

