-- ==== Sys2Proof/Laws/KeepsSession.lean ====
section
/-!
SUPPORT. Laws/KeepsSession.lean: the functions of Machine/Session.lean keep what every command keeps (Keeps of Safety.lean).
-/
namespace Sys2Proof.Laws
open Sys2Proof Sys2Proof.Machine

set_option linter.unusedTactic false
set_option linter.unreachableTactic false
set_option linter.unusedVariables false

theorem keeps_ringSet {a : State} {k : Nat} {r : Ring} {s : State} (hs : Keeps a s) :
    Keeps a (ringSet k r s) := by
  unfold ringSet
  try dsimp only
  repeat' (first
    | with_reducible assumption
    | with_reducible apply keeps_setLevel
    | with_reducible apply keeps_upd')

theorem keeps_ntfLost {a : State} {s : State} (hs : Keeps a s) :
    Keeps a (ntfLost s) := by
  unfold ntfLost
  try dsimp only
  repeat' (first
    | with_reducible assumption
    | with_reducible apply keeps_bump)

theorem keeps_ringFill {a : State} {k : Nat} {x0 : Nat} {x1 : State} (hx1 : Keeps a x1) :
    Keeps a (ringFill k x0 x1) := by
  induction x0 generalizing x1 with
  | zero =>
    unfold ringFill
    try dsimp only
    repeat' (first
      | with_reducible assumption
      | fail
      | with_reducible apply keeps_ntfLost
      | with_reducible apply keeps_ringSet
      | with_reducible apply keeps_bump
      | with_reducible apply keeps_emitOut
      | with_reducible refine keeps_ite ?_ ?_
      | with_reducible apply keeps_getD
      | split
      | with_reducible apply keeps_upd')
  | succ n ih =>
    unfold ringFill
    try dsimp only
    repeat' (first
      | with_reducible assumption
      | with_reducible apply ih
      | with_reducible apply keeps_ntfLost
      | with_reducible apply keeps_ringSet
      | with_reducible apply keeps_bump
      | with_reducible apply keeps_emitOut
      | with_reducible refine keeps_ite ?_ ?_
      | with_reducible apply keeps_getD
      | split
      | with_reducible apply keeps_upd')

theorem keeps_harSend {a : State} {tid : List Byte} {ntf : Bool} {m : List Byte} {s : State} (hs : Keeps a s) :
    Keeps a (harSend tid ntf m s) := by
  unfold harSend
  try dsimp only
  repeat' (first
    | with_reducible assumption
    | with_reducible apply keeps_ringFill
    | with_reducible apply keeps_ringSet
    | with_reducible apply keeps_setLevel
    | with_reducible apply keeps_ntfLost
    | with_reducible apply keeps_emitOut
    | with_reducible refine keeps_ite ?_ ?_
    | split
    | with_reducible apply keeps_upd')

theorem keeps_sessionSet {a : State} {x : Session} {s : State} (hs : Keeps a s) :
    Keeps a (sessionSet x s) := by
  unfold sessionSet
  try dsimp only
  repeat' (first
    | with_reducible assumption
    | with_reducible refine keeps_ite ?_ ?_
    | with_reducible refine keeps_ite_fun ?_ ?_
    | with_reducible apply keeps_id
    | with_reducible apply keeps_upd')

theorem keeps_notify {a : State} {sid : Nat} {cmd : Nat} {body : List Byte} {s : State} (hs : Keeps a s) :
    Keeps a (notify sid cmd body s) := by
  unfold notify
  try dsimp only
  repeat' (first
    | with_reducible assumption
    | with_reducible apply keeps_harSend
    | with_reducible apply keeps_sessionSet
    | split
    | with_reducible apply keeps_upd')

theorem keeps_notifyAll {a : State} {sel : Session → Bool} {cmd : Nat} {body : Session → List Byte} {s : State} (hs : Keeps a s) :
    Keeps a (notifyAll sel cmd body s) := by
  unfold notifyAll
  try dsimp only
  repeat' (first
    | with_reducible assumption
    | with_reducible apply keeps_notify
    | with_reducible refine keeps_foldl _ (fun _ _ _ => ?_) _ ?_
    | with_reducible refine keeps_foldl_pair _ (fun _ _ _ => ?_) _ ?_
    | with_reducible refine keeps_ite ?_ ?_)

theorem keeps_harShow {a : State} {s : State} (hs : Keeps a s) :
    Keeps a (harShow s) := by
  unfold harShow
  try dsimp only
  repeat' (first
    | with_reducible assumption
    | with_reducible apply keeps_fset)

theorem keeps_sessionClose {a : State} {sid : Nat} {s : State} (hs : Keeps a s) :
    Keeps a (sessionClose sid s) := by
  unfold sessionClose
  try dsimp only
  repeat' (first
    | with_reducible assumption
    | with_reducible apply keeps_fset
    | with_reducible apply keeps_occur
    | with_reducible apply keeps_harShow
    | with_reducible refine keeps_ite ?_ ?_
    | with_reducible apply keeps_upd')

theorem keeps_sessionEnd {a : State} {cause : Nat} {sid : Nat} {s : State} (hs : Keeps a s) :
    Keeps a (sessionEnd cause sid s) := by
  unfold sessionEnd
  try dsimp only
  repeat' (first
    | with_reducible assumption
    | with_reducible apply keeps_sessionClose
    | with_reducible apply keeps_notify)

theorem keeps_sessionsEnd {a : State} {cause : Nat} {s : State} (hs : Keeps a s) :
    Keeps a (sessionsEnd cause s) := by
  unfold sessionsEnd
  try dsimp only
  repeat' (first
    | with_reducible assumption
    | with_reducible apply keeps_sessionEnd
    | with_reducible refine keeps_foldl _ (fun _ _ _ => ?_) _ ?_
    | with_reducible refine keeps_foldl_pair _ (fun _ _ _ => ?_) _ ?_)

theorem keeps_eventTick {a : State} {s : State} (hs : Keeps a s) :
    Keeps a (eventTick s) := by
  unfold eventTick
  try dsimp only
  repeat' (first
    | with_reducible assumption
    | with_reducible apply keeps_notifyAll
    | with_reducible refine keeps_ite ?_ ?_
    | with_reducible apply keeps_upd')

theorem keeps_cairnMeet {a : State} {i : Nat} {n : Nat} {s : State} (hs : Keeps a s) :
    Keeps a (cairnMeet i n s) := by
  unfold cairnMeet
  try dsimp only
  repeat' (first
    | with_reducible assumption
    | (with_reducible refine keeps_forEach (fun _ _ _ => ?_) ?_)
    | with_reducible apply keeps_touchMem
    | with_reducible apply keeps_putMem
    | with_reducible refine keeps_ite ?_ ?_)

theorem keeps_cairnBatch {a : State} {s0 : State} (hs0 : Keeps a s0) :
    Keeps a (cairnBatch s0) := by
  unfold cairnBatch
  try dsimp only
  repeat' (first
    | with_reducible assumption
    | with_reducible apply keeps_cairnMeet
    | (with_reducible refine keeps_forEach (fun _ _ _ => ?_) ?_)
    | with_reducible apply keeps_notifyAll
    | with_reducible apply keeps_upd')

theorem keeps_execNtfEventTick {s : State}  :
    RKeeps s (execNtfEventTick s) := by
  unfold execNtfEventTick
  first
    | with_reducible refine rkeeps_run ?_
    | with_reducible refine rkeeps_runIf ?_
    | with_reducible refine rkeeps_next ?_
    | (unfold keRun; with_reducible refine rkeeps_runIf ?_)
  try dsimp only
  repeat' (first
    | with_reducible assumption
    | with_reducible exact Keeps_refl _
    | with_reducible apply keeps_eventTick)

theorem keeps_execNtfCairnBatch {s : State}  :
    RKeeps s (execNtfCairnBatch s) := by
  unfold execNtfCairnBatch
  first
    | with_reducible refine rkeeps_run ?_
    | with_reducible refine rkeeps_runIf ?_
    | with_reducible refine rkeeps_next ?_
    | (unfold keRun; with_reducible refine rkeeps_runIf ?_)
  try dsimp only
  repeat' (first
    | with_reducible assumption
    | with_reducible exact Keeps_refl _
    | with_reducible apply keeps_cairnBatch)

end Sys2Proof.Laws
end

