-- ==== Sys2Proof/Laws/KeepsCnt.lean ====
section
/-!
SUPPORT. Laws/KeepsCnt.lean: the functions of Machine/Cnt.lean keep what every command keeps (Keeps of Safety.lean).
-/
namespace Sys2Proof.Laws
open Sys2Proof Sys2Proof.Machine

set_option linter.unusedTactic false
set_option linter.unreachableTactic false
set_option linter.unusedVariables false

theorem keeps_occCycle {a : State} {s : State} (hs : Keeps a s) :
    Keeps a (occCycle s) := by
  unfold occCycle
  try dsimp only
  repeat' (first
    | with_reducible assumption
    | (with_reducible refine keeps_forEach (fun _ _ _ => ?_) ?_)
    | with_reducible apply keeps_bump
    | with_reducible refine keeps_ite ?_ ?_
    | split
    | with_reducible apply keeps_upd')

theorem keeps_idle {a : State} {s : State} (hs : Keeps a s) :
    Keeps a (idle s) := by
  unfold idle
  try dsimp only
  repeat' (first
    | with_reducible assumption
    | with_reducible apply keeps_outTicks
    | with_reducible apply keeps_tsuTick
    | with_reducible apply keeps_occCycle
    | with_reducible refine keeps_ite ?_ ?_
    | with_reducible apply keeps_upd')

theorem keeps_shadowWrite {a : State} {s : State} (hs : Keeps a s) :
    Keeps a (shadowWrite s) := by
  unfold shadowWrite
  try dsimp only
  repeat' (first
    | with_reducible assumption
    | (with_reducible refine keeps_forEach (fun _ _ _ => ?_) ?_)
    | with_reducible apply keeps_eccWrite
    | with_reducible refine keeps_ite ?_ ?_)

theorem keeps_cntSnap {a : State} {s : State} (hs : Keeps a s) :
    Keeps a (cntSnap s) := by
  unfold cntSnap
  try dsimp only
  repeat' (first
    | with_reducible assumption
    | with_reducible apply keeps_occur
    | with_reducible apply keeps_fset
    | with_reducible apply keeps_shadowWrite
    | with_reducible refine keeps_foldl _ (fun _ _ _ => ?_) _ ?_
    | with_reducible refine keeps_foldl_pair _ (fun _ _ _ => ?_) _ ?_
    | with_reducible apply keeps_upd')

theorem keeps_liveZero {a : State} {i : Nat} {s : State} (hs : Keeps a s) :
    Keeps a (liveZero i s) := by
  unfold liveZero
  try dsimp only
  repeat' (first
    | with_reducible assumption
    | with_reducible apply keeps_upd_live)

theorem keeps_cntZero {a : State} {sh : Bool} {i : Nat} {s : State} (hs : Keeps a s) :
    Keeps a (cntZero sh i s) := by
  unfold cntZero
  try dsimp only
  repeat' (first
    | with_reducible assumption
    | with_reducible apply keeps_liveZero
    | with_reducible refine keeps_ite ?_ ?_
    | with_reducible apply keeps_upd')

theorem keeps_cntMeet {a : State} {sh : Bool} {i : Nat} {n : Nat} {s : State} (hs : Keeps a s) :
    Keeps a (cntMeet sh i n s) := by
  unfold cntMeet
  try dsimp only
  repeat' (first
    | with_reducible assumption
    | (with_reducible refine keeps_forEach (fun _ _ _ => ?_) ?_)
    | with_reducible apply keeps_eccRead
    | with_reducible apply keeps_eccWrite
    | with_reducible apply keeps_cntZero
    | with_reducible refine keeps_ite ?_ ?_)

theorem keeps_dmaUe {a : State} {s : State} (hs : Keeps a s) :
    Keeps a (dmaUe s) := by
  unfold dmaUe
  try dsimp only
  repeat' (first
    | with_reducible assumption
    | with_reducible apply keeps_raiseOnce
    | with_reducible apply keeps_bump)

theorem keeps_dumpHost {a : State} {d : List Byte} {s : State} (hs : Keeps a s) :
    Keeps a (dumpHost d s) := by
  unfold dumpHost
  try dsimp only
  repeat' (first
    | with_reducible assumption
    | with_reducible apply keeps_occur
    | with_reducible apply keeps_dmaUe
    | with_reducible apply keeps_emitOut
    | with_reducible apply keeps_touchMem
    | with_reducible apply keeps_fset
    | split
    | with_reducible refine keeps_of_pair ?_ ‹_ = (_, _)›
    | with_reducible apply keeps_upd')

theorem keeps_counterDump {a : State} {s : State} (hs : Keeps a s) :
    Keeps a (counterDump s) := by
  unfold counterDump
  try dsimp only
  repeat' (first
    | with_reducible assumption
    | with_reducible apply keeps_cntSnap
    | with_reducible apply keeps_putMem
    | with_reducible apply keeps_fset
    | with_reducible apply keeps_occur
    | with_reducible apply keeps_dumpHost
    | with_reducible apply keeps_notifyAll
    | with_reducible refine keeps_ite ?_ ?_
    | with_reducible apply keeps_upd')

theorem keeps_secondEnd {a : State} {s : State} (hs : Keeps a s) :
    Keeps a (secondEnd s) := by
  unfold secondEnd
  try dsimp only
  repeat' (first
    | with_reducible assumption
    | with_reducible apply keeps_cairnForce
    | with_reducible apply keeps_occur
    | with_reducible refine keeps_foldl _ (fun _ _ _ => ?_) _ ?_
    | with_reducible refine keeps_foldl_pair _ (fun _ _ _ => ?_) _ ?_
    | with_reducible refine keeps_ite ?_ ?_
    | with_reducible apply keeps_upd')

theorem keeps_cntApply {a : State} {a0 : Nat} {v : Word} {s : State} (hs : Keeps a s) :
    OKeeps a (cntApply a0 v s) := by
  unfold cntApply
  try dsimp only
  repeat' (first
    | with_reducible assumption
    | with_reducible apply keeps_cntSnap
    | with_reducible apply keeps_wr
    | with_reducible apply keeps_setLevel
    | with_reducible refine keeps_ite ?_ ?_
    | with_reducible refine okeeps_ite ?_ ?_
    | with_reducible apply okeeps_some
    | with_reducible exact okeeps_none
    | with_reducible refine okeeps_map ?_ (fun _ _ => ?_)
    | with_reducible apply okeeps_orElse)

theorem keeps_execCounterDump {s : State}  :
    RKeeps s (execCounterDump s) := by
  unfold execCounterDump
  first
    | with_reducible refine rkeeps_run ?_
    | with_reducible refine rkeeps_runIf ?_
    | with_reducible refine rkeeps_next ?_
    | (unfold keRun; with_reducible refine rkeeps_runIf ?_)
  try dsimp only
  repeat' (first
    | with_reducible assumption
    | with_reducible exact Keeps_refl _
    | with_reducible apply keeps_counterDump)

theorem keeps_execCairnSecondEnd {s : State}  :
    RKeeps s (execCairnSecondEnd s) := by
  unfold execCairnSecondEnd
  first
    | with_reducible refine rkeeps_run ?_
    | with_reducible refine rkeeps_runIf ?_
    | with_reducible refine rkeeps_next ?_
    | (unfold keRun; with_reducible refine rkeeps_runIf ?_)
  try dsimp only
  repeat' (first
    | with_reducible assumption
    | with_reducible exact Keeps_refl _
    | with_reducible apply keeps_secondEnd)

end Sys2Proof.Laws
end

