-- ==== Sys2Proof/Laws/KeepsEvc.lean ====
section
/-!
SUPPORT. Laws/KeepsEvc.lean: the functions of Machine/Evc.lean keep what every command keeps (Keeps of Safety.lean).
-/
namespace Sys2Proof.Laws
open Sys2Proof Sys2Proof.Machine

set_option linter.unusedTactic false
set_option linter.unreachableTactic false
set_option linter.unusedVariables false

theorem keeps_msixSend {a : State} {v : Nat} {s : State} (hs : Keeps a s) :
    Keeps a (msixSend v s) := by
  unfold msixSend
  try dsimp only
  repeat' (first
    | with_reducible assumption
    | with_reducible apply keeps_emitOut
    | with_reducible refine keeps_ite ?_ ?_
    | with_reducible apply keeps_upd')

theorem keeps_lineEmpty {a : State} {s : State} (hs : Keeps a s) :
    Keeps a (lineEmpty s) := by
  unfold lineEmpty
  try dsimp only
  repeat' (first
    | with_reducible assumption
    | with_reducible refine keeps_foldl _ (fun _ _ _ => ?_) _ ?_
    | with_reducible refine keeps_foldl_pair _ (fun _ _ _ => ?_) _ ?_
    | with_reducible refine keeps_ite ?_ ?_
    | with_reducible apply keeps_upd')

theorem keeps_lineDecide {a : State} {done : Option Nat} {s : State} (hs : Keeps a s) :
    Keeps a (lineDecide done s) := by
  unfold lineDecide
  try dsimp only
  repeat' (first
    | with_reducible assumption
    | (with_reducible refine keeps_forEach (fun _ _ _ => ?_) ?_)
    | with_reducible apply keeps_msixSend
    | with_reducible refine keeps_ite ?_ ?_
    | with_reducible apply keeps_upd')

theorem keeps_evcChange {a : State} {f : State → State} {s : State} (hf : ∀ b, Keeps a b → Keeps a (f b)) (hs : Keeps a s) :
    Keeps a (evcChange f s) := by
  unfold evcChange
  try dsimp only
  repeat' (first
    | with_reducible assumption
    | with_reducible apply keeps_lineDecide
    | with_reducible apply keeps_lineEmpty
    | with_reducible apply hf)

theorem keeps_arrive {a : State} {id : Nat} {s : State} (hs : Keeps a s) :
    Keeps a (arrive id s) := by
  unfold arrive
  try dsimp only
  repeat' (first
    | with_reducible assumption
    | with_reducible apply keeps_setBank
    | with_reducible refine keeps_ite ?_ ?_
    | with_reducible apply keeps_upd')

theorem keeps_evcSettle {a : State} {s : State} (hs : Keeps a s) :
    Keeps a (evcSettle s) := by
  unfold evcSettle
  try dsimp only
  repeat' (first
    | with_reducible assumption
    | (with_reducible refine keeps_forEach (fun _ _ _ => ?_) ?_)
    | with_reducible apply keeps_setBank
    | with_reducible refine keeps_foldl _ (fun _ _ _ => ?_) _ ?_
    | with_reducible refine keeps_foldl_pair _ (fun _ _ _ => ?_) _ ?_
    | with_reducible refine keeps_ite ?_ ?_
    | with_reducible refine keeps_ite_fun ?_ ?_
    | with_reducible apply keeps_id
    | with_reducible apply keeps_upd')

theorem keeps_enWrite {a : State} {k : Nat} {v : Word} {s : State} (hs : Keeps a s) :
    Keeps a (enWrite k v s) := by
  unfold enWrite
  try dsimp only
  repeat' (first
    | with_reducible assumption
    | with_reducible apply keeps_evcChange
    | with_reducible apply keeps_evcSettle
    | with_reducible apply keeps_wr
    | with_reducible refine keeps_foldl _ (fun _ _ _ => ?_) _ ?_
    | with_reducible refine keeps_foldl_pair _ (fun _ _ _ => ?_) _ ?_
    | with_reducible refine keeps_ite ?_ ?_
    | intro _
    | with_reducible apply keeps_upd')

theorem keeps_evcClaim {a : State} {v : Nat} {s : State} (hs : Keeps a s) :
    Keeps a (evcClaim v s).2 := by
  unfold evcClaim
  try dsimp only
  repeat' (first
    | with_reducible assumption
    | with_reducible apply keeps_setBank
    | with_reducible apply keeps_lineEmpty
    | split
    | with_reducible apply keeps_upd')

theorem keeps_evcComplete {a : State} {v : Nat} {id : Nat} {s : State} (hs : Keeps a s) :
    Keeps a (evcComplete v id s) := by
  unfold evcComplete
  try dsimp only
  repeat' (first
    | with_reducible assumption
    | with_reducible apply keeps_setBank
    | with_reducible apply keeps_lineEmpty
    | with_reducible apply keeps_lineDecide
    | with_reducible apply keeps_fsetB
    | with_reducible refine keeps_ite ?_ ?_)

theorem keeps_evcSet {a : State} {id : Nat} {s : State} (hs : Keeps a s) :
    Keeps a (evcSet id s) := by
  unfold evcSet
  try dsimp only
  repeat' (first
    | with_reducible assumption
    | with_reducible apply keeps_fsetB
    | with_reducible apply keeps_setBank
    | with_reducible apply keeps_evcChange
    | with_reducible refine keeps_ite ?_ ?_
    | intro _
    | with_reducible apply keeps_upd')

theorem keeps_evcApply {a : State} {a0 : Nat} {v : Word} {s : State} (hs : Keeps a s) :
    OKeeps a (evcApply a0 v s) := by
  unfold evcApply
  try dsimp only
  repeat' (first
    | with_reducible assumption
    | with_reducible apply keeps_enWrite
    | with_reducible apply keeps_evcComplete
    | with_reducible apply keeps_evcSet
    | with_reducible apply keeps_wr
    | with_reducible apply keeps_lineEmpty
    | with_reducible apply keeps_lineDecide
    | with_reducible refine keeps_ite ?_ ?_
    | with_reducible refine okeeps_ite ?_ ?_
    | with_reducible apply okeeps_some
    | with_reducible exact okeeps_none
    | with_reducible refine okeeps_map ?_ (fun _ _ => ?_)
    | with_reducible apply okeeps_orElse)

theorem keeps_msixMasks {a : State} {masks : BitVec 32} {fn : Bool} {s : State} (hs : Keeps a s) :
    Keeps a (msixMasks masks fn s) := by
  unfold msixMasks
  try dsimp only
  repeat' (first
    | with_reducible assumption
    | (with_reducible refine keeps_forEach (fun _ _ _ => ?_) ?_)
    | with_reducible apply keeps_emitOut
    | with_reducible refine keeps_ite ?_ ?_
    | with_reducible apply keeps_upd')

theorem keeps_execSourcePending {id : Nat} {s : State}  :
    RKeeps s (execSourcePending id s) := by
  unfold execSourcePending
  first
    | with_reducible refine rkeeps_run ?_
    | with_reducible refine rkeeps_runIf ?_
    | with_reducible refine rkeeps_next ?_
    | (unfold keRun; with_reducible refine rkeeps_runIf ?_)
  try dsimp only
  repeat' (first
    | with_reducible assumption
    | with_reducible exact Keeps_refl _
    | with_reducible apply keeps_evcChange
    | with_reducible apply keeps_arrive
    | with_reducible refine keeps_ite ?_ ?_
    | intro _)

theorem keeps_execMaskWindowEnd {s : State}  :
    RKeeps s (execMaskWindowEnd s) := by
  unfold execMaskWindowEnd
  first
    | with_reducible refine rkeeps_run ?_
    | with_reducible refine rkeeps_runIf ?_
    | with_reducible refine rkeeps_next ?_
    | (unfold keRun; with_reducible refine rkeeps_runIf ?_)
  try dsimp only
  repeat' (first
    | with_reducible assumption
    | with_reducible exact Keeps_refl _
    | with_reducible apply keeps_evcChange
    | with_reducible apply keeps_evcSettle
    | with_reducible refine keeps_ite ?_ ?_
    | with_reducible refine keeps_ite_fun ?_ ?_
    | with_reducible apply keeps_id
    | intro _)

theorem keeps_execMsixUnmask {masks : BitVec 32} {fn : Bool} {s : State}  :
    RKeeps s (execMsixUnmask masks fn s) := by
  unfold execMsixUnmask
  first
    | with_reducible refine rkeeps_run ?_
    | with_reducible refine rkeeps_runIf ?_
    | with_reducible refine rkeeps_next ?_
    | (unfold keRun; with_reducible refine rkeeps_runIf ?_)
  try dsimp only
  repeat' (first
    | with_reducible assumption
    | with_reducible exact Keeps_refl _
    | with_reducible apply keeps_msixMasks)

end Sys2Proof.Laws
end

