-- ==== Sys2Proof/Laws/KeepsServo.lean ====
section
/-!
SUPPORT. Laws/KeepsServo.lean: the functions of Machine/Servo.lean keep what every command keeps (Keeps of Safety.lean).
-/
namespace Sys2Proof.Laws
open Sys2Proof Sys2Proof.Machine

set_option linter.unusedTactic false
set_option linter.unreachableTactic false
set_option linter.unusedVariables false

theorem keeps_refSlSet {a : State} {n : Nat} {x : RefSlot} {s : State} (hs : Keeps a s) :
    Keeps a (refSlSet n x s) := by
  unfold refSlSet
  try dsimp only
  repeat' (first
    | with_reducible assumption
    | with_reducible apply keeps_upd_refs)

theorem keeps_absorbHold {a : State} {n : Nat} {s : State} (hs : Keeps a s) :
    Keeps a (absorbHold n s) := by
  unfold absorbHold
  try dsimp only
  repeat' (first
    | with_reducible assumption
    | with_reducible apply keeps_wr
    | with_reducible refine keeps_ite ?_ ?_
    | with_reducible apply keeps_upd')

theorem keeps_ntsSet {a : State} {n : Nat} {x : NtsClient} {s : State} (hs : Keeps a s) :
    Keeps a (ntsSet n x s) := by
  unfold ntsSet
  try dsimp only
  repeat' (first
    | with_reducible assumption
    | with_reducible apply keeps_upd_nts)

theorem keeps_servoGo {a : State} {st : Nat} {s : State} (hs : Keeps a s) :
    Keeps a (servoGo st s) := by
  unfold servoGo
  try dsimp only
  repeat' (first
    | with_reducible assumption
    | with_reducible apply keeps_fset
    | with_reducible apply keeps_setLevel
    | with_reducible apply keeps_occur
    | with_reducible apply keeps_bump
    | with_reducible apply keeps_outQuells
    | with_reducible apply keeps_cairnState
    | with_reducible refine keeps_ite ?_ ?_
    | with_reducible apply keeps_upd')

theorem keeps_servoFollow {a : State} {n : Nat} {s : State} (hs : Keeps a s) :
    Keeps a (servoFollow n s) := by
  unfold servoFollow
  try dsimp only
  repeat' (first
    | with_reducible assumption
    | with_reducible apply keeps_fset
    | with_reducible apply keeps_wr
    | with_reducible apply keeps_fsetB
    | with_reducible apply keeps_servoGo
    | with_reducible refine keeps_ite ?_ ?_
    | with_reducible apply keeps_upd')

theorem keeps_boundPut {a : State} {s : State} (hs : Keeps a s) :
    Keeps a (boundPut s) := by
  unfold boundPut
  try dsimp only
  repeat' (first
    | with_reducible assumption
    | with_reducible apply keeps_setBounds
    | with_reducible refine keeps_ite ?_ ?_)

theorem keeps_boundWrite {a : State} {s : State} (hs : Keeps a s) :
    Keeps a (boundWrite s) := by
  unfold boundWrite
  try dsimp only
  repeat' (first
    | with_reducible assumption
    | with_reducible apply keeps_boundPut
    | with_reducible apply keeps_upd')

theorem keeps_boundSecond {a : State} {s : State} (hs : Keeps a s) :
    Keeps a (boundSecond s) := by
  unfold boundSecond
  try dsimp only
  repeat' (first
    | with_reducible assumption
    | with_reducible apply keeps_boundPut
    | with_reducible refine keeps_ite ?_ ?_)

theorem keeps_histTaint {a : State} {n : Nat} {s : State} (hs : Keeps a s) :
    Keeps a (histTaint n s) := by
  unfold histTaint
  try dsimp only
  repeat' (first
    | with_reducible assumption
    | with_reducible refine keeps_ite ?_ ?_
    | with_reducible apply keeps_upd')

theorem keeps_histNote {a : State} {s : State} (hs : Keeps a s) :
    Keeps a (histNote s) := by
  unfold histNote
  try dsimp only
  repeat' (first
    | with_reducible assumption
    | with_reducible apply keeps_upd')

theorem keeps_lockRun {a : State} {met : Bool} {lockTime : Nat} {s : State} (hs : Keeps a s) :
    Keeps a (lockRun met lockTime s) := by
  unfold lockRun
  try dsimp only
  repeat' (first
    | with_reducible assumption
    | with_reducible apply keeps_servoGo
    | with_reducible refine keeps_ite ?_ ?_
    | with_reducible apply keeps_upd')

theorem keeps_lockFar {a : State} {phi : Nat} {lim : Nat} {s : State} (hs : Keeps a s) :
    Keeps a (lockFar phi lim s) := by
  unfold lockFar
  try dsimp only
  repeat' (first
    | with_reducible assumption
    | with_reducible apply keeps_servoGo
    | with_reducible refine keeps_ite ?_ ?_
    | with_reducible apply keeps_upd')

theorem keeps_lockRunIdle {a : State} {s : State} (hs : Keeps a s) :
    Keeps a (lockRunIdle s) := by
  unfold lockRunIdle
  try dsimp only
  repeat' (first
    | with_reducible assumption
    | with_reducible refine keeps_ite ?_ ?_
    | with_reducible apply keeps_upd')

theorem keeps_servoUpdate {a : State} {s : State} (hs : Keeps a s) :
    Keeps a (servoUpdate s) := by
  unfold servoUpdate
  try dsimp only
  repeat' (first
    | with_reducible assumption
    | with_reducible apply keeps_refSlSet
    | with_reducible apply keeps_bump
    | with_reducible apply keeps_histNote
    | with_reducible apply keeps_boundWrite
    | with_reducible apply keeps_lockRunIdle
    | with_reducible apply keeps_setFreqAdj
    | with_reducible apply keeps_lockRun
    | with_reducible apply keeps_lockFar
    | with_reducible apply keeps_fset
    | with_reducible apply keeps_fsetI
    | with_reducible refine keeps_ite ?_ ?_
    | split
    | with_reducible apply keeps_upd')

theorem keeps_historyEntry {a : State} {s : State} (hs : Keeps a s) :
    Keeps a (historyEntry s) := by
  unfold historyEntry
  try dsimp only
  repeat' (first
    | with_reducible assumption
    | with_reducible apply keeps_fset
    | with_reducible apply keeps_putMem
    | with_reducible refine keeps_ite ?_ ?_
    | with_reducible apply keeps_upd')

theorem keeps_servoHoldover {a : State} {s0 : State} (hs0 : Keeps a s0) :
    Keeps a (servoHoldover s0) := by
  unfold servoHoldover
  try dsimp only
  repeat' (first
    | with_reducible assumption
    | with_reducible apply keeps_slewCancel
    | with_reducible apply keeps_absorbHold
    | with_reducible apply keeps_setFreqAdj
    | with_reducible apply keeps_fsetI
    | with_reducible apply keeps_fset
    | with_reducible apply keeps_fsetB
    | with_reducible apply keeps_servoGo
    | with_reducible apply keeps_occur
    | with_reducible refine keeps_ite ?_ ?_
    | split
    | with_reducible apply keeps_upd')

theorem keeps_servoLost {a : State} {s : State} (hs : Keeps a s) :
    Keeps a (servoLost s) := by
  unfold servoLost
  try dsimp only
  repeat' (first
    | with_reducible assumption
    | with_reducible apply keeps_servoHoldover
    | with_reducible refine keeps_ite ?_ ?_)

theorem keeps_holdoverUpdate {a : State} {s : State} (hs : Keeps a s) :
    Keeps a (holdoverUpdate s) := by
  unfold holdoverUpdate
  try dsimp only
  repeat' (first
    | with_reducible assumption
    | with_reducible apply keeps_setBounds
    | with_reducible apply keeps_servoGo
    | with_reducible refine keeps_ite ?_ ?_)

theorem keeps_trendWrite {a : State} {s : State} (hs : Keeps a s) :
    Keeps a (trendWrite s) := by
  unfold trendWrite
  try dsimp only
  repeat' (first
    | with_reducible assumption
    | with_reducible apply keeps_setFreqAdj
    | with_reducible refine keeps_ite ?_ ?_)

theorem keeps_servoApply {a : State} {a0 : Nat} {v : Word} {s : State} (hs : Keeps a s) :
    OKeeps a (servoApply a0 v s) := by
  unfold servoApply
  try dsimp only
  repeat' (first
    | with_reducible assumption
    | with_reducible apply keeps_wr
    | with_reducible refine keeps_ite ?_ ?_
    | with_reducible refine okeeps_ite ?_ ?_
    | with_reducible apply okeeps_some
    | with_reducible exact okeeps_none
    | with_reducible refine okeeps_map ?_ (fun _ _ => ?_)
    | with_reducible apply okeeps_orElse)

theorem keeps_execServoUpdate {s : State}  :
    RKeeps s (execServoUpdate s) := by
  unfold execServoUpdate
  first
    | with_reducible refine rkeeps_run ?_
    | with_reducible refine rkeeps_runIf ?_
    | with_reducible refine rkeeps_next ?_
    | (unfold keRun; with_reducible refine rkeeps_runIf ?_)
  try dsimp only
  repeat' (first
    | with_reducible assumption
    | with_reducible exact Keeps_refl _
    | with_reducible apply keeps_servoUpdate)

theorem keeps_execHoldoverBoundUpdate {s : State}  :
    RKeeps s (execHoldoverBoundUpdate s) := by
  unfold execHoldoverBoundUpdate
  first
    | with_reducible refine rkeeps_run ?_
    | with_reducible refine rkeeps_runIf ?_
    | with_reducible refine rkeeps_next ?_
    | (unfold keRun; with_reducible refine rkeeps_runIf ?_)
  try dsimp only
  repeat' (first
    | with_reducible assumption
    | with_reducible exact Keeps_refl _
    | with_reducible apply keeps_holdoverUpdate)

theorem keeps_execHoldoverTrendWrite {s : State}  :
    RKeeps s (execHoldoverTrendWrite s) := by
  unfold execHoldoverTrendWrite
  first
    | with_reducible refine rkeeps_run ?_
    | with_reducible refine rkeeps_runIf ?_
    | with_reducible refine rkeeps_next ?_
    | (unfold keRun; with_reducible refine rkeeps_runIf ?_)
  try dsimp only
  repeat' (first
    | with_reducible assumption
    | with_reducible exact Keeps_refl _
    | with_reducible apply keeps_trendWrite)

theorem keeps_execServoHistoryEntry {s : State}  :
    RKeeps s (execServoHistoryEntry s) := by
  unfold execServoHistoryEntry
  first
    | with_reducible refine rkeeps_run ?_
    | with_reducible refine rkeeps_runIf ?_
    | with_reducible refine rkeeps_next ?_
    | (unfold keRun; with_reducible refine rkeeps_runIf ?_)
  try dsimp only
  repeat' (first
    | with_reducible assumption
    | with_reducible exact Keeps_refl _
    | with_reducible apply keeps_historyEntry)

end Sys2Proof.Laws
end

