-- ==== Sys2Proof/Laws/KeepsRefs.lean ====
section
/-!
SUPPORT. Laws/KeepsRefs.lean: the functions of Machine/Refs.lean keep what every command keeps (Keeps of Safety.lean).
-/
namespace Sys2Proof.Laws
open Sys2Proof Sys2Proof.Machine

set_option linter.unusedTactic false
set_option linter.unreachableTactic false
set_option linter.unusedVariables false

theorem keeps_showQualified {a : State} {s : State} (hs : Keeps a s) :
    Keeps a (showQualified s) := by
  unfold showQualified
  try dsimp only
  repeat' (first
    | with_reducible assumption
    | with_reducible apply keeps_fset
    | with_reducible refine keeps_foldl _ (fun _ _ _ => ?_) _ ?_
    | with_reducible refine keeps_foldl_pair _ (fun _ _ _ => ?_) _ ?_
    | with_reducible refine keeps_ite ?_ ?_
    | with_reducible refine keeps_ite_fun ?_ ?_
    | with_reducible apply keeps_id)

theorem keeps_slotGo {a : State} {n : Nat} {st : Nat} {cause : Nat} {s : State} (hs : Keeps a s) :
    Keeps a (slotGo n st cause s) := by
  unfold slotGo
  try dsimp only
  repeat' (first
    | with_reducible assumption
    | with_reducible apply keeps_fset
    | with_reducible apply keeps_bump
    | with_reducible apply keeps_cairnState
    | with_reducible apply keeps_occur
    | with_reducible apply keeps_showQualified
    | with_reducible refine keeps_ite ?_ ?_)

theorem keeps_jumpClear {a : State} {n : Nat} {s : State} (hs : Keeps a s) :
    Keeps a (jumpClear n s) := by
  unfold jumpClear
  try dsimp only
  repeat' (first
    | with_reducible assumption
    | with_reducible apply keeps_fset
    | with_reducible apply keeps_fsetB
    | with_reducible apply keeps_refSlSet
    | with_reducible apply keeps_upd')

theorem keeps_slotFresh {a : State} {n : Nat} {s : State} (hs : Keeps a s) :
    Keeps a (slotFresh n s) := by
  unfold slotFresh
  try dsimp only
  repeat' (first
    | with_reducible assumption
    | with_reducible apply keeps_refSlSet
    | with_reducible apply keeps_fset
    | with_reducible apply keeps_fsetB
    | with_reducible apply keeps_jumpClear
    | with_reducible apply keeps_upd')

theorem keeps_select {a : State} {s : State} (hs : Keeps a s) :
    Keeps a (select s) := by
  unfold select
  try dsimp only
  repeat' (first
    | with_reducible assumption
    | with_reducible apply keeps_slotGo
    | with_reducible apply keeps_fset
    | with_reducible apply keeps_absorbHold
    | with_reducible apply keeps_setLevel
    | with_reducible apply keeps_servoLost
    | with_reducible apply keeps_slewCancel
    | with_reducible apply keeps_fsetB
    | with_reducible refine keeps_ite ?_ ?_
    | split
    | with_reducible apply keeps_upd')

theorem keeps_refsCtl {a : State} {v : Word} {s : State} (hs : Keeps a s) :
    Keeps a (refsCtl v s) := by
  unfold refsCtl
  try dsimp only
  repeat' (first
    | with_reducible assumption
    | with_reducible apply keeps_select
    | with_reducible apply keeps_wr
    | with_reducible refine keeps_ite ?_ ?_
    | with_reducible apply keeps_upd')

theorem keeps_dropLost {a : State} {n : Nat} {s : State} (hs : Keeps a s) :
    Keeps a (dropLost n s) := by
  unfold dropLost
  try dsimp only
  repeat' (first
    | with_reducible assumption
    | with_reducible apply keeps_refSlSet
    | with_reducible refine keeps_ite ?_ ?_
    | with_reducible apply keeps_upd')

theorem keeps_switchTo {a : State} {n : Nat} {s : State} (hs : Keeps a s) :
    Keeps a (switchTo n s) := by
  unfold switchTo
  try dsimp only
  repeat' (first
    | with_reducible assumption
    | with_reducible apply keeps_wr
    | with_reducible apply keeps_dropLost
    | with_reducible apply keeps_servoFollow
    | with_reducible apply keeps_refSlSet
    | with_reducible apply keeps_slewAdd
    | with_reducible refine keeps_ite ?_ ?_
    | with_reducible apply keeps_upd')

theorem keeps_switchNote {a : State} {last : Nat} {n : Nat} {cause : Nat} {a0 : Int} {s : State} (hs : Keeps a s) :
    Keeps a (switchNote last n cause a0 s) := by
  unfold switchNote
  try dsimp only
  repeat' (first
    | with_reducible assumption
    | with_reducible apply keeps_fset
    | with_reducible apply keeps_cairnState
    | with_reducible apply keeps_occur
    | with_reducible apply keeps_bump)

theorem keeps_switchEnd {a : State} {s : State} (hs : Keeps a s) :
    Keeps a (switchEnd s) := by
  unfold switchEnd
  try dsimp only
  repeat' (first
    | with_reducible assumption
    | with_reducible apply keeps_slotGo
    | with_reducible apply keeps_switchTo
    | with_reducible apply keeps_fset
    | with_reducible apply keeps_fsetB
    | with_reducible apply keeps_switchNote
    | with_reducible apply keeps_setLevel
    | with_reducible apply keeps_refsCtl
    | with_reducible apply keeps_select
    | with_reducible refine keeps_ite ?_ ?_
    | split
    | with_reducible apply keeps_upd')

theorem keeps_servoArmed {a : State} {s : State} (hs : Keeps a s) :
    Keeps a (servoArmed s) := by
  unfold servoArmed
  try dsimp only
  repeat' (first
    | with_reducible assumption
    | with_reducible apply keeps_upd')

theorem keeps_armGivesWay {a : State} {s : State} (hs : Keeps a s) :
    Keeps a (armGivesWay s) := by
  unfold armGivesWay
  try dsimp only
  repeat' (first
    | with_reducible assumption
    | with_reducible apply keeps_writeIgnored
    | with_reducible refine keeps_ite ?_ ?_)

theorem keeps_armFirstSet {a : State} {n : Nat} {r : RefSample} {s : State} (hs : Keeps a s) :
    Keeps a (armFirstSet n r s) := by
  unfold armFirstSet
  try dsimp only
  repeat' (first
    | with_reducible assumption
    | with_reducible apply keeps_armGivesWay
    | with_reducible apply keeps_servoArmed
    | with_reducible apply keeps_occur
    | with_reducible apply keeps_setArm
    | with_reducible refine keeps_ite ?_ ?_
    | with_reducible apply keeps_upd')

theorem keeps_refAccept {a : State} {n : Nat} {r : RefSample} {s : State} (hs : Keeps a s) :
    Keeps a (refAccept n r s) := by
  unfold refAccept
  try dsimp only
  repeat' (first
    | with_reducible assumption
    | with_reducible apply keeps_jumpClear
    | with_reducible apply keeps_refSlSet
    | with_reducible apply keeps_bump
    | with_reducible apply keeps_armFirstSet
    | with_reducible refine keeps_ite ?_ ?_
    | with_reducible apply keeps_upd')

theorem keeps_refRefuse {a : State} {n : Nat} {r : RefSample} {s : State} (hs : Keeps a s) :
    Keeps a (refRefuse n r s) := by
  unfold refRefuse
  try dsimp only
  repeat' (first
    | with_reducible assumption
    | with_reducible apply keeps_refSlSet
    | with_reducible apply keeps_fset
    | with_reducible apply keeps_histTaint
    | with_reducible apply keeps_fsetB
    | with_reducible apply keeps_raiseOnce
    | with_reducible apply keeps_bump
    | with_reducible apply keeps_select
    | with_reducible apply keeps_slotGo
    | with_reducible refine keeps_ite ?_ ?_
    | with_reducible apply keeps_getD
    | with_reducible apply keeps_upd')

theorem keeps_refActive {a : State} {n : Nat} {s : State} (hs : Keeps a s) :
    Keeps a (refActive n s) := by
  unfold refActive
  try dsimp only
  repeat' (first
    | with_reducible assumption
    | with_reducible apply keeps_refSlSet
    | with_reducible apply keeps_upd')

theorem keeps_refEdgeAt {a : State} {n : Nat} {t : Nat} {s : State} (hs : Keeps a s) :
    Keeps a (refEdgeAt n t s) := by
  unfold refEdgeAt
  try dsimp only
  repeat' (first
    | with_reducible assumption
    | with_reducible apply keeps_refSlSet
    | with_reducible refine keeps_ite ?_ ?_
    | with_reducible apply keeps_upd')

theorem keeps_refSample {a : State} {n : Nat} {t : Nat} {xo : Nat} {off : Int} {q : Nat} {rtt : Nat} {old : Bool} {s : State} (hs : Keeps a s) :
    Keeps a (refSample n t xo off q rtt old s) := by
  unfold refSample
  try dsimp only
  repeat' (first
    | with_reducible assumption
    | with_reducible apply keeps_refActive
    | with_reducible apply keeps_refEdgeAt
    | with_reducible apply keeps_refSlSet
    | with_reducible apply keeps_bump
    | with_reducible apply keeps_refAccept
    | with_reducible apply keeps_refRefuse
    | with_reducible refine keeps_ite ?_ ?_
    | with_reducible apply keeps_upd')

theorem keeps_refActLoss {a : State} {n : Nat} {s : State} (hs : Keeps a s) :
    Keeps a (refActLoss n s) := by
  unfold refActLoss
  try dsimp only
  repeat' (first
    | with_reducible assumption
    | with_reducible apply keeps_refSlSet
    | with_reducible apply keeps_bump
    | with_reducible apply keeps_select
    | with_reducible apply keeps_slotGo
    | with_reducible refine keeps_ite ?_ ?_
    | with_reducible apply keeps_upd')

theorem keeps_refChange {a : State} {n : Nat} {s : State} (hs : Keeps a s) :
    Keeps a (refChange n s) := by
  unfold refChange
  try dsimp only
  repeat' (first
    | with_reducible assumption
    | with_reducible apply keeps_jumpClear
    | with_reducible apply keeps_refSlSet
    | with_reducible apply keeps_select
    | with_reducible apply keeps_slotGo
    | with_reducible refine keeps_ite ?_ ?_
    | with_reducible apply keeps_upd')

theorem keeps_watchFlag {a : State} {n : Nat} {m : Mon} {s : State} (hs : Keeps a s) :
    Keeps a (watchFlag n m s) := by
  unfold watchFlag
  try dsimp only
  repeat' (first
    | with_reducible assumption
    | with_reducible apply keeps_fsetB
    | with_reducible apply keeps_histTaint
    | with_reducible apply keeps_refSlSet
    | with_reducible apply keeps_cairnFault
    | with_reducible apply keeps_occur
    | with_reducible refine keeps_ite ?_ ?_
    | with_reducible apply keeps_upd')

theorem keeps_disqualify {a : State} {n : Nat} {s : State} (hs : Keeps a s) :
    Keeps a (disqualify n s) := by
  unfold disqualify
  try dsimp only
  repeat' (first
    | with_reducible assumption
    | with_reducible apply keeps_slotGo
    | with_reducible refine keeps_ite ?_ ?_)

theorem keeps_slotMachine {a : State} {n : Nat} {m : Mon} {s : State} (hs : Keeps a s) :
    Keeps a (slotMachine n m s) := by
  unfold slotMachine
  try dsimp only
  repeat' (first
    | with_reducible assumption
    | with_reducible apply keeps_fset
    | with_reducible apply keeps_refSlSet
    | with_reducible apply keeps_slotGo
    | with_reducible apply keeps_wr
    | with_reducible apply keeps_disqualify
    | with_reducible refine keeps_ite ?_ ?_
    | with_reducible apply keeps_upd')

theorem keeps_presence {a : State} {n : Nat} {s : State} (hs : Keeps a s) :
    Keeps a (presence n s) := by
  unfold presence
  try dsimp only
  repeat' (first
    | with_reducible assumption
    | with_reducible apply keeps_slotGo
    | with_reducible apply keeps_slotFresh
    | with_reducible refine keeps_ite ?_ ?_)

theorem keeps_slotUpdate {a : State} {n : Nat} {s0 : State} (hs0 : Keeps a s0) :
    Keeps a (slotUpdate n s0) := by
  unfold slotUpdate
  try dsimp only
  repeat' (first
    | with_reducible assumption
    | with_reducible apply keeps_presence
    | with_reducible apply keeps_slotMachine
    | with_reducible apply keeps_watchFlag
    | with_reducible apply keeps_fset
    | with_reducible apply keeps_refSlSet
    | with_reducible apply keeps_fsetI
    | with_reducible refine keeps_ite ?_ ?_
    | split
    | with_reducible apply keeps_upd')

theorem keeps_monitorUpdate {a : State} {s : State} (hs : Keeps a s) :
    Keeps a (monitorUpdate s) := by
  unfold monitorUpdate
  try dsimp only
  repeat' (first
    | with_reducible assumption
    | (with_reducible refine keeps_forEach (fun _ _ _ => ?_) ?_)
    | with_reducible apply keeps_slotUpdate
    | with_reducible apply keeps_boundSecond
    | with_reducible apply keeps_select
    | with_reducible refine keeps_ite ?_ ?_)

theorem keeps_disqExpiry {a : State} {n : Nat} {s : State} (hs : Keeps a s) :
    Keeps a (disqExpiry n s) := by
  unfold disqExpiry
  try dsimp only
  repeat' (first
    | with_reducible assumption
    | with_reducible apply keeps_disqualify
    | with_reducible apply keeps_select
    | with_reducible refine keeps_ite ?_ ?_)

theorem keeps_driftSlot {a : State} {n : Nat} {s : State} (hs : Keeps a s) :
    Keeps a (driftSlot n s) := by
  unfold driftSlot
  try dsimp only
  repeat' (first
    | with_reducible assumption
    | with_reducible apply keeps_refSlSet
    | with_reducible apply keeps_fsetB
    | with_reducible apply keeps_wr
    | with_reducible apply keeps_histTaint
    | with_reducible apply keeps_cairnFault
    | with_reducible apply keeps_occur
    | with_reducible refine keeps_ite ?_ ?_
    | with_reducible refine keeps_ite_fun ?_ ?_
    | with_reducible apply keeps_id
    | with_reducible apply keeps_getD
    | with_reducible apply keeps_upd')

theorem keeps_driftEstimate {a : State} {s : State} (hs : Keeps a s) :
    Keeps a (driftEstimate s) := by
  unfold driftEstimate
  try dsimp only
  repeat' (first
    | with_reducible assumption
    | (with_reducible refine keeps_forEach (fun _ _ _ => ?_) ?_)
    | with_reducible apply keeps_driftSlot)

theorem keeps_acceptJump {a : State} {n : Nat} {s : State} (hs : Keeps a s) :
    Keeps a (acceptJump n s) := by
  unfold acceptJump
  try dsimp only
  repeat' (first
    | with_reducible assumption
    | with_reducible apply keeps_jumpClear
    | with_reducible apply keeps_refSlSet
    | split
    | with_reducible apply keeps_upd')

theorem keeps_lockout {a : State} {n : Nat} {s : State} (hs : Keeps a s) :
    Keeps a (lockout n s) := by
  unfold lockout
  try dsimp only
  repeat' (first
    | with_reducible assumption
    | with_reducible apply keeps_select
    | with_reducible apply keeps_slotGo)

theorem keeps_unlock {a : State} {n : Nat} {s : State} (hs : Keeps a s) :
    Keeps a (unlock n s) := by
  unfold unlock
  try dsimp only
  repeat' (first
    | with_reducible assumption
    | with_reducible apply keeps_select
    | with_reducible apply keeps_slotGo
    | with_reducible apply keeps_slotFresh)

theorem keeps_slotEnable {a : State} {n : Nat} {on : Bool} {s : State} (hs : Keeps a s) :
    Keeps a (slotEnable n on s) := by
  unfold slotEnable
  try dsimp only
  repeat' (first
    | with_reducible assumption
    | with_reducible apply keeps_select
    | with_reducible apply keeps_slotGo
    | with_reducible apply keeps_slotFresh
    | with_reducible refine keeps_ite ?_ ?_)

theorem keeps_refsSetEdge {a : State} {armedBySlot : Bool} {d : Int} {s : State} (hs : Keeps a s) :
    Keeps a (refsSetEdge armedBySlot d s) := by
  unfold refsSetEdge
  try dsimp only
  repeat' (first
    | with_reducible assumption
    | (with_reducible refine keeps_forEach (fun _ _ _ => ?_) ?_)
    | with_reducible apply keeps_jumpClear
    | with_reducible apply keeps_refSlSet
    | with_reducible apply keeps_switchNote
    | with_reducible apply keeps_switchTo
    | with_reducible refine keeps_ite ?_ ?_
    | with_reducible apply keeps_upd')

theorem keeps_refsApply {a : State} {a0 : Nat} {v : Word} {s : State} {stored : State} (hs : Keeps a s) (hstored : Keeps a stored) :
    OKeeps a (refsApply a0 v s stored) := by
  unfold refsApply
  try dsimp only
  repeat' (first
    | with_reducible assumption
    | with_reducible apply keeps_refsCtl
    | with_reducible apply keeps_slotEnable
    | with_reducible refine keeps_ite ?_ ?_
    | with_reducible refine okeeps_ite ?_ ?_
    | with_reducible apply okeeps_some
    | with_reducible exact okeeps_none
    | with_reducible refine okeeps_map ?_ (fun _ _ => ?_)
    | with_reducible apply okeeps_orElse
    | split
    | with_reducible apply keeps_upd')

theorem keeps_execRefSample {slot : Nat} {t : Nat} {xo : Nat} {off : Int} {q : Nat} {rtt : Nat} {old : Bool} {s : State}  :
    RKeeps s (execRefSample slot t xo off q rtt old s) := by
  unfold execRefSample
  first
    | with_reducible refine rkeeps_run ?_
    | with_reducible refine rkeeps_runIf ?_
    | with_reducible refine rkeeps_next ?_
    | (unfold keRun; with_reducible refine rkeeps_runIf ?_)
  try dsimp only
  repeat' (first
    | with_reducible assumption
    | with_reducible exact Keeps_refl _
    | with_reducible apply keeps_refSample)

theorem keeps_execRefMonitorUpdate {s : State}  :
    RKeeps s (execRefMonitorUpdate s) := by
  unfold execRefMonitorUpdate
  first
    | with_reducible refine rkeeps_run ?_
    | with_reducible refine rkeeps_runIf ?_
    | with_reducible refine rkeeps_next ?_
    | (unfold keRun; with_reducible refine rkeeps_runIf ?_)
  try dsimp only
  repeat' (first
    | with_reducible assumption
    | with_reducible exact Keeps_refl _
    | with_reducible apply keeps_monitorUpdate)

theorem keeps_execRefActivityLoss {slot : Nat} {s : State}  :
    RKeeps s (execRefActivityLoss slot s) := by
  unfold execRefActivityLoss
  first
    | with_reducible refine rkeeps_run ?_
    | with_reducible refine rkeeps_runIf ?_
    | with_reducible refine rkeeps_next ?_
    | (unfold keRun; with_reducible refine rkeeps_runIf ?_)
  try dsimp only
  repeat' (first
    | with_reducible assumption
    | with_reducible exact Keeps_refl _
    | with_reducible apply keeps_refActLoss)

theorem keeps_execRefDriftEstimate {s : State}  :
    RKeeps s (execRefDriftEstimate s) := by
  unfold execRefDriftEstimate
  first
    | with_reducible refine rkeeps_run ?_
    | with_reducible refine rkeeps_runIf ?_
    | with_reducible refine rkeeps_next ?_
    | (unfold keRun; with_reducible refine rkeeps_runIf ?_)
  try dsimp only
  repeat' (first
    | with_reducible assumption
    | with_reducible exact Keeps_refl _
    | with_reducible apply keeps_driftEstimate)

theorem keeps_execRefWtrEnd {s : State}  :
    RKeeps s (execRefWtrEnd s) := by
  unfold execRefWtrEnd
  first
    | with_reducible refine rkeeps_run ?_
    | with_reducible refine rkeeps_runIf ?_
    | with_reducible refine rkeeps_next ?_
    | (unfold keRun; with_reducible refine rkeeps_runIf ?_)
  try dsimp only
  repeat' (first
    | with_reducible assumption
    | with_reducible exact Keeps_refl _
    | with_reducible apply keeps_select)

theorem keeps_execRefSwitchEnd {s : State}  :
    RKeeps s (execRefSwitchEnd s) := by
  unfold execRefSwitchEnd
  first
    | with_reducible refine rkeeps_run ?_
    | with_reducible refine rkeeps_runIf ?_
    | with_reducible refine rkeeps_next ?_
    | (unfold keRun; with_reducible refine rkeeps_runIf ?_)
  try dsimp only
  repeat' (first
    | with_reducible assumption
    | with_reducible exact Keeps_refl _
    | with_reducible apply keeps_switchEnd)

theorem keeps_execDisqTimeExpiry {slot : Nat} {s : State}  :
    RKeeps s (execDisqTimeExpiry slot s) := by
  unfold execDisqTimeExpiry
  first
    | with_reducible refine rkeeps_run ?_
    | with_reducible refine rkeeps_runIf ?_
    | with_reducible refine rkeeps_next ?_
    | (unfold keRun; with_reducible refine rkeeps_runIf ?_)
  try dsimp only
  repeat' (first
    | with_reducible assumption
    | with_reducible exact Keeps_refl _
    | with_reducible apply keeps_disqExpiry)

end Sys2Proof.Laws
end

