-- ==== Sys2Proof/Laws/KeepsGnss.lean ====
section
/-!
SUPPORT. Laws/KeepsGnss.lean: the functions of Machine/Gnss.lean keep what every command keeps (Keeps of Safety.lean).
-/
namespace Sys2Proof.Laws
open Sys2Proof Sys2Proof.Machine

set_option linter.unusedTactic false
set_option linter.unreachableTactic false
set_option linter.unusedVariables false

theorem keeps_gnssSet {a : State} {f : GnssState → GnssState} {s : State} (hs : Keeps a s) :
    Keeps a (gnssSet f s) := by
  unfold gnssSet
  try dsimp only
  repeat' (first
    | with_reducible assumption
    | with_reducible apply hf
    | with_reducible apply keeps_upd')

theorem keeps_gnssShow {a : State} {s : State} (hs : Keeps a s) :
    Keeps a (gnssShow s) := by
  unfold gnssShow
  try dsimp only
  repeat' (first
    | with_reducible assumption
    | with_reducible apply keeps_fsetB
    | with_reducible apply keeps_fset
    | with_reducible apply keeps_setLevel
    | with_reducible refine keeps_ite ?_ ?_)

theorem keeps_feFault {a : State} {detail : Nat} {s : State} (hs : Keeps a s) :
    Keeps a (feFault detail s) := by
  unfold feFault
  try dsimp only
  repeat' (first
    | with_reducible assumption
    | with_reducible apply keeps_cairnFault
    | with_reducible apply keeps_gnssShow
    | with_reducible apply keeps_gnssSet
    | with_reducible apply keeps_upd')

theorem keeps_validRise {a : State} {t : Nat} {s : State} (hs : Keeps a s) :
    Keeps a (validRise t s) := by
  unfold validRise
  try dsimp only
  repeat' (first
    | with_reducible assumption
    | with_reducible apply keeps_gnssSet
    | with_reducible refine keeps_ite ?_ ?_
    | with_reducible apply keeps_upd')

theorem keeps_feScript {a : State} {reads : List (List Byte)} {rose : Bool} {s : State} (hs : Keeps a s) :
    Keeps a (feScript reads rose s) := by
  unfold feScript
  try dsimp only
  repeat' (first
    | with_reducible assumption
    | with_reducible apply keeps_emitOut
    | with_reducible apply keeps_feFault
    | with_reducible apply keeps_gnssSet
    | with_reducible apply keeps_gnssShow
    | with_reducible apply keeps_validRise
    | with_reducible refine keeps_foldl _ (fun _ _ _ => ?_) _ ?_
    | with_reducible refine keeps_foldl_pair _ (fun _ _ _ => ?_) _ ?_
    | with_reducible refine keeps_ite ?_ ?_
    | with_reducible apply keeps_upd')

theorem keeps_showTracked {a : State} {s : State} (hs : Keeps a s) :
    Keeps a (showTracked s) := by
  unfold showTracked
  try dsimp only
  repeat' (first
    | with_reducible assumption
    | with_reducible apply keeps_fset)

theorem keeps_chanSet {a : State} {c : Nat} {x : GnssChan} {s : State} (hs : Keeps a s) :
    Keeps a (chanSet c x s) := by
  unfold chanSet
  try dsimp only
  repeat' (first
    | with_reducible assumption
    | with_reducible apply keeps_showTracked
    | with_reducible apply keeps_gnssSet
    | with_reducible apply keeps_upd')

theorem keeps_chansIdle {a : State} {s : State} (hs : Keeps a s) :
    Keeps a (chansIdle s) := by
  unfold chansIdle
  try dsimp only
  repeat' (first
    | with_reducible assumption
    | with_reducible apply keeps_showTracked
    | with_reducible apply keeps_gnssSet
    | with_reducible apply keeps_upd')

theorem keeps_chanLoss {a : State} {c : Nat} {s : State} (hs : Keeps a s) :
    Keeps a (chanLoss c s) := by
  unfold chanLoss
  try dsimp only
  repeat' (first
    | with_reducible assumption
    | with_reducible apply keeps_chanSet
    | with_reducible apply keeps_bump
    | with_reducible apply keeps_gnssSet
    | with_reducible refine keeps_ite ?_ ?_
    | with_reducible apply keeps_upd')

theorem keeps_validFall {a : State} {back : Option Nat} {s : State} (hs : Keeps a s) :
    Keeps a (validFall back s) := by
  unfold validFall
  try dsimp only
  repeat' (first
    | with_reducible assumption
    | with_reducible apply keeps_bump
    | with_reducible apply keeps_gnssSet
    | with_reducible refine keeps_ite ?_ ?_
    | split
    | with_reducible apply keeps_upd')

theorem keeps_validGap {a : State} {s : State} (hs : Keeps a s) :
    Keeps a (validGap s) := by
  unfold validGap
  try dsimp only
  repeat' (first
    | with_reducible assumption
    | with_reducible apply keeps_feFault
    | with_reducible apply keeps_showTracked
    | with_reducible apply keeps_bump
    | with_reducible apply keeps_gnssSet
    | with_reducible refine keeps_ite ?_ ?_
    | with_reducible apply keeps_upd')

theorem keeps_validBack {a : State} {s : State} (hs : Keeps a s) :
    Keeps a (validBack s) := by
  unfold validBack
  try dsimp only
  repeat' (first
    | with_reducible assumption
    | with_reducible apply keeps_gnssShow
    | with_reducible apply keeps_gnssSet
    | with_reducible apply keeps_validRise
    | with_reducible refine keeps_ite ?_ ?_
    | with_reducible apply keeps_upd')

theorem keeps_validTimeout {a : State} {s : State} (hs : Keeps a s) :
    Keeps a (validTimeout s) := by
  unfold validTimeout
  try dsimp only
  repeat' (first
    | with_reducible assumption
    | with_reducible apply keeps_feFault
    | with_reducible apply keeps_gnssSet
    | with_reducible refine keeps_ite ?_ ?_
    | with_reducible apply keeps_upd')

theorem keeps_chanPrune {a : State} {s : State} (hs : Keeps a s) :
    Keeps a (chanPrune s) := by
  unfold chanPrune
  try dsimp only
  repeat' (first
    | with_reducible assumption
    | with_reducible apply keeps_showTracked
    | with_reducible apply keeps_gnssSet
    | with_reducible apply keeps_upd')

theorem keeps_delayWrite {a : State} {b : Nat} {s : State} {stored : State} (hs : Keeps a s) (hstored : Keeps a stored) :
    Keeps a (delayWrite b s stored) := by
  unfold delayWrite
  try dsimp only
  repeat' (first
    | with_reducible assumption
    | with_reducible apply keeps_gnssSet
    | with_reducible apply keeps_upd')

theorem keeps_bufFill {a : State} {s : State} (hs : Keeps a s) :
    Keeps a (bufFill s) := by
  unfold bufFill
  try dsimp only
  repeat' (first
    | with_reducible assumption
    | with_reducible apply keeps_gnssSet
    | with_reducible refine keeps_ite ?_ ?_
    | with_reducible refine keeps_ite_fun ?_ ?_
    | with_reducible apply keeps_id
    | split
    | with_reducible apply keeps_upd')

theorem keeps_bufMeet {a : State} {s : State} (hs : Keeps a s) :
    Keeps a (bufMeet s) := by
  unfold bufMeet
  try dsimp only
  repeat' (first
    | with_reducible assumption
    | with_reducible apply keeps_eccRead
    | with_reducible apply keeps_eccWrite
    | with_reducible apply keeps_gnssSet
    | with_reducible refine keeps_foldl _ (fun _ _ _ => ?_) _ ?_
    | with_reducible refine keeps_foldl_pair _ (fun _ _ _ => ?_) _ ?_
    | with_reducible refine keeps_ite ?_ ?_
    | with_reducible apply keeps_upd')

theorem keeps_acqHit {a : State} {a0 : State} {x : Nat × Nat × Nat × Nat} (ha0 : Keeps a a0) :
    Keeps a (acqHit a0 x) := by
  unfold acqHit
  try dsimp only
  repeat' (first
    | with_reducible assumption
    | with_reducible apply keeps_chanSet
    | with_reducible apply keeps_gnssSet
    | with_reducible refine keeps_ite ?_ ?_
    | with_reducible apply keeps_upd')

theorem keeps_acqBatch {a : State} {cells : Nat} {found : List (Nat × Nat × Nat × Nat)} {s : State} (hs : Keeps a s) :
    Keeps a (acqBatch cells found s) := by
  unfold acqBatch
  try dsimp only
  repeat' (first
    | with_reducible assumption
    | with_reducible apply keeps_acqHit
    | with_reducible apply keeps_bump
    | with_reducible apply keeps_bufMeet
    | with_reducible apply keeps_bufFill
    | with_reducible refine keeps_foldl _ (fun _ _ _ => ?_) _ ?_
    | with_reducible refine keeps_foldl_pair _ (fun _ _ _ => ?_) _ ?_
    | with_reducible refine keeps_ite ?_ ?_)

theorem keeps_chanTrack {a : State} {c : Nat} {s : State} (hs : Keeps a s) :
    Keeps a (chanTrack c s) := by
  unfold chanTrack
  try dsimp only
  repeat' (first
    | with_reducible assumption
    | with_reducible apply keeps_chanSet
    | with_reducible refine keeps_ite ?_ ?_
    | with_reducible apply keeps_upd')

theorem keeps_measAll {a : State} {t : Nat} {reports : List (Nat × Int × Int × Int × Nat × Nat)} {s : State} (hs : Keeps a s) :
    Keeps a (measAll t reports s).2 := by
  unfold measAll
  try dsimp only
  repeat' (first
    | with_reducible assumption
    | with_reducible apply keeps_draw
    | with_reducible refine keeps_foldl _ (fun _ _ _ => ?_) _ ?_
    | with_reducible refine keeps_foldl_pair _ (fun _ _ _ => ?_) _ ?_
    | split
    | with_reducible refine keeps_of_pair ?_ ‹_ = (_, _)›
    | with_reducible apply keeps_upd')

theorem keeps_measEpoch {a : State} {t : Nat} {reports : List (Nat × Int × Int × Int × Nat × Nat)} {s : State} (hs : Keeps a s) :
    Keeps a (measEpoch t reports s) := by
  unfold measEpoch
  try dsimp only
  repeat' (first
    | with_reducible assumption
    | with_reducible apply keeps_measAll
    | with_reducible apply keeps_gnssSet
    | with_reducible refine keeps_ite ?_ ?_
    | with_reducible apply keeps_upd')

theorem keeps_navLevel {a : State} {s : State} (hs : Keeps a s) :
    Keeps a (navLevel s) := by
  unfold navLevel
  try dsimp only
  repeat' (first
    | with_reducible assumption
    | with_reducible apply keeps_setLevel)

theorem keeps_utcTake {a : State} {sv : Nat} {p : Int × Nat × Int} {s : State} (hs : Keeps a s) :
    Keeps a (utcTake sv p s) := by
  unfold utcTake
  try dsimp only
  repeat' (first
    | with_reducible assumption
    | with_reducible apply keeps_gnssSet
    | with_reducible apply keeps_cairnState
    | with_reducible apply keeps_journalState
    | with_reducible apply keeps_fsetI
    | with_reducible apply keeps_occur
    | with_reducible apply keeps_leapPendingSet
    | with_reducible apply keeps_wr
    | with_reducible refine keeps_ite ?_ ?_
    | with_reducible apply keeps_upd')

theorem keeps_navHold {a : State} {sys : Nat} {sig : Nat} {sv : Nat} {nbits : Nat} {ok : Nat} {bits : List Byte} {s : State} (hs : Keeps a s) :
    Keeps a (navHold sys sig sv nbits ok bits s) := by
  unfold navHold
  try dsimp only
  repeat' (first
    | with_reducible assumption
    | with_reducible apply keeps_gnssSet
    | with_reducible refine keeps_ite ?_ ?_
    | with_reducible apply keeps_upd')

theorem keeps_navUnit {a : State} {edge : Nat} {sys : Nat} {sig : Nat} {sv : Nat} {ch : Nat} {nbits : Nat} {check : Nat} {flags : Nat} {ok : Nat} {cn0 : Nat} {bits : List Byte} {utc : Option (Int × Nat × Int)} {s0 : State} (hs0 : Keeps a s0) :
    Keeps a (navUnit edge sys sig sv ch nbits check flags ok cn0 bits utc s0) := by
  unfold navUnit
  try dsimp only
  repeat' (first
    | with_reducible assumption
    | with_reducible apply keeps_navHold
    | with_reducible apply keeps_bump
    | with_reducible apply keeps_raiseOnce
    | with_reducible apply keeps_navLevel
    | with_reducible apply keeps_fset
    | with_reducible apply keeps_putMem
    | with_reducible apply keeps_utcTake
    | with_reducible refine keeps_ite ?_ ?_
    | split
    | with_reducible apply keeps_upd')

theorem keeps_jumpShow {a : State} {on : Bool} {left : Nat} {s : State} (hs : Keeps a s) :
    Keeps a (jumpShow on left s) := by
  unfold jumpShow
  try dsimp only
  repeat' (first
    | with_reducible assumption
    | with_reducible apply keeps_setLevel
    | with_reducible apply keeps_fset
    | with_reducible apply keeps_fsetB)

theorem keeps_gnssAccept {a : State} {s : State} (hs : Keeps a s) :
    Keeps a (gnssAccept s) := by
  unfold gnssAccept
  try dsimp only
  repeat' (first
    | with_reducible assumption
    | with_reducible apply keeps_jumpShow
    | with_reducible apply keeps_acceptJump
    | with_reducible apply keeps_switchTo
    | with_reducible refine keeps_ite ?_ ?_)

theorem keeps_acceptAny {a : State} {n : Nat} {s : State} (hs : Keeps a s) :
    Keeps a (acceptAny n s) := by
  unfold acceptAny
  try dsimp only
  repeat' (first
    | with_reducible assumption
    | with_reducible apply keeps_gnssAccept
    | with_reducible apply keeps_acceptJump
    | with_reducible refine keeps_ite ?_ ?_)

theorem keeps_gnssRefuse {a : State} {sec : Nat} {d : Int} {bound : Nat} {r : RefSample} {s : State} (hs : Keeps a s) :
    Keeps a (gnssRefuse sec d bound r s) := by
  unfold gnssRefuse
  try dsimp only
  repeat' (first
    | with_reducible assumption
    | with_reducible apply keeps_gnssSet
    | with_reducible apply keeps_refRefuse
    | with_reducible apply keeps_bump
    | with_reducible apply keeps_refActive
    | with_reducible apply keeps_jumpShow
    | with_reducible apply keeps_cairnFault
    | with_reducible apply keeps_gnssAccept
    | with_reducible refine keeps_ite ?_ ?_
    | with_reducible apply keeps_getD
    | with_reducible apply keeps_upd')

theorem keeps_sysExclude {a : State} {dAll : Int} {used : List SolSat} {systems : List (Nat × Int)} {s : State} (hs : Keeps a s) :
    Keeps a (sysExclude dAll used systems s) := by
  unfold sysExclude
  try dsimp only
  repeat' (first
    | with_reducible assumption
    | with_reducible apply keeps_cairnFault
    | with_reducible apply keeps_occur
    | with_reducible apply keeps_bump
    | with_reducible apply keeps_fset
    | with_reducible refine keeps_foldl _ (fun _ _ _ => ?_) _ ?_
    | with_reducible refine keeps_foldl_pair _ (fun _ _ _ => ?_) _ ?_
    | with_reducible refine keeps_ite ?_ ?_)

theorem keeps_posCheck {a : State} {sec : Nat} {err : Nat} {s : State} (hs : Keeps a s) :
    Keeps a (posCheck sec err s) := by
  unfold posCheck
  try dsimp only
  repeat' (first
    | with_reducible assumption
    | with_reducible apply keeps_gnssSet
    | with_reducible apply keeps_setLevel
    | with_reducible apply keeps_fsetB
    | with_reducible refine keeps_ite ?_ ?_
    | with_reducible apply keeps_upd')

theorem keeps_jumpRestart {a : State} {s : State} (hs : Keeps a s) :
    Keeps a (jumpRestart s) := by
  unfold jumpRestart
  try dsimp only
  repeat' (first
    | with_reducible assumption
    | with_reducible apply keeps_fset
    | with_reducible apply keeps_gnssSet
    | with_reducible refine keeps_ite ?_ ?_
    | with_reducible apply keeps_upd')

theorem keeps_isbTake {a : State} {sec : Nat} {used : List SolSat} {s : State} (hs : Keeps a s) :
    Keeps a (isbTake sec used s) := by
  unfold isbTake
  try dsimp only
  repeat' (first
    | with_reducible assumption
    | (with_reducible refine keeps_forEach (fun _ _ _ => ?_) ?_)
    | with_reducible apply keeps_gnssSet
    | with_reducible refine keeps_ite ?_ ?_
    | with_reducible apply keeps_upd')

theorem keeps_gnssSolution {a : State} {sec : Nat} {dAll : Int} {d0 : Int} {sigma : Nat} {residuals : List SolSat} {systems : List (Nat × Int)} {posErr : Nat} {sIn : State} (hsIn : Keeps a sIn) :
    Keeps a (gnssSolution sec dAll d0 sigma residuals systems posErr sIn) := by
  unfold gnssSolution
  try dsimp only
  repeat' (first
    | with_reducible assumption
    | with_reducible apply keeps_gnssSet
    | with_reducible apply keeps_sysExclude
    | with_reducible apply keeps_bump
    | with_reducible apply keeps_jumpRestart
    | with_reducible apply keeps_isbTake
    | with_reducible apply keeps_fset
    | with_reducible apply keeps_fsetI
    | with_reducible apply keeps_fsetB
    | with_reducible apply keeps_posCheck
    | with_reducible apply keeps_occur
    | with_reducible apply keeps_gnssShow
    | with_reducible apply keeps_refSample
    | with_reducible apply keeps_refSlSet
    | with_reducible apply keeps_jumpShow
    | with_reducible apply keeps_gnssRefuse
    | with_reducible refine keeps_ite ?_ ?_
    | with_reducible refine keeps_ite_fun ?_ ?_
    | with_reducible apply keeps_id
    | with_reducible apply keeps_upd')

theorem keeps_sysExclEnd {a : State} {sys : Nat} {s : State} (hs : Keeps a s) :
    Keeps a (sysExclEnd sys s) := by
  unfold sysExclEnd
  try dsimp only
  repeat' (first
    | with_reducible assumption
    | with_reducible apply keeps_fset
    | with_reducible refine keeps_ite ?_ ?_)

theorem keeps_noSolution {a : State} {s : State} (hs : Keeps a s) :
    Keeps a (noSolution s) := by
  unfold noSolution
  try dsimp only
  repeat' (first
    | with_reducible assumption
    | with_reducible apply keeps_refActLoss
    | with_reducible apply keeps_gnssShow
    | with_reducible apply keeps_jumpRestart
    | with_reducible apply keeps_fsetB
    | with_reducible refine keeps_ite ?_ ?_)

theorem keeps_surveyStart {a : State} {s : State} (hs : Keeps a s) :
    Keeps a (surveyStart s) := by
  unfold surveyStart
  try dsimp only
  repeat' (first
    | with_reducible assumption
    | with_reducible apply keeps_gnssShow
    | with_reducible apply keeps_setLevel
    | with_reducible apply keeps_fsetB
    | with_reducible apply keeps_gnssSet
    | with_reducible apply keeps_upd')

theorem keeps_surveyDone {a : State} {x : Int} {y : Int} {z : Int} {sd : Nat} {s : State} (hs : Keeps a s) :
    Keeps a (surveyDone x y z sd s) := by
  unfold surveyDone
  try dsimp only
  repeat' (first
    | with_reducible assumption
    | with_reducible apply keeps_wr
    | with_reducible apply keeps_fsetB
    | with_reducible apply keeps_gnssShow
    | with_reducible apply keeps_occur
    | with_reducible apply keeps_gnssSet
    | with_reducible refine keeps_ite ?_ ?_
    | with_reducible apply keeps_upd')

theorem keeps_timePulse {a : State} {s : State} (hs : Keeps a s) :
    Keeps a (timePulse s) := by
  unfold timePulse
  try dsimp only
  repeat' (first
    | with_reducible assumption
    | with_reducible apply keeps_gnssSet
    | with_reducible refine keeps_ite ?_ ?_
    | split
    | with_reducible apply keeps_upd')

theorem keeps_tpMessage {a : State} {sec : Nat} {qerr : Int} {s : State} (hs : Keeps a s) :
    Keeps a (tpMessage sec qerr s) := by
  unfold tpMessage
  try dsimp only
  repeat' (first
    | with_reducible assumption
    | with_reducible apply keeps_occur
    | (with_reducible refine keeps_forEach (fun _ _ _ => ?_) ?_)
    | with_reducible apply keeps_wr
    | with_reducible apply keeps_gnssSet
    | with_reducible refine keeps_ite ?_ ?_
    | with_reducible apply keeps_upd')

theorem keeps_snapRefuse {a : State} {result : Nat} {s : State} (hs : Keeps a s) :
    Keeps a (snapRefuse result s) := by
  unfold snapRefuse
  try dsimp only
  repeat' (first
    | with_reducible assumption
    | with_reducible apply keeps_occur
    | with_reducible apply keeps_bump
    | with_reducible apply keeps_fset)

theorem keeps_snapPlace {a : State} {start : Nat} {trig : Option Nat} {dest : Nat} {bands : Nat} {len : Nat} {s : State} (hs : Keeps a s) :
    Keeps a (snapPlace start trig dest bands len s) := by
  unfold snapPlace
  try dsimp only
  repeat' (first
    | with_reducible assumption
    | with_reducible apply keeps_fset
    | with_reducible apply keeps_gnssSet
    | with_reducible refine keeps_ite ?_ ?_
    | with_reducible refine keeps_ite_fun ?_ ?_
    | with_reducible apply keeps_id
    | with_reducible apply keeps_upd')

theorem keeps_snapArm {a : State} {start : Nat} {trig : Option Nat} {dest : Nat} {bands : Nat} {len : Nat} {s : State} (hs : Keeps a s) :
    Keeps a (snapArm start trig dest bands len s) := by
  unfold snapArm
  try dsimp only
  repeat' (first
    | with_reducible assumption
    | with_reducible apply keeps_snapRefuse
    | with_reducible apply keeps_snapPlace
    | with_reducible refine keeps_ite ?_ ?_)

theorem keeps_snapTrigger {a : State} {k : Nat} {at_ : Nat} {s : State} (hs : Keeps a s) :
    Keeps a (snapTrigger k at_ s) := by
  unfold snapTrigger
  try dsimp only
  repeat' (first
    | with_reducible assumption
    | with_reducible apply keeps_gnssSet
    | with_reducible refine keeps_ite ?_ ?_
    | with_reducible apply keeps_upd')

theorem keeps_snapStart {a : State} {edge : Nat} {s : State} (hs : Keeps a s) :
    Keeps a (snapStart edge s) := by
  unfold snapStart
  try dsimp only
  repeat' (first
    | with_reducible assumption
    | with_reducible apply keeps_fset
    | with_reducible apply keeps_gnssSet
    | with_reducible refine keeps_ite ?_ ?_
    | split
    | with_reducible apply keeps_upd')

theorem keeps_snapStore {a : State} {exp : Bool} {bs : List Byte} {s : State} (hs : Keeps a s) :
    Keeps a (snapStore exp bs s).2 := by
  unfold snapStore
  try dsimp only
  repeat' (first
    | with_reducible assumption
    | with_reducible apply keeps_putMem
    | with_reducible apply keeps_touchMem
    | with_reducible refine keeps_ite ?_ ?_
    | with_reducible refine keeps_ite_snd ?_ ?_)

theorem keeps_snapDone {a : State} {data : List Byte} {sats : Nat} {s : State} (hs : Keeps a s) :
    Keeps a (snapDone data sats s) := by
  unfold snapDone
  try dsimp only
  repeat' (first
    | with_reducible assumption
    | with_reducible apply keeps_snapStore
    | with_reducible apply keeps_fset
    | with_reducible apply keeps_gnssSet
    | with_reducible apply keeps_occur
    | with_reducible apply keeps_bump
    | with_reducible refine keeps_ite ?_ ?_
    | with_reducible refine keeps_ite_fun ?_ ?_
    | with_reducible apply keeps_id
    | with_reducible apply keeps_upd')

theorem keeps_snapRelease {a : State} {s : State} (hs : Keeps a s) :
    Keeps a (snapRelease s) := by
  unfold snapRelease
  try dsimp only
  repeat' (first
    | with_reducible assumption
    | with_reducible apply keeps_fset
    | with_reducible refine keeps_ite ?_ ?_)

theorem keeps_leanCycle {a : State} {sec : Nat} {reads : List (List Byte)} {rose : Bool} {s : State} (hs : Keeps a s) :
    Keeps a (leanCycle sec reads rose s) := by
  unfold leanCycle
  try dsimp only
  repeat' (first
    | with_reducible assumption
    | with_reducible apply keeps_gnssShow
    | with_reducible apply keeps_gnssSet
    | with_reducible apply keeps_chansIdle
    | with_reducible apply keeps_feScript
    | with_reducible apply keeps_snapRefuse
    | with_reducible apply keeps_snapPlace
    | with_reducible refine keeps_ite ?_ ?_
    | with_reducible apply keeps_upd')

theorem keeps_ephemWindow {a : State} {on : Bool} {s : State} (hs : Keeps a s) :
    Keeps a (ephemWindow on s) := by
  unfold ephemWindow
  try dsimp only
  repeat' (first
    | with_reducible assumption
    | with_reducible apply keeps_gnssSet
    | with_reducible apply keeps_chansIdle
    | with_reducible refine keeps_ite ?_ ?_
    | with_reducible refine keeps_ite_fun ?_ ?_
    | with_reducible apply keeps_id
    | with_reducible apply keeps_upd')

theorem keeps_bandMonitor {a : State} {l1 : Nat} {l5 : Nat} {s : State} (hs : Keeps a s) :
    Keeps a (bandMonitor l1 l5 s) := by
  unfold bandMonitor
  try dsimp only
  repeat' (first
    | with_reducible assumption
    | with_reducible apply keeps_gnssSet
    | with_reducible apply keeps_setLevel
    | with_reducible apply keeps_fset
    | with_reducible refine keeps_ite ?_ ?_
    | with_reducible apply keeps_upd')

theorem keeps_gnssApply {a : State} {a0 : Nat} {v : Word} {s : State} {stored : State} (hs : Keeps a s) (hstored : Keeps a stored) :
    OKeeps a (gnssApply a0 v s stored) := by
  unfold gnssApply
  try dsimp only
  repeat' (first
    | with_reducible assumption
    | with_reducible apply keeps_gnssAccept
    | with_reducible apply keeps_gnssShow
    | with_reducible apply keeps_chanPrune
    | with_reducible apply keeps_gnssSet
    | with_reducible apply keeps_surveyStart
    | with_reducible apply keeps_snapRelease
    | with_reducible apply keeps_snapArm
    | with_reducible apply keeps_navLevel
    | with_reducible apply keeps_delayWrite
    | with_reducible refine keeps_ite ?_ ?_
    | with_reducible refine okeeps_ite ?_ ?_
    | with_reducible apply okeeps_some
    | with_reducible exact okeeps_none
    | with_reducible refine okeeps_map ?_ (fun _ _ => ?_)
    | with_reducible apply okeeps_orElse
    | with_reducible apply keeps_upd')

theorem keeps_execGnssFeScript {reads : List (List Byte)} {rose : Bool} {s : State}  :
    RKeeps s (execGnssFeScript reads rose s) := by
  unfold execGnssFeScript
  first
    | with_reducible refine rkeeps_run ?_
    | with_reducible refine rkeeps_runIf ?_
    | with_reducible refine rkeeps_next ?_
    | (unfold gnssRun; with_reducible refine rkeeps_runIf ?_)
  try dsimp only
  repeat' (first
    | with_reducible assumption
    | with_reducible exact Keeps_refl _
    | with_reducible apply keeps_feScript)

theorem keeps_execGnssFeRetry {reads : List (List Byte)} {rose : Bool} {s : State}  :
    RKeeps s (execGnssFeRetry reads rose s) := by
  unfold execGnssFeRetry
  first
    | with_reducible refine rkeeps_run ?_
    | with_reducible refine rkeeps_runIf ?_
    | with_reducible refine rkeeps_next ?_
    | (unfold gnssRun; with_reducible refine rkeeps_runIf ?_)
  try dsimp only
  repeat' (first
    | with_reducible assumption
    | with_reducible exact Keeps_refl _
    | with_reducible apply keeps_feScript
    | with_reducible refine keeps_ite ?_ ?_
    | with_reducible refine keeps_ite_fun ?_ ?_
    | with_reducible apply keeps_id)

theorem keeps_execGspValidFall {back : Option Nat} {s : State}  :
    RKeeps s (execGspValidFall back s) := by
  unfold execGspValidFall
  first
    | with_reducible refine rkeeps_run ?_
    | with_reducible refine rkeeps_runIf ?_
    | with_reducible refine rkeeps_next ?_
    | (unfold gnssRun; with_reducible refine rkeeps_runIf ?_)
  try dsimp only
  repeat' (first
    | with_reducible assumption
    | with_reducible exact Keeps_refl _
    | with_reducible apply keeps_validFall)

theorem keeps_execGspValidGap {s : State}  :
    RKeeps s (execGspValidGap s) := by
  unfold execGspValidGap
  first
    | with_reducible refine rkeeps_run ?_
    | with_reducible refine rkeeps_runIf ?_
    | with_reducible refine rkeeps_next ?_
    | (unfold gnssRun; with_reducible refine rkeeps_runIf ?_)
  try dsimp only
  repeat' (first
    | with_reducible assumption
    | with_reducible exact Keeps_refl _
    | with_reducible apply keeps_validGap)

theorem keeps_execGspValidRecover {s : State}  :
    RKeeps s (execGspValidRecover s) := by
  unfold execGspValidRecover
  first
    | with_reducible refine rkeeps_run ?_
    | with_reducible refine rkeeps_runIf ?_
    | with_reducible refine rkeeps_next ?_
    | (unfold gnssRun; with_reducible refine rkeeps_runIf ?_)
  try dsimp only
  repeat' (first
    | with_reducible assumption
    | with_reducible exact Keeps_refl _
    | with_reducible apply keeps_validBack)

theorem keeps_execGspValidTimeout {s : State}  :
    RKeeps s (execGspValidTimeout s) := by
  unfold execGspValidTimeout
  first
    | with_reducible refine rkeeps_run ?_
    | with_reducible refine rkeeps_runIf ?_
    | with_reducible refine rkeeps_next ?_
    | (unfold gnssRun; with_reducible refine rkeeps_runIf ?_)
  try dsimp only
  repeat' (first
    | with_reducible assumption
    | with_reducible exact Keeps_refl _
    | with_reducible apply keeps_validTimeout)

theorem keeps_execGnssAcqBatch {cells : Nat} {found : List (Nat × Nat × Nat × Nat)} {s : State}  :
    RKeeps s (execGnssAcqBatch cells found s) := by
  unfold execGnssAcqBatch
  first
    | with_reducible refine rkeeps_run ?_
    | with_reducible refine rkeeps_runIf ?_
    | with_reducible refine rkeeps_next ?_
    | (unfold gnssRun; with_reducible refine rkeeps_runIf ?_)
  try dsimp only
  repeat' (first
    | with_reducible assumption
    | with_reducible exact Keeps_refl _
    | with_reducible apply keeps_acqBatch)

theorem keeps_execGnssChannelTrack {ch : Nat} {s : State}  :
    RKeeps s (execGnssChannelTrack ch s) := by
  unfold execGnssChannelTrack
  first
    | with_reducible refine rkeeps_run ?_
    | with_reducible refine rkeeps_runIf ?_
    | with_reducible refine rkeeps_next ?_
    | (unfold gnssRun; with_reducible refine rkeeps_runIf ?_)
  try dsimp only
  repeat' (first
    | with_reducible assumption
    | with_reducible exact Keeps_refl _
    | with_reducible apply keeps_chanTrack)

theorem keeps_execGnssChannelLoss {ch : Nat} {s : State}  :
    RKeeps s (execGnssChannelLoss ch s) := by
  unfold execGnssChannelLoss
  first
    | with_reducible refine rkeeps_run ?_
    | with_reducible refine rkeeps_runIf ?_
    | with_reducible refine rkeeps_next ?_
    | (unfold gnssRun; with_reducible refine rkeeps_runIf ?_)
  try dsimp only
  repeat' (first
    | with_reducible assumption
    | with_reducible exact Keeps_refl _
    | with_reducible apply keeps_chanLoss)

theorem keeps_execGnssMeasEpoch {t : Nat} {reports : List (Nat × Int × Int × Int × Nat × Nat)} {s : State}  :
    RKeeps s (execGnssMeasEpoch t reports s) := by
  unfold execGnssMeasEpoch
  first
    | with_reducible refine rkeeps_run ?_
    | with_reducible refine rkeeps_runIf ?_
    | with_reducible refine rkeeps_next ?_
    | (unfold gnssRun; with_reducible refine rkeeps_runIf ?_)
  try dsimp only
  repeat' (first
    | with_reducible assumption
    | with_reducible exact Keeps_refl _
    | with_reducible apply keeps_measEpoch)

theorem keeps_execGnssNavUnit {t : Nat} {sys : Nat} {sig : Nat} {sv : Nat} {ch : Nat} {nbits : Nat} {check : Nat} {flags : Nat} {ok : Nat} {cn0 : Nat} {bits : List Byte} {utc : Option (Int × Nat × Int)} {s : State}  :
    RKeeps s (execGnssNavUnit t sys sig sv ch nbits check flags ok cn0 bits utc s) := by
  unfold execGnssNavUnit
  first
    | with_reducible refine rkeeps_run ?_
    | with_reducible refine rkeeps_runIf ?_
    | with_reducible refine rkeeps_next ?_
    | (unfold gnssRun; with_reducible refine rkeeps_runIf ?_)
  try dsimp only
  repeat' (first
    | with_reducible assumption
    | with_reducible exact Keeps_refl _
    | with_reducible apply keeps_navUnit)

theorem keeps_execGnssSolution {sec : Nat} {dAll : Int} {d : Int} {sigma : Nat} {residuals : List (Nat × Nat × Int)} {systems : List (Nat × Int)} {posErr : Nat} {s : State}  :
    RKeeps s (execGnssSolution sec dAll d sigma residuals systems posErr s) := by
  unfold execGnssSolution
  first
    | with_reducible refine rkeeps_run ?_
    | with_reducible refine rkeeps_runIf ?_
    | with_reducible refine rkeeps_next ?_
    | (unfold gnssRun; with_reducible refine rkeeps_runIf ?_)
  try dsimp only
  repeat' (first
    | with_reducible assumption
    | with_reducible exact Keeps_refl _
    | with_reducible apply keeps_gnssSolution)

theorem keeps_execGnssSysExclusionEnd {sys : Nat} {s : State}  :
    RKeeps s (execGnssSysExclusionEnd sys s) := by
  unfold execGnssSysExclusionEnd
  first
    | with_reducible refine rkeeps_run ?_
    | with_reducible refine rkeeps_runIf ?_
    | with_reducible refine rkeeps_next ?_
    | (unfold gnssRun; with_reducible refine rkeeps_runIf ?_)
  try dsimp only
  repeat' (first
    | with_reducible assumption
    | with_reducible exact Keeps_refl _
    | with_reducible apply keeps_sysExclEnd)

theorem keeps_execGnssNoSol {s : State}  :
    RKeeps s (execGnssNoSol s) := by
  unfold execGnssNoSol
  first
    | with_reducible refine rkeeps_run ?_
    | with_reducible refine rkeeps_runIf ?_
    | with_reducible refine rkeeps_next ?_
    | (unfold gnssRun; with_reducible refine rkeeps_runIf ?_)
  try dsimp only
  repeat' (first
    | with_reducible assumption
    | with_reducible exact Keeps_refl _
    | with_reducible apply keeps_noSolution)

theorem keeps_execGnssSurveyDone {x : Int} {y : Int} {z : Int} {sd : Nat} {s : State}  :
    RKeeps s (execGnssSurveyDone x y z sd s) := by
  unfold execGnssSurveyDone
  first
    | with_reducible refine rkeeps_run ?_
    | with_reducible refine rkeeps_runIf ?_
    | with_reducible refine rkeeps_next ?_
    | (unfold gnssRun; with_reducible refine rkeeps_runIf ?_)
  try dsimp only
  repeat' (first
    | with_reducible assumption
    | with_reducible exact Keeps_refl _
    | with_reducible apply keeps_surveyDone)

theorem keeps_execGnssTimePulse {s : State}  :
    RKeeps s (execGnssTimePulse s) := by
  unfold execGnssTimePulse
  first
    | with_reducible refine rkeeps_run ?_
    | with_reducible refine rkeeps_runIf ?_
    | with_reducible refine rkeeps_next ?_
    | (unfold gnssRun; with_reducible refine rkeeps_runIf ?_)
  try dsimp only
  repeat' (first
    | with_reducible assumption
    | with_reducible exact Keeps_refl _
    | with_reducible apply keeps_timePulse)

theorem keeps_execGnssTp {sec : Nat} {qerr : Int} {s : State}  :
    RKeeps s (execGnssTp sec qerr s) := by
  unfold execGnssTp
  first
    | with_reducible refine rkeeps_run ?_
    | with_reducible refine rkeeps_runIf ?_
    | with_reducible refine rkeeps_next ?_
    | (unfold gnssRun; with_reducible refine rkeeps_runIf ?_)
  try dsimp only
  repeat' (first
    | with_reducible assumption
    | with_reducible exact Keeps_refl _
    | with_reducible apply keeps_tpMessage)

theorem keeps_execGnssSnapCaptureStart {edge : Nat} {s : State}  :
    RKeeps s (execGnssSnapCaptureStart edge s) := by
  unfold execGnssSnapCaptureStart
  first
    | with_reducible refine rkeeps_run ?_
    | with_reducible refine rkeeps_runIf ?_
    | with_reducible refine rkeeps_next ?_
    | (unfold gnssRun; with_reducible refine rkeeps_runIf ?_)
  try dsimp only
  repeat' (first
    | with_reducible assumption
    | with_reducible exact Keeps_refl _
    | with_reducible apply keeps_snapStart)

theorem keeps_execGnssSnapDone {data : List Byte} {sats : Nat} {s : State}  :
    RKeeps s (execGnssSnapDone data sats s) := by
  unfold execGnssSnapDone
  first
    | with_reducible refine rkeeps_run ?_
    | with_reducible refine rkeeps_runIf ?_
    | with_reducible refine rkeeps_next ?_
    | (unfold gnssRun; with_reducible refine rkeeps_runIf ?_)
  try dsimp only
  repeat' (first
    | with_reducible assumption
    | with_reducible exact Keeps_refl _
    | with_reducible apply keeps_snapDone)

theorem keeps_execGnssLeanCycle {sec : Nat} {u0 : Unit} {reads : List (List Byte)} {rose : Bool} {s : State}  :
    RKeeps s (execGnssLeanCycle sec u0 reads rose s) := by
  unfold execGnssLeanCycle
  first
    | with_reducible refine rkeeps_run ?_
    | with_reducible refine rkeeps_runIf ?_
    | with_reducible refine rkeeps_next ?_
    | (unfold gnssRun; with_reducible refine rkeeps_runIf ?_)
  try dsimp only
  repeat' (first
    | with_reducible assumption
    | with_reducible exact Keeps_refl _
    | with_reducible apply keeps_leanCycle)

theorem keeps_execGnssEphemerisWindow {on : Bool} {s : State}  :
    RKeeps s (execGnssEphemerisWindow on s) := by
  unfold execGnssEphemerisWindow
  first
    | with_reducible refine rkeeps_run ?_
    | with_reducible refine rkeeps_runIf ?_
    | with_reducible refine rkeeps_next ?_
    | (unfold gnssRun; with_reducible refine rkeeps_runIf ?_)
  try dsimp only
  repeat' (first
    | with_reducible assumption
    | with_reducible exact Keeps_refl _
    | with_reducible apply keeps_ephemWindow)

theorem keeps_execGnssBandMonitor {l1 : Nat} {l5 : Nat} {s : State}  :
    RKeeps s (execGnssBandMonitor l1 l5 s) := by
  unfold execGnssBandMonitor
  first
    | with_reducible refine rkeeps_run ?_
    | with_reducible refine rkeeps_runIf ?_
    | with_reducible refine rkeeps_next ?_
    | (unfold gnssRun; with_reducible refine rkeeps_runIf ?_)
  try dsimp only
  repeat' (first
    | with_reducible assumption
    | with_reducible exact Keeps_refl _
    | with_reducible apply keeps_bandMonitor)

end Sys2Proof.Laws
end

