-- ==== Sys2Proof/Laws/KeepsPtp.lean ====
section
/-!
SUPPORT. Laws/KeepsPtp.lean: the functions of Machine/Ptp.lean keep what every command keeps (Keeps of Safety.lean).
-/
namespace Sys2Proof.Laws
open Sys2Proof Sys2Proof.Machine

set_option linter.unusedTactic false
set_option linter.unreachableTactic false
set_option linter.unusedVariables false

theorem keeps_puntDma {a : State} {r : Nat} {x : Punt} {s : State} (hs : Keeps a s) :
    Keeps a (puntDma r x s) := by
  unfold puntDma
  try dsimp only
  repeat' (first
    | with_reducible assumption
    | with_reducible apply keeps_touchMem
    | with_reducible apply keeps_raiseOnce
    | with_reducible apply keeps_bump
    | with_reducible refine keeps_ite ?_ ?_)

theorem keeps_puntsBack {a : State} {r : Nat} {s : State} (hs : Keeps a s) :
    Keeps a (puntsBack r s) := by
  unfold puntsBack
  try dsimp only
  repeat' (first
    | with_reducible assumption
    | with_reducible apply keeps_frameFree
    | with_reducible apply keeps_puntDma
    | with_reducible apply keeps_puntsSet
    | with_reducible refine keeps_foldl _ (fun _ _ _ => ?_) _ ?_
    | with_reducible refine keeps_foldl_pair _ (fun _ _ _ => ?_) _ ?_
    | with_reducible refine keeps_ite ?_ ?_)

theorem keeps_puntTake {a : State} {r : Nat} {want : List Byte → Bool} {s : State} (hs : Keeps a s) :
    OPKeeps a (puntTake r want s) := by
  unfold puntTake
  try dsimp only
  repeat' (first
    | with_reducible assumption
    | with_reducible apply keeps_frameFree
    | with_reducible apply keeps_puntsSet
    | with_reducible refine keeps_foldl _ (fun _ _ _ => ?_) _ ?_
    | with_reducible refine keeps_foldl_pair _ (fun _ _ _ => ?_) _ ?_
    | with_reducible refine keeps_ite ?_ ?_
    | with_reducible refine keeps_ite_snd ?_ ?_
    | with_reducible refine opkeeps_ite ?_ ?_
    | with_reducible apply opkeeps_some
    | with_reducible exact opkeeps_none
    | split
    | with_reducible apply keeps_upd')

theorem keeps_upSet {a : State} {n : Nat} {x : PtpUp} {s : State} (hs : Keeps a s) :
    Keeps a (upSet n x s) := by
  unfold upSet
  try dsimp only
  repeat' (first
    | with_reducible assumption
    | with_reducible apply keeps_upd')

theorem keeps_seqNext {a : State} {key : Nat} {s : State} (hs : Keeps a s) :
    Keeps a (seqNext key s) := by
  unfold seqNext
  try dsimp only
  repeat' (first
    | with_reducible assumption
    | with_reducible apply keeps_upd')

theorem keeps_grantSet {a : State} {g : Nat} {x : Option PtpGrant} {s : State} (hs : Keeps a s) :
    Keeps a (grantSet g x s) := by
  unfold grantSet
  try dsimp only
  repeat' (first
    | with_reducible assumption
    | with_reducible apply keeps_upd_grants)

theorem keeps_txOffer {a : State} {port : Nat} {aux : Nat} {key : Nat} {late : Bool} {rec : List Byte} {s : State} (hs : Keeps a s) :
    Keeps a (txOffer port aux key late rec s) := by
  unfold txOffer
  try dsimp only
  repeat' (first
    | with_reducible assumption
    | with_reducible apply keeps_seqNext
    | with_reducible apply keeps_bump
    | with_reducible apply keeps_inject
    | with_reducible refine keeps_ite ?_ ?_
    | split
    | with_reducible apply keeps_upd')

theorem keeps_txTurn {a : State} {port : Nat} {aux : Nat} {key : Nat} {t : Nat} {rec : List Byte} {s : State} (hs : Keeps a s) :
    Keeps a (txTurn port aux key t rec s) := by
  unfold txTurn
  try dsimp only
  repeat' (first
    | with_reducible assumption
    | with_reducible apply keeps_txOffer
    | with_reducible refine keeps_ite ?_ ?_)

theorem keeps_txInject {a : State} {kind : Nat} {inst : Nat} {port : Nat} {gidx : Option Nat} {j : Nat} {s : State} (hs : Keeps a s) :
    Keeps a (txInject kind inst port gidx j s) := by
  unfold txInject
  try dsimp only
  repeat' (first
    | with_reducible assumption
    | with_reducible apply keeps_txTurn
    | with_reducible refine keeps_ite ?_ ?_
    | split
    | with_reducible apply keeps_upd')

theorem keeps_launchReport {a : State} {p : Nat} {s : State} (hs : Keeps a s) :
    Keeps a (launchReport p s) := by
  unfold launchReport
  try dsimp only
  repeat' (first
    | with_reducible assumption
    | with_reducible apply keeps_gateSet
    | with_reducible apply keeps_bump
    | with_reducible apply keeps_fwInject
    | with_reducible refine keeps_ite ?_ ?_
    | split
    | with_reducible apply keeps_upd')

theorem keeps_signalSend {a : State} {x : PtpGrant} {tlvs : List Byte} {s : State} (hs : Keeps a s) :
    Keeps a (signalSend x tlvs s) := by
  unfold signalSend
  try dsimp only
  repeat' (first
    | with_reducible assumption
    | with_reducible apply keeps_fwInject
    | with_reducible apply keeps_seqNext
    | with_reducible refine keeps_ite ?_ ?_)

theorem keeps_signalUp {a : State} {n : Nat} {target : List Byte} {tlvs : List Byte} {s : State} (hs : Keeps a s) :
    Keeps a (signalUp n target tlvs s) := by
  unfold signalUp
  try dsimp only
  repeat' (first
    | with_reducible assumption
    | with_reducible apply keeps_seqNext
    | with_reducible apply keeps_emitOut)

theorem keeps_grantTable {a : State} {g : Nat} {x : PtpGrant} {s : State} (hs : Keeps a s) :
    OKeeps a (grantTable g x s) := by
  unfold grantTable
  try dsimp only
  repeat' (first
    | with_reducible assumption
    | with_reducible apply keeps_tblPut
    | with_reducible refine keeps_ite ?_ ?_
    | with_reducible refine okeeps_ite ?_ ?_
    | with_reducible apply okeeps_some
    | with_reducible exact okeeps_none
    | with_reducible refine okeeps_map ?_ (fun _ _ => ?_)
    | with_reducible apply okeeps_orElse)

theorem keeps_grantUntable {a : State} {x : PtpGrant} {s : State} (hs : Keeps a s) :
    Keeps a (grantUntable x s) := by
  unfold grantUntable
  try dsimp only
  repeat' (first
    | with_reducible assumption
    | with_reducible apply keeps_tblDel
    | with_reducible refine keeps_ite ?_ ?_
    | with_reducible apply keeps_getD)

theorem keeps_grantsShow {a : State} {s : State} (hs : Keeps a s) :
    Keeps a (grantsShow s) := by
  unfold grantsShow
  try dsimp only
  repeat' (first
    | with_reducible assumption
    | with_reducible apply keeps_fset)

theorem keeps_grantStore {a : State} {g : Nat} {x : PtpGrant} {s : State} (hs : Keeps a s) :
    OKeeps a (grantStore g x s) := by
  unfold grantStore
  try dsimp only
  repeat' (first
    | with_reducible assumption
    | with_reducible apply keeps_grantTable
    | with_reducible apply keeps_journal
    | with_reducible apply keeps_grantsShow
    | with_reducible apply keeps_grantSet
    | with_reducible apply okeeps_some
    | with_reducible exact okeeps_none
    | with_reducible refine okeeps_map ?_ (fun _ _ => ?_)
    | with_reducible apply okeeps_orElse)

theorem keeps_grantDeny {a : State} {cause : Nat} {s : State} (hs : Keeps a s) :
    Keeps a (grantDeny cause s) := by
  unfold grantDeny
  try dsimp only
  repeat' (first
    | with_reducible assumption
    | with_reducible apply keeps_cairnAgg
    | with_reducible apply keeps_bump)

theorem keeps_grantRequest {a : State} {x : PtpGrant} {mt : Nat} {logByte : Nat} {dur : Nat} {s : State} (hs : Keeps a s) :
    Keeps a (grantRequest x mt logByte dur s).2 := by
  unfold grantRequest
  try dsimp only
  repeat' (first
    | with_reducible assumption
    | with_reducible apply keeps_grantDeny
    | with_reducible apply keeps_grantStore
    | with_reducible apply keeps_bump
    | with_reducible refine keeps_ite ?_ ?_
    | with_reducible refine keeps_ite_snd ?_ ?_
    | split
    | with_reducible refine keeps_of_some ?_ ‹_ = some _›
    | with_reducible apply keeps_upd')

theorem keeps_grantEnd {a : State} {g : Nat} {mt : Nat} {s : State} (hs : Keeps a s) :
    Keeps a (grantEnd g mt s) := by
  unfold grantEnd
  try dsimp only
  repeat' (first
    | with_reducible assumption
    | with_reducible apply keeps_idle
    | with_reducible apply keeps_grantStore
    | with_reducible apply keeps_grantSet
    | with_reducible refine keeps_ite ?_ ?_
    | with_reducible apply keeps_getD
    | split
    | with_reducible refine keeps_of_some ?_ ‹_ = some _›
    | with_reducible apply keeps_upd')

theorem keeps_grantRx {a : State} {s : State} (hs : Keeps a s) :
    Keeps a (grantRx s) := by
  unfold grantRx
  try dsimp only
  repeat' (first
    | with_reducible assumption
    | with_reducible apply keeps_puntTake
    | with_reducible apply keeps_grantRequest
    | with_reducible apply keeps_signalSend
    | with_reducible refine keeps_foldl _ (fun _ _ _ => ?_) _ ?_
    | with_reducible refine keeps_foldl_pair _ (fun _ _ _ => ?_) _ ?_
    | with_reducible refine keeps_ite ?_ ?_
    | split
    | with_reducible refine keeps_of_pair ?_ ‹_ = (_, _)›
    | with_reducible refine keeps_of_osome ?_ ‹_ = some (_, _)›
    | with_reducible apply keeps_upd')

theorem keeps_upDenied {a : State} {n : Nat} {j : Nat} {s : State} (hs : Keeps a s) :
    Keeps a (upDenied n j s) := by
  unfold upDenied
  try dsimp only
  repeat' (first
    | with_reducible assumption
    | with_reducible apply keeps_upSet
    | with_reducible refine keeps_ite ?_ ?_
    | with_reducible apply keeps_upd')

theorem keeps_upRequest {a : State} {n : Nat} {j : Nat} {s : State} (hs : Keeps a s) :
    Keeps a (upRequest n j s) := by
  unfold upRequest
  try dsimp only
  repeat' (first
    | with_reducible assumption
    | with_reducible apply keeps_signalUp
    | with_reducible refine keeps_ite ?_ ?_)

theorem keeps_upRenew {a : State} {n : Nat} {j : Nat} {s : State} (hs : Keeps a s) :
    Keeps a (upRenew n j s) := by
  unfold upRenew
  try dsimp only
  repeat' (first
    | with_reducible assumption
    | with_reducible apply keeps_upRequest
    | with_reducible refine keeps_ite ?_ ?_)

theorem keeps_upRetry {a : State} {n : Nat} {j : Nat} {s : State} (hs : Keeps a s) :
    Keeps a (upRetry n j s) := by
  unfold upRetry
  try dsimp only
  repeat' (first
    | with_reducible assumption
    | with_reducible apply keeps_upRequest
    | with_reducible refine keeps_ite ?_ ?_)

theorem keeps_upGrantRx {a : State} {s : State} (hs : Keeps a s) :
    Keeps a (upGrantRx s) := by
  unfold upGrantRx
  try dsimp only
  repeat' (first
    | with_reducible assumption
    | with_reducible apply keeps_puntTake
    | with_reducible apply keeps_upDenied
    | with_reducible apply keeps_upSet
    | with_reducible refine keeps_foldl _ (fun _ _ _ => ?_) _ ?_
    | with_reducible refine keeps_foldl_pair _ (fun _ _ _ => ?_) _ ?_
    | with_reducible refine keeps_ite ?_ ?_
    | split
    | with_reducible refine keeps_of_osome ?_ ‹_ = some (_, _)›
    | with_reducible apply keeps_upd')

theorem keeps_cancelRx {a : State} {s : State} (hs : Keeps a s) :
    Keeps a (cancelRx s) := by
  unfold cancelRx
  try dsimp only
  repeat' (first
    | with_reducible assumption
    | with_reducible apply keeps_puntTake
    | with_reducible apply keeps_signalUp
    | with_reducible apply keeps_upDenied
    | with_reducible apply keeps_bump
    | with_reducible apply keeps_grantEnd
    | with_reducible apply keeps_signalSend
    | with_reducible refine keeps_foldl _ (fun _ _ _ => ?_) _ ?_
    | with_reducible refine keeps_foldl_pair _ (fun _ _ _ => ?_) _ ?_
    | with_reducible refine keeps_ite ?_ ?_
    | split
    | with_reducible refine keeps_of_osome ?_ ‹_ = some (_, _)›
    | with_reducible apply keeps_upd')

theorem keeps_grantExpire {a : State} {g : Nat} {j : Nat} {s : State} (hs : Keeps a s) :
    Keeps a (grantExpire g j s) := by
  unfold grantExpire
  try dsimp only
  repeat' (first
    | with_reducible assumption
    | with_reducible apply keeps_bump
    | with_reducible apply keeps_grantEnd
    | with_reducible refine keeps_ite ?_ ?_
    | split
    | with_reducible apply keeps_upd')

theorem keeps_grantRelease {a : State} {g : Nat} {s : State} (hs : Keeps a s) :
    Keeps a (grantRelease g s) := by
  unfold grantRelease
  try dsimp only
  repeat' (first
    | with_reducible assumption
    | with_reducible apply keeps_journal
    | with_reducible apply keeps_grantsShow
    | with_reducible apply keeps_grantSet
    | with_reducible apply keeps_grantUntable
    | with_reducible refine keeps_ite ?_ ?_
    | split
    | with_reducible apply keeps_upd')

theorem keeps_grantCancel {a : State} {g : Nat} {kinds : Nat} {s : State} (hs : Keeps a s) :
    Keeps a (grantCancel g kinds s) := by
  unfold grantCancel
  try dsimp only
  repeat' (first
    | with_reducible assumption
    | with_reducible apply keeps_signalSend
    | with_reducible apply keeps_bump
    | with_reducible apply keeps_grantEnd
    | with_reducible refine keeps_foldl _ (fun _ _ _ => ?_) _ ?_
    | with_reducible refine keeps_foldl_pair _ (fun _ _ _ => ?_) _ ?_
    | with_reducible refine keeps_ite ?_ ?_
    | split
    | with_reducible apply keeps_upd')

theorem keeps_upShow {a : State} {s : State} (hs : Keeps a s) :
    Keeps a (upShow s) := by
  unfold upShow
  try dsimp only
  repeat' (first
    | with_reducible assumption
    | with_reducible apply keeps_wr
    | with_reducible apply keeps_fsetB
    | with_reducible refine keeps_ite ?_ ?_
    | split
    | with_reducible apply keeps_upd')

theorem keeps_ptpRefresh {a : State} {s : State} (hs : Keeps a s) :
    Keeps a (ptpRefresh s) := by
  unfold ptpRefresh
  try dsimp only
  repeat' (first
    | with_reducible assumption
    | with_reducible apply keeps_upShow
    | with_reducible apply keeps_stockCommit
    | (with_reducible refine keeps_forEach (fun _ _ _ => ?_) ?_)
    | with_reducible apply keeps_cairnAgg
    | with_reducible apply keeps_fsetB
    | with_reducible apply keeps_fset
    | with_reducible refine keeps_foldl _ (fun _ _ _ => ?_) _ ?_
    | with_reducible refine keeps_foldl_pair _ (fun _ _ _ => ?_) _ ?_
    | with_reducible refine keeps_ite ?_ ?_
    | with_reducible apply keeps_getD
    | with_reducible apply keeps_upd')

theorem keeps_chooseMaster {a : State} {n : Nat} {s : State} (hs : Keeps a s) :
    Keeps a (chooseMaster n s) := by
  unfold chooseMaster
  try dsimp only
  repeat' (first
    | with_reducible assumption
    | with_reducible apply keeps_upSet
    | with_reducible apply keeps_refSlSet
    | with_reducible apply keeps_refChange
    | with_reducible refine keeps_ite ?_ ?_
    | split
    | with_reducible apply keeps_upd')

theorem keeps_announceRx {a : State} {s : State} (hs : Keeps a s) :
    Keeps a (announceRx s) := by
  unfold announceRx
  try dsimp only
  repeat' (first
    | with_reducible assumption
    | with_reducible apply keeps_puntTake
    | with_reducible apply keeps_ptpRefresh
    | (with_reducible refine keeps_forEach (fun _ _ _ => ?_) ?_)
    | with_reducible apply keeps_chooseMaster
    | with_reducible refine keeps_ite ?_ ?_
    | split
    | with_reducible refine keeps_of_osome ?_ ‹_ = some (_, _)›
    | with_reducible apply keeps_upd')

theorem keeps_annTimeout {a : State} {n : Nat} {s : State} (hs : Keeps a s) :
    Keeps a (annTimeout n s) := by
  unfold annTimeout
  try dsimp only
  repeat' (first
    | with_reducible assumption
    | with_reducible apply keeps_upSet
    | with_reducible apply keeps_refActLoss
    | with_reducible apply keeps_cairnAgg
    | with_reducible apply keeps_ptpRefresh
    | with_reducible apply keeps_chooseMaster
    | with_reducible refine keeps_ite ?_ ?_
    | with_reducible apply keeps_upd')

theorem keeps_upOffset {a : State} {n : Nat} {t2 : Nat} {ms : Int} {old : Bool} {s : State} (hs : Keeps a s) :
    Keeps a (upOffset n t2 ms old s) := by
  unfold upOffset
  try dsimp only
  repeat' (first
    | with_reducible assumption
    | with_reducible apply keeps_upSet
    | with_reducible apply keeps_refActive
    | with_reducible apply keeps_refSample
    | with_reducible refine keeps_ite ?_ ?_
    | split
    | with_reducible apply keeps_upd')

theorem keeps_upSyncRx {a : State} {fu : Bool} {s : State} (hs : Keeps a s) :
    Keeps a (upSyncRx fu s) := by
  unfold upSyncRx
  try dsimp only
  repeat' (first
    | with_reducible assumption
    | with_reducible apply keeps_puntTake
    | (with_reducible refine keeps_forEach (fun _ _ _ => ?_) ?_)
    | with_reducible apply keeps_upOffset
    | with_reducible apply keeps_upSet
    | with_reducible refine keeps_ite ?_ ?_
    | split
    | with_reducible refine keeps_of_osome ?_ ‹_ = some (_, _)›
    | with_reducible apply keeps_upd')

theorem keeps_launchClear {a : State} {p : Nat} {k : Nat} {q : Nat} {s : State} (hs : Keeps a s) :
    Keeps a (launchClear p k q s) := by
  unfold launchClear
  try dsimp only
  repeat' (first
    | with_reducible assumption
    | with_reducible apply keeps_upd')

theorem keeps_delayRespRx {a : State} {x : Punt} {s : State} (hs : Keeps a s) :
    Keeps a (delayRespRx x s) := by
  unfold delayRespRx
  try dsimp only
  repeat' (first
    | with_reducible assumption
    | (with_reducible refine keeps_forEach (fun _ _ _ => ?_) ?_)
    | with_reducible apply keeps_upSet
    | with_reducible apply keeps_launchClear
    | with_reducible refine keeps_ite ?_ ?_
    | split
    | with_reducible apply keeps_upd')

theorem keeps_linkDelay {a : State} {p : Nat} {k : Nat} {q : Nat} {d : Int} {s : State} (hs : Keeps a s) :
    Keeps a (linkDelay p k q d s) := by
  unfold linkDelay
  try dsimp only
  repeat' (first
    | with_reducible assumption
    | with_reducible apply keeps_launchClear
    | with_reducible apply keeps_stockCommit
    | with_reducible apply keeps_getD
    | with_reducible apply keeps_upd')

theorem keeps_pdelayRx {a : State} {fu : Bool} {x : Punt} {s : State} (hs : Keeps a s) :
    Keeps a (pdelayRx fu x s) := by
  unfold pdelayRx
  try dsimp only
  repeat' (first
    | with_reducible assumption
    | with_reducible apply keeps_linkDelay
    | with_reducible refine keeps_ite ?_ ?_
    | split
    | with_reducible apply keeps_upd')

theorem keeps_delayAnswer {a : State} {kind : Nat} {s : State} (hs : Keeps a s) :
    Keeps a (delayAnswer kind s) := by
  unfold delayAnswer
  try dsimp only
  repeat' (first
    | with_reducible assumption
    | with_reducible apply keeps_puntTake
    | with_reducible apply keeps_delayRespRx
    | with_reducible apply keeps_pdelayRx
    | with_reducible refine keeps_ite ?_ ?_
    | split
    | with_reducible refine keeps_of_osome ?_ ‹_ = some (_, _)›
    | with_reducible apply keeps_upd')

theorem keeps_seqApply {a : State} {b : List Byte} {s : State} (hs : Keeps a s) :
    Keeps a (seqApply b s) := by
  unfold seqApply
  try dsimp only
  repeat' (first
    | with_reducible assumption
    | (with_reducible refine keeps_forEach (fun _ _ _ => ?_) ?_)
    | with_reducible apply keeps_upd')

theorem keeps_grantApply {a : State} {b : List Byte} {s : State} (hs : Keeps a s) :
    Keeps a (grantApply b s) := by
  unfold grantApply
  try dsimp only
  repeat' (first
    | with_reducible assumption
    | with_reducible apply keeps_grantUntable
    | with_reducible apply keeps_grantsShow
    | with_reducible apply keeps_grantSet
    | with_reducible apply keeps_grantTable
    | with_reducible apply keeps_getD
    | split
    | with_reducible refine keeps_of_some ?_ ‹_ = some _›
    | with_reducible apply keeps_upd')

theorem keeps_ptpTakeover {a : State} {s : State} (hs : Keeps a s) :
    Keeps a (ptpTakeover s) := by
  unfold ptpTakeover
  try dsimp only
  repeat' (first
    | with_reducible assumption
    | with_reducible apply keeps_upd')

theorem keeps_clockIdSet {a : State} {s : State} (hs : Keeps a s) :
    Keeps a (clockIdSet s) := by
  unfold clockIdSet
  try dsimp only
  repeat' (first
    | with_reducible assumption
    | with_reducible apply keeps_wr
    | with_reducible refine keeps_ite ?_ ?_)

theorem keeps_seqJournal {a : State} {s : State} (hs : Keeps a s) :
    Keeps a (seqJournal s) := by
  unfold seqJournal
  try dsimp only
  repeat' (first
    | with_reducible assumption
    | with_reducible apply keeps_journal)

theorem keeps_ptpApply {a : State} {a0 : Nat} {v : Word} {stored : State} (hstored : Keeps a stored) :
    OKeeps a (ptpApply a0 v stored) := by
  unfold ptpApply
  try dsimp only
  repeat' (first
    | with_reducible assumption
    | with_reducible apply keeps_ptpRefresh
    | with_reducible apply keeps_svcSync
    | (with_reducible refine keeps_forEach (fun _ _ _ => ?_) ?_)
    | with_reducible apply keeps_mcastWrite
    | with_reducible apply keeps_cairnState
    | with_reducible refine keeps_ite ?_ ?_
    | with_reducible refine okeeps_ite ?_ ?_
    | with_reducible apply okeeps_some
    | with_reducible exact okeeps_none
    | with_reducible refine okeeps_map ?_ (fun _ _ => ?_)
    | with_reducible apply okeeps_orElse)

theorem keeps_execLaunchReport {port : Nat} {s : State}  :
    RKeeps s (execLaunchReport port s) := by
  unfold execLaunchReport
  first
    | with_reducible refine rkeeps_run ?_
    | with_reducible refine rkeeps_runIf ?_
    | with_reducible refine rkeeps_next ?_
    | (unfold keRun; with_reducible refine rkeeps_runIf ?_)
  try dsimp only
  repeat' (first
    | with_reducible assumption
    | with_reducible exact Keeps_refl _
    | with_reducible apply keeps_launchReport)

theorem keeps_execPtpTxInject {kind : Nat} {inst : Nat} {port : Nat} {gidx : Option Nat} {j : Nat} {s : State}  :
    RKeeps s (execPtpTxInject kind inst port gidx j s) := by
  unfold execPtpTxInject
  first
    | with_reducible refine rkeeps_run ?_
    | with_reducible refine rkeeps_runIf ?_
    | with_reducible refine rkeeps_next ?_
    | (unfold keRun; with_reducible refine rkeeps_runIf ?_)
  try dsimp only
  repeat' (first
    | with_reducible assumption
    | with_reducible exact Keeps_refl _
    | with_reducible apply keeps_txInject)

theorem keeps_execGrantRequest {s : State}  :
    RKeeps s (execGrantRequest s) := by
  unfold execGrantRequest
  first
    | with_reducible refine rkeeps_run ?_
    | with_reducible refine rkeeps_runIf ?_
    | with_reducible refine rkeeps_next ?_
    | (unfold keRun; with_reducible refine rkeeps_runIf ?_)
  try dsimp only
  repeat' (first
    | with_reducible assumption
    | with_reducible exact Keeps_refl _
    | with_reducible apply keeps_grantRx)

theorem keeps_execGrantCancelRx {s : State}  :
    RKeeps s (execGrantCancelRx s) := by
  unfold execGrantCancelRx
  first
    | with_reducible refine rkeeps_run ?_
    | with_reducible refine rkeeps_runIf ?_
    | with_reducible refine rkeeps_next ?_
    | (unfold keRun; with_reducible refine rkeeps_runIf ?_)
  try dsimp only
  repeat' (first
    | with_reducible assumption
    | with_reducible exact Keeps_refl _
    | with_reducible apply keeps_cancelRx)

theorem keeps_execGrantExpiry {gidx : Nat} {kind : Nat} {s : State}  :
    RKeeps s (execGrantExpiry gidx kind s) := by
  unfold execGrantExpiry
  first
    | with_reducible refine rkeeps_run ?_
    | with_reducible refine rkeeps_runIf ?_
    | with_reducible refine rkeeps_next ?_
    | (unfold keRun; with_reducible refine rkeeps_runIf ?_)
  try dsimp only
  repeat' (first
    | with_reducible assumption
    | with_reducible exact Keeps_refl _
    | with_reducible apply keeps_grantExpire)

theorem keeps_execGrantEntryFree {gidx : Nat} {s : State}  :
    RKeeps s (execGrantEntryFree gidx s) := by
  unfold execGrantEntryFree
  first
    | with_reducible refine rkeeps_run ?_
    | with_reducible refine rkeeps_runIf ?_
    | with_reducible refine rkeeps_next ?_
    | (unfold keRun; with_reducible refine rkeeps_runIf ?_)
  try dsimp only
  repeat' (first
    | with_reducible assumption
    | with_reducible exact Keeps_refl _
    | with_reducible apply keeps_grantRelease)

theorem keeps_execAnnounceRx {s : State}  :
    RKeeps s (execAnnounceRx s) := by
  unfold execAnnounceRx
  first
    | with_reducible refine rkeeps_run ?_
    | with_reducible refine rkeeps_runIf ?_
    | with_reducible refine rkeeps_next ?_
    | (unfold keRun; with_reducible refine rkeeps_runIf ?_)
  try dsimp only
  repeat' (first
    | with_reducible assumption
    | with_reducible exact Keeps_refl _
    | with_reducible apply keeps_announceRx)

theorem keeps_execAnnTimeout {n : Nat} {s : State}  :
    RKeeps s (execAnnTimeout n s) := by
  unfold execAnnTimeout
  first
    | with_reducible refine rkeeps_run ?_
    | with_reducible refine rkeeps_runIf ?_
    | with_reducible refine rkeeps_next ?_
    | (unfold keRun; with_reducible refine rkeeps_runIf ?_)
  try dsimp only
  repeat' (first
    | with_reducible assumption
    | with_reducible exact Keeps_refl _
    | with_reducible apply keeps_annTimeout)

theorem keeps_execUpstreamSyncRx {fu : Bool} {s : State}  :
    RKeeps s (execUpstreamSyncRx fu s) := by
  unfold execUpstreamSyncRx
  first
    | with_reducible refine rkeeps_run ?_
    | with_reducible refine rkeeps_runIf ?_
    | with_reducible refine rkeeps_next ?_
    | (unfold keRun; with_reducible refine rkeeps_runIf ?_)
  try dsimp only
  repeat' (first
    | with_reducible assumption
    | with_reducible exact Keeps_refl _
    | with_reducible apply keeps_upSyncRx)

theorem keeps_execDelayAnswerRx {kind : Nat} {s : State}  :
    RKeeps s (execDelayAnswerRx kind s) := by
  unfold execDelayAnswerRx
  first
    | with_reducible refine rkeeps_run ?_
    | with_reducible refine rkeeps_runIf ?_
    | with_reducible refine rkeeps_next ?_
    | (unfold keRun; with_reducible refine rkeeps_runIf ?_)
  try dsimp only
  repeat' (first
    | with_reducible assumption
    | with_reducible exact Keeps_refl _
    | with_reducible apply keeps_delayAnswer)

theorem keeps_execUpstreamGrantRenew {n : Nat} {kind : Nat} {s : State}  :
    RKeeps s (execUpstreamGrantRenew n kind s) := by
  unfold execUpstreamGrantRenew
  first
    | with_reducible refine rkeeps_run ?_
    | with_reducible refine rkeeps_runIf ?_
    | with_reducible refine rkeeps_next ?_
    | (unfold keRun; with_reducible refine rkeeps_runIf ?_)
  try dsimp only
  repeat' (first
    | with_reducible assumption
    | with_reducible exact Keeps_refl _
    | with_reducible apply keeps_upRenew)

theorem keeps_execUpstreamGrantRetry {n : Nat} {kind : Nat} {s : State}  :
    RKeeps s (execUpstreamGrantRetry n kind s) := by
  unfold execUpstreamGrantRetry
  first
    | with_reducible refine rkeeps_run ?_
    | with_reducible refine rkeeps_runIf ?_
    | with_reducible refine rkeeps_next ?_
    | (unfold keRun; with_reducible refine rkeeps_runIf ?_)
  try dsimp only
  repeat' (first
    | with_reducible assumption
    | with_reducible exact Keeps_refl _
    | with_reducible apply keeps_upRetry)

theorem keeps_execUpstreamGrantReply {s : State}  :
    RKeeps s (execUpstreamGrantReply s) := by
  unfold execUpstreamGrantReply
  first
    | with_reducible refine rkeeps_run ?_
    | with_reducible refine rkeeps_runIf ?_
    | with_reducible refine rkeeps_next ?_
    | (unfold keRun; with_reducible refine rkeeps_runIf ?_)
  try dsimp only
  repeat' (first
    | with_reducible assumption
    | with_reducible exact Keeps_refl _
    | with_reducible apply keeps_upGrantRx)

theorem keeps_execPtpseqJournal {s : State}  :
    RKeeps s (execPtpseqJournal s) := by
  unfold execPtpseqJournal
  first
    | with_reducible refine rkeeps_run ?_
    | with_reducible refine rkeeps_runIf ?_
    | with_reducible refine rkeeps_next ?_
    | (unfold keRun; with_reducible refine rkeeps_runIf ?_)
  try dsimp only
  repeat' (first
    | with_reducible assumption
    | with_reducible exact Keeps_refl _
    | with_reducible apply keeps_seqJournal)

end Sys2Proof.Laws
end

