-- ==== Sys2Proof/Laws/KeepsPair.lean ====
section
/-!
SUPPORT. Laws/KeepsPair.lean: the functions of Machine/Pair.lean keep what every command keeps (Keeps of Safety.lean).
-/
namespace Sys2Proof.Laws
open Sys2Proof Sys2Proof.Machine

set_option linter.unusedTactic false
set_option linter.unreachableTactic false
set_option linter.unusedVariables false

theorem keeps_pstSet {a : State} {f : Fld} {b : Bool} {s : State} (hs : Keeps a s) :
    Keeps a (pstSet f b s) := by
  unfold pstSet
  try dsimp only
  repeat' (first
    | with_reducible assumption
    | with_reducible apply keeps_fsetB)

theorem keeps_pairSet {a : State} {f : PairState → PairState} {s : State} (hs : Keeps a s) :
    Keeps a (pairSet f s) := by
  unfold pairSet
  try dsimp only
  repeat' (first
    | with_reducible assumption
    | with_reducible apply hf
    | with_reducible apply keeps_upd')

theorem keeps_ttRestart {a : State} {s : State} (hs : Keeps a s) :
    Keeps a (ttRestart s) := by
  unfold ttRestart
  try dsimp only
  repeat' (first
    | with_reducible assumption
    | with_reducible apply keeps_pairSet
    | with_reducible apply keeps_refActLoss
    | with_reducible refine keeps_ite ?_ ?_
    | with_reducible apply keeps_upd')

theorem keeps_ttShow {a : State} {s : State} (hs : Keeps a s) :
    Keeps a (ttShow s) := by
  unfold ttShow
  try dsimp only
  repeat' (first
    | with_reducible assumption
    | with_reducible apply keeps_ttRestart
    | with_reducible apply keeps_fset
    | with_reducible refine keeps_ite ?_ ?_)

theorem keeps_announceAddrs {a : State} {s : State} (hs : Keeps a s) :
    Keeps a (announceAddrs s) := by
  unfold announceAddrs
  try dsimp only
  repeat' (first
    | with_reducible assumption
    | (with_reducible refine keeps_forEach (fun _ _ _ => ?_) ?_)
    | with_reducible apply keeps_announceAddr
    | with_reducible refine keeps_foldl _ (fun _ _ _ => ?_) _ ?_
    | with_reducible refine keeps_foldl_pair _ (fun _ _ _ => ?_) _ ?_)

theorem keeps_roleGo {a : State} {r : Nat} {s : State} (hs : Keeps a s) :
    Keeps a (roleGo r s) := by
  unfold roleGo
  try dsimp only
  repeat' (first
    | with_reducible assumption
    | with_reducible apply keeps_cairnState
    | with_reducible apply keeps_occur
    | with_reducible apply keeps_fset
    | with_reducible apply keeps_slotGo
    | with_reducible apply keeps_ptpRefresh
    | with_reducible apply keeps_select
    | with_reducible refine keeps_ite ?_ ?_)

theorem keeps_custEdge {a : State} {high : Bool} {s : State} (hs : Keeps a s) :
    Keeps a (custEdge high s) := by
  unfold custEdge
  try dsimp only
  repeat' (first
    | with_reducible assumption
    | with_reducible apply keeps_pstSet
    | with_reducible apply keeps_draw
    | with_reducible apply keeps_pairSet
    | with_reducible apply keeps_ptpRefresh
    | with_reducible apply keeps_occur
    | with_reducible apply keeps_bump
    | with_reducible refine keeps_ite ?_ ?_
    | with_reducible apply keeps_upd')

theorem keeps_custodyGuard {a : State} {s : State} (hs : Keeps a s) :
    Keeps a (custodyGuard s) := by
  unfold custodyGuard
  try dsimp only
  repeat' (first
    | with_reducible assumption
    | with_reducible apply keeps_ptpRefresh
    | with_reducible apply keeps_pstSet
    | with_reducible refine keeps_ite ?_ ?_)

theorem keeps_custodyTaken {a : State} {s : State} (hs : Keeps a s) :
    Keeps a (custodyTaken s) := by
  unfold custodyTaken
  try dsimp only
  repeat' (first
    | with_reducible assumption
    | with_reducible apply keeps_pstSet
    | with_reducible apply keeps_roleGo
    | with_reducible apply keeps_ptpTakeover
    | with_reducible apply keeps_pairSet
    | with_reducible apply keeps_occur
    | with_reducible apply keeps_bump
    | with_reducible apply keeps_announceAddrs
    | with_reducible refine keeps_ite ?_ ?_
    | with_reducible apply keeps_upd')

theorem keeps_custodyRetry {a : State} {s : State} (hs : Keeps a s) :
    Keeps a (custodyRetry s) := by
  unfold custodyRetry
  try dsimp only
  repeat' (first
    | with_reducible assumption
    | with_reducible apply keeps_pairSet
    | with_reducible apply keeps_upd')

theorem keeps_custFault {a : State} {s : State} (hs : Keeps a s) :
    Keeps a (custFault s) := by
  unfold custFault
  try dsimp only
  repeat' (first
    | with_reducible assumption
    | with_reducible apply keeps_setLevel
    | with_reducible apply keeps_pstSet
    | with_reducible apply keeps_cairnFault
    | with_reducible refine keeps_ite ?_ ?_)

theorem keeps_helloSend {a : State} {s : State} (hs : Keeps a s) :
    Keeps a (helloSend s) := by
  unfold helloSend
  try dsimp only
  repeat' (first
    | with_reducible assumption
    | with_reducible apply keeps_drawBytes
    | with_reducible apply keeps_emitOut
    | with_reducible apply keeps_pairSet
    | with_reducible refine keeps_ite ?_ ?_
    | with_reducible apply keeps_upd')

theorem keeps_belayClose {a : State} {s : State} (hs : Keeps a s) :
    Keeps a (belayClose s) := by
  unfold belayClose
  try dsimp only
  repeat' (first
    | with_reducible assumption
    | with_reducible apply keeps_pairSet
    | with_reducible apply keeps_ttRestart
    | with_reducible apply keeps_pstSet
    | with_reducible apply keeps_upd')

theorem keeps_pairRefuse {a : State} {cause : Nat} {s : State} (hs : Keeps a s) :
    Keeps a (pairRefuse cause s) := by
  unfold pairRefuse
  try dsimp only
  repeat' (first
    | with_reducible assumption
    | with_reducible apply keeps_pairSet
    | with_reducible apply keeps_cairnState
    | with_reducible apply keeps_occur
    | with_reducible apply keeps_fset
    | with_reducible apply keeps_upd')

theorem keeps_helloRx {a : State} {b : List Byte} {s0 : State} (hs0 : Keeps a s0) :
    Keeps a (helloRx b s0) := by
  unfold helloRx
  try dsimp only
  repeat' (first
    | with_reducible assumption
    | with_reducible apply keeps_belayClose
    | with_reducible apply keeps_pairRefuse
    | with_reducible apply keeps_helloSend
    | with_reducible apply keeps_pairSet
    | with_reducible apply keeps_fset
    | with_reducible apply keeps_cairnState
    | with_reducible apply keeps_emitOut
    | with_reducible refine keeps_ite ?_ ?_
    | with_reducible apply keeps_upd')

theorem keeps_joinSend {a : State} {s : State} (hs : Keeps a s) :
    Keeps a (joinSend s) := by
  unfold joinSend
  try dsimp only
  repeat' (first
    | with_reducible assumption
    | with_reducible apply keeps_belaySend
    | with_reducible apply keeps_pairSet
    | with_reducible apply keeps_upd')

theorem keeps_proofRx {a : State} {b : List Byte} {s : State} (hs : Keeps a s) :
    Keeps a (proofRx b s) := by
  unfold proofRx
  try dsimp only
  repeat' (first
    | with_reducible assumption
    | with_reducible apply keeps_pairRefuse
    | with_reducible apply keeps_pairSet
    | with_reducible apply keeps_fset
    | with_reducible apply keeps_joinSend
    | with_reducible refine keeps_ite ?_ ?_
    | with_reducible apply keeps_upd')

theorem keeps_refusalRetry {a : State} {s : State} (hs : Keeps a s) :
    Keeps a (refusalRetry s) := by
  unfold refusalRetry
  try dsimp only
  repeat' (first
    | with_reducible assumption
    | with_reducible apply keeps_helloSend
    | with_reducible apply keeps_pairSet
    | with_reducible apply keeps_upd')

theorem keeps_laneLevel {a : State} {s : State} (hs : Keeps a s) :
    Keeps a (laneLevel s) := by
  unfold laneLevel
  try dsimp only
  repeat' (first
    | with_reducible assumption
    | with_reducible apply keeps_setLevel)

theorem keeps_laneUp {a : State} {l : Nat} {s : State} (hs : Keeps a s) :
    Keeps a (laneUp l s) := by
  unfold laneUp
  try dsimp only
  repeat' (first
    | with_reducible assumption
    | with_reducible apply keeps_ttShow
    | with_reducible apply keeps_laneLevel
    | with_reducible apply keeps_pstSet
    | with_reducible apply keeps_helloSend
    | with_reducible refine keeps_ite ?_ ?_)

theorem keeps_laneDown {a : State} {l : Nat} {s : State} (hs : Keeps a s) :
    Keeps a (laneDown l s) := by
  unfold laneDown
  try dsimp only
  repeat' (first
    | with_reducible assumption
    | with_reducible apply keeps_ttShow
    | with_reducible apply keeps_laneLevel
    | with_reducible apply keeps_pstSet
    | with_reducible apply keeps_belayClose
    | with_reducible refine keeps_ite ?_ ?_)

theorem keeps_recordIn {a : State} {ty : Nat} {ctr : Nat} {box : List Byte} {f : List Byte → State → State} {s : State} (hf : ∀ y0 b, Keeps a b → Keeps a (f y0 b)) (hs : Keeps a s) :
    Keeps a (recordIn ty ctr box f s) := by
  unfold recordIn
  try dsimp only
  repeat' (first
    | with_reducible assumption
    | with_reducible apply keeps_pairSet
    | with_reducible apply keeps_bump
    | with_reducible apply keeps_helloSend
    | with_reducible apply keeps_belayClose
    | with_reducible refine keeps_ite ?_ ?_
    | with_reducible apply hf
    | split
    | with_reducible apply keeps_upd')

theorem keeps_closeRx {a : State} {u0 : List Byte} {s : State} (hs : Keeps a s) :
    Keeps a (closeRx u0 s) := by
  unfold closeRx
  try dsimp only
  repeat' (first
    | with_reducible assumption
    | with_reducible apply keeps_helloSend
    | with_reducible apply keeps_belayClose)

theorem keeps_idCheck {a : State} {s : State} (hs : Keeps a s) :
    Keeps a (idCheck s) := by
  unfold idCheck
  try dsimp only
  repeat' (first
    | with_reducible assumption
    | with_reducible apply keeps_ptpRefresh
    | with_reducible apply keeps_fsetB
    | with_reducible refine keeps_ite ?_ ?_)

theorem keeps_heartbeatRx {a : State} {b : List Byte} {s0 : State} (hs0 : Keeps a s0) :
    Keeps a (heartbeatRx b s0) := by
  unfold heartbeatRx
  try dsimp only
  repeat' (first
    | with_reducible assumption
    | with_reducible apply keeps_idCheck
    | with_reducible apply keeps_pairSet
    | with_reducible apply keeps_fset
    | with_reducible apply keeps_refSlSet
    | with_reducible apply keeps_setLevel
    | with_reducible apply keeps_pstSet
    | with_reducible apply keeps_cairnState
    | with_reducible apply keeps_occur
    | with_reducible refine keeps_ite ?_ ?_
    | with_reducible apply keeps_upd')

theorem keeps_heartbeatMiss {a : State} {s : State} (hs : Keeps a s) :
    Keeps a (heartbeatMiss s) := by
  unfold heartbeatMiss
  try dsimp only
  repeat' (first
    | with_reducible assumption
    | with_reducible apply keeps_bump
    | with_reducible apply keeps_pairSet
    | with_reducible apply keeps_setLevel
    | with_reducible apply keeps_pstSet
    | with_reducible refine keeps_ite ?_ ?_
    | with_reducible apply keeps_upd')

theorem keeps_timeSend {a : State} {t : Nat} {s : State} (hs : Keeps a s) :
    Keeps a (timeSend t s) := by
  unfold timeSend
  try dsimp only
  repeat' (first
    | with_reducible assumption
    | with_reducible apply keeps_belaySend
    | with_reducible apply keeps_pairSet
    | with_reducible refine keeps_ite ?_ ?_
    | with_reducible apply keeps_upd')

theorem keeps_exchangeAccept {a : State} {rtt : Nat} {th : Int} {t : Nat} {s : State} (hs : Keeps a s) :
    Keeps a (exchangeAccept rtt th t s) := by
  unfold exchangeAccept
  try dsimp only
  repeat' (first
    | with_reducible assumption
    | with_reducible apply keeps_pairSet
    | with_reducible apply keeps_fset
    | with_reducible apply keeps_fsetI
    | with_reducible apply keeps_bump
    | with_reducible apply keeps_refActive
    | with_reducible apply keeps_refSample
    | with_reducible refine keeps_ite ?_ ?_
    | with_reducible apply keeps_upd')

theorem keeps_timeRx {a : State} {t : Nat} {b : List Byte} {s : State} (hs : Keeps a s) :
    Keeps a (timeRx t b s) := by
  unfold timeRx
  try dsimp only
  repeat' (first
    | with_reducible assumption
    | with_reducible apply keeps_pairSet
    | with_reducible apply keeps_exchangeAccept
    | with_reducible refine keeps_ite ?_ ?_
    | split
    | with_reducible apply keeps_upd')

theorem keeps_stateApply {a : State} {b : List Byte} {s : State} (hs : Keeps a s) :
    Keeps a (stateApply b s) := by
  unfold stateApply
  try dsimp only
  repeat' (first
    | with_reducible assumption
    | with_reducible apply keeps_fset
    | with_reducible apply keeps_wr
    | with_reducible apply keeps_smearRefresh
    | with_reducible refine keeps_ite ?_ ?_
    | with_reducible apply keeps_upd')

theorem keeps_journalApply {a : State} {ty : Nat} {b : List Byte} {s : State} (hs : Keeps a s) :
    Keeps a (journalApply ty b s) := by
  unfold journalApply
  try dsimp only
  repeat' (first
    | with_reducible assumption
    | with_reducible apply keeps_stateApply
    | with_reducible apply keeps_keyApply
    | with_reducible apply keeps_grantApply
    | with_reducible apply keeps_seqApply
    | with_reducible apply keeps_configApply
    | with_reducible apply keeps_pairSet
    | split
    | with_reducible apply keeps_upd')

theorem keeps_jShow {a : State} {n : Nat} {s : State} (hs : Keeps a s) :
    Keeps a (jShow n s) := by
  unfold jShow
  try dsimp only
  repeat' (first
    | with_reducible assumption
    | with_reducible apply keeps_fset
    | with_reducible apply keeps_pairSet
    | with_reducible apply keeps_upd')

theorem keeps_journalGap {a : State} {s : State} (hs : Keeps a s) :
    Keeps a (journalGap s) := by
  unfold journalGap
  try dsimp only
  repeat' (first
    | with_reducible assumption
    | with_reducible apply keeps_joinSend
    | with_reducible apply keeps_occur
    | with_reducible apply keeps_bump)

theorem keeps_journalRx {a : State} {ty : Nat} {f : List Byte → State → State} {b : List Byte} {s : State} (hf : ∀ y0 b, Keeps a b → Keeps a (f y0 b)) (hs : Keeps a s) :
    Keeps a (journalRx ty f b s) := by
  unfold journalRx
  try dsimp only
  repeat' (first
    | with_reducible assumption
    | with_reducible apply keeps_journalGap
    | with_reducible apply keeps_pairSet
    | with_reducible apply keeps_pstSet
    | with_reducible apply keeps_jShow
    | with_reducible apply keeps_bump
    | with_reducible refine keeps_ite ?_ ?_
    | with_reducible apply hf
    | with_reducible apply keeps_upd')

theorem keeps_snapPart {a : State} {b : List Byte} {s : State} (hs : Keeps a s) :
    Keeps a (snapPart b s) := by
  unfold snapPart
  try dsimp only
  repeat' (first
    | with_reducible assumption
    | with_reducible apply keeps_svcSetAddrs
    | with_reducible apply keeps_identsSet
    | with_reducible apply keeps_configApply
    | with_reducible apply keeps_journalApply
    | with_reducible refine keeps_ite ?_ ?_
    | with_reducible apply keeps_getD
    | split
    | with_reducible refine keeps_of_some ?_ ‹_ = some _›
    | with_reducible apply keeps_upd')

theorem keeps_snapClear {a : State} {s : State} (hs : Keeps a s) :
    Keeps a (snapClear s) := by
  unfold snapClear
  try dsimp only
  repeat' (first
    | with_reducible assumption
    | (with_reducible refine keeps_forEach (fun _ _ _ => ?_) ?_)
    | with_reducible apply keeps_keySet
    | with_reducible apply keeps_grantsShow
    | with_reducible apply keeps_grantSet
    | with_reducible apply keeps_grantUntable
    | with_reducible refine keeps_foldl _ (fun _ _ _ => ?_) _ ?_
    | with_reducible refine keeps_foldl_pair _ (fun _ _ _ => ?_) _ ?_
    | with_reducible refine keeps_ite ?_ ?_)

theorem keeps_snapEnd {a : State} {b : List Byte} {s : State} (hs : Keeps a s) :
    Keeps a (snapEnd b s) := by
  unfold snapEnd
  try dsimp only
  repeat' (first
    | with_reducible assumption
    | with_reducible apply keeps_journalGap
    | with_reducible apply keeps_snapPart
    | with_reducible apply keeps_snapClear
    | with_reducible apply keeps_journalApply
    | with_reducible apply keeps_bump
    | with_reducible apply keeps_jShow
    | with_reducible apply keeps_pairSet
    | with_reducible apply keeps_occur
    | with_reducible apply keeps_pstSet
    | with_reducible apply keeps_svcSync
    | with_reducible apply keeps_fset
    | with_reducible apply keeps_roleGo
    | with_reducible refine keeps_foldl _ (fun _ _ _ => ?_) _ ?_
    | with_reducible refine keeps_foldl_pair _ (fun _ _ _ => ?_) _ ?_
    | with_reducible refine keeps_ite ?_ ?_
    | with_reducible apply keeps_upd')

theorem keeps_joinRx {a : State} {u0 : List Byte} {s : State} (hs : Keeps a s) :
    Keeps a (joinRx u0 s) := by
  unfold joinRx
  try dsimp only
  repeat' (first
    | with_reducible assumption
    | with_reducible apply keeps_cairnState
    | with_reducible apply keeps_occur
    | with_reducible apply keeps_journal
    | with_reducible apply keeps_pstSet
    | with_reducible apply keeps_bump
    | with_reducible refine keeps_foldl _ (fun _ _ _ => ?_) _ ?_
    | with_reducible refine keeps_foldl_pair _ (fun _ _ _ => ?_) _ ?_
    | with_reducible refine keeps_ite ?_ ?_)

theorem keeps_joinRetry {a : State} {s : State} (hs : Keeps a s) :
    Keeps a (joinRetry s) := by
  unfold joinRetry
  try dsimp only
  repeat' (first
    | with_reducible assumption
    | with_reducible apply keeps_joinSend
    | with_reducible refine keeps_ite ?_ ?_)

theorem keeps_partApply {a : State} {u0 : List Byte} {s : State} (hs : Keeps a s) :
    Keeps a (partApply u0 s) := by
  unfold partApply
  try dsimp only
  repeat' (first
    | with_reducible assumption
    | with_reducible apply keeps_joinSend
    | with_reducible apply keeps_roleGo
    | with_reducible refine keeps_ite ?_ ?_)

theorem keeps_belayFrameRx {a : State} {b : List Byte} {s : State} (hs : Keeps a s) :
    Keeps a (belayFrameRx b s) := by
  unfold belayFrameRx
  try dsimp only
  repeat' (first
    | with_reducible assumption
    | with_reducible apply keeps_fwInject)

theorem keeps_cairnRx {a : State} {b : List Byte} {s : State} (hs : Keeps a s) :
    Keeps a (cairnRx b s) := by
  unfold cairnRx
  try dsimp only
  repeat' (first
    | with_reducible assumption
    | with_reducible apply keeps_cairnStore
    | with_reducible refine keeps_ite ?_ ?_)

theorem keeps_pairDo {a : State} {cmd : Nat} {s : State} (hs : Keeps a s) :
    Keeps a (pairDo cmd s) := by
  unfold pairDo
  try dsimp only
  repeat' (first
    | with_reducible assumption
    | with_reducible apply keeps_announceAddrs
    | with_reducible apply keeps_roleGo
    | with_reducible apply keeps_ptpTakeover
    | with_reducible apply keeps_joinSend
    | with_reducible apply keeps_fset
    | with_reducible apply keeps_pstSet
    | with_reducible apply keeps_pairSet
    | with_reducible apply keeps_journal
    | with_reducible refine keeps_ite ?_ ?_
    | split
    | with_reducible apply keeps_upd')

theorem keeps_pairApply {a : State} {a0 : Nat} {v : Word} {stored : State} (hstored : Keeps a stored) :
    OKeeps a (pairApply a0 v stored) := by
  unfold pairApply
  try dsimp only
  repeat' (first
    | with_reducible assumption
    | with_reducible apply keeps_pairDo
    | with_reducible apply keeps_select
    | with_reducible apply keeps_ttShow
    | with_reducible refine keeps_foldl _ (fun _ _ _ => ?_) _ ?_
    | with_reducible refine keeps_foldl_pair _ (fun _ _ _ => ?_) _ ?_
    | with_reducible refine keeps_ite ?_ ?_
    | with_reducible refine okeeps_ite ?_ ?_
    | with_reducible refine keeps_ite_fun ?_ ?_
    | with_reducible apply keeps_id
    | with_reducible apply okeeps_some
    | with_reducible exact okeeps_none
    | with_reducible refine okeeps_map ?_ (fun _ _ => ?_)
    | with_reducible apply okeeps_orElse)

theorem keeps_pairOpen {a : State} {s : State} (hs : Keeps a s) :
    Keeps a (pairOpen s) := by
  unfold pairOpen
  try dsimp only
  repeat' (first
    | with_reducible assumption
    | with_reducible apply keeps_laneLevel
    | with_reducible apply keeps_roleGo
    | with_reducible refine keeps_ite ?_ ?_)

theorem keeps_execCustInEdge {high : Bool} {s : State}  :
    RKeeps s (execCustInEdge high s) := by
  unfold execCustInEdge
  first
    | with_reducible refine rkeeps_run ?_
    | with_reducible refine rkeeps_runIf ?_
    | with_reducible refine rkeeps_next ?_
    | (unfold keRun; with_reducible refine rkeeps_runIf ?_)
  try dsimp only
  repeat' (first
    | with_reducible assumption
    | with_reducible exact Keeps_refl _
    | with_reducible apply keeps_custEdge)

theorem keeps_execCustodyGuard {s : State}  :
    RKeeps s (execCustodyGuard s) := by
  unfold execCustodyGuard
  first
    | with_reducible refine rkeeps_run ?_
    | with_reducible refine rkeeps_runIf ?_
    | with_reducible refine rkeeps_next ?_
    | (unfold keRun; with_reducible refine rkeeps_runIf ?_)
  try dsimp only
  repeat' (first
    | with_reducible assumption
    | with_reducible exact Keeps_refl _
    | with_reducible apply keeps_custodyGuard)

theorem keeps_execCustodyWatchEnd {s : State}  :
    RKeeps s (execCustodyWatchEnd s) := by
  unfold execCustodyWatchEnd
  first
    | with_reducible refine rkeeps_run ?_
    | with_reducible refine rkeeps_runIf ?_
    | with_reducible refine rkeeps_next ?_
    | (unfold keRun; with_reducible refine rkeeps_runIf ?_)
  try dsimp only
  repeat' (first
    | with_reducible assumption
    | with_reducible exact Keeps_refl _
    | with_reducible apply keeps_custodyTaken)

theorem keeps_execCustodyRetry {s : State}  :
    RKeeps s (execCustodyRetry s) := by
  unfold execCustodyRetry
  first
    | with_reducible refine rkeeps_run ?_
    | with_reducible refine rkeeps_runIf ?_
    | with_reducible refine rkeeps_next ?_
    | (unfold keRun; with_reducible refine rkeeps_runIf ?_)
  try dsimp only
  repeat' (first
    | with_reducible assumption
    | with_reducible exact Keeps_refl _
    | with_reducible apply keeps_custodyRetry)

theorem keeps_execCustFaultTimer {s : State}  :
    RKeeps s (execCustFaultTimer s) := by
  unfold execCustFaultTimer
  first
    | with_reducible refine rkeeps_run ?_
    | with_reducible refine rkeeps_runIf ?_
    | with_reducible refine rkeeps_next ?_
    | (unfold keRun; with_reducible refine rkeeps_runIf ?_)
  try dsimp only
  repeat' (first
    | with_reducible assumption
    | with_reducible exact Keeps_refl _
    | with_reducible apply keeps_custFault)

theorem keeps_execBelayLaneUp {lane : Nat} {s : State}  :
    RKeeps s (execBelayLaneUp lane s) := by
  unfold execBelayLaneUp
  first
    | with_reducible refine rkeeps_run ?_
    | with_reducible refine rkeeps_runIf ?_
    | with_reducible refine rkeeps_next ?_
    | (unfold keRun; with_reducible refine rkeeps_runIf ?_)
  try dsimp only
  repeat' (first
    | with_reducible assumption
    | with_reducible exact Keeps_refl _
    | with_reducible apply keeps_laneUp)

theorem keeps_execBelayLaneDown {lane : Nat} {s : State}  :
    RKeeps s (execBelayLaneDown lane s) := by
  unfold execBelayLaneDown
  first
    | with_reducible refine rkeeps_run ?_
    | with_reducible refine rkeeps_runIf ?_
    | with_reducible refine rkeeps_next ?_
    | (unfold keRun; with_reducible refine rkeeps_runIf ?_)
  try dsimp only
  repeat' (first
    | with_reducible assumption
    | with_reducible exact Keeps_refl _
    | with_reducible apply keeps_laneDown)

theorem keeps_execHelloRx {bytes : List Byte} {s : State}  :
    RKeeps s (execHelloRx bytes s) := by
  unfold execHelloRx
  first
    | with_reducible refine rkeeps_run ?_
    | with_reducible refine rkeeps_runIf ?_
    | with_reducible refine rkeeps_next ?_
    | (unfold keRun; with_reducible refine rkeeps_runIf ?_)
  try dsimp only
  repeat' (first
    | with_reducible assumption
    | with_reducible exact Keeps_refl _
    | with_reducible apply keeps_helloRx)

theorem keeps_execProofRx {bytes : List Byte} {s : State}  :
    RKeeps s (execProofRx bytes s) := by
  unfold execProofRx
  first
    | with_reducible refine rkeeps_run ?_
    | with_reducible refine rkeeps_runIf ?_
    | with_reducible refine rkeeps_next ?_
    | (unfold keRun; with_reducible refine rkeeps_runIf ?_)
  try dsimp only
  repeat' (first
    | with_reducible assumption
    | with_reducible exact Keeps_refl _
    | with_reducible apply keeps_proofRx)

theorem keeps_execSessionRefusalRetry {s : State}  :
    RKeeps s (execSessionRefusalRetry s) := by
  unfold execSessionRefusalRetry
  first
    | with_reducible refine rkeeps_run ?_
    | with_reducible refine rkeeps_runIf ?_
    | with_reducible refine rkeeps_next ?_
    | (unfold keRun; with_reducible refine rkeeps_runIf ?_)
  try dsimp only
  repeat' (first
    | with_reducible assumption
    | with_reducible exact Keeps_refl _
    | with_reducible apply keeps_refusalRetry)

theorem keeps_execCloseRx {ctr : Nat} {box : List Byte} {s : State}  :
    RKeeps s (execCloseRx ctr box s) := by
  unfold execCloseRx
  first
    | with_reducible refine rkeeps_run ?_
    | with_reducible refine rkeeps_runIf ?_
    | with_reducible refine rkeeps_next ?_
    | (unfold keRun; with_reducible refine rkeeps_runIf ?_)
  try dsimp only
  repeat' (first
    | with_reducible assumption
    | with_reducible exact Keeps_refl _
    | with_reducible apply keeps_recordIn
    | with_reducible apply keeps_closeRx
    | intro _)

theorem keeps_execHeartbeatSend {s : State}  :
    RKeeps s (execHeartbeatSend s) := by
  unfold execHeartbeatSend
  first
    | with_reducible refine rkeeps_run ?_
    | with_reducible refine rkeeps_runIf ?_
    | with_reducible refine rkeeps_next ?_
    | (unfold keRun; with_reducible refine rkeeps_runIf ?_)
  try dsimp only
  repeat' (first
    | with_reducible assumption
    | with_reducible exact Keeps_refl _
    | with_reducible apply keeps_belaySend
    | with_reducible refine keeps_ite ?_ ?_)

theorem keeps_execHeartbeatRx {ctr : Nat} {box : List Byte} {s : State}  :
    RKeeps s (execHeartbeatRx ctr box s) := by
  unfold execHeartbeatRx
  first
    | with_reducible refine rkeeps_run ?_
    | with_reducible refine rkeeps_runIf ?_
    | with_reducible refine rkeeps_next ?_
    | (unfold keRun; with_reducible refine rkeeps_runIf ?_)
  try dsimp only
  repeat' (first
    | with_reducible assumption
    | with_reducible exact Keeps_refl _
    | with_reducible apply keeps_recordIn
    | with_reducible apply keeps_heartbeatRx
    | intro _)

theorem keeps_execHeartbeatMiss {s : State}  :
    RKeeps s (execHeartbeatMiss s) := by
  unfold execHeartbeatMiss
  first
    | with_reducible refine rkeeps_run ?_
    | with_reducible refine rkeeps_runIf ?_
    | with_reducible refine rkeeps_next ?_
    | (unfold keRun; with_reducible refine rkeeps_runIf ?_)
  try dsimp only
  repeat' (first
    | with_reducible assumption
    | with_reducible exact Keeps_refl _
    | with_reducible apply keeps_heartbeatMiss)

theorem keeps_execTimeSend {t : Nat} {s : State}  :
    RKeeps s (execTimeSend t s) := by
  unfold execTimeSend
  first
    | with_reducible refine rkeeps_run ?_
    | with_reducible refine rkeeps_runIf ?_
    | with_reducible refine rkeeps_next ?_
    | (unfold keRun; with_reducible refine rkeeps_runIf ?_)
  try dsimp only
  repeat' (first
    | with_reducible assumption
    | with_reducible exact Keeps_refl _
    | with_reducible apply keeps_timeSend)

theorem keeps_execTimeRx {ctr : Nat} {box : List Byte} {t : Nat} {s : State}  :
    RKeeps s (execTimeRx ctr box t s) := by
  unfold execTimeRx
  first
    | with_reducible refine rkeeps_run ?_
    | with_reducible refine rkeeps_runIf ?_
    | with_reducible refine rkeeps_next ?_
    | (unfold keRun; with_reducible refine rkeeps_runIf ?_)
  try dsimp only
  repeat' (first
    | with_reducible assumption
    | with_reducible exact Keeps_refl _
    | with_reducible apply keeps_recordIn
    | with_reducible apply keeps_timeRx
    | intro _)

theorem keeps_execJournalRx {ty : Nat} {ctr : Nat} {box : List Byte} {s : State}  :
    RKeeps s (execJournalRx ty ctr box s) := by
  unfold execJournalRx
  first
    | with_reducible refine rkeeps_run ?_
    | with_reducible refine rkeeps_runIf ?_
    | with_reducible refine rkeeps_next ?_
    | (unfold keRun; with_reducible refine rkeeps_runIf ?_)
  try dsimp only
  repeat' (first
    | with_reducible assumption
    | with_reducible exact Keeps_refl _
    | with_reducible apply keeps_recordIn
    | with_reducible apply keeps_journalRx
    | with_reducible apply keeps_journalApply
    | intro _)

theorem keeps_execJoinRx {ctr : Nat} {box : List Byte} {s : State}  :
    RKeeps s (execJoinRx ctr box s) := by
  unfold execJoinRx
  first
    | with_reducible refine rkeeps_run ?_
    | with_reducible refine rkeeps_runIf ?_
    | with_reducible refine rkeeps_next ?_
    | (unfold keRun; with_reducible refine rkeeps_runIf ?_)
  try dsimp only
  repeat' (first
    | with_reducible assumption
    | with_reducible exact Keeps_refl _
    | with_reducible apply keeps_recordIn
    | with_reducible apply keeps_joinRx
    | intro _)

theorem keeps_execSnapEndRx {ctr : Nat} {box : List Byte} {s : State}  :
    RKeeps s (execSnapEndRx ctr box s) := by
  unfold execSnapEndRx
  first
    | with_reducible refine rkeeps_run ?_
    | with_reducible refine rkeeps_runIf ?_
    | with_reducible refine rkeeps_next ?_
    | (unfold keRun; with_reducible refine rkeeps_runIf ?_)
  try dsimp only
  repeat' (first
    | with_reducible assumption
    | with_reducible exact Keeps_refl _
    | with_reducible apply keeps_recordIn
    | with_reducible apply keeps_snapEnd
    | intro _)

theorem keeps_execJoinRetry {s : State}  :
    RKeeps s (execJoinRetry s) := by
  unfold execJoinRetry
  first
    | with_reducible refine rkeeps_run ?_
    | with_reducible refine rkeeps_runIf ?_
    | with_reducible refine rkeeps_next ?_
    | (unfold keRun; with_reducible refine rkeeps_runIf ?_)
  try dsimp only
  repeat' (first
    | with_reducible assumption
    | with_reducible exact Keeps_refl _
    | with_reducible apply keeps_joinRetry)

theorem keeps_execYieldRx {ctr : Nat} {box : List Byte} {s : State}  :
    RKeeps s (execYieldRx ctr box s) := by
  unfold execYieldRx
  first
    | with_reducible refine rkeeps_run ?_
    | with_reducible refine rkeeps_runIf ?_
    | with_reducible refine rkeeps_next ?_
    | (unfold keRun; with_reducible refine rkeeps_runIf ?_)
  try dsimp only
  repeat' (first
    | with_reducible assumption
    | with_reducible exact Keeps_refl _
    | with_reducible apply keeps_recordIn
    | with_reducible apply keeps_journalRx
    | with_reducible apply keeps_journalApply
    | intro _)

theorem keeps_execPartRx {ctr : Nat} {box : List Byte} {s : State}  :
    RKeeps s (execPartRx ctr box s) := by
  unfold execPartRx
  first
    | with_reducible refine rkeeps_run ?_
    | with_reducible refine rkeeps_runIf ?_
    | with_reducible refine rkeeps_next ?_
    | (unfold keRun; with_reducible refine rkeeps_runIf ?_)
  try dsimp only
  repeat' (first
    | with_reducible assumption
    | with_reducible exact Keeps_refl _
    | with_reducible apply keeps_recordIn
    | with_reducible apply keeps_journalRx
    | with_reducible apply keeps_partApply
    | intro _)

theorem keeps_execBelayFrameRx {ctr : Nat} {box : List Byte} {s : State}  :
    RKeeps s (execBelayFrameRx ctr box s) := by
  unfold execBelayFrameRx
  first
    | with_reducible refine rkeeps_run ?_
    | with_reducible refine rkeeps_runIf ?_
    | with_reducible refine rkeeps_next ?_
    | (unfold keRun; with_reducible refine rkeeps_runIf ?_)
  try dsimp only
  repeat' (first
    | with_reducible assumption
    | with_reducible exact Keeps_refl _
    | with_reducible apply keeps_recordIn
    | with_reducible apply keeps_belayFrameRx
    | intro _)

theorem keeps_execCairnRx {ctr : Nat} {box : List Byte} {s : State}  :
    RKeeps s (execCairnRx ctr box s) := by
  unfold execCairnRx
  first
    | with_reducible refine rkeeps_run ?_
    | with_reducible refine rkeeps_runIf ?_
    | with_reducible refine rkeeps_next ?_
    | (unfold keRun; with_reducible refine rkeeps_runIf ?_)
  try dsimp only
  repeat' (first
    | with_reducible assumption
    | with_reducible exact Keeps_refl _
    | with_reducible apply keeps_recordIn
    | with_reducible apply keeps_cairnRx
    | intro _)

end Sys2Proof.Laws
end

