-- ==== Sys2Proof/Laws/KeepsLegs.lean ====
section
/-!
SUPPORT. Laws/KeepsLegs.lean: the functions of Machine/Legs.lean keep what every command keeps (Keeps of Safety.lean).
-/
namespace Sys2Proof.Laws
open Sys2Proof Sys2Proof.Machine

set_option linter.unusedTactic false
set_option linter.unreachableTactic false
set_option linter.unusedVariables false

theorem keeps_flashStore {a : State} {off : Nat} {bs : List Byte} {s : State} (hs : Keeps a s) :
    Keeps a (flashStore off bs s) := by
  unfold flashStore
  try dsimp only
  repeat' (first
    | with_reducible assumption
    | with_reducible apply keeps_upd_flashPut)

theorem keeps_flashProgram {a : State} {off : Nat} {bs : List Byte} {s : State} (hs : Keeps a s) :
    Keeps a (flashProgram off bs s) := by
  unfold flashProgram
  try dsimp only
  repeat' (first
    | with_reducible assumption
    | with_reducible apply keeps_flashStore
    | with_reducible apply keeps_upd_flashPut)

theorem keeps_flashErase {a : State} {off : Nat} {n : Nat} {s : State} (hs : Keeps a s) :
    Keeps a (flashErase off n s) := by
  unfold flashErase
  try dsimp only
  repeat' (first
    | with_reducible assumption
    | with_reducible apply keeps_upd_flashFilter)

end Sys2Proof.Laws
end

