-- ==== Sys2Proof/Laws/KeepsStartOps.lean ====
section
/-!
SUPPORT. Laws/KeepsStartOps.lean: the functions of Machine/StartOps.lean keep what every command keeps (Keeps of Safety.lean).
-/
namespace Sys2Proof.Laws
open Sys2Proof Sys2Proof.Machine

set_option linter.unusedTactic false
set_option linter.unreachableTactic false
set_option linter.unusedVariables false

theorem keeps_stSet {a : State} {f : Fld} {v : Nat} {s : State} (hs : Keeps a s) :
    Keeps a (stSet f v s) := by
  unfold stSet
  try dsimp only
  repeat' (first
    | with_reducible assumption
    | with_reducible apply keeps_fset)

theorem keeps_startSet {a : State} {f : StartState → StartState} {s : State} (hs : Keeps a s) :
    Keeps a (startSet f s) := by
  unfold startSet
  try dsimp only
  repeat' (first
    | with_reducible assumption
    | with_reducible apply hf
    | with_reducible apply keeps_upd')

theorem keeps_logicReset {a : State} {s : State} (hs : Keeps a s) :
    Keeps a (logicReset s) := by
  unfold logicReset
  dsimp only
  refine keeps_foldl _ (fun _ _ h => keeps_wr h) _ ?_
  exact Keeps_trans hs ⟨rfl, rfl, List.suffix_refl _, Nat.le_refl _, fun _ => rfl,
    fun c => ⟨rfl, rfl, rfl, rfl, c.flash, rfl, rfl, rfl, rfl, rfl, rfl, rfl, rfl, rfl, rfl, rfl, rfl, rfl, rfl, rfl, rfl, rfl, rfl, rfl⟩⟩

theorem keeps_aonDeliver {a : State} {s : State} (hs : Keeps a s) :
    Keeps a (aonDeliver s) := by
  unfold aonDeliver
  try dsimp only
  repeat' (first
    | with_reducible assumption
    | (with_reducible refine keeps_forEach (fun _ _ _ => ?_) ?_)
    | with_reducible apply keeps_setLevel
    | with_reducible apply keeps_setBank
    | with_reducible apply keeps_occur
    | with_reducible refine keeps_ite ?_ ?_
    | with_reducible apply keeps_upd')

theorem keeps_beginAttempt {a : State} {cause : Nat} {recovery : Bool} {s : State} (hs : Keeps a s) :
    Keeps a (beginAttempt cause recovery s) := by
  unfold beginAttempt
  try dsimp only
  repeat' (first
    | with_reducible assumption
    | with_reducible apply keeps_logicReset
    | with_reducible apply keeps_startSet
    | with_reducible apply keeps_stSet
    | with_reducible apply keeps_fset
    | with_reducible apply keeps_fsetB
    | with_reducible apply keeps_setLevel
    | with_reducible apply keeps_occur
    | with_reducible refine keeps_ite ?_ ?_
    | with_reducible apply keeps_upd')

theorem keeps_histPush {a : State} {q : Nat} {r : List Nat} {s : State} (hs : Keeps a s) :
    Keeps a (histPush q r s) := by
  unfold histPush
  try dsimp only
  repeat' (first
    | with_reducible assumption
    | (with_reducible refine keeps_forEach (fun _ _ _ => ?_) ?_)
    | with_reducible apply keeps_wr
    | with_reducible refine keeps_ite ?_ ?_)

theorem keeps_jAppend {a : State} {r : List Nat} {s : State} (hs : Keeps a s) :
    Keeps a (jAppend r s) := by
  unfold jAppend
  try dsimp only
  repeat' (first
    | with_reducible assumption
    | with_reducible apply keeps_histPush
    | with_reducible apply keeps_flashProgram
    | split
    | with_reducible apply keeps_upd')

theorem keeps_prefShow {a : State} {s : State} (hs : Keeps a s) :
    Keeps a (prefShow s) := by
  unfold prefShow
  try dsimp only
  repeat' (first
    | with_reducible assumption
    | with_reducible apply keeps_fsetB
    | with_reducible apply keeps_fset
    | with_reducible apply keeps_getD)

theorem keeps_jSwitch {a : State} {s : State} (hs : Keeps a s) :
    Keeps a (jSwitch s) := by
  unfold jSwitch
  try dsimp only
  repeat' (first
    | with_reducible assumption
    | with_reducible apply keeps_flashErase
    | with_reducible apply keeps_flashProgram
    | with_reducible refine keeps_ite ?_ ?_
    | with_reducible apply keeps_getD
    | split
    | with_reducible apply keeps_upd')

theorem keeps_keysLoad {a : State} {es : List (List Byte)} {s : State} (hs : Keeps a s) :
    Keeps a (keysLoad es s) := by
  unfold keysLoad
  try dsimp only
  repeat' (first
    | with_reducible assumption
    | (with_reducible refine keeps_forEach (fun _ _ _ => ?_) ?_)
    | with_reducible apply keeps_keyPut
    | with_reducible refine keeps_foldl _ (fun _ _ _ => ?_) _ ?_
    | with_reducible refine keeps_foldl_pair _ (fun _ _ _ => ?_) _ ?_
    | with_reducible apply keeps_upd')

theorem keeps_deviceLoad {a : State} {b : List Byte} {s : State} (hs : Keeps a s) :
    Keeps a (deviceLoad b s) := by
  unfold deviceLoad
  try dsimp only
  repeat' (first
    | with_reducible assumption
    | with_reducible apply keeps_fset
    | with_reducible apply keeps_startSet
    | with_reducible apply keeps_upd')

theorem keeps_bivHarness {a : State} {s : State} (hs : Keeps a s) :
    Keeps a (bivHarness s) := by
  unfold bivHarness
  try dsimp only
  repeat' (first
    | with_reducible assumption
    | with_reducible apply keeps_deviceLoad
    | with_reducible apply keeps_keysLoad
    | with_reducible refine keeps_ite ?_ ?_
    | with_reducible refine keeps_ite_fun ?_ ?_
    | with_reducible apply keeps_id
    | with_reducible refine okeeps_findSome (fun _ => ?_) _
    | split
    | with_reducible apply keeps_upd')

theorem keeps_bivState {a : State} {s : State} (hs : Keeps a s) :
    Keeps a (bivState s) := by
  have k := keeps_logicReset (Keeps_refl s)
  refine Keeps_trans hs ⟨k.pending, k.variant, k.out, k.fresh, k.otp, fun c => ?_⟩
  have d := k.canonical c
  refine ⟨mapWf_filter _ c.mem, ?_, d.initRegs, d.busOut, d.flash, d.gate, d.ports, d.refs, d.refUp, d.tic, d.outs, d.trigs, d.nts,
    d.tod, d.ctx, d.q, c.live, d.keys, d.sketch, d.grants, d.conns, mapWf_filter _ c.units, c.bad, c.log⟩
  show mapWf (regReset (logicReset s).variant) _ = true
  rw [k.variant]
  exact mapWf_filter _ c.regs

theorem keeps_enterBivouac {a : State} {cause : Nat} {pcieClock : Bool} {s : State} (hs : Keeps a s) :
    Keeps a (enterBivouac cause pcieClock s) := by
  unfold enterBivouac
  try dsimp only
  repeat' (first
    | with_reducible assumption
    | with_reducible apply keeps_jAppend
    | with_reducible apply keeps_sessionsEnd
    | with_reducible apply keeps_setPhase
    | with_reducible apply keeps_stSet
    | with_reducible apply keeps_bivState
    | with_reducible apply keeps_fset
    | with_reducible apply keeps_pstSet
    | with_reducible apply keeps_startSet
    | with_reducible apply keeps_fsetB
    | with_reducible apply keeps_jSwitch
    | with_reducible apply keeps_setLevel
    | with_reducible apply keeps_aonDeliver
    | with_reducible apply keeps_bivHarness
    | with_reducible refine keeps_ite ?_ ?_
    | with_reducible apply keeps_upd')

theorem keeps_failAttempt {a : State} {cause : Nat} {pcieClock : Bool} {s : State} (hs : Keeps a s) :
    Keeps a (failAttempt cause pcieClock s) := by
  unfold failAttempt
  try dsimp only
  repeat' (first
    | with_reducible assumption
    | with_reducible apply keeps_stSet
    | with_reducible apply keeps_startSet
    | with_reducible apply keeps_jAppend
    | with_reducible apply keeps_cairn
    | with_reducible apply keeps_enterBivouac
    | with_reducible apply keeps_occur
    | with_reducible refine keeps_ite ?_ ?_
    | with_reducible apply keeps_upd')

theorem keeps_startRetry {a : State} {s : State} (hs : Keeps a s) :
    Keeps a (startRetry s) := by
  unfold startRetry
  try dsimp only
  repeat' (first
    | with_reducible assumption
    | with_reducible apply keeps_beginAttempt
    | with_reducible refine keeps_ite ?_ ?_)

theorem keeps_neutralEnd {a : State} {cause : Nat} {canWrite : Bool} {s : State} (hs : Keeps a s) :
    Keeps a (neutralEnd cause canWrite s) := by
  unfold neutralEnd
  try dsimp only
  repeat' (first
    | with_reducible assumption
    | with_reducible apply keeps_jAppend
    | with_reducible apply keeps_startSet
    | with_reducible refine keeps_ite ?_ ?_
    | with_reducible apply keeps_upd')

theorem keeps_internalRestart {a : State} {cause : Nat} {s : State} (hs : Keeps a s) :
    Keeps a (internalRestart cause s) := by
  unfold internalRestart
  try dsimp only
  repeat' (first
    | with_reducible assumption
    | with_reducible apply keeps_belaySend
    | with_reducible apply keeps_sessionsEnd
    | with_reducible apply keeps_beginAttempt)

theorem keeps_harnessRestart {a : State} {s : State} (hs : Keeps a s) :
    Keeps a (harnessRestart s) := by
  unfold harnessRestart
  try dsimp only
  repeat' (first
    | with_reducible assumption
    | with_reducible apply keeps_internalRestart
    | with_reducible apply keeps_neutralEnd)

theorem keeps_rootUnlock {a : State} {s : State} (hs : Keeps a s) :
    Keeps a (rootUnlock s) := by
  unfold rootUnlock
  try dsimp only
  repeat' (first
    | with_reducible assumption
    | with_reducible apply keeps_beginAttempt
    | with_reducible apply keeps_neutralEnd
    | with_reducible refine keeps_ite ?_ ?_)

theorem keeps_bivRelease {a : State} {first : Nat} {s : State} (hs : Keeps a s) :
    Keeps a (bivRelease first s) := by
  unfold bivRelease
  try dsimp only
  repeat' (first
    | with_reducible assumption
    | with_reducible apply keeps_startSet
    | with_reducible apply keeps_jAppend
    | with_reducible apply keeps_beginAttempt
    | with_reducible apply keeps_sessionsEnd
    | with_reducible refine keeps_ite ?_ ?_
    | with_reducible apply keeps_upd')

theorem keeps_watchdog {a : State} {fatalUe : Bool} {s : State} (hs : Keeps a s) :
    Keeps a (watchdog fatalUe s) := by
  unfold watchdog
  try dsimp only
  repeat' (first
    | with_reducible assumption
    | with_reducible apply keeps_internalRestart
    | with_reducible apply keeps_failAttempt
    | with_reducible refine keeps_ite ?_ ?_)

theorem keeps_stageDeadline {a : State} {s : State} (hs : Keeps a s) :
    Keeps a (stageDeadline s) := by
  unfold stageDeadline
  try dsimp only
  repeat' (first
    | with_reducible assumption
    | with_reducible apply keeps_fset
    | with_reducible apply keeps_failAttempt
    | with_reducible refine keeps_ite ?_ ?_)

theorem keeps_startSuccess {a : State} {s : State} (hs : Keeps a s) :
    Keeps a (startSuccess s) := by
  unfold startSuccess
  try dsimp only
  repeat' (first
    | with_reducible assumption
    | with_reducible apply keeps_startSet
    | with_reducible apply keeps_jSwitch
    | with_reducible apply keeps_jAppend
    | with_reducible apply keeps_occur
    | with_reducible apply keeps_fsetB
    | with_reducible apply keeps_stSet
    | with_reducible refine keeps_ite ?_ ?_
    | with_reducible apply keeps_upd')

theorem keeps_holdReset {a : State} {f : StartState → StartState} {s : State} (hs : Keeps a s) :
    Keeps a (holdReset f s) := by
  unfold holdReset
  try dsimp only
  repeat' (first
    | with_reducible assumption
    | with_reducible apply keeps_logicReset
    | with_reducible apply keeps_startSet
    | with_reducible apply keeps_stSet
    | with_reducible apply hf)

theorem keeps_pwrFall {a : State} {s : State} (hs : Keeps a s) :
    Keeps a (pwrFall s) := by
  unfold pwrFall
  try dsimp only
  repeat' (first
    | with_reducible assumption
    | with_reducible apply keeps_holdReset
    | with_reducible apply keeps_upd')

theorem keeps_pwrRise {a : State} {boot : Nat} {s : State} (hs : Keeps a s) :
    Keeps a (pwrRise boot s) := by
  unfold pwrRise
  try dsimp only
  repeat' (first
    | with_reducible assumption
    | with_reducible apply keeps_beginAttempt
    | with_reducible apply keeps_startSet
    | with_reducible apply keeps_upd')

theorem keeps_poresetDown {a : State} {s : State} (hs : Keeps a s) :
    Keeps a (poresetDown s) := by
  unfold poresetDown
  try dsimp only
  repeat' (first
    | with_reducible assumption
    | with_reducible apply keeps_holdReset
    | with_reducible apply keeps_upd')

theorem keeps_poresetUp {a : State} {boot : Nat} {s : State} (hs : Keeps a s) :
    Keeps a (poresetUp boot s) := by
  unfold poresetUp
  try dsimp only
  repeat' (first
    | with_reducible assumption
    | with_reducible apply keeps_beginAttempt
    | with_reducible apply keeps_startSet
    | with_reducible refine keeps_ite ?_ ?_
    | with_reducible apply keeps_upd')

theorem keeps_warmDown {a : State} {s : State} (hs : Keeps a s) :
    Keeps a (warmDown s) := by
  unfold warmDown
  try dsimp only
  repeat' (first
    | with_reducible assumption
    | with_reducible apply keeps_holdReset
    | with_reducible apply keeps_upd')

theorem keeps_warmUp {a : State} {boot : Nat} {s : State} (hs : Keeps a s) :
    Keeps a (warmUp boot s) := by
  unfold warmUp
  try dsimp only
  repeat' (first
    | with_reducible assumption
    | with_reducible apply keeps_beginAttempt
    | with_reducible apply keeps_startSet
    | with_reducible apply keeps_upd')

theorem keeps_vstbyLoss {a : State} {s : State} (hs : Keeps a s) :
    Keeps a (vstbyLoss s) := by
  unfold vstbyLoss
  try dsimp only
  repeat' (first
    | with_reducible assumption
    | with_reducible apply keeps_startSet
    | (with_reducible refine keeps_forEach (fun _ _ _ => ?_) ?_)
    | with_reducible apply keeps_wr
    | with_reducible apply keeps_upd')

theorem keeps_bivRootRetry {a : State} {locked : Bool} {pcie : Bool} {s : State} (hs : Keeps a s) :
    Keeps a (bivRootRetry locked pcie s) := by
  unfold bivRootRetry
  try dsimp only
  repeat' (first
    | with_reducible assumption
    | with_reducible apply keeps_fsetB
    | with_reducible apply keeps_startSet
    | with_reducible refine keeps_ite ?_ ?_
    | with_reducible apply keeps_upd')

theorem keeps_execPwrGoodRise {boot : Nat} {s : State}  :
    RKeeps s (execPwrGoodRise boot s) := by
  unfold execPwrGoodRise
  first
    | with_reducible refine rkeeps_run ?_
    | with_reducible refine rkeeps_runIf ?_
    | with_reducible refine rkeeps_next ?_
    | (unfold keRun; with_reducible refine rkeeps_runIf ?_)
  try dsimp only
  repeat' (first
    | with_reducible assumption
    | with_reducible exact Keeps_refl _
    | with_reducible apply keeps_pwrRise)

theorem keeps_execPwrGoodFall {s : State}  :
    RKeeps s (execPwrGoodFall s) := by
  unfold execPwrGoodFall
  first
    | with_reducible refine rkeeps_run ?_
    | with_reducible refine rkeeps_runIf ?_
    | with_reducible refine rkeeps_next ?_
    | (unfold keRun; with_reducible refine rkeeps_runIf ?_)
  try dsimp only
  repeat' (first
    | with_reducible assumption
    | with_reducible exact Keeps_refl _
    | with_reducible apply keeps_pwrFall)

theorem keeps_execPoresetNRelease {boot : Nat} {s : State}  :
    RKeeps s (execPoresetNRelease boot s) := by
  unfold execPoresetNRelease
  first
    | with_reducible refine rkeeps_run ?_
    | with_reducible refine rkeeps_runIf ?_
    | with_reducible refine rkeeps_next ?_
    | (unfold keRun; with_reducible refine rkeeps_runIf ?_)
  try dsimp only
  repeat' (first
    | with_reducible assumption
    | with_reducible exact Keeps_refl _
    | with_reducible apply keeps_poresetUp
    | with_reducible refine keeps_ite ?_ ?_)

theorem keeps_execPoresetNAssert {s : State}  :
    RKeeps s (execPoresetNAssert s) := by
  unfold execPoresetNAssert
  first
    | with_reducible refine rkeeps_run ?_
    | with_reducible refine rkeeps_runIf ?_
    | with_reducible refine rkeeps_next ?_
    | (unfold keRun; with_reducible refine rkeeps_runIf ?_)
  try dsimp only
  repeat' (first
    | with_reducible assumption
    | with_reducible exact Keeps_refl _
    | with_reducible apply keeps_poresetDown)

theorem keeps_execWarmResetNRelease {boot : Nat} {s : State}  :
    RKeeps s (execWarmResetNRelease boot s) := by
  unfold execWarmResetNRelease
  first
    | with_reducible refine rkeeps_run ?_
    | with_reducible refine rkeeps_runIf ?_
    | with_reducible refine rkeeps_next ?_
    | (unfold keRun; with_reducible refine rkeeps_runIf ?_)
  try dsimp only
  repeat' (first
    | with_reducible assumption
    | with_reducible exact Keeps_refl _
    | with_reducible apply keeps_warmUp
    | with_reducible refine keeps_ite ?_ ?_)

theorem keeps_execWarmResetNAssert {s : State}  :
    RKeeps s (execWarmResetNAssert s) := by
  unfold execWarmResetNAssert
  first
    | with_reducible refine rkeeps_run ?_
    | with_reducible refine rkeeps_runIf ?_
    | with_reducible refine rkeeps_next ?_
    | (unfold keRun; with_reducible refine rkeeps_runIf ?_)
  try dsimp only
  repeat' (first
    | with_reducible assumption
    | with_reducible exact Keeps_refl _
    | with_reducible apply keeps_warmDown)

theorem keeps_execVstbyLoss {s : State}  :
    RKeeps s (execVstbyLoss s) := by
  unfold execVstbyLoss
  first
    | with_reducible refine rkeeps_run ?_
    | with_reducible refine rkeeps_runIf ?_
    | with_reducible refine rkeeps_next ?_
    | (unfold keRun; with_reducible refine rkeeps_runIf ?_)
  try dsimp only
  repeat' (first
    | with_reducible assumption
    | with_reducible exact Keeps_refl _
    | with_reducible apply keeps_vstbyLoss)

theorem keeps_execBivouacRootRetry {locked : Bool} {pcie : Bool} {s : State}  :
    RKeeps s (execBivouacRootRetry locked pcie s) := by
  unfold execBivouacRootRetry
  first
    | with_reducible refine rkeeps_run ?_
    | with_reducible refine rkeeps_runIf ?_
    | with_reducible refine rkeeps_next ?_
    | (unfold keRun; with_reducible refine rkeeps_runIf ?_)
  try dsimp only
  repeat' (first
    | with_reducible assumption
    | with_reducible exact Keeps_refl _
    | with_reducible apply keeps_bivRootRetry)

theorem keeps_execRootUnlock {s : State}  :
    RKeeps s (execRootUnlock s) := by
  unfold execRootUnlock
  first
    | with_reducible refine rkeeps_run ?_
    | with_reducible refine rkeeps_runIf ?_
    | with_reducible refine rkeeps_next ?_
    | (unfold keRun; with_reducible refine rkeeps_runIf ?_)
  try dsimp only
  repeat' (first
    | with_reducible assumption
    | with_reducible exact Keeps_refl _
    | with_reducible apply keeps_rootUnlock)

theorem keeps_execStageDeadline {s : State}  :
    RKeeps s (execStageDeadline s) := by
  unfold execStageDeadline
  first
    | with_reducible refine rkeeps_run ?_
    | with_reducible refine rkeeps_runIf ?_
    | with_reducible refine rkeeps_next ?_
    | (unfold keRun; with_reducible refine rkeeps_runIf ?_)
  try dsimp only
  repeat' (first
    | with_reducible assumption
    | with_reducible exact Keeps_refl _
    | with_reducible apply keeps_stageDeadline)

theorem keeps_execWatchdog {fatalUe : Bool} {s : State}  :
    RKeeps s (execWatchdog fatalUe s) := by
  unfold execWatchdog
  first
    | with_reducible refine rkeeps_run ?_
    | with_reducible refine rkeeps_runIf ?_
    | with_reducible refine rkeeps_next ?_
    | (unfold keRun; with_reducible refine rkeeps_runIf ?_)
  try dsimp only
  repeat' (first
    | with_reducible assumption
    | with_reducible exact Keeps_refl _
    | with_reducible apply keeps_watchdog)

theorem keeps_execStartRetry {s : State}  :
    RKeeps s (execStartRetry s) := by
  unfold execStartRetry
  first
    | with_reducible refine rkeeps_run ?_
    | with_reducible refine rkeeps_runIf ?_
    | with_reducible refine rkeeps_next ?_
    | (unfold keRun; with_reducible refine rkeeps_runIf ?_)
  try dsimp only
  repeat' (first
    | with_reducible assumption
    | with_reducible exact Keeps_refl _
    | with_reducible apply keeps_startRetry)

theorem keeps_execStartSuccess {s : State}  :
    RKeeps s (execStartSuccess s) := by
  unfold execStartSuccess
  first
    | with_reducible refine rkeeps_run ?_
    | with_reducible refine rkeeps_runIf ?_
    | with_reducible refine rkeeps_next ?_
    | (unfold keRun; with_reducible refine rkeeps_runIf ?_)
  try dsimp only
  repeat' (first
    | with_reducible assumption
    | with_reducible exact Keeps_refl _
    | with_reducible apply keeps_startSuccess)

end Sys2Proof.Laws
end

