-- ==== Sys2Proof/Laws/KeepsTic.lean ====
section
/-!
SUPPORT. Laws/KeepsTic.lean: the functions of Machine/Tic.lean keep what every command keeps (Keeps of Safety.lean).
-/
namespace Sys2Proof.Laws
open Sys2Proof Sys2Proof.Machine

set_option linter.unusedTactic false
set_option linter.unreachableTactic false
set_option linter.unusedVariables false

theorem keeps_ticSet {a : State} {n : Nat} {x : TicCh} {s : State} (hs : Keeps a s) :
    Keeps a (ticSet n x s) := by
  unfold ticSet
  try dsimp only
  repeat' (first
    | with_reducible assumption
    | with_reducible apply keeps_setLevel
    | with_reducible apply keeps_fset
    | with_reducible apply keeps_fsetB
    | with_reducible apply keeps_upd_tic)

theorem keeps_ticArm {a : State} {n : Nat} {s : State} (hs : Keeps a s) :
    Keeps a (ticArm n s) := by
  unfold ticArm
  try dsimp only
  repeat' (first
    | with_reducible assumption
    | with_reducible apply keeps_ticSet
    | with_reducible apply keeps_upd')

theorem keeps_ticAbort {a : State} {n : Nat} {old : Word} {s : State} (hs : Keeps a s) :
    Keeps a (ticAbort n old s) := by
  unfold ticAbort
  try dsimp only
  repeat' (first
    | with_reducible assumption
    | with_reducible apply keeps_ticArm
    | with_reducible apply keeps_ticSet
    | with_reducible refine keeps_ite ?_ ?_
    | with_reducible apply keeps_upd')

theorem keeps_ticEnd {a : State} {n : Nat} {nxt : Option TicEdge} {s : State} (hs : Keeps a s) :
    Keeps a (ticEnd n nxt s) := by
  unfold ticEnd
  try dsimp only
  repeat' (first
    | with_reducible assumption
    | with_reducible apply keeps_ticSet
    | with_reducible refine keeps_ite ?_ ?_
    | with_reducible apply keeps_upd')

theorem keeps_ticPost {a : State} {n : Nat} {st : Nat} {mode : Nat} {w0 : Nat} {w1 : Nat} {edge : Nat} {s : State} (hs : Keeps a s) :
    Keeps a (ticPost n st mode w0 w1 edge s) := by
  unfold ticPost
  try dsimp only
  repeat' (first
    | with_reducible assumption
    | with_reducible apply keeps_raiseOnce
    | with_reducible apply keeps_bump
    | with_reducible apply keeps_fsetB
    | with_reducible apply keeps_ticSet
    | with_reducible refine keeps_ite ?_ ?_
    | with_reducible apply keeps_upd')

theorem keeps_ticMeasured {a : State} {n : Nat} {stop : Bool} {e : TicEdge} {s : State} (hs : Keeps a s) :
    Keeps a (ticMeasured n stop e s) := by
  unfold ticMeasured
  try dsimp only
  repeat' (first
    | with_reducible assumption
    | with_reducible apply keeps_ticSet
    | with_reducible apply keeps_ticEnd
    | with_reducible apply keeps_ticPost
    | with_reducible refine keeps_ite ?_ ?_
    | split
    | with_reducible apply keeps_upd')

theorem keeps_ticEdge {a : State} {n : Nat} {stop : Bool} {root : Nat} {half : Nat} {k : Nat} {k1 : Nat} {k2 : Nat} {s : State} (hs : Keeps a s) :
    Keeps a (ticEdge n stop root half k k1 k2 s) := by
  unfold ticEdge
  try dsimp only
  repeat' (first
    | with_reducible assumption
    | with_reducible apply keeps_ticSet
    | with_reducible apply keeps_bump
    | with_reducible apply keeps_fset
    | with_reducible apply keeps_ticEnd
    | with_reducible apply keeps_ticPost
    | with_reducible apply keeps_raiseOnce
    | with_reducible apply keeps_ticMeasured
    | with_reducible refine keeps_ite ?_ ?_
    | split
    | with_reducible apply keeps_upd')

theorem keeps_ticTimeout {a : State} {n : Nat} {s : State} (hs : Keeps a s) :
    Keeps a (ticTimeout n s) := by
  unfold ticTimeout
  try dsimp only
  repeat' (first
    | with_reducible assumption
    | with_reducible apply keeps_ticEnd
    | with_reducible apply keeps_ticPost
    | with_reducible apply keeps_raiseOnce
    | with_reducible apply keeps_bump
    | with_reducible refine keeps_ite ?_ ?_
    | split
    | with_reducible apply keeps_upd')

theorem keeps_ticPop {a : State} {i : Initiator} {n : Nat} {s : State} (hs : Keeps a s) :
    Keeps a (ticPop i n s).2 := by
  unfold ticPop
  try dsimp only
  repeat' (first
    | with_reducible assumption
    | with_reducible apply keeps_ticSet
    | with_reducible apply keeps_wrI
    | with_reducible refine keeps_ite ?_ ?_
    | with_reducible refine keeps_ite_snd ?_ ?_
    | split
    | with_reducible apply keeps_upd')

theorem keeps_ticTrigger {a : State} {k : Nat} {s : State} (hs : Keeps a s) :
    Keeps a (ticTrigger k s) := by
  unfold ticTrigger
  try dsimp only
  repeat' (first
    | with_reducible assumption
    | (with_reducible refine keeps_forEach (fun _ _ _ => ?_) ?_)
    | with_reducible apply keeps_ticArm
    | with_reducible refine keeps_ite ?_ ?_)

theorem keeps_ticApply {a : State} {a0 : Nat} {v : Word} {s : State} (hs : Keeps a s) :
    OKeeps a (ticApply a0 v s) := by
  unfold ticApply
  try dsimp only
  repeat' (first
    | with_reducible assumption
    | with_reducible apply keeps_ticAbort
    | with_reducible apply keeps_wr
    | with_reducible apply keeps_ticArm
    | with_reducible refine keeps_ite ?_ ?_
    | with_reducible refine okeeps_ite ?_ ?_
    | with_reducible apply okeeps_some
    | with_reducible exact okeeps_none
    | with_reducible refine okeeps_map ?_ (fun _ _ => ?_)
    | with_reducible apply okeeps_orElse
    | split
    | with_reducible apply keeps_upd')

theorem keeps_execTicEdge {ch : Nat} {stop : Bool} {root : Nat} {t : Nat} {k : Nat} {k1 : Nat} {k2 : Nat} {s : State}  :
    RKeeps s (execTicEdge ch stop root t k k1 k2 s) := by
  unfold execTicEdge
  first
    | with_reducible refine rkeeps_run ?_
    | with_reducible refine rkeeps_runIf ?_
    | with_reducible refine rkeeps_next ?_
    | (unfold keRun; with_reducible refine rkeeps_runIf ?_)
  try dsimp only
  repeat' (first
    | with_reducible assumption
    | with_reducible exact Keeps_refl _
    | with_reducible apply keeps_ticEdge)

theorem keeps_execTicTimeout {ch : Nat} {s : State}  :
    RKeeps s (execTicTimeout ch s) := by
  unfold execTicTimeout
  first
    | with_reducible refine rkeeps_run ?_
    | with_reducible refine rkeeps_runIf ?_
    | with_reducible refine rkeeps_next ?_
    | (unfold keRun; with_reducible refine rkeeps_runIf ?_)
  try dsimp only
  repeat' (first
    | with_reducible assumption
    | with_reducible exact Keeps_refl _
    | with_reducible apply keeps_ticTimeout)

end Sys2Proof.Laws
end

