-- ==== Sys2Proof/Laws/KeepsTrig.lean ====
section
/-!
SUPPORT. Laws/KeepsTrig.lean: the functions of Machine/Trig.lean keep what every command keeps (Keeps of Safety.lean).
-/
namespace Sys2Proof.Laws
open Sys2Proof Sys2Proof.Machine

set_option linter.unusedTactic false
set_option linter.unreachableTactic false
set_option linter.unusedVariables false

theorem keeps_trigSet {a : State} {n : Nat} {x : TrigCh} {s : State} (hs : Keeps a s) :
    Keeps a (trigSet n x s) := by
  unfold trigSet
  try dsimp only
  repeat' (first
    | with_reducible assumption
    | with_reducible apply keeps_fsetB
    | with_reducible refine keeps_ite ?_ ?_
    | split
    | with_reducible apply keeps_upd_trigs)

theorem keeps_trigArm {a : State} {n : Nat} {ctl : Word} {s : State} (hs : Keeps a s) :
    Keeps a (trigArm n ctl s) := by
  unfold trigArm
  try dsimp only
  repeat' (first
    | with_reducible assumption
    | with_reducible apply keeps_cairnState
    | with_reducible apply keeps_bump
    | with_reducible apply keeps_fset
    | with_reducible apply keeps_trigSet
    | split
    | with_reducible apply keeps_upd')

theorem keeps_trigDisarm {a : State} {n : Nat} {s : State} (hs : Keeps a s) :
    Keeps a (trigDisarm n s) := by
  unfold trigDisarm
  try dsimp only
  repeat' (first
    | with_reducible assumption
    | with_reducible apply keeps_trigSet
    | with_reducible apply keeps_fset
    | with_reducible refine keeps_ite ?_ ?_)

theorem keeps_trigSnap {a : State} {s : State} (hs : Keeps a s) :
    Keeps a (trigSnap s) := by
  unfold trigSnap
  try dsimp only
  repeat' (first
    | with_reducible assumption
    | with_reducible apply keeps_cntSnap
    | with_reducible refine keeps_ite ?_ ?_)

theorem keeps_trigFire {a : State} {n : Nat} {s : State} (hs : Keeps a s) :
    Keeps a (trigFire n s) := by
  unfold trigFire
  try dsimp only
  repeat' (first
    | with_reducible assumption
    | with_reducible apply keeps_trigSet
    | with_reducible apply keeps_fset
    | with_reducible apply keeps_fsetI
    | with_reducible apply keeps_emitOut
    | with_reducible apply keeps_snapTrigger
    | with_reducible apply keeps_ticTrigger
    | with_reducible apply keeps_bump
    | with_reducible apply keeps_trigSnap
    | with_reducible refine keeps_ite ?_ ?_
    | split
    | with_reducible apply keeps_upd')

theorem keeps_trigSetEdge {a : State} {s : State} (hs : Keeps a s) :
    Keeps a (trigSetEdge s) := by
  unfold trigSetEdge
  try dsimp only
  repeat' (first
    | with_reducible assumption
    | (with_reducible refine keeps_forEach (fun _ _ _ => ?_) ?_)
    | with_reducible apply keeps_cairnState
    | with_reducible apply keeps_bump
    | with_reducible apply keeps_fset
    | with_reducible apply keeps_trigSet
    | with_reducible refine keeps_ite ?_ ?_)

theorem keeps_trigApply {a : State} {a0 : Nat} {v : Word} {stored : State} (hstored : Keeps a stored) :
    OKeeps a (trigApply a0 v stored) := by
  unfold trigApply
  try dsimp only
  repeat' (first
    | with_reducible assumption
    | with_reducible apply keeps_trigDisarm
    | with_reducible apply keeps_trigArm
    | with_reducible refine keeps_ite ?_ ?_
    | with_reducible refine okeeps_ite ?_ ?_
    | with_reducible apply okeeps_some
    | with_reducible exact okeeps_none
    | with_reducible refine okeeps_map ?_ (fun _ _ => ?_)
    | with_reducible apply okeeps_orElse
    | split
    | with_reducible apply keeps_upd')

theorem keeps_execTrigFire {n : Nat} {_err : Unit} {s : State}  :
    RKeeps s (execTrigFire n _err s) := by
  unfold execTrigFire
  first
    | with_reducible refine rkeeps_run ?_
    | with_reducible refine rkeeps_runIf ?_
    | with_reducible refine rkeeps_next ?_
    | (unfold keRun; with_reducible refine rkeeps_runIf ?_)
  try dsimp only
  repeat' (first
    | with_reducible assumption
    | with_reducible exact Keeps_refl _
    | with_reducible apply keeps_trigFire)

end Sys2Proof.Laws
end

