-- ==== Sys2Proof/Laws/KeepsRegPath.lean ====
section
/-!
SUPPORT. Laws/KeepsRegPath.lean: the functions of Machine/RegPath.lean keep what every command keeps (Keeps of Safety.lean).
-/
namespace Sys2Proof.Laws
open Sys2Proof Sys2Proof.Machine

set_option linter.unusedTactic false
set_option linter.unreachableTactic false
set_option linter.unusedVariables false

theorem keeps_absentRecord {a : State} {cause : Nat} {i : Initiator} {write : Bool} {a0 : Nat} {s : State} (hs : Keeps a s) :
    Keeps a (absentRecord cause i write a0 s) := by
  unfold absentRecord
  try dsimp only
  repeat' (first
    | with_reducible assumption
    | with_reducible apply keeps_setLevel
    | with_reducible apply keeps_wr
    | with_reducible refine keeps_ite ?_ ?_)

theorem keeps_refsCmd {a : State} {v : Word} {s : State} (hs : Keeps a s) :
    Keeps a (refsCmd v s) := by
  unfold refsCmd
  try dsimp only
  repeat' (first
    | with_reducible assumption
    | with_reducible apply keeps_acceptAny
    | with_reducible apply keeps_lockout
    | with_reducible apply keeps_unlock
    | with_reducible refine keeps_ite ?_ ?_)

theorem keeps_bnuAbort {a : State} {n : Nat} {sel : BnuJob → Bool} {s : State} (hs : Keeps a s) :
    Keeps a (bnuAbort n sel s) := by
  unfold bnuAbort
  try dsimp only
  repeat' (first
    | with_reducible assumption
    | with_reducible apply keeps_jobsAbort
    | with_reducible apply keeps_keFeed
    | with_reducible apply keeps_keJobsLost)

theorem keeps_bnuRegs {a : State} {i : Initiator} {n : Nat} {o : Nat} {v : Word} {s : State} (hs : Keeps a s) :
    Keeps a (bnuRegs i n o v s) := by
  unfold bnuRegs
  try dsimp only
  repeat' (first
    | with_reducible assumption
    | with_reducible apply keeps_fset
    | with_reducible apply keeps_bnuAbort
    | with_reducible apply keeps_keFeed
    | with_reducible apply keeps_backlogShow
    | with_reducible apply keeps_selftestStart
    | with_reducible apply keeps_slotLength
    | with_reducible apply keeps_wrI
    | with_reducible apply keeps_bnuSubmit
    | with_reducible apply keeps_storePlain
    | with_reducible refine keeps_ite ?_ ?_)

theorem keeps_utcConfirm {a : State} {role : Nat} {a0 : Nat} {s : State} (hs : Keeps a s) :
    Keeps a (utcConfirm role a0 s) := by
  unfold utcConfirm
  try dsimp only
  repeat' (first
    | with_reducible assumption
    | with_reducible refine keeps_ite ?_ ?_
    | with_reducible apply keeps_upd')

theorem keeps_ownEffect {a : State} {i : Initiator} {a0 : Nat} {v : Word} {s : State} {plain : State} (hs : Keeps a s) (hplain : Keeps a plain) :
    OKeeps a (ownEffect i a0 v s plain) := by
  unfold ownEffect
  try dsimp only
  repeat' (first
    | with_reducible assumption
    | with_reducible apply keeps_setLevel
    | with_reducible apply keeps_bivRelease
    | with_reducible apply keeps_tsuApply
    | with_reducible apply keeps_utcConfirm
    | with_reducible apply keeps_refsCmd
    | with_reducible apply keeps_refsApply
    | with_reducible apply keeps_servoApply
    | with_reducible apply keeps_outApply
    | with_reducible apply keeps_trigApply
    | with_reducible apply keeps_ticApply
    | with_reducible apply keeps_gnssApply
    | with_reducible apply keeps_topoApply
    | with_reducible apply keeps_peApply
    | with_reducible apply keeps_journalCmd
    | with_reducible apply keeps_svcSync
    | with_reducible apply keeps_svcApply
    | with_reducible apply keeps_ptpApply
    | with_reducible apply keeps_keApply
    | with_reducible apply keeps_bnuRegs
    | with_reducible apply keeps_esRevive
    | with_reducible apply keeps_pairApply
    | with_reducible apply keeps_evcApply
    | with_reducible apply keeps_cntApply
    | with_reducible apply keeps_eccApply
    | with_reducible apply keeps_portApply
    | with_reducible refine keeps_ite ?_ ?_
    | with_reducible refine okeeps_ite ?_ ?_
    | with_reducible apply okeeps_some
    | with_reducible exact okeeps_none
    | with_reducible refine okeeps_map ?_ (fun _ _ => ?_)
    | with_reducible apply okeeps_orElse
    | split
    | with_reducible refine keeps_of_some ?_ ‹_ = some _›
    | with_reducible apply keeps_upd')

theorem keeps_regApply {a : State} {i : Initiator} {a0 : Nat} {v : Word} {s : State} (hs : Keeps a s) :
    Keeps a (regApply i a0 v s) := by
  unfold regApply
  try dsimp only
  repeat' (first
    | with_reducible assumption
    | with_reducible apply keeps_storePlain
    | with_reducible apply keeps_ownEffect
    | with_reducible apply keeps_getD)

theorem keeps_regWrite {a : State} {i : Initiator} {a0 : Nat} {v : Word} {s : State} (hs : Keeps a s) :
    Keeps a (regWrite i a0 v s) := by
  unfold regWrite
  try dsimp only
  repeat' (first
    | with_reducible assumption
    | with_reducible apply keeps_regApply
    | with_reducible apply keeps_trigArm
    | with_reducible apply keeps_writeIgnored
    | with_reducible apply keeps_tsuRefused
    | with_reducible refine keeps_ite ?_ ?_
    | split
    | with_reducible apply keeps_upd')

theorem keeps_clearRC {a : State} {a0 : Nat} {s : State} (hs : Keeps a s) :
    Keeps a (clearRC a0 s) := by
  unfold clearRC
  try dsimp only
  repeat' (first
    | with_reducible assumption
    | with_reducible apply keeps_wr
    | with_reducible refine keeps_foldl _ (fun _ _ _ => ?_) _ ?_
    | with_reducible refine keeps_foldl_pair _ (fun _ _ _ => ?_) _ ?_
    | with_reducible refine keeps_ite ?_ ?_
    | with_reducible refine keeps_ite_fun ?_ ?_
    | with_reducible apply keeps_id
    | split
    | with_reducible apply keeps_upd')

theorem keeps_regRead {a : State} {i : Initiator} {a0 : Nat} {s : State} (hs : Keeps a s) :
    Keeps a (regRead i a0 s).2 := by
  unfold regRead
  try dsimp only
  repeat' (first
    | with_reducible assumption
    | with_reducible apply keeps_tsuCapture
    | with_reducible apply keeps_ticPop
    | with_reducible apply keeps_bnuPop
    | with_reducible apply keeps_bnuRand
    | with_reducible apply keeps_evcClaim
    | with_reducible apply keeps_evcChange
    | with_reducible apply keeps_evcSettle
    | with_reducible apply keeps_clearRC
    | with_reducible refine keeps_ite ?_ ?_
    | with_reducible refine keeps_ite_snd ?_ ?_
    | split
    | with_reducible refine keeps_of_pair ?_ ‹_ = (_, _)›
    | intro _
    | with_reducible apply keeps_upd')

theorem keeps_winWrite {a : State} {i : Initiator} {role : Nat} {a0 : Nat} {v : Word} {s : State} (hs : Keeps a s) :
    Keeps a (winWrite i role a0 v s) := by
  unfold winWrite
  try dsimp only
  repeat' (first
    | with_reducible assumption
    | with_reducible apply keeps_writeIgnored
    | with_reducible apply keeps_topoWrite
    | with_reducible apply keeps_lpmTouch
    | with_reducible apply keeps_putMem
    | with_reducible apply keeps_bnuWinWrite
    | with_reducible refine keeps_ite ?_ ?_
    | split
    | with_reducible apply keeps_upd')

theorem keeps_winRead {a : State} {i : Initiator} {a0 : Nat} {s : State} (hs : Keeps a s) :
    Keeps a (winRead i a0 s).2 := by
  unfold winRead
  try dsimp only
  repeat' (first
    | with_reducible assumption
    | with_reducible apply keeps_touchMem
    | with_reducible refine keeps_ite ?_ ?_
    | with_reducible refine keeps_ite_snd ?_ ?_
    | split
    | with_reducible refine keeps_of_pair ?_ ‹_ = (_, _)›
    | with_reducible apply keeps_upd')

theorem keeps_busWrite {a : State} {i : Initiator} {a0 : Nat} {v : Word} {s : State} (hs : Keeps a s) :
    Keeps a (busWrite i a0 v s) := by
  unfold busWrite
  try dsimp only
  repeat' (first
    | with_reducible assumption
    | with_reducible apply keeps_absentRecord
    | with_reducible apply keeps_regWrite
    | with_reducible apply keeps_winWrite
    | with_reducible refine keeps_ite ?_ ?_)

theorem keeps_busRead {a : State} {i : Initiator} {a0 : Nat} {s : State} (hs : Keeps a s) :
    Keeps a (busRead i a0 s) := by
  unfold busRead
  try dsimp only
  repeat' (first
    | with_reducible assumption
    | with_reducible apply keeps_answer
    | with_reducible apply keeps_absentRecord
    | with_reducible apply keeps_regRead
    | with_reducible apply keeps_winRead
    | with_reducible refine keeps_ite ?_ ?_)

theorem keeps_busRecord {a : State} {cause : Nat} {i : Initiator} {write : Bool} {a0 : Nat} {s : State} (hs : Keeps a s) :
    Keeps a (busRecord cause i write a0 s) := by
  unfold busRecord
  try dsimp only
  repeat' (first
    | with_reducible assumption
    | with_reducible apply keeps_absentRecord
    | with_reducible apply keeps_answer
    | with_reducible refine keeps_ite ?_ ?_)

theorem keeps_execAbsentAccess {i : Initiator} {write : Bool} {addr : Nat} {s : State}  :
    RKeeps s (execAbsentAccess i write addr s) := by
  unfold execAbsentAccess
  first
    | with_reducible refine rkeeps_run ?_
    | with_reducible refine rkeeps_runIf ?_
    | with_reducible refine rkeeps_next ?_
    | (unfold keRun; with_reducible refine rkeeps_runIf ?_)
  try dsimp only
  repeat' (first
    | with_reducible assumption
    | with_reducible exact Keeps_refl _
    | with_reducible apply keeps_busRecord
    | with_reducible refine keeps_ite ?_ ?_
    | with_reducible refine keeps_ite_fun ?_ ?_
    | with_reducible apply keeps_id)

theorem keeps_execNarrowAccess {i : Initiator} {write : Bool} {addr : Nat} {s : State}  :
    RKeeps s (execNarrowAccess i write addr s) := by
  unfold execNarrowAccess
  first
    | with_reducible refine rkeeps_run ?_
    | with_reducible refine rkeeps_runIf ?_
    | with_reducible refine rkeeps_next ?_
    | (unfold keRun; with_reducible refine rkeeps_runIf ?_)
  try dsimp only
  repeat' (first
    | with_reducible assumption
    | with_reducible exact Keeps_refl _
    | with_reducible apply keeps_busRecord
    | with_reducible refine keeps_ite ?_ ?_
    | with_reducible refine keeps_ite_fun ?_ ?_
    | with_reducible apply keeps_id)

theorem keeps_execUnmappedAccess {i : Initiator} {write : Bool} {addr : Nat} {s : State}  :
    RKeeps s (execUnmappedAccess i write addr s) := by
  unfold execUnmappedAccess
  first
    | with_reducible refine rkeeps_run ?_
    | with_reducible refine rkeeps_runIf ?_
    | with_reducible refine rkeeps_next ?_
    | (unfold keRun; with_reducible refine rkeeps_runIf ?_)
  try dsimp only
  repeat' (first
    | with_reducible assumption
    | with_reducible exact Keeps_refl _
    | with_reducible apply keeps_busRecord
    | with_reducible refine keeps_ite ?_ ?_
    | with_reducible refine keeps_ite_fun ?_ ?_
    | with_reducible apply keeps_id)

theorem keeps_execReadOnlyWindowWrite {i : Initiator} {addr : Nat} {v : Word} {s : State}  :
    RKeeps s (execReadOnlyWindowWrite i addr v s) := by
  unfold execReadOnlyWindowWrite
  first
    | with_reducible refine rkeeps_run ?_
    | with_reducible refine rkeeps_runIf ?_
    | with_reducible refine rkeeps_next ?_
    | (unfold keRun; with_reducible refine rkeeps_runIf ?_)
  try dsimp only
  repeat' (first
    | with_reducible assumption
    | with_reducible exact Keeps_refl _
    | with_reducible apply keeps_busWrite
    | split
    | with_reducible apply keeps_upd')

theorem keeps_execTsuIncNomWrite {i : Initiator} {v : Word} {s : State}  :
    RKeeps s (execTsuIncNomWrite i v s) := by
  unfold execTsuIncNomWrite
  first
    | with_reducible refine rkeeps_run ?_
    | with_reducible refine rkeeps_runIf ?_
    | with_reducible refine rkeeps_next ?_
    | (unfold keRun; with_reducible refine rkeeps_runIf ?_)
  try dsimp only
  repeat' (first
    | with_reducible assumption
    | with_reducible exact Keeps_refl _
    | with_reducible apply keeps_busWrite)

theorem keeps_execTsuFreqAdjWrite {i : Initiator} {v : Word} {s : State}  :
    RKeeps s (execTsuFreqAdjWrite i v s) := by
  unfold execTsuFreqAdjWrite
  first
    | with_reducible refine rkeeps_run ?_
    | with_reducible refine rkeeps_runIf ?_
    | with_reducible refine rkeeps_next ?_
    | (unfold keRun; with_reducible refine rkeeps_runIf ?_)
  try dsimp only
  repeat' (first
    | with_reducible assumption
    | with_reducible exact Keeps_refl _
    | with_reducible apply keeps_busWrite)

theorem keeps_execTsuSlewReqWrite {i : Initiator} {v : Word} {s : State}  :
    RKeeps s (execTsuSlewReqWrite i v s) := by
  unfold execTsuSlewReqWrite
  first
    | with_reducible refine rkeeps_run ?_
    | with_reducible refine rkeeps_runIf ?_
    | with_reducible refine rkeeps_next ?_
    | (unfold keRun; with_reducible refine rkeeps_runIf ?_)
  try dsimp only
  repeat' (first
    | with_reducible assumption
    | with_reducible exact Keeps_refl _
    | with_reducible apply keeps_busWrite)

theorem keeps_execTsuSlewLimitWrite {i : Initiator} {v : Word} {s : State}  :
    RKeeps s (execTsuSlewLimitWrite i v s) := by
  unfold execTsuSlewLimitWrite
  first
    | with_reducible refine rkeeps_run ?_
    | with_reducible refine rkeeps_runIf ?_
    | with_reducible refine rkeeps_next ?_
    | (unfold keRun; with_reducible refine rkeeps_runIf ?_)
  try dsimp only
  repeat' (first
    | with_reducible assumption
    | with_reducible exact Keeps_refl _
    | with_reducible apply keeps_busWrite)

theorem keeps_execTsuSetArm {i : Initiator} {v : Word} {s : State}  :
    RKeeps s (execTsuSetArm i v s) := by
  unfold execTsuSetArm
  first
    | with_reducible refine rkeeps_run ?_
    | with_reducible refine rkeeps_runIf ?_
    | with_reducible refine rkeeps_next ?_
    | (unfold keRun; with_reducible refine rkeeps_runIf ?_)
  try dsimp only
  repeat' (first
    | with_reducible assumption
    | with_reducible exact Keeps_refl _
    | with_reducible apply keeps_busWrite)

theorem keeps_execTsuNowLoRead {i : Initiator} {s : State}  :
    RKeeps s (execTsuNowLoRead i s) := by
  unfold execTsuNowLoRead
  first
    | with_reducible refine rkeeps_run ?_
    | with_reducible refine rkeeps_runIf ?_
    | with_reducible refine rkeeps_next ?_
    | (unfold keRun; with_reducible refine rkeeps_runIf ?_)
  try dsimp only
  repeat' (first
    | with_reducible assumption
    | with_reducible exact Keeps_refl _
    | with_reducible apply keeps_busRead)

theorem keeps_execTsuLeapPendingWrite {i : Initiator} {v : Word} {s : State}  :
    RKeeps s (execTsuLeapPendingWrite i v s) := by
  unfold execTsuLeapPendingWrite
  first
    | with_reducible refine rkeeps_run ?_
    | with_reducible refine rkeeps_runIf ?_
    | with_reducible refine rkeeps_next ?_
    | (unfold keRun; with_reducible refine rkeeps_runIf ?_)
  try dsimp only
  repeat' (first
    | with_reducible assumption
    | with_reducible exact Keeps_refl _
    | with_reducible apply keeps_busWrite)

theorem keeps_execPortModeWrite {i : Initiator} {port : Nat} {v : Word} {s : State}  :
    RKeeps s (execPortModeWrite i port v s) := by
  unfold execPortModeWrite
  first
    | with_reducible refine rkeeps_run ?_
    | with_reducible refine rkeeps_runIf ?_
    | with_reducible refine rkeeps_next ?_
    | (unfold keRun; with_reducible refine rkeeps_runIf ?_)
  try dsimp only
  repeat' (first
    | with_reducible assumption
    | with_reducible exact Keeps_refl _
    | with_reducible apply keeps_busWrite)

theorem keeps_execDelayAdjWrite {i : Initiator} {port : Nat} {tx : Bool} {v : Word} {s : State}  :
    RKeeps s (execDelayAdjWrite i port tx v s) := by
  unfold execDelayAdjWrite
  first
    | with_reducible refine rkeeps_run ?_
    | with_reducible refine rkeeps_runIf ?_
    | with_reducible refine rkeeps_next ?_
    | (unfold keRun; with_reducible refine rkeeps_runIf ?_)
  try dsimp only
  repeat' (first
    | with_reducible assumption
    | with_reducible exact Keeps_refl _
    | with_reducible apply keeps_busWrite
    | with_reducible refine keeps_ite ?_ ?_)

theorem keeps_execPortCalRecal {i : Initiator} {port : Nat} {s : State}  :
    RKeeps s (execPortCalRecal i port s) := by
  unfold execPortCalRecal
  first
    | with_reducible refine rkeeps_run ?_
    | with_reducible refine rkeeps_runIf ?_
    | with_reducible refine rkeeps_next ?_
    | (unfold keRun; with_reducible refine rkeeps_runIf ?_)
  try dsimp only
  repeat' (first
    | with_reducible assumption
    | with_reducible exact Keeps_refl _
    | with_reducible apply keeps_busWrite)

theorem keeps_execPeCtxSnapGo {i : Initiator} {s : State}  :
    RKeeps s (execPeCtxSnapGo i s) := by
  unfold execPeCtxSnapGo
  first
    | with_reducible refine rkeeps_run ?_
    | with_reducible refine rkeeps_runIf ?_
    | with_reducible refine rkeeps_next ?_
    | (unfold keRun; with_reducible refine rkeeps_runIf ?_)
  try dsimp only
  repeat' (first
    | with_reducible assumption
    | with_reducible exact Keeps_refl _
    | with_reducible apply keeps_busWrite)

theorem keeps_execPeCtxSnapResume {i : Initiator} {s : State}  :
    RKeeps s (execPeCtxSnapResume i s) := by
  unfold execPeCtxSnapResume
  first
    | with_reducible refine rkeeps_run ?_
    | with_reducible refine rkeeps_runIf ?_
    | with_reducible refine rkeeps_next ?_
    | (unfold keRun; with_reducible refine rkeeps_runIf ?_)
  try dsimp only
  repeat' (first
    | with_reducible assumption
    | with_reducible exact Keeps_refl _
    | with_reducible apply keeps_busWrite)

theorem keeps_execTopoWindowWrite {i : Initiator} {off : Nat} {v : Word} {s : State}  :
    RKeeps s (execTopoWindowWrite i off v s) := by
  unfold execTopoWindowWrite
  first
    | with_reducible refine rkeeps_run ?_
    | with_reducible refine rkeeps_runIf ?_
    | with_reducible refine rkeeps_next ?_
    | (unfold keRun; with_reducible refine rkeeps_runIf ?_)
  try dsimp only
  repeat' (first
    | with_reducible assumption
    | with_reducible exact Keeps_refl _
    | with_reducible apply keeps_busWrite)

theorem keeps_execTopoSwapCtlGo {i : Initiator} {gen : Bool} {s : State}  :
    RKeeps s (execTopoSwapCtlGo i gen s) := by
  unfold execTopoSwapCtlGo
  first
    | with_reducible refine rkeeps_run ?_
    | with_reducible refine rkeeps_runIf ?_
    | with_reducible refine rkeeps_next ?_
    | (unfold keRun; with_reducible refine rkeeps_runIf ?_)
  try dsimp only
  repeat' (first
    | with_reducible assumption
    | with_reducible exact Keeps_refl _
    | with_reducible apply keeps_busWrite
    | with_reducible refine keeps_ite ?_ ?_)

theorem keeps_execTopoTblCfgWrite {i : Initiator} {table : Nat} {gen : Nat} {v : Word} {s : State}  :
    RKeeps s (execTopoTblCfgWrite i table gen v s) := by
  unfold execTopoTblCfgWrite
  first
    | with_reducible refine rkeeps_run ?_
    | with_reducible refine rkeeps_runIf ?_
    | with_reducible refine rkeeps_next ?_
    | (unfold keRun; with_reducible refine rkeeps_runIf ?_)
  try dsimp only
  repeat' (first
    | with_reducible assumption
    | with_reducible exact Keeps_refl _
    | with_reducible apply keeps_busWrite)

theorem keeps_execTopoTblGenWrite {i : Initiator} {v : Word} {s : State}  :
    RKeeps s (execTopoTblGenWrite i v s) := by
  unfold execTopoTblGenWrite
  first
    | with_reducible refine rkeeps_run ?_
    | with_reducible refine rkeeps_runIf ?_
    | with_reducible refine rkeeps_next ?_
    | (unfold keRun; with_reducible refine rkeeps_runIf ?_)
  try dsimp only
  repeat' (first
    | with_reducible assumption
    | with_reducible exact Keeps_refl _
    | with_reducible apply keeps_busWrite)

theorem keeps_execTableStoreWrite {i : Initiator} {off : Nat} {v : Word} {s : State}  :
    RKeeps s (execTableStoreWrite i off v s) := by
  unfold execTableStoreWrite
  first
    | with_reducible refine rkeeps_run ?_
    | with_reducible refine rkeeps_runIf ?_
    | with_reducible refine rkeeps_next ?_
    | (unfold keRun; with_reducible refine rkeeps_runIf ?_)
  try dsimp only
  repeat' (first
    | with_reducible assumption
    | with_reducible exact Keeps_refl _
    | with_reducible apply keeps_busWrite)

theorem keeps_execGateConfigWrite {i : Initiator} {k : Nat} {v : Word} {s : State}  :
    RKeeps s (execGateConfigWrite i k v s) := by
  unfold execGateConfigWrite
  first
    | with_reducible refine rkeeps_run ?_
    | with_reducible refine rkeeps_runIf ?_
    | with_reducible refine rkeeps_next ?_
    | (unfold keRun; with_reducible refine rkeeps_runIf ?_)
  try dsimp only
  repeat' (first
    | with_reducible assumption
    | with_reducible exact Keeps_refl _
    | with_reducible apply keeps_busWrite
    | with_reducible apply keeps_getD)

theorem keeps_execSvcKeyCtlRotate {i : Initiator} {s : State}  :
    RKeeps s (execSvcKeyCtlRotate i s) := by
  unfold execSvcKeyCtlRotate
  first
    | with_reducible refine rkeeps_run ?_
    | with_reducible refine rkeeps_runIf ?_
    | with_reducible refine rkeeps_next ?_
    | (unfold keRun; with_reducible refine rkeeps_runIf ?_)
  try dsimp only
  repeat' (first
    | with_reducible assumption
    | with_reducible exact Keeps_refl _
    | with_reducible apply keeps_busWrite)

theorem keeps_execSvcKeyCtlRevoke {i : Initiator} {kid : Nat} {s : State}  :
    RKeeps s (execSvcKeyCtlRevoke i kid s) := by
  unfold execSvcKeyCtlRevoke
  first
    | with_reducible refine rkeeps_run ?_
    | with_reducible refine rkeeps_runIf ?_
    | with_reducible refine rkeeps_next ?_
    | (unfold keRun; with_reducible refine rkeeps_runIf ?_)
  try dsimp only
  repeat' (first
    | with_reducible assumption
    | with_reducible exact Keeps_refl _
    | with_reducible apply keeps_busWrite)

theorem keeps_execBnuSlotWordsWrite {i : Initiator} {n : Nat} {v : Word} {s : State}  :
    RKeeps s (execBnuSlotWordsWrite i n v s) := by
  unfold execBnuSlotWordsWrite
  first
    | with_reducible refine rkeeps_run ?_
    | with_reducible refine rkeeps_runIf ?_
    | with_reducible refine rkeeps_next ?_
    | (unfold keRun; with_reducible refine rkeeps_runIf ?_)
  try dsimp only
  repeat' (first
    | with_reducible assumption
    | with_reducible exact Keeps_refl _
    | with_reducible apply keeps_busWrite)

theorem keeps_execBnuSubmitGo {i : Initiator} {n : Nat} {s : State}  :
    RKeeps s (execBnuSubmitGo i n s) := by
  unfold execBnuSubmitGo
  first
    | with_reducible refine rkeeps_run ?_
    | with_reducible refine rkeeps_runIf ?_
    | with_reducible refine rkeeps_next ?_
    | (unfold keRun; with_reducible refine rkeeps_runIf ?_)
  try dsimp only
  repeat' (first
    | with_reducible assumption
    | with_reducible exact Keeps_refl _
    | with_reducible apply keeps_busWrite)

theorem keeps_execBnuAbortGo {i : Initiator} {n : Nat} {tag : Nat} {s : State}  :
    RKeeps s (execBnuAbortGo i n tag s) := by
  unfold execBnuAbortGo
  first
    | with_reducible refine rkeeps_run ?_
    | with_reducible refine rkeeps_runIf ?_
    | with_reducible refine rkeeps_next ?_
    | (unfold keRun; with_reducible refine rkeeps_runIf ?_)
  try dsimp only
  repeat' (first
    | with_reducible assumption
    | with_reducible exact Keeps_refl _
    | with_reducible apply keeps_busWrite)

theorem keeps_execBnuCtlAbortAll {i : Initiator} {n : Nat} {s : State}  :
    RKeeps s (execBnuCtlAbortAll i n s) := by
  unfold execBnuCtlAbortAll
  first
    | with_reducible refine rkeeps_run ?_
    | with_reducible refine rkeeps_runIf ?_
    | with_reducible refine rkeeps_next ?_
    | (unfold keRun; with_reducible refine rkeeps_runIf ?_)
  try dsimp only
  repeat' (first
    | with_reducible assumption
    | with_reducible exact Keeps_refl _
    | with_reducible apply keeps_busWrite)

theorem keeps_execBnuCtlSelftest {i : Initiator} {n : Nat} {s : State}  :
    RKeeps s (execBnuCtlSelftest i n s) := by
  unfold execBnuCtlSelftest
  first
    | with_reducible refine rkeeps_run ?_
    | with_reducible refine rkeeps_runIf ?_
    | with_reducible refine rkeeps_next ?_
    | (unfold keRun; with_reducible refine rkeeps_runIf ?_)
  try dsimp only
  repeat' (first
    | with_reducible assumption
    | with_reducible exact Keeps_refl _
    | with_reducible apply keeps_busWrite)

theorem keeps_execBnuCtlOwnerWrite {i : Initiator} {n : Nat} {host : Bool} {s : State}  :
    RKeeps s (execBnuCtlOwnerWrite i n host s) := by
  unfold execBnuCtlOwnerWrite
  first
    | with_reducible refine rkeeps_run ?_
    | with_reducible refine rkeeps_runIf ?_
    | with_reducible refine rkeeps_next ?_
    | (unfold keRun; with_reducible refine rkeeps_runIf ?_)
  try dsimp only
  repeat' (first
    | with_reducible assumption
    | with_reducible exact Keeps_refl _
    | with_reducible apply keeps_busWrite
    | with_reducible refine keeps_ite ?_ ?_)

theorem keeps_execBnuCplRead {i : Initiator} {n : Nat} {s : State}  :
    RKeeps s (execBnuCplRead i n s) := by
  unfold execBnuCplRead
  first
    | with_reducible refine rkeeps_run ?_
    | with_reducible refine rkeeps_runIf ?_
    | with_reducible refine rkeeps_next ?_
    | (unfold keRun; with_reducible refine rkeeps_runIf ?_)
  try dsimp only
  repeat' (first
    | with_reducible assumption
    | with_reducible exact Keeps_refl _
    | with_reducible apply keeps_busRead)

theorem keeps_execBnuEsCtlRestart {i : Initiator} {s : State}  :
    RKeeps s (execBnuEsCtlRestart i s) := by
  unfold execBnuEsCtlRestart
  first
    | with_reducible refine rkeeps_run ?_
    | with_reducible refine rkeeps_runIf ?_
    | with_reducible refine rkeeps_next ?_
    | (unfold keRun; with_reducible refine rkeeps_runIf ?_)
  try dsimp only
  repeat' (first
    | with_reducible assumption
    | with_reducible exact Keeps_refl _
    | with_reducible apply keeps_busWrite)

theorem keeps_execBnuRandRead {i : Initiator} {s : State}  :
    RKeeps s (execBnuRandRead i s) := by
  unfold execBnuRandRead
  first
    | with_reducible refine rkeeps_run ?_
    | with_reducible refine rkeeps_runIf ?_
    | with_reducible refine rkeeps_next ?_
    | (unfold keRun; with_reducible refine rkeeps_runIf ?_)
  try dsimp only
  repeat' (first
    | with_reducible assumption
    | with_reducible exact Keeps_refl _
    | with_reducible apply keeps_busRead)

theorem keeps_execTicCtlArm {i : Initiator} {ch : Nat} {v : Word} {s : State}  :
    RKeeps s (execTicCtlArm i ch v s) := by
  unfold execTicCtlArm
  first
    | with_reducible refine rkeeps_run ?_
    | with_reducible refine rkeeps_runIf ?_
    | with_reducible refine rkeeps_next ?_
    | (unfold keRun; with_reducible refine rkeeps_runIf ?_)
  try dsimp only
  repeat' (first
    | with_reducible assumption
    | with_reducible exact Keeps_refl _
    | with_reducible apply keeps_busWrite)

theorem keeps_execTicConfigWrite {i : Initiator} {ch : Nat} {src : Bool} {v : Word} {s : State}  :
    RKeeps s (execTicConfigWrite i ch src v s) := by
  unfold execTicConfigWrite
  first
    | with_reducible refine rkeeps_run ?_
    | with_reducible refine rkeeps_runIf ?_
    | with_reducible refine rkeeps_next ?_
    | (unfold keRun; with_reducible refine rkeeps_runIf ?_)
  try dsimp only
  repeat' (first
    | with_reducible assumption
    | with_reducible exact Keeps_refl _
    | with_reducible apply keeps_busWrite
    | with_reducible refine keeps_ite ?_ ?_)

theorem keeps_execTicRes0Read {i : Initiator} {ch : Nat} {s : State}  :
    RKeeps s (execTicRes0Read i ch s) := by
  unfold execTicRes0Read
  first
    | with_reducible refine rkeeps_run ?_
    | with_reducible refine rkeeps_runIf ?_
    | with_reducible refine rkeeps_next ?_
    | (unfold keRun; with_reducible refine rkeeps_runIf ?_)
  try dsimp only
  repeat' (first
    | with_reducible assumption
    | with_reducible exact Keeps_refl _
    | with_reducible apply keeps_busRead)

theorem keeps_execGnssSurveyRestart {i : Initiator} {s : State}  :
    RKeeps s (execGnssSurveyRestart i s) := by
  unfold execGnssSurveyRestart
  first
    | with_reducible refine rkeeps_run ?_
    | with_reducible refine rkeeps_runIf ?_
    | with_reducible refine rkeeps_next ?_
    | (unfold keRun; with_reducible refine rkeeps_runIf ?_)
  try dsimp only
  repeat' (first
    | with_reducible assumption
    | with_reducible exact Keeps_refl _
    | with_reducible apply keeps_busWrite)

theorem keeps_execGnssCtlAccept {i : Initiator} {s : State}  :
    RKeeps s (execGnssCtlAccept i s) := by
  unfold execGnssCtlAccept
  first
    | with_reducible refine rkeeps_run ?_
    | with_reducible refine rkeeps_runIf ?_
    | with_reducible refine rkeeps_next ?_
    | (unfold keRun; with_reducible refine rkeeps_runIf ?_)
  try dsimp only
  repeat' (first
    | with_reducible assumption
    | with_reducible exact Keeps_refl _
    | with_reducible apply keeps_busWrite)

theorem keeps_execGnssSnapCtlArm {i : Initiator} {v : Word} {s : State}  :
    RKeeps s (execGnssSnapCtlArm i v s) := by
  unfold execGnssSnapCtlArm
  first
    | with_reducible refine rkeeps_run ?_
    | with_reducible refine rkeeps_runIf ?_
    | with_reducible refine rkeeps_next ?_
    | (unfold keRun; with_reducible refine rkeeps_runIf ?_)
  try dsimp only
  repeat' (first
    | with_reducible assumption
    | with_reducible exact Keeps_refl _
    | with_reducible apply keeps_busWrite)

theorem keeps_execGnssSnapCtlRelease {i : Initiator} {s : State}  :
    RKeeps s (execGnssSnapCtlRelease i s) := by
  unfold execGnssSnapCtlRelease
  first
    | with_reducible refine rkeeps_run ?_
    | with_reducible refine rkeeps_runIf ?_
    | with_reducible refine rkeeps_next ?_
    | (unfold keRun; with_reducible refine rkeeps_runIf ?_)
  try dsimp only
  repeat' (first
    | with_reducible assumption
    | with_reducible exact Keeps_refl _
    | with_reducible apply keeps_busWrite)

theorem keeps_execRefsCtlWrite {i : Initiator} {v : Word} {s : State}  :
    RKeeps s (execRefsCtlWrite i v s) := by
  unfold execRefsCtlWrite
  first
    | with_reducible refine rkeeps_run ?_
    | with_reducible refine rkeeps_runIf ?_
    | with_reducible refine rkeeps_next ?_
    | (unfold keRun; with_reducible refine rkeeps_runIf ?_)
  try dsimp only
  repeat' (first
    | with_reducible assumption
    | with_reducible exact Keeps_refl _
    | with_reducible apply keeps_busWrite)

theorem keeps_execRefSlotEnableWrite {i : Initiator} {n : Nat} {v : Word} {s : State}  :
    RKeeps s (execRefSlotEnableWrite i n v s) := by
  unfold execRefSlotEnableWrite
  first
    | with_reducible refine rkeeps_run ?_
    | with_reducible refine rkeeps_runIf ?_
    | with_reducible refine rkeeps_next ?_
    | (unfold keRun; with_reducible refine rkeeps_runIf ?_)
  try dsimp only
  repeat' (first
    | with_reducible assumption
    | with_reducible exact Keeps_refl _
    | with_reducible apply keeps_busWrite)

theorem keeps_execRefsCmdAcceptJump {i : Initiator} {n : Nat} {s : State}  :
    RKeeps s (execRefsCmdAcceptJump i n s) := by
  unfold execRefsCmdAcceptJump
  first
    | with_reducible refine rkeeps_run ?_
    | with_reducible refine rkeeps_runIf ?_
    | with_reducible refine rkeeps_next ?_
    | (unfold keRun; with_reducible refine rkeeps_runIf ?_)
  try dsimp only
  repeat' (first
    | with_reducible assumption
    | with_reducible exact Keeps_refl _
    | with_reducible apply keeps_busWrite)

theorem keeps_execRefsCmdLockout {i : Initiator} {n : Nat} {s : State}  :
    RKeeps s (execRefsCmdLockout i n s) := by
  unfold execRefsCmdLockout
  first
    | with_reducible refine rkeeps_run ?_
    | with_reducible refine rkeeps_runIf ?_
    | with_reducible refine rkeeps_next ?_
    | (unfold keRun; with_reducible refine rkeeps_runIf ?_)
  try dsimp only
  repeat' (first
    | with_reducible assumption
    | with_reducible exact Keeps_refl _
    | with_reducible apply keeps_busWrite)

theorem keeps_execRefsCmdUnlock {i : Initiator} {n : Nat} {s : State}  :
    RKeeps s (execRefsCmdUnlock i n s) := by
  unfold execRefsCmdUnlock
  first
    | with_reducible refine rkeeps_run ?_
    | with_reducible refine rkeeps_runIf ?_
    | with_reducible refine rkeeps_next ?_
    | (unfold keRun; with_reducible refine rkeeps_runIf ?_)
  try dsimp only
  repeat' (first
    | with_reducible assumption
    | with_reducible exact Keeps_refl _
    | with_reducible apply keeps_busWrite)

theorem keeps_execOutCtlEnableWrite {i : Initiator} {n : Nat} {v : Word} {s : State}  :
    RKeeps s (execOutCtlEnableWrite i n v s) := by
  unfold execOutCtlEnableWrite
  first
    | with_reducible refine rkeeps_run ?_
    | with_reducible refine rkeeps_runIf ?_
    | with_reducible refine rkeeps_next ?_
    | (unfold keRun; with_reducible refine rkeeps_runIf ?_)
  try dsimp only
  repeat' (first
    | with_reducible assumption
    | with_reducible exact Keeps_refl _
    | with_reducible apply keeps_busWrite)

theorem keeps_execTrigCtlArm {i : Initiator} {n : Nat} {v : Word} {s : State}  :
    RKeeps s (execTrigCtlArm i n v s) := by
  unfold execTrigCtlArm
  first
    | with_reducible refine rkeeps_run ?_
    | with_reducible refine rkeeps_runIf ?_
    | with_reducible refine rkeeps_next ?_
    | (unfold keRun; with_reducible refine rkeeps_runIf ?_)
  try dsimp only
  repeat' (first
    | with_reducible assumption
    | with_reducible exact Keeps_refl _
    | with_reducible apply keeps_busWrite)

theorem keeps_execTrigCtlDisarm {i : Initiator} {n : Nat} {s : State}  :
    RKeeps s (execTrigCtlDisarm i n s) := by
  unfold execTrigCtlDisarm
  first
    | with_reducible refine rkeeps_run ?_
    | with_reducible refine rkeeps_runIf ?_
    | with_reducible refine rkeeps_next ?_
    | (unfold keRun; with_reducible refine rkeeps_runIf ?_)
  try dsimp only
  repeat' (first
    | with_reducible assumption
    | with_reducible exact Keeps_refl _
    | with_reducible apply keeps_busWrite)

theorem keeps_execPairCmdJoin {i : Initiator} {s : State}  :
    RKeeps s (execPairCmdJoin i s) := by
  unfold execPairCmdJoin
  first
    | with_reducible refine rkeeps_run ?_
    | with_reducible refine rkeeps_runIf ?_
    | with_reducible refine rkeeps_next ?_
    | (unfold keRun; with_reducible refine rkeeps_runIf ?_)
  try dsimp only
  repeat' (first
    | with_reducible assumption
    | with_reducible exact Keeps_refl _
    | with_reducible apply keeps_busWrite)

theorem keeps_execPairCmdYield {i : Initiator} {s : State}  :
    RKeeps s (execPairCmdYield i s) := by
  unfold execPairCmdYield
  first
    | with_reducible refine rkeeps_run ?_
    | with_reducible refine rkeeps_runIf ?_
    | with_reducible refine rkeeps_next ?_
    | (unfold keRun; with_reducible refine rkeeps_runIf ?_)
  try dsimp only
  repeat' (first
    | with_reducible assumption
    | with_reducible exact Keeps_refl _
    | with_reducible apply keeps_busWrite)

theorem keeps_execPairCmdPart {i : Initiator} {s : State}  :
    RKeeps s (execPairCmdPart i s) := by
  unfold execPairCmdPart
  first
    | with_reducible refine rkeeps_run ?_
    | with_reducible refine rkeeps_runIf ?_
    | with_reducible refine rkeeps_next ?_
    | (unfold keRun; with_reducible refine rkeeps_runIf ?_)
  try dsimp only
  repeat' (first
    | with_reducible assumption
    | with_reducible exact Keeps_refl _
    | with_reducible apply keeps_busWrite)

theorem keeps_execSysBivouacCtlRelease {i : Initiator} {first : Nat} {s : State}  :
    RKeeps s (execSysBivouacCtlRelease i first s) := by
  unfold execSysBivouacCtlRelease
  first
    | with_reducible refine rkeeps_run ?_
    | with_reducible refine rkeeps_runIf ?_
    | with_reducible refine rkeeps_next ?_
    | (unfold keRun; with_reducible refine rkeeps_runIf ?_)
  try dsimp only
  repeat' (first
    | with_reducible assumption
    | with_reducible exact Keeps_refl _
    | with_reducible apply keeps_busWrite)

theorem keeps_execEccInjectArm {i : Initiator} {v : Word} {s : State}  :
    RKeeps s (execEccInjectArm i v s) := by
  unfold execEccInjectArm
  first
    | with_reducible refine rkeeps_run ?_
    | with_reducible refine rkeeps_runIf ?_
    | with_reducible refine rkeeps_next ?_
    | (unfold keRun; with_reducible refine rkeeps_runIf ?_)
  try dsimp only
  repeat' (first
    | with_reducible assumption
    | with_reducible exact Keeps_refl _
    | with_reducible apply keeps_busWrite)

theorem keeps_execEccLogClrGo {i : Initiator} {domain : Nat} {s : State}  :
    RKeeps s (execEccLogClrGo i domain s) := by
  unfold execEccLogClrGo
  first
    | with_reducible refine rkeeps_run ?_
    | with_reducible refine rkeeps_runIf ?_
    | with_reducible refine rkeeps_next ?_
    | (unfold keRun; with_reducible refine rkeeps_runIf ?_)
  try dsimp only
  repeat' (first
    | with_reducible assumption
    | with_reducible exact Keeps_refl _
    | with_reducible apply keeps_busWrite)

theorem keeps_execEvcEnWrite {i : Initiator} {k : Nat} {v : Word} {s : State}  :
    RKeeps s (execEvcEnWrite i k v s) := by
  unfold execEvcEnWrite
  first
    | with_reducible refine rkeeps_run ?_
    | with_reducible refine rkeeps_runIf ?_
    | with_reducible refine rkeeps_next ?_
    | (unfold keRun; with_reducible refine rkeeps_runIf ?_)
  try dsimp only
  repeat' (first
    | with_reducible assumption
    | with_reducible exact Keeps_refl _
    | with_reducible apply keeps_busWrite)

theorem keeps_execEvcSyncRead {i : Initiator} {s : State}  :
    RKeeps s (execEvcSyncRead i s) := by
  unfold execEvcSyncRead
  first
    | with_reducible refine rkeeps_run ?_
    | with_reducible refine rkeeps_runIf ?_
    | with_reducible refine rkeeps_next ?_
    | (unfold keRun; with_reducible refine rkeeps_runIf ?_)
  try dsimp only
  repeat' (first
    | with_reducible assumption
    | with_reducible exact Keeps_refl _
    | with_reducible apply keeps_busRead)

theorem keeps_execEvcClaimRead {i : Initiator} {line : Nat} {s : State}  :
    RKeeps s (execEvcClaimRead i line s) := by
  unfold execEvcClaimRead
  first
    | with_reducible refine rkeeps_run ?_
    | with_reducible refine rkeeps_runIf ?_
    | with_reducible refine rkeeps_next ?_
    | (unfold keRun; with_reducible refine rkeeps_runIf ?_)
  try dsimp only
  repeat' (first
    | with_reducible assumption
    | with_reducible exact Keeps_refl _
    | with_reducible apply keeps_busRead)

theorem keeps_execEvcCompleteWrite {i : Initiator} {line : Nat} {id : Nat} {s : State}  :
    RKeeps s (execEvcCompleteWrite i line id s) := by
  unfold execEvcCompleteWrite
  first
    | with_reducible refine rkeeps_run ?_
    | with_reducible refine rkeeps_runIf ?_
    | with_reducible refine rkeeps_next ?_
    | (unfold keRun; with_reducible refine rkeeps_runIf ?_)
  try dsimp only
  repeat' (first
    | with_reducible assumption
    | with_reducible exact Keeps_refl _
    | with_reducible apply keeps_busWrite)

theorem keeps_execEvcSetGo {i : Initiator} {id : Nat} {s : State}  :
    RKeeps s (execEvcSetGo i id s) := by
  unfold execEvcSetGo
  first
    | with_reducible refine rkeeps_run ?_
    | with_reducible refine rkeeps_runIf ?_
    | with_reducible refine rkeeps_next ?_
    | (unfold keRun; with_reducible refine rkeeps_runIf ?_)
  try dsimp only
  repeat' (first
    | with_reducible assumption
    | with_reducible exact Keeps_refl _
    | with_reducible apply keeps_busWrite)

theorem keeps_execEvcSrcCfgWrite {i : Initiator} {id : Nat} {v : Word} {s : State}  :
    RKeeps s (execEvcSrcCfgWrite i id v s) := by
  unfold execEvcSrcCfgWrite
  first
    | with_reducible refine rkeeps_run ?_
    | with_reducible refine rkeeps_runIf ?_
    | with_reducible refine rkeeps_next ?_
    | (unfold keRun; with_reducible refine rkeeps_runIf ?_)
  try dsimp only
  repeat' (first
    | with_reducible assumption
    | with_reducible exact Keeps_refl _
    | with_reducible apply keeps_busWrite)

theorem keeps_execCntCtlSnap {i : Initiator} {s : State}  :
    RKeeps s (execCntCtlSnap i s) := by
  unfold execCntCtlSnap
  first
    | with_reducible refine rkeeps_run ?_
    | with_reducible refine rkeeps_runIf ?_
    | with_reducible refine rkeeps_next ?_
    | (unfold keRun; with_reducible refine rkeeps_runIf ?_)
  try dsimp only
  repeat' (first
    | with_reducible assumption
    | with_reducible exact Keeps_refl _
    | with_reducible apply keeps_busWrite)

end Sys2Proof.Laws
end

