-- ==== Sys2Proof/Laws/Ops.lean ====
section
/-!
SUPPORT. Laws/Ops.lean: the shared operations: a register, a field, an initiator's copy or a byte that is read after it was
written, and what the reporting operations leave alone (OnlyReports of Safety.lean).
-/
namespace Sys2Proof.Laws
open Sys2Proof Sys2Proof.Machine

variable {s t : State} {a b : Nat} {v : Word}

-- Registers ------------------------------------------------------------------------------------------------------

theorem rd_wr_same (c : s.Canonical) : rd (wr a v s) a = v := mapGet_mapSet_same _ _ _ c.regs

theorem rd_wr_other (c : s.Canonical) (h : b ≠ a) : rd (wr a v s) b = rd s b := mapGet_mapSet_other _ _ h c.regs

theorem rd_fset_other {f : Fld} {n : Nat} (c : s.Canonical) (h : b ≠ a) : rd (fset a f n s) b = rd s b := rd_wr_other c h

theorem rd_fsetB_other {f : Fld} {n : Bool} (c : s.Canonical) (h : b ≠ a) : rd (fsetB a f n s) b = rd s b := rd_wr_other c h

theorem rd_fsetI_other {f : Fld} {n : Int} (c : s.Canonical) (h : b ≠ a) : rd (fsetI a f n s) b = rd s b := rd_wr_other c h

theorem rdI_wrI_same {i : Initiator} (c : s.Canonical) : rdI (wrI i a v s) i a = v := mapGet_mapSet_same _ _ _ c.initRegs

theorem rdI_wrI_other {i j : Initiator} (c : s.Canonical) (h : initKey j b ≠ initKey i a) :
    rdI (wrI i a v s) j b = rdI s j b := mapGet_mapSet_other _ _ h c.initRegs

theorem busOut_answer {i : Initiator} (c : s.Canonical) : mapGet (fun _ => 0) (answer i v s).busOut (initIx i) = v :=
  mapGet_mapSet_same _ _ _ c.busOut

-- Fields ---------------------------------------------------------------------------------------------------------

theorem getF_setF_same {f : Fld} {n : Nat} {w : Word} (h : f.lo + f.width ≤ 64) : getF f (setF f n w) = n % 2 ^ f.width := by
  have e : (setF f n w).extractLsb' f.lo f.width = BitVec.ofNat f.width n := by
    apply BitVec.eq_of_getLsbD_eq
    intro i hi
    simp only [setF, maskF, BitVec.getLsbD_extractLsb', BitVec.getLsbD_or, BitVec.getLsbD_and, BitVec.getLsbD_not,
      BitVec.getLsbD_shiftLeft, BitVec.getLsbD_setWidth, BitVec.getLsbD_allOnes, BitVec.getLsbD_ofNat]
    have h1 : f.lo + i < 64 := by omega
    have h3 : f.lo + i - f.lo = i := by omega
    have h4 : i < 64 := by omega
    simp [h1, h3, hi, h4]
  rw [getF, e, BitVec.toNat_ofNat]

theorem getF_setF_other {f g : Fld} {n : Nat} {w : Word} (h : g.lo + g.width ≤ f.lo ∨ f.lo + f.width ≤ g.lo) :
    getF g (setF f n w) = getF g w := by
  have e : (setF f n w).extractLsb' g.lo g.width = w.extractLsb' g.lo g.width := by
    apply BitVec.eq_of_getLsbD_eq
    intro i hi
    simp only [setF, maskF, BitVec.getLsbD_extractLsb', BitVec.getLsbD_or, BitVec.getLsbD_and, BitVec.getLsbD_not,
      BitVec.getLsbD_shiftLeft, BitVec.getLsbD_setWidth, BitVec.getLsbD_allOnes, BitVec.getLsbD_ofNat]
    by_cases h1 : g.lo + i < 64
    · by_cases h2 : g.lo + i < f.lo
      · simp [h1, h2]
      · have h3 : ¬ g.lo + i - f.lo < f.width := by omega
        simp [h1, h2, h3]
    · have h2 : w.getLsbD (g.lo + i) = false := BitVec.getLsbD_of_ge _ _ (by omega)
      simp [h1, h2]
  rw [getF, getF, e]

theorem fget_fset_same {f : Fld} {n : Nat} (c : s.Canonical) (h : f.lo + f.width ≤ 64) :
    fget (fset a f n s) a f = n % 2 ^ f.width := by rw [fget, fset, rd_wr_same c, getF_setF_same h]

theorem fget_fset_other {f g : Fld} {n : Nat} (c : s.Canonical) (h : g.lo + g.width ≤ f.lo ∨ f.lo + f.width ≤ g.lo) :
    fget (fset a f n s) a g = fget s a g := by rw [fget, fset, rd_wr_same c, getF_setF_other h, fget]

theorem fget_eq {f : Fld} (h : rd t a = rd s a) : fget t a f = fget s a f := by rw [fget, fget, h]

-- Memory ---------------------------------------------------------------------------------------------------------

theorem ldB_stBytes_other {bs : List Byte} (c : s.Canonical) (h : b < a ∨ a + bs.length ≤ b) :
    ldB (stBytes a bs s) b = ldB s b := mapGet_mapPut_other _ _ _ _ c.mem h

-- Reports --------------------------------------------------------------------------------------------------------

theorem onlyReports_refl (s : State) : OnlyReports s s := ⟨id, fun _ _ _ => rfl, fun _ _ _ => rfl, rfl⟩

theorem OnlyReports_trans {u : State} (h : OnlyReports s t) (k : OnlyReports t u) : OnlyReports s u where
  canonical := fun c => k.canonical (h.canonical c)
  regs := fun c x e => (k.regs (h.canonical c) x e).trans (h.regs c x e)
  mem := fun c x e => (k.mem (h.canonical c) x e).trans (h.mem c x e)
  rest := k.rest.trans h.rest

/-- A change of the event controller's own fields is a report. -/
theorem onlyReports_evc {evc} (h : OnlyReports s t) : OnlyReports s { t with evc := evc } :=
  OnlyReports_trans h ⟨fun c => ⟨c.mem, c.regs, c.initRegs, c.busOut, c.flash, c.gate, c.ports, c.refs, c.refUp, c.tic, c.outs,
    c.trigs, c.nts, c.tod, c.ctx, c.q, c.live, c.keys, c.sketch, c.grants, c.conns, c.units, c.bad, c.log⟩, fun _ _ _ => rfl, fun _ _ _ => rfl, rfl⟩

/-- A change of the counters' own fields but the counts is a report. -/
theorem onlyReports_cnt {ext shLive shExt shOvf snapAt snapSeq dumps sramAt burstSec burst suppressed agg} (h : OnlyReports s t) :
    OnlyReports s { t with cnt :=
      ⟨t.cnt.live, ext, shLive, shExt, shOvf, snapAt, snapSeq, dumps, sramAt, burstSec, burst, suppressed, agg⟩ } :=
  OnlyReports_trans h ⟨fun c => ⟨c.mem, c.regs, c.initRegs, c.busOut, c.flash, c.gate, c.ports, c.refs, c.refUp, c.tic, c.outs,
    c.trigs, c.nts, c.tod, c.ctx, c.q, c.live, c.keys, c.sketch, c.grants, c.conns, c.units, c.bad, c.log⟩, fun _ _ _ => rfl, fun _ _ _ => rfl, rfl⟩

/-- Counting is a report. -/
theorem onlyReports_live {k n : Nat} (h : OnlyReports s t) :
    OnlyReports s { t with cnt := { t.cnt with live := mapSet (fun _ => 0) k n t.cnt.live } } :=
  OnlyReports_trans h ⟨fun c => ⟨c.mem, c.regs, c.initRegs, c.busOut, c.flash, c.gate, c.ports, c.refs, c.refUp, c.tic, c.outs,
    c.trigs, c.nts, c.tod, c.ctx, c.q, mapWf_mapSet _ _ _ c.live, c.keys, c.sketch, c.grants, c.conns, c.units, c.bad, c.log⟩,
    fun _ _ _ => rfl, fun _ _ _ => rfl, rfl⟩

theorem onlyReports_wr (r : reports a = true) (h : OnlyReports s t) : OnlyReports s (wr a v t) :=
  OnlyReports_trans h ⟨(keeps_wr (Keeps_refl t)).canonical,
    fun c x e => rd_wr_other c (fun k => by rw [k, r] at e; cases e), fun _ _ _ => rfl, rfl⟩

theorem onlyReports_fset {f : Fld} {n : Nat} (r : reports a = true) (h : OnlyReports s t) : OnlyReports s (fset a f n t) :=
  onlyReports_wr r h

theorem reports_bank {base i : Nat} (h : 0x700000 ≤ base) (k : base < 0x8E0000) (l : i < 65536) :
    reports (base + 8 * (i / 64)) = true := by
  simp only [reports, Bool.and_eq_true, decide_eq_true_eq]; omega

theorem onlyReports_setBank {base i : Nat} {x : Bool} (k : 0x700000 ≤ base) (m : base < 0x8E0000) (l : i < 65536)
    (h : OnlyReports s t) : OnlyReports s (setBank (fun n => base + 8 * n) i x t) :=
  onlyReports_wr (reports_bank k m l) h

theorem onlyReports_bumpCore {i n : Nat} (l : i < 65536) (h : OnlyReports s t) : OnlyReports s (bumpCore i n t).1 := by
  unfold bumpCore
  dsimp only
  split
  · exact onlyReports_live h
  · split
    · exact onlyReports_setBank (base := 0x800300) (by decide) (by decide) l (onlyReports_live h)
    · split
      · exact onlyReports_cnt (onlyReports_live h)
      · exact onlyReports_setBank (base := 0x800300) (by decide) (by decide) l (onlyReports_cnt (onlyReports_live h))

theorem srcCounter_lt (id : Nat) (l : id < 256) : srcCounter id < 65536 := by
  have := List.countP_le_length (p := fun k => !srcReserved k) (l := List.range id)
  simp only [srcCounter, srcRank]; rw [List.length_range] at this; omega

theorem onlyReports_occurCore {id : Nat} (l : id < 256) (h : OnlyReports s t) : OnlyReports s (occurCore id t).1 := by
  unfold occurCore setBank EVC_RAW
  dsimp only
  split
  · exact h
  · split
    · split
      · exact onlyReports_evc h
      · exact h
    · exact onlyReports_bumpCore (srcCounter_lt id l)
        (onlyReports_evc (onlyReports_wr (reports_bank (by decide) (by decide) (by omega)) h))

theorem onlyReports_ovfRise (h : OnlyReports s t) : OnlyReports s (ovfRise t) := by
  unfold ovfRise
  split
  · exact h
  · exact onlyReports_occurCore (by decide) (onlyReports_evc (onlyReports_wr (by decide) h))

theorem onlyReports_bump {i n : Nat} (l : i < 65536) (h : OnlyReports s t) : OnlyReports s (bump i n t) := by
  unfold bump
  dsimp only
  split
  · exact onlyReports_ovfRise (onlyReports_bumpCore l h)
  · exact onlyReports_bumpCore l h

theorem onlyReports_occur {id : Nat} (l : id < 256) (h : OnlyReports s t) : OnlyReports s (occur id t) := by
  unfold occur
  dsimp only
  split
  · exact onlyReports_ovfRise (onlyReports_occurCore l h)
  · exact onlyReports_occurCore l h

theorem onlyReports_setLevel {id : Nat} {x : Bool} (l : id < 256) (h : OnlyReports s t) : OnlyReports s (setLevel id x t) := by
  have k : id < 65536 := by omega
  unfold setLevel
  dsimp only
  split
  · exact h
  · split
    · exact h
    · split
      · split
        · exact h
        · exact onlyReports_occur l (onlyReports_evc (onlyReports_setBank (base := 0x7000C0) (by decide) (by decide) k h))
      · split
        · exact onlyReports_setBank (base := 0x700060) (by decide) (by decide) k
            (onlyReports_evc (onlyReports_setBank (base := 0x7000C0) (by decide) (by decide) k h))
        · exact onlyReports_evc (onlyReports_setBank (base := 0x7000C0) (by decide) (by decide) k h)

theorem onlyReports_raiseOnce {id : Nat} (l : id < 256) (h : OnlyReports s t) : OnlyReports s (raiseOnce id t) := by
  unfold raiseOnce
  split
  · exact h
  · exact onlyReports_occur l (onlyReports_evc h)

theorem onlyReports_belaySend {ty : Nat} {body : List Byte} (h : OnlyReports s t) : OnlyReports s (belaySend ty body t) := by
  unfold belaySend
  split
  · exact OnlyReports_trans h ⟨fun c => ⟨c.mem, c.regs, c.initRegs, c.busOut, c.flash, c.gate, c.ports, c.refs, c.refUp, c.tic, c.outs,
      c.trigs, c.nts, c.tod, c.ctx, c.q, c.live, c.keys, c.sketch, c.grants, c.conns, c.units, c.bad, c.log⟩, fun _ _ _ => rfl, fun _ _ _ => rfl, rfl⟩
  · exact h

theorem onlyReports_ring {k : Nat} {bs : List Byte} (l : bs.length = 32) (h : OnlyReports s t) :
    OnlyReports s (stBytes (0x78000000 + 32 * (k % 4096)) bs t) :=
  OnlyReports_trans h ⟨(keeps_stBytes (Keeps_refl t)).canonical, fun _ _ _ => rfl,
    fun c x e => ldB_stBytes_other c (by
      simp only [cairnRing, Bool.and_eq_false_iff, decide_eq_false_iff_not, Nat.not_le, Nat.not_lt] at e
      omega), rfl⟩

theorem length_cairnEntry {t unit orig sev cls detail : Nat} {args : List Byte} :
    (cairnEntry t unit orig sev cls detail args).length = 32 := by
  simp [cairnEntry, leBytes, zeros]

theorem onlyReports_cairnStore {sev : Nat} {e : List Byte} (l : e.length = 32) (h : OnlyReports s t) :
    OnlyReports s (cairnStore sev e t) := by
  unfold cairnStore
  dsimp only
  split
  · exact onlyReports_occur (by decide) (onlyReports_fset (by decide) (onlyReports_ring l h))
  · exact onlyReports_fset (by decide) (onlyReports_ring l h)

theorem onlyReports_cairnForce {unit sev cls detail : Nat} {args : List Byte} (h : OnlyReports s t) :
    OnlyReports s (cairnForce unit sev cls detail args t) := by
  unfold cairnForce
  dsimp only
  split
  · exact h
  · split
    · exact onlyReports_belaySend (onlyReports_cairnStore length_cairnEntry h)
    · exact onlyReports_cairnStore length_cairnEntry h

theorem onlyReports_cairn {unit sev cls detail : Nat} {args : List Byte} (h : OnlyReports s t) :
    OnlyReports s (cairn unit sev cls detail args t) := by
  unfold cairn
  extract_lets n
  clear_value n
  split
  · exact onlyReports_fset (a := CNT_CAIRN_HEAD) (by decide) (onlyReports_cnt h)
  · exact onlyReports_cairnForce (onlyReports_cnt h)

theorem onlyReports_writeIgnored {d : Nat} (h : OnlyReports s t) : OnlyReports s (writeIgnored a v d t) := onlyReports_cairn h

theorem onlyReports_cairnState {u sev inst old new cause value : Nat} (h : OnlyReports s t) :
    OnlyReports s (cairnState u sev inst old new cause value t) := onlyReports_cairn h

theorem onlyReports_cairnFault {u sev d : Nat} {args : List Byte} (h : OnlyReports s t) :
    OnlyReports s (cairnFault u sev d args t) := onlyReports_cairn h

theorem onlyReports_cairnAgg {k : List Nat} (h : OnlyReports s t) : OnlyReports s (cairnAgg k t) := onlyReports_cnt h

end Sys2Proof.Laws
end

