-- ==== Sys2Proof/Laws/Bus.lean ====
section
/-!
SUPPORT. Laws/Bus.lean: when a command runs, when a register write is accepted and what it then comes to; the frame of a command
from what its parts change.
-/
namespace Sys2Proof.Laws
open Sys2Proof Sys2Proof.Machine

variable {s t u : State} {a : Nat} {v : Word} {i : Initiator}

theorem run_ready {f : State → State} (h : s.Ready) : run f s = .next (f s) := by simp [run, h.runs]

theorem runIf_ready {b : Bool} {f : State → State} (h : s.Ready) (e : b = true) : runIf b f s = .next (f s) := by
  simp [runIf, run, h.runs, e]

/-- An access to a register that is there, wide enough, by a bound initiator reaches the register's rules. -/
theorem busWrite_reg (r : roleOf i s ≠ 0) (hi : inSpan a = true) (hr : (regRow (a / 8 * 8)).isSome = true) (h8 : a % 8 = 0)
    (ha : absentAddr s.variant a = false) : busWrite i a v s = regWrite i a v s := by
  have hn : (regRow (a / 8 * 8)).isNone = false := by cases h : regRow (a / 8 * 8) <;> simp [h] at hr ⊢
  simp [busWrite, r, unmapped, namesNone, hi, hn, h8, ha]

/-- The common checks pass; the register's own rules are left. -/
theorem regCheck_own (h3 : 3 ≤ roleOf i s)
    (hl : (rwlLocked s = true → writesRwl (stored i a s) v a = false)) (hg : rangesOk a v = true)
    (hp : portInert s a = false) (hm : mirroredReg a = true → onSecond s = true → isCore i = true) :
    regCheck i (roleOf i s) a v s = ownRules i a v s := by
  have h0 : roleOf i s ≠ 0 := by omega
  have h1 : roleOf i s ≠ 1 := by omega
  have h2 : roleOf i s ≠ 2 := by omega
  have k1 : ¬ (rwlLocked s = true ∧ writesRwl (stored i a s) v a = true) :=
    fun ⟨x, y⟩ => by rw [hl x] at y; cases y
  have k2 : ¬ (mirroredReg a = true ∧ onSecond s = true ∧ (!isCore i) = true) :=
    fun ⟨x, y, z⟩ => by rw [hm x y] at z; cases z
  simp only [regCheck, h0, h1, h2, false_and, if_false, hg, hp, Bool.not_true]
  rw [if_neg k1, if_neg k2]; simp

/-- An accepted register write comes to what `regApply` says. -/
theorem busWrite_ok (h3 : 3 ≤ roleOf i s) (hi : inSpan a = true) (hr : (regRow (a / 8 * 8)).isSome = true) (h8 : a % 8 = 0)
    (ha : absentAddr s.variant a = false)
    (hl : (rwlLocked s = true → writesRwl (stored i a s) v a = false)) (hg : rangesOk a v = true)
    (hp : portInert s a = false) (hm : mirroredReg a = true → onSecond s = true → isCore i = true)
    (ho : ownRules i a v s = .ok) : busWrite i a v s = regApply i a v s := by
  rw [busWrite_reg (by omega) hi hr h8 ha, regWrite, regCheck_own h3 hl hg hp hm, ho]

theorem onlyReports_of_frame (h : OnlyReports s t) (c : s.Canonical) : Frame [] s t :=
  ⟨fun x _ e => h.regs c x e, h.mem c, h.rest⟩

/-- The frame of a command: `u` writes the listed registers of `s`, and after it the device only reports. -/
theorem frame_intro {F : List Nat} (h : OnlyReports u t) (c : u.Canonical) (hr : ∀ x, x ∉ F → rd u x = rd s x) (hm : u.mem = s.mem)
    (he : u.bare = s.bare) : Frame F s t where
  regs := fun x n e => (h.regs c x e).trans (hr x n)
  mem := fun x e => (h.mem c x e).trans (by rw [ldB, ldB, hm])
  rest := h.rest.trans he

-- What a register's entry says ----------------------------------------------------------------------------------------

/-- No field of the register is locked after start. -/
def rwlFree (a : Nat) : Bool := match regRow a with
  | none => true
  | some r => r.fields.all (fun x => x.acc != .rwl)

/-- No field of the register has a range of its own. -/
def rangeFree (a : Nat) : Bool := match regRow a with
  | none => true
  | some r => r.fields.all (fun x => x.acc == .ro || x.acc == .rc || x.rng == .any)

theorem writesRwl_rwlFree {old : Word} (h : rwlFree a = true) : writesRwl old v a = false := by
  unfold rwlFree at h
  unfold writesRwl
  cases e : regRow a with
  | none => rfl
  | some r =>
    rw [e] at h
    simp only [List.all_eq_true] at h
    have k : ∀ x ∈ r.fields, lockedField a x = false := fun x hx => by
      have := h x hx
      cases c : x.acc <;> simp_all [lockedField]
    have h1 : r.fields.any (fun x => lockedField a x && getF x.f v != getF x.f old) = false := by
      simp only [List.any_eq_false]; intro x hx; simp [k x hx]
    have h2 : r.fields.any (lockedField a) = false := by
      simp only [List.any_eq_false]; intro x hx; simp [k x hx]
    simp only [h1, h2, Bool.false_and, Bool.or_self]

theorem rangesOk_free (h : rangeFree a = true) : rangesOk a v = true := by
  unfold rangeFree at h
  unfold rangesOk
  cases e : regRow a with
  | none => rfl
  | some r =>
    rw [e] at h
    simp only [List.all_eq_true] at h ⊢
    intro x hx
    have := h x hx
    cases k : x.acc <;> simp_all [Rng_ok]

-- Blocks ---------------------------------------------------------------------------------------------------------

theorem ownRules_tsu (h : a / 0x10000 = 1) : ownRules i a v s = tsuCheck i a v s := by simp only [ownRules, h]

theorem regApply_tsu (h : a / 0x10000 = 1) (n : a ≠ TSU_UTC_OFFSET) :
    regApply i a v s = (tsuApply i a v s).getD (storePlain a v s) := by
  simp only [regApply, ownEffect, h]
  cases tsuApply i a v s <;> simp [utcConfirm, n]

end Sys2Proof.Laws
end

