-- ==== Sys2Proof/Laws/KeepsStock.lean ====
section
/-!
SUPPORT. Laws/KeepsStock.lean: the functions of Machine/Stock.lean keep what every command keeps (Keeps of Safety.lean).
-/
namespace Sys2Proof.Laws
open Sys2Proof Sys2Proof.Machine

set_option linter.unusedTactic false
set_option linter.unreachableTactic false
set_option linter.unusedVariables false

theorem keeps_stockSlot {a : State} {ec : Nat} {len : Nat} {c : Ctx} {s : State} (hs : Keeps a s) :
    Keeps a (stockSlot ec len c s).2 := by
  unfold stockSlot
  try dsimp only
  repeat' (first
    | with_reducible assumption
    | with_reducible apply keeps_slotRequest
    | with_reducible apply keeps_ctxSet
    | split
    | with_reducible refine keeps_of_pair ?_ ‹_ = (_, _)›
    | with_reducible apply keeps_upd')

theorem keeps_stockTx {a : State} {ec : Nat} {c : Ctx} {rec : List Byte} {s : State} (hs : Keeps a s) :
    Keeps a (stockTx ec c rec s) := by
  unfold stockTx
  try dsimp only
  repeat' (first
    | with_reducible assumption
    | with_reducible apply keeps_topoDrop
    | with_reducible apply keeps_stockSlot
    | with_reducible apply keeps_emitRun
    | with_reducible refine keeps_ite ?_ ?_
    | with_reducible apply keeps_getD
    | split
    | with_reducible refine keeps_of_pair ?_ ‹_ = (_, _)›
    | with_reducible apply keeps_upd')

theorem keeps_topoCount {a : State} {tc : Nat} {s : State} (hs : Keeps a s) :
    Keeps a (topoCount tc s) := by
  unfold topoCount
  try dsimp only
  repeat' (first
    | with_reducible assumption
    | with_reducible apply keeps_tcEvent
    | with_reducible apply keeps_bump)

theorem keeps_echoRun {a : State} {ec : Nat} {c : Ctx} {x : Punt} {s : State} (hs : Keeps a s) :
    Keeps a (echoRun ec c x s) := by
  unfold echoRun
  try dsimp only
  repeat' (first
    | with_reducible assumption
    | with_reducible apply keeps_sketchAdd
    | with_reducible apply keeps_topoDrop
    | with_reducible apply keeps_emitRun
    | with_reducible apply keeps_topoCount
    | with_reducible refine keeps_ite ?_ ?_
    | with_reducible apply keeps_getD)

theorem keeps_answerRun {a : State} {ec : Nat} {c : Ctx} {x : Punt} {w : Nat} {done : State → State} {m : Nat → List Byte} {s : State} (hdone : ∀ b, Keeps a b → Keeps a (done b)) (hs : Keeps a s) :
    Keeps a (answerRun ec c x w done m s) := by
  unfold answerRun
  try dsimp only
  repeat' (first
    | with_reducible assumption
    | with_reducible apply keeps_stockSlot
    | with_reducible apply keeps_topoDrop
    | with_reducible apply keeps_emitRun
    | with_reducible apply keeps_topoCount
    | with_reducible refine keeps_ite ?_ ?_
    | with_reducible apply hdone
    | split
    | with_reducible refine keeps_of_pair ?_ ‹_ = (_, _)›
    | with_reducible apply keeps_upd')

theorem keeps_ntsRun {a : State} {ec : Nat} {c : Ctx} {x : Punt} {w : Nat} {s0 : State} (hs0 : Keeps a s0) :
    Keeps a (ntsRun ec c x w s0) := by
  unfold ntsRun
  try dsimp only
  repeat' (first
    | with_reducible assumption
    | with_reducible apply keeps_topoDrop
    | with_reducible apply keeps_keyUse
    | with_reducible apply keeps_emitRun
    | with_reducible apply keeps_topoCount
    | with_reducible apply keeps_answerRun
    | with_reducible apply keeps_bump
    | with_reducible refine keeps_foldl _ (fun _ _ _ => ?_) _ ?_
    | with_reducible refine keeps_foldl_pair _ (fun _ _ _ => ?_) _ ?_
    | with_reducible refine keeps_ite ?_ ?_
    | split
    | with_reducible refine keeps_of_pair ?_ ‹_ = (_, _)›
    | intro _
    | with_reducible apply keeps_upd')

theorem keeps_rateRun {a : State} {ec : Nat} {est : Nat} {c : Ctx} {x : Punt} {w : Nat} {s : State} (hs : Keeps a s) :
    Keeps a (rateRun ec est c x w s) := by
  unfold rateRun
  try dsimp only
  repeat' (first
    | with_reducible assumption
    | with_reducible apply keeps_topoDrop
    | with_reducible apply keeps_topoCount
    | with_reducible apply keeps_emitRun
    | with_reducible refine keeps_ite ?_ ?_)

theorem keeps_ntpRun {a : State} {ec : Nat} {c : Ctx} {x : Punt} {s : State} (hs : Keeps a s) :
    Keeps a (ntpRun ec c x s) := by
  unfold ntpRun
  try dsimp only
  repeat' (first
    | with_reducible assumption
    | with_reducible apply keeps_sketchAdd
    | with_reducible apply keeps_rateRun
    | with_reducible apply keeps_topoDrop
    | with_reducible apply keeps_bump
    | with_reducible apply keeps_ntsRun
    | with_reducible apply keeps_answerRun
    | with_reducible apply keeps_topoCount
    | with_reducible refine keeps_ite ?_ ?_
    | with_reducible apply keeps_getD
    | intro _)

theorem keeps_stockApply {a : State} {ec : Nat} {c : Ctx} {x : Punt} {s : State} {x0 : StockAct} (hs : Keeps a s) :
    Keeps a (stockApply ec c x s x0) := by
  unfold stockApply
  try dsimp only
  repeat' (first
    | with_reducible assumption
    | with_reducible apply keeps_topoDrop
    | with_reducible apply keeps_topoCount
    | with_reducible apply keeps_dropRun
    | with_reducible apply keeps_puntRun
    | with_reducible apply keeps_relayRun
    | with_reducible apply keeps_emitRun
    | with_reducible apply keeps_ntpRun
    | with_reducible apply keeps_echoRun
    | with_reducible refine keeps_ite ?_ ?_
    | with_reducible refine keeps_ite_fun ?_ ?_
    | with_reducible apply keeps_id
    | split)

theorem keeps_stockMeet {a : State} {c : Ctx} {x : Punt} {s : State} (hs : Keeps a s) :
    Keeps a (stockMeet c x s).2 := by
  unfold stockMeet
  try dsimp only
  repeat' (first
    | with_reducible assumption
    | with_reducible apply keeps_touchMem
    | with_reducible apply keeps_lookMeet
    | with_reducible refine keeps_foldl _ (fun _ _ _ => ?_) _ ?_
    | with_reducible refine keeps_foldl_pair _ (fun _ _ _ => ?_) _ ?_
    | with_reducible refine keeps_ite ?_ ?_
    | with_reducible refine keeps_ite_snd ?_ ?_)

theorem keeps_stockRun {a : State} {ec : Nat} {s : State} (hs : Keeps a s) :
    Keeps a (stockRun ec s) := by
  unfold stockRun
  try dsimp only
  repeat' (first
    | with_reducible assumption
    | with_reducible apply keeps_stockMeet
    | with_reducible apply keeps_dropRun
    | with_reducible apply keeps_stockApply
    | with_reducible apply keeps_badOp
    | with_reducible apply keeps_stockTx
    | with_reducible apply keeps_emitRun
    | with_reducible refine keeps_ite ?_ ?_)

theorem keeps_serveQueue {a : State} {cls : Nat} {q : Nat} {ec : Nat} {s : State} (hs : Keeps a s) :
    Keeps a (serveQueue cls q ec s) := by
  unfold serveQueue
  try dsimp only
  repeat' (first
    | with_reducible assumption
    | with_reducible apply keeps_dispatchTo
    | with_reducible apply keeps_stockRun
    | with_reducible refine keeps_ite ?_ ?_)

theorem keeps_dispatch {a : State} {s : State} (hs : Keeps a s) :
    Keeps a (dispatch s) := by
  unfold dispatch
  try dsimp only
  repeat' (first
    | with_reducible assumption
    | with_reducible apply keeps_serveQueue
    | split
    | with_reducible apply keeps_upd')

theorem keeps_puntsTaken {a : State} {s : State} (hs : Keeps a s) :
    Keeps a (puntsTaken s) := by
  unfold puntsTaken
  try dsimp only
  repeat' (first
    | with_reducible assumption
    | (with_reducible refine keeps_forEach (fun _ _ _ => ?_) ?_)
    | with_reducible apply keeps_puntsBack)

theorem keeps_execDispatch {s : State}  :
    RKeeps s (execDispatch s) := by
  unfold execDispatch
  first
    | with_reducible refine rkeeps_run ?_
    | with_reducible refine rkeeps_runIf ?_
    | with_reducible refine rkeeps_next ?_
    | (unfold keRun; with_reducible refine rkeeps_runIf ?_)
  try dsimp only
  repeat' (first
    | with_reducible assumption
    | with_reducible exact Keeps_refl _
    | with_reducible apply keeps_dispatch
    | with_reducible apply keeps_puntsTaken)

end Sys2Proof.Laws
end

