-- ==== Sys2Proof/Laws/KeepsRest.lean ====
section
/-!
SUPPORT. Laws/KeepsRest.lean: the functions of Machine/Rest.lean keep what every command keeps (Keeps of Safety.lean).
-/
namespace Sys2Proof.Laws
open Sys2Proof Sys2Proof.Machine

set_option linter.unusedTactic false
set_option linter.unreachableTactic false
set_option linter.unusedVariables false

theorem keeps_restInjected {a : State} {s : State} (hs : Keeps a s) :
    Keeps a (restInjected s) := by
  unfold restInjected
  try dsimp only
  repeat' (first
    | with_reducible assumption
    | (with_reducible refine keeps_forEach (fun _ _ _ => ?_) ?_)
    | with_reducible apply keeps_serveQueue
    | with_reducible apply keeps_freePlace
    | with_reducible refine keeps_ite ?_ ?_
    | split
    | with_reducible apply keeps_upd')

theorem keeps_restEnter {a : State} {s : State} (hs : Keeps a s) :
    CKeeps a (restEnter s) := by
  unfold restEnter
  try dsimp only
  repeat' (first
    | with_reducible assumption
    | (with_reducible refine keeps_forEach (fun _ _ _ => ?_) ?_)
    | with_reducible apply keeps_freeFlush
    | with_reducible apply keeps_portsRefresh
    | with_reducible apply keeps_startSet
    | with_reducible apply keeps_restInjected
    | with_reducible apply keeps_keCloseAll
    | with_reducible refine keeps_ite ?_ ?_
    | with_reducible refine ckeeps_ite ?_ ?_
    | with_reducible exact ckeeps_no
    | with_reducible apply ckeeps_ok
    | with_reducible apply ckeeps_cut
    | with_reducible apply ckeeps_wait
    | with_reducible apply keeps_upd')

theorem keeps_restBnu {a : State} {n : Nat} {s : State} (hs : Keeps a s) :
    Keeps a (restBnu n s) := by
  unfold restBnu
  try dsimp only
  repeat' (first
    | with_reducible assumption
    | with_reducible apply keeps_backlogShow
    | with_reducible apply keeps_fsetB
    | with_reducible apply keeps_drbgDrop
    | with_reducible apply keeps_slotsClear
    | with_reducible apply keeps_bnuSet
    | with_reducible apply keeps_bnuAbort
    | with_reducible refine keeps_ite ?_ ?_
    | with_reducible apply keeps_upd')

theorem keeps_restFrames {a : State} {s : State} (hs : Keeps a s) :
    Keeps a (restFrames s) := by
  unfold restFrames
  try dsimp only
  repeat' (first
    | with_reducible assumption
    | with_reducible apply keeps_clrRange
    | with_reducible apply keeps_upd_qNil)

theorem keeps_restEntered {a : State} {s : State} (hs : Keeps a s) :
    Keeps a (restEntered s) := by
  unfold restEntered
  try dsimp only
  repeat' (first
    | with_reducible assumption
    | (with_reducible refine keeps_forEach (fun _ _ _ => ?_) ?_)
    | with_reducible apply keeps_restBnu
    | with_reducible apply keeps_lanesDown
    | with_reducible apply keeps_freeFlush
    | with_reducible apply keeps_restFrames
    | with_reducible apply keeps_belayClose
    | with_reducible apply keeps_pstSet
    | with_reducible apply keeps_portsRefresh
    | with_reducible apply keeps_fsetB
    | with_reducible apply keeps_setPhase
    | with_reducible apply keeps_startSet
    | with_reducible refine keeps_ite ?_ ?_
    | with_reducible apply keeps_upd')

theorem keeps_restExitStart {a : State} {cause : Nat} {s : State} (hs : Keeps a s) :
    Keeps a (restExitStart cause s) := by
  unfold restExitStart
  try dsimp only
  repeat' (first
    | with_reducible assumption
    | with_reducible apply keeps_occur
    | with_reducible apply keeps_fset
    | with_reducible apply keeps_startSet
    | (with_reducible refine keeps_forEach (fun _ _ _ => ?_) ?_)
    | with_reducible apply keeps_fsetB
    | with_reducible apply keeps_portUp
    | with_reducible apply keeps_portRefresh
    | with_reducible apply keeps_selftestStart
    | with_reducible refine keeps_ite ?_ ?_
    | with_reducible refine keeps_ite_fun ?_ ?_
    | with_reducible apply keeps_id
    | with_reducible apply keeps_upd')

theorem keeps_restExit {a : State} {s : State} (hs : Keeps a s) :
    CKeeps a (restExit s) := by
  unfold restExit
  try dsimp only
  repeat' (first
    | with_reducible assumption
    | with_reducible apply keeps_restExitStart
    | with_reducible refine keeps_ite ?_ ?_
    | with_reducible refine ckeeps_ite ?_ ?_
    | with_reducible exact ckeeps_no
    | with_reducible apply ckeeps_ok
    | with_reducible apply ckeeps_cut
    | with_reducible apply ckeeps_wait)

theorem keeps_restExited {a : State} {s : State} (hs : Keeps a s) :
    Keeps a (restExited s) := by
  unfold restExited
  try dsimp only
  repeat' (first
    | with_reducible assumption
    | with_reducible apply keeps_portsRefresh
    | with_reducible apply keeps_fsetB
    | with_reducible apply keeps_setPhase
    | with_reducible apply keeps_startSet
    | with_reducible refine keeps_ite ?_ ?_
    | with_reducible apply keeps_upd')

theorem keeps_wakeFrame {a : State} {bytes : List Byte} {s : State} (hs : Keeps a s) :
    Keeps a (wakeFrame bytes s) := by
  unfold wakeFrame
  try dsimp only
  repeat' (first
    | with_reducible assumption
    | with_reducible apply keeps_fset
    | with_reducible apply keeps_restExitStart
    | with_reducible refine keeps_ite ?_ ?_)

theorem keeps_execRestEntryComplete {s : State}  :
    RKeeps s (execRestEntryComplete s) := by
  unfold execRestEntryComplete
  first
    | with_reducible refine rkeeps_run ?_
    | with_reducible refine rkeeps_runIf ?_
    | with_reducible refine rkeeps_next ?_
    | (unfold keRun; with_reducible refine rkeeps_runIf ?_)
  try dsimp only
  repeat' (first
    | with_reducible assumption
    | with_reducible exact Keeps_refl _
    | with_reducible apply keeps_restEntered)

theorem keeps_execWakeFrame {bytes : List Byte} {s : State}  :
    RKeeps s (execWakeFrame bytes s) := by
  unfold execWakeFrame
  first
    | with_reducible refine rkeeps_run ?_
    | with_reducible refine rkeeps_runIf ?_
    | with_reducible refine rkeeps_next ?_
    | (unfold keRun; with_reducible refine rkeeps_runIf ?_)
  try dsimp only
  repeat' (first
    | with_reducible assumption
    | with_reducible exact Keeps_refl _
    | with_reducible apply keeps_wakeFrame)

theorem keeps_execRestExitComplete {s : State}  :
    RKeeps s (execRestExitComplete s) := by
  unfold execRestExitComplete
  first
    | with_reducible refine rkeeps_run ?_
    | with_reducible refine rkeeps_runIf ?_
    | with_reducible refine rkeeps_next ?_
    | (unfold keRun; with_reducible refine rkeeps_runIf ?_)
  try dsimp only
  repeat' (first
    | with_reducible assumption
    | with_reducible exact Keeps_refl _
    | with_reducible apply keeps_withAnnounce
    | with_reducible apply keeps_restExited
    | intro _)

end Sys2Proof.Laws
end

