-- ==== Sys2Proof/Laws/KeepsHarCmds.lean ====
section
/-!
SUPPORT. Laws/KeepsHarCmds.lean: the functions of Machine/HarCmds.lean keep what every command keeps (Keeps of Safety.lean).
-/
namespace Sys2Proof.Laws
open Sys2Proof Sys2Proof.Machine

set_option linter.unusedTactic false
set_option linter.unreachableTactic false
set_option linter.unusedVariables false

theorem keeps_refusalOf {a : State} {v : Verdict} {detail : Nat}  :
    OCKeeps a (refusalOf v detail) := by
  unfold refusalOf
  try dsimp only
  repeat' (first
    | with_reducible assumption
    | with_reducible refine ockeeps_ite ?_ ?_
    | with_reducible apply ockeeps_some
    | with_reducible exact ockeeps_none
    | with_reducible exact ckeeps_no
    | with_reducible apply ckeeps_ok
    | with_reducible apply ckeeps_cut
    | with_reducible apply ckeeps_wait
    | split
    | with_reducible apply keeps_upd')

theorem keeps_viaReg {a : State} {a0 : Nat} {v : Word} {s : State} (hs : Keeps a s) :
    CKeeps a (viaReg a0 v s) := by
  unfold viaReg
  try dsimp only
  repeat' (first
    | with_reducible assumption
    | with_reducible apply keeps_refusalOf
    | with_reducible apply keeps_harness
    | with_reducible apply keeps_regApply
    | with_reducible refine keeps_ite ?_ ?_
    | with_reducible refine ckeeps_ite ?_ ?_
    | with_reducible exact ckeeps_no
    | with_reducible apply ckeeps_ok
    | with_reducible apply ckeeps_cut
    | with_reducible apply ckeeps_wait
    | with_reducible apply ckeeps_getD
    | with_reducible refine ockeeps_bind (fun _ => ?_)
    | with_reducible refine ockeeps_findSome (fun _ => ?_) _
    | split
    | with_reducible refine ckeeps_of_some ?_ ‹_ = some _›
    | with_reducible apply keeps_upd')

theorem keeps_regReadDo {a : State} {b : List Byte} {s : State} (hs : Keeps a s) :
    CKeeps a (regReadDo b s) := by
  unfold regReadDo
  try dsimp only
  repeat' (first
    | with_reducible assumption
    | with_reducible refine keeps_ite ?_ ?_
    | with_reducible refine ckeeps_ite ?_ ?_
    | with_reducible exact ckeeps_no
    | with_reducible apply ckeeps_ok
    | with_reducible apply ckeeps_cut
    | with_reducible apply ckeeps_wait
    | split
    | with_reducible apply keeps_upd')

theorem keeps_recordsApply {a : State} {role : Nat} {x0 : Nat} {x1 : List Setting} {x2 : State} (hx2 : Keeps a x2) :
    CKeeps a (recordsApply role x0 x1 x2) := by
  induction x1 generalizing x0 x2 with
  | nil => exact ckeeps_ok hx2
  | cons r rs ih =>
    unfold recordsApply
    split
    · exact ckeeps_of_some keeps_refusalOf ‹_ = some _›
    · exact ih (keeps_utcConfirm (keeps_regApply hx2))

theorem keeps_regWriteDo {a : State} {role : Nat} {b : List Byte} {s : State} (hs : Keeps a s) :
    CKeeps a (regWriteDo role b s) := by
  unfold regWriteDo
  try dsimp only
  repeat' (first
    | with_reducible assumption
    | with_reducible apply keeps_refusalOf
    | with_reducible apply keeps_recordsApply
    | with_reducible refine keeps_ite ?_ ?_
    | with_reducible refine ckeeps_ite ?_ ?_
    | with_reducible exact ckeeps_no
    | with_reducible apply ckeeps_ok
    | with_reducible apply ckeeps_cut
    | with_reducible apply ckeeps_wait
    | with_reducible apply ckeeps_getD
    | with_reducible refine ockeeps_bind (fun _ => ?_)
    | with_reducible refine ockeeps_findSome (fun _ => ?_) _
    | with_reducible apply keeps_getD
    | split
    | with_reducible refine keeps_of_cok ?_ ‹_ = CRes.ok _ _›
    | with_reducible refine keeps_of_ccut ?_ ‹_ = CRes.cut _ _ _›
    | with_reducible refine keeps_of_cwait ?_ ‹_ = CRes.wait _›
    | with_reducible refine ckeeps_of_some ?_ ‹_ = some _›
    | with_reducible apply keeps_upd')

theorem keeps_memReadDo {a : State} {b : List Byte} {s : State} (hs : Keeps a s) :
    CKeeps a (memReadDo b s) := by
  unfold memReadDo
  try dsimp only
  repeat' (first
    | with_reducible assumption
    | with_reducible apply keeps_cairnFault
    | with_reducible apply keeps_touchMem
    | with_reducible apply keeps_harness
    | with_reducible refine keeps_ite ?_ ?_
    | with_reducible refine ckeeps_ite ?_ ?_
    | with_reducible exact ckeeps_no
    | with_reducible apply ckeeps_ok
    | with_reducible apply ckeeps_cut
    | with_reducible apply ckeeps_wait
    | split
    | with_reducible refine keeps_of_pair ?_ ‹_ = (_, _)›
    | with_reducible apply keeps_upd')

theorem keeps_memWriteDo {a : State} {role : Nat} {b : List Byte} {s : State} (hs : Keeps a s) :
    CKeeps a (memWriteDo role b s) := by
  unfold memWriteDo
  try dsimp only
  repeat' (first
    | with_reducible assumption
    | with_reducible apply keeps_refusalOf
    | with_reducible apply keeps_winWrite
    | with_reducible apply keeps_harness
    | with_reducible refine keeps_foldl _ (fun _ _ _ => ?_) _ ?_
    | with_reducible refine keeps_foldl_pair _ (fun _ _ _ => ?_) _ ?_
    | with_reducible refine keeps_ite ?_ ?_
    | with_reducible refine ckeeps_ite ?_ ?_
    | with_reducible exact ckeeps_no
    | with_reducible apply ckeeps_ok
    | with_reducible apply ckeeps_cut
    | with_reducible apply ckeeps_wait
    | with_reducible refine okeeps_findSome (fun _ => ?_) _
    | with_reducible apply ckeeps_getD
    | with_reducible refine ockeeps_bind (fun _ => ?_)
    | with_reducible refine ockeeps_findSome (fun _ => ?_) _
    | split
    | with_reducible refine ckeeps_of_some ?_ ‹_ = some _›
    | with_reducible apply keeps_upd')

theorem keeps_tblNamed {a : State} {b : List Byte} {s : State} (hs : Keeps a s) :
    OCKeeps a (tblNamed b s) := by
  unfold tblNamed
  try dsimp only
  repeat' (first
    | with_reducible assumption
    | with_reducible refine keeps_ite ?_ ?_
    | with_reducible refine ockeeps_ite ?_ ?_
    | with_reducible apply ockeeps_some
    | with_reducible exact ockeeps_none
    | with_reducible exact ckeeps_no
    | with_reducible apply ckeeps_ok
    | with_reducible apply ckeeps_cut
    | with_reducible apply ckeeps_wait)

theorem keeps_tblCfgDo {a : State} {b : List Byte} {s : State} (hs : Keeps a s) :
    CKeeps a (tblCfgDo b s) := by
  unfold tblCfgDo
  try dsimp only
  repeat' (first
    | with_reducible assumption
    | with_reducible apply keeps_tblNamed
    | with_reducible apply keeps_regApply
    | with_reducible apply keeps_harness
    | with_reducible refine keeps_ite ?_ ?_
    | with_reducible refine ckeeps_ite ?_ ?_
    | with_reducible exact ckeeps_no
    | with_reducible apply ckeeps_ok
    | with_reducible apply ckeeps_cut
    | with_reducible apply ckeeps_wait
    | with_reducible apply ckeeps_getD
    | with_reducible refine ockeeps_bind (fun _ => ?_)
    | with_reducible refine ockeeps_findSome (fun _ => ?_) _
    | split
    | with_reducible refine ckeeps_of_some ?_ ‹_ = some _›
    | with_reducible apply keeps_upd')

theorem keeps_putEntries {a : State} {n : Nat} {g : Nat} {x0 : List (List Byte × List Nat)} {x1 : Nat} {x2 : State} (hx2 : Keeps a x2) :
    Keeps a (putEntries n g x0 x1 x2).2.2 := by
  induction x0 generalizing x1 x2 with
  | nil =>
    unfold putEntries
    try dsimp only
    repeat' (first
      | with_reducible assumption
      | fail
      | with_reducible apply keeps_tblPut
      | split
      | with_reducible refine keeps_of_some ?_ ‹_ = some _›
      | with_reducible apply keeps_upd')
  | cons y ys ih =>
    unfold putEntries
    try dsimp only
    repeat' (first
      | with_reducible assumption
      | with_reducible apply ih
      | with_reducible apply keeps_tblPut
      | split
      | with_reducible refine keeps_of_some ?_ ‹_ = some _›
      | with_reducible apply keeps_upd')

theorem keeps_delEntries {a : State} {n : Nat} {g : Nat} {x0 : List (List Byte)} {x1 : Nat} {x2 : State} (hx2 : Keeps a x2) :
    Keeps a (delEntries n g x0 x1 x2).2.2 := by
  induction x0 generalizing x1 x2 with
  | nil =>
    unfold delEntries
    try dsimp only
    repeat' (first
      | with_reducible assumption
      | fail
      | with_reducible apply keeps_tblDel
      | split
      | with_reducible refine keeps_of_some ?_ ‹_ = some _›
      | with_reducible apply keeps_upd')
  | cons y ys ih =>
    unfold delEntries
    try dsimp only
    repeat' (first
      | with_reducible assumption
      | with_reducible apply ih
      | with_reducible apply keeps_tblDel
      | split
      | with_reducible refine keeps_of_some ?_ ‹_ = some _›
      | with_reducible apply keeps_upd')

theorem keeps_tblPutDo {a : State} {b : List Byte} {s : State} (hs : Keeps a s) :
    CKeeps a (tblPutDo b s) := by
  unfold tblPutDo
  try dsimp only
  repeat' (first
    | with_reducible assumption
    | with_reducible apply keeps_tblNamed
    | with_reducible apply keeps_putEntries
    | with_reducible refine keeps_ite ?_ ?_
    | with_reducible refine ckeeps_ite ?_ ?_
    | with_reducible exact ckeeps_no
    | with_reducible apply ckeeps_ok
    | with_reducible apply ckeeps_cut
    | with_reducible apply ckeeps_wait
    | with_reducible apply ckeeps_getD
    | with_reducible refine ockeeps_bind (fun _ => ?_)
    | with_reducible refine ockeeps_findSome (fun _ => ?_) _
    | split
    | with_reducible refine keeps_of_pair ?_ ‹_ = (_, _)›
    | with_reducible refine ckeeps_of_some ?_ ‹_ = some _›
    | with_reducible apply keeps_upd')

theorem keeps_tblDelDo {a : State} {b : List Byte} {s : State} (hs : Keeps a s) :
    CKeeps a (tblDelDo b s) := by
  unfold tblDelDo
  try dsimp only
  repeat' (first
    | with_reducible assumption
    | with_reducible apply keeps_tblNamed
    | with_reducible apply keeps_delEntries
    | with_reducible refine keeps_ite ?_ ?_
    | with_reducible refine ckeeps_ite ?_ ?_
    | with_reducible exact ckeeps_no
    | with_reducible apply ckeeps_ok
    | with_reducible apply ckeeps_cut
    | with_reducible apply ckeeps_wait
    | with_reducible apply ckeeps_getD
    | with_reducible refine ockeeps_bind (fun _ => ?_)
    | with_reducible refine ockeeps_findSome (fun _ => ?_) _
    | split
    | with_reducible refine keeps_of_pair ?_ ‹_ = (_, _)›
    | with_reducible refine ckeeps_of_some ?_ ‹_ = some _›
    | with_reducible apply keeps_upd')

theorem keeps_tblFlipDo {a : State} {b : List Byte} {s : State} (hs : Keeps a s) :
    CKeeps a (tblFlipDo b s) := by
  unfold tblFlipDo
  try dsimp only
  repeat' (first
    | with_reducible assumption
    | with_reducible apply keeps_tblFlip
    | with_reducible refine keeps_ite ?_ ?_
    | with_reducible refine ckeeps_ite ?_ ?_
    | with_reducible exact ckeeps_no
    | with_reducible apply ckeeps_ok
    | with_reducible apply ckeeps_cut
    | with_reducible apply ckeeps_wait)

theorem keeps_topoLoadDo {a : State} {b : List Byte} {s : State} (hs : Keeps a s) :
    CKeeps a (topoLoadDo b s) := by
  unfold topoLoadDo
  try dsimp only
  repeat' (first
    | with_reducible assumption
    | with_reducible apply keeps_notRepairable
    | with_reducible apply keeps_putMem
    | with_reducible apply keeps_stageSet
    | with_reducible apply keeps_harness
    | with_reducible refine keeps_ite ?_ ?_
    | with_reducible refine ckeeps_ite ?_ ?_
    | with_reducible exact ckeeps_no
    | with_reducible apply ckeeps_ok
    | with_reducible apply ckeeps_cut
    | with_reducible apply ckeeps_wait)

theorem keeps_topoSwapDo {a : State} {b : List Byte} {s : State} (hs : Keeps a s) :
    CKeeps a (topoSwapDo b s) := by
  unfold topoSwapDo
  try dsimp only
  repeat' (first
    | with_reducible assumption
    | with_reducible apply keeps_swapGo
    | with_reducible apply keeps_wr
    | with_reducible refine keeps_ite ?_ ?_
    | with_reducible refine ckeeps_ite ?_ ?_
    | with_reducible exact ckeeps_no
    | with_reducible apply ckeeps_ok
    | with_reducible apply ckeeps_cut
    | with_reducible apply ckeeps_wait)

theorem keeps_ctxSnapDo {a : State} {b : List Byte} {s : State} (hs : Keeps a s) :
    CKeeps a (ctxSnapDo b s) := by
  unfold ctxSnapDo
  try dsimp only
  repeat' (first
    | with_reducible assumption
    | with_reducible apply keeps_snapGo
    | with_reducible apply keeps_fset
    | with_reducible refine keeps_ite ?_ ?_
    | with_reducible refine ckeeps_ite ?_ ?_
    | with_reducible exact ckeeps_no
    | with_reducible apply ckeeps_ok
    | with_reducible apply ckeeps_cut
    | with_reducible apply ckeeps_wait)

theorem keeps_timeGetDo {a : State} {s : State} (hs : Keeps a s) :
    CKeeps a (timeGetDo s) := by
  unfold timeGetDo
  try dsimp only
  repeat' (first
    | with_reducible assumption
    | with_reducible exact ckeeps_no
    | with_reducible apply ckeeps_ok
    | with_reducible apply ckeeps_cut
    | with_reducible apply ckeeps_wait)

theorem keeps_timeSetDo {a : State} {sid : Nat} {seq : Nat} {b : List Byte} {s : State} (hs : Keeps a s) :
    CKeeps a (timeSetDo sid seq b s) := by
  unfold timeSetDo
  try dsimp only
  repeat' (first
    | with_reducible assumption
    | with_reducible apply keeps_wrI
    | with_reducible apply keeps_harness
    | with_reducible apply keeps_viaReg
    | with_reducible refine keeps_ite ?_ ?_
    | with_reducible refine ckeeps_ite ?_ ?_
    | with_reducible exact ckeeps_no
    | with_reducible apply ckeeps_ok
    | with_reducible apply ckeeps_cut
    | with_reducible apply ckeeps_wait
    | split
    | with_reducible refine keeps_of_cok ?_ ‹_ = CRes.ok _ _›
    | with_reducible refine keeps_of_ccut ?_ ‹_ = CRes.cut _ _ _›
    | with_reducible refine keeps_of_cwait ?_ ‹_ = CRes.wait _›
    | with_reducible apply keeps_upd')

theorem keeps_freqSetDo {a : State} {b : List Byte} {s : State} (hs : Keeps a s) :
    CKeeps a (freqSetDo b s) := by
  unfold freqSetDo
  try dsimp only
  repeat' (first
    | with_reducible assumption
    | with_reducible apply keeps_viaReg
    | with_reducible refine keeps_ite ?_ ?_
    | with_reducible refine ckeeps_ite ?_ ?_
    | with_reducible exact ckeeps_no
    | with_reducible apply ckeeps_ok
    | with_reducible apply ckeeps_cut
    | with_reducible apply ckeeps_wait)

theorem keeps_slewDo {a : State} {b : List Byte} {s : State} (hs : Keeps a s) :
    CKeeps a (slewDo b s) := by
  unfold slewDo
  try dsimp only
  repeat' (first
    | with_reducible assumption
    | with_reducible apply keeps_viaReg
    | with_reducible refine keeps_ite ?_ ?_
    | with_reducible refine ckeeps_ite ?_ ?_
    | with_reducible exact ckeeps_no
    | with_reducible apply ckeeps_ok
    | with_reducible apply ckeeps_cut
    | with_reducible apply ckeeps_wait
    | split
    | with_reducible refine keeps_of_cok ?_ ‹_ = CRes.ok _ _›
    | with_reducible refine keeps_of_ccut ?_ ‹_ = CRes.cut _ _ _›
    | with_reducible refine keeps_of_cwait ?_ ‹_ = CRes.wait _›
    | with_reducible apply keeps_upd')

theorem keeps_leapSetDo {a : State} {b : List Byte} {s : State} (hs : Keeps a s) :
    CKeeps a (leapSetDo b s) := by
  unfold leapSetDo
  try dsimp only
  repeat' (first
    | with_reducible assumption
    | with_reducible apply keeps_viaReg
    | with_reducible refine keeps_ite ?_ ?_
    | with_reducible refine ckeeps_ite ?_ ?_
    | with_reducible exact ckeeps_no
    | with_reducible apply ckeeps_ok
    | with_reducible apply ckeeps_cut
    | with_reducible apply ckeeps_wait
    | split
    | with_reducible refine keeps_of_cok ?_ ‹_ = CRes.ok _ _›
    | with_reducible refine keeps_of_ccut ?_ ‹_ = CRes.cut _ _ _›
    | with_reducible refine keeps_of_cwait ?_ ‹_ = CRes.wait _›
    | with_reducible apply keeps_upd')

theorem keeps_refCmdDo {a : State} {b : List Byte} {s : State} (hs : Keeps a s) :
    CKeeps a (refCmdDo b s) := by
  unfold refCmdDo
  try dsimp only
  repeat' (first
    | with_reducible assumption
    | with_reducible apply keeps_viaReg
    | with_reducible refine keeps_ite ?_ ?_
    | with_reducible refine ckeeps_ite ?_ ?_
    | with_reducible exact ckeeps_no
    | with_reducible apply ckeeps_ok
    | with_reducible apply ckeeps_cut
    | with_reducible apply ckeeps_wait)

theorem keeps_refStatusDo {a : State} {s : State} (hs : Keeps a s) :
    CKeeps a (refStatusDo s) := by
  unfold refStatusDo
  try dsimp only
  repeat' (first
    | with_reducible assumption
    | with_reducible apply keeps_harness
    | with_reducible exact ckeeps_no
    | with_reducible apply ckeeps_ok
    | with_reducible apply ckeeps_cut
    | with_reducible apply ckeeps_wait)

theorem keeps_ntsKeyDo {a : State} {b : List Byte} {s : State} (hs : Keeps a s) :
    CKeeps a (ntsKeyDo b s) := by
  unfold ntsKeyDo
  try dsimp only
  repeat' (first
    | with_reducible assumption
    | with_reducible apply keeps_viaReg
    | with_reducible refine keeps_ite ?_ ?_
    | with_reducible refine ckeeps_ite ?_ ?_
    | with_reducible exact ckeeps_no
    | with_reducible apply ckeeps_ok
    | with_reducible apply ckeeps_cut
    | with_reducible apply ckeeps_wait)

theorem keeps_ptpCancelDo {a : State} {b : List Byte} {s : State} (hs : Keeps a s) :
    CKeeps a (ptpCancelDo b s) := by
  unfold ptpCancelDo
  try dsimp only
  repeat' (first
    | with_reducible assumption
    | (with_reducible refine keeps_forEach (fun _ _ _ => ?_) ?_)
    | with_reducible apply keeps_grantCancel
    | with_reducible refine keeps_ite ?_ ?_
    | with_reducible refine ckeeps_ite ?_ ?_
    | with_reducible exact ckeeps_no
    | with_reducible apply ckeeps_ok
    | with_reducible apply ckeeps_cut
    | with_reducible apply ckeeps_wait
    | split
    | with_reducible apply keeps_upd')

theorem keeps_gnssSnapDo {a : State} {b : List Byte} {s : State} (hs : Keeps a s) :
    CKeeps a (gnssSnapDo b s) := by
  unfold gnssSnapDo
  try dsimp only
  repeat' (first
    | with_reducible assumption
    | with_reducible apply keeps_viaReg
    | with_reducible refine keeps_ite ?_ ?_
    | with_reducible refine ckeeps_ite ?_ ?_
    | with_reducible exact ckeeps_no
    | with_reducible apply ckeeps_ok
    | with_reducible apply ckeeps_cut
    | with_reducible apply ckeeps_wait
    | split
    | with_reducible refine keeps_of_cok ?_ ‹_ = CRes.ok _ _›
    | with_reducible refine keeps_of_ccut ?_ ‹_ = CRes.cut _ _ _›
    | with_reducible refine keeps_of_cwait ?_ ‹_ = CRes.wait _›
    | with_reducible apply keeps_upd')

theorem keeps_bitCmd {a : State} {a0 : Nat} {f : Fld} {s : State} (hs : Keeps a s) :
    CKeeps a (bitCmd a0 f s) := by
  unfold bitCmd
  try dsimp only
  repeat' (first
    | with_reducible assumption
    | with_reducible apply keeps_viaReg
    | with_reducible exact ckeeps_no
    | with_reducible apply ckeeps_ok
    | with_reducible apply ckeeps_cut
    | with_reducible apply ckeeps_wait)

theorem keeps_belayFrameDo {a : State} {b : List Byte} {s : State} (hs : Keeps a s) :
    CKeeps a (belayFrameDo b s) := by
  unfold belayFrameDo
  try dsimp only
  repeat' (first
    | with_reducible assumption
    | with_reducible apply keeps_belaySend
    | with_reducible refine keeps_ite ?_ ?_
    | with_reducible refine ckeeps_ite ?_ ?_
    | with_reducible exact ckeeps_no
    | with_reducible apply ckeeps_ok
    | with_reducible apply ckeeps_cut
    | with_reducible apply ckeeps_wait)

theorem keeps_nvmStart {a : State} {sid : Nat} {kind : Nat} {off : Nat} {n : Nat} {data : List Byte} {s : State} (hs : Keeps a s) :
    Keeps a (nvmStart sid kind off n data s) := by
  unfold nvmStart
  try dsimp only
  repeat' (first
    | with_reducible assumption
    | (with_reducible refine keeps_forEach (fun _ _ _ => ?_) ?_)
    | with_reducible apply keeps_fsetB
    | with_reducible refine keeps_ite ?_ ?_
    | with_reducible apply keeps_upd)

theorem keeps_nvmReadDo {a : State} {b : List Byte} {s : State} (hs : Keeps a s) :
    CKeeps a (nvmReadDo b s) := by
  unfold nvmReadDo
  try dsimp only
  repeat' (first
    | with_reducible assumption
    | with_reducible refine keeps_ite ?_ ?_
    | with_reducible refine ckeeps_ite ?_ ?_
    | with_reducible exact ckeeps_no
    | with_reducible apply ckeeps_ok
    | with_reducible apply ckeeps_cut
    | with_reducible apply ckeeps_wait)

theorem keeps_nvmChangeDo {a : State} {sid : Nat} {kind : Nat} {b : List Byte} {s : State} (hs : Keeps a s) :
    CKeeps a (nvmChangeDo sid kind b s) := by
  unfold nvmChangeDo
  try dsimp only
  repeat' (first
    | with_reducible assumption
    | with_reducible apply keeps_nvmStart
    | with_reducible refine keeps_ite ?_ ?_
    | with_reducible refine ckeeps_ite ?_ ?_
    | with_reducible exact ckeeps_no
    | with_reducible apply ckeeps_ok
    | with_reducible apply ckeeps_cut
    | with_reducible apply ckeeps_wait)

theorem keeps_nvmVerifyDo {a : State} {sid : Nat} {b : List Byte} {s : State} (hs : Keeps a s) :
    CKeeps a (nvmVerifyDo sid b s) := by
  unfold nvmVerifyDo
  try dsimp only
  repeat' (first
    | with_reducible assumption
    | with_reducible apply keeps_nvmStart
    | with_reducible refine keeps_ite ?_ ?_
    | with_reducible refine ckeeps_ite ?_ ?_
    | with_reducible exact ckeeps_no
    | with_reducible apply ckeeps_ok
    | with_reducible apply ckeeps_cut
    | with_reducible apply ckeeps_wait)

theorem keeps_nvmActivateDo {a : State} {b : List Byte} {s : State} (hs : Keeps a s) :
    CKeeps a (nvmActivateDo b s) := by
  unfold nvmActivateDo
  try dsimp only
  repeat' (first
    | with_reducible assumption
    | with_reducible apply keeps_prefShow
    | with_reducible apply keeps_jAppend
    | with_reducible refine keeps_ite ?_ ?_
    | with_reducible refine ckeeps_ite ?_ ?_
    | with_reducible exact ckeeps_no
    | with_reducible apply ckeeps_ok
    | with_reducible apply ckeeps_cut
    | with_reducible apply ckeeps_wait)

theorem keeps_restartDo {a : State} {s : State} (hs : Keeps a s) :
    CKeeps a (restartDo s) := by
  unfold restartDo
  try dsimp only
  repeat' (first
    | with_reducible assumption
    | with_reducible refine keeps_ite ?_ ?_
    | with_reducible refine ckeeps_ite ?_ ?_
    | with_reducible exact ckeeps_no
    | with_reducible apply ckeeps_ok
    | with_reducible apply ckeeps_cut
    | with_reducible apply ckeeps_wait)

theorem keeps_bivReleaseDo {a : State} {b : List Byte} {s : State} (hs : Keeps a s) :
    CKeeps a (bivReleaseDo b s) := by
  unfold bivReleaseDo
  try dsimp only
  repeat' (first
    | with_reducible assumption
    | with_reducible apply keeps_restartDo
    | with_reducible refine keeps_ite ?_ ?_
    | with_reducible refine ckeeps_ite ?_ ?_
    | with_reducible exact ckeeps_no
    | with_reducible apply ckeeps_ok
    | with_reducible apply ckeeps_cut
    | with_reducible apply ckeeps_wait)

theorem keeps_otpOwnerDo {a : State} {b : List Byte} {s : State} (hs : Keeps a s) :
    CKeeps a (otpOwnerDo b s) := by
  unfold otpOwnerDo
  split
  · exact ckeeps_no
  · rename_i c
    refine ckeeps_ok (keeps_fsetB (keeps_fsetB (keeps_fsetB (Keeps_trans hs ?_))))
    exact ⟨rfl, rfl, List.suffix_refl _, Nat.le_refl _, fun x => absurd x c,
      fun k => ⟨k.mem, k.regs, k.initRegs, k.busOut, k.flash, k.gate, k.ports, k.refs, k.refUp, k.tic, k.outs, k.trigs, k.nts,
        k.tod, k.ctx, k.q, k.live, k.keys, k.sketch, k.grants, k.conns, k.units, k.bad, k.log⟩⟩

theorem keeps_cntSnapDo {a : State} {b : List Byte} {s : State} (hs : Keeps a s) :
    CKeeps a (cntSnapDo b s) := by
  unfold cntSnapDo
  try dsimp only
  repeat' (first
    | with_reducible assumption
    | with_reducible apply keeps_cntMeet
    | with_reducible apply keeps_cntSnap
    | with_reducible refine keeps_ite ?_ ?_
    | with_reducible refine ckeeps_ite ?_ ?_
    | with_reducible exact ckeeps_no
    | with_reducible apply ckeeps_ok
    | with_reducible apply ckeeps_cut
    | with_reducible apply ckeeps_wait)

theorem keeps_cntReadDo {a : State} {b : List Byte} {s : State} (hs : Keeps a s) :
    CKeeps a (cntReadDo b s) := by
  unfold cntReadDo
  try dsimp only
  repeat' (first
    | with_reducible assumption
    | with_reducible apply keeps_cntMeet
    | with_reducible refine keeps_ite ?_ ?_
    | with_reducible refine ckeeps_ite ?_ ?_
    | with_reducible exact ckeeps_no
    | with_reducible apply ckeeps_ok
    | with_reducible apply ckeeps_cut
    | with_reducible apply ckeeps_wait)

theorem keeps_logLook {a : State} {h : Nat} {f : Nat} {n : Nat} {s : State} (hs : Keeps a s) :
    CKeeps a (logLook h f n s) := by
  unfold logLook
  try dsimp only
  repeat' (first
    | with_reducible assumption
    | with_reducible apply keeps_cairnMeet
    | with_reducible exact ckeeps_no
    | with_reducible apply ckeeps_ok
    | with_reducible apply ckeeps_cut
    | with_reducible apply ckeeps_wait)

theorem keeps_logReadDo {a : State} {b : List Byte} {s : State} (hs : Keeps a s) :
    CKeeps a (logReadDo b s) := by
  unfold logReadDo
  dsimp only
  with_reducible refine ckeeps_ite ?_ ?_
  · with_reducible exact ckeeps_no
  · with_reducible refine ckeeps_ite ?_ ?_
    · with_reducible exact ckeeps_no
    · with_reducible exact keeps_logLook hs

theorem keeps_dumpCfgDo {a : State} {b : List Byte} {s : State} (hs : Keeps a s) :
    CKeeps a (dumpCfgDo b s) := by
  unfold dumpCfgDo
  try dsimp only
  repeat' (first
    | with_reducible assumption
    | with_reducible apply keeps_refusalOf
    | with_reducible apply keeps_harness
    | with_reducible apply keeps_regApply
    | with_reducible refine keeps_foldl _ (fun _ _ _ => ?_) _ ?_
    | with_reducible refine keeps_foldl_pair _ (fun _ _ _ => ?_) _ ?_
    | with_reducible exact ckeeps_no
    | with_reducible apply ckeeps_ok
    | with_reducible apply ckeeps_cut
    | with_reducible apply ckeeps_wait
    | with_reducible refine okeeps_findSome (fun _ => ?_) _
    | with_reducible apply ckeeps_getD
    | with_reducible refine ockeeps_bind (fun _ => ?_)
    | with_reducible refine ockeeps_findSome (fun _ => ?_) _
    | with_reducible apply keeps_getD
    | split
    | with_reducible refine ckeeps_of_some ?_ ‹_ = some _›
    | with_reducible apply keeps_upd')

theorem keeps_closeDo {a : State} {sid : Nat} {b : List Byte} {s : State} (hs : Keeps a s) :
    CKeeps a (closeDo sid b s) := by
  unfold closeDo
  try dsimp only
  repeat' (first
    | with_reducible assumption
    | with_reducible apply keeps_sessionEnd
    | with_reducible refine keeps_ite ?_ ?_
    | with_reducible refine ckeeps_ite ?_ ?_
    | with_reducible exact ckeeps_no
    | with_reducible apply ckeeps_ok
    | with_reducible apply ckeeps_cut
    | with_reducible apply ckeeps_wait)

theorem keeps_subscribeDo {a : State} {sid : Nat} {b : List Byte} {s : State} (hs : Keeps a s) :
    CKeeps a (subscribeDo sid b s) := by
  unfold subscribeDo
  try dsimp only
  repeat' (first
    | with_reducible assumption
    | with_reducible apply keeps_sessionSet
    | with_reducible exact ckeeps_no
    | with_reducible apply ckeeps_ok
    | with_reducible apply ckeeps_cut
    | with_reducible apply ckeeps_wait
    | split
    | with_reducible apply keeps_upd')

theorem keeps_sessionsDo {a : State} {s : State} (hs : Keeps a s) :
    CKeeps a (sessionsDo s) := by
  unfold sessionsDo
  try dsimp only
  repeat' (first
    | with_reducible assumption
    | with_reducible exact ckeeps_no
    | with_reducible apply ckeeps_ok
    | with_reducible apply ckeeps_cut
    | with_reducible apply ckeeps_wait)

theorem keeps_regpathBindDo {a : State} {sid : Nat} {tid : List Byte} {s : State} (hs : Keeps a s) :
    CKeeps a (regpathBindDo sid tid s) := by
  unfold regpathBindDo
  try dsimp only
  repeat' (first
    | with_reducible assumption
    | with_reducible apply keeps_fset
    | with_reducible refine keeps_ite ?_ ?_
    | with_reducible refine ckeeps_ite ?_ ?_
    | with_reducible exact ckeeps_no
    | with_reducible apply ckeeps_ok
    | with_reducible apply ckeeps_cut
    | with_reducible apply ckeeps_wait)

theorem keeps_cmdLow {a : State} {cmd : Nat} {sid : Nat} {role : Nat} {tid : List Byte} {b : List Byte} {s : State} (hs : Keeps a s) :
    CKeeps a (cmdLow cmd sid role tid b s) := by
  unfold cmdLow
  try dsimp only
  repeat' (first
    | with_reducible assumption
    | with_reducible apply keeps_closeDo
    | with_reducible apply keeps_subscribeDo
    | with_reducible apply keeps_sessionsDo
    | with_reducible apply keeps_regpathBindDo
    | with_reducible apply keeps_regReadDo
    | with_reducible apply keeps_regWriteDo
    | with_reducible apply keeps_memReadDo
    | with_reducible apply keeps_memWriteDo
    | with_reducible apply keeps_tblCfgDo
    | with_reducible apply keeps_tblPutDo
    | with_reducible apply keeps_tblDelDo
    | with_reducible apply keeps_tblFlipDo
    | with_reducible apply keeps_topoLoadDo
    | with_reducible apply keeps_topoSwapDo
    | with_reducible apply keeps_ctxSnapDo
    | with_reducible exact ckeeps_no
    | with_reducible apply ckeeps_ok
    | with_reducible apply ckeeps_cut
    | with_reducible apply ckeeps_wait
    | split
    | with_reducible refine keeps_of_cok ?_ ‹_ = CRes.ok _ _›
    | with_reducible refine keeps_of_ccut ?_ ‹_ = CRes.cut _ _ _›
    | with_reducible refine keeps_of_cwait ?_ ‹_ = CRes.wait _›
    | with_reducible apply keeps_upd')

theorem keeps_cmdMid {a : State} {cmd : Nat} {sid : Nat} {seq : Nat} {b : List Byte} {s : State} (hs : Keeps a s) :
    CKeeps a (cmdMid cmd sid seq b s) := by
  unfold cmdMid
  try dsimp only
  repeat' (first
    | with_reducible assumption
    | with_reducible apply keeps_timeGetDo
    | with_reducible apply keeps_timeSetDo
    | with_reducible apply keeps_freqSetDo
    | with_reducible apply keeps_slewDo
    | with_reducible apply keeps_leapSetDo
    | with_reducible apply keeps_refCmdDo
    | with_reducible apply keeps_refStatusDo
    | with_reducible apply keeps_mirrored
    | with_reducible apply keeps_svcAddrDo
    | with_reducible apply keeps_ntpProfDo
    | with_reducible apply keeps_ntsKeyDo
    | with_reducible apply keeps_keIdentDo
    | with_reducible apply keeps_ptpCancelDo
    | with_reducible apply keeps_gnssSnapDo
    | with_reducible apply keeps_bitCmd
    | with_reducible apply keeps_viaReg
    | with_reducible apply keeps_belayFrameDo
    | with_reducible exact ckeeps_no
    | with_reducible apply ckeeps_ok
    | with_reducible apply ckeeps_cut
    | with_reducible apply ckeeps_wait
    | split
    | with_reducible refine keeps_of_cok ?_ ‹_ = CRes.ok _ _›
    | with_reducible refine keeps_of_ccut ?_ ‹_ = CRes.cut _ _ _›
    | with_reducible refine keeps_of_cwait ?_ ‹_ = CRes.wait _›
    | intro _
    | with_reducible apply keeps_upd')

theorem keeps_cmdHigh {a : State} {cmd : Nat} {sid : Nat} {b : List Byte} {s : State} (hs : Keeps a s) :
    CKeeps a (cmdHigh cmd sid b s) := by
  unfold cmdHigh
  try dsimp only
  repeat' (first
    | with_reducible assumption
    | with_reducible apply keeps_nvmReadDo
    | with_reducible apply keeps_nvmChangeDo
    | with_reducible apply keeps_nvmVerifyDo
    | with_reducible apply keeps_nvmActivateDo
    | with_reducible apply keeps_restartDo
    | with_reducible apply keeps_bivReleaseDo
    | with_reducible apply keeps_otpOwnerDo
    | with_reducible apply keeps_restEnter
    | with_reducible apply keeps_restExit
    | with_reducible apply keeps_cntSnapDo
    | with_reducible apply keeps_cntReadDo
    | with_reducible apply keeps_logReadDo
    | with_reducible apply keeps_dumpCfgDo
    | with_reducible exact ckeeps_no
    | with_reducible apply ckeeps_ok
    | with_reducible apply ckeeps_cut
    | with_reducible apply ckeeps_wait
    | split
    | with_reducible refine keeps_of_cok ?_ ‹_ = CRes.ok _ _›
    | with_reducible refine keeps_of_ccut ?_ ‹_ = CRes.cut _ _ _›
    | with_reducible refine keeps_of_cwait ?_ ‹_ = CRes.wait _›
    | with_reducible apply keeps_upd')

theorem keeps_cmdDo {a : State} {cmd : Nat} {sid : Nat} {seq : Nat} {role : Nat} {tid : List Byte} {b : List Byte} {s : State} (hs : Keeps a s) :
    CKeeps a (cmdDo cmd sid seq role tid b s) := by
  unfold cmdDo
  try dsimp only
  repeat' (first
    | with_reducible assumption
    | with_reducible apply keeps_cmdLow
    | with_reducible apply keeps_cmdMid
    | with_reducible apply keeps_cmdHigh
    | with_reducible refine keeps_ite ?_ ?_
    | with_reducible refine ckeeps_ite ?_ ?_
    | with_reducible exact ckeeps_no
    | with_reducible apply ckeeps_ok
    | with_reducible apply ckeeps_cut
    | with_reducible apply ckeeps_wait)

end Sys2Proof.Laws
end

