-- ==== Sys2Proof/Laws/KeepsHarness.lean ====
section
/-!
SUPPORT. Laws/KeepsHarness.lean: the functions of Machine/Harness.lean keep what every command keeps (Keeps of Safety.lean).
-/
namespace Sys2Proof.Laws
open Sys2Proof Sys2Proof.Machine

set_option linter.unusedTactic false
set_option linter.unreachableTactic false
set_option linter.unusedVariables false

theorem keeps_harRefused {a : State} {cmd : Nat} {sid : Nat} {status : Nat} {state : Nat} {s : State} (hs : Keeps a s) :
    Keeps a (harRefused cmd sid status state s) := by
  unfold harRefused
  try dsimp only
  repeat' (first
    | with_reducible assumption
    | with_reducible apply keeps_bump
    | with_reducible apply keeps_cairn
    | with_reducible refine keeps_ite ?_ ?_)

theorem keeps_harAnswer {a : State} {sid : Nat} {req : List Byte} {status : Nat} {state : Nat} {body : List Byte} {s : State} (hs : Keeps a s) :
    Keeps a (harAnswer sid req status state body s) := by
  unfold harAnswer
  try dsimp only
  repeat' (first
    | with_reducible assumption
    | with_reducible apply keeps_harSend
    | with_reducible apply keeps_harRefused
    | with_reducible apply keeps_sessionSet
    | with_reducible refine keeps_ite ?_ ?_
    | split
    | with_reducible apply keeps_upd')

theorem keeps_harCheck {a : State} {x : Session} {req : List Byte} {s : State} (hs : Keeps a s) :
    CKeeps a (harCheck x req s) := by
  unfold harCheck
  try dsimp only
  repeat' (first
    | with_reducible assumption
    | with_reducible apply keeps_cmdDo
    | with_reducible refine keeps_ite ?_ ?_
    | with_reducible refine ckeeps_ite ?_ ?_
    | with_reducible exact ckeeps_no
    | with_reducible apply ckeeps_ok
    | with_reducible apply ckeeps_cut
    | with_reducible apply ckeeps_wait
    | split
    | with_reducible refine keeps_of_cok ?_ ‹_ = CRes.ok _ _›
    | with_reducible refine keeps_of_ccut ?_ ‹_ = CRes.cut _ _ _›
    | with_reducible refine keeps_of_cwait ?_ ‹_ = CRes.wait _›
    | with_reducible apply keeps_upd')

theorem keeps_harAfter {a : State} {sid : Nat} {req : List Byte} {s : State} (hs : Keeps a s) :
    Keeps a (harAfter sid req s) := by
  unfold harAfter
  try dsimp only
  repeat' (first
    | with_reducible assumption
    | with_reducible apply keeps_sessionClose
    | with_reducible apply keeps_harnessRestart
    | with_reducible apply keeps_bivRelease
    | with_reducible refine keeps_ite ?_ ?_
    | split
    | with_reducible apply keeps_upd')

theorem keeps_harExec {a : State} {sid : Nat} {req : List Byte} {s : State} (hs : Keeps a s) :
    Keeps a (harExec sid req s) := by
  unfold harExec
  try dsimp only
  repeat' (first
    | with_reducible assumption
    | with_reducible apply keeps_harCheck
    | with_reducible apply keeps_harAnswer
    | with_reducible apply keeps_harAfter
    | with_reducible apply keeps_sessionSet
    | with_reducible refine keeps_ite ?_ ?_
    | split
    | with_reducible exact ckeeps_no
    | with_reducible apply ckeeps_ok
    | with_reducible apply ckeeps_cut
    | with_reducible apply ckeeps_wait
    | with_reducible refine keeps_of_cok ?_ ‹_ = CRes.ok _ _›
    | with_reducible refine keeps_of_ccut ?_ ‹_ = CRes.cut _ _ _›
    | with_reducible refine keeps_of_cwait ?_ ‹_ = CRes.wait _›
    | with_reducible apply keeps_upd')

theorem keeps_harDrain {a : State} {sid : Nat} {x0 : Nat} {x1 : State} (hx1 : Keeps a x1) :
    Keeps a (harDrain sid x0 x1) := by
  induction x0 generalizing x1 with
  | zero =>
    unfold harDrain
    try dsimp only
    repeat' (first
      | with_reducible assumption
      | fail
      | with_reducible apply keeps_harExec
      | with_reducible apply keeps_sessionSet
      | with_reducible refine keeps_ite ?_ ?_
      | split
      | with_reducible apply keeps_upd')
  | succ n ih =>
    unfold harDrain
    try dsimp only
    repeat' (first
      | with_reducible assumption
      | with_reducible apply ih
      | with_reducible apply keeps_harExec
      | with_reducible apply keeps_sessionSet
      | with_reducible refine keeps_ite ?_ ?_
      | split
      | with_reducible apply keeps_upd')

theorem keeps_harLate {a : State} {sid : Nat} {status : Nat} {state : Nat} {body : List Byte} {s : State} (hs : Keeps a s) :
    Keeps a (harLate sid status state body s) := by
  unfold harLate
  try dsimp only
  repeat' (first
    | with_reducible assumption
    | with_reducible apply keeps_harDrain
    | with_reducible apply keeps_harAnswer
    | split
    | with_reducible apply keeps_upd')

theorem keeps_harLateAll {a : State} {cmd : Nat} {status : Nat} {state : Nat} {body : List Byte} {s : State} (hs : Keeps a s) :
    Keeps a (harLateAll cmd status state body s) := by
  unfold harLateAll
  try dsimp only
  repeat' (first
    | with_reducible assumption
    | with_reducible apply keeps_harLate
    | with_reducible refine keeps_foldl _ (fun _ _ _ => ?_) _ ?_
    | with_reducible refine keeps_foldl_pair _ (fun _ _ _ => ?_) _ ?_)

theorem keeps_harWake {a : State} {s : State} (hs : Keeps a s) :
    Keeps a (harWake s) := by
  unfold harWake
  try dsimp only
  repeat' (first
    | with_reducible assumption
    | with_reducible apply keeps_harLateAll
    | with_reducible refine keeps_ite ?_ ?_)

theorem keeps_harDrop {a : State} {s : State} (hs : Keeps a s) :
    Keeps a (harDrop s) := by
  unfold harDrop
  try dsimp only
  repeat' (first
    | with_reducible assumption
    | with_reducible apply keeps_bump)

theorem keeps_harPlain {a : State} {tid : List Byte} {key : List Byte} {sid : Nat} {seq : Nat} {cmd : Nat} {status : Nat} {body : List Byte} {s : State} (hs : Keeps a s) :
    Keeps a (harPlain tid key sid seq cmd status body s) := by
  unfold harPlain
  try dsimp only
  repeat' (first
    | with_reducible assumption
    | with_reducible apply keeps_harSend
    | with_reducible apply keeps_harRefused)

theorem keeps_sidDraw {a : State} {x0 : Nat} {x1 : State} (hx1 : Keeps a x1) :
    Keeps a (sidDraw x0 x1).2 := by
  induction x0 generalizing x1 with
  | zero =>
    unfold sidDraw
    try dsimp only
    repeat' (first
      | with_reducible assumption
      | fail
      | with_reducible apply keeps_draw
      | with_reducible refine keeps_ite ?_ ?_
      | with_reducible refine keeps_ite_snd ?_ ?_
      | with_reducible apply keeps_getD
      | split)
  | succ n ih =>
    unfold sidDraw
    try dsimp only
    repeat' (first
      | with_reducible assumption
      | with_reducible apply ih
      | with_reducible apply keeps_draw
      | with_reducible refine keeps_ite ?_ ?_
      | with_reducible refine keeps_ite_snd ?_ ?_
      | with_reducible apply keeps_getD
      | split)

theorem keeps_lockSet {a : State} {t : Nat} {b : Bool} {s : State} (hs : Keeps a s) :
    Keeps a (lockSet t b s) := by
  unfold lockSet
  try dsimp only
  repeat' (first
    | with_reducible assumption
    | with_reducible apply keeps_setLevel
    | with_reducible apply keeps_fset
    | with_reducible refine keeps_ite ?_ ?_)

theorem keeps_authFail {a : State} {t : Nat} {s : State} (hs : Keeps a s) :
    Keeps a (authFail t s) := by
  unfold authFail
  try dsimp only
  repeat' (first
    | with_reducible assumption
    | with_reducible apply keeps_raiseOnce
    | with_reducible apply keeps_bump
    | with_reducible apply keeps_lockSet
    | with_reducible apply keeps_cairnFault
    | with_reducible apply keeps_harShow
    | with_reducible refine keeps_ite ?_ ?_
    | with_reducible apply keeps_upd')

theorem keeps_openDo {a : State} {tid : List Byte} {req : List Byte} {s : State} (hs : Keeps a s) :
    Keeps a (openDo tid req s) := by
  unfold openDo
  try dsimp only
  repeat' (first
    | with_reducible assumption
    | with_reducible apply keeps_harPlain
    | with_reducible apply keeps_drawBytes
    | with_reducible apply keeps_sidDraw
    | with_reducible apply keeps_harShow
    | with_reducible refine keeps_ite ?_ ?_
    | with_reducible apply keeps_upd')

theorem keeps_proveDo {a : State} {h : Handshake} {req : List Byte} {s0 : State} (hs0 : Keeps a s0) :
    Keeps a (proveDo h req s0) := by
  unfold proveDo
  try dsimp only
  repeat' (first
    | with_reducible assumption
    | with_reducible apply keeps_harPlain
    | with_reducible apply keeps_keyMeet
    | with_reducible apply keeps_authFail
    | with_reducible apply keeps_keyGone
    | with_reducible apply keeps_sidDraw
    | with_reducible apply keeps_harShow
    | with_reducible apply keeps_occur
    | with_reducible apply keeps_bump
    | with_reducible refine keeps_ite ?_ ?_
    | split
    | with_reducible refine keeps_of_pair ?_ ‹_ = (_, _)›
    | with_reducible apply keeps_upd')

theorem keeps_requestDo {a : State} {x : Session} {req : List Byte} {s : State} (hs : Keeps a s) :
    Keeps a (requestDo x req s) := by
  unfold requestDo
  try dsimp only
  repeat' (first
    | with_reducible assumption
    | with_reducible apply keeps_harSend
    | with_reducible apply keeps_harRefused
    | with_reducible apply keeps_bump
    | with_reducible apply keeps_sessionSet
    | with_reducible apply keeps_harExec
    | with_reducible refine keeps_ite ?_ ?_
    | split
    | with_reducible apply keeps_upd')

theorem keeps_harness {a : State} {tid : List Byte} {msg : List Byte} {s0 : State} (hs0 : Keeps a s0) :
    Keeps a (harness tid msg s0) := by
  unfold harness
  try dsimp only
  repeat' (first
    | with_reducible assumption
    | with_reducible apply keeps_harDrop
    | with_reducible apply keeps_harWake
    | with_reducible apply keeps_raiseOnce
    | with_reducible apply keeps_bump
    | with_reducible apply keeps_requestDo
    | with_reducible apply keeps_openDo
    | with_reducible apply keeps_proveDo
    | with_reducible apply keeps_harPlain
    | with_reducible refine keeps_ite ?_ ?_
    | split
    | with_reducible apply keeps_upd')

theorem keeps_harRow {a : State} {cmd : Nat} {tid : List Byte} {msg : List Byte} {s : State} (hs : Keeps a s) :
    Keeps a (harRow cmd tid msg s) := by
  unfold harRow
  try dsimp only
  repeat' (first
    | with_reducible assumption
    | with_reducible apply keeps_harness
    | with_reducible refine keeps_ite ?_ ?_)

theorem keeps_shakeExpire {a : State} {hid : Nat} {s : State} (hs : Keeps a s) :
    Keeps a (shakeExpire hid s) := by
  unfold shakeExpire
  try dsimp only
  repeat' (first
    | with_reducible assumption
    | with_reducible apply keeps_harShow
    | with_reducible apply keeps_upd')

theorem keeps_lockExpire {a : State} {t : Nat} {s : State} (hs : Keeps a s) :
    Keeps a (lockExpire t s) := by
  unfold lockExpire
  try dsimp only
  repeat' (first
    | with_reducible assumption
    | with_reducible apply keeps_lockSet
    | with_reducible apply keeps_upd')

theorem keeps_nvmComplete {a : State} {ok : Bool} {left : List Byte} {s : State} (hs : Keeps a s) :
    Keeps a (nvmComplete ok left s) := by
  unfold nvmComplete
  try dsimp only
  repeat' (first
    | with_reducible assumption
    | with_reducible apply keeps_harLate
    | with_reducible apply keeps_fsetB
    | with_reducible apply keeps_flashStore
    | with_reducible apply keeps_flashErase
    | with_reducible apply keeps_flashProgram
    | with_reducible refine keeps_ite ?_ ?_
    | split
    | with_reducible apply keeps_upd)

theorem keeps_pageRewrite {a : State} {s : State} (hs : Keeps a s) :
    Keeps a (pageRewrite s) := by
  unfold pageRewrite
  try dsimp only
  repeat' (first
    | with_reducible assumption
    | with_reducible apply keeps_upd')

theorem keeps_ringSetup {a : State} {k : Nat} {u : RingSetup} {s : State} (hs : Keeps a s) :
    Keeps a (ringSetup k u s) := by
  unfold ringSetup
  try dsimp only
  repeat' (first
    | with_reducible assumption
    | with_reducible apply keeps_ringSet
    | with_reducible refine keeps_ite ?_ ?_
    | with_reducible apply keeps_upd')

theorem keeps_ringReq {a : State} {k : Nat} {prod : Nat} {u : Option RingSetup} {msgs : List (List Byte)} {s : State} (hs : Keeps a s) :
    Keeps a (ringReq k prod u msgs s) := by
  unfold ringReq
  try dsimp only
  repeat' (first
    | with_reducible assumption
    | with_reducible apply keeps_ringSetup
    | with_reducible apply keeps_ringSet
    | with_reducible apply keeps_harness
    | with_reducible refine keeps_foldl _ (fun _ _ _ => ?_) _ ?_
    | with_reducible refine keeps_foldl_pair _ (fun _ _ _ => ?_) _ ?_
    | with_reducible refine keeps_ite ?_ ?_
    | split
    | with_reducible apply keeps_upd')

theorem keeps_ringRsp {a : State} {k : Nat} {cons : Nat} {bufs : List (Nat × Nat)} {s : State} (hs : Keeps a s) :
    Keeps a (ringRsp k cons bufs s) := by
  unfold ringRsp
  try dsimp only
  repeat' (first
    | with_reducible assumption
    | with_reducible apply keeps_ringFill
    | with_reducible apply keeps_ringSet
    | with_reducible apply keeps_upd')

theorem keeps_ringTimeout {a : State} {k : Nat} {s : State} (hs : Keeps a s) :
    Keeps a (ringTimeout k s) := by
  unfold ringTimeout
  try dsimp only
  repeat' (first
    | with_reducible assumption
    | with_reducible apply keeps_ringSet
    | with_reducible apply keeps_ntfLost
    | with_reducible refine keeps_ite ?_ ?_
    | split
    | with_reducible apply keeps_upd')

theorem keeps_hspiRead {a : State} {s : State} (hs : Keeps a s) :
    Keeps a (hspiRead s) := by
  unfold hspiRead
  try dsimp only
  repeat' (first
    | with_reducible assumption
    | with_reducible apply keeps_answer
    | with_reducible apply keeps_emitOut
    | with_reducible apply keeps_setLevel
    | split
    | with_reducible apply keeps_upd')

theorem keeps_execRegisterWrite {i : Initiator} {addr : Nat} {v : Word} {s : State}  :
    RKeeps s (execRegisterWrite i addr v s) := by
  unfold execRegisterWrite
  first
    | with_reducible refine rkeeps_run ?_
    | with_reducible refine rkeeps_runIf ?_
    | with_reducible refine rkeeps_next ?_
    | (unfold keRun; with_reducible refine rkeeps_runIf ?_)
  try dsimp only
  repeat' (first
    | with_reducible assumption
    | with_reducible exact Keeps_refl _
    | with_reducible apply keeps_harWake
    | with_reducible apply keeps_busWrite)

theorem keeps_execTsuSetCancel {i : Initiator} {v : Word} {s : State}  :
    RKeeps s (execTsuSetCancel i v s) := by
  unfold execTsuSetCancel
  first
    | with_reducible refine rkeeps_run ?_
    | with_reducible refine rkeeps_runIf ?_
    | with_reducible refine rkeeps_next ?_
    | (unfold keRun; with_reducible refine rkeeps_runIf ?_)
  try dsimp only
  repeat' (first
    | with_reducible assumption
    | with_reducible exact Keeps_refl _
    | with_reducible apply keeps_harWake
    | with_reducible apply keeps_busWrite)

theorem keeps_execDispatchBoundary {s : State}  :
    RKeeps s (execDispatchBoundary s) := by
  unfold execDispatchBoundary
  first
    | with_reducible refine rkeeps_run ?_
    | with_reducible refine rkeeps_runIf ?_
    | with_reducible refine rkeeps_next ?_
    | (unfold keRun; with_reducible refine rkeeps_runIf ?_)
  try dsimp only
  repeat' (first
    | with_reducible assumption
    | with_reducible exact Keeps_refl _
    | with_reducible apply keeps_swapGo
    | with_reducible apply keeps_harLateAll
    | with_reducible apply keeps_swapBoundary
    | with_reducible refine keeps_ite ?_ ?_)

theorem keeps_execCtxSnapshotTaken {s : State}  :
    RKeeps s (execCtxSnapshotTaken s) := by
  unfold execCtxSnapshotTaken
  first
    | with_reducible refine rkeeps_run ?_
    | with_reducible refine rkeeps_runIf ?_
    | with_reducible refine rkeeps_next ?_
    | (unfold keRun; with_reducible refine rkeeps_runIf ?_)
  try dsimp only
  repeat' (first
    | with_reducible assumption
    | with_reducible exact Keeps_refl _
    | with_reducible apply keeps_snapTake
    | with_reducible apply keeps_harLateAll
    | split
    | with_reducible apply keeps_upd')

theorem keeps_execNvmOperationComplete {ok : Bool} {left : List Byte} {s : State}  :
    RKeeps s (execNvmOperationComplete ok left s) := by
  unfold execNvmOperationComplete
  first
    | with_reducible refine rkeeps_run ?_
    | with_reducible refine rkeeps_runIf ?_
    | with_reducible refine rkeeps_next ?_
    | (unfold keRun; with_reducible refine rkeeps_runIf ?_)
  try dsimp only
  repeat' (first
    | with_reducible assumption
    | with_reducible exact Keeps_refl _
    | with_reducible apply keeps_nvmComplete)

theorem keeps_execHandshakeExpiry {hid : Nat} {s : State}  :
    RKeeps s (execHandshakeExpiry hid s) := by
  unfold execHandshakeExpiry
  first
    | with_reducible refine rkeeps_run ?_
    | with_reducible refine rkeeps_runIf ?_
    | with_reducible refine rkeeps_next ?_
    | (unfold keRun; with_reducible refine rkeeps_runIf ?_)
  try dsimp only
  repeat' (first
    | with_reducible assumption
    | with_reducible exact Keeps_refl _
    | with_reducible apply keeps_shakeExpire)

theorem keeps_execLockoutExpiry {transport : Nat} {s : State}  :
    RKeeps s (execLockoutExpiry transport s) := by
  unfold execLockoutExpiry
  first
    | with_reducible refine rkeeps_run ?_
    | with_reducible refine rkeeps_runIf ?_
    | with_reducible refine rkeeps_next ?_
    | (unfold keRun; with_reducible refine rkeeps_runIf ?_)
  try dsimp only
  repeat' (first
    | with_reducible assumption
    | with_reducible exact Keeps_refl _
    | with_reducible apply keeps_lockExpire)

theorem keeps_execSessionIdle {sid : Nat} {s : State}  :
    RKeeps s (execSessionIdle sid s) := by
  unfold execSessionIdle
  first
    | with_reducible refine rkeeps_run ?_
    | with_reducible refine rkeeps_runIf ?_
    | with_reducible refine rkeeps_next ?_
    | (unfold keRun; with_reducible refine rkeeps_runIf ?_)
  try dsimp only
  repeat' (first
    | with_reducible assumption
    | with_reducible exact Keeps_refl _
    | with_reducible apply keeps_sessionEnd
    | with_reducible refine keeps_ite ?_ ?_)

theorem keeps_execStatusPageRewrite {s : State}  :
    RKeeps s (execStatusPageRewrite s) := by
  unfold execStatusPageRewrite
  first
    | with_reducible refine rkeeps_run ?_
    | with_reducible refine rkeeps_runIf ?_
    | with_reducible refine rkeeps_next ?_
    | (unfold keRun; with_reducible refine rkeeps_runIf ?_)
  try dsimp only
  repeat' (first
    | with_reducible assumption
    | with_reducible exact Keeps_refl _
    | with_reducible apply keeps_pageRewrite)

theorem keeps_execRingReqProdWrite {ring : Nat} {prod : Nat} {setup : Option RingSetup} {msgs : List (List Byte)} {s : State}  :
    RKeeps s (execRingReqProdWrite ring prod setup msgs s) := by
  unfold execRingReqProdWrite
  first
    | with_reducible refine rkeeps_run ?_
    | with_reducible refine rkeeps_runIf ?_
    | with_reducible refine rkeeps_next ?_
    | (unfold keRun; with_reducible refine rkeeps_runIf ?_)
  try dsimp only
  repeat' (first
    | with_reducible assumption
    | with_reducible exact Keeps_refl _
    | with_reducible apply keeps_ringReq)

theorem keeps_execRingRspConsWrite {ring : Nat} {cons : Nat} {bufs : List (Nat × Nat)} {s : State}  :
    RKeeps s (execRingRspConsWrite ring cons bufs s) := by
  unfold execRingRspConsWrite
  first
    | with_reducible refine rkeeps_run ?_
    | with_reducible refine rkeeps_runIf ?_
    | with_reducible refine rkeeps_next ?_
    | (unfold keRun; with_reducible refine rkeeps_runIf ?_)
  try dsimp only
  repeat' (first
    | with_reducible assumption
    | with_reducible exact Keeps_refl _
    | with_reducible apply keeps_ringRsp)

theorem keeps_execResponseBufferTimeout {ring : Nat} {s : State}  :
    RKeeps s (execResponseBufferTimeout ring s) := by
  unfold execResponseBufferTimeout
  first
    | with_reducible refine rkeeps_run ?_
    | with_reducible refine rkeeps_runIf ?_
    | with_reducible refine rkeeps_next ?_
    | (unfold keRun; with_reducible refine rkeeps_runIf ?_)
  try dsimp only
  repeat' (first
    | with_reducible assumption
    | with_reducible exact Keeps_refl _
    | with_reducible apply keeps_ringTimeout)

theorem keeps_execHspiWriteMsg {msg : List Byte} {s : State}  :
    RKeeps s (execHspiWriteMsg msg s) := by
  unfold execHspiWriteMsg
  first
    | with_reducible refine rkeeps_run ?_
    | with_reducible refine rkeeps_runIf ?_
    | with_reducible refine rkeeps_next ?_
    | (unfold keRun; with_reducible refine rkeeps_runIf ?_)
  try dsimp only
  repeat' (first
    | with_reducible assumption
    | with_reducible exact Keeps_refl _
    | with_reducible apply keeps_harness
    | with_reducible refine keeps_ite ?_ ?_
    | with_reducible refine keeps_ite_fun ?_ ?_
    | with_reducible apply keeps_id)

theorem keeps_execHspiStatus {s : State}  :
    RKeeps s (execHspiStatus s) := by
  unfold execHspiStatus
  first
    | with_reducible refine rkeeps_run ?_
    | with_reducible refine rkeeps_runIf ?_
    | with_reducible refine rkeeps_next ?_
    | (unfold keRun; with_reducible refine rkeeps_runIf ?_)
  try dsimp only
  repeat' (first
    | with_reducible assumption
    | with_reducible exact Keeps_refl _
    | with_reducible apply keeps_answer)

theorem keeps_execHspiReadMsg {s : State}  :
    RKeeps s (execHspiReadMsg s) := by
  unfold execHspiReadMsg
  first
    | with_reducible refine rkeeps_run ?_
    | with_reducible refine rkeeps_runIf ?_
    | with_reducible refine rkeeps_next ?_
    | (unfold keRun; with_reducible refine rkeeps_runIf ?_)
  try dsimp only
  repeat' (first
    | with_reducible assumption
    | with_reducible exact Keeps_refl _
    | with_reducible apply keeps_hspiRead)

theorem keeps_execHspiRegRd {addr : Nat} {s : State}  :
    RKeeps s (execHspiRegRd addr s) := by
  unfold execHspiRegRd
  first
    | with_reducible refine rkeeps_run ?_
    | with_reducible refine rkeeps_runIf ?_
    | with_reducible refine rkeeps_next ?_
    | (unfold keRun; with_reducible refine rkeeps_runIf ?_)
  try dsimp only
  repeat' (first
    | with_reducible assumption
    | with_reducible exact Keeps_refl _
    | with_reducible apply keeps_busRead)

theorem keeps_execHspiRegWr {addr : Nat} {v : Word} {s : State}  :
    RKeeps s (execHspiRegWr addr v s) := by
  unfold execHspiRegWr
  first
    | with_reducible refine rkeeps_run ?_
    | with_reducible refine rkeeps_runIf ?_
    | with_reducible refine rkeeps_next ?_
    | (unfold keRun; with_reducible refine rkeeps_runIf ?_)
  try dsimp only
  repeat' (first
    | with_reducible assumption
    | with_reducible exact Keeps_refl _
    | with_reducible apply keeps_harWake
    | with_reducible apply keeps_busWrite)

theorem keeps_execHarnessBadMessage {tid : List Byte} {msg : List Byte} {s : State}  :
    RKeeps s (execHarnessBadMessage tid msg s) := by
  unfold execHarnessBadMessage
  first
    | with_reducible refine rkeeps_run ?_
    | with_reducible refine rkeeps_runIf ?_
    | with_reducible refine rkeeps_next ?_
    | (unfold keRun; with_reducible refine rkeeps_runIf ?_)
  try dsimp only
  repeat' (first
    | with_reducible assumption
    | with_reducible exact Keeps_refl _
    | with_reducible apply keeps_harness
    | with_reducible refine keeps_ite ?_ ?_
    | with_reducible refine keeps_ite_fun ?_ ?_
    | with_reducible apply keeps_id)

theorem keeps_execOpenSession {tid : List Byte} {msg : List Byte} {s : State}  :
    RKeeps s (execOpenSession tid msg s) := by
  unfold execOpenSession
  first
    | with_reducible refine rkeeps_run ?_
    | with_reducible refine rkeeps_runIf ?_
    | with_reducible refine rkeeps_next ?_
    | (unfold keRun; with_reducible refine rkeeps_runIf ?_)
  try dsimp only
  repeat' (first
    | with_reducible assumption
    | with_reducible exact Keeps_refl _
    | with_reducible apply keeps_harRow)

theorem keeps_execProve {tid : List Byte} {msg : List Byte} {s : State}  :
    RKeeps s (execProve tid msg s) := by
  unfold execProve
  first
    | with_reducible refine rkeeps_run ?_
    | with_reducible refine rkeeps_runIf ?_
    | with_reducible refine rkeeps_next ?_
    | (unfold keRun; with_reducible refine rkeeps_runIf ?_)
  try dsimp only
  repeat' (first
    | with_reducible assumption
    | with_reducible exact Keeps_refl _
    | with_reducible apply keeps_harRow)

theorem keeps_execCloseSession {tid : List Byte} {msg : List Byte} {s : State}  :
    RKeeps s (execCloseSession tid msg s) := by
  unfold execCloseSession
  first
    | with_reducible refine rkeeps_run ?_
    | with_reducible refine rkeeps_runIf ?_
    | with_reducible refine rkeeps_next ?_
    | (unfold keRun; with_reducible refine rkeeps_runIf ?_)
  try dsimp only
  repeat' (first
    | with_reducible assumption
    | with_reducible exact Keeps_refl _
    | with_reducible apply keeps_harRow)

theorem keeps_execPing {tid : List Byte} {msg : List Byte} {s : State}  :
    RKeeps s (execPing tid msg s) := by
  unfold execPing
  first
    | with_reducible refine rkeeps_run ?_
    | with_reducible refine rkeeps_runIf ?_
    | with_reducible refine rkeeps_next ?_
    | (unfold keRun; with_reducible refine rkeeps_runIf ?_)
  try dsimp only
  repeat' (first
    | with_reducible assumption
    | with_reducible exact Keeps_refl _
    | with_reducible apply keeps_harRow)

theorem keeps_execSubscribe {tid : List Byte} {msg : List Byte} {s : State}  :
    RKeeps s (execSubscribe tid msg s) := by
  unfold execSubscribe
  first
    | with_reducible refine rkeeps_run ?_
    | with_reducible refine rkeeps_runIf ?_
    | with_reducible refine rkeeps_next ?_
    | (unfold keRun; with_reducible refine rkeeps_runIf ?_)
  try dsimp only
  repeat' (first
    | with_reducible assumption
    | with_reducible exact Keeps_refl _
    | with_reducible apply keeps_harRow)

theorem keeps_execSessions {tid : List Byte} {msg : List Byte} {s : State}  :
    RKeeps s (execSessions tid msg s) := by
  unfold execSessions
  first
    | with_reducible refine rkeeps_run ?_
    | with_reducible refine rkeeps_runIf ?_
    | with_reducible refine rkeeps_next ?_
    | (unfold keRun; with_reducible refine rkeeps_runIf ?_)
  try dsimp only
  repeat' (first
    | with_reducible assumption
    | with_reducible exact Keeps_refl _
    | with_reducible apply keeps_harRow)

theorem keeps_execRegpathBind {tid : List Byte} {msg : List Byte} {s : State}  :
    RKeeps s (execRegpathBind tid msg s) := by
  unfold execRegpathBind
  first
    | with_reducible refine rkeeps_run ?_
    | with_reducible refine rkeeps_runIf ?_
    | with_reducible refine rkeeps_next ?_
    | (unfold keRun; with_reducible refine rkeeps_runIf ?_)
  try dsimp only
  repeat' (first
    | with_reducible assumption
    | with_reducible exact Keeps_refl _
    | with_reducible apply keeps_harRow)

theorem keeps_execRegRead {tid : List Byte} {msg : List Byte} {s : State}  :
    RKeeps s (execRegRead tid msg s) := by
  unfold execRegRead
  first
    | with_reducible refine rkeeps_run ?_
    | with_reducible refine rkeeps_runIf ?_
    | with_reducible refine rkeeps_next ?_
    | (unfold keRun; with_reducible refine rkeeps_runIf ?_)
  try dsimp only
  repeat' (first
    | with_reducible assumption
    | with_reducible exact Keeps_refl _
    | with_reducible apply keeps_harRow)

theorem keeps_execRegWrite {tid : List Byte} {msg : List Byte} {s : State}  :
    RKeeps s (execRegWrite tid msg s) := by
  unfold execRegWrite
  first
    | with_reducible refine rkeeps_run ?_
    | with_reducible refine rkeeps_runIf ?_
    | with_reducible refine rkeeps_next ?_
    | (unfold keRun; with_reducible refine rkeeps_runIf ?_)
  try dsimp only
  repeat' (first
    | with_reducible assumption
    | with_reducible exact Keeps_refl _
    | with_reducible apply keeps_harRow)

theorem keeps_execMemRead {tid : List Byte} {msg : List Byte} {s : State}  :
    RKeeps s (execMemRead tid msg s) := by
  unfold execMemRead
  first
    | with_reducible refine rkeeps_run ?_
    | with_reducible refine rkeeps_runIf ?_
    | with_reducible refine rkeeps_next ?_
    | (unfold keRun; with_reducible refine rkeeps_runIf ?_)
  try dsimp only
  repeat' (first
    | with_reducible assumption
    | with_reducible exact Keeps_refl _
    | with_reducible apply keeps_harRow)

theorem keeps_execMemWrite {tid : List Byte} {msg : List Byte} {s : State}  :
    RKeeps s (execMemWrite tid msg s) := by
  unfold execMemWrite
  first
    | with_reducible refine rkeeps_run ?_
    | with_reducible refine rkeeps_runIf ?_
    | with_reducible refine rkeeps_next ?_
    | (unfold keRun; with_reducible refine rkeeps_runIf ?_)
  try dsimp only
  repeat' (first
    | with_reducible assumption
    | with_reducible exact Keeps_refl _
    | with_reducible apply keeps_harRow)

theorem keeps_execTblCfg {tid : List Byte} {msg : List Byte} {s : State}  :
    RKeeps s (execTblCfg tid msg s) := by
  unfold execTblCfg
  first
    | with_reducible refine rkeeps_run ?_
    | with_reducible refine rkeeps_runIf ?_
    | with_reducible refine rkeeps_next ?_
    | (unfold keRun; with_reducible refine rkeeps_runIf ?_)
  try dsimp only
  repeat' (first
    | with_reducible assumption
    | with_reducible exact Keeps_refl _
    | with_reducible apply keeps_harRow)

theorem keeps_execTblPut {tid : List Byte} {msg : List Byte} {s : State}  :
    RKeeps s (execTblPut tid msg s) := by
  unfold execTblPut
  first
    | with_reducible refine rkeeps_run ?_
    | with_reducible refine rkeeps_runIf ?_
    | with_reducible refine rkeeps_next ?_
    | (unfold keRun; with_reducible refine rkeeps_runIf ?_)
  try dsimp only
  repeat' (first
    | with_reducible assumption
    | with_reducible exact Keeps_refl _
    | with_reducible apply keeps_harRow)

theorem keeps_execTblDel {tid : List Byte} {msg : List Byte} {s : State}  :
    RKeeps s (execTblDel tid msg s) := by
  unfold execTblDel
  first
    | with_reducible refine rkeeps_run ?_
    | with_reducible refine rkeeps_runIf ?_
    | with_reducible refine rkeeps_next ?_
    | (unfold keRun; with_reducible refine rkeeps_runIf ?_)
  try dsimp only
  repeat' (first
    | with_reducible assumption
    | with_reducible exact Keeps_refl _
    | with_reducible apply keeps_harRow)

theorem keeps_execTblFlip {tid : List Byte} {msg : List Byte} {s : State}  :
    RKeeps s (execTblFlip tid msg s) := by
  unfold execTblFlip
  first
    | with_reducible refine rkeeps_run ?_
    | with_reducible refine rkeeps_runIf ?_
    | with_reducible refine rkeeps_next ?_
    | (unfold keRun; with_reducible refine rkeeps_runIf ?_)
  try dsimp only
  repeat' (first
    | with_reducible assumption
    | with_reducible exact Keeps_refl _
    | with_reducible apply keeps_harRow)

theorem keeps_execTopoLoad {tid : List Byte} {msg : List Byte} {s : State}  :
    RKeeps s (execTopoLoad tid msg s) := by
  unfold execTopoLoad
  first
    | with_reducible refine rkeeps_run ?_
    | with_reducible refine rkeeps_runIf ?_
    | with_reducible refine rkeeps_next ?_
    | (unfold keRun; with_reducible refine rkeeps_runIf ?_)
  try dsimp only
  repeat' (first
    | with_reducible assumption
    | with_reducible exact Keeps_refl _
    | with_reducible apply keeps_harRow)

theorem keeps_execTopoSwap {tid : List Byte} {msg : List Byte} {s : State}  :
    RKeeps s (execTopoSwap tid msg s) := by
  unfold execTopoSwap
  first
    | with_reducible refine rkeeps_run ?_
    | with_reducible refine rkeeps_runIf ?_
    | with_reducible refine rkeeps_next ?_
    | (unfold keRun; with_reducible refine rkeeps_runIf ?_)
  try dsimp only
  repeat' (first
    | with_reducible assumption
    | with_reducible exact Keeps_refl _
    | with_reducible apply keeps_harRow)

theorem keeps_execCtxSnap {tid : List Byte} {msg : List Byte} {s : State}  :
    RKeeps s (execCtxSnap tid msg s) := by
  unfold execCtxSnap
  first
    | with_reducible refine rkeeps_run ?_
    | with_reducible refine rkeeps_runIf ?_
    | with_reducible refine rkeeps_next ?_
    | (unfold keRun; with_reducible refine rkeeps_runIf ?_)
  try dsimp only
  repeat' (first
    | with_reducible assumption
    | with_reducible exact Keeps_refl _
    | with_reducible apply keeps_harRow)

theorem keeps_execTimeGet {tid : List Byte} {msg : List Byte} {s : State}  :
    RKeeps s (execTimeGet tid msg s) := by
  unfold execTimeGet
  first
    | with_reducible refine rkeeps_run ?_
    | with_reducible refine rkeeps_runIf ?_
    | with_reducible refine rkeeps_next ?_
    | (unfold keRun; with_reducible refine rkeeps_runIf ?_)
  try dsimp only
  repeat' (first
    | with_reducible assumption
    | with_reducible exact Keeps_refl _
    | with_reducible apply keeps_harRow)

theorem keeps_execTimeSet {tid : List Byte} {msg : List Byte} {s : State}  :
    RKeeps s (execTimeSet tid msg s) := by
  unfold execTimeSet
  first
    | with_reducible refine rkeeps_run ?_
    | with_reducible refine rkeeps_runIf ?_
    | with_reducible refine rkeeps_next ?_
    | (unfold keRun; with_reducible refine rkeeps_runIf ?_)
  try dsimp only
  repeat' (first
    | with_reducible assumption
    | with_reducible exact Keeps_refl _
    | with_reducible apply keeps_harRow)

theorem keeps_execFreqSet {tid : List Byte} {msg : List Byte} {s : State}  :
    RKeeps s (execFreqSet tid msg s) := by
  unfold execFreqSet
  first
    | with_reducible refine rkeeps_run ?_
    | with_reducible refine rkeeps_runIf ?_
    | with_reducible refine rkeeps_next ?_
    | (unfold keRun; with_reducible refine rkeeps_runIf ?_)
  try dsimp only
  repeat' (first
    | with_reducible assumption
    | with_reducible exact Keeps_refl _
    | with_reducible apply keeps_harRow)

theorem keeps_execSlew {tid : List Byte} {msg : List Byte} {s : State}  :
    RKeeps s (execSlew tid msg s) := by
  unfold execSlew
  first
    | with_reducible refine rkeeps_run ?_
    | with_reducible refine rkeeps_runIf ?_
    | with_reducible refine rkeeps_next ?_
    | (unfold keRun; with_reducible refine rkeeps_runIf ?_)
  try dsimp only
  repeat' (first
    | with_reducible assumption
    | with_reducible exact Keeps_refl _
    | with_reducible apply keeps_harRow)

theorem keeps_execLeapSet {tid : List Byte} {msg : List Byte} {s : State}  :
    RKeeps s (execLeapSet tid msg s) := by
  unfold execLeapSet
  first
    | with_reducible refine rkeeps_run ?_
    | with_reducible refine rkeeps_runIf ?_
    | with_reducible refine rkeeps_next ?_
    | (unfold keRun; with_reducible refine rkeeps_runIf ?_)
  try dsimp only
  repeat' (first
    | with_reducible assumption
    | with_reducible exact Keeps_refl _
    | with_reducible apply keeps_harRow)

theorem keeps_execRefCmd {tid : List Byte} {msg : List Byte} {s : State}  :
    RKeeps s (execRefCmd tid msg s) := by
  unfold execRefCmd
  first
    | with_reducible refine rkeeps_run ?_
    | with_reducible refine rkeeps_runIf ?_
    | with_reducible refine rkeeps_next ?_
    | (unfold keRun; with_reducible refine rkeeps_runIf ?_)
  try dsimp only
  repeat' (first
    | with_reducible assumption
    | with_reducible exact Keeps_refl _
    | with_reducible apply keeps_harRow)

theorem keeps_execRefStatus {tid : List Byte} {msg : List Byte} {s : State}  :
    RKeeps s (execRefStatus tid msg s) := by
  unfold execRefStatus
  first
    | with_reducible refine rkeeps_run ?_
    | with_reducible refine rkeeps_runIf ?_
    | with_reducible refine rkeeps_next ?_
    | (unfold keRun; with_reducible refine rkeeps_runIf ?_)
  try dsimp only
  repeat' (first
    | with_reducible assumption
    | with_reducible exact Keeps_refl _
    | with_reducible apply keeps_harRow)

theorem keeps_execSvcAddr {tid : List Byte} {msg : List Byte} {s : State}  :
    RKeeps s (execSvcAddr tid msg s) := by
  unfold execSvcAddr
  first
    | with_reducible refine rkeeps_run ?_
    | with_reducible refine rkeeps_runIf ?_
    | with_reducible refine rkeeps_next ?_
    | (unfold keRun; with_reducible refine rkeeps_runIf ?_)
  try dsimp only
  repeat' (first
    | with_reducible assumption
    | with_reducible exact Keeps_refl _
    | with_reducible apply keeps_harRow)

theorem keeps_execNtpProf {tid : List Byte} {msg : List Byte} {s : State}  :
    RKeeps s (execNtpProf tid msg s) := by
  unfold execNtpProf
  first
    | with_reducible refine rkeeps_run ?_
    | with_reducible refine rkeeps_runIf ?_
    | with_reducible refine rkeeps_next ?_
    | (unfold keRun; with_reducible refine rkeeps_runIf ?_)
  try dsimp only
  repeat' (first
    | with_reducible assumption
    | with_reducible exact Keeps_refl _
    | with_reducible apply keeps_harRow)

theorem keeps_execNtsKey {tid : List Byte} {msg : List Byte} {s : State}  :
    RKeeps s (execNtsKey tid msg s) := by
  unfold execNtsKey
  first
    | with_reducible refine rkeeps_run ?_
    | with_reducible refine rkeeps_runIf ?_
    | with_reducible refine rkeeps_next ?_
    | (unfold keRun; with_reducible refine rkeeps_runIf ?_)
  try dsimp only
  repeat' (first
    | with_reducible assumption
    | with_reducible exact Keeps_refl _
    | with_reducible apply keeps_harRow)

theorem keeps_execKeIdent {tid : List Byte} {msg : List Byte} {s : State}  :
    RKeeps s (execKeIdent tid msg s) := by
  unfold execKeIdent
  first
    | with_reducible refine rkeeps_run ?_
    | with_reducible refine rkeeps_runIf ?_
    | with_reducible refine rkeeps_next ?_
    | (unfold keRun; with_reducible refine rkeeps_runIf ?_)
  try dsimp only
  repeat' (first
    | with_reducible assumption
    | with_reducible exact Keeps_refl _
    | with_reducible apply keeps_harRow)

theorem keeps_execPtpCancel {tid : List Byte} {msg : List Byte} {s : State}  :
    RKeeps s (execPtpCancel tid msg s) := by
  unfold execPtpCancel
  first
    | with_reducible refine rkeeps_run ?_
    | with_reducible refine rkeeps_runIf ?_
    | with_reducible refine rkeeps_next ?_
    | (unfold keRun; with_reducible refine rkeeps_runIf ?_)
  try dsimp only
  repeat' (first
    | with_reducible assumption
    | with_reducible exact Keeps_refl _
    | with_reducible apply keeps_harRow)

theorem keeps_execGnssSnap {tid : List Byte} {msg : List Byte} {s : State}  :
    RKeeps s (execGnssSnap tid msg s) := by
  unfold execGnssSnap
  first
    | with_reducible refine rkeeps_run ?_
    | with_reducible refine rkeeps_runIf ?_
    | with_reducible refine rkeeps_next ?_
    | (unfold keRun; with_reducible refine rkeeps_runIf ?_)
  try dsimp only
  repeat' (first
    | with_reducible assumption
    | with_reducible exact Keeps_refl _
    | with_reducible apply keeps_harRow)

theorem keeps_execGnssAccept {tid : List Byte} {msg : List Byte} {s : State}  :
    RKeeps s (execGnssAccept tid msg s) := by
  unfold execGnssAccept
  first
    | with_reducible refine rkeeps_run ?_
    | with_reducible refine rkeeps_runIf ?_
    | with_reducible refine rkeeps_next ?_
    | (unfold keRun; with_reducible refine rkeeps_runIf ?_)
  try dsimp only
  repeat' (first
    | with_reducible assumption
    | with_reducible exact Keeps_refl _
    | with_reducible apply keeps_harRow)

theorem keeps_execGnssSurvey {tid : List Byte} {msg : List Byte} {s : State}  :
    RKeeps s (execGnssSurvey tid msg s) := by
  unfold execGnssSurvey
  first
    | with_reducible refine rkeeps_run ?_
    | with_reducible refine rkeeps_runIf ?_
    | with_reducible refine rkeeps_next ?_
    | (unfold keRun; with_reducible refine rkeeps_runIf ?_)
  try dsimp only
  repeat' (first
    | with_reducible assumption
    | with_reducible exact Keeps_refl _
    | with_reducible apply keeps_harRow)

theorem keeps_execSnapRelease {tid : List Byte} {msg : List Byte} {s : State}  :
    RKeeps s (execSnapRelease tid msg s) := by
  unfold execSnapRelease
  first
    | with_reducible refine rkeeps_run ?_
    | with_reducible refine rkeeps_runIf ?_
    | with_reducible refine rkeeps_next ?_
    | (unfold keRun; with_reducible refine rkeeps_runIf ?_)
  try dsimp only
  repeat' (first
    | with_reducible assumption
    | with_reducible exact Keeps_refl _
    | with_reducible apply keeps_harRow)

theorem keeps_execPairJoin {tid : List Byte} {msg : List Byte} {s : State}  :
    RKeeps s (execPairJoin tid msg s) := by
  unfold execPairJoin
  first
    | with_reducible refine rkeeps_run ?_
    | with_reducible refine rkeeps_runIf ?_
    | with_reducible refine rkeeps_next ?_
    | (unfold keRun; with_reducible refine rkeeps_runIf ?_)
  try dsimp only
  repeat' (first
    | with_reducible assumption
    | with_reducible exact Keeps_refl _
    | with_reducible apply keeps_harRow)

theorem keeps_execPairYield {tid : List Byte} {msg : List Byte} {s : State}  :
    RKeeps s (execPairYield tid msg s) := by
  unfold execPairYield
  first
    | with_reducible refine rkeeps_run ?_
    | with_reducible refine rkeeps_runIf ?_
    | with_reducible refine rkeeps_next ?_
    | (unfold keRun; with_reducible refine rkeeps_runIf ?_)
  try dsimp only
  repeat' (first
    | with_reducible assumption
    | with_reducible exact Keeps_refl _
    | with_reducible apply keeps_harRow)

theorem keeps_execPairPart {tid : List Byte} {msg : List Byte} {s : State}  :
    RKeeps s (execPairPart tid msg s) := by
  unfold execPairPart
  first
    | with_reducible refine rkeeps_run ?_
    | with_reducible refine rkeeps_runIf ?_
    | with_reducible refine rkeeps_next ?_
    | (unfold keRun; with_reducible refine rkeeps_runIf ?_)
  try dsimp only
  repeat' (first
    | with_reducible assumption
    | with_reducible exact Keeps_refl _
    | with_reducible apply keeps_harRow)

theorem keeps_execBelayFrame {tid : List Byte} {msg : List Byte} {s : State}  :
    RKeeps s (execBelayFrame tid msg s) := by
  unfold execBelayFrame
  first
    | with_reducible refine rkeeps_run ?_
    | with_reducible refine rkeeps_runIf ?_
    | with_reducible refine rkeeps_next ?_
    | (unfold keRun; with_reducible refine rkeeps_runIf ?_)
  try dsimp only
  repeat' (first
    | with_reducible assumption
    | with_reducible exact Keeps_refl _
    | with_reducible apply keeps_harRow)

theorem keeps_execNvmRead {tid : List Byte} {msg : List Byte} {s : State}  :
    RKeeps s (execNvmRead tid msg s) := by
  unfold execNvmRead
  first
    | with_reducible refine rkeeps_run ?_
    | with_reducible refine rkeeps_runIf ?_
    | with_reducible refine rkeeps_next ?_
    | (unfold keRun; with_reducible refine rkeeps_runIf ?_)
  try dsimp only
  repeat' (first
    | with_reducible assumption
    | with_reducible exact Keeps_refl _
    | with_reducible apply keeps_harRow)

theorem keeps_execNvmErase {tid : List Byte} {msg : List Byte} {s : State}  :
    RKeeps s (execNvmErase tid msg s) := by
  unfold execNvmErase
  first
    | with_reducible refine rkeeps_run ?_
    | with_reducible refine rkeeps_runIf ?_
    | with_reducible refine rkeeps_next ?_
    | (unfold keRun; with_reducible refine rkeeps_runIf ?_)
  try dsimp only
  repeat' (first
    | with_reducible assumption
    | with_reducible exact Keeps_refl _
    | with_reducible apply keeps_harRow)

theorem keeps_execNvmWrite {tid : List Byte} {msg : List Byte} {s : State}  :
    RKeeps s (execNvmWrite tid msg s) := by
  unfold execNvmWrite
  first
    | with_reducible refine rkeeps_run ?_
    | with_reducible refine rkeeps_runIf ?_
    | with_reducible refine rkeeps_next ?_
    | (unfold keRun; with_reducible refine rkeeps_runIf ?_)
  try dsimp only
  repeat' (first
    | with_reducible assumption
    | with_reducible exact Keeps_refl _
    | with_reducible apply keeps_harRow)

theorem keeps_execNvmVerify {tid : List Byte} {msg : List Byte} {s : State}  :
    RKeeps s (execNvmVerify tid msg s) := by
  unfold execNvmVerify
  first
    | with_reducible refine rkeeps_run ?_
    | with_reducible refine rkeeps_runIf ?_
    | with_reducible refine rkeeps_next ?_
    | (unfold keRun; with_reducible refine rkeeps_runIf ?_)
  try dsimp only
  repeat' (first
    | with_reducible assumption
    | with_reducible exact Keeps_refl _
    | with_reducible apply keeps_harRow)

theorem keeps_execNvmActivate {tid : List Byte} {msg : List Byte} {s : State}  :
    RKeeps s (execNvmActivate tid msg s) := by
  unfold execNvmActivate
  first
    | with_reducible refine rkeeps_run ?_
    | with_reducible refine rkeeps_runIf ?_
    | with_reducible refine rkeeps_next ?_
    | (unfold keRun; with_reducible refine rkeeps_runIf ?_)
  try dsimp only
  repeat' (first
    | with_reducible assumption
    | with_reducible exact Keeps_refl _
    | with_reducible apply keeps_harRow)

theorem keeps_execRestart {tid : List Byte} {msg : List Byte} {s : State}  :
    RKeeps s (execRestart tid msg s) := by
  unfold execRestart
  first
    | with_reducible refine rkeeps_run ?_
    | with_reducible refine rkeeps_runIf ?_
    | with_reducible refine rkeeps_next ?_
    | (unfold keRun; with_reducible refine rkeeps_runIf ?_)
  try dsimp only
  repeat' (first
    | with_reducible assumption
    | with_reducible exact Keeps_refl _
    | with_reducible apply keeps_harRow)

theorem keeps_execBivRelease {tid : List Byte} {msg : List Byte} {s : State}  :
    RKeeps s (execBivRelease tid msg s) := by
  unfold execBivRelease
  first
    | with_reducible refine rkeeps_run ?_
    | with_reducible refine rkeeps_runIf ?_
    | with_reducible refine rkeeps_next ?_
    | (unfold keRun; with_reducible refine rkeeps_runIf ?_)
  try dsimp only
  repeat' (first
    | with_reducible assumption
    | with_reducible exact Keeps_refl _
    | with_reducible apply keeps_harRow)

theorem keeps_execOtpOwner {tid : List Byte} {msg : List Byte} {s : State}  :
    RKeeps s (execOtpOwner tid msg s) := by
  unfold execOtpOwner
  first
    | with_reducible refine rkeeps_run ?_
    | with_reducible refine rkeeps_runIf ?_
    | with_reducible refine rkeeps_next ?_
    | (unfold keRun; with_reducible refine rkeeps_runIf ?_)
  try dsimp only
  repeat' (first
    | with_reducible assumption
    | with_reducible exact Keeps_refl _
    | with_reducible apply keeps_harRow)

theorem keeps_execRestEnter {tid : List Byte} {msg : List Byte} {s : State}  :
    RKeeps s (execRestEnter tid msg s) := by
  unfold execRestEnter
  first
    | with_reducible refine rkeeps_run ?_
    | with_reducible refine rkeeps_runIf ?_
    | with_reducible refine rkeeps_next ?_
    | (unfold keRun; with_reducible refine rkeeps_runIf ?_)
  try dsimp only
  repeat' (first
    | with_reducible assumption
    | with_reducible exact Keeps_refl _
    | with_reducible apply keeps_harRow)

theorem keeps_execRestExit {tid : List Byte} {msg : List Byte} {s : State}  :
    RKeeps s (execRestExit tid msg s) := by
  unfold execRestExit
  first
    | with_reducible refine rkeeps_run ?_
    | with_reducible refine rkeeps_runIf ?_
    | with_reducible refine rkeeps_next ?_
    | (unfold keRun; with_reducible refine rkeeps_runIf ?_)
  try dsimp only
  repeat' (first
    | with_reducible assumption
    | with_reducible exact Keeps_refl _
    | with_reducible apply keeps_harRow)

theorem keeps_execCntSnap {tid : List Byte} {msg : List Byte} {s : State}  :
    RKeeps s (execCntSnap tid msg s) := by
  unfold execCntSnap
  first
    | with_reducible refine rkeeps_run ?_
    | with_reducible refine rkeeps_runIf ?_
    | with_reducible refine rkeeps_next ?_
    | (unfold keRun; with_reducible refine rkeeps_runIf ?_)
  try dsimp only
  repeat' (first
    | with_reducible assumption
    | with_reducible exact Keeps_refl _
    | with_reducible apply keeps_harRow)

theorem keeps_execCntRead {tid : List Byte} {msg : List Byte} {s : State}  :
    RKeeps s (execCntRead tid msg s) := by
  unfold execCntRead
  first
    | with_reducible refine rkeeps_run ?_
    | with_reducible refine rkeeps_runIf ?_
    | with_reducible refine rkeeps_next ?_
    | (unfold keRun; with_reducible refine rkeeps_runIf ?_)
  try dsimp only
  repeat' (first
    | with_reducible assumption
    | with_reducible exact Keeps_refl _
    | with_reducible apply keeps_harRow)

theorem keeps_execLogRead {tid : List Byte} {msg : List Byte} {s : State}  :
    RKeeps s (execLogRead tid msg s) := by
  unfold execLogRead
  first
    | with_reducible refine rkeeps_run ?_
    | with_reducible refine rkeeps_runIf ?_
    | with_reducible refine rkeeps_next ?_
    | (unfold keRun; with_reducible refine rkeeps_runIf ?_)
  try dsimp only
  repeat' (first
    | with_reducible assumption
    | with_reducible exact Keeps_refl _
    | with_reducible apply keeps_harRow)

theorem keeps_execDumpCfg {tid : List Byte} {msg : List Byte} {s : State}  :
    RKeeps s (execDumpCfg tid msg s) := by
  unfold execDumpCfg
  first
    | with_reducible refine rkeeps_run ?_
    | with_reducible refine rkeeps_runIf ?_
    | with_reducible refine rkeeps_next ?_
    | (unfold keRun; with_reducible refine rkeeps_runIf ?_)
  try dsimp only
  repeat' (first
    | with_reducible assumption
    | with_reducible exact Keeps_refl _
    | with_reducible apply keeps_harRow)

end Sys2Proof.Laws
end

