-- ==== Sys2Proof/Laws/KeepsEdges.lean ====
section
/-!
SUPPORT. Laws/KeepsEdges.lean: the functions of Machine/Edges.lean keep what every command keeps (Keeps of Safety.lean).
-/
namespace Sys2Proof.Laws
open Sys2Proof Sys2Proof.Machine

set_option linter.unusedTactic false
set_option linter.unreachableTactic false
set_option linter.unusedVariables false

theorem keeps_incrementChange {a : State} {s : State} (hs : Keeps a s) :
    Keeps a (incrementChange s) := by
  unfold incrementChange
  try dsimp only
  repeat' (first
    | with_reducible assumption
    | with_reducible apply keeps_gateCarry
    | with_reducible apply keeps_incrementEdge
    | with_reducible apply keeps_outIncs
    | with_reducible apply keeps_gateIncrement
    | with_reducible refine keeps_ite ?_ ?_)

theorem keeps_rebase {a : State} {fine : Int} {d : Int} {ds : Int} {s : State} (hs : Keeps a s) :
    Keeps a (rebase fine d ds s) := by
  refine Keeps_trans hs ⟨rfl, rfl, List.suffix_refl _, Nat.le_refl _, fun _ => rfl,
    fun c => ⟨c.mem, c.regs, c.initRegs, c.busOut, c.flash, ?_, ?_, ?_, c.refUp, c.tic, c.outs, c.trigs, ?_, c.tod, ?_, ?_, c.live, c.keys, c.sketch, ?_, c.conns, c.units, c.bad, c.log⟩⟩
  · simp only [rebase]; exact mapWf_mapEach _ c.gate
  · simp only [rebase]; exact mapWf_mapEach _ c.ports
  · simp only [rebase]; exact mapWf_mapEach _ c.refs
  · simp only [rebase]; exact mapWf_mapEach _ c.nts
  · simp only [rebase]; exact mapWf_mapEach _ c.ctx
  · simp only [rebase]; exact mapWf_mapEach _ c.q
  · simp only [rebase]; exact mapWf_mapEach _ c.grants

theorem keeps_setLoad {a : State} {v : Nat} {bound : Nat} {s : State} (hs : Keeps a s) :
    Keeps a (setLoad v bound s) := by
  unfold setLoad
  try dsimp only
  repeat' (first
    | with_reducible assumption
    | with_reducible apply keeps_fsetB
    | with_reducible apply keeps_setDisarm
    | with_reducible apply keeps_setBound
    | with_reducible apply keeps_upd')

theorem keeps_setLeap {a : State} {s : State} (hs : Keeps a s) :
    Keeps a (setLeap s) := by
  unfold setLeap
  try dsimp only
  repeat' (first
    | with_reducible assumption
    | with_reducible apply keeps_leapApply
    | with_reducible apply keeps_smearRefresh
    | with_reducible refine keeps_ite ?_ ?_)

theorem keeps_setEdge {a : State} {roots : Nat} {k : Nat} {k1 : Nat} {k2 : Nat} {s : State} (hs : Keeps a s) :
    Keeps a (setEdge roots k k1 k2 s) := by
  unfold setEdge
  try dsimp only
  repeat' (first
    | with_reducible assumption
    | with_reducible apply keeps_setLoad
    | with_reducible apply keeps_gateSetEdge
    | with_reducible apply keeps_rebase
    | with_reducible apply keeps_outSetEdge
    | with_reducible apply keeps_trigSetEdge
    | with_reducible apply keeps_refsSetEdge
    | with_reducible apply keeps_setLeap
    | with_reducible apply keeps_occur
    | with_reducible apply keeps_ptpRefresh
    | with_reducible apply keeps_svcSync
    | with_reducible apply keeps_identsShow
    | with_reducible apply keeps_harLateAll
    | with_reducible refine keeps_ite ?_ ?_)

theorem keeps_setTimeout {a : State} {s : State} (hs : Keeps a s) :
    Keeps a (setTimeout s) := by
  unfold setTimeout
  try dsimp only
  repeat' (first
    | with_reducible assumption
    | with_reducible apply keeps_harLateAll
    | with_reducible apply keeps_occur
    | with_reducible apply keeps_setDisarm
    | with_reducible refine keeps_ite ?_ ?_)

theorem keeps_holdSet {a : State} {pt : Nat} {b : Bool} {s : State} (hs : Keeps a s) :
    Keeps a (holdSet pt b s) := by
  unfold holdSet
  try dsimp only
  repeat' (first
    | with_reducible assumption
    | with_reducible apply keeps_fsetB
    | with_reducible apply keeps_strikePort
    | with_reducible apply keeps_strikeFrom
    | (with_reducible refine keeps_forEach (fun _ _ _ => ?_) ?_)
    | with_reducible apply keeps_pstSet
    | with_reducible apply keeps_outHold
    | with_reducible refine keeps_ite ?_ ?_
    | with_reducible apply keeps_upd')

theorem keeps_comparePoint {a : State} {pt : Nat} {s0 : State} (hs0 : Keeps a s0) :
    Keeps a (comparePoint pt s0) := by
  unfold comparePoint
  try dsimp only
  repeat' (first
    | with_reducible assumption
    | with_reducible apply keeps_localLoad
    | with_reducible apply keeps_holdSet
    | with_reducible apply keeps_occur
    | with_reducible apply keeps_fsetB
    | with_reducible refine keeps_ite ?_ ?_
    | with_reducible apply keeps_upd')

theorem keeps_localUpset {a : State} {diffs : List (Nat × Int)} {s : State} (hs : Keeps a s) :
    Keeps a (localUpset diffs s) := by
  unfold localUpset
  try dsimp only
  repeat' (first
    | with_reducible assumption
    | with_reducible refine keeps_foldl _ (fun _ _ _ => ?_) _ ?_
    | with_reducible refine keeps_foldl_pair _ (fun _ _ _ => ?_) _ ?_
    | with_reducible apply keeps_upd')

theorem keeps_compareTick {a : State} {diffs : List (Nat × Int)} {s : State} (hs : Keeps a s) :
    Keeps a (compareTick diffs s) := by
  unfold compareTick
  try dsimp only
  repeat' (first
    | with_reducible assumption
    | with_reducible apply keeps_boundNote
    | with_reducible apply keeps_boundGrow
    | (with_reducible refine keeps_forEach (fun _ _ _ => ?_) ?_)
    | with_reducible apply keeps_comparePoint
    | with_reducible apply keeps_localUpset
    | with_reducible apply keeps_ptpRefresh
    | with_reducible apply keeps_svcSync
    | with_reducible apply keeps_adjTick
    | with_reducible apply keeps_portsRefresh
    | with_reducible apply keeps_smearRefresh
    | with_reducible refine keeps_ite ?_ ?_)

theorem keeps_execIncrementChange {s : State}  :
    RKeeps s (execIncrementChange s) := by
  unfold execIncrementChange
  first
    | with_reducible refine rkeeps_run ?_
    | with_reducible refine rkeeps_runIf ?_
    | with_reducible refine rkeeps_next ?_
    | (unfold keRun; with_reducible refine rkeeps_runIf ?_)
  try dsimp only
  repeat' (first
    | with_reducible assumption
    | with_reducible exact Keeps_refl _
    | with_reducible apply keeps_incrementChange)

theorem keeps_execTsuSlewDone {s : State}  :
    RKeeps s (execTsuSlewDone s) := by
  unfold execTsuSlewDone
  first
    | with_reducible refine rkeeps_run ?_
    | with_reducible refine rkeeps_runIf ?_
    | with_reducible refine rkeeps_next ?_
    | (unfold keRun; with_reducible refine rkeeps_runIf ?_)
  try dsimp only
  repeat' (first
    | with_reducible assumption
    | with_reducible exact Keeps_refl _
    | with_reducible apply keeps_tsuSlewDone)

theorem keeps_execSetEdge {interval : EdgeInterval} {s : State}  :
    RKeeps s (execSetEdge interval s) := by
  unfold execSetEdge
  first
    | with_reducible refine rkeeps_run ?_
    | with_reducible refine rkeeps_runIf ?_
    | with_reducible refine rkeeps_next ?_
    | (unfold keRun; with_reducible refine rkeeps_runIf ?_)
  try dsimp only
  repeat' (first
    | with_reducible assumption
    | with_reducible exact Keeps_refl _
    | with_reducible apply keeps_setEdge)

theorem keeps_execTsuSetTimeout {s : State}  :
    RKeeps s (execTsuSetTimeout s) := by
  unfold execTsuSetTimeout
  first
    | with_reducible refine rkeeps_run ?_
    | with_reducible refine rkeeps_runIf ?_
    | with_reducible refine rkeeps_next ?_
    | (unfold keRun; with_reducible refine rkeeps_runIf ?_)
  try dsimp only
  repeat' (first
    | with_reducible assumption
    | with_reducible exact Keeps_refl _
    | with_reducible apply keeps_setTimeout)

theorem keeps_execTsuLeapDone {s : State}  :
    RKeeps s (execTsuLeapDone s) := by
  unfold execTsuLeapDone
  first
    | with_reducible refine rkeeps_run ?_
    | with_reducible refine rkeeps_runIf ?_
    | with_reducible refine rkeeps_next ?_
    | (unfold keRun; with_reducible refine rkeeps_runIf ?_)
  try dsimp only
  repeat' (first
    | with_reducible assumption
    | with_reducible exact Keeps_refl _
    | with_reducible apply keeps_leapApply)

theorem keeps_execCompareTick {diffs : List (Nat × Int)} {s : State}  :
    RKeeps s (execCompareTick diffs s) := by
  unfold execCompareTick
  first
    | with_reducible refine rkeeps_run ?_
    | with_reducible refine rkeeps_runIf ?_
    | with_reducible refine rkeeps_next ?_
    | (unfold keRun; with_reducible refine rkeeps_runIf ?_)
  try dsimp only
  repeat' (first
    | with_reducible assumption
    | with_reducible exact Keeps_refl _
    | with_reducible apply keeps_withAnnounce
    | with_reducible apply keeps_compareTick
    | intro _)

end Sys2Proof.Laws
end

