-- ==== Sys2Proof/Laws/KeepsLoad.lean ====
section
/-!
SUPPORT. Laws/KeepsLoad.lean: the functions of Machine/Load.lean keep what every command keeps (Keeps of Safety.lean).
-/
namespace Sys2Proof.Laws
open Sys2Proof Sys2Proof.Machine

set_option linter.unusedTactic false
set_option linter.unreachableTactic false
set_option linter.unusedVariables false

theorem keeps_toStage {a : State} {n : Nat} {s : State} (hs : Keeps a s) :
    Keeps a (toStage n s) := by
  unfold toStage
  try dsimp only
  repeat' (first
    | with_reducible assumption
    | with_reducible apply keeps_stSet)

theorem keeps_s1Xo {a : State} {osc : Bool} {hz : Nat} {pcie : Bool} {ms : Nat} {s : State} (hs : Keeps a s) :
    Keeps a (s1Xo osc hz pcie ms s) := by
  unfold s1Xo
  try dsimp only
  repeat' (first
    | with_reducible assumption
    | with_reducible apply keeps_startSet
    | with_reducible apply keeps_failAttempt
    | with_reducible apply keeps_toStage
    | with_reducible refine keeps_ite ?_ ?_
    | split
    | with_reducible apply keeps_upd')

theorem keeps_s2Root {a : State} {lock : Bool} {ms : Nat} {s : State} (hs : Keeps a s) :
    Keeps a (s2Root lock ms s) := by
  unfold s2Root
  try dsimp only
  repeat' (first
    | with_reducible assumption
    | with_reducible apply keeps_startSet
    | with_reducible apply keeps_failAttempt
    | with_reducible apply keeps_toStage
    | with_reducible refine keeps_ite ?_ ?_
    | with_reducible apply keeps_upd')

theorem keeps_histLoad {a : State} {s : State} (hs : Keeps a s) :
    Keeps a (histLoad s) := by
  unfold histLoad
  try dsimp only
  repeat' (first
    | with_reducible assumption
    | with_reducible apply keeps_histPush
    | with_reducible refine keeps_foldl _ (fun _ _ _ => ?_) _ ?_
    | with_reducible refine keeps_foldl_pair _ (fun _ _ _ => ?_) _ ?_)

theorem keeps_jLost {a : State} {s : State} (hs : Keeps a s) :
    Keeps a (jLost s) := by
  unfold jLost
  try dsimp only
  repeat' (first
    | with_reducible assumption
    | with_reducible apply keeps_jAppend
    | with_reducible apply keeps_startSet
    | with_reducible refine keeps_ite ?_ ?_
    | with_reducible apply keeps_getD
    | split
    | with_reducible apply keeps_upd')

theorem keeps_jPending {a : State} {s : State} (hs : Keeps a s) :
    Keeps a (jPending s) := by
  unfold jPending
  try dsimp only
  repeat' (first
    | with_reducible assumption
    | with_reducible apply keeps_jAppend
    | split
    | with_reducible apply keeps_upd')

theorem keeps_journalScan {a : State} {s : State} (hs : Keeps a s) :
    Keeps a (journalScan s) := by
  unfold journalScan
  try dsimp only
  repeat' (first
    | with_reducible assumption
    | with_reducible apply keeps_startSet
    | with_reducible apply keeps_histLoad
    | with_reducible apply keeps_jPending
    | with_reducible apply keeps_jLost
    | with_reducible apply keeps_jAppend
    | with_reducible apply keeps_prefShow
    | with_reducible apply keeps_stSet
    | with_reducible refine keeps_ite ?_ ?_
    | with_reducible apply keeps_getD
    | split
    | with_reducible apply keeps_upd')

theorem keeps_s3Mem {a : State} {ok : Bool} {s : State} (hs : Keeps a s) :
    Keeps a (s3Mem ok s) := by
  unfold s3Mem
  try dsimp only
  repeat' (first
    | with_reducible assumption
    | with_reducible apply keeps_failAttempt
    | with_reducible apply keeps_journalScan
    | with_reducible apply keeps_selftestStart
    | with_reducible apply keeps_enterBivouac
    | with_reducible apply keeps_fset
    | with_reducible apply keeps_aonDeliver
    | with_reducible apply keeps_toStage
    | with_reducible refine keeps_ite ?_ ?_)

theorem keeps_bookFailNote {a : State} {c : Nat} {e : BookFail} {s : State} (hs : Keeps a s) :
    Keeps a (bookFailNote c e s) := by
  unfold bookFailNote
  try dsimp only
  repeat' (first
    | with_reducible assumption
    | with_reducible apply keeps_wr
    | with_reducible refine keeps_ite ?_ ?_)

theorem keeps_configNote {a : State} {sev : Nat} {unit : Nat} {l : Leg} {i : Nat} {s : State} (hs : Keeps a s) :
    Keeps a (configNote sev unit l i s) := by
  unfold configNote
  try dsimp only
  repeat' (first
    | with_reducible assumption
    | with_reducible apply keeps_cairn)

theorem keeps_bookUse {a : State} {c : Nat} {fallback : Bool} {s : State} (hs : Keeps a s) :
    Keeps a (bookUse c fallback s) := by
  unfold bookUse
  try dsimp only
  repeat' (first
    | with_reducible assumption
    | with_reducible apply keeps_fset
    | with_reducible apply keeps_fsetB
    | with_reducible apply keeps_wr
    | with_reducible apply keeps_cairnFault
    | with_reducible apply keeps_toStage
    | with_reducible apply keeps_startSet
    | with_reducible refine keeps_ite ?_ ?_
    | with_reducible apply keeps_upd')

theorem keeps_sigJob {a : State} {v : Sum BookFail (List Leg)} {s : State} (hs : Keeps a s) :
    Keeps a (sigJob v s) := by
  unfold sigJob
  try dsimp only
  repeat' (first
    | with_reducible assumption
    | with_reducible apply keeps_bump
    | with_reducible refine keeps_ite ?_ ?_
    | split
    | with_reducible apply keeps_upd')

theorem keeps_s4Book {a : State} {s : State} (hs : Keeps a s) :
    Keeps a (s4Book s) := by
  unfold s4Book
  try dsimp only
  repeat' (first
    | with_reducible assumption
    | with_reducible apply keeps_fset
    | with_reducible apply keeps_sigJob
    | with_reducible apply keeps_bookUse
    | with_reducible apply keeps_bookFailNote
    | with_reducible apply keeps_failAttempt
    | with_reducible refine keeps_ite ?_ ?_
    | split
    | with_reducible apply keeps_upd')

theorem keeps_patchLeg {a : State} {l : Leg} {s : State} (hs : Keeps a s) :
    OKeeps a (patchLeg l s) := by
  unfold patchLeg
  try dsimp only
  repeat' (first
    | with_reducible assumption
    | with_reducible apply keeps_startSet
    | with_reducible apply keeps_configNote
    | with_reducible refine keeps_ite ?_ ?_
    | with_reducible refine okeeps_ite ?_ ?_
    | with_reducible apply okeeps_some
    | with_reducible exact okeeps_none
    | with_reducible refine okeeps_map ?_ (fun _ _ => ?_)
    | with_reducible apply okeeps_orElse
    | with_reducible apply keeps_upd')

theorem keeps_patchLegs {a : State} {x0 : List Leg} {x1 : State} (hx1 : Keeps a x1) :
    OKeeps a (patchLegs x0 x1) := by
  induction x0 generalizing x1 with
  | nil => exact okeeps_some hx1
  | cons y ys ih => exact okeeps_bind (keeps_patchLeg hx1) (fun b hb => ih hb)

theorem keeps_s5Firm {a : State} {romOk : Bool} {clustersOk : Bool} {s : State} (hs : Keeps a s) :
    Keeps a (s5Firm romOk clustersOk s) := by
  unfold s5Firm
  try dsimp only
  repeat' (first
    | with_reducible assumption
    | with_reducible apply keeps_failAttempt
    | with_reducible apply keeps_patchLegs
    | (with_reducible refine keeps_forEach (fun _ _ _ => ?_) ?_)
    | with_reducible apply keeps_selftestStart
    | with_reducible apply keeps_toStage
    | with_reducible apply keeps_jAppend
    | with_reducible refine keeps_ite ?_ ?_
    | split
    | with_reducible refine keeps_of_some ?_ ‹_ = some _›
    | with_reducible apply keeps_upd')

theorem keeps_loadDo {a : State} {f : State → State} {x : LoadRun} (hf : ∀ b, Keeps a b → Keeps a (f b)) (hx : Keeps a x.s) :
    Keeps a (loadDo f x).s := by
  unfold loadDo
  try dsimp only
  repeat' (first
    | with_reducible assumption
    | with_reducible refine keeps_ite ?_ ?_
    | with_reducible refine keeps_ite_run ?_ ?_
    | with_reducible apply hf
    | with_reducible apply keeps_upd')

theorem keeps_skipNote {a : State} {sev : Nat} {unit : Nat} {l : Leg} {i : Nat} {s : State} (hs : Keeps a s) :
    Keeps a (skipNote sev unit l i s) := by
  unfold skipNote
  try dsimp only
  repeat' (first
    | with_reducible assumption
    | with_reducible apply keeps_configNote
    | with_reducible apply keeps_fset)

theorem keeps_loadRec {a : State} {l : Leg} {i : Nat} {r : Setting} {x : LoadRun} (hx : Keeps a x.s) :
    Keeps a (loadRec l i r x).s := by
  unfold loadRec
  try dsimp only
  repeat' (first
    | with_reducible assumption
    | with_reducible apply keeps_skipNote
    | with_reducible apply keeps_configNote
    | with_reducible apply keeps_portMode
    | with_reducible apply keeps_regApply
    | with_reducible apply keeps_tsuRefused
    | with_reducible refine keeps_ite ?_ ?_
    | with_reducible refine keeps_ite_run ?_ ?_
    | split
    | with_reducible apply keeps_upd')

theorem keeps_loadRecs {a : State} {l : Leg} {x0 : Nat} {x1 : List Setting} {x2 : LoadRun} (hx2 : Keeps a x2.s) :
    Keeps a (loadRecs l x0 x1 x2).s := by
  induction x1 generalizing x0 x2 with
  | nil => exact hx2
  | cons r rs ih => exact ih (keeps_loadRec hx2)

theorem keeps_chanLoad {a : State} {l : Leg} {i : Nat} {f : Nat → State → State} {b : List Byte} {x : LoadRun} (hf : ∀ y0 b, Keeps a b → Keeps a (f y0 b)) (hx : Keeps a x.s) :
    Keeps a (chanLoad l i f b x).s := by
  exact keeps_ite_run (keeps_loadDo (fun b hb => hf _ _ (keeps_skipNote hb)) hx) (keeps_loadDo (hf _) hx)

theorem keeps_refTic {a : State} {n : Nat} {c : Nat} {s : State} (hs : Keeps a s) :
    Keeps a (refTic n c s) := by
  unfold refTic
  try dsimp only
  repeat' (first
    | with_reducible assumption
    | with_reducible apply keeps_refSlSet
    | with_reducible apply keeps_upd')

theorem keeps_addrsLoad {a : State} {l : Leg} {es : List (List Byte)} {x : LoadRun} (hx : Keeps a x.s) :
    Keeps a (addrsLoad l es x).s := by
  unfold addrsLoad
  try dsimp only
  repeat' (first
    | with_reducible assumption
    | with_reducible apply keeps_loadDo
    | with_reducible apply keeps_skipNote
    | with_reducible refine keeps_foldl_run _ (fun _ _ _ => ?_) _ ?_
    | with_reducible refine keeps_foldl _ (fun _ _ _ => ?_) _ ?_
    | with_reducible refine keeps_foldl_pair _ (fun _ _ _ => ?_) _ ?_
    | with_reducible apply keeps_getD
    | split
    | intro _
    | with_reducible apply keeps_upd')

theorem keeps_tablesLoad {a : State} {l : Leg} {x : LoadRun} (hx : Keeps a x.s) :
    Keeps a (tablesLoad l x).s := by
  unfold tablesLoad
  try dsimp only
  repeat' (first
    | with_reducible assumption
    | with_reducible apply keeps_loadDo
    | with_reducible apply keeps_putMem
    | with_reducible apply keeps_loadRecs
    | with_reducible refine keeps_foldl_run _ (fun _ _ _ => ?_) _ ?_
    | with_reducible refine keeps_foldl _ (fun _ _ _ => ?_) _ ?_
    | with_reducible refine keeps_foldl_pair _ (fun _ _ _ => ?_) _ ?_
    | with_reducible apply keeps_getD
    | split
    | intro _
    | with_reducible apply keeps_upd')

theorem keeps_fixedLoad {a : State} {l : Leg} {b : LegBody} {x : LoadRun} (hx : Keeps a x.s) :
    Keeps a (fixedLoad l b x).s := by
  unfold fixedLoad
  try dsimp only
  repeat' (first
    | with_reducible assumption
    | with_reducible apply keeps_loadDo
    | with_reducible apply keeps_deviceLoad
    | with_reducible apply keeps_loadRecs
    | with_reducible apply keeps_addrsLoad
    | with_reducible apply keeps_identsSet
    | with_reducible apply keeps_chanLoad
    | with_reducible apply keeps_refTic
    | with_reducible apply keeps_outSet
    | with_reducible apply keeps_gnssSet
    | (with_reducible refine keeps_forEach (fun _ _ _ => ?_) ?_)
    | with_reducible apply keeps_wr
    | with_reducible apply keeps_keysLoad
    | with_reducible apply keeps_pairSet
    | with_reducible refine keeps_foldl_run _ (fun _ _ _ => ?_) _ ?_
    | with_reducible refine keeps_foldl _ (fun _ _ _ => ?_) _ ?_
    | with_reducible refine keeps_foldl_pair _ (fun _ _ _ => ?_) _ ?_
    | with_reducible refine keeps_ite ?_ ?_
    | with_reducible refine keeps_ite_run ?_ ?_
    | split
    | intro _
    | with_reducible apply keeps_upd')

theorem keeps_legLoad {a : State} {l : Leg} {x : LoadRun} (hx : Keeps a x.s) :
    Keeps a (legLoad l x).s := by
  unfold legLoad
  try dsimp only
  repeat' (first
    | with_reducible assumption
    | with_reducible apply keeps_skipNote
    | with_reducible apply keeps_putMem
    | with_reducible apply keeps_tablesLoad
    | with_reducible apply keeps_loadRecs
    | with_reducible apply keeps_fixedLoad
    | with_reducible refine keeps_ite ?_ ?_
    | with_reducible refine keeps_ite_run ?_ ?_
    | split
    | with_reducible apply keeps_upd')

theorem keeps_dropTopo {a : State} {s : State} (hs : Keeps a s) :
    Keeps a (dropTopo s) := by
  unfold dropTopo
  try dsimp only
  repeat' (first
    | with_reducible assumption
    | (with_reducible refine keeps_forEach (fun _ _ _ => ?_) ?_)
    | with_reducible apply keeps_putMem)

theorem keeps_ticOwners {a : State} {ls : List Leg} {s : State} (hs : Keeps a s) :
    Keeps a (ticOwners ls s) := by
  unfold ticOwners
  try dsimp only
  repeat' (first
    | with_reducible assumption
    | (with_reducible refine keeps_forEach (fun _ _ _ => ?_) ?_)
    | with_reducible apply keeps_fsetB)

theorem keeps_slotBind {a : State} {ups : List (List Byte)} {n : Nat} {s : State} (hs : Keeps a s) :
    Keeps a (slotBind ups n s) := by
  unfold slotBind
  try dsimp only
  repeat' (first
    | with_reducible assumption
    | with_reducible apply keeps_refSlSet
    | with_reducible apply keeps_ntsSet
    | with_reducible refine keeps_ite ?_ ?_
    | with_reducible refine keeps_ite_fun ?_ ?_
    | with_reducible apply keeps_id
    | with_reducible apply keeps_getD
    | with_reducible apply keeps_upd_refUp
    | with_reducible apply keeps_upd')

theorem keeps_loadFinish {a : State} {x : LoadRun} {s : State} (hx : Keeps a x.s) (hs : Keeps a s) :
    Keeps a (loadFinish x s) := by
  unfold loadFinish
  try dsimp only
  repeat' (first
    | with_reducible assumption
    | (with_reducible refine keeps_forEach (fun _ _ _ => ?_) ?_)
    | with_reducible apply keeps_slotBind
    | with_reducible apply keeps_clockIdSet
    | with_reducible apply keeps_fset
    | with_reducible apply keeps_wr
    | with_reducible apply keeps_gnssSet
    | with_reducible apply keeps_drawBytes
    | with_reducible apply keeps_draw
    | with_reducible refine keeps_foldl _ (fun _ _ _ => ?_) _ ?_
    | with_reducible refine keeps_foldl_pair _ (fun _ _ _ => ?_) _ ?_
    | with_reducible refine keeps_ite ?_ ?_
    | with_reducible apply keeps_upd')

theorem keeps_s6Load {a : State} {s : State} (hs : Keeps a s) :
    Keeps a (s6Load s) := by
  unfold s6Load
  refine keeps_ite hs ?_
  extract_lets ls __src s0 x
  have h0 : Keeps a { s with pe := { s.pe with bankWritten := 0, stock := 0 } } := by apply keeps_upd' hs
  have hx : Keeps a x.s := keeps_foldl_run _ (fun b l h => keeps_legLoad h) _ (keeps_fset (keeps_ticOwners h0))
  clear_value x
  split
  · exact keeps_failAttempt hx
  · rename_i s1 _ _
    have h1 : Keeps a s1 := by
      refine keeps_ite ?_ (keeps_dropTopo hx)
      apply keeps_upd' hx
    clear_value s1
    split
    · exact keeps_failAttempt h1
    · rename_i s2 e
      exact keeps_forEach (fun _ _ h => keeps_portUp h)
        (keeps_localLoadAll (keeps_toStage (keeps_of_some (keeps_svcSetAddrs (keeps_loadFinish hx h1)) e)))

theorem keeps_s8Time {a : State} {s : State} (hs : Keeps a s) :
    Keeps a (s8Time s) := by
  unfold s8Time
  try dsimp only
  repeat' (first
    | with_reducible assumption
    | (with_reducible refine keeps_forEach (fun _ _ _ => ?_) ?_)
    | with_reducible apply keeps_slotEnable
    | with_reducible apply keeps_toStage
    | with_reducible apply keeps_gnssShow
    | with_reducible apply keeps_gnssSet
    | with_reducible apply keeps_surveyStart
    | with_reducible apply keeps_select
    | with_reducible refine keeps_ite ?_ ?_
    | with_reducible apply keeps_upd')

theorem keeps_s9Open {a : State} {s : State} (hs : Keeps a s) :
    Keeps a (s9Open s) := by
  unfold s9Open
  try dsimp only
  repeat' (first
    | with_reducible assumption
    | with_reducible apply keeps_setPhase
    | with_reducible apply keeps_toStage
    | with_reducible apply keeps_stockCommit
    | with_reducible apply keeps_jAppend
    | with_reducible apply keeps_stSet
    | with_reducible apply keeps_startSet
    | with_reducible apply keeps_fsetB
    | (with_reducible refine keeps_forEach (fun _ _ _ => ?_) ?_)
    | with_reducible apply keeps_cairnState
    | with_reducible apply keeps_pairOpen
    | with_reducible apply keeps_svcLevels
    | with_reducible apply keeps_portsRefresh
    | with_reducible apply keeps_getD
    | with_reducible apply keeps_upd')

theorem keeps_s7Lanes {a : State} {s : State} (hs : Keeps a s) :
    Keeps a (s7Lanes s) := by
  unfold s7Lanes
  try dsimp only
  repeat' (first
    | with_reducible assumption
    | with_reducible apply keeps_s9Open
    | with_reducible apply keeps_s8Time
    | with_reducible refine keeps_ite ?_ ?_)

theorem keeps_calFailed {a : State} {l : Nat} {tx : Bool} {s : State} (hs : Keeps a s) :
    Keeps a (calFailed l tx s) := by
  unfold calFailed
  try dsimp only
  repeat' (first
    | with_reducible assumption
    | with_reducible apply keeps_calFail
    | with_reducible apply keeps_failAttempt
    | with_reducible apply keeps_cairn
    | with_reducible refine keeps_ite ?_ ?_)

theorem keeps_calMeasured {a : State} {l : Nat} {tx : Bool} {meas : List Int} {slip : Nat} {tcw : Nat} {am : Nat} {s : State} (hs : Keeps a s) :
    Keeps a (calMeasured l tx meas slip tcw am s) := by
  unfold calMeasured
  try dsimp only
  repeat' (first
    | with_reducible assumption
    | with_reducible apply keeps_calDone
    | with_reducible apply keeps_calFailed
    | with_reducible apply keeps_calReject
    | with_reducible refine keeps_ite ?_ ?_)

theorem keeps_topoRepair {a : State} {bank : Nat} {i : Nat} {s : State} (hs : Keeps a s) :
    Keeps a (topoRepair bank i s) := by
  unfold topoRepair
  try dsimp only
  repeat' (first
    | with_reducible assumption
    | with_reducible apply keeps_occur
    | with_reducible apply keeps_putMem
    | with_reducible refine keeps_ite ?_ ?_
    | split
    | with_reducible apply keeps_upd')

theorem keeps_tempReading {a : State} {t : Int} {s : State} (hs : Keeps a s) :
    Keeps a (tempReading t s) := by
  unfold tempReading
  try dsimp only
  repeat' (first
    | with_reducible assumption
    | with_reducible apply keeps_setLevel
    | with_reducible apply keeps_wr
    | with_reducible refine keeps_ite ?_ ?_)

theorem keeps_railChange {a : State} {r : Nat} {out : Bool} {s : State} (hs : Keeps a s) :
    Keeps a (railChange r out s) := by
  unfold railChange
  try dsimp only
  repeat' (first
    | with_reducible assumption
    | with_reducible apply keeps_fset
    | with_reducible apply keeps_setLevel
    | with_reducible refine keeps_ite ?_ ?_)

theorem keeps_execS1Xo {osc : Bool} {hz : Nat} {pcie : Bool} {ms : Nat} {s : State}  :
    RKeeps s (execS1Xo osc hz pcie ms s) := by
  unfold execS1Xo
  first
    | with_reducible refine rkeeps_run ?_
    | with_reducible refine rkeeps_runIf ?_
    | with_reducible refine rkeeps_next ?_
    | (unfold keRun; with_reducible refine rkeeps_runIf ?_)
  try dsimp only
  repeat' (first
    | with_reducible assumption
    | with_reducible exact Keeps_refl _
    | with_reducible apply keeps_s1Xo)

theorem keeps_execS2Root {lock : Bool} {ms : Nat} {s : State}  :
    RKeeps s (execS2Root lock ms s) := by
  unfold execS2Root
  first
    | with_reducible refine rkeeps_run ?_
    | with_reducible refine rkeeps_runIf ?_
    | with_reducible refine rkeeps_next ?_
    | (unfold keRun; with_reducible refine rkeeps_runIf ?_)
  try dsimp only
  repeat' (first
    | with_reducible assumption
    | with_reducible exact Keeps_refl _
    | with_reducible apply keeps_s2Root)

theorem keeps_execS3Mem {ok : Bool} {s : State}  :
    RKeeps s (execS3Mem ok s) := by
  unfold execS3Mem
  first
    | with_reducible refine rkeeps_run ?_
    | with_reducible refine rkeeps_runIf ?_
    | with_reducible refine rkeeps_next ?_
    | (unfold keRun; with_reducible refine rkeeps_runIf ?_)
  try dsimp only
  repeat' (first
    | with_reducible assumption
    | with_reducible exact Keeps_refl _
    | with_reducible apply keeps_s3Mem)

theorem keeps_execS4Book {s : State}  :
    RKeeps s (execS4Book s) := by
  unfold execS4Book
  first
    | with_reducible refine rkeeps_run ?_
    | with_reducible refine rkeeps_runIf ?_
    | with_reducible refine rkeeps_next ?_
    | (unfold keRun; with_reducible refine rkeeps_runIf ?_)
  try dsimp only
  repeat' (first
    | with_reducible assumption
    | with_reducible exact Keeps_refl _
    | with_reducible apply keeps_s4Book)

theorem keeps_execS5Firm {romOk : Bool} {clustersOk : Bool} {s : State}  :
    RKeeps s (execS5Firm romOk clustersOk s) := by
  unfold execS5Firm
  first
    | with_reducible refine rkeeps_run ?_
    | with_reducible refine rkeeps_runIf ?_
    | with_reducible refine rkeeps_next ?_
    | (unfold keRun; with_reducible refine rkeeps_runIf ?_)
  try dsimp only
  repeat' (first
    | with_reducible assumption
    | with_reducible exact Keeps_refl _
    | with_reducible apply keeps_s5Firm)

theorem keeps_execS6Load {s : State}  :
    RKeeps s (execS6Load s) := by
  unfold execS6Load
  first
    | with_reducible refine rkeeps_run ?_
    | with_reducible refine rkeeps_runIf ?_
    | with_reducible refine rkeeps_next ?_
    | (unfold keRun; with_reducible refine rkeeps_runIf ?_)
  try dsimp only
  repeat' (first
    | with_reducible assumption
    | with_reducible exact Keeps_refl _
    | with_reducible apply keeps_s6Load)

theorem keeps_execS7Lanes {s : State}  :
    RKeeps s (execS7Lanes s) := by
  unfold execS7Lanes
  first
    | with_reducible refine rkeeps_run ?_
    | with_reducible refine rkeeps_runIf ?_
    | with_reducible refine rkeeps_next ?_
    | (unfold keRun; with_reducible refine rkeeps_runIf ?_)
  try dsimp only
  repeat' (first
    | with_reducible assumption
    | with_reducible exact Keeps_refl _
    | with_reducible apply keeps_withAnnounce
    | with_reducible apply keeps_s7Lanes
    | intro _)

theorem keeps_execCalSideFail {lane : Nat} {tx : Bool} {s : State}  :
    RKeeps s (execCalSideFail lane tx s) := by
  unfold execCalSideFail
  first
    | with_reducible refine rkeeps_run ?_
    | with_reducible refine rkeeps_runIf ?_
    | with_reducible refine rkeeps_next ?_
    | (unfold keRun; with_reducible refine rkeeps_runIf ?_)
  try dsimp only
  repeat' (first
    | with_reducible assumption
    | with_reducible exact Keeps_refl _
    | with_reducible apply keeps_calFailed)

theorem keeps_execCalSideComplete {lane : Nat} {tx : Bool} {lat : LaneMeasure} {tcw : Nat} {am : Nat} {s : State}  :
    RKeeps s (execCalSideComplete lane tx lat tcw am s) := by
  unfold execCalSideComplete
  first
    | with_reducible refine rkeeps_run ?_
    | with_reducible refine rkeeps_runIf ?_
    | with_reducible refine rkeeps_next ?_
    | (unfold keRun; with_reducible refine rkeeps_runIf ?_)
  try dsimp only
  repeat' (first
    | with_reducible assumption
    | with_reducible exact Keeps_refl _
    | with_reducible apply keeps_withAnnounce
    | with_reducible apply keeps_calMeasured
    | intro _)

theorem keeps_execTopoRepair {bank : Nat} {index : Nat} {s : State}  :
    RKeeps s (execTopoRepair bank index s) := by
  unfold execTopoRepair
  first
    | with_reducible refine rkeeps_run ?_
    | with_reducible refine rkeeps_runIf ?_
    | with_reducible refine rkeeps_next ?_
    | (unfold keRun; with_reducible refine rkeeps_runIf ?_)
  try dsimp only
  repeat' (first
    | with_reducible assumption
    | with_reducible exact Keeps_refl _
    | with_reducible apply keeps_topoRepair)

theorem keeps_execTempCrossing {temp : Int} {s : State}  :
    RKeeps s (execTempCrossing temp s) := by
  unfold execTempCrossing
  first
    | with_reducible refine rkeeps_run ?_
    | with_reducible refine rkeeps_runIf ?_
    | with_reducible refine rkeeps_next ?_
    | (unfold keRun; with_reducible refine rkeeps_runIf ?_)
  try dsimp only
  repeat' (first
    | with_reducible assumption
    | with_reducible exact Keeps_refl _
    | with_reducible apply keeps_tempReading)

theorem keeps_execRailExcursion {rail : Nat} {s : State}  :
    RKeeps s (execRailExcursion rail s) := by
  unfold execRailExcursion
  first
    | with_reducible refine rkeeps_run ?_
    | with_reducible refine rkeeps_runIf ?_
    | with_reducible refine rkeeps_next ?_
    | (unfold keRun; with_reducible refine rkeeps_runIf ?_)
  try dsimp only
  repeat' (first
    | with_reducible assumption
    | with_reducible exact Keeps_refl _
    | with_reducible apply keeps_railChange
    | with_reducible refine keeps_ite ?_ ?_)

theorem keeps_execRailReturn {rail : Nat} {s : State}  :
    RKeeps s (execRailReturn rail s) := by
  unfold execRailReturn
  first
    | with_reducible refine rkeeps_run ?_
    | with_reducible refine rkeeps_runIf ?_
    | with_reducible refine rkeeps_next ?_
    | (unfold keRun; with_reducible refine rkeeps_runIf ?_)
  try dsimp only
  repeat' (first
    | with_reducible assumption
    | with_reducible exact Keeps_refl _
    | with_reducible apply keeps_railChange
    | with_reducible refine keeps_ite ?_ ?_)

end Sys2Proof.Laws
end

