-- ==== Sys2Proof/Laws/KeepsUpstream.lean ====
section
/-!
SUPPORT. Laws/KeepsUpstream.lean: the functions of Machine/Upstream.lean keep what every command keeps (Keeps of Safety.lean).
-/
namespace Sys2Proof.Laws
open Sys2Proof Sys2Proof.Machine

set_option linter.unusedTactic false
set_option linter.unreachableTactic false
set_option linter.unusedVariables false

theorem keeps_ntsKeStart {a : State} {n : Nat} {s : State} (hs : Keeps a s) :
    Keeps a (ntsKeStart n s) := by
  unfold ntsKeStart
  try dsimp only
  repeat' (first
    | with_reducible assumption
    | with_reducible apply keeps_emitOut
    | with_reducible apply keeps_ntsSet
    | with_reducible apply keeps_upd')

theorem keeps_ntsPoll {a : State} {n : Nat} {s : State} (hs : Keeps a s) :
    Keeps a (ntsPoll n s) := by
  unfold ntsPoll
  try dsimp only
  repeat' (first
    | with_reducible assumption
    | with_reducible apply keeps_ntsKeStart
    | with_reducible apply keeps_drawBytes
    | with_reducible apply keeps_draw
    | with_reducible apply keeps_emitOut
    | with_reducible apply keeps_ntsSet
    | with_reducible refine keeps_ite ?_ ?_
    | split
    | with_reducible refine keeps_of_pair ?_ ‹_ = (_, _)›
    | with_reducible apply keeps_upd')

theorem keeps_ntsMiss {a : State} {n : Nat} {s : State} (hs : Keeps a s) :
    Keeps a (ntsMiss n s) := by
  unfold ntsMiss
  try dsimp only
  repeat' (first
    | with_reducible assumption
    | with_reducible apply keeps_refSlSet
    | with_reducible apply keeps_ntsSet
    | with_reducible apply keeps_refActLoss
    | with_reducible refine keeps_ite ?_ ?_
    | with_reducible apply keeps_upd')

theorem keeps_ntsSample {a : State} {n : Nat} {t1 : Nat} {t4 : Nat} {old : Bool} {m : List Byte} {s : State} (hs : Keeps a s) :
    Keeps a (ntsSample n t1 t4 old m s) := by
  unfold ntsSample
  try dsimp only
  repeat' (first
    | with_reducible assumption
    | with_reducible apply keeps_cairnState
    | with_reducible apply keeps_refSlSet
    | with_reducible apply keeps_refActive
    | with_reducible apply keeps_refSample
    | with_reducible refine keeps_ite ?_ ?_
    | with_reducible apply keeps_upd')

theorem keeps_ntsReply {a : State} {n : Nat} {t1 : Nat} {t4 : Nat} {old : Bool} {m : List Byte} {s : State} (hs : Keeps a s) :
    Keeps a (ntsReply n t1 t4 old m s) := by
  unfold ntsReply
  try dsimp only
  repeat' (first
    | with_reducible assumption
    | with_reducible apply keeps_ntsKeStart
    | with_reducible apply keeps_ntsSet
    | with_reducible apply keeps_refActive
    | with_reducible apply keeps_ntsSample
    | with_reducible refine keeps_ite ?_ ?_
    | split
    | with_reducible apply keeps_upd')

theorem keeps_ntsKeReply {a : State} {n : Nat} {chain : Bool} {notBefore : Nat} {notAfter : Nat} {c2s : List Byte} {s2c : List Byte} {recs : List Byte} {s : State} (hs : Keeps a s) :
    Keeps a (ntsKeReply n chain notBefore notAfter c2s s2c recs s) := by
  unfold ntsKeReply
  try dsimp only
  repeat' (first
    | with_reducible assumption
    | with_reducible apply keeps_ntsSet
    | with_reducible refine keeps_ite ?_ ?_
    | with_reducible apply keeps_upd')

theorem keeps_todMessage {a : State} {k : Nat} {b : List Byte} {framed : Bool} {tEnd : Nat} {pulse : Option (Nat × Nat)} {s0 : State} (hs0 : Keeps a s0) :
    Keeps a (todMessage k b framed tEnd pulse s0) := by
  unfold todMessage
  try dsimp only
  repeat' (first
    | with_reducible assumption
    | with_reducible apply keeps_bump
    | with_reducible apply keeps_refSlSet
    | with_reducible apply keeps_refSample
    | with_reducible refine keeps_ite ?_ ?_
    | with_reducible refine keeps_ite_fun ?_ ?_
    | with_reducible apply keeps_id
    | split
    | with_reducible apply keeps_upd_tod
    | with_reducible apply keeps_upd')

theorem keeps_execNtsUpstreamPoll {n : Nat} {s : State}  :
    RKeeps s (execNtsUpstreamPoll n s) := by
  unfold execNtsUpstreamPoll
  first
    | with_reducible refine rkeeps_run ?_
    | with_reducible refine rkeeps_runIf ?_
    | with_reducible refine rkeeps_next ?_
    | (unfold keRun; with_reducible refine rkeeps_runIf ?_)
  try dsimp only
  repeat' (first
    | with_reducible assumption
    | with_reducible exact Keeps_refl _
    | with_reducible apply keeps_ntsPoll)

theorem keeps_execNtsPollTimeout {n : Nat} {s : State}  :
    RKeeps s (execNtsPollTimeout n s) := by
  unfold execNtsPollTimeout
  first
    | with_reducible refine rkeeps_run ?_
    | with_reducible refine rkeeps_runIf ?_
    | with_reducible refine rkeeps_next ?_
    | (unfold keRun; with_reducible refine rkeeps_runIf ?_)
  try dsimp only
  repeat' (first
    | with_reducible assumption
    | with_reducible exact Keeps_refl _
    | with_reducible apply keeps_ntsMiss)

theorem keeps_execNtsPollReply {n : Nat} {t1 : Nat} {t4 : Nat} {old : Bool} {bytes : List Byte} {s : State}  :
    RKeeps s (execNtsPollReply n t1 t4 old bytes s) := by
  unfold execNtsPollReply
  first
    | with_reducible refine rkeeps_run ?_
    | with_reducible refine rkeeps_runIf ?_
    | with_reducible refine rkeeps_next ?_
    | (unfold keRun; with_reducible refine rkeeps_runIf ?_)
  try dsimp only
  repeat' (first
    | with_reducible assumption
    | with_reducible exact Keeps_refl _
    | with_reducible apply keeps_ntsReply)

theorem keeps_execNtsKeClientResponse {n : Nat} {chain : Bool} {notBefore : Nat} {notAfter : Nat} {c2s : List Byte} {s2c : List Byte} {recs : List Byte} {s : State}  :
    RKeeps s (execNtsKeClientResponse n chain notBefore notAfter c2s s2c recs s) := by
  unfold execNtsKeClientResponse
  first
    | with_reducible refine rkeeps_run ?_
    | with_reducible refine rkeeps_runIf ?_
    | with_reducible refine rkeeps_next ?_
    | (unfold keRun; with_reducible refine rkeeps_runIf ?_)
  try dsimp only
  repeat' (first
    | with_reducible assumption
    | with_reducible exact Keeps_refl _
    | with_reducible apply keeps_ntsKeReply)

theorem keeps_execTodMessage {k : Nat} {bytes : List Byte} {framed : Bool} {tEnd : Nat} {pulse : Option (Nat × Nat)} {s : State}  :
    RKeeps s (execTodMessage k bytes framed tEnd pulse s) := by
  unfold execTodMessage
  first
    | with_reducible refine rkeeps_run ?_
    | with_reducible refine rkeeps_runIf ?_
    | with_reducible refine rkeeps_next ?_
    | (unfold keRun; with_reducible refine rkeeps_runIf ?_)
  try dsimp only
  repeat' (first
    | with_reducible assumption
    | with_reducible exact Keeps_refl _
    | with_reducible apply keeps_todMessage)

end Sys2Proof.Laws
end

