-- ==== Sys2Proof/Laws/State.lean ====
section
/-!
SUPPORT. Laws/State.lean: for each update of the state by a named setter, every field it leaves as it was and the one it writes: one
simp lemma a setter, whose clauses simp takes one by one, so that no later proof unfolds a record update.
-/
namespace Sys2Proof.Laws
open Sys2Proof Sys2Proof.Machine

variable (s : State) (a n : Nat) (v : Word) (f : Fld) (c : Bool) (z : Int) (r : Nat → Nat) (i : Initiator) (bs : List Byte) (o : Out)
variable (gf : GnssState → GnssState) (sf : StartState → StartState) (pf : PairState → PairState) (px : PortState)
variable (ox : OutCh) (rx : RefSlot) (nx : NtsClient) (cx : Ctx)

/-- Writing a register. -/
@[simp] theorem wr_keeps :
    (wr a v s).pending = s.pending ∧ (wr a v s).variant = s.variant ∧ (wr a v s).initRegs = s.initRegs ∧ (wr a v s).mem = s.mem ∧
    (wr a v s).busOut = s.busOut ∧ (wr a v s).out = s.out ∧ (wr a v s).fresh = s.fresh ∧ (wr a v s).tsu = s.tsu ∧ (wr a v s).evc = s.evc ∧
    (wr a v s).cnt = s.cnt ∧ (wr a v s).pair = s.pair ∧ (wr a v s).start = s.start ∧ (wr a v s).otp = s.otp ∧ (wr a v s).nvm = s.nvm ∧
    (wr a v s).gate = s.gate ∧ (wr a v s).ports = s.ports ∧ (wr a v s).pe = s.pe ∧ (wr a v s).ecc = s.ecc ∧ (wr a v s).svc = s.svc ∧
    (wr a v s).refs = s.refs ∧ (wr a v s).refUp = s.refUp ∧ (wr a v s).servo = s.servo ∧ (wr a v s).har = s.har ∧ (wr a v s).tic = s.tic ∧
    (wr a v s).outs = s.outs ∧ (wr a v s).trigs = s.trigs ∧ (wr a v s).gnss = s.gnss ∧ (wr a v s).nts = s.nts ∧ (wr a v s).tod = s.tod ∧
    (wr a v s).ptp = s.ptp ∧ (wr a v s).ke = s.ke ∧ (wr a v s).bnu = s.bnu :=
  ⟨rfl, rfl, rfl, rfl, rfl, rfl, rfl, rfl, rfl, rfl, rfl, rfl, rfl, rfl, rfl, rfl, rfl, rfl, rfl, rfl, rfl, rfl, rfl, rfl, rfl, rfl, rfl,
  rfl, rfl, rfl, rfl, rfl⟩

/-- Writing a field of a register. -/
@[simp] theorem fset_keeps :
    (fset a f n s).pending = s.pending ∧ (fset a f n s).variant = s.variant ∧ (fset a f n s).initRegs = s.initRegs ∧
    (fset a f n s).mem = s.mem ∧ (fset a f n s).busOut = s.busOut ∧ (fset a f n s).out = s.out ∧ (fset a f n s).fresh = s.fresh ∧
    (fset a f n s).tsu = s.tsu ∧ (fset a f n s).evc = s.evc ∧ (fset a f n s).cnt = s.cnt ∧ (fset a f n s).pair = s.pair ∧
    (fset a f n s).start = s.start ∧ (fset a f n s).otp = s.otp ∧ (fset a f n s).nvm = s.nvm ∧ (fset a f n s).gate = s.gate ∧
    (fset a f n s).ports = s.ports ∧ (fset a f n s).pe = s.pe ∧ (fset a f n s).ecc = s.ecc ∧ (fset a f n s).svc = s.svc ∧
    (fset a f n s).refs = s.refs ∧ (fset a f n s).refUp = s.refUp ∧ (fset a f n s).servo = s.servo ∧ (fset a f n s).har = s.har ∧
    (fset a f n s).tic = s.tic ∧ (fset a f n s).outs = s.outs ∧ (fset a f n s).trigs = s.trigs ∧ (fset a f n s).gnss = s.gnss ∧
    (fset a f n s).nts = s.nts ∧ (fset a f n s).tod = s.tod ∧ (fset a f n s).ptp = s.ptp ∧ (fset a f n s).ke = s.ke ∧
    (fset a f n s).bnu = s.bnu :=
  ⟨rfl, rfl, rfl, rfl, rfl, rfl, rfl, rfl, rfl, rfl, rfl, rfl, rfl, rfl, rfl, rfl, rfl, rfl, rfl, rfl, rfl, rfl, rfl, rfl, rfl, rfl, rfl,
  rfl, rfl, rfl, rfl, rfl⟩

/-- Writing a one-bit field. -/
@[simp] theorem fsetB_keeps :
    (fsetB a f c s).pending = s.pending ∧ (fsetB a f c s).variant = s.variant ∧ (fsetB a f c s).initRegs = s.initRegs ∧
    (fsetB a f c s).mem = s.mem ∧ (fsetB a f c s).busOut = s.busOut ∧ (fsetB a f c s).out = s.out ∧ (fsetB a f c s).fresh = s.fresh ∧
    (fsetB a f c s).tsu = s.tsu ∧ (fsetB a f c s).evc = s.evc ∧ (fsetB a f c s).cnt = s.cnt ∧ (fsetB a f c s).pair = s.pair ∧
    (fsetB a f c s).start = s.start ∧ (fsetB a f c s).otp = s.otp ∧ (fsetB a f c s).nvm = s.nvm ∧ (fsetB a f c s).gate = s.gate ∧
    (fsetB a f c s).ports = s.ports ∧ (fsetB a f c s).pe = s.pe ∧ (fsetB a f c s).ecc = s.ecc ∧ (fsetB a f c s).svc = s.svc ∧
    (fsetB a f c s).refs = s.refs ∧ (fsetB a f c s).refUp = s.refUp ∧ (fsetB a f c s).servo = s.servo ∧ (fsetB a f c s).har = s.har ∧
    (fsetB a f c s).tic = s.tic ∧ (fsetB a f c s).outs = s.outs ∧ (fsetB a f c s).trigs = s.trigs ∧ (fsetB a f c s).gnss = s.gnss ∧
    (fsetB a f c s).nts = s.nts ∧ (fsetB a f c s).tod = s.tod ∧ (fsetB a f c s).ptp = s.ptp ∧ (fsetB a f c s).ke = s.ke ∧
    (fsetB a f c s).bnu = s.bnu :=
  ⟨rfl, rfl, rfl, rfl, rfl, rfl, rfl, rfl, rfl, rfl, rfl, rfl, rfl, rfl, rfl, rfl, rfl, rfl, rfl, rfl, rfl, rfl, rfl, rfl, rfl, rfl, rfl,
  rfl, rfl, rfl, rfl, rfl⟩

/-- Writing a signed field. -/
@[simp] theorem fsetI_keeps :
    (fsetI a f z s).pending = s.pending ∧ (fsetI a f z s).variant = s.variant ∧ (fsetI a f z s).initRegs = s.initRegs ∧
    (fsetI a f z s).mem = s.mem ∧ (fsetI a f z s).busOut = s.busOut ∧ (fsetI a f z s).out = s.out ∧ (fsetI a f z s).fresh = s.fresh ∧
    (fsetI a f z s).tsu = s.tsu ∧ (fsetI a f z s).evc = s.evc ∧ (fsetI a f z s).cnt = s.cnt ∧ (fsetI a f z s).pair = s.pair ∧
    (fsetI a f z s).start = s.start ∧ (fsetI a f z s).otp = s.otp ∧ (fsetI a f z s).nvm = s.nvm ∧ (fsetI a f z s).gate = s.gate ∧
    (fsetI a f z s).ports = s.ports ∧ (fsetI a f z s).pe = s.pe ∧ (fsetI a f z s).ecc = s.ecc ∧ (fsetI a f z s).svc = s.svc ∧
    (fsetI a f z s).refs = s.refs ∧ (fsetI a f z s).refUp = s.refUp ∧ (fsetI a f z s).servo = s.servo ∧ (fsetI a f z s).har = s.har ∧
    (fsetI a f z s).tic = s.tic ∧ (fsetI a f z s).outs = s.outs ∧ (fsetI a f z s).trigs = s.trigs ∧ (fsetI a f z s).gnss = s.gnss ∧
    (fsetI a f z s).nts = s.nts ∧ (fsetI a f z s).tod = s.tod ∧ (fsetI a f z s).ptp = s.ptp ∧ (fsetI a f z s).ke = s.ke ∧
    (fsetI a f z s).bnu = s.bnu :=
  ⟨rfl, rfl, rfl, rfl, rfl, rfl, rfl, rfl, rfl, rfl, rfl, rfl, rfl, rfl, rfl, rfl, rfl, rfl, rfl, rfl, rfl, rfl, rfl, rfl, rfl, rfl, rfl,
  rfl, rfl, rfl, rfl, rfl⟩

/-- Writing one bit of a bank of words. -/
@[simp] theorem setBank_keeps :
    (setBank r n c s).pending = s.pending ∧ (setBank r n c s).variant = s.variant ∧ (setBank r n c s).initRegs = s.initRegs ∧
    (setBank r n c s).mem = s.mem ∧ (setBank r n c s).busOut = s.busOut ∧ (setBank r n c s).out = s.out ∧
    (setBank r n c s).fresh = s.fresh ∧ (setBank r n c s).tsu = s.tsu ∧ (setBank r n c s).evc = s.evc ∧ (setBank r n c s).cnt = s.cnt ∧
    (setBank r n c s).pair = s.pair ∧ (setBank r n c s).start = s.start ∧ (setBank r n c s).otp = s.otp ∧ (setBank r n c s).nvm = s.nvm ∧
    (setBank r n c s).gate = s.gate ∧ (setBank r n c s).ports = s.ports ∧ (setBank r n c s).pe = s.pe ∧ (setBank r n c s).ecc = s.ecc ∧
    (setBank r n c s).svc = s.svc ∧ (setBank r n c s).refs = s.refs ∧ (setBank r n c s).refUp = s.refUp ∧
    (setBank r n c s).servo = s.servo ∧ (setBank r n c s).har = s.har ∧ (setBank r n c s).tic = s.tic ∧ (setBank r n c s).outs = s.outs ∧
    (setBank r n c s).trigs = s.trigs ∧ (setBank r n c s).gnss = s.gnss ∧ (setBank r n c s).nts = s.nts ∧ (setBank r n c s).tod = s.tod ∧
    (setBank r n c s).ptp = s.ptp ∧ (setBank r n c s).ke = s.ke ∧ (setBank r n c s).bnu = s.bnu :=
  ⟨rfl, rfl, rfl, rfl, rfl, rfl, rfl, rfl, rfl, rfl, rfl, rfl, rfl, rfl, rfl, rfl, rfl, rfl, rfl, rfl, rfl, rfl, rfl, rfl, rfl, rfl, rfl,
  rfl, rfl, rfl, rfl, rfl⟩

/-- Writing an initiator's copy. -/
@[simp] theorem wrI_keeps :
    (wrI i a v s).pending = s.pending ∧ (wrI i a v s).variant = s.variant ∧ (wrI i a v s).regs = s.regs ∧ (wrI i a v s).mem = s.mem ∧
    (wrI i a v s).busOut = s.busOut ∧ (wrI i a v s).out = s.out ∧ (wrI i a v s).fresh = s.fresh ∧ (wrI i a v s).tsu = s.tsu ∧
    (wrI i a v s).evc = s.evc ∧ (wrI i a v s).cnt = s.cnt ∧ (wrI i a v s).pair = s.pair ∧ (wrI i a v s).start = s.start ∧
    (wrI i a v s).otp = s.otp ∧ (wrI i a v s).nvm = s.nvm ∧ (wrI i a v s).gate = s.gate ∧ (wrI i a v s).ports = s.ports ∧
    (wrI i a v s).pe = s.pe ∧ (wrI i a v s).ecc = s.ecc ∧ (wrI i a v s).svc = s.svc ∧ (wrI i a v s).refs = s.refs ∧
    (wrI i a v s).refUp = s.refUp ∧ (wrI i a v s).servo = s.servo ∧ (wrI i a v s).har = s.har ∧ (wrI i a v s).tic = s.tic ∧
    (wrI i a v s).outs = s.outs ∧ (wrI i a v s).trigs = s.trigs ∧ (wrI i a v s).gnss = s.gnss ∧ (wrI i a v s).nts = s.nts ∧
    (wrI i a v s).tod = s.tod ∧ (wrI i a v s).ptp = s.ptp ∧ (wrI i a v s).ke = s.ke ∧ (wrI i a v s).bnu = s.bnu :=
  ⟨rfl, rfl, rfl, rfl, rfl, rfl, rfl, rfl, rfl, rfl, rfl, rfl, rfl, rfl, rfl, rfl, rfl, rfl, rfl, rfl, rfl, rfl, rfl, rfl, rfl, rfl, rfl,
  rfl, rfl, rfl, rfl, rfl⟩

/-- Writing the data a read returned. -/
@[simp] theorem answer_keeps :
    (answer i v s).pending = s.pending ∧ (answer i v s).variant = s.variant ∧ (answer i v s).regs = s.regs ∧
    (answer i v s).initRegs = s.initRegs ∧ (answer i v s).mem = s.mem ∧ (answer i v s).out = s.out ∧ (answer i v s).fresh = s.fresh ∧
    (answer i v s).tsu = s.tsu ∧ (answer i v s).evc = s.evc ∧ (answer i v s).cnt = s.cnt ∧ (answer i v s).pair = s.pair ∧
    (answer i v s).start = s.start ∧ (answer i v s).otp = s.otp ∧ (answer i v s).nvm = s.nvm ∧ (answer i v s).gate = s.gate ∧
    (answer i v s).ports = s.ports ∧ (answer i v s).pe = s.pe ∧ (answer i v s).ecc = s.ecc ∧ (answer i v s).svc = s.svc ∧
    (answer i v s).refs = s.refs ∧ (answer i v s).refUp = s.refUp ∧ (answer i v s).servo = s.servo ∧ (answer i v s).har = s.har ∧
    (answer i v s).tic = s.tic ∧ (answer i v s).outs = s.outs ∧ (answer i v s).trigs = s.trigs ∧ (answer i v s).gnss = s.gnss ∧
    (answer i v s).nts = s.nts ∧ (answer i v s).tod = s.tod ∧ (answer i v s).ptp = s.ptp ∧ (answer i v s).ke = s.ke ∧
    (answer i v s).bnu = s.bnu :=
  ⟨rfl, rfl, rfl, rfl, rfl, rfl, rfl, rfl, rfl, rfl, rfl, rfl, rfl, rfl, rfl, rfl, rfl, rfl, rfl, rfl, rfl, rfl, rfl, rfl, rfl, rfl, rfl,
  rfl, rfl, rfl, rfl, rfl⟩

/-- Writing bytes of a window memory. -/
@[simp] theorem stBytes_keeps :
    (stBytes a bs s).pending = s.pending ∧ (stBytes a bs s).variant = s.variant ∧ (stBytes a bs s).regs = s.regs ∧
    (stBytes a bs s).initRegs = s.initRegs ∧ (stBytes a bs s).busOut = s.busOut ∧ (stBytes a bs s).out = s.out ∧
    (stBytes a bs s).fresh = s.fresh ∧ (stBytes a bs s).tsu = s.tsu ∧ (stBytes a bs s).evc = s.evc ∧ (stBytes a bs s).cnt = s.cnt ∧
    (stBytes a bs s).pair = s.pair ∧ (stBytes a bs s).start = s.start ∧ (stBytes a bs s).otp = s.otp ∧ (stBytes a bs s).nvm = s.nvm ∧
    (stBytes a bs s).gate = s.gate ∧ (stBytes a bs s).ports = s.ports ∧ (stBytes a bs s).pe = s.pe ∧ (stBytes a bs s).ecc = s.ecc ∧
    (stBytes a bs s).svc = s.svc ∧ (stBytes a bs s).refs = s.refs ∧ (stBytes a bs s).refUp = s.refUp ∧ (stBytes a bs s).servo = s.servo ∧
    (stBytes a bs s).har = s.har ∧ (stBytes a bs s).tic = s.tic ∧ (stBytes a bs s).outs = s.outs ∧ (stBytes a bs s).trigs = s.trigs ∧
    (stBytes a bs s).gnss = s.gnss ∧ (stBytes a bs s).nts = s.nts ∧ (stBytes a bs s).tod = s.tod ∧ (stBytes a bs s).ptp = s.ptp ∧
    (stBytes a bs s).ke = s.ke ∧ (stBytes a bs s).bnu = s.bnu :=
  ⟨rfl, rfl, rfl, rfl, rfl, rfl, rfl, rfl, rfl, rfl, rfl, rfl, rfl, rfl, rfl, rfl, rfl, rfl, rfl, rfl, rfl, rfl, rfl, rfl, rfl, rfl, rfl,
  rfl, rfl, rfl, rfl, rfl⟩

/-- Writing a word of a window memory. -/
@[simp] theorem stW_keeps :
    (stW a v s).pending = s.pending ∧ (stW a v s).variant = s.variant ∧ (stW a v s).regs = s.regs ∧ (stW a v s).initRegs = s.initRegs ∧
    (stW a v s).busOut = s.busOut ∧ (stW a v s).out = s.out ∧ (stW a v s).fresh = s.fresh ∧ (stW a v s).tsu = s.tsu ∧
    (stW a v s).evc = s.evc ∧ (stW a v s).cnt = s.cnt ∧ (stW a v s).pair = s.pair ∧ (stW a v s).start = s.start ∧ (stW a v s).otp = s.otp ∧
    (stW a v s).nvm = s.nvm ∧ (stW a v s).gate = s.gate ∧ (stW a v s).ports = s.ports ∧ (stW a v s).pe = s.pe ∧ (stW a v s).ecc = s.ecc ∧
    (stW a v s).svc = s.svc ∧ (stW a v s).refs = s.refs ∧ (stW a v s).refUp = s.refUp ∧ (stW a v s).servo = s.servo ∧
    (stW a v s).har = s.har ∧ (stW a v s).tic = s.tic ∧ (stW a v s).outs = s.outs ∧ (stW a v s).trigs = s.trigs ∧
    (stW a v s).gnss = s.gnss ∧ (stW a v s).nts = s.nts ∧ (stW a v s).tod = s.tod ∧ (stW a v s).ptp = s.ptp ∧ (stW a v s).ke = s.ke ∧
    (stW a v s).bnu = s.bnu :=
  ⟨rfl, rfl, rfl, rfl, rfl, rfl, rfl, rfl, rfl, rfl, rfl, rfl, rfl, rfl, rfl, rfl, rfl, rfl, rfl, rfl, rfl, rfl, rfl, rfl, rfl, rfl, rfl,
  rfl, rfl, rfl, rfl, rfl⟩

/-- Writing what left the device. -/
@[simp] theorem emitOut_keeps :
    (emitOut o s).pending = s.pending ∧ (emitOut o s).variant = s.variant ∧ (emitOut o s).regs = s.regs ∧
    (emitOut o s).initRegs = s.initRegs ∧ (emitOut o s).mem = s.mem ∧ (emitOut o s).busOut = s.busOut ∧ (emitOut o s).fresh = s.fresh ∧
    (emitOut o s).tsu = s.tsu ∧ (emitOut o s).evc = s.evc ∧ (emitOut o s).cnt = s.cnt ∧ (emitOut o s).pair = s.pair ∧
    (emitOut o s).start = s.start ∧ (emitOut o s).otp = s.otp ∧ (emitOut o s).nvm = s.nvm ∧ (emitOut o s).gate = s.gate ∧
    (emitOut o s).ports = s.ports ∧ (emitOut o s).pe = s.pe ∧ (emitOut o s).ecc = s.ecc ∧ (emitOut o s).svc = s.svc ∧
    (emitOut o s).refs = s.refs ∧ (emitOut o s).refUp = s.refUp ∧ (emitOut o s).servo = s.servo ∧ (emitOut o s).har = s.har ∧
    (emitOut o s).tic = s.tic ∧ (emitOut o s).outs = s.outs ∧ (emitOut o s).trigs = s.trigs ∧ (emitOut o s).gnss = s.gnss ∧
    (emitOut o s).nts = s.nts ∧ (emitOut o s).tod = s.tod ∧ (emitOut o s).ptp = s.ptp ∧ (emitOut o s).ke = s.ke ∧
    (emitOut o s).bnu = s.bnu :=
  ⟨rfl, rfl, rfl, rfl, rfl, rfl, rfl, rfl, rfl, rfl, rfl, rfl, rfl, rfl, rfl, rfl, rfl, rfl, rfl, rfl, rfl, rfl, rfl, rfl, rfl, rfl, rfl,
  rfl, rfl, rfl, rfl, rfl⟩

/-- Writing the GNSS baseband. -/
@[simp] theorem gnssSet_keeps :
    (gnssSet gf s).pending = s.pending ∧ (gnssSet gf s).variant = s.variant ∧ (gnssSet gf s).regs = s.regs ∧
    (gnssSet gf s).initRegs = s.initRegs ∧ (gnssSet gf s).mem = s.mem ∧ (gnssSet gf s).busOut = s.busOut ∧ (gnssSet gf s).out = s.out ∧
    (gnssSet gf s).fresh = s.fresh ∧ (gnssSet gf s).tsu = s.tsu ∧ (gnssSet gf s).evc = s.evc ∧ (gnssSet gf s).cnt = s.cnt ∧
    (gnssSet gf s).pair = s.pair ∧ (gnssSet gf s).start = s.start ∧ (gnssSet gf s).otp = s.otp ∧ (gnssSet gf s).nvm = s.nvm ∧
    (gnssSet gf s).gate = s.gate ∧ (gnssSet gf s).ports = s.ports ∧ (gnssSet gf s).pe = s.pe ∧ (gnssSet gf s).ecc = s.ecc ∧
    (gnssSet gf s).svc = s.svc ∧ (gnssSet gf s).refs = s.refs ∧ (gnssSet gf s).refUp = s.refUp ∧ (gnssSet gf s).servo = s.servo ∧
    (gnssSet gf s).har = s.har ∧ (gnssSet gf s).tic = s.tic ∧ (gnssSet gf s).outs = s.outs ∧ (gnssSet gf s).trigs = s.trigs ∧
    (gnssSet gf s).nts = s.nts ∧ (gnssSet gf s).tod = s.tod ∧ (gnssSet gf s).ptp = s.ptp ∧ (gnssSet gf s).ke = s.ke ∧
    (gnssSet gf s).bnu = s.bnu :=
  ⟨rfl, rfl, rfl, rfl, rfl, rfl, rfl, rfl, rfl, rfl, rfl, rfl, rfl, rfl, rfl, rfl, rfl, rfl, rfl, rfl, rfl, rfl, rfl, rfl, rfl, rfl, rfl,
  rfl, rfl, rfl, rfl, rfl⟩

/-- Writing the start. -/
@[simp] theorem startSet_keeps :
    (startSet sf s).pending = s.pending ∧ (startSet sf s).variant = s.variant ∧ (startSet sf s).regs = s.regs ∧
    (startSet sf s).initRegs = s.initRegs ∧ (startSet sf s).mem = s.mem ∧ (startSet sf s).busOut = s.busOut ∧ (startSet sf s).out = s.out ∧
    (startSet sf s).fresh = s.fresh ∧ (startSet sf s).tsu = s.tsu ∧ (startSet sf s).evc = s.evc ∧ (startSet sf s).cnt = s.cnt ∧
    (startSet sf s).pair = s.pair ∧ (startSet sf s).otp = s.otp ∧ (startSet sf s).nvm = s.nvm ∧ (startSet sf s).gate = s.gate ∧
    (startSet sf s).ports = s.ports ∧ (startSet sf s).pe = s.pe ∧ (startSet sf s).ecc = s.ecc ∧ (startSet sf s).svc = s.svc ∧
    (startSet sf s).refs = s.refs ∧ (startSet sf s).refUp = s.refUp ∧ (startSet sf s).servo = s.servo ∧ (startSet sf s).har = s.har ∧
    (startSet sf s).tic = s.tic ∧ (startSet sf s).outs = s.outs ∧ (startSet sf s).trigs = s.trigs ∧ (startSet sf s).gnss = s.gnss ∧
    (startSet sf s).nts = s.nts ∧ (startSet sf s).tod = s.tod ∧ (startSet sf s).ptp = s.ptp ∧ (startSet sf s).ke = s.ke ∧
    (startSet sf s).bnu = s.bnu :=
  ⟨rfl, rfl, rfl, rfl, rfl, rfl, rfl, rfl, rfl, rfl, rfl, rfl, rfl, rfl, rfl, rfl, rfl, rfl, rfl, rfl, rfl, rfl, rfl, rfl, rfl, rfl, rfl,
  rfl, rfl, rfl, rfl, rfl⟩

/-- Writing the pair. -/
@[simp] theorem pairSet_keeps :
    (pairSet pf s).pending = s.pending ∧ (pairSet pf s).variant = s.variant ∧ (pairSet pf s).regs = s.regs ∧
    (pairSet pf s).initRegs = s.initRegs ∧ (pairSet pf s).mem = s.mem ∧ (pairSet pf s).busOut = s.busOut ∧ (pairSet pf s).out = s.out ∧
    (pairSet pf s).fresh = s.fresh ∧ (pairSet pf s).tsu = s.tsu ∧ (pairSet pf s).evc = s.evc ∧ (pairSet pf s).cnt = s.cnt ∧
    (pairSet pf s).start = s.start ∧ (pairSet pf s).otp = s.otp ∧ (pairSet pf s).nvm = s.nvm ∧ (pairSet pf s).gate = s.gate ∧
    (pairSet pf s).ports = s.ports ∧ (pairSet pf s).pe = s.pe ∧ (pairSet pf s).ecc = s.ecc ∧ (pairSet pf s).svc = s.svc ∧
    (pairSet pf s).refs = s.refs ∧ (pairSet pf s).refUp = s.refUp ∧ (pairSet pf s).servo = s.servo ∧ (pairSet pf s).har = s.har ∧
    (pairSet pf s).tic = s.tic ∧ (pairSet pf s).outs = s.outs ∧ (pairSet pf s).trigs = s.trigs ∧ (pairSet pf s).gnss = s.gnss ∧
    (pairSet pf s).nts = s.nts ∧ (pairSet pf s).tod = s.tod ∧ (pairSet pf s).ptp = s.ptp ∧ (pairSet pf s).ke = s.ke ∧
    (pairSet pf s).bnu = s.bnu :=
  ⟨rfl, rfl, rfl, rfl, rfl, rfl, rfl, rfl, rfl, rfl, rfl, rfl, rfl, rfl, rfl, rfl, rfl, rfl, rfl, rfl, rfl, rfl, rfl, rfl, rfl, rfl, rfl,
  rfl, rfl, rfl, rfl, rfl⟩

/-- Writing a port. -/
@[simp] theorem portSet_keeps :
    (portSet n px s).pending = s.pending ∧ (portSet n px s).variant = s.variant ∧ (portSet n px s).regs = s.regs ∧
    (portSet n px s).initRegs = s.initRegs ∧ (portSet n px s).mem = s.mem ∧ (portSet n px s).busOut = s.busOut ∧
    (portSet n px s).out = s.out ∧ (portSet n px s).fresh = s.fresh ∧ (portSet n px s).tsu = s.tsu ∧ (portSet n px s).evc = s.evc ∧
    (portSet n px s).cnt = s.cnt ∧ (portSet n px s).pair = s.pair ∧ (portSet n px s).start = s.start ∧ (portSet n px s).otp = s.otp ∧
    (portSet n px s).nvm = s.nvm ∧ (portSet n px s).gate = s.gate ∧ (portSet n px s).pe = s.pe ∧ (portSet n px s).ecc = s.ecc ∧
    (portSet n px s).svc = s.svc ∧ (portSet n px s).refs = s.refs ∧ (portSet n px s).refUp = s.refUp ∧ (portSet n px s).servo = s.servo ∧
    (portSet n px s).har = s.har ∧ (portSet n px s).tic = s.tic ∧ (portSet n px s).outs = s.outs ∧ (portSet n px s).trigs = s.trigs ∧
    (portSet n px s).gnss = s.gnss ∧ (portSet n px s).nts = s.nts ∧ (portSet n px s).tod = s.tod ∧ (portSet n px s).ptp = s.ptp ∧
    (portSet n px s).ke = s.ke ∧ (portSet n px s).bnu = s.bnu :=
  ⟨rfl, rfl, rfl, rfl, rfl, rfl, rfl, rfl, rfl, rfl, rfl, rfl, rfl, rfl, rfl, rfl, rfl, rfl, rfl, rfl, rfl, rfl, rfl, rfl, rfl, rfl, rfl,
  rfl, rfl, rfl, rfl, rfl⟩

/-- Writing an output. -/
@[simp] theorem outSet_keeps :
    (outSet n ox s).pending = s.pending ∧ (outSet n ox s).variant = s.variant ∧ (outSet n ox s).regs = s.regs ∧
    (outSet n ox s).initRegs = s.initRegs ∧ (outSet n ox s).mem = s.mem ∧ (outSet n ox s).busOut = s.busOut ∧ (outSet n ox s).out = s.out ∧
    (outSet n ox s).fresh = s.fresh ∧ (outSet n ox s).tsu = s.tsu ∧ (outSet n ox s).evc = s.evc ∧ (outSet n ox s).cnt = s.cnt ∧
    (outSet n ox s).pair = s.pair ∧ (outSet n ox s).start = s.start ∧ (outSet n ox s).otp = s.otp ∧ (outSet n ox s).nvm = s.nvm ∧
    (outSet n ox s).gate = s.gate ∧ (outSet n ox s).ports = s.ports ∧ (outSet n ox s).pe = s.pe ∧ (outSet n ox s).ecc = s.ecc ∧
    (outSet n ox s).svc = s.svc ∧ (outSet n ox s).refs = s.refs ∧ (outSet n ox s).refUp = s.refUp ∧ (outSet n ox s).servo = s.servo ∧
    (outSet n ox s).har = s.har ∧ (outSet n ox s).tic = s.tic ∧ (outSet n ox s).trigs = s.trigs ∧ (outSet n ox s).gnss = s.gnss ∧
    (outSet n ox s).nts = s.nts ∧ (outSet n ox s).tod = s.tod ∧ (outSet n ox s).ptp = s.ptp ∧ (outSet n ox s).ke = s.ke ∧
    (outSet n ox s).bnu = s.bnu :=
  ⟨rfl, rfl, rfl, rfl, rfl, rfl, rfl, rfl, rfl, rfl, rfl, rfl, rfl, rfl, rfl, rfl, rfl, rfl, rfl, rfl, rfl, rfl, rfl, rfl, rfl, rfl, rfl,
  rfl, rfl, rfl, rfl, rfl⟩

/-- Writing a reference slot. -/
@[simp] theorem refSlSet_keeps :
    (refSlSet n rx s).pending = s.pending ∧ (refSlSet n rx s).variant = s.variant ∧ (refSlSet n rx s).regs = s.regs ∧
    (refSlSet n rx s).initRegs = s.initRegs ∧ (refSlSet n rx s).mem = s.mem ∧ (refSlSet n rx s).busOut = s.busOut ∧
    (refSlSet n rx s).out = s.out ∧ (refSlSet n rx s).fresh = s.fresh ∧ (refSlSet n rx s).tsu = s.tsu ∧ (refSlSet n rx s).evc = s.evc ∧
    (refSlSet n rx s).cnt = s.cnt ∧ (refSlSet n rx s).pair = s.pair ∧ (refSlSet n rx s).start = s.start ∧ (refSlSet n rx s).otp = s.otp ∧
    (refSlSet n rx s).nvm = s.nvm ∧ (refSlSet n rx s).gate = s.gate ∧ (refSlSet n rx s).ports = s.ports ∧ (refSlSet n rx s).pe = s.pe ∧
    (refSlSet n rx s).ecc = s.ecc ∧ (refSlSet n rx s).svc = s.svc ∧ (refSlSet n rx s).refUp = s.refUp ∧ (refSlSet n rx s).servo = s.servo ∧
    (refSlSet n rx s).har = s.har ∧ (refSlSet n rx s).tic = s.tic ∧ (refSlSet n rx s).outs = s.outs ∧ (refSlSet n rx s).trigs = s.trigs ∧
    (refSlSet n rx s).gnss = s.gnss ∧ (refSlSet n rx s).nts = s.nts ∧ (refSlSet n rx s).tod = s.tod ∧ (refSlSet n rx s).ptp = s.ptp ∧
    (refSlSet n rx s).ke = s.ke ∧ (refSlSet n rx s).bnu = s.bnu :=
  ⟨rfl, rfl, rfl, rfl, rfl, rfl, rfl, rfl, rfl, rfl, rfl, rfl, rfl, rfl, rfl, rfl, rfl, rfl, rfl, rfl, rfl, rfl, rfl, rfl, rfl, rfl, rfl,
  rfl, rfl, rfl, rfl, rfl⟩

/-- Writing an NTS upstream. -/
@[simp] theorem ntsSet_keeps :
    (ntsSet n nx s).pending = s.pending ∧ (ntsSet n nx s).variant = s.variant ∧ (ntsSet n nx s).regs = s.regs ∧
    (ntsSet n nx s).initRegs = s.initRegs ∧ (ntsSet n nx s).mem = s.mem ∧ (ntsSet n nx s).busOut = s.busOut ∧ (ntsSet n nx s).out = s.out ∧
    (ntsSet n nx s).fresh = s.fresh ∧ (ntsSet n nx s).tsu = s.tsu ∧ (ntsSet n nx s).evc = s.evc ∧ (ntsSet n nx s).cnt = s.cnt ∧
    (ntsSet n nx s).pair = s.pair ∧ (ntsSet n nx s).start = s.start ∧ (ntsSet n nx s).otp = s.otp ∧ (ntsSet n nx s).nvm = s.nvm ∧
    (ntsSet n nx s).gate = s.gate ∧ (ntsSet n nx s).ports = s.ports ∧ (ntsSet n nx s).pe = s.pe ∧ (ntsSet n nx s).ecc = s.ecc ∧
    (ntsSet n nx s).svc = s.svc ∧ (ntsSet n nx s).refs = s.refs ∧ (ntsSet n nx s).refUp = s.refUp ∧ (ntsSet n nx s).servo = s.servo ∧
    (ntsSet n nx s).har = s.har ∧ (ntsSet n nx s).tic = s.tic ∧ (ntsSet n nx s).outs = s.outs ∧ (ntsSet n nx s).trigs = s.trigs ∧
    (ntsSet n nx s).gnss = s.gnss ∧ (ntsSet n nx s).tod = s.tod ∧ (ntsSet n nx s).ptp = s.ptp ∧ (ntsSet n nx s).ke = s.ke ∧
    (ntsSet n nx s).bnu = s.bnu :=
  ⟨rfl, rfl, rfl, rfl, rfl, rfl, rfl, rfl, rfl, rfl, rfl, rfl, rfl, rfl, rfl, rfl, rfl, rfl, rfl, rfl, rfl, rfl, rfl, rfl, rfl, rfl, rfl,
  rfl, rfl, rfl, rfl, rfl⟩

/-- Writing a context. -/
@[simp] theorem ctxSet_keeps :
    (ctxSet n cx s).pending = s.pending ∧ (ctxSet n cx s).variant = s.variant ∧ (ctxSet n cx s).regs = s.regs ∧
    (ctxSet n cx s).initRegs = s.initRegs ∧ (ctxSet n cx s).mem = s.mem ∧ (ctxSet n cx s).busOut = s.busOut ∧ (ctxSet n cx s).out = s.out ∧
    (ctxSet n cx s).fresh = s.fresh ∧ (ctxSet n cx s).tsu = s.tsu ∧ (ctxSet n cx s).evc = s.evc ∧ (ctxSet n cx s).cnt = s.cnt ∧
    (ctxSet n cx s).pair = s.pair ∧ (ctxSet n cx s).start = s.start ∧ (ctxSet n cx s).otp = s.otp ∧ (ctxSet n cx s).nvm = s.nvm ∧
    (ctxSet n cx s).gate = s.gate ∧ (ctxSet n cx s).ports = s.ports ∧ (ctxSet n cx s).ecc = s.ecc ∧ (ctxSet n cx s).svc = s.svc ∧
    (ctxSet n cx s).refs = s.refs ∧ (ctxSet n cx s).refUp = s.refUp ∧ (ctxSet n cx s).servo = s.servo ∧ (ctxSet n cx s).har = s.har ∧
    (ctxSet n cx s).tic = s.tic ∧ (ctxSet n cx s).outs = s.outs ∧ (ctxSet n cx s).trigs = s.trigs ∧ (ctxSet n cx s).gnss = s.gnss ∧
    (ctxSet n cx s).nts = s.nts ∧ (ctxSet n cx s).tod = s.tod ∧ (ctxSet n cx s).ptp = s.ptp ∧ (ctxSet n cx s).ke = s.ke ∧
    (ctxSet n cx s).bnu = s.bnu :=
  ⟨rfl, rfl, rfl, rfl, rfl, rfl, rfl, rfl, rfl, rfl, rfl, rfl, rfl, rfl, rfl, rfl, rfl, rfl, rfl, rfl, rfl, rfl, rfl, rfl, rfl, rfl, rfl,
  rfl, rfl, rfl, rfl, rfl⟩

@[simp] theorem wr_regs : (wr a v s).regs = mapSet (regReset s.variant) a v s.regs := rfl
@[simp] theorem wrI_initRegs : (wrI i a v s).initRegs = mapSet (initReset s.variant) (initKey i a) v s.initRegs := rfl
@[simp] theorem answer_busOut : (answer i v s).busOut = mapSet (fun _ => 0) (initIx i) v s.busOut := rfl
@[simp] theorem stBytes_mem : (stBytes a bs s).mem = mapPut memDefault s.mem a bs := rfl
@[simp] theorem emitOut_out : (emitOut o s).out = o :: s.out := rfl
@[simp] theorem gnssSet_gnss : (gnssSet gf s).gnss = gf s.gnss := rfl
@[simp] theorem startSet_start : (startSet sf s).start = sf s.start := rfl
@[simp] theorem pairSet_pair : (pairSet pf s).pair = pf s.pair := rfl
@[simp] theorem portSet_ports : (portSet n px s).ports = mapSet portReset n px s.ports := rfl
@[simp] theorem outSet_outs : (outSet n ox s).outs = mapSet outReset n ox s.outs := rfl
@[simp] theorem refSlSet_refs : (refSlSet n rx s).refs = mapSet refReset n rx s.refs := rfl
@[simp] theorem ntsSet_nts : (ntsSet n nx s).nts = mapSet ntsReset n nx s.nts := rfl
@[simp] theorem ctxSet_pe : (ctxSet n cx s).pe = { s.pe with ctx := mapSet ctxReset n cx s.pe.ctx } := rfl

end Sys2Proof.Laws
end

