-- ==== Sys2Proof/Tests/Slice0.lean ====
section
/-!
SUPPORT. Tests/Slice0.lean: the model's own tests: ill-formed operands are refused, the hypotheses of the statements are met by small
states, and a few steps and computations give what the spec writes out.
-/
namespace Sys2Proof.Machine
open Sys2Proof
set_option Elab.async false

-- Well-formed operands: for each check of WellFormed.lean a term that it refuses ----------------------------------------

theorem test_wf_refuses_1 : [Instr.registerWrite .harness 0 0, .registerWrite .jtag 4294967296 0, .absentAccess .harness false 0,
  .absentAccess .jtag false 4294967296, .narrowAccess .harness false 0, .narrowAccess .jtag false 4294967296,
  .unmappedAccess .harness false 0, .unmappedAccess .jtag false 4294967296, .readOnlyWindowWrite .harness 0 0,
  .readOnlyWindowWrite .jtag 4294967296 0, .tsuIncNomWrite .harness 0, .tsuFreqAdjWrite .harness 0, .tsuSlewReqWrite .harness 0,
  .tsuSlewLimitWrite .harness 0, .tsuSetArm .harness 0, .tsuSetCancel .harness 0, .tsuNowLoRead .harness,
  .tsuLeapPendingWrite .harness 0, .compareTick [(64, 0)], .portModeWrite .harness 0 0, .portModeWrite .jtag 8 0,
  .receptionStop 8 ⟨[], 0, 0, 0, 0⟩, .receptionStop 0 ⟨[], 8, 0, 0, 0⟩, .receptionStop 0 ⟨[], 0, 0, 0, 33554432⟩, .lanePowerDown 8,
  .frameReceive 8 [] false 0 0 0 0 0 0 0, .frameReceive 0 [] false 8 0 0 0 0 0 0, .frameReceive 0 [] false 0 0 0 0 0 0 33554432,
  .rxRateExcursion 8 0, .delayAdjWrite .harness 0 false 0, .delayAdjWrite .jtag 8 false 0, .txPllRelock 8, .rxLockGain 8 false,
  .rxLockLoss 8 ⟨[], 0, 0, 0, 0⟩, .rxLockLoss 0 ⟨[], 8, 0, 0, 0⟩, .rxLockLoss 0 ⟨[], 0, 0, 0, 33554432⟩, .portCalRecal .harness 0,
  .portCalRecal .jtag 8, .calSideComplete 8 false ⟨List.replicate 256 0, 0⟩ 0 0, .calSideComplete 0 false ⟨[], 0⟩ 0 0,
  .calSideComplete 0 false ⟨List.replicate 256 0, 0⟩ 0 4096, .calSideFail 8 false, .restEnter [] [], .restExit [] [],
  .injection 8 0 0 [], .injection 0 0 33554432 [], .nop 64 0, .nop 0 4].all (fun i => !i.wf) = true := by decide +kernel

theorem test_wf_refuses_2 : [Instr.imm 64 0, .imm 0 4, .load 64 0, .load 0 4, .store 64 0, .store 0 4, .copy 64 0, .copy 0 4,
  .seta 64 0, .seta 0 4, .alu 64 0, .alu 0 4, .testb 64 0, .testb 0 4, .lookup 64 0, .lookup 0 4, .sketch 64 0, .sketch 0 4,
  .count 64 0, .count 0 4, .stamp 64 0, .stamp 0 4, .slot 64 0, .slot 0 4, .quality 64 0, .quality 0 4, .seal 64 0, .seal 0 4,
  .csum 64 0, .csum 0 4, .emit 64 0, .emit 0 4, .relay 64 0, .relay 0 4, .punt 64 0, .punt 0 4, .drop 64 0, .drop 0 4,
  .call 64 0, .call 0 4, .ret 64 0, .ret 0 4, .trap 64 0, .trap 0 4, .successor 64 0, .successor 0 4, .peCtxSnapGo .harness,
  .peCtxSnapResume .harness].all (fun i => !i.wf) = true := by decide +kernel

theorem test_wf_refuses_3 : [Instr.topoWindowWrite .harness 0 0, .topoWindowWrite .jtag 2097152 0, .topoSwapCtlGo .harness false,
  .topoTblCfgWrite .harness 0 0 0, .topoTblCfgWrite .jtag 64 0 0, .topoTblCfgWrite .jtag 0 2 0, .topoTblGenWrite .harness 0,
  .tableStoreWrite .harness 0 0, .tableStoreWrite .jtag 25165824 0, .setupDeadline 8 0, .startBlockEntry 8 0, .freePlacement 8,
  .freeQueueTimeout 8 0, .freeQueueTimeout 0 4, .launchReport 8, .gateConfigWrite .harness 0 0, .gateConfigWrite .jtag 4 0,
  .keyExpiry 64, .svcKeyCtlRotate .harness, .svcKeyCtlRevoke .harness 0, .svcKeyCtlRevoke .jtag 4294967296, .keSyn 3,
  .keHandshakeAck 3, .keClientHello 3, .keClientFinished 3 () () () (), .keAlertRx 3, .keKeyUpdate 3, .kePeerFin 3, .keHsTimeout 16384,
  .ptpTxInject 5 0 0 none 0, .ptpTxInject 0 4 0 none 0, .ptpTxInject 0 0 8 none 0, .grantExpiry 65536 0, .grantExpiry 0 3,
  .grantEntryFree 65536, .ptpCancel [] [], .annTimeout (8), .annTimeout 17, .delayAnswerRx 3, .bnuWindowWrite .jtag 8 0 0,
  .bnuWindowWrite .jtag 0 65536 0, .bnuSlotWordsWrite .harness 0 0, .bnuSlotWordsWrite .jtag 8 0, .bnuSubmitGo .harness 0,
  .bnuSubmitGo .jtag 8, .bnuJobStart 8, .bnuJobComplete 8 0, .bnuJobComplete 0 3].all (fun i => !i.wf) = true := by decide +kernel

theorem test_wf_refuses_4 : [Instr.bnuAbortGo .harness 0 0, .bnuAbortGo .jtag 8 0, .bnuAbortGo .jtag 0 65536,
  .bnuCtlAbortAll .harness 0, .bnuCtlAbortAll .jtag 8, .bnuCtlSelftest .harness 0, .bnuCtlSelftest .jtag 8,
  .bnuSelftestDone 8 false, .bnuCtlOwnerWrite .harness 0 false, .bnuCtlOwnerWrite .jtag 8 false, .bnuCplRead .harness 0,
  .bnuCplRead .jtag 8, .esBlock [], .bnuEsCtlRestart .harness, .bnuRandRead .harness, .ticEdge 8 false 0 0 0 0 0,
  .ticEdge 0 false 0 0 0 128 0, .ticEdge 0 false 0 0 0 0 128, .ticTimeout 8, .ticCtlArm .harness 0 0, .ticCtlArm .jtag 8 0,
  .ticConfigWrite .harness 0 false 0, .ticConfigWrite .jtag 8 false 0, .ticRes0Read .harness 0, .ticRes0Read .jtag 8,
  .gnssChannelLoss 96, .gnssNavUnit 0 4 0 0 0 1 0 0 0 0 [] none, .gnssNavUnit 0 0 3 0 0 1 0 0 0 0 [] none,
  .gnssNavUnit 0 0 0 0 96 1 0 0 0 0 [] none, .gnssNavUnit 0 0 0 0 0 0 0 0 0 0 [] none,
  .gnssNavUnit 0 0 0 0 0 769 0 0 0 0 [] none, .gnssNavUnit 0 0 0 0 0 1 3 0 0 0 [] none, .gnssSurveyRestart .harness,
  .gnssCtlAccept .harness, .gnssSnapCtlArm .harness 0, .gnssSnapCtlRelease .harness, .refSample 20 0 0 0 0 0 false,
  .refSample 8 0 0 0 0 0 false, .refActivityLoss 20, .refsCtlWrite .harness 0, .refSlotEnableWrite .harness 0 0,
  .refSlotEnableWrite .jtag 20 0, .refsCmdAcceptJump .harness 0, .refsCmdAcceptJump .jtag 32, .refsCmdLockout .harness 0,
  .refsCmdLockout .jtag 32, .refsCmdUnlock .harness 0, .refsCmdUnlock .jtag 32].all (fun i => !i.wf) = true := by decide +kernel

theorem test_wf_refuses_5 : [Instr.ntsUpstreamPoll (8), .ntsUpstreamPoll 17, .ntsPollTimeout (8), .ntsPollTimeout 17,
  .todMessage 2 [] false 0 none, .outCtlEnableWrite .harness 0 0, .outCtlEnableWrite .jtag 8 0, .outPllLock 8, .outPllLockLoss 8,
  .outQerrPost 8 0, .alignMeasurement 8 0, .alignLost 8, .todOutMessage 2, .trigCtlArm .harness 0 0, .trigCtlArm .jtag 16 0,
  .trigCtlDisarm .harness 0, .trigCtlDisarm .jtag 16, .trigFire 16 (), .belayLaneUp 2, .belayLaneDown 2, .pairCmdJoin .harness,
  .pairCmdYield .harness, .pairCmdPart .harness, .pwrGoodRise 4, .poresetNRelease 4, .warmResetNRelease 4,
  .s1Xo false 0 false 4294967296, .s2Root false 4294967296, .sysBivouacCtlRelease .harness 0, .sysBivouacCtlRelease .jtag 4,
  .openSession [] [], .prove [] [], .handshakeExpiry 4294967296, .lockoutExpiry (0), .lockoutExpiry 4, .sessionIdle 4294967296,
  .closeSession [] [], .ping [] [], .subscribe [] [], .sessions [] [], .regpathBind [] [], .regRead [] [], .regWrite [] [],
  .memRead [] [], .memWrite [] [], .tblCfg [] [], .tblPut [] [], .tblDel [] []].all (fun i => !i.wf) = true := by decide +kernel

theorem test_wf_refuses_6 : [Instr.tblFlip [] [], .topoLoad [] [], .topoSwap [] [], .ctxSnap [] [], .timeGet [] [],
  .timeSet [] [], .freqSet [] [], .slew [] [], .leapSet [] [], .refCmd [] [], .refStatus [] [], .svcAddr [] [], .ntpProf [] [],
  .ntsKey [] [], .keIdent [] [], .gnssSnap [] [], .gnssAccept [] [], .gnssSurvey [] [], .snapRelease [] [], .pairJoin [] [],
  .pairYield [] [], .pairPart [] [], .belayFrame [] [], .nvmRead [] [], .nvmErase [] [], .nvmWrite [] [], .nvmVerify [] [],
  .nvmActivate [] [], .restart [] [], .bivRelease [] [], .otpOwner [] [], .cntSnap [] [], .cntRead [] [], .logRead [] [],
  .dumpCfg [] [], .ringReqProdWrite 4 0 none [], .ringReqProdWrite 0 4294967296 none [], .hspiRegRd 4294967296,
  .hspiRegWr 4294967296 0, .scrubRead 12 0, .eccInjectArm .harness 0, .eccLogClrGo .harness 0, .eccLogClrGo .jtag 16,
  .sourcePending 256, .evcEnWrite .harness 0 0, .evcEnWrite .jtag 4 0, .evcSyncRead .harness, .evcClaimRead .harness 0].all (fun i => !i.wf) = true := by decide +kernel

theorem test_wf_refuses_7 : [Instr.evcClaimRead .jtag 34, .evcCompleteWrite .harness 0 0, .evcCompleteWrite .jtag 64 0,
  .evcCompleteWrite .jtag 0 512, .evcSetGo .harness 0, .evcSetGo .jtag 256, .evcSrcCfgWrite .harness 0 0,
  .evcSrcCfgWrite .jtag 256 0, .cntCtlSnap .harness, .outputEdge 8 false, .harnessBadMessage [] [], .ringRspConsWrite 4 0 [],
  .ringRspConsWrite 0 4294967296 [], .disqTimeExpiry 20, .keSegment 3 (),
  .ntsKeClientResponse (8) false 0 0 (List.replicate 32 0) (List.replicate 32 0) [],
  .ntsKeClientResponse 17 false 0 0 (List.replicate 32 0) (List.replicate 32 0) [],
  .ntsKeClientResponse 9 false 0 0 [] (List.replicate 32 0) [], .ntsKeClientResponse 9 false 0 0 (List.replicate 32 0) [] [],
  .ntsPollReply (8) 0 0 false [], .ntsPollReply 17 0 0 false [], .topoRepair 2 0, .topoRepair 0 32768, .keLingerTimeout 16384,
  .keRto 16384, .identExpiry 4, .identExpiryWarning 4, .upstreamGrantRenew (8) 0, .upstreamGrantRenew 17 0,
  .upstreamGrantRenew 9 3, .upstreamGrantRetry (8) 0, .upstreamGrantRetry 17 0, .upstreamGrantRetry 9 3, .bnuYield 8 0,
  .drbgReseed 11, .drbgStale 11, .gnssSysExclusionEnd 4, .responseBufferTimeout 4, .rowRetireComplete 12 0,
  .rowRetireComplete 0 16, .tempCrossing (-32769), .tempCrossing 32768, .railExcursion 8, .railReturn 8, .gnssChannelTrack 96,
  .setEdge ⟨0, 0, 128, 0⟩, .setEdge ⟨0, 0, 0, 128⟩, .gnssSolution 0 0 0 0 [] [(4, 0)] 0].all (fun i => !i.wf) = true := by decide +kernel

theorem test_wf_accepts : [Instr.freePlacement 7, .nop 63 3, .keSyn 1, .registerWrite .jtag 4294967295 0, .restEnter (List.replicate 24 0) [],
  .bnuJobComplete 7 2, .annTimeout 16, .gnssChannelLoss 95].all Instr.wf = true := by decide +kernel

-- States on which the statements' hypotheses are met -------------------------------------------------------------------------

/-- Canonical form as a Bool. -/
def canonB (s : State) : Bool :=
  memWf s.mem && mapWf (regReset s.variant) s.regs && mapWf (initReset s.variant) s.initRegs && mapWf (fun _ => (0 : Word)) s.busOut
    && mapWf flashDefault s.nvm.flash && mapWf gateReset s.gate && mapWf portReset s.ports && mapWf refReset s.refs
    && mapWf (fun _ => none) s.refUp && mapWf ticReset s.tic && mapWf outReset s.outs && mapWf trigReset s.trigs && mapWf ntsReset s.nts
    && mapWf (fun _ => none) s.tod && mapWf ctxReset s.pe.ctx && mapWf (fun _ => []) s.pe.q && mapWf (fun _ => 0) s.cnt.live
    && mapWf keyReset s.svc.keys && mapWf (fun _ => 0) s.svc.sketch && mapWf (fun _ => none) s.ptp.grants
    && mapWf (fun _ => none) s.ke.conns && mapWf bnuReset s.bnu.units && mapWf (fun _ => 0) s.ecc.bad && mapWf (fun _ => none) s.ecc.log

def readyB (s : State) : Bool := !heldInReset s && canonB s

theorem readyB_ready {s : State} (h : readyB s = true) : s.Ready := by
  simp only [readyB, canonB, Bool.and_eq_true, Bool.not_eq_true', and_assoc] at h
  constructor
  · exact h.1
  · constructor <;> simp only [h]

/-- Fields of registers set. -/
def withFields (l : List (Nat × Fld × Nat)) (s : State) : State := l.foldl (fun s x => fset x.1 x.2.1 x.2.2 s) s

/-- A device that serves: stage S9, phase SERVING, TSU SET at SEC 1000. -/
def serving : State :=
  let s := setPhase 3 (withFields [(SYS_START_STATUS, SYS_START_STATUS_STAGE, 9), (TSU_STATE, TSU_STATE_STATE, 1)] State.reset)
  { s with tsu := { s.tsu with now := 1000 * 10 ^ 9 * 2 ^ 72 } }

/-- The same with the TSU UNSET. -/
def unsetState : State := fsetB TSU_STATE TSU_STATE_STATE false serving

/-- Port 2 at 10G, in service. -/
def port2 : State :=
  portSet 2 { portReset 2 with powered := true, lock := true } (withFields [(PORT_MODE 0, PORT_MODE_GROUP_MODE, 1), (PORT_MODE 2, PORT_MODE_ENABLE, 1),
    (PORT_STATUS 2, PORT_STATUS_LINK, 1), (PORT_STATUS 2, PORT_STATUS_TX_CAL_VALID, 1), (PORT_STATUS 2, PORT_STATUS_RX_CAL_VALID, 1)] serving)

/-- What a command answers. -/
def nextOf (r : Res) : State := match r with | .next t => t | _ => State.reset

theorem witness_HeldInResetDoesNothing : heldInReset { State.reset with start := { State.reset.start with pwrGood := false } } = true := by decide +kernel
theorem witness_IdleIsOneTick : serving.Ready ∧ serving.pending = [] ∧ 3 ≤ stage serving ∧ serving.tsu.slewTick = 0 :=
  ⟨readyB_ready (by decide +kernel), by decide +kernel⟩
theorem witness_IdleIsOneTick_slew : ∃ s : State, s.Ready ∧ s.pending = [] ∧ 3 ≤ stage s ∧ s.tsu.slewTick ≠ 0 ∧
    s.tsu.slewTick.natAbs < s.tsu.slewRemain.natAbs :=
  ⟨{ serving with tsu := { serving.tsu with slewTick := -1, slewRemain := -2 } }, readyB_ready (by decide +kernel), by decide +kernel⟩
theorem witness_ResetReady : State.reset.Ready := readyB_ready (by decide +kernel)

/-- Role 3 by JTAG, before and after the lock of S9. -/
theorem witness_TsuRateWrites : serving.Ready ∧ 3 ≤ roleOf .jtag serving ∧ rwlLocked (withFields [(SYS_START_STATUS, SYS_START_STATUS_STAGE, 5)] serving) = false ∧
    fget serving SERVO_STATE SERVO_STATE_STATE = 0 ∧ fbit serving TSU_STATE TSU_STATE_STATE = true ∧
    624375 * 2 ^ 48 ≤ getF TSU_INC_NOM_INC_NOM 175921860444160 * 1000000 ∧ getF TSU_INC_NOM_INC_NOM 175921860444160 * 1000000 ≤ 625625 * 2 ^ 48 ∧
    getF TSU_INC_NOM_INC_NOM 0 * 1000000 < 624375 * 2 ^ 48 ∧ -freqLimit ≤ sgn 40 (getF TSU_FREQ_ADJ_FREQ_ADJ 0) ∧
    1 ≤ getF TSU_SLEW_LIMIT_LIMIT 1000 ∧ getF TSU_SLEW_LIMIT_LIMIT 1000 ≤ 1000 :=
  ⟨readyB_ready (by decide +kernel), by decide +kernel⟩

/-- An armed set to a REFIN edge. -/
def armed : State :=
  let s := fsetB TSU_STATE TSU_STATE_SET_ARMED true unsetState
  { s with tsu := { s.tsu with setRefin := true } }

theorem witness_TsuSetArming : unsetState.Ready ∧ 3 ≤ roleOf .jtag unsetState ∧ getF TSU_SET_CTL_CANCEL 0 = 0 ∧
    fbit unsetState TSU_STATE TSU_STATE_SET_ARMED = false ∧ fbit unsetState TSU_STATE TSU_STATE_STATE = false ∧
    getF TSU_SET_SUB_NS (rdI unsetState .jtag TSU_SET_SUB) ≤ 999999999 := ⟨readyB_ready (by decide +kernel), by decide +kernel⟩
theorem witness_TsuSetArming_armed : armed.Ready ∧ 3 ≤ roleOf .jtag armed ∧ getF TSU_SET_CTL_ARM 0 = 0 ∧
    fbit armed TSU_STATE TSU_STATE_SET_ARMED = true ∧ harWaiting 0x0402 armed = [] ∧ armed.tsu.setRefin = true ∧ roleOf .jtag armed ≠ 0 :=
  ⟨readyB_ready (by decide +kernel), by decide +kernel⟩
theorem witness_TsuLeaps : ∃ s : State, s.Ready ∧ 3 ≤ roleOf .jtag s ∧ onSecond s = false ∧ getF TSU_LEAP_PENDING_PENDING 1 ≠ 2 ∧
    nowSec s + 2 ≤ (rd s TSU_LEAP_SEC).toNat ∧ fint s TSU_LEAP_PENDING TSU_LEAP_PENDING_PENDING ≠ 0 :=
  ⟨wr TSU_LEAP_SEC 1002 (fset TSU_LEAP_PENDING TSU_LEAP_PENDING_PENDING 3 serving), readyB_ready (by decide +kernel), by decide +kernel⟩
theorem witness_TsuEdges : ∃ s : State, s.Ready ∧ s.tsu.incPending = true ∧ fbit s TSU_STATE TSU_STATE_SET_ARMED = true ∧ s.tsu.setOff = none ∧
    harWaiting 0x0402 s = [] ∧ fbit s TSU_STATE TSU_STATE_SLEWING = true ∧ s.tsu.slewRemain ≠ 0 ∧ s.tsu.slewTick ≠ 0 ∧
    s.tsu.slewRemain.natAbs ≤ s.tsu.slewTick.natAbs :=
  ⟨{ fsetB TSU_STATE TSU_STATE_SLEWING true armed with tsu := { armed.tsu with incPending := true, slewRemain := -3, slewTick := -3 } },
    readyB_ready (by decide +kernel), by decide +kernel⟩
theorem witness_TsuEdges_hold : (stampPoints port2).any (fun pt => mapGet (fun _ => 0) port2.tsu.reload pt == 0
    && decide (1 < (distOf (localUpset [(pt, 2)] port2) pt).natAbs)) = true := by decide +kernel

/-- A session of a role on the network. -/
def session (r : Nat) : Session :=
  { sid := 7, role := r, tid := 1 :: List.replicate 23 0, key := List.replicate 32 1, high := 0, win := 1, kept := [], wait := [], busy := none,
    evMask := 0, flags := 0, ntfSeq := 0, openSec := 0 }

/-- A path bound to a session of the role. -/
def bound (r : Nat) : State := { withFields [(HOST_REGPATH, HOST_REGPATH_PCIE_SESSION, 7), (HOST_HARNESS_CFG, HOST_HARNESS_CFG_TRANSPORTS, 7)] serving with
  har := { serving.har with sessions := [session r] } }

theorem witness_AcceptedRegisterWrite : ∃ r, serving.Ready ∧ roleOf .jtag serving ≠ 0 ∧ GATE_LEAD % 8 = 0 ∧ inSpan GATE_LEAD = true ∧
    regRow GATE_LEAD = some r ∧ absentAddr serving.variant GATE_LEAD = false ∧ regCheck .jtag (roleOf .jtag serving) GATE_LEAD 500 serving = .ok ∧
    ownEffect .jtag GATE_LEAD 500 serving (storePlain GATE_LEAD 500 serving) = none ∧ harWaiting 0x0402 serving = [] :=
  ⟨(regRow GATE_LEAD).get (by decide +kernel), readyB_ready (by decide +kernel), by decide +kernel⟩
theorem witness_AccessesRefusedAtTheBus : roleOf .jtag serving ≠ 0 ∧ fbit serving SYS_ABSENT_ACCESS SYS_ABSENT_ACCESS_SET = false ∧
    (inSpan 0x160000 = true ∧ absentAddr Variant.gt9810 0x160000 = true ∧ namesNone 0x160000 = false) ∧
    (unmapped 4 = false ∧ namesNone GATE_LEAD = false) ∧ (unmapped 0xFFFFFFF8 = true ∧ namesNone 0xFFFFFFF8 = false) ∧
    (windows.any (fun w => w.2.2 && w.1 % 8 == 0) = true) := by decide +kernel
theorem witness_UnboundAndObserverWriteNothing : roleOf .pcie serving = 0 ∧ harWaiting 0x0402 serving = [] ∧ (bound 1).Ready ∧
    roleOf .pcie (bound 1) = 1 := ⟨by decide +kernel, by decide +kernel, readyB_ready (by decide +kernel), by decide +kernel⟩
theorem witness_PortEnableAndAdjust : port2.Ready ∧ portLive port2 2 = true ∧ 3 ≤ roleOf .jtag port2 ∧ rwlLocked port2 = true ∧
    rangesOk (PORT_MODE 2) 0 = true ∧ fbit port2 (PORT_MODE 2) PORT_MODE_ENABLE = true ∧ getF PORT_MODE_ENABLE 0 = 0 ∧
    fbit port2 (PORT_MODE 3) PORT_MODE_ENABLE = false ∧ groupMode port2 3 ≠ 0 ∧ groupMode port2 5 = 0 ∧ restHalt port2 = false ∧ 7 ≤ stage port2 ∧
    sgn 32 (getF PORT_TX_DELAY_ADJ_ADJ 10000000) ≤ 10000000 ∧ -10000000 ≤ sgn 32 (getF PORT_TX_DELAY_ADJ_ADJ 0xFF676980) ∧
    fbit port2 (PORT_STATUS 2) PORT_STATUS_RX_CAL_VALID = true ∧ (gateOf port2 3).cal = [] ∧
    (portOf (nextOf (execPortModeWrite .jtag 2 0 port2)) 2).stopRx = true := ⟨readyB_ready (by decide +kernel), by decide +kernel⟩
theorem witness_PortEnableAndAdjust_head : portLive port2 0 = true ∧ getF PORT_MODE_GROUP_MODE (rd port2 (PORT_MODE 0)) = fget port2 (PORT_MODE 0) PORT_MODE_GROUP_MODE ∧
    rangesOk (PORT_MODE 0) (rd port2 (PORT_MODE 0)) = true := by decide +kernel

/-- Lane 2 under calibration of both sides, its receiver in lock. -/
def calibrating : State := nextOf (execRxLockGain 2 false (nextOf (execTxPllRelock 2 port2)))

theorem witness_LaneCalibration : calibrating.Ready ∧ laneFitted calibrating 2 = true ∧ groupMode calibrating 2 ≠ 5 ∧ groupMode calibrating 2 ≠ 0 ∧
    (portOf calibrating 2).powered = true ∧ restHalt calibrating = false ∧ 3 ≤ roleOf .jtag calibrating ∧ (portOf calibrating 2).calTx = true ∧
    calOk true (List.replicate 256 20) = true ∧ (portOf calibrating 2).calRx = true ∧ (portOf calibrating 2).lock = true ∧
    (portOf calibrating 2).rateOut = false ∧ calOk false (List.replicate 256 20) = true ∧ calOk false (List.replicate 256 21) = false ∧
    calOk true (21 :: List.replicate 255 0) = false ∧ calRuns calibrating 2 true = true ∧ calRuns calibrating 2 false = true ∧
    (portOf calibrating 2).txRej < 2 ∧ atStage 7 calibrating = false := ⟨readyB_ready (by decide +kernel), by decide +kernel⟩

/-- A frame of 64 bytes to the broadcast address. -/
def bcast : List Byte :=
  let b := List.replicate 6 0xFF ++ [0, 1, 2, 3, 4, 5, 0x88, 0xB5] ++ List.replicate 46 0
  b ++ fcsOf b

/-- Port 2 accepting broadcast frames. -/
def rxPort : State := withFields [(PORT_MAC_CTL 2, PORT_MAC_CTL_BCAST, 1)] port2

theorem witness_ReceivedFrameIsQueued : rxPort.Ready ∧ portLive rxPort 2 = true ∧ groupMode rxPort 2 ≠ 0 ∧ fbit rxPort (PORT_MODE 2) PORT_MODE_ENABLE = true ∧
    fbit rxPort (PORT_STATUS 2) PORT_STATUS_LINK = true ∧ resting rxPort = false ∧ (portOf rxPort 2).rateOut = false ∧ 64 ≤ bcast.length ∧
    bcast.length ≤ fget rxPort (PORT_MAC_CTL 2) PORT_MAC_CTL_MAX_FRAME ∧ fcsOf (bcast.take (bcast.length - 4)) = bcast.drop (bcast.length - 4) ∧
    (etherOf bcast).2.2 ≠ 2 ∧ (etherOf bcast).1 ≠ 0x8808 ∧
    macAccepts rxPort 2 (bcast.take (bcast.length - 4)) = true ∧
    frameFits rxPort 0 bcast.length = true ∧
    (queueOf rxPort (4 * 2 + classOf bcast (etherOf bcast).1 (etherOf bcast).2.1 (l4Of bcast (etherOf bcast).1 (etherOf bcast).2.1))).length < 256 :=
  ⟨readyB_ready (by decide +kernel), by decide +kernel⟩

/-- A wake pattern for the management port. -/
def wakePattern : List Byte :=
  let a := beBytes 6 (mgmtMac serving)
  let b := a ++ List.replicate 8 0 ++ List.replicate 6 0xFF ++ (List.replicate 16 a).flatten
  b ++ fcsOf b

/-- In Rest, wake by pattern enabled. -/
def atRest : State := setPhase 5 (withFields [(HOST_WAKE_CTL, HOST_WAKE_CTL_EN, 1), (HOST_WAKE_CTL, HOST_WAKE_CTL_CODE_REQ, 0)] serving)

theorem witness_RestCompletes : atRest.Ready ∧ phase atRest = 5 ∧ atRest.start.rest = 0 ∧ fbit atRest HOST_WAKE_CTL HOST_WAKE_CTL_EN = true ∧
    fbit atRest HOST_WAKE_CTL HOST_WAKE_CTL_CODE_REQ = false ∧ 18 ≤ wakePattern.length ∧
    fcsOf (wakePattern.take (wakePattern.length - 4)) = wakePattern.drop (wakePattern.length - 4) ∧ beAt wakePattern 0 6 = mgmtMac atRest ∧
    hasPart (List.replicate 6 (0xFF : Byte) ++ (List.replicate 16 (beBytes 6 (mgmtMac atRest))).flatten)
      (((wakePattern.take (wakePattern.length - 4)).drop 14).take 256) = true ∧
    (nextOf (execWakeFrame wakePattern atRest)).start.rest = 3 ∧ running serving = 0 ∧
    (∀ p, p < 8 → (gateOf serving p).cal = []) ∧ (∀ n, n < 8 → (bnuOf serving n).test = false) :=
  ⟨readyB_ready (by decide +kernel), by decide +kernel⟩

/-- A Pitch word: an opcode, successors 0xFFFF, and values at bit positions. -/
def pitchWord (op : Nat) (l : List (Nat × Nat)) : Nat :=
  l.foldl (fun a x => a + x.2 * 2 ^ x.1) (op * 2 ^ 248 + 0xFFFF * 2 ^ 228 + 0xFFFF * 2 ^ 212)

/-- A READY context at Pitch 5 of bank 0. -/
def readyCtx : Ctx := { ctxReset 0 with st := 2, pc := 5, w := (List.range 16).map (fun i => 100 + i), limit := 1000, desc := putBytes (zeros 64) 20 [84, 0] }

/-- Context 1 of engine 1 is about to execute a Pitch. -/
def atPitch (c : Ctx) (p : Nat) (s : State) : State := ctxSet 5 c (stBytes (pitchAddr 0 5) (leBytes 32 p) s)

def issuesB (s : State) (op p : Nat) : Bool :=
  decide (phase s ≠ 5) && decide (1 < peCount s.variant) && decide ((ctxOf s 5).st = 2) && !(ctxOf s 5).done && decide (s.ecc.bad = [])
    && decide (pitchAt s (ctxOf s 5).bank (ctxOf s 5).pc = p) && decide (pOp p = op) && opKnown s.variant op && decide (pRes p = 0)

theorem issuesB_issues {s : State} {op p : Nat} (h : issuesB s op p = true) : Issues s 1 1 op p := by
  simp only [issuesB, Bool.and_eq_true, decide_eq_true_eq, Bool.not_eq_true', and_assoc] at h
  obtain ⟨h1, h2, h3, h4, h5, h6, h7, h8, h9⟩ := h
  exact ⟨h1, h2, by decide, h3, h4, h5, h6, h7, h8, h9⟩

/-- Every Pitch with an opcode that is known comes to be executed: the state is Ready and the Pitch issues. -/
theorem witness_Issues : [0x00, 0x01, 0x02, 0x03, 0x04, 0x05, 0x08, 0x09, 0x0C, 0x0D, 0x0E, 0x10, 0x11, 0x12, 0x14, 0x15, 0x18, 0x19, 0x1A,
    0x1B, 0x1C, 0x1D, 0x1F].all (fun op => readyB (atPitch readyCtx (pitchWord op []) serving)
      && issuesB (atPitch readyCtx (pitchWord op []) serving) op (pitchWord op [])) = true := by decide +kernel
theorem witness_TestbSetsBit : (atPitch readyCtx (pitchWord 9 []) serving).Ready ∧ Issues (atPitch readyCtx (pitchWord 9 []) serving) 1 1 9 (pitchWord 9 []) :=
  ⟨readyB_ready (by decide +kernel), issuesB_issues (by decide +kernel)⟩
theorem witness_NopClearsAndImmWrites : (atPitch readyCtx (pitchWord 0 []) serving).Ready ∧ Issues (atPitch readyCtx (pitchWord 0 []) serving) 1 1 0 (pitchWord 0 []) :=
  ⟨readyB_ready (by decide +kernel), issuesB_issues (by decide +kernel)⟩

/-- A completed Pitch without a successor. -/
def noSuccessor : State := atPitch { readyCtx with done := true } (pitchWord 0 []) serving

theorem witness_NoDispositionDrops : noSuccessor.Ready ∧ (ctxOf noSuccessor 5).st = 2 ∧ (ctxOf noSuccessor 5).done = true ∧
    (pitchAt noSuccessor (ctxOf noSuccessor 5).bank (ctxOf noSuccessor 5).pc = pitchWord 0 []) ∧
    (if condHolds (pCond (pitchWord 0 [])) (ctxOf noSuccessor 5).flags then pNextT (pitchWord 0 []) else pNextF (pitchWord 0 [])) = 0xFFFF ∧
    mapGet (fun _ => 0) noSuccessor.cnt.live (EC_DROP_RSN 1) + 1 < 2 ^ 48 := ⟨readyB_ready (by decide +kernel), by decide +kernel⟩

/-- What the operands of a Pitch resolve to in the context. -/
theorem witness_PitchRegisterOps : (refOf readyCtx (pAnc1 (pitchWord 2 [(193, 5), (177, 9)])) (pOff1 (pitchWord 2 [(193, 5), (177, 9)]))).isSome = true ∧
    (anchorOf readyCtx (pAnc1 (pitchWord 5 [(193, 1), (177, 9), (64, 2)]))).isSome = true ∧ pf (pitchWord 5 [(193, 1), (177, 9), (64, 2)]) 64 2 ≠ 0 ∧
    pb (pitchWord 5 [(193, 1), (177, 9), (64, 2)]) 66 = false ∧ (aluOp 0 false 0 1 2).isSome = true := by decide +kernel
theorem witness_PitchMemoryOps : (let c := { readyCtx with blen := 64 }
    (refOf c 5 0).any (fun r => r.reg == .build && refFits c r 16) && (refOf c 0 0).any (fun r => refFits c r 16)) = true := by decide +kernel
theorem witness_PitchTablesAndTime : (keyOf readyCtx false 0).isSome = true ∧ (portSel port2 readyCtx 2).isSome = true ∧ readyCtx.slot = none ∧
    mapGet (fun _ => 0) port2.cnt.live (EC_TC 0) + 5 < 2 ^ 48 := by decide +kernel

/-- A booking of port 2 at grid position `q`, one second ahead, for context 5. -/
def booking (q st : Nat) (f : Option GFrame) : Booking :=
  { q := q, n := 64, t := 1001 * 10 ^ 9 * 2 ^ 32, setup := 300, shared := false, st := st, ctx := 5, len := 60, cause := 0, revoked := false, frame := f }

/-- A frame with the gate. -/
def gateFrame : GFrame :=
  { bytes := List.replicate 60 7, desc := putBytes (zeros 64) 20 [84, 0, 2, 2, 3], cls := 3, keep := false, corr := none, report := true, ptp := none, old := false, mem := none }

/-- Port 2's gate changed, its grid starting at SEC 999. -/
def withGate (f : GatePort → GatePort) : State := gateSet 2 (f { gateReset 2 with origin := (999 * 10 ^ 9 : Int) * 2 ^ 72 }) port2

/-- Context 5 holds a slot and executes EMIT. -/
def emitting : State :=
  atPitch { readyCtx with slot := some (2, 1000), blen := 60 } (pitchWord 0x18 []) (withGate (fun g => { g with cal := [booking 1000 0 none] }))

theorem witness_PitchDispositions_emit : emitting.Ready ∧ Issues emitting 1 1 0x18 (pitchWord 0x18 []) ∧
    (gateOf emitting 2).cal.find? (heldBy 5 1000) = some (booking 1000 0 none) ∧ gtNow emitting ≤ (booking 1000 0 none).t - ns32 300 ∧
    inHold emitting 8 = false ∧ inHold emitting 2 = false ∧ (ctxOf emitting 5).old = false ∧
    (descFrom (ctxOf emitting 5).desc).all (fun pt => !inHold emitting pt) = true ∧
    oversize emitting 2 (macSrc emitting 2 (pb (pitchWord 0x18 []) 71) (ldBytes emitting (buildBase 5) 60)).length = false :=
  ⟨readyB_ready (by decide +kernel), issuesB_issues (by decide +kernel), by decide +kernel⟩
theorem witness_PitchDispositions_relay : portSel port2 readyCtx 2 = some 2 ∧ portLive port2 2 = true ∧
    fbit port2 (PORT_MODE 2) PORT_MODE_ENABLE = true ∧ resting port2 = false ∧ oversize port2 2 (macSrc port2 2 false (runFrame readyCtx port2)).length = false ∧
    (gateOf port2 2).free.countP (fun x => x.1 = gateClass readyCtx.desc) < 64 := by decide +kernel
theorem witness_PitchDispositions_next : ∃ c : Ctx, c.stack.length < 4 ∧ c.stack.getLast? = some 6 ∧ c.steps + 1 < c.limit ∧
    pCond (pitchWord 0x1C []) = 0 ∧ pNextT (0x1C * 2 ^ 248 + 7 * 2 ^ 228) < 0x8000 := ⟨{ readyCtx with stack := [6] }, by decide +kernel⟩

/-- A frame waits in a dispatch queue. -/
def queued : State := nextOf (execInjection 2 7 0 bcast port2)

theorem witness_DispatchAndInjection : injectFits port2 8 0 bcast.length = true ∧ queued.Ready ∧
    fget queued SYS_START_STATUS SYS_START_STATUS_STAGE = 9 ∧ phase queued ≠ 5 ∧ queued.pe.inj = [] ∧ (pickQueue queued).isSome = true ∧
    (pickEngine queued).isSome = true ∧ 3 ≤ roleOf .jtag queued ∧ [0, 3, 4].contains (ctxShown (ctxOf queued (selCtx queued))) = true :=
  ⟨by decide +kernel, readyB_ready (by decide +kernel), by decide +kernel⟩
theorem witness_DispatchAndInjection_snap : [0, 3, 4].contains (ctxShown readyCtx) = false ∧
    (nextOf (execPeCtxSnapGo .jtag (ctxSet 0 readyCtx serving))).pe.snapWait = some 0 ∧ harWaiting 0x0307 serving = [] ∧
    (ctxOf (ctxSet 0 { readyCtx with st := 4 } serving) (selCtx serving)).st = 4 := by decide +kernel
theorem witness_TopoMemoryWrites : bankClosed serving 1 = false ∧ storeClosed serving 0x17FFFF8 8 = false ∧ tblClosed serving 63 1 = false ∧
    (let s := (List.range 3).foldl (fun s k => nextOf (execTopoWindowWrite .jtag (0x1FFFE0 + 8 * k) 5 s)) serving; readyB s && (List.range 3).all (fun k => ((stageOf s .jtag).find? (fun y => y.1 = 1 * 32768 + 32767 ∧ y.2.1 = k)).map (fun y => y.2.2) == some 5)) = true := by
  decide +kernel
theorem witness_TopoSwapsAndFlips : swapBusy serving false = false ∧ swapBusy serving true = false ∧ flipBusy serving = false ∧ harWaiting 0x0306 serving = [] ∧
    (let s := nextOf (execTopoSwapCtlGo .jtag false serving); s.pe.swapGo = true ∧ s.pe.swapGen = false ∧ fbit (nextOf (execDispatchBoundary s)) TOPO_BANK TOPO_BANK_SWAP_PENDING = true ∧
      (nextOf (execDispatchBoundary s)).pe.swapGo = false ∧ fget (nextOf (execDispatchBoundary s)) TOPO_BANK TOPO_BANK_DRAIN_COUNT = 0) ∧
    (let s := nextOf (execTopoTblGenWrite .jtag 1 serving); fbit s TOPO_TBL_STATUS TOPO_TBL_STATUS_DRAIN = true ∧ fget s TOPO_TBL_STATUS TOPO_TBL_STATUS_DRAIN_COUNT = 0) := by decide +kernel

/-- One slot with its frame, one without, one committed, a waiting free frame, a report. -/
def gateBusy : State :=
  withGate (fun g => { g with cal := [booking 1000 1 (some gateFrame), booking 2000 0 none, booking 3000 2 (some gateFrame)],
                              free := [(1, gateFrame, 0)], reports := [(gateFrame.desc, some 5)] })

theorem witness_GateCommitsAndReleases : gateBusy.Ready ∧
    ((gateOf gateBusy 2).cal.find? (fun x => x.q = 1000 ∧ x.cause = 0 ∧ x.st < 2)).any (fun b => b.frame.isSome) = true ∧
    ((gateOf gateBusy 2).cal.find? (fun x => x.q = 2000 ∧ x.cause = 0 ∧ x.st < 2)).any (fun b => b.frame.isNone) = true ∧
    ((gateOf gateBusy 2).cal.find? (fun x => x.q = 3000 ∧ x.cause = 0 ∧ (x.st = 2 ∨ x.st = 3))).any (fun b => b.frame.isSome) = true ∧
    portReady gateBusy 2 = true ∧ freeClass (gateOf gateBusy 2) = some 1 ∧ fromHeld gateBusy gateFrame = false ∧
    3 ≤ roleOf .jtag gateBusy ∧ 400 ≤ getF GATE_LEAD_LEAD 30000 ∧ getF GATE_LEAD_LEAD 30000 ≤ 30000 := ⟨readyB_ready (by decide +kernel), by decide +kernel⟩
theorem witness_GateCommitsAndReleases_place :
    let lo := gtNow gateBusy + ns32 (fget gateBusy GATE_SETUP GATE_SETUP_SETUP)
    (findPos gateBusy 2 lo (lo + ns32 4000000) (fun y => decide (y < calendarEnd gateBusy 2) && placeOk gateBusy 2 y (wireBytes 60) true) horizon
      (searchFrom gateBusy 2 lo)).isSome = true := by decide +kernel

/-- An attempt that has reached a stage. -/
def atStart (n : Nat) : State := setPhase 0 (withFields [(SYS_START_STATUS, SYS_START_STATUS_STAGE, n)] State.reset)

/-- The start's own fields changed. -/
def withStart (f : StartState → StartState) (s : State) : State := { s with start := f s.start }

theorem witness_ResetPins : State.reset.Canonical ∧ State.reset.start.poresetLow = false ∧ State.reset.start.warmLow = false ∧
    (let s := withStart (fun x => { x with poresetLow := true }) State.reset; s.start.poresetLow = true ∧ s.start.pwrGood = true ∧ s.start.warmLow = false) ∧
    (let s := withStart (fun x => { x with warmLow := true }) State.reset; s.start.warmLow = true ∧ s.start.pwrGood = true ∧ s.start.poresetLow = false) ∧
    heldInReset serving = false ∧ 3 ≤ stage serving :=
  ⟨(readyB_ready (by decide +kernel)).canonical, by decide +kernel⟩
theorem witness_AttemptsFailAndRetry : (atStart 7).Canonical ∧ heldInReset (atStart 7) = false ∧ stage (atStart 7) = 7 ∧ phase (atStart 7) ≠ 4 ∧
    (atStart 7).start.retryWait = false ∧ fbit (atStart 7) SYS_START_STATUS SYS_START_STATUS_STABLE = false ∧
    fbit (withFields [(SYS_START_STATUS, SYS_START_STATUS_STABLE, 1)] serving) SYS_START_STATUS SYS_START_STATUS_STABLE = true ∧
    (let s := withStart (fun x => { x with retryWait := true }) (atStart 7); heldInReset s = false ∧ s.start.retryWait = true) ∧
    phase serving = 3 ∧ fbit serving SYS_START_STATUS SYS_START_STATUS_STABLE = false ∧
    atStage 7 (portSet 2 { portReset 2 with calTx := true } (atStart 7)) = true ∧ laneFitted (atStart 7) 2 = true :=
  ⟨(readyB_ready (by decide +kernel)).canonical, by decide +kernel⟩
theorem witness_AttemptsFailAndRetry_bivouac : ∃ s : State, s.Canonical ∧ heldInReset s = false ∧ 3 ≤ roleOf .jtag s ∧ phase s = 4 ∧ s.start.bootSel < 2 ∧
    (withStart (fun x => { x with dark := true }) s).start.dark = true :=
  ⟨setPhase 4 State.reset, (readyB_ready (by decide +kernel)).canonical, by decide +kernel⟩
theorem witness_StagesOfAStart : (atStart 1).Ready ∧ atStage 1 (atStart 1) = true ∧ (xoIdentify 10000000).isSome = true ∧ xoIdentify 1 = none ∧
    atStage 2 (atStart 2) = true ∧ atStage 3 (atStart 3) = true ∧ (atStart 3).start.bootSel < 2 ∧
    (withStart (fun x => { x with bootSel := 3 }) (atStart 3)).start.bootSel = 3 ∧ (atStart 3).otp.ownerHash = [] ∧
    atStage 4 (atStart 4) = true ∧ (copyVerify (atStart 4) 0).isLeft = true ∧
    (copyVerify (atStart 4) 1).isLeft = true ∧ atStage 5 (atStart 5) = true ∧
    (patchLegs ((bookLegs (atStart 5)).filter (fun l => l.ty = 0xD0)) (atStart 5)).isSome = true ∧
    atStage 6 (atStart 6) = true ∧ legSort ((bookLegs (atStart 6)).filter (fun l => l.ty ≠ 0xD0)) = [] ∧ (svcSetAddrs [] (atStart 6)).isSome = true ∧
    atStage 7 (atStart 7) = true ∧ (∀ p, p < 8 → fbit (atStart 7) (PORT_MODE p) PORT_MODE_ENABLE = false) :=
  ⟨readyB_ready (by decide +kernel), by decide +kernel⟩
theorem witness_SensorsReport : State.reset.Canonical := (readyB_ready (by decide +kernel)).canonical

/-- Unit 2 online; a core writes a digest, a signature and a public key into its slots. -/
def bnuUp : State := withFields [(BNU_STATUS 2, BNU_STATUS_ONLINE, 1), (BNU_STATUS 2, BNU_STATUS_SELFTEST_PASS, 1)] serving
def bnuFilled : State :=
  (List.range 20).foldl (fun s x => nextOf (execBnuWindowWrite (.core 1) 2 ((if x < 4 then 0 else if x < 12 then 1 else 2) * slotWords s 2 * 8
    + 8 * (if x < 4 then x else (x - 4) % 8)) (BitVec.ofNat 64 (x + 1)) s)) bnuUp

/-- An ECDSA_VERIFY on P-256 is staged: tag 0x55, slots 0 to 2. -/
def bnuStaged : State :=
  [(0, 0x1B + 0x55 * 65536 + 2 ^ 32 + 4 * 2 ^ 40), (1, 65536 + 2 * 2 ^ 32), (2, 0xFFF + 0xFFF * 65536 + 10 * 2 ^ 32 + 2 ^ 48), (3, 0)].foldl
    (fun s x => wrI (.core 1) (BNU_JOB 2 x.1) (BitVec.ofNat 64 x.2) s) bnuFilled

def bnuQueued : State := nextOf (execBnuSubmitGo (.core 1) 2 bnuStaged)
def aJob : BnuJob :=
  { w0 := 0x20, w1 := 0, w2 := 0, w3 := 0, side := 1, cost := 9, left := 5, short := false, yielded := false, bad := 0, ke := none }
def withUnit (f : BnuUnit → BnuUnit) : State := bnuSet 2 (f (bnuOf bnuUp 2)) bnuUp

theorem witness_BignumJobs_window : bnuUp.Ready ∧ bnuFitted bnuUp 2 = true ∧ (slotOf bnuUp 2 0).st ≠ 2 ∧ eccQuiet bnuUp = true ∧
    (slotOf (slotSet 2 0 ⟨2, 0, 0⟩ bnuUp) 2 0).st = 2 ∧ 0 < slotCount bnuUp 2 ∧
    regCheck (.core 1) (roleOf (.core 1) bnuUp) (BNU_SLOT_WORDS 2) 64 bnuUp = .ok := ⟨readyB_ready (by decide +kernel), by decide +kernel⟩
theorem witness_BignumJobs_submit : bnuStaged.Ready ∧ (regCheck (.core 1) (roleOf (.core 1) bnuStaged) (BNU_SUBMIT 2) (withBits 0 [(BNU_SUBMIT_GO, 1)]) bnuStaged = .ok) ∧
    bnuOnline bnuStaged 2 = true ∧ (let j := staged (.core 1) 2 bnuStaged;
      queueRoom (bnuOf bnuStaged 2) false = true ∧ bnuOpKnown (jOp j) = true ∧ j.w0 / 2 ^ 8 % 4 ≠ 3 ∧ curveOk j = true ∧ descReserved j = false ∧
      lenOk bnuStaged 2 j = true ∧ sourcesOk bnuStaged 2 j = true ∧ slotsFree bnuStaged 2 j = true ∧ sourcesOk bnuUp 2 j = false) :=
  ⟨readyB_ready (by decide +kernel), by decide +kernel⟩
theorem witness_BignumJobs_start : bnuQueued.Ready ∧ bnuOnline bnuQueued 2 = true ∧ (let u := bnuOf bnuQueued 2;
    u.test = false ∧ u.run = none ∧ u.cpl.length < 64 ∧ u.shortQ.length + u.longQ.length = 1 ∧ u.saved = none) ∧ bnuQueued.ecc.bad = [] :=
  ⟨readyB_ready (by decide +kernel), by decide +kernel⟩
theorem witness_BignumJobs_run : (withUnit (fun u => { u with run := some aJob, shortQ := [{ aJob with short := true }] })).Ready ∧
    opSign (jOp aJob) = true ∧ aJob.bad = 0 ∧ aJob.ke = none ∧ aJob.short = false ∧ opSign 0x1B = false ∧
    (withUnit (fun u => { u with cpl := [1, 2] })).Ready ∧
    regCheck (.core 1) (roleOf (.core 1) bnuUp) (BNU_ABORT 2) (withBits 0 [(BNU_ABORT_GO, 1), (BNU_ABORT_TAG, 5)]) bnuUp = .ok ∧
    regCheck (.core 1) (roleOf (.core 1) bnuUp) (BNU_CTL 2) (withBits (rd bnuUp (BNU_CTL 2)) [(BNU_CTL_ABORT_ALL, 1)]) bnuUp = .ok :=
  ⟨readyB_ready (by decide +kernel), by decide +kernel, by decide +kernel, by decide +kernel, by decide +kernel, by decide +kernel,
    readyB_ready (by decide +kernel), by decide +kernel⟩

/-- A block of raw bits that passes the health tests, and one that repeats too long. -/
def rawGood : List Byte := (List.range 128).map (fun i => BitVec.ofNat 8 (i * 167 + 13 * (i / 7)))
def entropyAt (n : Nat) : State :=
  (List.range n).foldl (fun s _ => nextOf (execEsBlock rawGood s)) { bnuUp with bnu := { bnuUp.bnu with gone := 255 } }
def entropyUp : State := entropyAt 10

theorem witness_BignumUnitsAndEntropy : bnuUp.Ready ∧
    regCheck (.core 1) (roleOf (.core 1) bnuUp) (BNU_CTL 2) (withBits (rd bnuUp (BNU_CTL 2)) [(BNU_CTL_SELFTEST, 1)]) bnuUp = .ok ∧
    (bnuOf (nextOf (execBnuCtlSelftest (.core 1) 2 bnuUp)) 2).test = true ∧
    regCheck (.core 1) (roleOf (.core 1) bnuUp) (BNU_CTL 2) (withBits 0 [(BNU_CTL_OWNER, 1)]) bnuUp = .ok ∧
    fget bnuUp BNU_ES_STATUS BNU_ES_STATUS_STATE < 2 ∧ (esTests rawGood bnuUp).fail = 0 ∧ (esTests (List.replicate 128 0) bnuUp).fail ≠ 0 ∧
    fget (withFields [(BNU_ES_STATUS, BNU_ES_STATUS_STATE, 2)] bnuUp) BNU_ES_STATUS BNU_ES_STATUS_STATE = 2 ∧ 3 ≤ roleOf .jtag bnuUp ∧
    drbgFitted bnuUp 8 = true ∧ drbgReady bnuUp 8 = false ∧ isCore Initiator.jtag = false := ⟨readyB_ready (by decide +kernel), by decide +kernel⟩
theorem witness_BignumUnitsAndEntropy_seeded : readyB entropyUp = true ∧ drbgReady entropyUp 8 = true ∧ drbgReady entropyUp 10 = true ∧
    fget entropyUp BNU_ES_STATUS BNU_ES_STATUS_STATE = 1 ∧ entropyUp.bnu.pool.length = 2 ∧
    drbgFitted entropyUp 10 = true ∧ (drbgOf entropyUp 10).isSome = true := by decide +kernel
theorem witness_BignumUnitsAndEntropy_first : readyB (entropyAt 1) = true ∧ (entropyAt 1).bnu.pool.length = 1 ∧ drbgWaits (entropyAt 1) 2 = true ∧
    drbgWaits (entropyAt 1) 0 = false ∧ drbgWaits (entropyAt 1) 1 = false ∧ fget (entropyAt 1) BNU_ES_STATUS BNU_ES_STATUS_STATE = 1 ∧
    (esTests rawGood (entropyAt 1)).fail = 0 ∧ bnuStopped bnuUp = false := by decide +kernel

/-- A word of domain 0 with one flipped bit, logged, its row being copied. -/
def eccHit : State :=
  eccEntrySet 0 15 (some ⟨9, 1, false, true, true, false, 0, false, 0, 0, 0⟩) (eccMark 0 (2 ^ 32 - 1) (1 + 5 * 256 + 5) (withFields [(ECC_CTL, ECC_CTL_SCRUB_EN, 1)] serving))

theorem witness_MemoryErrorsAndRepair : eccHit.Ready ∧ fbit eccHit ECC_CTL ECC_CTL_SCRUB_EN = true ∧ eccBad eccHit 0 (2 ^ 32 - 1) ≠ 0 ∧
    eccUe (eccBad eccHit 0 (2 ^ 32 - 1)) = false ∧ fbit eccHit ECC_INJECT ECC_INJECT_ARMED = false ∧ eccBad eccHit 0 0 = 0 ∧
    (eccEntry eccHit 0 15).any (fun e => e.copying) = true ∧ fget eccHit (ECC_ED_SPARE 0) ECC_ED_SPARE_USED < 255 ∧
    3 ≤ roleOf .jtag eccHit ∧ getF ECC_INJECT_DOMAIN (withBits 0 [(ECC_INJECT_DOMAIN, 11)]) = 11 ∧ harWaiting 0x0402 eccHit = [] := ⟨readyB_ready (by decide +kernel), by decide +kernel⟩
theorem witness_TopoMemoryWrites_repair : (eccSpan (pitchAddr 0 5) 32).any (fun w => match eccWord w with
      | some (d, k) => eccUe (eccBad (eccMark d k (1 + 5 * 256 + 6) serving) d k)
      | none => false) = true := by decide +kernel

/-- Source 0 of line 3 enabled and PENDING, or in service. -/
def evSet (reg : Nat → Nat) : State :=
  let s := setBank reg 0 true (withFields [(EVC_SRC_CFG 0, EVC_SRC_CFG_PRIORITY, 5), (EVC_SRC_CFG 0, EVC_SRC_CFG_LINE, 3)] (setBank EVC_EN 0 true serving))
  { s with evc := { s.evc with enEff := 1, lvEff := 1 } }

theorem witness_EventServiceCycle : (evSet EVC_PEND).Ready ∧ roleOf .jtag (evSet EVC_PEND) ≠ 0 ∧ claimBest (evSet EVC_PEND) 3 = some 0 ∧
    claimBest (evSet EVC_PEND) 5 = none := ⟨readyB_ready (by decide +kernel), by decide +kernel⟩
theorem witness_EventServiceCycle_act : (evSet EVC_ACT).Ready ∧ bankBit (evSet EVC_ACT) EVC_ACT 0 = true ∧ srcLine (evSet EVC_ACT) 0 = 3 ∧
    bankBit (evSet EVC_PEND) EVC_ACT 0 = false ∧ srcPresent (evSet EVC_ACT).variant 0 = true ∧ srcInert (evSet EVC_ACT) 0 = false ∧
    (evSet EVC_ACT).evc.enEff.getLsbD 0 = true ∧ (List.range 256).any (fun id => !srcPresent Variant.gt9810 id) = true :=
  ⟨readyB_ready (by decide +kernel), by decide +kernel⟩
theorem witness_EventServiceCycle_inert : srcPresent serving.variant 100 = true ∧
    srcInert (withFields [(PORT_MODE 4, PORT_MODE_GROUP_MODE, 5)] serving) 100 = true := by decide +kernel
theorem witness_EventServiceCycle_occurs : ∃ id, id < 256 ∧ srcLevel id = false ∧
    (let s := { serving with evc := { serving.evc with inflight := bit256 id, enEff := bit256 id } }
     s.Ready ∧ s.evc.inflight.getLsbD id = true ∧ s.evc.enEff.getLsbD id = true) :=
  ⟨144, by decide, by decide +kernel, readyB_ready (by decide +kernel), by decide +kernel⟩
theorem witness_EventEnablesAndMasks : serving.Ready ∧ 2 ≤ roleOf .jtag serving ∧ (nextOf (execEvcEnWrite .jtag 0 0x11 serving)).evc.windowOpen = true ∧
    getF EVC_SRC_CFG_LINE (withBits 0 [(EVC_SRC_CFG_LINE, 33)]) ≤ 33 ∧ bankBit serving EVC_ACT 255 = false := ⟨readyB_ready (by decide +kernel), by decide +kernel⟩
theorem witness_CounterSnapshotsAndCairn : ∃ s : State, s.Ready ∧ 2 ≤ roleOf .jtag s ∧ fget s CNT_DUMP_CFG CNT_DUMP_CFG_PERIOD ≠ 0 ∧
    (fget s CNT_DUMP_CFG CNT_DUMP_CFG_DEST).testBit 0 = true ∧ (fget s CNT_DUMP_CFG CNT_DUMP_CFG_DEST).testBit 1 = true ∧
    2 ≤ fget s CNT_DUMP_HOST CNT_DUMP_HOST_SLOTS ∧
    (fget s CNT_DUMP_HOST CNT_DUMP_HOST_PROD + 1) % fget s CNT_DUMP_HOST CNT_DUMP_HOST_SLOTS ≠ fget s CNT_DUMP_HOST CNT_DUMP_HOST_CONS :=
  ⟨withFields [(CNT_DUMP_CFG, CNT_DUMP_CFG_PERIOD, 1), (CNT_DUMP_CFG, CNT_DUMP_CFG_DEST, 3), (CNT_DUMP_HOST, CNT_DUMP_HOST_SLOTS, 4),
    (CNT_DUMP_HOST, CNT_DUMP_HOST_CONS, 2), (CNT_DUMP_HOST, CNT_DUMP_HOST_PROD, 3)] serving, readyB_ready (by decide +kernel), by decide +kernel⟩

/-- The GNSS leg on, with bands, systems and a script. -/
def gnssUp : State :=
  let s := withFields [(GNSS_CTL, GNSS_CTL_ENABLE, 1), (GNSS_CTL, GNSS_CTL_SYS_EN, 15), (GNSS_SP_CFG, GNSS_SP_CFG_L1_EN, 1),
    (GNSS_SOL_CFG, GNSS_SOL_CFG_SYS_TOL, 100), (GNSS_SOL_CFG, GNSS_SOL_CFG_MIN_SV, 4), (GNSS_STATUS, GNSS_STATUS_SYS_EXCL, 5),
    (GNSS_NAV_RING, GNSS_NAV_RING_TAIL, 7), (GNSS_NAV_RING, GNSS_NAV_RING_HEAD, 2047)] serving
  { s with gnss := { s.gnss with power := true, script := [[2, 1] ++ zeros 6 ++ beBytes 8 0x1234 ++ beBytes 8 (0xFF * 2 ^ 56) ++ beBytes 8 (2 ^ 56)] } }

/-- Fields of the receiver changed. -/
def withGnss (f : GnssState → GnssState) : State := { gnssUp with gnss := f gnssUp.gnss }

/-- Galileo satellites 1 to 4 in TRACK on channels 0 to 3, measured on SEC 1000. -/
def gnssFix : State :=
  let s := withGnss (fun g => { g with chan := (List.range 4).foldl (fun m k => mapSet chanReset k ⟨2, 1, 0, k + 1, 5⟩ m) [] })
  nextOf (execGnssMeasEpoch (1000 * gtSecond) ((List.range 4).map (fun k => (k, 0, 0, 0, 160, 1))) s)

theorem witness_GnssFrontEndAndChannels : gnssUp.gnss.power = true ∧ gnssOn gnssUp = true ∧ scriptPass (gnssUp.gnss.script.headD []) [1, 0] = true ∧
    scriptPass (gnssUp.gnss.script.headD []) [2, 0] = false := by decide +kernel
theorem witness_GnssFrontEndAndChannels_units : gnssUp.Ready ∧ gnssFitted gnssUp = true ∧ gnssOn gnssUp = true ∧ gnssUp.gnss.valid = false ∧
    (withGnss (fun g => { g with valid := true })).gnss.valid = true ∧ (withGnss (fun g => { g with gap := true })).gnss.gap = true ∧
    (chanOf gnssUp 95).st = 0 ∧ sigOn gnssUp 3 0 = true ∧ sigOn gnssUp 3 3 = false ∧ reacqFirst gnssUp = [] ∧
    eccQuiet gnssUp = true ∧ (2047 + 1) % 2048 ≠ fget gnssUp GNSS_NAV_RING GNSS_NAV_RING_TAIL ∧
    (2047 + 1) % 2048 = fget (withFields [(GNSS_NAV_RING, GNSS_NAV_RING_TAIL, 0)] gnssUp) GNSS_NAV_RING GNSS_NAV_RING_TAIL ∧
    (let s := withGnss (fun g => { g with chan := mapSet chanReset 3 ⟨1, 1, 0, 5, gtNow gnssUp⟩ [] })
     (chanOf s 3).st = 1 ∧ gtNow s ≤ (chanOf s 3).at_ + 200000000 * 2 ^ 32) ∧
    (let s := withGnss (fun g => { g with chan := mapSet chanReset 3 ⟨1, 1, 0, 5, 7⟩ [] })
     (chanOf s 3).st = 1 ∧ (chanOf s 3).at_ + 200000000 * 2 ^ 32 < gtNow s) ∧
    (1000 * gtSecond) % (gtSecond / measRate gnssUp) = 0 ∧ 2 ≤ (chanOf gnssFix 3).st ∧ gnssFix.gnss.meas.length = 4 ∧ (1 : Nat) % (gtSecond / measRate gnssUp) ≠ 0 ∧
    gnssUp.gnss.baseN < 600 ∧ gnssUp.gnss.baseBad = false ∧ (withGnss (fun g => { g with baseBad := true, baseN := 5 })).gnss.baseN < 600 ∧
    600 ≤ (withGnss (fun g => { g with baseN := 600 })).gnss.baseN ∧
    (withGnss (fun g => { g with lean := true })).gnss.lean = true ∧ leanReady gnssUp = false :=
  ⟨readyB_ready (by decide +kernel), by decide +kernel⟩

/-- Lean operation is possible: a position, a small bound, and messages of four satellites. -/
def gnssLean : State := { withFields [(GNSS_CTL, GNSS_CTL_LEAN, 1)] gnssUp with
  gnss := { gnssUp.gnss with timeOnly := true, nav := (List.range 4).foldl (fun m k => mapSet navReset (navKey 1 0 (k + 1)) ⟨900, []⟩ m) [] },
  tsu := { gnssUp.tsu with errFs := 5 } }

theorem witness_GnssFrontEndAndChannels_lean : readyB gnssLean = true ∧ leanReady gnssLean = true ∧ leanDue 1001 gnssLean = true ∧
    leanDue 999 gnssLean = false ∧ snapState gnssLean = 0 := by decide +kernel
theorem witness_GnssTimeAndSnapshots : gnssFix.Ready ∧ gnssFitted gnssFix = true ∧ gnssOn gnssFix = true ∧ gnssFix.tsu.setAt ≤ 1000 * gtSecond ∧
    fget gnssFix GNSS_SOL_CFG GNSS_SOL_CFG_MIN_SV = 4 ∧ (fget gnssFix GNSS_STATUS GNSS_STATUS_SYS_EXCL).testBit 2 = true ∧
    ((solSats gnssFix 1000 [(1, 1, 50), (1, 2, -50), (1, 3, 0), (1, 4, 0)]).filter (raimKeeps 10)).length = 4 ∧
    ((solSats gnssFix 1000 [(1, 1, 51), (1, 2, 0), (1, 3, 0), (1, 4, 0)]).filter (raimKeeps 10)).length = 3 ∧
    fbit gnssFix GNSS_STATUS GNSS_STATUS_JUMP = false ∧
    (let s := withGnss (fun g => { g with surveying := true, surveyAt := 1 })
     fget s GNSS_SURVEY GNSS_SURVEY_SURVEY_TIME + 1 ≤ 1000000 ∧ surveyMayEnd s 0 = decide (1 + fget s GNSS_SURVEY GNSS_SURVEY_SURVEY_TIME ≤ nowSec s)) ∧
    surveyMayEnd { withFields [(GNSS_SURVEY, GNSS_SURVEY_SURVEY_TIME, 600)] gnssUp with gnss := { gnssUp.gnss with surveying := true, surveyAt := 1 } } 0 = true ∧
    regCheck .jtag 3 GNSS_SURVEY (withBits (rd gnssUp GNSS_SURVEY) [(GNSS_SURVEY_RESTART, 1)]) gnssUp = .ok ∧
    regCheck .jtag 3 GNSS_CTL (withBits (rd gnssUp GNSS_CTL) [(GNSS_CTL_ACCEPT, 1)]) (withFields [(GNSS_STATUS, GNSS_STATUS_JUMP, 1)] gnssUp) = .ok ∧ roleOf .jtag gnssUp = 3 ∧
    snapState gnssFix = 0 ∧ eccQuiet gnssFix = true := ⟨readyB_ready (by decide +kernel), by decide +kernel⟩

/-- A solution of the four satellites. -/
def gnssSolved : State := nextOf (execGnssSolution 1000 0 100 10 [(1, 1, 50), (1, 2, -50), (1, 3, 0), (1, 4, 0)] [(1, 5)] 5 gnssFix)

theorem witness_GnssTimeAndSnapshots_sol : solValid gnssSolved = true ∧ gnssSolved.gnss.solAt = 1000 ∧ gnssSolved.gnss.nsv = 4 ∧
    pulseOn gnssSolved = true ∧ pulseHere { gnssSolved with gnss := { gnssSolved.gnss with solD := 0 } } = true ∧
    pulseHere { gnssSolved with tsu := { gnssSolved.tsu with now := 1000 * 10 ^ 9 * 2 ^ 72 + 2 ^ 79 } } = false := by decide +kernel
theorem witness_GnssTimeAndSnapshots_snap :
    (let w := withBits (withBits 0 [(GNSS_SNAP_CTL_LEN_MS, 5), (GNSS_SNAP_CTL_DEST, 1)]) [(GNSS_SNAP_CTL_ARM, 1)]
     regCheck .jtag 3 GNSS_SNAP_CTL w gnssUp = .ok) ∧
    (let s := withFields [(GNSS_SNAP_STATUS, GNSS_SNAP_STATUS_STATE, 3)] gnssUp
     regCheck .jtag 3 GNSS_SNAP_CTL (withBits (rd s GNSS_SNAP_CTL) [(GNSS_SNAP_CTL_RELEASE, 1)]) s = .ok ∧
       getF GNSS_SNAP_CTL_ARM (rd s GNSS_SNAP_CTL) = 0 ∧ snapState s = 3) ∧
    (let s := { withFields [(GNSS_SNAP_STATUS, GNSS_SNAP_STATUS_STATE, 1)] gnssUp with gnss := { gnssUp.gnss with snapAt := some 5 } }
     s.gnss.snapAt = some 5 ∧ snapState s = 1 ∧ 5 ≤ sampleTag s 0 (10 ^ 9 * 2 ^ 32)) := by decide +kernel

/-- A request of a session that nothing turns away before its command is looked at. -/
theorem request_bound (r cmd : Nat) (b : List Byte) (hr : r = 1 ∨ r = 2 ∨ r = 3) (hb : b.length ≤ 65456) : Request (bound r) (session r) 1 cmd b where
  served := by rcases hr with rfl | rfl | rfl <;> decide +kernel
  session := by rcases hr with rfl | rfl | rfl <;> decide +kernel
  named := by simp [session]
  keyed := by simp [session]
  fresh := by rcases hr with rfl | rfl | rfl <;> decide +kernel
  size := hb
  new := by simp [session]
  idle := by simp [session]
  noSet := by rcases hr with rfl | rfl | rfl <;> decide +kernel

theorem bound_ready : ∀ r, r < 4 → (bound r).Ready := by
  intro r h
  have : r = 0 ∨ r = 1 ∨ r = 2 ∨ r = 3 := by omega
  rcases this with rfl | rfl | rfl | rfl <;> exact readyB_ready (by decide +kernel)

/-- A handshake begun, a key of slot 1, transport 1 locked out in `locked`. -/
def shaken : State :=
  { bound 3 with har := { (bound 3).har with keys := [(1, some (3, 7, List.replicate 32 9))],
                                             shakes := [{ hid := 5, slot := 1, cn := zeros 32, dn := zeros 32, tid := 1 :: List.replicate 23 0 }] } }

theorem witness_SessionsAndTransports : shaken.Ready ∧ harWaiting 0x0402 shaken = [] ∧ tidKind (1 :: List.replicate 23 0) = 1 ∧
    harServed (1 :: List.replicate 23 0) shaken = true ∧ harLocked 1 shaken = false ∧ sessionOf shaken 0 = none ∧ shaken.har.shakes.length < 16 ∧
    shaken.har.sessions.length ≤ 16 ∧ (shaken.har.shakes.find? (fun y => y.hid = 5)).isSome = true ∧ sessionOf shaken 5 = none ∧
    mapGet (fun _ => none) shaken.har.keys 1 = some (3, 7, List.replicate 32 9) ∧ (7 : Nat).testBit 0 = true ∧ phase shaken ≠ 4 ∧
    (sessionOf shaken 7).isSome = true ∧ (shaken.har.sessions.map (·.sid)).Nodup ∧ mapGet (fun _ => 0) shaken.cnt.live (UC_HARNESS 2) + 1 < 2 ^ 48 ∧
    shaken.evc.ntf = 0 := ⟨readyB_ready (by decide +kernel), by decide +kernel⟩
theorem witness_SessionsAndTransports_close : Request (bound 3) (session 3) 1 0x0103 (leBytes 4 0 ++ zeros 4) ∧ tidKind (session 3).tid = 1 ∧
    (session 3).role = 3 := ⟨request_bound 3 _ _ (by simp) (by decide), by decide, rfl⟩
theorem witness_SessionsAndTransports_locked : ∃ s : State, s.Ready ∧ harLocked 1 s = true :=
  ⟨withFields [(HOST_HARNESS_STATUS, HOST_HARNESS_STATUS_LOCKED, 1)] serving, readyB_ready (by decide +kernel), by decide +kernel⟩

/-- A ring that is enabled, with a response buffer posted and one message waiting. -/
def aRing : Ring := { ringReset 0 with size := 16, enable := true, posted := [(0x1000, 64)] }
theorem witness_SessionsAndTransports_rings : ∃ s : State, s.Ready ∧ (ringOf s 3).enable = true ∧ (ringOf s 3).posted = [(0x1000, 64)] ∧
    (ringOf s 3).wait = [] ∧ 1 ≤ (ringOf s 3).size ∧ (ringOf s 3).reqCons < 2 ^ 32 ∧ (ringOf s 0).enable = false ∧ s.har.hspi.length < 8 ∧ hspiFull s = false :=
  ⟨{ serving with har := { serving.har with rings := [(3, aRing)] } }, readyB_ready (by decide +kernel), by decide +kernel⟩
theorem witness_SessionsAndTransports_wait : ∃ s : State, s.Ready ∧ (ringOf s 2).wait = [(false, [1])] ∧ (ringOf s 2).posted = [] ∧ 1 ≤ (ringOf s 2).size ∧
    hspiFull s = true ∧ s.har.hspi.length = 8 :=
  ⟨{ serving with har := { serving.har with rings := [(2, { aRing with posted := [], wait := [(false, [1])] })], hspi := List.replicate 8 (false, [2]) } },
    readyB_ready (by decide +kernel), by decide +kernel⟩
theorem witness_SessionsAndTransports_events : ∃ s : State, s.Ready ∧ s.evc.ntf ≠ 0 ∧ s.har.cairnAt < fget s CNT_CAIRN_HEAD CNT_CAIRN_HEAD_HEAD ∧
    fget s CNT_CAIRN_HEAD CNT_CAIRN_HEAD_HEAD ≤ s.har.cairnAt + 64 :=
  ⟨{ withFields [(CNT_CAIRN_HEAD, CNT_CAIRN_HEAD_HEAD, 5)] serving with evc := { serving.evc with ntf := 1 } }, readyB_ready (by decide +kernel), by decide +kernel⟩

theorem witness_LooksRolesAndRepeats : (bound 1).Ready ∧ phase (bound 1) ≠ 4 ∧ Request (bound 1) (session 1) 1 0x0104 [] ∧
    inSpan SYS_ID = true ∧ absentAddr (bound 1).variant SYS_ID = false ∧ windowOf 0x20000000 = some (0x20000000, 0x1800000, false) ∧
    rangeAbsent (bound 1).variant 0x20000000 8 = false ∧ (bound 1).nvm.op = none ∧ fget (bound 1) CNT_CAIRN_HEAD CNT_CAIRN_HEAD_HEAD = 0 :=
  ⟨bound_ready 1 (by decide), by decide +kernel, request_bound 1 _ _ (by simp) (by decide), by decide +kernel⟩
theorem witness_LooksRolesAndRepeats_roles : cmdLayout 0x0806 [] (bound 1) = none ∧ cmdLayout 0x0701 [] (bound 1) = none ∧ (session 1).role < 2 ∧
    seqFresh { session 1 with high := 100 } 1 = false := by decide +kernel
theorem witness_LooksRolesAndRepeats_kept : ∃ x : Session, x.kept.find? (fun k => k.2.1 = reqMsg x 1 0x0104 []) = some (1, reqMsg x 1 0x0104 [], some [9]) :=
  ⟨{ session 1 with kept := [(1, reqMsg (session 1) 1 0x0104 [], some [9])] }, by simp [reqMsg, session]⟩

theorem witness_HarnessCommandsAct_setting : (bound 3).Ready ∧ phase (bound 3) ≠ 4 ∧ (regRow GATE_LEAD).isSome = true ∧ ownCopy GATE_LEAD = false ∧
    regCheck .harness 3 GATE_LEAD 500 (bound 3) = .ok ∧ maskRwl ⟨GATE_LEAD, 0xFFFF, 500⟩ = false ∧ rwlLocked (bound 3) = true ∧
    ownEffect .harness GATE_LEAD 500 (bound 3) (storePlain GATE_LEAD 500 (bound 3)) = none ∧ storeClosed (bound 3) 0x17FFFF8 8 = false ∧
    tblClosed (bound 3) 63 1 = false ∧ flipBusy (bound 3) = false ∧ fbit (bound 3) TOPO_BANK TOPO_BANK_SWAP_PENDING = false ∧
    fget (bound 3) TOPO_BANK TOPO_BANK_ACTIVE = 0 ∧ swapBusy (bound 3) false = false ∧ onSecond (bound 3) = false ∧ gnssFitted (bound 3) = true ∧
    snapState (bound 3) = 0 ∧ (bound 3).gnss.lean = false ∧ (svcSetAddrs [] (bound 3)).isSome = true :=
  ⟨bound_ready 3 (by decide), by decide +kernel⟩
theorem witness_HarnessCommandsAct_refused : ∃ r : Setting, inSpan r.addr = true ∧ r.addr % 8 = 0 ∧ absentAddr (bound 3).variant r.addr = false ∧
    regCheck .harness 3 r.addr (recordValue r (bound 3)) (bound 3) ≠ .ok := ⟨⟨GATE_LEAD, 0xFFFFFFFFFFFFFFFF, 0⟩, by decide +kernel⟩
theorem witness_HarnessCommandsAct_time : Request (bound 3) (session 3) 1 0x0403 (leBytes 8 0) ∧ fget (bound 3) SERVO_STATE SERVO_STATE_STATE = 0 ∧
    fbit (bound 3) TSU_STATE TSU_STATE_STATE = true ∧ fbit (bound 3) TSU_STATE TSU_STATE_SET_ARMED = false ∧ pairRole (bound 3) = 0 ∧
    ntsFitted (bound 3) = true ∧ (bound 3).nvm.op = none ∧ (bound 3).otp.locked = false ∧ (bound 3).otp.ownerHash = [] ∧
    phase (bound 3) = 3 ∧ (bound 3).start.rest = 0 ∧ nvmAllowed 0x2000000 0x1000 (bound 3) = true :=
  ⟨request_bound 3 _ _ (by simp) (by decide), by decide +kernel⟩
theorem witness_HarnessCommandsAct_units : ∃ s : State, s.Ready ∧ fbit s (REFS_SLOT_STATE 19) REFS_SLOT_STATE_JUMP = true ∧ slotSt s 19 = 4 ∧ slotSt s 9 = 6 ∧
    keyHolder s 77 = some 5 ∧ (keyOfSlot s 5).st ≠ 2 ∧ unitBit s.variant 35 = true :=
  ⟨let s := withFields [(REFS_SLOT_STATE 19, REFS_SLOT_STATE_JUMP, 1), (REFS_SLOT_STATE 19, REFS_SLOT_STATE_STATE, 4), (REFS_SLOT_STATE 9, REFS_SLOT_STATE_STATE, 6)] serving
   { s with svc := { s.svc with keys := [(5, { keyReset 5 with kid := 77, st := 3, key := List.replicate 64 1 })] } },
    readyB_ready (by decide +kernel), by decide +kernel⟩
theorem witness_HarnessCommandsAct_ends : ∃ s : State, ∃ x : Session, s.Ready ∧ sessionOf s 7 = some x ∧ x.busy.isSome = true ∧ x.wait = [] ∧ s.pe.swapGo = true ∧
    s.nvm.op.isSome = true ∧ phase (setPhase 5 s) = 5 ∧ phase (setPhase 4 s) = 4 ∧ s.start.bootSel < 2 :=
  ⟨{ bound 3 with har := { (bound 3).har with sessions := [{ session 3 with busy := some (reqMsg (session 3) 1 0x0306 []) }] },
                  pe := { serving.pe with swapGo := true }, nvm := { serving.nvm with op := some { sid := 7, kind := 0, off := 0, len := 4096, data := [] } } },
    { session 3 with busy := some (reqMsg (session 3) 1 0x0306 []) }, readyB_ready (by decide +kernel), by decide +kernel⟩

-- Outputs and triggers
/-- Output 2 at 1 Hz, 10 us wide, in a mode, and driving. -/
def outUp (mode : Nat) : State :=
  let s := withFields [(OUT_CTL 2, OUT_CTL_MODE, mode), (OUT_FREQ 2, OUT_FREQ_FREQ, 1000000), (OUT_WIDTH 2, OUT_WIDTH_WIDTH, 10000),
    (OUT_CTL 2, OUT_CTL_ENABLE, 1), (OUT_STATUS 2, OUT_STATUS_PATH, 1), (OUT_STATUS 2, OUT_STATUS_PLL_LOCK, 1)] serving
  { s with outs := [(2, { outReset 2 with captured := true })] }

theorem witness_OutputWaveforms : serving.Ready ∧ 2 ≤ roleOf .jtag serving ∧
    (let v := withBits (rd serving (OUT_CTL 2)) [(OUT_CTL_MODE, 1), (OUT_CTL_ENABLE, 1)]
     let s := withFields [(OUT_FREQ 2, OUT_FREQ_FREQ, 1000000), (OUT_WIDTH 2, OUT_WIDTH_WIDTH, 10000)] serving
     rangesOk (OUT_CTL 2) v = true ∧ outOn s 2 = false ∧ getF OUT_CTL_ENABLE v = 1 ∧ outLimits (outStored (OUT_CTL 2) v s) 2 = true ∧
       outMode (outStored (OUT_CTL 2) v s) 2 ≠ 3) := ⟨readyB_ready (by decide +kernel), by decide +kernel⟩
theorem witness_OutputWaveforms_on : (outUp 1).Ready ∧ outOn (outUp 1) 2 = true ∧ outMode (outUp 1) 2 = 1 ∧ outQuiet (outUp 1) 2 = false ∧
    fbit (outUp 1) (OUT_STATUS 2) OUT_STATUS_SQUELCHED = false ∧ fbit (outUp 1) (OUT_STATUS 2) OUT_STATUS_PATH = true ∧
    fbit (fsetB (OUT_STATUS 2) OUT_STATUS_PATH false (outUp 1)) (OUT_STATUS 2) OUT_STATUS_PATH = false ∧
    fbit (outUp 1) (OUT_STATUS 2) OUT_STATUS_PLL_LOCK = true ∧ outMode (outUp 2) 2 = 2 ∧
    (let v := withBits (rd serving (OUT_CTL 2)) [(OUT_CTL_MODE, 1)]
     rangesOk (OUT_CTL 2) v = true ∧ getF OUT_CTL_ENABLE v = 0 ∧ getF OUT_CTL_MODE v = outMode (outUp 1) 2 ∧
       getF OUT_CTL_ALIGN_SRC v = fget (outUp 1) (OUT_CTL 2) OUT_CTL_ALIGN_SRC ∧ outLimits (outStored (OUT_CTL 2) v (outUp 1)) 2 = true) :=
  ⟨readyB_ready (by decide +kernel), by decide +kernel⟩
theorem witness_OutputWaveforms_align : (outUp 3).Ready ∧ outOn (outUp 3) 2 = true ∧ outMode (outUp 3) 2 = 3 ∧ (outOf (outUp 3) 2).captured = true ∧
    fbit (outUp 3) (OUT_STATUS 2) OUT_STATUS_ALIGN_LOST = false ∧
    (let s := withFields [(OUT_TOD 1, OUT_TOD_ENABLE, 1), (OUT_TOD 1, OUT_TOD_SRC, 2)] (outUp 2)
     fbit s (OUT_TOD 1) OUT_TOD_ENABLE = true ∧ fget s (OUT_TOD 1) OUT_TOD_SRC = 2 ∧ outMode s 2 = 2 ∧ outOn s 2 = true) :=
  ⟨readyB_ready (by decide +kernel), by decide +kernel⟩

theorem witness_TriggersFireOnTime : ∃ s : State, ∃ w : Word, s.Ready ∧ w = withBits (rd serving (TRIG_CTL 15)) [(TRIG_CTL_ARM, 1)] ∧ 2 ≤ roleOf .jtag s ∧
    rangesOk (TRIG_CTL 15) w = true ∧ (rd s (TRIG_PERIOD 15)).toNat = 0 ∧ trigFrom s 15 w = some 0 ∧ trigOf s 15 = trigReset 15 :=
  ⟨wr (TRIG_SEC 15) 2000 serving, withBits (rd serving (TRIG_CTL 15)) [(TRIG_CTL_ARM, 1)], readyB_ready (by decide +kernel), by decide +kernel⟩
theorem witness_TriggersFireOnTime_late : serving.Ready ∧ trigFrom serving 15 (withBits (rd serving (TRIG_CTL 15)) [(TRIG_CTL_ARM, 1)]) = none := ⟨readyB_ready (by decide +kernel), by decide +kernel⟩
theorem witness_TriggersFireOnTime_due : trigDue 7 serving ⟨gtNow serving / 2 ^ 16, 0, 0, none⟩ = true ∧
    trigDue 2 serving ⟨gtNow serving / 2 ^ 16, 0, 0, none⟩ = true ∧ trigDue 7 serving ⟨gtNow serving / 2 ^ 16 + 65536, 0, 0, none⟩ = false ∧
    incNow serving ≤ 2 ^ 72 := by decide +kernel
theorem witness_TriggersFireOnTime_fires : ∃ s : State, s.Ready ∧ fget s (TRIG_CTL 3) TRIG_CTL_ARM = 0 ∧ rangesOk (TRIG_CTL 3) (rd s (TRIG_CTL 3)) = true ∧
    trigOf s 3 = { cur := some ⟨5, 10, 2, some 2⟩, nxt := none } ∧ fbit s (TRIG_CTL 3) TRIG_CTL_PIN_EN = true :=
  ⟨{ withFields [(TRIG_CTL 3, TRIG_CTL_PIN_EN, 1)] serving with trigs := [(3, ⟨some ⟨5, 10, 2, some 2⟩, none⟩)] },
    readyB_ready (by decide +kernel), by decide +kernel⟩

-- The pair
/-- One of a pair in a role, both lanes up, the session open where `up`. -/
def pairUp (role : Nat) (up : Bool) : State :=
  let s := withFields [(PAIR_CFG, PAIR_CFG_ENABLE, 1), (PAIR_STATUS, PAIR_STATUS_ROLE, role), (PAIR_STATUS, PAIR_STATUS_LANE0_UP, 1),
    (PAIR_STATUS, PAIR_STATUS_LANE1_UP, 1), (PAIR_STATUS, PAIR_STATUS_TWIN_UP, 1), (PAIR_TWIN, PAIR_TWIN_SERVO, 2)] serving
  { s with pair := { s.pair with key := List.replicate 32 3, sessionOpen := up, twinHeard := true, keyTx := List.replicate 32 1,
                                 keyRx := List.replicate 32 2, ownNonce := List.replicate 32 5, twinNonce := List.replicate 32 6, misses := 5 } }

theorem witness_TwinCustodyAndSession : (pairUp 2 true).Ready ∧ custodyWanted (pairUp 2 true) = true ∧ pairOn (pairUp 2 true) = true ∧
    custodyWanted (pairUp 1 true) = false ∧ (pairUp 2 true).pair.sessionOpen = true ∧ (pairUp 2 true).pair.twinHeard = true ∧
    pst (fsetB PAIR_STATUS PAIR_STATUS_ELECT true (pairUp 2 true)) PAIR_STATUS_ELECT = true ∧
    custIn (fsetB PAIR_STATUS PAIR_STATUS_ELECT true (pairUp 2 true)) = false ∧
    custIn (fsetB PAIR_STATUS PAIR_STATUS_CUST_IN true (pairUp 2 true)) = true ∧
    pst (fsetB PAIR_STATUS PAIR_STATUS_LANE1_UP false (pairUp 2 true)) PAIR_STATUS_LANE1_UP = false ∧
    pairIndex (pairUp 2 true) = 0 ∧ pairIndex (withFields [(PAIR_CFG, PAIR_CFG_INDEX, 1)] (pairUp 2 true)) = 1 :=
  ⟨readyB_ready (by decide +kernel), by decide +kernel⟩
theorem witness_TwinCustodyAndSession_session : (pairUp 3 false).Ready ∧ pairOn (pairUp 3 false) = true ∧ (pairUp 3 false).pair.refused = false ∧
    (pairUp 3 false).pair.sessionOpen = false ∧ (pairUp 3 false).pair.ownNonce ≠ [] ∧ (pairUp 3 false).pair.twinNonce ≠ [] ∧
    (∀ ix v, let b : List Byte := [1, ix, v, 0, 0] ++ zeros 49
      b.length = 54 ∧ leAt b 0 1 = 1 ∧ slice b 22 32 ≠ (pairUp 3 false).pair.twinNonce) ∧
    lane0 (fsetB PAIR_STATUS PAIR_STATUS_LANE0_UP false (pairUp 3 false)) = false := by
  refine ⟨readyB_ready (by decide +kernel), by decide +kernel, rfl, rfl, by decide +kernel, by decide +kernel, ?_, by decide +kernel⟩
  intro ix v
  refine ⟨rfl, rfl, ?_⟩
  show slice (([1, ix, v, 0, 0] : List Byte) ++ zeros 49) 22 32 ≠ List.replicate 32 6
  rw [show slice (([1, ix, v, 0, 0] : List Byte) ++ zeros 49) 22 32 = zeros 32 from rfl]
  decide +kernel
theorem witness_BelayRecordsAndJournal : (pairUp 2 true).Ready ∧ linkUp (pairUp 2 true) = true ∧ pairOn (pairUp 2 true) = true ∧
    (pairUp 2 true).pair.ctrRx ≤ 0 ∧ (pairUp 2 true).pair.authRun < 4 ∧ 4 ≤ (pairUp 2 true).pair.misses ∧
    pst (pairUp 2 true) PAIR_STATUS_DIST_HOLD = false ∧ ttLane (pairUp 2 true) = 0 ∧ lane0 (pairUp 2 true) = true ∧ pairRole (pairUp 2 true) = 2 ∧
    (pairUp 2 true).pair.resync = false ∧ fabRuns (pairUp 2 true) = true ∧ (pairUp 2 true).pe.inj = [] ∧ (pairUp 2 true).pair.rtts = [] :=
  ⟨readyB_ready (by decide +kernel), by decide +kernel⟩
theorem witness_BelayRecordsAndJournal_roles : (pairUp 3 true).Ready ∧ pairRole (pairUp 3 true) = 3 ∧ linkUp (pairUp 3 true) = true ∧
    (pairUp 1 true).Ready ∧ pairRole (pairUp 1 true) = 1 ∧ pairAllowed 1 (pairUp 1 true) = true ∧ 3 ≤ roleOf .jtag (pairUp 1 true) ∧
    (pairUp 4 true).Ready ∧ pairRole (pairUp 4 true) = 4 := by
  exact ⟨readyB_ready (by decide +kernel), by decide +kernel, by decide +kernel, readyB_ready (by decide +kernel), by decide +kernel,
    by decide +kernel, by decide +kernel, readyB_ready (by decide +kernel), by decide +kernel⟩
/-- A sealed record opens again under its own key, nonce and type. -/
theorem witness_BelayRecordsAndJournal_open : gcmOpen (pairUp 2 true).pair.keyRx (belayNonce 0) [4]
    (gcmSeal (pairUp 2 true).pair.keyRx (belayNonce 0) [4] []) = some [] ∧
    gcmOpen (pairUp 2 true).pair.keyRx (belayNonce 0) [4] [] = none := by decide +kernel

-- Punted segments and messages
/-- A punted frame of port 2: no VLAN tag, its layer 3 at byte 14 and its layer 4 at `l4`. -/
def punted (ety l4 : Nat) (frame : List Byte) : Punt :=
  { desc := zeros 22 ++ [2] ++ zeros 4 ++ [14] ++ leBytes 2 l4 ++ leBytes 2 ety ++ zeros 32, frame := frame, tag := 0, w0 := 0, build := zeros 32, old := false }

/-- A segment from 10.0.0.1 port 1000 to 10.0.0.2 port 4460. -/
def segment (flags : Byte) (data : List Byte) : Punt :=
  punted 0x0800 34 (zeros 12 ++ [8, 0] ++ [0x45, 0] ++ beBytes 2 (40 + data.length) ++ zeros 4 ++ [64, 6, 0, 0, 10, 0, 0, 1, 10, 0, 0, 2]
    ++ beBytes 2 1000 ++ beBytes 2 4460 ++ beBytes 4 100 ++ beBytes 4 200 ++ [0x50, flags, 0x20, 0, 0, 0, 0, 0] ++ data)

/-- NTS-KE at 10.0.0.2 port 4460 on port 2, with a segment at the head of ring 1 and, where `st` names one, its connection. -/
def keUp (x : Punt) (st : Option Nat) : State :=
  let s := withFields [(SVC_KE_CTL, SVC_KE_CTL_PORT, 4460)] port2
  let c : KeConn :=
    { v6 := false, peer := 0x0A000001, peerPort := 1000, own := 0x0A000002, port := 2, eth := zeros 6, rcv := 100, snd := 200, mss := 1460,
      st := st.getD 0, rx := [], suite := 0, group := 0, ident := none, share := [], sid := [], priv := 0, rnd := [], job := 0, sub := false, again := false, upd := 0,
      unacked := [([1], false)], wait := [], fin := false, resent := 3, rto := 1000, pfin := false, trans := [], hsb := [], rd := [], rdSeq := 0, wr := [],
      wrSeq := 0, app := [], expo := [], early := false, req := [] }
  { s with pe := { s.pe with punts := [(1, [x])] },
           ke := { s.ke with conns := if st.isSome then [(7, some c)] else [] },
           svc := { s.svc with addrs := [{ ports := 4, v6 := false, ptp := false, addr := 0x0A000002, word := 2048 }] } }

theorem witness_NtsKeConnections : (keUp (segment 2 []) none).Ready ∧ ntsFitted (keUp (segment 2 []) none) = true ∧
    (keTake 1 (keUp (segment 2 []) none)).isSome = true ∧ puntSrc (segment 2 []) = some (false, 0x0A000001) ∧ tcpFlags (segment 2 []) / 2 % 2 = 1 ∧
    tcpFlags (segment 2 []) / 16 % 2 = 0 ∧ keServed (keUp (segment 2 []) none) (segment 2 []) = true ∧ (keUp (segment 2 []) none).pe.inj = [] ∧
    connFind (keUp (segment 16 []) none) (segment 16 []) = none ∧ tcpFlags (segment 16 []) / 16 % 2 = 1 ∧ tcpFlags (segment 16 []) / 2 % 4 = 0 ∧
    keServed (keUp (segment 16 []) none) (segment 16 []) = true := ⟨readyB_ready (by decide +kernel), by decide +kernel⟩
theorem witness_NtsKeConnections_conn : (keUp (segment 16 []) (some 0)).Ready ∧ (connFind (keUp (segment 16 []) (some 0)) (segment 16 [])).isSome = true ∧
    tcpFlags (segment 16 []) / 4 % 2 = 0 ∧ tcpSeq (segment 16 []) = 100 ∧ tcpFlags (segment 20 []) / 4 % 2 = 1 ∧ tcpFlags (segment 17 []) % 2 = 1 ∧
    (connFind (keUp (segment 17 []) (some 4)) (segment 17 [])).isSome = true ∧ segKind (keUp (segment 17 []) (some 4)) (segment 17 []) = 4 ∧
    segKind (keUp (segment 16 []) (some 0)) (segment 16 []) = 5 ∧
    segKind (keUp (segment 16 [21, 3, 3, 0, 2, 1, 0]) (some 0)) (segment 16 [21, 3, 3, 0, 2, 1, 0]) = 2 ∧
    segKind (keUp (segment 16 [23, 3, 3, 0, 0]) (some 0)) (segment 16 [23, 3, 3, 0, 0]) = 5 ∧
    (match connOf (keUp (segment 16 []) (some 4)) 7 with | some c => decide (c.st = 4 ∧ c.unacked ≠ [] ∧ 3 ≤ c.resent) | none => false) = true :=
  ⟨readyB_ready (by decide +kernel), by decide +kernel⟩
theorem witness_NtsKeConnections_idents : ∃ s : State, s.Ready ∧ identPast s 0 = true ∧ tsuUnset s = false ∧ mapGet (fun _ => 0) s.ke.warned 0 ≠ nowSec s / 86400 + 1 :=
  ⟨{ serving with ke := { serving.ke with idents := [⟨[], 1, 0, [], [], 500, true, 0⟩] } }, readyB_ready (by decide +kernel), by decide +kernel⟩

/-- A PTP message over UDP of domain 0 from 10.0.0.1. -/
def ptpPunt (ty : Byte) (body : List Byte) : Punt :=
  punted 0x0800 34 (zeros 12 ++ [8, 0] ++ zeros 12 ++ [10, 0, 0, 1, 10, 0, 0, 2] ++ zeros 8 ++ [ty, 2] ++ beBytes 2 (34 + body.length) ++ zeros 16
    ++ List.replicate 10 9 ++ beBytes 2 77 ++ [0, 0] ++ body)

/-- PTP on port 2 with a profile of domain 0, a role, and REF9 bound to that port with a chosen master. -/
def ptpUp (profile role : Nat) (rings : List (Nat × List Punt)) : State :=
  let s := withFields [(PTP_CTL, PTP_CTL_ENABLE, 1), (PTP_DOM 0, PTP_DOM_PROFILE, profile), (PTP_PORT 2, PTP_PORT_ROLE, role),
    (PTP_PORT 2, PTP_PORT_DOM_MASK, 1), (PTP_CLOCK_ID, PTP_CLOCK_ID_ID, 0x1122334455667788), (REFS_SLOT_INPUT 9, REFS_SLOT_INPUT_SIGNAL, 1),
    (REFS_SLOT_INPUT 9, REFS_SLOT_INPUT_PORT, 2)] port2
  let s := refSlSet 9 { refSl s 9 with bound := true } s
  { s with pe := { s.pe with punts := rings },
           ptp := { s.ptp with ups := [(9, { upReset 9 with master := List.replicate 10 9, sync := some (77, 5, 6), ms := some 3 })],
                               grants := [(4, some ⟨0x0A000001, true, 2, 0, 0, [], [], 0, ⟨false, 0, 0⟩, ⟨true, 0, 900⟩, ⟨false, 0, 0⟩, 0⟩)] } }

theorem witness_PtpStreamsAndMasters : (ptpUp 4 3 [(3, [ptpPunt 8 (zeros 10)])]).Ready ∧
    puntInst (ptpUp 4 3 []) (ptpPunt 8 (zeros 10)) = some 0 ∧ ptpMsgType (puntMsg (ptpPunt 8 (zeros 10))) = 8 ∧ ptpSeq (puntMsg (ptpPunt 8 (zeros 10))) = 77 ∧
    9 ∈ ptpSlots (ptpUp 4 3 []) 2 0 ∧ (upOf (ptpUp 4 3 []) 9).master = ptpSrc (puntMsg (ptpPunt 8 (zeros 10))) ∧ annSilent (ptpUp 4 3 []) 9 = true ∧
    slice (puntMsg (ptpPunt 0xB (zeros 30))) 20 8 ≠ beBytes 8 (rd (ptpUp 4 3 []) PTP_CLOCK_ID).toNat ∧ beAt (puntMsg (ptpPunt 0xB (zeros 30))) 61 2 < 255 ∧
    ptpRole (ptpUp 4 3 []) 2 = 3 ∧ pairRole (ptpUp 4 3 []) ≠ 1 ∧ ¬ nowSec (ptpUp 4 3 []) < mapGet (fun _ => 0) (upOf (ptpUp 4 3 []) 9).ends 0 :=
  ⟨readyB_ready (by decide +kernel), by decide +kernel⟩
theorem witness_PtpStreamsAndMasters_streams : (ptpUp 1 3 []).Ready ∧ streamOn (ptpUp 1 3 []) 3 0 2 = true ∧
    nominalInstant (streamLog (ptpUp 1 3 []) 3 0 2) 2 none 0 ≤ gtNow (ptpUp 1 3 []) ∧
    gtNow (ptpUp 1 3 []) + ns32 (fget (ptpUp 1 3 []) GATE_LEAD GATE_LEAD_LEAD) < nominalInstant (streamLog (ptpUp 1 3 []) 3 0 2) 2 none 1000000000 :=
  ⟨readyB_ready (by decide +kernel), by decide +kernel⟩
theorem witness_PtpStreamsAndMasters_grants : (ptpUp 4 1 []).Ready ∧ ptpServes (ptpUp 4 1 []) = true ∧ ptpProfile (ptpUp 4 1 []) 0 = 4 ∧
    (match grantOf (ptpUp 4 1 []) 4 with
     | some y => decide (grantType y (upMsgType 1) = some ⟨true, 0, 900⟩) && decide (y.ann.on = false) && decide (y.dresp.on = false)
     | none => false) = true := ⟨readyB_ready (by decide +kernel), by decide +kernel⟩
theorem witness_PtpStreamsAndMasters_leader : linkUp (pairUp 1 true) = true ∧ pairRole (pairUp 1 true) = 1 := by decide +kernel

-- References and servo
/-- A device at S9 with slot REF3 in a state, JUMP set and one refused sample, and a mode of selection. -/
def refUpAt (st mode : Nat) : State :=
  let s := withFields [(REFS_SLOT_CFG 3, REFS_SLOT_CFG_ENABLE, if st = 0 then 0 else 1), (REFS_SLOT_STATE 3, REFS_SLOT_STATE_STATE, st),
    (REFS_SLOT_STATE 3, REFS_SLOT_STATE_JUMP, 1), (REFS_CTL, REFS_CTL_MODE, mode), (REFS_CTL, REFS_CTL_FORCE_SLOT, 3), (PAIR_CFG, PAIR_CFG_FOLLOW, 0)] serving
  refSlSet 3 { refSl s 3 with refused := [⟨1, 2, 3, 4⟩], act := true } s

theorem witness_ReferenceCommands : (refUpAt 0 1).Ready ∧ slotSt (refUpAt 0 1) 3 = 0 ∧ 8 ≤ stage (refUpAt 0 1) ∧ 3 ≤ roleOf .jtag (refUpAt 0 1) ∧
    (let v := withBits (rd (refUpAt 0 1) (REFS_SLOT_CFG 3)) [(REFS_SLOT_CFG_ENABLE, 1)]
     regCheck .jtag 3 (REFS_SLOT_CFG 3) v (refUpAt 0 1) = .ok ∧ getF REFS_SLOT_CFG_ENABLE v = 1) ∧
    roleOf .jtag (refUpAt 0 1) = 3 ∧ switching (refUpAt 0 1) = false ∧ regCheck .jtag 3 REFS_CTL (rd (refUpAt 0 1) REFS_CTL) (refUpAt 0 1) = .ok ∧
    unitBit (refUpAt 0 1).variant 35 = true := ⟨readyB_ready (by decide +kernel), by decide +kernel⟩
theorem witness_ReferenceCommands_enabled : (refUpAt 6 1).Ready ∧ slotSt (refUpAt 6 1) 3 = 6 ∧
    (let v := withBits (rd (refUpAt 6 1) (REFS_SLOT_CFG 3)) [(REFS_SLOT_CFG_ENABLE, 0)]
     regCheck .jtag 3 (REFS_SLOT_CFG 3) v (refUpAt 6 1) = .ok ∧ getF REFS_SLOT_CFG_ENABLE v = 0) ∧
    fbit (refUpAt 6 1) (REFS_SLOT_STATE 3) REFS_SLOT_STATE_JUMP = true ∧ (refSl (refUpAt 6 1) 3).refused = [⟨1, 2, 3, 4⟩] ∧
    switching (fsetB REFS_STATUS REFS_STATUS_SWITCHING true (refUpAt 6 1)) = true := ⟨readyB_ready (by decide +kernel), by decide +kernel⟩
theorem witness_ReferenceSamples : (refUpAt 3 1).Ready ∧ 2 ≤ slotSt (refUpAt 3 1) 3 ∧ slotKind (refUpAt 3 1) 3 ≠ 2 ∧ sampleFits (refUpAt 3 1) 3 0 0 0 = true ∧
    slotSt (refUpAt 1 1) 3 < 2 ∧ slotKind (withFields [(REFS_SLOT_INPUT 3, REFS_SLOT_INPUT_SIGNAL, 2)] (refUpAt 3 1)) 3 = 2 ∧
    selected (refUpAt 3 1) ≠ 3 ∧
    (let s := refSlSet 3 { refSl (refUpAt 3 1) 3 with p := some ⟨0, 0, 0, 0⟩ } (refUpAt 3 1)
     sampleFits s 3 0 1000000000000000 0 = false) := ⟨readyB_ready (by decide +kernel), by decide +kernel⟩
theorem witness_ReferenceMonitoring : (refUpAt 3 2).Ready ∧ switching (refUpAt 3 2) = false ∧ fbit (refUpAt 3 2) PAIR_CFG PAIR_CFG_FOLLOW = false ∧
    fget (refUpAt 3 2) REFS_CTL REFS_CTL_MODE = 2 ∧ fget (refUpAt 3 2) REFS_CTL REFS_CTL_FORCE_SLOT = 3 ∧ slotSt (refUpAt 3 2) 3 = 3 ∧
    (let s := withFields [(REFS_STATUS, REFS_STATUS_SELECTED, 3)] (refUpAt 4 3)
     fget s REFS_CTL REFS_CTL_MODE = 3 ∧ selected s = 3 ∧ slotSt s 3 = 4) ∧
    (let s := { withFields [(REFS_STATUS, REFS_STATUS_SWITCHING, 1), (REFS_STATUS, REFS_STATUS_SELECTED, 31)] (refUpAt 3 1) with
                  servo := { serving.servo with target := some 3, ctlWait := none, lastSel := 31 } }
     s.servo.target = some 3 ∧ switching s = true ∧ s.servo.ctlWait = none ∧ selected s = 31 ∧ s.servo.lastSel = 31 ∧ slotSt s 3 = 3) ∧
    (let s := refSlSet 3 { refSl (refUpAt 3 1) 3 with rejFreq := 1 } (refUpAt 3 1)
     (refSl s 3).rejFreq ≠ 0 ∧ (refSl s 3).rejFreq + fget s (REFS_SLOT_FLIM 3) REFS_SLOT_FLIM_DISQ_TIME ≤ nowMs s) ∧
    (let s := refSlSet 3 { refSl (refUpAt 2 1) 3 with ys := [(1000, 3), (999, 2), (998, 1)], driftSince := 1 } (refUpAt 2 1)
     3 ≤ (refSl s 3).ys.length ∧ 0 < (lsSlope ((refSl s 3).ys.map (fun p => ((p.1 : Int) - nowSec s, p.2)))).2) :=
  ⟨readyB_ready (by decide +kernel), by decide +kernel⟩

/-- The servo in a state, REF3 selected with one sample. -/
def servoUp (st : Nat) : State :=
  let s := withFields [(SERVO_STATE, SERVO_STATE_STATE, st), (SERVO_STATE, SERVO_STATE_TREND_ACTIVE, 1), (SERVO_BW 1, SERVO_BW_LOCK_TIME, 900), (REFS_STATUS, REFS_STATUS_SELECTED, 3)] (refUpAt 4 1)
  { refSlSet 3 { refSl s 3 with fresh := [⟨1, 2, 3, 4⟩] } s with servo := { s.servo with runAt := 1 } }

theorem witness_ServoSteersAndHoldsOver : (servoUp 1).Ready ∧ selected (servoUp 1) = 3 ∧ switching (servoUp 1) = false ∧ servoSt (servoUp 1) = 1 ∧
    (refSl (servoUp 1) 3).fresh ≠ [] ∧ tsuUnset (servoUp 1) = false ∧ loopType (servoUp 1) 3 ≠ 2 ∧ (servoUp 1).tsu.slewRemain = 0 ∧
    (servoUp 1).servo.runAt ≠ 0 ∧ fget (servoUp 1) (SERVO_BW (loopType (servoUp 1) 3)) SERVO_BW_LOCK_TIME * gtSecond ≤ gtNow (servoUp 1) + 1 - (servoUp 1).servo.runAt ∧
    servoSt (servoUp 3) = 3 ∧ fbit (servoUp 3) SERVO_STATE SERVO_STATE_TREND_ACTIVE = true ∧ fget (servoUp 1) SERVO_HIST SERVO_HIST_HEAD10 < 720 ∧
    (servoUp 1).servo.minN < 5 ∧ eccQuiet (servoUp 1) = true := ⟨readyB_ready (by decide +kernel), by decide +kernel⟩

-- Master keys
/-- Master keys in slots 5 to 7 in states, derived or drawn. -/
def keysUp (random : Nat) (a b c : Nat) : State :=
  let s := withFields [(SVC_CTL, SVC_CTL_KEY_SOURCE, random)] serving
  let k := fun n st => ((n, { keyReset n with key := List.replicate 64 1, kid := n, st := st, ends := 2000 }) : Nat × KeySlot)
  { s with svc := { s.svc with keys := ((if a = 0 then [] else [k 5 a]) ++ (if b = 0 then [] else [k 6 b]) ++ (if c = 0 then [] else [k 7 c])) } }

theorem witness_MasterKeyLifetimes : (keysUp 0 1 2 3).Ready ∧ tsuUnset (keysUp 0 1 2 3) = false ∧ ntsFitted (keysUp 0 1 2 3) = true ∧
    keyIn (keysUp 0 1 2 3) 1 = some 5 ∧ keyIn (keysUp 0 1 2 3) 2 = some 6 ∧ (keyOfSlot (keysUp 0 1 2 3) 7).st = 3 ∧ keyRandom (keysUp 0 1 2 3) = false ∧
    keyIn (keysUp 1 0 2 3) 1 = none ∧ keyIn (keysUp 1 0 2 3) 2 ≠ none ∧ keyRandom (keysUp 1 0 2 3) = true ∧ keyMaker (keysUp 1 0 2 3) = true ∧
    (let s := wr SVC_KEY_EPOCH 1000 (keysUp 0 0 0 0)
     keyEpoch s ≤ nowSec s ∧ keyIn s 1 = none ∧ keyIn s 2 = none) := ⟨readyB_ready (by decide +kernel), by decide +kernel⟩
theorem witness_CustodianKeyControl : (keysUp 1 1 2 3).Ready ∧ 3 ≤ roleOf .jtag (keysUp 1 1 2 3) ∧ pairRole (keysUp 1 1 2 3) ≠ 2 ∧
    keyRandom (keysUp 1 1 2 3) = true ∧ keyIn (keysUp 1 1 2 3) 1 = some 5 ∧ keyIn (keysUp 1 1 2 3) 2 = some 6 ∧
    (∀ m, m < 64 → (keyOfSlot (keysUp 1 1 2 3) m).st = 1 → m = 5) ∧ (keysUp 1 1 2 3).svc.nextId % 64 ≠ 5 ∧ (keysUp 1 1 2 3).svc.nextId % 64 ≠ 6 ∧
    keyHolder (keysUp 1 1 2 3) 7 = some 7 ∧ (keyOfSlot (keysUp 1 1 2 3) 7).st ≠ 2 := ⟨readyB_ready (by decide +kernel), by decide +kernel⟩
theorem witness_SketchAndDropReports : ∃ s : State, s.Ready ∧ mapGet (fun _ => 0) s.cnt.live (EC_DROP_RSN 0x10) ≠ 0 :=
  ⟨bump (EC_DROP_RSN 0x10) 3 serving, readyB_ready (by decide +kernel), by decide +kernel⟩

-- The interval counter
/-- TIC channel 2 armed in a mode, an interval open where `first`. -/
def ticUp (mode : Nat) (opened : Bool) : State :=
  let s := withFields [(TIC_CH_CTL 2, TIC_CH_CTL_MODE, mode), (TIC_CH_SRC 2, TIC_CH_SRC_START, 8), (TIC_CH_SRC 2, TIC_CH_SRC_STOP, 9),
    (TIC_CH_GATE 2, TIC_CH_GATE_TIMEOUT_US, 100), (TIC_CH_CTL 2, TIC_CH_CTL_OWNER, 1)] serving
  { s with tic := [(2, { ticReset 2 with armed := true, first := if opened then some ⟨4, 0, 50, 9, 0, 0, false, false⟩ else none, fifo := [(1, 2, 3)] })] }

theorem witness_IntervalMeasurements : (ticUp 1 false).Ready ∧ ticFitted (ticUp 1 false) 2 = true ∧ (ticOf (ticUp 1 false) 2).armed = true ∧
    (ticOf (ticUp 1 false) 2).lastS = none ∧ ticSource (ticUp 1 false).variant (fget (ticUp 1 false) (TIC_CH_SRC 2) TIC_CH_SRC_START) = true ∧
    fget (ticUp 1 false) (TIC_CH_CTL 2) TIC_CH_CTL_MODE = 1 ∧ (ticOf (ticUp 1 false) 2).fifo.length < 64 ∧
    (ticUp 0 true).Ready ∧ fget (ticUp 0 true) (TIC_CH_CTL 2) TIC_CH_CTL_MODE = 0 ∧ (ticOf (ticUp 0 false) 2).first = none ∧
    (ticOf (ticUp 0 true) 2).lastP = none ∧ ticSource (ticUp 0 true).variant (fget (ticUp 0 true) (TIC_CH_SRC 2) TIC_CH_SRC_STOP) = true ∧
    (ticOf (ticUp 0 true) 2).first.isSome = true ∧ fget (ticUp 0 true) (TIC_CH_GATE 2) TIC_CH_GATE_TIMEOUT_US ≠ 0 := by
  exact ⟨readyB_ready (by decide +kernel), by decide +kernel, by decide +kernel, by decide +kernel, by decide +kernel, by decide +kernel, by decide +kernel,
    readyB_ready (by decide +kernel), by decide +kernel⟩
theorem witness_IntervalChannelControl : (ticUp 1 false).Ready ∧ fbit (ticUp 1 false) (TIC_CH_CTL 2) TIC_CH_CTL_OWNER = true ∧ 2 ≤ roleOf .jtag (ticUp 1 false) ∧
    rangesOk (TIC_CH_CTL 2) (withBits (rd serving (TIC_CH_CTL 2)) [(TIC_CH_CTL_ARM, 1)]) = true ∧ rangesOk (TIC_CH_SRC 2) 0 = true ∧ (ticOf (ticUp 1 false) 2).fifo = [(1, 2, 3)] :=
  ⟨readyB_ready (by decide +kernel), by decide +kernel⟩

-- The NTS client and time of day
/-- REF9 an enabled NTS slot with a client state, REF18 fed by binary messages. -/
def ntsUp (f : NtsClient → NtsClient) : State :=
  let s := withFields [(REFS_SLOT_INPUT 9, REFS_SLOT_INPUT_SIGNAL, 2), (REFS_SLOT_STATE 9, REFS_SLOT_STATE_STATE, 2),
    (REFS_SLOT_STATE 18, REFS_SLOT_STATE_STATE, 2), (REFS_SLOT_INPUT 18, REFS_SLOT_INPUT_INSTANCE, 2)] serving
  let s := refSlSet 9 { refSl s 9 with bound := true, misses := 3 } s
  { s with nts := [(9, f { ntsReset 9 with poll := 1 })] }

/-- A binary time-of-day message that labels SEC 1000. -/
def todMsg : List Byte :=
  let b := [0x47, 0x54, 1, 1] ++ leBytes 8 1000 ++ [0, 0, 3]
  b ++ [BitVec.ofNat 8 (256 - (b.map (·.toNat)).sum % 256)]

theorem witness_NtsClientAndTimeOfDay : (ntsUp id).Ready ∧ ntsSlot (ntsUp id) 9 = true ∧ (ntsOf (ntsUp id) 9).cookies = [] ∧ (ntsOf (ntsUp id) 9).ke = false ∧
    (ntsOf (ntsUp (fun c => { c with cookies := [[1, 2]] })) 9).cookies = [[1, 2]] ∧
    (ntsOf (ntsUp (fun c => { c with uid := List.replicate 32 1 })) 9).uid ≠ [] ∧ 3 ≤ (refSl (ntsUp id) 9).misses ∧
    (ntsOf (ntsUp (fun c => { c with ke := true })) 9).ke = true ∧ tsuUnset (ntsUp id) = false ∧
    keRecords 64 (ntsRec 1 [0, 0] ++ ntsRec 4 [0, 15] ++ ntsRec 5 [7] ++ ntsRec 0 []) = [(1, [0, 0]), (4, [0, 15]), (5, [7]), (0, [])] ∧
    2 ≤ slotSt (ntsUp id) 18 ∧ todLabel (ntsUp id) 0 todMsg = some (1000, 8) ∧ todLabel (ntsUp id) 0 [1] = none ∧ mapGet (fun _ => none) (ntsUp id).tod 0 = none :=
  ⟨readyB_ready (by decide +kernel), by decide +kernel⟩

-- A few steps and computations the spec writes out ------------------------------------------------------------------------

/-- The queue is first in, first out, and an empty one ticks. -/
theorem test_step_takes_front : step { serving with pending := [.dropAggregation, .sketchHalvingPass] } =
    exec .dropAggregation { serving with pending := [.sketchHalvingPass] } := rfl
/-- Words of the table have no bits: none decodes. -/
theorem test_no_word_decodes : decodeTableWord 0 0 = none := by decide
/-- R178 test 2, and R202: an unknown EtherType, and ARP that asks for no address of the device. -/
theorem test_stock_drops : stockAct serving (punted 0x1234 0xFFFF (zeros 60)) = .drop 0x11 ∧
    stockAct serving (punted 0x0806 0xFFFF (zeros 60)) = .drop 0x28 := by decide +kernel
/-- FIPS 180-4, the digest of "abc". -/
theorem test_sha256_abc : beNat (sha256 (ascii "abc")) = 0xba7816bf8f01cfea414140de5dae2223b00361a396177a9cb410ff61f20015ad := by decide +kernel
/-- IEEE 802.3: the check value of the FCS over "123456789", sent least significant byte first. -/
theorem test_fcs : fcsOf (ascii "123456789") = [0x26, 0x39, 0xF4, 0xCB] := by decide +kernel
/-- R529: the standard CRC-32C over "123456789" (RFC 3720). -/
theorem test_crc32c : crc32c 0xFFFFFFFF (ascii "123456789") = 0xE3069283 := by decide +kernel

-- Runs of the stock Topo
/-- Port 2 with a service address 10.0.0.2 and the stock Topo in bank 0; profile 0 declares the device synchronised. -/
def svcUp : State :=
  let s := withFields [(SVC_NTP_PROF 0, SVC_NTP_PROF_UNSYNC_BOUND, 1000000), (SVC_NTP_PROF 0, SVC_NTP_PROF_FREE_STRATUM, 2)] rxPort
  let s := gateSet 2 { gateReset 2 with origin := (999 * 10 ^ 9 : Int) * 2 ^ 72 } { s with tsu := { s.tsu with errFs := 1000 }, pe := { s.pe with stock := 1 } }
  (svcSetAddrs [{ ports := 4, v6 := false, ptp := false, addr := 0x0A000002, word := 2048 + 100 * 2 ^ 32 }] s).getD State.reset

/-- An NTP request of 48 bytes from 10.0.0.1. -/
def ntpReq : List Byte :=
  let b := List.replicate 6 (0xFF : Byte) ++ [0, 1, 2, 3, 4, 5, 8, 0] ++ [0x45, 0, 0, 76] ++ zeros 4 ++ [64, 17, 0, 0, 10, 0, 0, 1, 10, 0, 0, 2]
    ++ beBytes 2 5000 ++ beBytes 2 123 ++ beBytes 2 56 ++ [0, 0] ++ [0x23] ++ zeros 39 ++ [1, 2, 3, 4, 5, 6, 7, 8]
  b ++ fcsOf b

/-- The frame received at an instant, and its run begun in context 0. -/
def stockUp (tw : Nat) (f : List Byte) : State := nextOf (execFrameReceive 2 f false 2 tw 0 0 0 0 0 svcUp)
def runIn (cls tw : Nat) (f : List Byte) : State := dispatchTo cls (8 + cls) 0 (stockUp tw f)
def runX (cls tw : Nat) (f : List Byte) : Punt := let c := ctxOf (runIn cls tw f) 0; ⟨c.desc, runFrame c (runIn cls tw f), 0, 0, [], c.old⟩
def at1000 : Nat := 1000 * 10 ^ 9 * 2 ^ 32

theorem witness_DispatchAndInjection_plain : puntsTaken queued = queued ∧ queued.pe.stock = 0 := by decide +kernel
theorem witness_DispatchAndInjection_stock : (stockUp 0 bcast).Ready ∧ puntsTaken (stockUp 0 bcast) = stockUp 0 bcast ∧
    (stockUp 0 bcast).pe.stock.testBit (fget (stockUp 0 bcast) TOPO_BANK TOPO_BANK_ACTIVE) = true ∧ dispatchPlan (stockUp 0 bcast) = some (3, 11, 0) ∧
    queueOf (stockUp 0 bcast) 11 ≠ [] ∧ (let a := runIn 3 0 bcast
      leAt (ctxOf a 0).desc 23 1 % 16 < 8 ∧ stockMeet (ctxOf a 0) (runX 3 0 bcast) a = (false, a) ∧ stockAct a (runX 3 0 bcast) = .drop 0x11 ∧
        mapGet (fun _ => 0) a.cnt.live (EC_DROP_RSN 0x11) + 1 < 2 ^ 48) := ⟨readyB_ready (by decide +kernel), by decide +kernel⟩
theorem witness_DispatchAndInjection_ntp : [0, at1000].all (fun tw =>
    let a := runIn 2 tw ntpReq
    let c := ctxOf a 0
    let x := runX 2 tw ntpReq
    let k := sketchAdd (sketchKey x false) 1 false a
    readyB (stockUp tw ntpReq) && decide (dispatchPlan (stockUp tw ntpReq) = some (2, 10, 0)) && decide (stockMeet c x a = (false, a))
      && decide (stockAct a x = .ntp) && decide (udpLen x = 56) && (match svcLook a x false (decide (stockType x = 0x86DD)) (puntDst x) with
      | some w => decide (k.1 ≤ svcThresh w) && !ntpUnsync k.2 (w % 8) &&
        ((stockSlot 0 (ntpFrame k.2 x (ntpHead k.2 x w 0)).length c k.2).1.isSome == decide (tw ≠ 0))
      | none => false) && decide ((slice x.frame (ntpOff x + 40) 8).length = 8)) = true := by decide +kernel

-- Edges of the outputs, the TSU and the interval counter
/-- Output 2 driving, with an edge state of its own. -/
def outAt (mode : Nat) (f : OutCh → OutCh) : State :=
  { withFields [(OUT_STATUS 2, OUT_STATUS_PATH, 0)] (outUp mode) with outs := [(2, f (outReset 2))] }
theorem witness_OutputWaveforms_edges : readyB (outAt 1 (fun x => { x with edge := some 5 })) = true ∧
    (outOf (outAt 1 (fun x => { x with edge := some 5 })) 2).edge = some 5 ∧ outMode (outAt 1 id) 2 ≠ 3 ∧ outQuiet (outAt 1 id) 2 = false ∧
    fbit (outAt 1 id) (OUT_STATUS 2) OUT_STATUS_SQUELCHED = false ∧ fbit (outAt 1 id) (OUT_STATUS 2) OUT_STATUS_PATH = false ∧
    (outOf (outAt 1 id) 2).edge = none ∧ readyB (outAt 1 (fun x => { x with level := true })) = true ∧
    (outOf (outAt 1 (fun x => { x with level := true })) 2).level = true ∧ (outOf (outAt 1 (fun x => { x with level := true })) 2).left = 0 ∧
    (outOf (outAt 1 id) 2).level = false ∧ readyB (outAt 3 (fun x => { x with k := 2 })) = true ∧ outOn (outAt 3 id) 2 = true ∧ outMode (outAt 3 id) 2 = 3 ∧
    (outOf (outAt 3 id) 2).captured = false := by decide +kernel
theorem witness_TsuRateWrites_cancelled : (let s := { serving with tsu := { serving.tsu with slewRemain := 5 * 2 ^ 56 } }
    readyB s ∧ s.tsu.slewRemain ≠ 0 ∧ s.tsu.slewRemain + (-5 : BitVec 64).toInt * 2 ^ 56 = 0 ∧ fbit s TSU_STATE TSU_STATE_STATE = true ∧
      (s.tsu.slewRemain = 0 ∨ s.tsu.slewRemain + (3 : BitVec 64).toInt * 2 ^ 56 ≠ 0)) := by decide +kernel
theorem witness_IntervalMeasurements_pulse : (let s := withFields [(TIC_CH_SRC 2, TIC_CH_SRC_START, 24), (TIC_CH_SRC 2, TIC_CH_SRC_STOP, 24)] (ticUp 1 true)
    let u := { s with gnss := { s.gnss with pulseAt := some (gtNow s) } }
    readyB s ∧ ticPulse s false = false ∧ readyB u ∧ ticPulse u false = true ∧ ticSource u.variant 24 = true) := by decide +kernel
theorem witness_AttemptsFailAndRetry_lane : (let s := portSet 2 { portReset 2 with calTx := true } (withFields [(PORT_MODE 0, PORT_MODE_GROUP_MODE, 1)] (atStart 7))
    readyB s ∧ heldInReset s = false ∧ atStage 7 s = true ∧ calRuns s 2 true = true ∧ laneFitted s 2 = true) := by decide +kernel

-- NTS-KE
theorem witness_NtsKeConnections_ends : (match connOf (keUp (segment 16 []) (some 0)) 7 with
    | some c => decide (recTake { segTake (segment 16 []) c with st := 4 } = none) && c.rnd.isEmpty
    | none => false) = true := by decide +kernel

-- PTP
/-- Instance 0 with a profile on port 2, at an instant between two of its nominal instants. -/
def ptpAt (profile role ns : Nat) : State :=
  let s := ptpUp profile role []
  { s with tsu := { s.tsu with now := (1000 * 10 ^ 9 + ns) * 2 ^ 72 } }

theorem witness_PtpStreamsAndMasters_due : (let s := ptpAt 1 3 19000
    let a := nominalInstant (streamLog s 3 0 2) 2 none 16000
    readyB s ∧ gtNow s < a ∧ a ≤ gtNow s + ns32 (fget s GATE_LEAD GATE_LEAD_LEAD) ∧ frameSpot s 132 = some 0 ∧ injectFits s 9 0 128 = true) := by decide +kernel
/-- A requester holds Sync and Announce grants. -/
def grantsUp : State :=
  let s := ptpAt 4 1 3500
  { s with ptp := { s.ptp with grants := [(4, some ⟨0x0A000001, true, 2, 0, 0, [], [], 0, ⟨true, 0, 2000⟩, ⟨true, 0, 2000⟩, ⟨false, 0, 0⟩, 0⟩)] } }
theorem witness_PtpStreamsAndMasters_unicast : readyB grantsUp = true ∧ ptpServes grantsUp = true ∧
    fbit grantsUp PTP_CTL PTP_CTL_ENABLE = true ∧ isMaster grantsUp 2 0 = true ∧ instHeld grantsUp 0 = false ∧
    (match grantOf grantsUp 4 with | some x => grantLive grantsUp x.sync && grantLive grantsUp x.ann | none => false) = true ∧
    nominalInstant 0 2 (some 4) 1000 ≤ gtNow grantsUp + ns32 (fget grantsUp GATE_LEAD GATE_LEAD_LEAD) ∧ gtNow grantsUp < nominalInstant 0 2 (some 4) 1000 ∧
    nominalInstant 0 2 (some 4) 999 ≤ gtNow grantsUp ∧ gtNow grantsUp + ns32 (fget grantsUp GATE_LEAD GATE_LEAD_LEAD) < nominalInstant 0 2 (some 4) 1001 := by
  decide +kernel

/-- A PTP slave port with a chosen master, launches of its delay requests noted, and a message at the head of a ring. -/
def ptpSlave (profile ring : Nat) (ty : Byte) (body : List Byte) : State :=
  let s := ptpUp profile 3 [(ring, [ptpPunt ty body])]
  { s with ptp := { s.ptp with launches := [(8 * 65536 + 77, 6)], pdelay := [(2, some (77, 9, 5, 0))] } }
theorem witness_PtpStreamsAndMasters_delay : (let m := zeros 10 ++ portIdentity (ptpSlave 2 3 9 []) 2
    let s := ptpSlave 1 3 9 m
    let u := ptpSlave 2 3 0xA m
    readyB s ∧ readyB u ∧ slice (puntMsg (ptpPunt 9 m)) 44 10 = portIdentity s 2 ∧ launchOf s 2 0 (ptpSeq (puntMsg (ptpPunt 9 m))) = some 5 ∧
      puntPort (ptpPunt 9 m) = 2 ∧ 9 ∈ ptpSlots s 2 0 ∧ (upOf s 9).ms = some 3 ∧
      pdelayInst u 2 77 = some 0 ∧ mapGet (fun _ => none) u.ptp.pdelay 2 = some (77, 9, 5, 0) ∧ slice (puntMsg (ptpPunt 0xA m)) 44 10 = portIdentity u 2 ∧
      puntInst u (ptpPunt 0xA m) = some 0 ∧ puntInst s (ptpPunt 9 m) = some 0 ∧
      (BitVec.ofNat 8 (beAt (puntMsg (ptpPunt 3 m)) 6 1)).getLsbD 1 = false) := by decide +kernel
theorem witness_PtpStreamsAndMasters_upstream : (let b := beBytes 8 0 ++ beBytes 2 0
    let s := ptpUp 4 3 [(3, [ptpPunt 0xC (b ++ beBytes 2 5 ++ beBytes 2 8 ++ [0xB0, 0] ++ beBytes 4 300 ++ [0, 0])])]
    let u := { s with refUp := [(9, some (false, 0x0A000001))] }
    let x := ptpPunt 0xC (b ++ beBytes 2 5 ++ beBytes 2 8 ++ [0xB0, 0] ++ beBytes 4 300 ++ [0, 0])
    readyB u ∧ isSignal 5 (puntMsg x) = true ∧ upSlot u x = some 9 ∧ upType (beAt (((signalTlvs (puntMsg x)).headD (0, [])).2) 0 1 / 16) = some 0 ∧
      ptpProfile u (upInst u 9) = 4 ∧ 9 ∈ ptpSlots u (upPort u 9) (upInst u 9)) := by decide +kernel

-- References
theorem witness_ReferenceSamples_kinds : (let s := refUpAt 3 1
    let u := withFields [(REFS_SLOT_INPUT 3, REFS_SLOT_INPUT_SIGNAL, 2), (REFS_STATUS, REFS_STATUS_SELECTED, 3)] s
    readyB u ∧ 2 ≤ slotSt u 3 ∧ slotKind u 3 = 2 ∧ selected u = 3 ∧ switching u = false ∧
      refSilent s 3 = true ∧ refSilent (refSlSet 3 { refSl s 3 with lastAt := gtNow s } s) 3 = false ∧ refSilent s 8 = true ∧ refSilent s 17 = true ∧
      refSilent (refSlSet 17 { refSl s 17 with lastAt := gtNow s } s) 17 = false) := by decide +kernel

-- The NTS client
/-- A reply of stratum 1 under a key of zeros, with the identifier and timestamp of the request and no new cookie. -/
def replyUp : List Byte :=
  let m := [0x24, 1, 0, 0] ++ zeros 20 ++ beBytes 8 7 ++ zeros 16 ++ extField 0x0104 (List.replicate 32 1)
  let b := sivSeal (zeros 32) [m, zeros 16] []
  m ++ extField 0x0404 (beBytes 2 16 ++ beBytes 2 16 ++ zeros 16 ++ b.1 ++ b.2)
theorem witness_NtsClientAndTimeOfDay_reply : (let s := ntsUp (fun c => { c with uid := List.replicate 32 1, xmt := 7, s2c := zeros 32 })
    readyB s ∧ ntsSlot s 9 = true ∧ beAt replyUp 0 1 % 8 = 4 ∧ beAt replyUp 0 1 < 0xC0 ∧ beAt replyUp 24 8 = (ntsOf s 9).xmt ∧
      (0x0104, (ntsOf s 9).uid) ∈ (ntpExts 32 48 (replyUp.drop 48)).map (·.2) ∧ beAt replyUp 1 1 = 1 ∧
      (ntsOpen (ntsOf s 9).s2c replyUp).isSome = true) := by decide +kernel
theorem witness_NtsClientAndTimeOfDay_tod : (let s := ntsUp (fun c => { c with ke := true, anchors := [[1]] })
    let u := { s with tod := [(0, some (998, 5))] }
    readyB u ∧ (ntsOf u 9).anchors ≠ [] ∧ todLabel u 0 todMsg = some (1000, 8) ∧ (1000 : Int) = 998 + pulsesBetween 5 (5 + 2 * gtSecond) ∧
      (1000 : Int) ≠ 998 + pulsesBetween 5 (5 + gtSecond)) := by decide +kernel

-- Memory errors
/-- Word 5 of the key store, word 7 of domain 1 and word 0 of the frame buffer hold two flipped bits. -/
def eccTwo : State :=
  eccMark 1 7 (1 + 5 * 256 + 6) (eccMark 2 0 (1 + 5 * 256 + 6) (eccMark 9 5 (1 + 5 * 256 + 6) (withFields [(ECC_CTL, ECC_CTL_SCRUB_EN, 1)] serving)))
theorem witness_MemoryErrorsAndRepair_twice : readyB eccTwo ∧ fbit eccTwo ECC_CTL ECC_CTL_SCRUB_EN = true ∧ eccUe (eccBad eccTwo 9 5) = true ∧
    eccUe (eccBad eccTwo 1 7) = true ∧ fbit eccTwo ECC_INJECT ECC_INJECT_ARMED = false ∧ firstUe 0x20000000 64 eccTwo = some 56 ∧
    (gateMeet { gateFrame with mem := some 0 } eccTwo).1 = true ∧ (gateMeet gateFrame eccTwo).1 = false ∧
    (gateMeet { gateFrame with mem := some 64 } eccTwo).1 = false ∧ eccQuiet serving = true := by decide +kernel
theorem witness_MemoryErrorsAndRepair_keyStore : eccUe (eccBad eccTwo 9 (keyTwin 5)) = false := by
  have e : eccTwo.ecc.bad = [(1 * 2 ^ 32 + 7, 1287), (2 * 2 ^ 32, 1287), (9 * 2 ^ 32 + 5, 1287)] := by decide +kernel
  have n := keyTwin_ne 5
  have b : eccBad eccTwo 9 (keyTwin 5) = 0 := by
    unfold eccBad
    rw [e]
    simp only [mapGet]
    split
    · omega
    · split
      · omega
      · split
        · omega
        · split
          · omega
          · split
            · omega
            · split <;> rfl
  rw [b]
  rfl
end Sys2Proof.Machine
end

section
/-!
PROOFS. The statement of 04_topo_execution.md about runs that end without a disposition, and what it needs: which counters an
occurrence of an event source can raise (R488, R489), and what the end of a run leaves of its context and of the drop counters (R99, R103).
-/
namespace Sys2Proof.Proofs
open Sys2Proof Sys2Proof.Machine Sys2Proof.Laws

variable {s t : State} {id i k n ec rsn : Nat}

-- Canonical form -------------------------------------------------------------------------------------------------

theorem canonical_evc {evc : EvcState} (c : s.Canonical) : State.Canonical { s with evc := evc } :=
  (onlyReports_evc (onlyReports_refl s)).canonical c

theorem canonical_setBank {r : Nat → Nat} {b : Bool} (c : s.Canonical) : (setBank r i b s).Canonical :=
  (keeps_setBank (Keeps_refl s)).canonical c

-- Counters -------------------------------------------------------------------------------------------------------

/-- Whether or not an overflow bit is set, counting changes the 48-bit count named and no other (R487, R491). -/
theorem bumpCore_live : (bumpCore i n s).1.cnt.live = mapSet (fun _ => 0) i ((cntAt s.cnt.live i + n) % 2 ^ 48) s.cnt.live := by
  unfold bumpCore
  dsimp only
  split
  · rfl
  · split
    · rfl
    · split <;> rfl

theorem cntAt_bumpCore_same (c : s.Canonical) : cntAt (bumpCore i n s).1.cnt.live i = (cntAt s.cnt.live i + n) % 2 ^ 48 := by
  rw [bumpCore_live]
  exact mapGet_mapSet_same _ _ _ c.live

theorem cntAt_bumpCore_other (c : s.Canonical) (h : k ≠ i) : cntAt (bumpCore i n s).1.cnt.live k = cntAt s.cnt.live k := by
  rw [bumpCore_live]
  exact mapGet_mapSet_other _ _ h c.live

-- The counters of the event sources are 816 and above (R488, R489): an occurrence changes no counter below them.

theorem cntAt_occurCore (c : s.Canonical) (h : k < 816) : cntAt (occurCore id s).1.cnt.live k = cntAt s.cnt.live k := by
  have hk : k ≠ srcCounter id := by unfold srcCounter; omega
  unfold occurCore
  split
  · rfl
  · split
    · dsimp only
      split <;> rfl
    · exact cntAt_bumpCore_other (canonical_evc (canonical_setBank c)) hk

theorem cntAt_ovfRise (c : s.Canonical) (h : k < 816) : cntAt (ovfRise s).cnt.live k = cntAt s.cnt.live k := by
  unfold ovfRise
  split
  · rfl
  · exact cntAt_occurCore (canonical_evc (canonical_setBank c)) h

theorem cntAt_occur (c : s.Canonical) (h : k < 816) : cntAt (occur id s).cnt.live k = cntAt s.cnt.live k := by
  unfold occur
  dsimp only
  split
  · exact (cntAt_ovfRise ((keeps_occurCore (Keeps_refl s)).canonical c) h).trans (cntAt_occurCore c h)
  · exact cntAt_occurCore c h

theorem cntAt_raiseOnce (c : s.Canonical) (h : k < 816) : cntAt (raiseOnce id s).cnt.live k = cntAt s.cnt.live k := by
  unfold raiseOnce
  split
  · rfl
  · exact cntAt_occur (canonical_evc c) h

theorem cntAt_setLevel {b : Bool} (c : s.Canonical) (h : k < 816) : cntAt (setLevel id b s).cnt.live k = cntAt s.cnt.live k := by
  unfold setLevel
  dsimp only
  split
  · rfl
  · split
    · rfl
    · split
      · split
        · rfl
        · exact cntAt_occur (canonical_evc (canonical_setBank c)) h
      · split <;> rfl

theorem cntAt_bump_same (c : s.Canonical) (h : i < 816) : cntAt (bump i n s).cnt.live i = (cntAt s.cnt.live i + n) % 2 ^ 48 := by
  unfold bump
  dsimp only
  split
  · exact (cntAt_ovfRise ((keeps_bumpCore (Keeps_refl s)).canonical c) h).trans (cntAt_bumpCore_same c)
  · exact cntAt_bumpCore_same c

theorem cntAt_bump_other (c : s.Canonical) (h : k < 816) (hk : k ≠ i) : cntAt (bump i n s).cnt.live k = cntAt s.cnt.live k := by
  unfold bump
  dsimp only
  split
  · exact (cntAt_ovfRise ((keeps_bumpCore (Keeps_refl s)).canonical c) h).trans (cntAt_bumpCore_other c hk)
  · exact cntAt_bumpCore_other c hk

-- Contexts -------------------------------------------------------------------------------------------------------

theorem ctxOf_ctxSet_same {x : Ctx} (c : s.Canonical) : ctxOf (ctxSet ec x s) ec = x := mapGet_mapSet_same _ _ _ c.ctx

/-- A report changes no context. -/
theorem ctxOf_of_onlyReports (h : OnlyReports s t) : ctxOf t ec = ctxOf s ec := by
  change ctxOf t.bare ec = ctxOf s.bare ec
  rw [h.rest]

-- The end of a run -----------------------------------------------------------------------------------------------

theorem slotRelease_cnt {p q : Nat} : (slotRelease p q ec s).cnt = s.cnt := by
  simp only [slotRelease, gateSet, fmax, fset_keeps]
  split <;> split <;> simp

/-- A run ends: some `u` with the counts of `s` gets a free context, and after that at most the level CTX_HALTED is driven (R99). -/
theorem endRun_eq (ec : Nat) (s : State) : ∃ u, Keeps s u ∧ u.cnt = s.cnt ∧
    (endRun ec s = ctxSet ec (ctxReset 0) u ∨ ∃ b, endRun ec s = setLevel EV_PE_CTX_HALTED b (ctxSet ec (ctxReset 0) u)) := by
  unfold endRun
  extract_lets c s1 s2 s3 s4 s5
  obtain ⟨k1, h1⟩ : Keeps s s1 ∧ s1.cnt = s.cnt := by
    unfold s1
    split
    · exact ⟨keeps_slotRelease (Keeps_refl s), slotRelease_cnt⟩
    · exact ⟨Keeps_refl s, rfl⟩
  obtain ⟨k2, h2⟩ : Keeps s s2 ∧ s2.cnt = s1.cnt := by
    unfold s2
    split
    · exact ⟨keeps_fset (keeps_fset (keeps_fset k1)), rfl⟩
    · exact ⟨k1, rfl⟩
  obtain ⟨k3, h3⟩ : Keeps s s3 ∧ s3.cnt = s2.cnt := by
    unfold s3
    split
    · exact ⟨keeps_drainDown k2, rfl⟩
    · exact ⟨k2, rfl⟩
  obtain ⟨k4, h4⟩ : Keeps s s4 ∧ s4.cnt = s3.cnt := by
    unfold s4
    split
    · exact ⟨keeps_drainDown k3, rfl⟩
    · exact ⟨k3, rfl⟩
  refine ⟨s4, k4, by rw [h4, h3, h2, h1], ?_⟩
  split
  · exact .inr ⟨_, rfl⟩
  · exact .inl rfl

theorem ctxOf_endRun (c : s.Canonical) : ctxOf (endRun ec s) ec = ctxReset 0 := by
  obtain ⟨u, hu, -, h | ⟨b, h⟩⟩ := endRun_eq ec s <;> rw [h]
  · exact ctxOf_ctxSet_same (hu.canonical c)
  · exact (ctxOf_of_onlyReports (onlyReports_setLevel (by decide) (onlyReports_refl _))).trans (ctxOf_ctxSet_same (hu.canonical c))

theorem cntAt_endRun (c : s.Canonical) (h : k < 816) : cntAt (endRun ec s).cnt.live k = cntAt s.cnt.live k := by
  obtain ⟨u, hu, hcnt, e | ⟨b, e⟩⟩ := endRun_eq ec s <;> rw [e, ← hcnt]
  · rfl
  · exact cntAt_setLevel ((keeps_ctxSet (Keeps_refl u)).canonical (hu.canonical c)) h

/-- A drop: some `u` in which it is counted under its reason ends its run (R103). -/
theorem dropRun_eq {hw : Bool} (c : s.Canonical) (h : EC_DROP_RSN rsn < 816) : ∃ u, u.Canonical ∧
    cntAt u.cnt.live (EC_DROP_RSN rsn) = (cntAt s.cnt.live (EC_DROP_RSN rsn) + 1) % 2 ^ 48 ∧ dropRun ec rsn hw s = endRun ec u := by
  unfold dropRun
  extract_lets s1 s2 s3
  have c1 : s1.Canonical := (keeps_bump (Keeps_refl s)).canonical c
  have h1 : cntAt s1.cnt.live (EC_DROP_RSN rsn) = (cntAt s.cnt.live (EC_DROP_RSN rsn) + 1) % 2 ^ 48 := cntAt_bump_same c h
  obtain ⟨c2, h2⟩ : s2.Canonical ∧ cntAt s2.cnt.live (EC_DROP_RSN rsn) = cntAt s1.cnt.live (EC_DROP_RSN rsn) := by
    unfold s2
    split
    · split
      · exact ⟨(keeps_raiseOnce (Keeps_refl s1)).canonical c1, cntAt_raiseOnce c1 h⟩
      · exact ⟨c1, rfl⟩
    · exact ⟨c1, rfl⟩
  obtain ⟨c3, h3⟩ : s3.Canonical ∧ cntAt s3.cnt.live (EC_DROP_RSN rsn) = cntAt s2.cnt.live (EC_DROP_RSN rsn) := by
    unfold s3
    split
    · next hx =>
      have hne : EC_DROP_RSN rsn ≠ UC_PTP 7 := by rw [hx.2]; decide
      exact ⟨(keeps_bump (Keeps_refl s2)).canonical c2, cntAt_bump_other c2 h hne⟩
    · exact ⟨c2, rfl⟩
  exact ⟨frameFree (ctxOf s ec).desc s3, (keeps_frameFree (Keeps_refl s3)).canonical c3, (h3.trans h2).trans h1, rfl⟩

/-- A run that ends as DROP leaves its context free. -/
theorem ctxOf_dropRun {hw : Bool} (c : s.Canonical) (h : EC_DROP_RSN rsn < 816) : ctxOf (dropRun ec rsn hw s) ec = ctxReset 0 := by
  obtain ⟨u, hu, -, e⟩ := dropRun_eq c h
  rw [e, ctxOf_endRun hu]

/-- A run that ends as DROP is counted once under its reason. -/
theorem cntAt_dropRun {hw : Bool} (c : s.Canonical) (h : EC_DROP_RSN rsn < 816) :
    cntAt (dropRun ec rsn hw s).cnt.live (EC_DROP_RSN rsn) = (cntAt s.cnt.live (EC_DROP_RSN rsn) + 1) % 2 ^ 48 := by
  obtain ⟨u, hu, hcnt, e⟩ := dropRun_eq c h
  rw [e, cntAt_endRun hu h, hcnt]

-- The successor --------------------------------------------------------------------------------------------------

/-- Of a completed Pitch of a READY context COND picks the successor (R98). -/
theorem successor_due {e c p : Nat} (hst : (ctxOf s (4 * e + c)).st = 2) (hdone : (ctxOf s (4 * e + c)).done = true)
    (hp : pitchAt s (ctxOf s (4 * e + c)).bank (ctxOf s (4 * e + c)).pc = p) :
    successor e c s = goTo (4 * e + c) (if condHolds (pCond p) (ctxOf s (4 * e + c)).flags then pNextT p else pNextF p) s := by
  simp [successor, hst, hdone, hp]

/-- The successor 0xFFFF ends the run as DROP (R100). -/
theorem goTo_none : goTo ec 0xFFFF s = dropRun ec rsnNoDisposition true s := by simp [goTo]

/-- Settles O9: SUCCESSOR comes to the drop of R100, which counts under its reason and frees the context. -/
theorem noDispositionDrops : Obligations.NoDispositionDrops := by
  unfold Obligations.NoDispositionDrops
  intro e c p s hs _ _ hst hdone hp hnext hcount
  have hrun : successor e c s = dropRun (4 * e + c) rsnNoDisposition true s := by
    rw [successor_due hst hdone hp, hnext, goTo_none]
  refine ⟨successor e c s, run_ready hs, ?_, ?_⟩ <;> rw [hrun]
  · exact ctxOf_dropRun hs.canonical (by decide)
  · exact (cntAt_dropRun hs.canonical (by decide)).trans (Nat.mod_eq_of_lt hcount)

end Sys2Proof.Proofs
end

section
/-!
PROOFS. The statements of 05_pitch_encoding.md about Pitches that change nothing but their own context (R126, R131): what such a Pitch
leaves when it issues, and which flags it sets and clears.
-/
namespace Sys2Proof.Proofs
open Sys2Proof Sys2Proof.Machine Sys2Proof.Laws

variable {s t u : State} {e c op p ec i j f : Nat} {x : Ctx} {body : Nat → Nat → Ctx → State → POut}

-- Flags ----------------------------------------------------------------------------------------------------------

theorem testBit_flagSet_same {b : Bool} : (flagSet i b f).testBit i = b := by
  cases b <;> simp [flagSet]

theorem testBit_flagSet_other {b : Bool} (h : j ≠ i) : (flagSet i b f).testBit j = f.testBit j := by
  cases b <;> simp [flagSet, h.symm]

/-- The flags of a list of which `q` holds are cleared, one after the other: the clear mask of NOP. -/
def clearFlags (q : Nat → Bool) (l : List Nat) (f : Nat) : Nat := l.foldl (fun a i => if q i then flagSet i false a else a) f

theorem testBit_clearFlags (q : Nat → Bool) (l : List Nat) :
    (clearFlags q l f).testBit j = (f.testBit j && !(l.contains j && q j)) := by
  induction l generalizing f with
  | nil => simp [clearFlags]
  | cons i l ih =>
    have hstep : clearFlags q (i :: l) f = clearFlags q l (if q i then flagSet i false f else f) := rfl
    rw [hstep, ih]
    by_cases hj : j = i
    · subst hj
      cases hq : q j <;> simp [testBit_flagSet_same]
    · cases q i <;> simp [testBit_flagSet_other hj, hj]

-- One context changes --------------------------------------------------------------------------------------------

theorem onlyCtx_trans (h : OnlyCtx ec s t) (h' : OnlyCtx ec t u) : OnlyCtx ec s u := by
  obtain ⟨rest, other⟩ := h
  obtain ⟨rest', other'⟩ := h'
  refine ⟨?_, fun k hk => (other' k hk).trans (other k hk)⟩
  rw [rest', rest]

theorem onlyCtx_ctxSet (hs : s.Canonical) : OnlyCtx ec s (ctxSet ec x s) :=
  ⟨rfl, fun _ hk => mapGet_mapSet_other ctxReset x hk hs.ctx⟩

-- A Pitch issues -------------------------------------------------------------------------------------------------

/-- Where no word of memory holds an error, a read meets none. -/
theorem eccRead_clean {d w : Nat} (h : s.ecc.bad = []) : eccRead d w s = (false, s) := by
  simp [eccRead, eccBad, h, mapGet]

/-- A Pitch about to be executed is counted and does what its opcode says; results that are complete await the successor (R97, R98, R101). -/
theorem issue_ok (hs : s.Canonical) (h : Issues s e c op p)
    (hb : body (4 * e + c) p (stepped s (4 * e + c)) (ctxSet (4 * e + c) (stepped s (4 * e + c)) s) = .ok x t) :
    issue op e c body s = ctxSet (4 * e + c) { x with done := true } t := by
  obtain ⟨serves, engine, ctx, ready, due, clean, pitch, code, known, res⟩ := h
  unfold issue
  extract_lets ec y r s1 q
  have hdue : ¬ (peCount s.variant ≤ e ∨ 4 ≤ c ∨ y.st ≠ 2 ∨ y.done ∨ phase s = 5) := by
    simp [y, ec, engine, ctx, ready, due, serves]
  have hr : r = (false, s) := eccRead_clean clean
  have hs1 : s1 = ctxSet ec (stepped s ec) s := by simp only [s1, hr]; rfl
  have hq : q = p := by
    unfold q
    rw [hs1]
    exact pitch
  have hctx : ctxOf s1 ec = stepped s ec := by rw [hs1, ctxOf_ctxSet_same hs]
  rw [← hs1, ← hctx] at hb
  rw [if_neg hdue]
  simp [hr, hq, code, known, res, hb, ec]

/-- A Pitch that changes only its context: its command answers a state in which that context has changed and nothing else. -/
theorem run_issue_of_ctx (hs : s.Ready) (h : Issues s e c op p)
    (hb : ∀ v, body (4 * e + c) p (stepped s (4 * e + c)) v = .ok x v) :
    ∃ t, run (issue op e c body) s = .next t ∧ OnlyCtx (4 * e + c) s t ∧ ctxOf t (4 * e + c) = { x with done := true } := by
  have hc : (ctxSet (4 * e + c) (stepped s (4 * e + c)) s).Canonical := (keeps_ctxSet (Keeps_refl s)).canonical hs.canonical
  refine ⟨issue op e c body s, run_ready hs, ?_, ?_⟩ <;> rw [issue_ok hs.canonical h (hb _)]
  · exact onlyCtx_trans (onlyCtx_ctxSet hs.canonical) (onlyCtx_ctxSet hc)
  · exact ctxOf_ctxSet_same hc

-- NOP and IMM ----------------------------------------------------------------------------------------------------

theorem pNop_eq : pNop ec p x s =
    .ok { x with flags := clearFlags (fun i => pb p (64 + i - 8)) [fOOB, fLATE, fOVER, fAUTHF, fBAD] x.flags } s := rfl

theorem pImm_lt : pImm p < 2 ^ 64 := Nat.mod_lt _ (by decide)

theorem pImmOp_eq : pImmOp ec p x s = .ok { x with w := x.w.set (pWd p) (pImm p) } s := by
  simp only [pImmOp, wSet, Nat.mod_eq_of_lt pImm_lt]

/-- Settles O8: both Pitches change only their context; NOP's flags are those its clear mask leaves, and IMM is 64 bits wide. -/
theorem nopClearsAndImmWrites : Obligations.NopClearsAndImmWrites := by
  unfold Obligations.NopClearsAndImmWrites
  intro e c p s hs
  constructor
  · intro h
    obtain ⟨t, hrun, honly, ht⟩ := run_issue_of_ctx hs h (fun _ => pNop_eq)
    have hflags (j : Nat) := (congrArg (·.flags.testBit j) ht).trans (testBit_clearFlags _ _)
    refine ⟨t, hrun, honly, by rw [ht], ?_, ?_⟩
    · intro f k hk
      rw [hflags]
      simp only [List.mem_cons, Prod.mk.injEq, List.not_mem_nil, or_false] at hk
      obtain ⟨rfl, rfl⟩ | ⟨rfl, rfl⟩ | ⟨rfl, rfl⟩ | ⟨rfl, rfl⟩ | ⟨rfl, rfl⟩ := hk <;> rfl
    · intro j hj
      rw [hflags, List.contains_eq_mem, decide_eq_false hj]
      simp [stepped]
  · intro h
    obtain ⟨t, hrun, honly, ht⟩ := run_issue_of_ctx hs h (fun _ => pImmOp_eq)
    exact ⟨t, hrun, honly, ht⟩

-- TESTB ----------------------------------------------------------------------------------------------------------

theorem pTestb_eq : pTestb ec p x s = .ok (cFlag fBIT (testBits (pb p 64) (wOf x (pWa p)) (pImm p)) x) s := rfl

theorem testBits_any {a m : Nat} : testBits false a m = true ↔ a &&& m ≠ 0 := by simp [testBits]

theorem testBits_all {a m : Nat} : testBits true a m = true ↔ a &&& m = m := by simp [testBits]

/-- Settles O7: TESTB changes only its context, and BIT in it is what the mask test answers. -/
theorem testbSetsBit : Obligations.TestbSetsBit := by
  unfold Obligations.TestbSetsBit
  intro e c p s hs h
  obtain ⟨t, hrun, honly, ht⟩ := run_issue_of_ctx hs h (fun _ => pTestb_eq)
  have hbit : (ctxOf t (4 * e + c)).flags.testBit fBIT = testBits (pb p 64) (wOf (ctxOf s (4 * e + c)) (pWa p)) (pImm p) := by
    rw [ht]
    exact testBit_flagSet_same
  refine ⟨t, hrun, fun hall => ?_, fun hall => ?_, honly⟩ <;> rw [hbit, hall]
  · exact testBits_any
  · exact testBits_all

end Sys2Proof.Proofs
end
